-- ==== Sys2Proof/Word.lean ====
section
/-! DEFINITION. The word types of the FX9 and their plainest arithmetic (R7, R11, R16). -/

namespace Sys2Proof

/-- A byte of memory. -/
abbrev Byte := BitVec 8

/-- A 32-bit register or instruction word (R11, R16). -/
abbrev Word := BitVec 32

/-- A 64-bit value: an even-odd register pair, an address or an MMIO register (R11). -/
abbrev DWord := BitVec 64

/-- The value of an even-odd pair: the even register holds bits [31:0] (R11). -/
def pairOf (lo hi : Word) : DWord := hi ++ lo

/-- The even register's half of a 64-bit value (R11). -/
def loWord (x : DWord) : Word := x.extractLsb' 0 32

/-- The odd register's half of a 64-bit value (R11). -/
def hiWord (x : DWord) : Word := x.extractLsb' 32 32

end Sys2Proof
end

