-- ==== Sys2Proof/Syntax.lean ====
section
/-! DEFINITION. The instructions and events of the part: one constructor of `Instr` for each row of the opcode
table, and the operand types that the fields of the formats decode to (R18 to R49). -/

namespace Sys2Proof

/-- A 7-bit register field: v0–v127, or s0–s63 where the instruction gives the field as scalar (R18). -/
abbrev Reg := BitVec 7

/-- A 6-bit scalar register field of formats E and F: s0–s63 (R24, R25). -/
abbrev SReg := BitVec 6

/-- An array descriptor a0–a15 (R11). -/
abbrev DescNo := BitVec 4

/-- An arrival counter c0–c15 (R11). -/
abbrev CtrNo := BitVec 4

/-- The kind of a register operand: vector or scalar (R18). -/
inductive Kind where
  | vec
  | scal
  deriving DecidableEq, Repr

/-- The shape field of format A (R20): all vector, B scalar, or all scalar. -/
inductive ShA where
  | vvv
  | vvs
  | sss
  deriving DecidableEq, Repr

/-- The shape field of format W (R27): all vector, B scalar, B and C scalar, or all scalar. -/
inductive ShW where
  | vvv
  | vvs
  | vss
  | sss
  deriving DecidableEq, Repr

/-- A flush field of PR (R34): as FPC, flush, or do not flush. -/
inductive Flush where
  | asFpc
  | on
  | off
  deriving DecidableEq, Repr

/-- The rounding field of PR (R34). -/
inductive PrRound where
  | asFpc
  | rne
  | rtz
  | rdn
  | rup
  deriving DecidableEq, Repr

/-- The type codes of the T fields of formats L and W (R28), in code order. -/
inductive Ty where
  | i32 | n32 | b32 | f32 | i64 | n64 | b64 | f64
  | i16 | n16 | b16 | f16 | bf16 | i8 | n8 | b8
  | e4m3 | e5m2 | f16x2 | bf16x2 | e4m3x4 | e5m2x4 | i8x4 | q4g32
  | q4g64 | q4g128 | q8g32 | q8g64 | q8g128
  deriving DecidableEq, Repr

/-- The conditions of the Cnd field (R31). -/
inductive Cond where
  | eq | ne | lt | ge | le | gt | ltn | gen | len | gtn
  deriving DecidableEq, Repr

/-- The conditions of FCMP (R288). -/
inductive FCond where
  | eq | ne | lt | ge | le | gt | un | ord
  deriving DecidableEq, Repr

/-- The access mode of formats D and M (R23): D and Ix vector; D vector and Ix scalar plus the lane number;
D and Ix scalar. -/
inductive Md where
  | vv
  | vs
  | ss
  deriving DecidableEq, Repr

/-- The cache hint Hn (R29, R179). -/
inductive Hint where
  | normal
  | streaming
  | keep
  | noAlloc
  deriving DecidableEq, Repr

/-- The members of the integer group, major 0x08, that INTEGER_GROUP names (R279): all but BFX. -/
inductive IntFn where
  | add | sub | mul | mulh | div | rem | min | max | and | or | xor | andn
  | shl | shr | sra | rot | abs | neg | clz | ctz | popc | brev
  deriving DecidableEq, Repr

/-- The members of the floating group, major 0x09 (R289). -/
inductive FloatFn where
  | fadd | fsub | fmul | fmin | fmax | fdiv | fsqrt | frnd | fclass
  deriving DecidableEq, Repr

/-- The members of the special-function group, major 0x0D (R289). -/
inductive SpecFn where
  | frcp | frsq | fexp2 | flog2 | fsin | fcos | ftanh
  deriving DecidableEq, Repr

/-- The forms of VOTE (R367). -/
inductive VoteOp where
  | any
  | all
  | ballot
  deriving DecidableEq, Repr

/-- The register forms of SHFL (R369). -/
inductive ShflOp where
  | idx
  | up
  | down
  | xor
  deriving DecidableEq, Repr

/-- The operations of RED and SCAN (R368). -/
inductive LaneOp where
  | add
  | min
  | max
  deriving DecidableEq, Repr

/-- The atomic operations of R191, in Fn order. -/
inductive AtomFn where
  | add | min | max | minn | maxn | and | or | xor | exch | cas | fadd | fmin | fmax | fma
  deriving DecidableEq, Repr

/-- The field that ADGET reads (R249). -/
inductive AdField where
  | base
  | ext
  | attr
  deriving DecidableEq, Repr

/-- The place operand of MIG and PLC (R141, R145): auto, HBM4E, LPDDR 6 or CXL. -/
inductive Tier where
  | auto
  | hbm
  | lpddr
  | cxl
  deriving DecidableEq, Repr

/-- The kind of an accumulator tile (R321). -/
inductive AccKind where
  | f32
  | i32
  | f64
  deriving DecidableEq, Repr

/-- The forms of ACLD and ACST (R322): through a descriptor, or through a block of vector registers. -/
inductive AcForm where
  | mem (aa : DescNo)
  | regs
  deriving DecidableEq, Repr

/-- What MSTAT snapshots (R323). -/
inductive MstatSel where
  | acc (tile : BitVec 6)
  | ob (h : BitVec 4)
  | eng
  deriving DecidableEq, Repr

/-- What SCLOSE closes (R223). -/
inductive StreamSel where
  | one (q : BitVec 2)
  | all
  deriving DecidableEq, Repr

/-- The compact opcodes of a pair word (R44). -/
inductive Cop where
  | fadd | fsub | fmul | fmin | fmax | paddF16x2 | pmulF16x2 | paddBf16x2 | pmulBf16x2
  | add | sub | mul | minI | maxI | minN | maxN | shl | shr | sra
  | and | or | xor | andn | mov
  deriving DecidableEq, Repr

/-- One compact operation of a pair word (R43). -/
structure Compact where
  bs : Bool
  b : Reg
  a : Reg
  d : Reg
  cop : Cop
  deriving DecidableEq, Repr

/-- The instructions and events of the FX9, one constructor per row of the opcode table. Instruction words
reach the machine through `Decode`; the events are steps of the part's other units, and their numbers name the
unit or the record they act on. -/
inductive Instr where
  /-- PR (R34). -/
  | pr (xe : BitVec 5) (xo : Bool) (fzr fzo : Flush) (sat : Bool) (rm : PrRound)
  /-- PN (R37). -/
  | pn (sc sb sa sd : BitVec 3) (cnt : BitVec 6)
  /-- PAIR_WORD (R46). -/
  | pairWord (op0 op1 : Compact)
  /-- BRK (R407). -/
  | brk (n : BitVec 12)
  /-- TRAP (R407). -/
  | trap (n : BitVec 12)
  /-- CSRR (R408). -/
  | csrr (d : SReg) (csr : BitVec 12)
  /-- CSRW (R408). -/
  | csrw (csr : BitVec 12) (s : SReg)
  /-- CSRS (R408). -/
  | csrs (csr : BitVec 12) (s : SReg)
  /-- CSRC (R408). -/
  | csrc (csr : BitVec 12) (s : SReg)
  /-- RDTIME (R408). -/
  | rdtime (d : SReg)
  /-- GWID_PACK (R370). -/
  | gwidPack (d : SReg)
  /-- GWID_WIDTH (R370). -/
  | gwidWidth (d : SReg)
  /-- GWID_LIVE (R370). -/
  | gwidLive (d : SReg)
  /-- GWID_SLICES (R370). -/
  | gwidSlices (d : SReg)
  /-- GWID_SLOT (R370). -/
  | gwidSlot (d : SReg)
  /-- VGROW (R391). -/
  | vgrow (nvq : BitVec 5) (nsq : BitVec 4)
  /-- VSHRINK (R391). -/
  | vshrink (nvq : BitVec 5) (nsq : BitVec 4)
  /-- B (R363). -/
  | b (off : BitVec 22)
  /-- CALL (R363). -/
  | call (off : BitVec 22)
  /-- JR (R363). -/
  | jr (e : SReg)
  /-- JR_L (R363). -/
  | jrL (e : SReg)
  /-- WAIT (R175). -/
  | wait (c : CtrNo) (k : BitVec 16)
  /-- WAIT_REG (R175). -/
  | waitReg (c : CtrNo) (s : SReg)
  /-- CSET (R175). -/
  | cset (c : CtrNo) (k : BitVec 16)
  /-- CSET_REG (R175). -/
  | csetReg (c : CtrNo) (s : SReg)
  /-- CGET (R175). -/
  | cget (d : SReg) (c : CtrNo)
  /-- BAR (R372). -/
  | bar (n : BitVec 4)
  /-- BAR_TX (R372). -/
  | barTx (n : BitVec 4) (k : BitVec 16)
  /-- BAR_TX_REG (R372). -/
  | barTxReg (n : BitVec 4) (s : SReg)
  /-- ADD (R279). -/
  | add (sh : ShA) (d a b : Reg)
  /-- SUB (R279). -/
  | sub (sh : ShA) (d a b : Reg)
  /-- MUL (R279). -/
  | mul (sh : ShA) (d a b : Reg)
  /-- MULH (R279). -/
  | mulh (sh : ShA) (d a b : Reg)
  /-- DIV (R281). -/
  | div (sh : ShA) (d a b : Reg)
  /-- REM (R281). -/
  | rem (sh : ShA) (d a b : Reg)
  /-- MIN (R279). -/
  | min (sh : ShA) (d a b : Reg)
  /-- MAX (R279). -/
  | max (sh : ShA) (d a b : Reg)
  /-- AND (R279). -/
  | and (sh : ShA) (d a b : Reg)
  /-- OR (R279). -/
  | or (sh : ShA) (d a b : Reg)
  /-- XOR (R279). -/
  | xor (sh : ShA) (d a b : Reg)
  /-- ANDN (R279). -/
  | andn (sh : ShA) (d a b : Reg)
  /-- SHL (R279). -/
  | shl (sh : ShA) (d a b : Reg)
  /-- SHR (R279). -/
  | shr (sh : ShA) (d a b : Reg)
  /-- SRA (R279). -/
  | sra (sh : ShA) (d a b : Reg)
  /-- ROT (R279). -/
  | rot (sh : ShA) (d a b : Reg)
  /-- ABS (R279). -/
  | abs (k : Kind) (d a : Reg)
  /-- NEG (R279). -/
  | neg (k : Kind) (d a : Reg)
  /-- CLZ (R279). -/
  | clz (k : Kind) (d a : Reg)
  /-- CTZ (R279). -/
  | ctz (k : Kind) (d a : Reg)
  /-- POPC (R279). -/
  | popc (k : Kind) (d a : Reg)
  /-- BREV (R279). -/
  | brev (k : Kind) (d a : Reg)
  /-- MOV (R285). -/
  | mov (k : Kind) (d a : Reg)
  /-- MOVS (R285). -/
  | movs (d b : Reg)
  /-- EXT_GET (R285). -/
  | extGet (d a b : Reg)
  /-- EXT_PUT (R285). -/
  | extPut (d a b : Reg)
  /-- IGET (R252). -/
  | iget (k : Kind) (d a : Reg)
  /-- ITOP (R252). -/
  | itop (k : Kind) (d : Reg)
  /-- VOTE (R367). -/
  | vote (f : VoteOp) (d a : Reg)
  /-- SHFL (R369). -/
  | shfl (f : ShflOp) (d a b : Reg)
  /-- RED (R368). -/
  | red (f : LaneOp) (d a : Reg)
  /-- SCAN (R368). -/
  | scan (f : LaneOp) (d a : Reg)
  /-- ADD_IMM8 (R279). -/
  | addImm8 (k : Kind) (d a : Reg) (imm : BitVec 8)
  /-- AND_IMM8 (R279). -/
  | andImm8 (k : Kind) (d a : Reg) (imm : BitVec 8)
  /-- OR_IMM8 (R279). -/
  | orImm8 (k : Kind) (d a : Reg) (imm : BitVec 8)
  /-- XOR_IMM8 (R279). -/
  | xorImm8 (k : Kind) (d a : Reg) (imm : BitVec 8)
  /-- SHL_IMM (R279). -/
  | shlImm (k : Kind) (d a : Reg) (imm : BitVec 5)
  /-- SHR_IMM (R279). -/
  | shrImm (k : Kind) (d a : Reg) (imm : BitVec 5)
  /-- SRA_IMM (R279). -/
  | sraImm (k : Kind) (d a : Reg) (imm : BitVec 5)
  /-- ROT_IMM (R279). -/
  | rotImm (k : Kind) (d a : Reg) (imm : BitVec 5)
  /-- MIN_IMM (R279). -/
  | minImm (k : Kind) (d a : Reg) (imm : BitVec 8)
  /-- MAX_IMM (R279). -/
  | maxImm (k : Kind) (d a : Reg) (imm : BitVec 8)
  /-- LI (R283). -/
  | li (k : Kind) (d : Reg) (imm : BitVec 8)
  /-- SHFL_IMM (R369). -/
  | shflImm (d a : Reg) (imm : BitVec 8)
  /-- SHFL_XOR_IMM (R369). -/
  | shflXorImm (d a : Reg) (m : BitVec 7)
  /-- WIDR (R371). -/
  | widr (k : Kind) (d : Reg) (imm : BitVec 8)
  /-- RDFLG (R298). -/
  | rdflg (k : Kind) (d : Reg) (mask : BitVec 5)
  /-- CLFLG (R298). -/
  | clflg (k : Kind) (mask : BitVec 5)
  /-- FADD (R289). -/
  | fadd (sh : ShA) (d a b : Reg)
  /-- FSUB (R289). -/
  | fsub (sh : ShA) (d a b : Reg)
  /-- FMUL (R289). -/
  | fmul (sh : ShA) (d a b : Reg)
  /-- FMIN (R290). -/
  | fmin (sh : ShA) (d a b : Reg)
  /-- FMAX (R290). -/
  | fmax (sh : ShA) (d a b : Reg)
  /-- FDIV (R289). -/
  | fdiv (sh : ShA) (d a b : Reg)
  /-- FSQRT (R291). -/
  | fsqrt (k : Kind) (d a : Reg)
  /-- FRCP (R291). -/
  | frcp (k : Kind) (d a : Reg)
  /-- FRSQ (R291). -/
  | frsq (k : Kind) (d a : Reg)
  /-- FEXP2 (R291). -/
  | fexp2 (k : Kind) (d a : Reg)
  /-- FLOG2 (R291). -/
  | flog2 (k : Kind) (d a : Reg)
  /-- FSIN (R291). -/
  | fsin (k : Kind) (d a : Reg)
  /-- FCOS (R291). -/
  | fcos (k : Kind) (d a : Reg)
  /-- FTANH (R291). -/
  | ftanh (k : Kind) (d a : Reg)
  /-- FRND (R290). -/
  | frnd (k : Kind) (d a : Reg)
  /-- FCLASS (R290). -/
  | fclass (k : Kind) (d a : Reg)
  /-- LD (R190). -/
  | ld (md : Md) (d : Reg) (ad : DescNo) (ix : BitVec 6) (dsp : BitVec 2) (cn : BitVec 2)
  /-- ST (R190). -/
  | st (md : Md) (d : Reg) (ad : DescNo) (ix : BitVec 6) (dsp : BitVec 2) (cn : BitVec 2)
  /-- LDG (R190). -/
  | ldg (md : Md) (d : Reg) (ad : DescNo) (ix : BitVec 6) (dsp : BitVec 2) (cn : BitVec 2)
  /-- STG (R190). -/
  | stg (md : Md) (d : Reg) (ad : DescNo) (ix : BitVec 6) (dsp : BitVec 2) (cn : BitVec 2)
  /-- PF (R190). -/
  | pf (md : Md) (ad : DescNo) (ix : BitVec 6) (dsp : BitVec 2) (cn : BitVec 2)
  /-- LI_IMM32 (R283). -/
  | liImm32 (t : Ty) (k : Kind) (d : Reg) (imm : BitVec 32)
  /-- ADD_IMM32 (R283). -/
  | addImm32 (t : Ty) (k : Kind) (d a : Reg) (imm : BitVec 32)
  /-- AND_IMM32 (R283). -/
  | andImm32 (t : Ty) (k : Kind) (d a : Reg) (imm : BitVec 32)
  /-- OR_IMM32 (R283). -/
  | orImm32 (t : Ty) (k : Kind) (d a : Reg) (imm : BitVec 32)
  /-- XOR_IMM32 (R283). -/
  | xorImm32 (t : Ty) (k : Kind) (d a : Reg) (imm : BitVec 32)
  /-- CMP (R287). -/
  | cmp (c : Cond) (t : Ty) (sh : ShW) (d a b : Reg)
  /-- FCMP (R288). -/
  | fcmp (c : FCond) (t : Ty) (sh : ShW) (d a b : Reg)
  /-- INTEGER_GROUP (R279). -/
  | integerGroup (f : IntFn) (t : Ty) (sh : ShW) (d a b : Reg)
  /-- BFX (R282). -/
  | bfx (t : Ty) (sh : ShW) (d a b : Reg)
  /-- FLOATING_GROUP (R289). -/
  | floatingGroup (f : FloatFn) (t : Ty) (sh : ShW) (d a b : Reg)
  /-- SPECIAL_FUNCTION_GROUP (R289). -/
  | specialFunctionGroup (f : SpecFn) (t : Ty) (k : Kind) (d a : Reg)
  /-- PADD (R294). -/
  | padd (t : Ty) (sh : ShW) (d a b : Reg)
  /-- PMUL (R294). -/
  | pmul (t : Ty) (sh : ShW) (d a b : Reg)
  /-- PFMA (R294). -/
  | pfma (t : Ty) (sh : ShW) (d a b c : Reg)
  /-- PDOT (R295). -/
  | pdot (t : Ty) (sh : ShW) (d a b c : Reg)
  /-- QCVT (R296). -/
  | qcvt (t : Ty) (sh : ShW) (d a b c : Reg)
  /-- DQCVT (R297). -/
  | dqcvt (t : Ty) (sh : ShW) (d a b c : Reg)
  /-- FCVT (R293). -/
  | fcvt (dst src : Ty) (sh : ShW) (d a c : Reg)
  /-- FCVTI (R293). -/
  | fcvti (dst src : Ty) (k : Kind) (d a : Reg)
  /-- ICVTF (R293). -/
  | icvtf (dst src : Ty) (k : Kind) (d a : Reg)
  /-- CVT (R293). -/
  | cvt (dst src : Ty) (k : Kind) (d a : Reg)
  /-- FFMA (R286). -/
  | ffma (t : Ty) (sh : ShW) (d a b c : Reg)
  /-- MAD (R286). -/
  | mad (t : Ty) (sh : ShW) (d a b c : Reg)
  /-- CLAMP (R286). -/
  | clamp (t : Ty) (sh : ShW) (d a b c : Reg)
  /-- SEL (R286). -/
  | sel (t : Ty) (sh : ShW) (d a b c : Reg)
  /-- BFI (R282). -/
  | bfi (t : Ty) (sh : ShW) (d a b c : Reg)
  /-- BC (R364). -/
  | bc (c : Cond) (bi : Bool) (a b : Reg) (off : BitVec 20)
  /-- LOOP (R364). -/
  | loop (c : Cond) (bi : Bool) (a b : Reg) (off : BitVec 20)
  /-- VB (R365). -/
  | vb (c : Cond) (bi : Bool) (a b : Reg) (off : BitVec 20) (jn : BitVec 12)
  /-- LD_LONG (R190). -/
  | ldLong (sx : Bool) (hn : Hint) (md : Md) (d : Reg) (ad : DescNo) (ix : Reg) (disp : BitVec 20) (cn : CtrNo)
  /-- ST_LONG (R190). -/
  | stLong (hn : Hint) (md : Md) (d : Reg) (ad : DescNo) (ix : Reg) (disp : BitVec 20) (cn : CtrNo)
  /-- LDG_LONG (R190). -/
  | ldgLong (sx : Bool) (hn : Hint) (md : Md) (d : Reg) (ad : DescNo) (ix : Reg) (disp : BitVec 20) (cn : CtrNo)
  /-- STG_LONG (R190). -/
  | stgLong (hn : Hint) (md : Md) (d : Reg) (ad : DescNo) (ix : Reg) (disp : BitVec 20) (cn : CtrNo)
  /-- PF_LONG (R190). -/
  | pfLong (hn : Hint) (md : Md) (ad : DescNo) (ix : Reg) (disp : BitVec 20) (cn : CtrNo)
  /-- ATOM (R192). -/
  | atom (f : AtomFn) (hn : Hint) (md : Md) (d : Reg) (ad : DescNo) (ix : Reg) (disp : BitVec 20) (cn : CtrNo)
  /-- BATOM (R193). -/
  | batom (f : AtomFn) (hn : Hint) (md : Md) (d : Reg) (ad : DescNo) (ix : Reg) (disp : BitVec 20) (cn : CtrNo)
  /-- LD_SH (R253). -/
  | ldSh (hn : Hint) (md : Md) (d : Reg) (ad : DescNo) (ix : Reg) (disp : BitVec 20) (cn : CtrNo)
  /-- ST_SH (R253). -/
  | stSh (hn : Hint) (md : Md) (d : Reg) (ad : DescNo) (ix : Reg) (disp : BitVec 20) (cn : CtrNo)
  /-- ADLD (R250). -/
  | adld (hn : Hint) (d ad : DescNo) (ix : Reg) (disp : BitVec 20) (cn : CtrNo)
  /-- ADST (R250). -/
  | adst (hn : Hint) (d ad : DescNo) (ix : Reg) (disp : BitVec 20) (cn : CtrNo)
  /-- BRDO_INIT (R196). -/
  | brdoInit (e : Reg) (ty : BitVec 2) (n : BitVec 12) (cn : CtrNo)
  /-- BRDO_ADD (R196). -/
  | brdoAdd (v e k : Reg) (cn : CtrNo)
  /-- BRDO_ADDV (R196). -/
  | brdoAddv (v e k : Reg) (cn : CtrNo)
  /-- BRDO_RD (R196). -/
  | brdoRd (d e st : Reg) (cn : CtrNo)
  /-- BARX_INIT (R197). -/
  | barxInit (e : Reg) (n : BitVec 16) (cn : CtrNo)
  /-- BARX_ARR (R197). -/
  | barxArr (d e : Reg) (cn : CtrNo)
  /-- BARX_TX (R197). -/
  | barxTx (e b : Reg) (cn : CtrNo)
  /-- BARX_DONE (R197). -/
  | barxDone (e b : Reg) (cn : CtrNo)
  /-- BARX_ARRTX (R197). -/
  | barxArrtx (d e b : Reg) (cn : CtrNo)
  /-- BARX_RD (R197). -/
  | barxRd (d e : Reg) (cn : CtrNo)
  /-- ADSET (R248). -/
  | adset (aa : DescNo) (e : Reg) (attr : BitVec 32)
  /-- ADSET_R (R248). -/
  | adsetR (aa : DescNo) (e : Reg)
  /-- ADGET (R249). -/
  | adget (f : AdField) (d : Reg) (aa : DescNo)
  /-- IWDN (R251). -/
  | iwdn (k : Kind) (d b c : Reg)
  /-- ISET (R251). -/
  | iset (k : Kind) (d b c : Reg)
  /-- TLBINV_PAGE (R114). -/
  | tlbinvPage (e : Reg) (n : BitVec 20) (cn : CtrNo)
  /-- TLBINV_CTX (R114). -/
  | tlbinvCtx (cn : CtrNo)
  /-- TLBINV_ASID (R114). -/
  | tlbinvAsid (e : Reg) (cn : CtrNo)
  /-- TLBINV_ALL (R114). -/
  | tlbinvAll (cn : CtrNo)
  /-- PGMAP_FT (R115). -/
  | pgmapFt (e : Reg) (cn : CtrNo)
  /-- PGMAP_VA (R115). -/
  | pgmapVa (e k : Reg) (cn : CtrNo)
  /-- PGQRY (R116). -/
  | pgqry (k : Kind) (d e : Reg) (cn : CtrNo)
  /-- MIG_TO (R141). -/
  | migTo (t : Bool) (tier : Tier) (stk : BitVec 3) (d e : Reg) (cn : CtrNo)
  /-- MIG_FRAME (R141). -/
  | migFrame (t : Bool) (f d e : Reg) (cn : CtrNo)
  /-- MIG_CANCEL (R141). -/
  | migCancel (d e : Reg) (cn : CtrNo)
  /-- PIN (R143). -/
  | pin (d e : Reg) (n : BitVec 20) (cn : CtrNo)
  /-- UNPIN (R143). -/
  | unpin (d e : Reg) (n : BitVec 20) (cn : CtrNo)
  /-- HOT_RD (R144). -/
  | hotRd (d e : Reg) (cn : CtrNo)
  /-- HOT_CLR (R144). -/
  | hotClr (e : Reg) (cn : CtrNo)
  /-- PLC (R145). -/
  | plc (tier : Tier) (stk : BitVec 3) (e : Reg) (n : BitVec 20) (cn : CtrNo)
  /-- PLC_MOVE (R145). -/
  | plcMove (tier : Tier) (stk : BitVec 3) (e : Reg) (n : BitVec 20) (cn : CtrNo)
  /-- TREG (R161). -/
  | treg (d e : Reg) (id : BitVec 12) (cn : CtrNo)
  /-- TUNREG (R165). -/
  | tunreg (e : Reg) (aa : DescNo) (cn : CtrNo)
  /-- TLD (R162). -/
  | tld (na : Bool) (o : Reg) (aa : DescNo) (e : Reg) (pitch : BitVec 16) (cn : CtrNo)
  /-- TST (R162). -/
  | tst (wt : Bool) (o : Reg) (aa : DescNo) (e : Reg) (pitch : BitVec 16) (cn : CtrNo)
  /-- TPF (R164). -/
  | tpf (c : Bool) (aa : DescNo) (e : Reg) (dist : BitVec 4) (mask : BitVec 8) (cn : CtrNo)
  /-- THALO (R163). -/
  | thalo (clamp pf : Bool) (o : Reg) (aa : DescNo) (e : Reg) (hr hc : BitVec 4) (pitch : BitVec 16) (cn : CtrNo)
  /-- TINV (R165). -/
  | tinv (discard : Bool) (e : Reg) (aa : DescNo) (cn : CtrNo)
  /-- TQRY (R166). -/
  | tqry (d : Reg) (aa : DescNo) (e : Reg) (cn : CtrNo)
  /-- CPY (R215). -/
  | cpy (bt : BitVec 5) (hv : Bool) (d : Reg) (aa ab : DescNo) (e : Reg) (cn : CtrNo)
  /-- CPYB (R213). -/
  | cpyb (bt : BitVec 5) (hv : Bool) (d : Reg) (aa ab : DescNo) (e : Reg) (cn : CtrNo)
  /-- CLOSE (R216). -/
  | close (e : Reg) (cn : CtrNo)
  /-- JOB (R217). -/
  | job (hv : Bool) (d e : Reg) (cn : CtrNo)
  /-- JST (R218). -/
  | jst (d e : Reg) (cn : CtrNo)
  /-- MVN (R224). -/
  | mvn (fmt : BitVec 4) (fb : Bool) (bt : BitVec 5) (hv : Bool) (d : Reg) (aa ab : DescNo) (e : Reg) (cn : CtrNo)
  /-- STRM (R220). -/
  | strm (q : BitVec 2) (aa : DescNo) (e : Reg) (sx : Bool) (hn : Hint) (depth : BitVec 2) (cn : CtrNo)
  /-- SCLOSE (R223). -/
  | sclose (q : StreamSel) (cn : CtrNo)
  /-- OBRES (R316). -/
  | obres (fmt : BitVec 4) (gc : BitVec 2) (h : BitVec 4) (d e : Reg)
  /-- OBREL (R317). -/
  | obrel (h : BitVec 4) (cn : CtrNo)
  /-- OBLD (R318). -/
  | obld (len : BitVec 16) (h : BitVec 4) (aa : DescNo) (e : Reg) (cn : CtrNo)
  /-- OBLD_REC (R318). -/
  | obldRec (len : BitVec 16) (h : BitVec 4) (aa : DescNo) (e : Reg) (cn : CtrNo)
  /-- MMA (R319). -/
  | mma (ua ub : Bool) (tile : BitVec 6) (hb ha : BitVec 4) (e : Reg) (cn : CtrNo)
  /-- MLOOP (R319). -/
  | mloop (ua ub : Bool) (tile : BitVec 6) (hb ha : BitVec 4) (e : Reg) (cn : CtrNo)
  /-- ACZ (R321). -/
  | acz (kind : AccKind) (tile : BitVec 6) (cn : CtrNo)
  /-- ACZ_REL (R321). -/
  | aczRel (tile : BitVec 6) (cn : CtrNo)
  /-- ACLD (R322). -/
  | acld (form : AcForm) (tile : BitVec 6) (e : Reg) (cn : CtrNo)
  /-- ACST (R322). -/
  | acst (form : AcForm) (tile : BitVec 6) (e : Reg) (cn : CtrNo)
  /-- MSTAT (R323). -/
  | mstat (f : MstatSel) (d : Reg) (cn : CtrNo)
  /-- PUT (R343). -/
  | put (w tw : BitVec 6) (aa : DescNo) (e : Reg) (cn : CtrNo)
  /-- WREG (R342). -/
  | wreg (d : Reg) (w : BitVec 6) (e : Reg) (cn : CtrNo)
  /-- WREG_REL (R342). -/
  | wregRel (d : Reg) (w : BitVec 6) (cn : CtrNo)
  /-- WCTR (R344). -/
  | wctr (land : Bool) (d : Reg) (w : BitVec 6)
  /-- WWAIT (R345). -/
  | wwait (land : Bool) (w : BitVec 6) (e : Reg)
  /-- FORK (R393). -/
  | fork (e : Reg) (cn : CtrNo)
  /-- WAIT_COMPLETE (R401), an event. -/
  | waitComplete (g slot : Nat)
  /-- WAITER_PLACE_FREED (R188), an event. -/
  | waiterPlaceFreed (n : Nat)
  /-- SWEEP_COMPLETE (R165), an event. -/
  | sweepComplete (n : Nat)
  /-- STREAM_RUN_AHEAD (R220), an event. -/
  | streamRunAhead (g q : Nat)
  /-- JOB_DISPATCH (R203), an event. -/
  | jobDispatch (die : Nat)
  /-- JOB_COMPLETE (R205), an event. -/
  | jobComplete (die entry : Nat)
  /-- HINT_SERVED (R207), an event. -/
  | hintServed (die : Nat)
  /-- RESERVATION_GRANTED (R66), an event. -/
  | reservationGranted (n : Nat)
  /-- RESERVATION_TIMEOUT (R66), an event. -/
  | reservationTimeout (n : Nat)
  /-- DEFERRED_MOVE_START (R225), an event. -/
  | deferredMoveStart (n : Nat)
  /-- MATRIX_COMMAND (R302), an event. -/
  | matrixCommand (core : Nat)
  /-- MATRIX_WATCHDOG (R325), an event. -/
  | matrixWatchdog (core : Nat)
  /-- WWAIT_TIMEOUT (R345), an event. -/
  | wwaitTimeout (g slot : Nat)
  /-- PACKET_LANDING (R337), an event. -/
  | packetLanding (n : Nat)
  /-- PACKET_TIMEOUT (R340), an event. -/
  | packetTimeout (n : Nat)
  /-- DATA_LANDING (R174), an event. -/
  | dataLanding (g n : Nat)
  /-- ARRIVE (R171), an event. -/
  | arrive (g ctr : Nat)
  /-- BARRIER_TIMEOUT (R373), an event. -/
  | barrierTimeout (g slot : Nat)
  /-- GANG_END (R370), an event. -/
  | gangEnd (g : Nat)
  /-- RECALL_COMPLETE (R125), an event. -/
  | recallComplete (r : Nat)
  /-- COPY_READ_DATA (R128), an event. -/
  | copyReadData (r : Nat)
  /-- LINE_ACCEPTED (R128), an event. -/
  | lineAccepted (r : Nat)
  /-- PORT_CLOSE (R130), an event. -/
  | portClose (r : Nat)
  /-- SOURCE_FRAME_RELEASE (R130), an event. -/
  | sourceFrameRelease (r : Nat)
  /-- REVERSE_LINE_ACCEPTED (R133), an event. -/
  | reverseLineAccepted (r : Nat)
  /-- REFRESH_DUE (R68), an event. -/
  | refreshDue (stack pc bank : Nat)
  /-- REFPB_ISSUE (R68), an event. -/
  | refpbIssue (stack pc : Nat)
  /-- REFRESH_BURST_END (R69), an event. -/
  | refreshBurstEnd (stack pc : Nat)
  /-- WRITE_QUEUE_DRAIN (R62), an event. -/
  | writeQueueDrain (block pc : Nat)
  /-- RETENTION_ENTRY (R189), an event. -/
  | retentionEntry (unit : Nat)
  /-- TEAM_DISPATCH (R384), an event. -/
  | teamDispatch (launch : Nat)
  /-- LAUNCH_PACKET_READ (R382), an event. -/
  | launchPacketRead (q : Nat)
  /-- CODE_LINES_PUSHED (R388), an event. -/
  | codeLinesPushed (team : Nat)
  /-- CO_RESIDENT_DISPATCH (R387), an event. -/
  | coResidentDispatch (launch : Nat)
  /-- AFFINITY_TIMEOUT (R385), an event. -/
  | affinityTimeout (launch : Nat)
  /-- PRE_EMPTION (R390), an event. -/
  | preEmption (launch : Nat)
  /-- FORCED_SAVE (R390), an event. -/
  | forcedSave (team : Nat)
  /-- TEAM_RESTORE (R390), an event. -/
  | teamRestore (team : Nat)
  /-- VGROW_GRANT (R392), an event. -/
  | vgrowGrant (core : Nat)
  /-- STUCK_CORE (R392), an event. -/
  | stuckCore (core : Nat)
  /-- PARENT_SWAP_OUT (R394), an event. -/
  | parentSwapOut (team : Nat)
  /-- LAUNCH_COMPLETION (R396), an event. -/
  | launchCompletion (launch : Nat)
  /-- REPLAY (R416), an event. -/
  | replay (launch : Nat)
  /-- NOP (R374). -/
  | nop
  /-- EXIT (R359). -/
  | exit
  /-- YIELD (R391). -/
  | yield
  /-- HALT (R407). -/
  | halt
  /-- RFE (R403). -/
  | rfe
  /-- RET (R363). -/
  | ret
  /-- JOIN (R363). -/
  | join
  /-- PGMAP_POST (R115). -/
  | pgmapPost
  /-- FAULT_POST_WRITE (R111), an event. -/
  | faultPostWrite
  /-- TLBI_ALL (R117), an event. -/
  | tlbiAll
  /-- TLBI_NONE (R117), an event. -/
  | tlbiNone
  /-- TLBI_DONE (R117), an event. -/
  | tlbiDone
  /-- EPOCH_END (R120), an event. -/
  | epochEnd
  /-- HELD_FRAME_RELEASE (R123), an event. -/
  | heldFrameRelease
  /-- CANCEL (R132), an event. -/
  | cancel
  /-- CHECKPOINT (R137), an event. -/
  | checkpoint
  /-- CHECKPOINT_DONE (R138), an event. -/
  | checkpointDone
  /-- RESTORE (R137), an event. -/
  | restore
  /-- RESTORE_DONE (R138), an event. -/
  | restoreDone
  /-- PATROL_SCRUB (R76), an event. -/
  | patrolScrub
  /-- SPARE_REMAP (R395), an event. -/
  | spareRemap
  /-- COLD_RESET (R437), an event. -/
  | coldReset
  /-- MEMORY_READY (R77), an event. -/
  | memoryReady
  /-- WARM_RESET (R77), an event. -/
  | warmReset
  /-- MARGIN_PLAN (R440), an event. -/
  | marginPlan
  /-- ATTESTATION (R439), an event. -/
  | attestation
  /-- ATTESTATION_REPORT (R439), an event. -/
  | attestationReport
  /-- POWER_THROTTLE (R442), an event. -/
  | powerThrottle
  /-- THERMAL_TRIP (R442), an event. -/
  | thermalTrip
  /-- URGENCY_MARK (R389), an event. -/
  | urgencyMark (core : Nat)
  /-- BREAKPOINT_STOP (R423), an event. -/
  | breakpointStop (g slot : Nat)
  /-- TRACE_SAMPLE (R422), an event. -/
  | traceSample (g slot : Nat)
  /-- MXRST (R325), an event. -/
  | mxrst (core : Nat)
  /-- PACKET_ACK (R337), an event. -/
  | packetAck (n : Nat)
  /-- PORT_FAILURE (R340), an event. -/
  | portFailure (port : Nat)
  /-- PAGE_TABLE_WALK (R100), an event. -/
  | pageTableWalk (die ctx : Nat) (va : BitVec 64)
  /-- FQREPLY_RETRY (R112), an event. -/
  | fqreplyRetry (tag : BitVec 32)
  /-- FQREPLY_KILL (R112), an event. -/
  | fqreplyKill (tag : BitVec 32)
  /-- TLBI_PAGES (R117), an event. -/
  | tlbiPages (ctx : Nat) (va : BitVec 64) (n : Nat)
  /-- TLBI_CONTEXT (R117), an event. -/
  | tlbiContext (ctx : Nat)
  /-- LINE_READ (R73), an event. -/
  | lineRead (pa : Nat)
  /-- LINE_WRITE (R72), an event. -/
  | lineWrite (pa : Nat) (data : List Byte)
  /-- CHANNEL_FAILED (R75), an event. -/
  | channelFailed (block ch : Nat)
  /-- FAILED (R75), an event. -/
  | failed (block ch : Nat)
  /-- HDM_COMMIT (R80), an event. -/
  | hdmCommit (k : Nat)
  /-- HDM_UNCOMMIT (R80), an event. -/
  | hdmUncommit (k : Nat)
  /-- VIRAL_INDICATION (R79), an event. -/
  | viralIndication (port : Nat)
  /-- CXL_LINK_TRAINED (R80), an event. -/
  | cxlLinkTrained (port : Nat)
  /-- RETENTION_EXIT (R189), an event. -/
  | retentionExit (unit : Nat)
  /-- BKRET (R199), an event. -/
  | bkret (die : Nat)
  /-- PRECMD (R390), an event. -/
  | precmd (q : Nat)
  /-- SPARE_DIE_SUBSTITUTION (R395), an event. -/
  | spareDieSubstitution (die : Nat)
  /-- CONTEXT_TEARDOWN (R397), an event. -/
  | contextTeardown (ctx : Nat)
  /-- DBGCMD_HALT (R425), an event. -/
  | dbgcmdHalt (blk : Nat)
  /-- DBGCMD_RESUME (R425), an event. -/
  | dbgcmdResume (blk : Nat)
  /-- DBGCMD_READ (R425), an event. -/
  | dbgcmdRead (blk : Nat)
  /-- DBGCMD_WRITE (R425), an event. -/
  | dbgcmdWrite (blk : Nat)
  /-- DBGCMD_STEP (R425), an event. -/
  | dbgcmdStep (blk : Nat)
  /-- DBGCMD_CLEAR (R425), an event. -/
  | dbgcmdClear (blk : Nat)
  /-- REVOCATION (R426), an event. -/
  | revocation (blk : Nat)
  /-- VENDOR_PART_WRITE (R437), an event. -/
  | vendorPartWrite (data : List Byte)
  /-- TIMEADJ (R441), an event. -/
  | timeadj (v : BitVec 64)
  /-- UNSUPPORTED_REQUEST (R431), an event. -/
  | unsupportedRequest (addr : BitVec 64)
  /-- BAR2_ACCESS (R431), an event. -/
  | bar2Access (write : Bool) (addr : BitVec 64) (data : List Byte)
  /-- REGISTER_WRITE (R10), an event. -/
  | registerWrite (wide : Bool) (off : Nat) (v : BitVec 64)
  /-- UNASSIGNED_ENCODING (R47), an event. -/
  | unassignedEncoding (at_ : BitVec 64)
  /-- LINK_FLIT_REPLAY (R337), an event. -/
  | linkFlitReplay (port : Nat)
  /-- FAILED_CXL_PORT (R132), an event. -/
  | failedCxlPort (port : Nat)
  deriving DecidableEq, Repr

end Sys2Proof
end

