-- ==== Sys2Proof/WellFormed.lean ====
section
/-! DEFINITION. Which instructions are well formed: the rules of R18 to R47 and of the owning chapters that a word's
fields alone can breach. A term that `instrWf` refuses raises IllegalInstruction (R42 item 4). -/

namespace Sys2Proof

/-- The width in bits of a lane value of a type (R28); packed and record types occupy one 32-bit register. -/
def tyWidth : Ty → Nat
  | .i64 | .n64 | .b64 | .f64 => 64
  | .i16 | .n16 | .b16 | .f16 | .bf16 => 16
  | .i8 | .n8 | .b8 | .e4m3 | .e5m2 => 8
  | _ => 32

/-- A 64-bit type, whose operands are even-odd pairs (R274). -/
def tyWide (t : Ty) : Bool := tyWidth t == 64

/-- The signed integer types .i8 to .i64. -/
def tyIsI : Ty → Bool
  | .i8 | .i16 | .i32 | .i64 => true
  | _ => false

/-- The unsigned integer types .n8 to .n64. -/
def tyIsN : Ty → Bool
  | .n8 | .n16 | .n32 | .n64 => true
  | _ => false

/-- The raw types .b8 to .b64. -/
def tyIsB : Ty → Bool
  | .b8 | .b16 | .b32 | .b64 => true
  | _ => false

/-- The integer types of conversions (R292). -/
def tyIsInt (t : Ty) : Bool := tyIsI t || tyIsN t

/-- All integer types: .i, .n and .b (R279). -/
def tyIsAnyInt (t : Ty) : Bool := tyIsInt t || tyIsB t

/-- The types of the floating group (R289). -/
def tyIsArithFloat : Ty → Bool
  | .f64 | .f32 | .f16 | .bf16 => true
  | _ => false

/-- The scalar floating types, the 8-bit ones included (R292). -/
def tyIsFloat : Ty → Bool
  | .f64 | .f32 | .f16 | .bf16 | .e4m3 | .e5m2 => true
  | _ => false

/-- The packed floating types (R292). -/
def tyIsPackedFloat : Ty → Bool
  | .f16x2 | .bf16x2 | .e4m3x4 | .e5m2x4 => true
  | _ => false

/-- The record types of QCVT and DQCVT (R294). -/
def tyIsRecord : Ty → Bool
  | .q4g32 | .q4g64 | .q4g128 | .q8g32 | .q8g64 | .q8g128 => true
  | _ => false

/-- A scalar field names s0–s63 (R18). -/
def scalOk (r : Reg) : Bool := decide (r.toNat < 64)

/-- A pair operand names an even register (R18). -/
def evenOk (r : Reg) : Bool := r.toNat % 2 == 0

/-- A scalar pair operand (R18). -/
def pairOk (r : Reg) : Bool := scalOk r && evenOk r

/-- A field of either kind: a scalar one names s0–s63 (R18). -/
def kindOk : Kind → Reg → Bool
  | .vec, _ => true
  | .scal, r => scalOk r

/-- A field of either kind that holds a pair when `wide` (R18). -/
def opOk (wide : Bool) (k : Kind) (r : Reg) : Bool := kindOk k r && (!wide || evenOk r)

/-- The kind of D and A under format A's shape (R20). -/
def shaKind : ShA → Kind
  | .vvv | .vvs => .vec
  | .sss => .scal

/-- The kind of B under format A's shape (R20). -/
def shaKindB : ShA → Kind
  | .vvv => .vec
  | .vvs | .sss => .scal

/-- The kind of D and A under format W's shape (R27). -/
def shwKind : ShW → Kind
  | .sss => .scal
  | _ => .vec

/-- The kind of B under format W's shape (R27). -/
def shwKindB : ShW → Kind
  | .vvv => .vec
  | _ => .scal

/-- The kind of C under format W's shape (R27). -/
def shwKindC : ShW → Kind
  | .vvv | .vvs => .vec
  | _ => .scal

/-- Shape rule of an instruction that reads neither B nor C (R274). -/
def shwUnary : ShW → Bool
  | .vvv | .sss => true
  | _ => false

/-- Shape rule of an instruction that reads B but not C (R274). -/
def shwBinary : ShW → Bool
  | .vss => false
  | _ => true

/-- Format A with three registers (R19, R20). -/
def a3Ok (sh : ShA) (d a b : Reg) : Bool :=
  kindOk (shaKind sh) d && kindOk (shaKind sh) a && kindOk (shaKindB sh) b

/-- Two registers of one kind. -/
def a2Ok (k : Kind) (d a : Reg) : Bool := kindOk k d && kindOk k a

/-- The types that a member of the integer group accepts (R279). -/
def intFnTy (f : IntFn) (t : Ty) : Bool :=
  match f with
  | .add | .sub | .mul | .neg => tyIsAnyInt t
  | .mulh | .div | .rem | .min | .max => tyIsInt t
  | .and | .or | .xor | .andn | .shl | .rot | .clz | .ctz | .popc | .brev => tyIsB t
  | .shr => tyIsB t || tyIsN t
  | .sra | .abs => tyIsI t

/-- The members of the integer group that read only A (R274). -/
def intFnUnary : IntFn → Bool
  | .abs | .neg | .clz | .ctz | .popc | .brev => true
  | _ => false

/-- Members whose B is a single register at every width: shifts and ROT (R274). -/
def intFnNarrowB : IntFn → Bool
  | .shl | .shr | .sra | .rot => true
  | _ => false

/-- Members whose D is a single register at every width: CLZ, CTZ and POPC (R274). -/
def intFnNarrowD : IntFn → Bool
  | .clz | .ctz | .popc => true
  | _ => false

/-- The members of the floating group that read only A (R289, R290). -/
def floatFnUnary : FloatFn → Bool
  | .fsqrt | .frnd | .fclass => true
  | _ => false

/-- The types that a member of the special-function group accepts (R289). -/
def specFnTy (f : SpecFn) (t : Ty) : Bool :=
  match f with
  | .frcp | .frsq => tyIsArithFloat t
  | _ => tyIsArithFloat t && t != .f64

/-- The types of PADD, PMUL and PDOT (R294). -/
def packedTy (t : Ty) : Bool := tyIsPackedFloat t || t == .i8x4

/-- Format D (R23, R190): a scalar data register or index is below 64. -/
def memDOk (md : Md) (d : Reg) : Bool :=
  match md with
  | .ss => scalOk d
  | _ => true

/-- Format M (R29, R190). -/
def memMOk (md : Md) (d ix : Reg) : Bool :=
  match md with
  | .vv => true
  | .vs => scalOk ix
  | .ss => scalOk d && scalOk ix

/-- The class of a compact operation (R44). -/
inductive CopClass where
  | fpMul
  | int
  | logic
  deriving DecidableEq, Repr

/-- R44. -/
def copClass : Cop → CopClass
  | .fadd | .fsub | .fmul | .fmin | .fmax | .paddF16x2 | .pmulF16x2 | .paddBf16x2 | .pmulBf16x2 => .fpMul
  | .add | .sub | .mul | .minI | .maxI | .minN | .maxN | .shl | .shr | .sra => .int
  | .and | .or | .xor | .andn | .mov => .logic

/-- The source registers of a compact operation, a scalar register counted apart from the vector of its number;
a register read twice counts once (R45). -/
def copSources (o : Compact) : List (Bool × Reg) :=
  if o.cop = .mov then [(false, o.a)]
  else if (o.bs, o.b) = (false, o.a) then [(false, o.a)]
  else [(false, o.a), (o.bs, o.b)]

/-- One compact operation's own field rules (R43, R44). -/
def compactOk (o : Compact) : Bool :=
  (!o.bs || scalOk o.b) && (o.cop != .mov || (!o.bs && o.b == 0))

/-- The pairing rules of R45. -/
def pairWordOk (x y : Compact) : Bool :=
  compactOk x && compactOk y &&
  (match copClass x.cop, copClass y.cop with
    | .fpMul, .int | .int, .fpMul | .fpMul, .logic | .logic, .fpMul | .logic, .logic => true
    | _, _ => false) &&
  decide (x.d.toNat % 4 ≠ y.d.toNat % 4) &&
  decide ((copSources x ++ copSources y).eraseDups.length ≤ 3) &&
  decide (((copSources x).filter (fun r => (copSources y).contains r)).length ≤ 1)

/-- The field rules of FCVT (R292, R293): C is read only with a packed side. -/
def fcvtOk (dst src : Ty) (sh : ShW) (d a c : Reg) : Bool :=
  dst != src &&
  ((tyIsFloat dst && tyIsFloat src && shwUnary sh && c == 0) ||
   ((tyIsPackedFloat dst && src == .f32) || (dst == .f32 && tyIsPackedFloat src)) && sh != .vvs) &&
  opOk (tyWide dst) (shwKind sh) d && opOk (tyWide src) (shwKind sh) a &&
  (!(tyIsPackedFloat dst || tyIsPackedFloat src) || kindOk (shwKindC sh) c)

/-- A non-zero k needs the place `hbm` (R141, R145). -/
def placeOk (tier : Tier) (stk : BitVec 3) : Bool := tier == .hbm || stk == 0

/-- The handle and barrier fields of job instructions (R214). -/
def jobOk (bt : BitVec 5) (hv : Bool) (d : Reg) : Bool :=
  decide (bt.toNat ≤ 16) && scalOk d && (hv || d == 0)

/-- A block of `n` scalars from E on ends by s63. -/
def blockOk (e : Reg) (n : Nat) : Bool := decide (e.toNat + n ≤ 64)

/-- A 6-bit field that names an even scalar. -/
def sEven (r : SReg) : Bool := r.toNat % 2 == 0

/-- Format W with four 32-bit registers. -/
def w3Ok (sh : ShW) (d a b c : Reg) : Bool :=
  kindOk (shwKind sh) d && kindOk (shwKind sh) a && kindOk (shwKindB sh) b && kindOk (shwKindC sh) c

/-- D, A and B of a three-source instruction (R274). -/
def wide3Ok (wide : Bool) (sh : ShW) (d a b : Reg) : Bool :=
  opOk wide (shwKind sh) d && opOk wide (shwKind sh) a && opOk wide (shwKindB sh) b

/-- The FMT and GC fields that OBRES accepts (R305). -/
def obresFmtOk (fmt : BitVec 4) (gc : BitVec 2) : Bool :=
  if fmt.toNat ≤ 6 then gc == 0 else decide (fmt.toNat ≤ 8) && gc != 0

/-- The CSR numbers of R377. -/
def csrListed (c : BitVec 12) : Bool :=
  let n := c.toNat
  decide (n ≤ 4) || decide (6 ≤ n ∧ n ≤ 0xA) || decide (0x10 ≤ n ∧ n ≤ 0x14) || decide (0x20 ≤ n ∧ n ≤ 0x24) ||
    decide (0x40 ≤ n ∧ n ≤ 0x4F) || decide (0x60 ≤ n ∧ n ≤ 0x61)

/-- The well-formed instructions (R18 to R47 and the field rules of each instruction's own rule). Events carry
no word and are always well formed. -/
def instrWf : Instr → Bool
  | .pr xe xo _ _ _ _ => xo || xe == 0
  | .pn _ _ _ _ _ => true
  | .pairWord x y => pairWordOk x y
  | .nop => true
  | .exit => true
  | .yield => true
  | .halt => true
  | .brk _ => true
  | .trap _ => true
  | .rfe => true
  | .csrr _ c => csrListed c
  | .csrw c _ => csrListed c
  | .csrs c _ => csrListed c
  | .csrc c _ => csrListed c
  | .rdtime d => sEven d
  | .gwidPack _ => true
  | .gwidWidth _ => true
  | .gwidLive _ => true
  | .gwidSlices _ => true
  | .gwidSlot _ => true
  | .vgrow v s => decide (v.toNat ≤ 16) && decide (s.toNat ≤ 8)
  | .vshrink v s => decide (v.toNat ≤ 16) && decide (s.toNat ≤ 8)
  | .b _ => true
  | .call _ => true
  | .jr e => sEven e
  | .jrL e => sEven e
  | .ret => true
  | .join => true
  | .wait _ _ => true
  | .waitReg _ _ => true
  | .waitComplete _ _ => true
  | .cset _ _ => true
  | .csetReg _ _ => true
  | .cget _ _ => true
  | .bar _ => true
  | .barTx _ _ => true
  | .barTxReg _ _ => true
  | .add sh d a b => a3Ok sh d a b
  | .sub sh d a b => a3Ok sh d a b
  | .mul sh d a b => a3Ok sh d a b
  | .mulh sh d a b => a3Ok sh d a b
  | .div sh d a b => a3Ok sh d a b
  | .rem sh d a b => a3Ok sh d a b
  | .min sh d a b => a3Ok sh d a b
  | .max sh d a b => a3Ok sh d a b
  | .and sh d a b => a3Ok sh d a b
  | .or sh d a b => a3Ok sh d a b
  | .xor sh d a b => a3Ok sh d a b
  | .andn sh d a b => a3Ok sh d a b
  | .shl sh d a b => a3Ok sh d a b
  | .shr sh d a b => a3Ok sh d a b
  | .sra sh d a b => a3Ok sh d a b
  | .rot sh d a b => a3Ok sh d a b
  | .abs k d a => a2Ok k d a
  | .neg k d a => a2Ok k d a
  | .clz k d a => a2Ok k d a
  | .ctz k d a => a2Ok k d a
  | .popc k d a => a2Ok k d a
  | .brev k d a => a2Ok k d a
  | .mov k d a => a2Ok k d a
  | .movs _ b => scalOk b
  | .extGet d _ b => scalOk d && scalOk b
  | .extPut _ a b => scalOk a && scalOk b
  | .iget k d a => pairOk d && kindOk k a
  | .itop k d => kindOk k d
  | .vote f d _ => scalOk d && (f != .ballot || (d.toNat % 4 == 0 && decide (d.toNat ≤ 56)))
  | .shfl f _ _ b => f == .idx || scalOk b
  | .red _ d _ => scalOk d
  | .scan _ _ _ => true
  | .addImm8 k d a _ => a2Ok k d a
  | .andImm8 k d a _ => a2Ok k d a
  | .orImm8 k d a _ => a2Ok k d a
  | .xorImm8 k d a _ => a2Ok k d a
  | .shlImm k d a _ => a2Ok k d a
  | .shrImm k d a _ => a2Ok k d a
  | .sraImm k d a _ => a2Ok k d a
  | .rotImm k d a _ => a2Ok k d a
  | .minImm k d a _ => a2Ok k d a
  | .maxImm k d a _ => a2Ok k d a
  | .li k d _ => kindOk k d
  | .shflImm _ _ _ => true
  | .shflXorImm _ _ _ => true
  | .widr k d i => kindOk k d && (match k with | .vec => decide (i.toNat ≤ 7) | .scal => decide (1 ≤ i.toNat ∧ i.toNat ≤ 5))
  | .rdflg k d _ => kindOk k d
  | .clflg _ _ => true
  | .fadd sh d a b => a3Ok sh d a b
  | .fsub sh d a b => a3Ok sh d a b
  | .fmul sh d a b => a3Ok sh d a b
  | .fmin sh d a b => a3Ok sh d a b
  | .fmax sh d a b => a3Ok sh d a b
  | .fdiv sh d a b => a3Ok sh d a b
  | .fsqrt k d a => a2Ok k d a
  | .frcp k d a => a2Ok k d a
  | .frsq k d a => a2Ok k d a
  | .fexp2 k d a => a2Ok k d a
  | .flog2 k d a => a2Ok k d a
  | .fsin k d a => a2Ok k d a
  | .fcos k d a => a2Ok k d a
  | .ftanh k d a => a2Ok k d a
  | .frnd k d a => a2Ok k d a
  | .fclass k d a => a2Ok k d a
  | .ld md d _ _ _ _ => memDOk md d
  | .st md d _ _ _ _ => memDOk md d
  | .ldg md d _ _ _ _ => memDOk md d
  | .stg md d _ _ _ _ => memDOk md d
  | .pf _ _ _ _ _ => true
  | .liImm32 t k d _ => (tyIsAnyInt t || tyIsFloat t) && decide (32 ≤ tyWidth t) && opOk (tyWide t) k d
  | .addImm32 t k d a _ => tyIsAnyInt t && decide (32 ≤ tyWidth t) && opOk (tyWide t) k d && opOk (tyWide t) k a
  | .andImm32 t k d a _ => (t == .b32 || t == .b64) && opOk (tyWide t) k d && opOk (tyWide t) k a
  | .orImm32 t k d a _ => (t == .b32 || t == .b64) && opOk (tyWide t) k d && opOk (tyWide t) k a
  | .xorImm32 t k d a _ => (t == .b32 || t == .b64) && opOk (tyWide t) k d && opOk (tyWide t) k a
  | .cmp _ t sh d a b => tyIsAnyInt t && decide (32 ≤ tyWidth t) && shwBinary sh && kindOk (shwKind sh) d && opOk (tyWide t) (shwKind sh) a && opOk (tyWide t) (shwKindB sh) b
  | .fcmp _ t sh d a b => tyIsFloat t && shwBinary sh && kindOk (shwKind sh) d && opOk (tyWide t) (shwKind sh) a && opOk (tyWide t) (shwKindB sh) b
  | .integerGroup f t sh d a b => intFnTy f t && (if intFnUnary f then shwUnary sh && b == 0 else shwBinary sh && opOk (tyWide t && !intFnNarrowB f) (shwKindB sh) b) && opOk (tyWide t && !intFnNarrowD f) (shwKind sh) d && opOk (tyWide t) (shwKind sh) a
  | .bfx t sh d a b => tyIsAnyInt t && shwBinary sh && opOk (tyWide t) (shwKind sh) d && opOk (tyWide t) (shwKind sh) a && kindOk (shwKindB sh) b
  | .floatingGroup f t sh d a b => (tyIsArithFloat t || (f == .fclass && tyIsFloat t)) && (if floatFnUnary f then shwUnary sh && b == 0 else shwBinary sh && opOk (tyWide t) (shwKindB sh) b) && opOk (tyWide t && f != .fclass) (shwKind sh) d && opOk (tyWide t) (shwKind sh) a
  | .specialFunctionGroup f t k d a => specFnTy f t && opOk (tyWide t) k d && opOk (tyWide t) k a
  | .padd t sh d a b => packedTy t && shwBinary sh && kindOk (shwKind sh) d && kindOk (shwKind sh) a && kindOk (shwKindB sh) b
  | .pmul t sh d a b => packedTy t && shwBinary sh && kindOk (shwKind sh) d && kindOk (shwKind sh) a && kindOk (shwKindB sh) b
  | .pfma t sh d a b c => tyIsPackedFloat t && w3Ok sh d a b c
  | .pdot t sh d a b c => packedTy t && w3Ok sh d a b c
  | .qcvt t sh d a b c => tyIsRecord t && w3Ok sh d a b c
  | .dqcvt t sh d a b c => tyIsRecord t && w3Ok sh d a b c
  | .fcvt dst src sh d a c => fcvtOk dst src sh d a c
  | .fcvti dst src k d a => tyIsInt dst && tyIsFloat src && opOk (tyWide dst) k d && opOk (tyWide src) k a
  | .icvtf dst src k d a => tyIsFloat dst && tyIsInt src && opOk (tyWide dst) k d && opOk (tyWide src) k a
  | .cvt dst src k d a => tyIsInt dst && tyIsInt src && dst != src && opOk (tyWide dst) k d && opOk (tyWide src) k a
  | .ffma t sh d a b c => tyIsArithFloat t && wide3Ok (tyWide t) sh d a b && opOk (tyWide t) (shwKindC sh) c
  | .mad t sh d a b c => tyIsAnyInt t && wide3Ok (tyWide t) sh d a b && opOk (tyWide t) (shwKindC sh) c
  | .clamp t sh d a b c => tyIsInt t && wide3Ok (tyWide t) sh d a b && opOk (tyWide t) (shwKindC sh) c
  | .sel t sh d a b c => (t == .b32 || t == .b64) && wide3Ok (tyWide t) sh d a b && kindOk (shwKindC sh) c
  | .bfi t sh d a b c => tyIsB t && wide3Ok (tyWide t) sh d a b && kindOk (shwKindC sh) c
  | .bc _ bi a b _ => scalOk a && (bi || scalOk b)
  | .loop _ bi a b _ => scalOk a && (bi || scalOk b)
  | .vb _ _ _ _ _ jn => jn != 0
  | .ldLong _ _ md d _ ix _ _ => memMOk md d ix
  | .stLong _ md d _ ix _ _ => memMOk md d ix
  | .ldgLong _ _ md d _ ix _ _ => memMOk md d ix
  | .stgLong _ md d _ ix _ _ => memMOk md d ix
  | .pfLong _ md _ ix _ _ => memMOk md 0 ix
  | .atom f _ md d _ ix _ _ => f != .fma && memMOk md d ix
  | .batom f _ md d _ ix _ _ => f != .exch && f != .cas && memMOk md d ix
  | .ldSh _ md d _ ix _ _ => md != .vv && memMOk md d ix
  | .stSh _ md d _ ix _ _ => md != .vv && memMOk md d ix
  | .adld _ _ _ ix _ _ => scalOk ix
  | .adst _ _ _ ix _ _ => scalOk ix
  | .brdoInit e _ _ _ => pairOk e
  | .brdoAdd v e k _ => scalOk v && pairOk e && scalOk k
  | .brdoAddv _ e k _ => pairOk e && scalOk k
  | .brdoRd d e st _ => pairOk d && pairOk e && scalOk st
  | .barxInit e n _ => pairOk e && n != 0
  | .barxArr d e _ => scalOk d && pairOk e
  | .barxTx e b _ => pairOk e && scalOk b
  | .barxDone e b _ => pairOk e && scalOk b
  | .barxArrtx d e b _ => scalOk d && pairOk e && scalOk b
  | .barxRd d e _ => pairOk d && pairOk e
  | .waiterPlaceFreed _ => true
  | .adset _ e attr => pairOk e && decide (e.toNat ≤ 60) && attr.extractLsb' 22 10 == 0 && decide ((attr.extractLsb' 16 3).toNat < 4)
  | .adsetR _ e => pairOk e && decide (e.toNat ≤ 60)
  | .adget f d _ => scalOk d && (f != .base || evenOk d)
  | .iwdn k d b c => kindOk k d && scalOk b && scalOk c
  | .iset k d b c => kindOk k d && scalOk b && scalOk c
  | .tlbinvPage e _ _ => pairOk e
  | .tlbinvCtx _ => true
  | .tlbinvAsid e _ => scalOk e
  | .tlbinvAll _ => true
  | .pgmapFt _ _ => true
  | .pgmapVa _ k _ => evenOk k
  | .pgmapPost => true
  | .pgqry k d e _ => opOk true k d && opOk true k e
  | .migTo _ tier stk d e _ => placeOk tier stk && scalOk d && pairOk e
  | .migFrame _ f d e _ => pairOk f && scalOk d && pairOk e
  | .migCancel d e _ => scalOk d && pairOk e
  | .pin d e _ _ => scalOk d && pairOk e
  | .unpin d e _ _ => scalOk d && pairOk e
  | .hotRd d e _ => pairOk d && pairOk e
  | .hotClr e _ => pairOk e
  | .plc tier stk e _ _ => placeOk tier stk && pairOk e
  | .plcMove tier stk e _ _ => placeOk tier stk && pairOk e
  | .treg d e _ _ => scalOk d && pairOk e
  | .tunreg e _ _ => scalOk e
  | .tld _ o _ e _ _ => scalOk o && pairOk e
  | .tst _ o _ e _ _ => scalOk o && pairOk e
  | .tpf _ _ e dist _ _ => pairOk e && dist != 0
  | .thalo _ _ o _ e _ _ _ _ => scalOk o && pairOk e
  | .tinv _ e _ _ => scalOk e
  | .tqry d _ e _ => pairOk d && pairOk e
  | .sweepComplete _ => true
  | .cpy bt hv d _ _ e _ => jobOk bt hv d && blockOk e 3
  | .cpyb bt hv d _ _ e _ => jobOk bt hv d && blockOk e 3
  | .close e _ => scalOk e
  | .job hv d e _ => jobOk 0 hv d && pairOk e
  | .jst d e _ => pairOk d && scalOk e
  | .mvn fmt _ bt hv d _ _ e _ => decide (fmt.toNat ≤ 8) && jobOk bt hv d && blockOk e 5
  | .strm _ _ e _ _ depth _ => blockOk e (2 * depth.toNat + 3)
  | .sclose _ _ => true
  | .streamRunAhead _ _ => true
  | .jobDispatch _ => true
  | .jobComplete _ _ => true
  | .hintServed _ => true
  | .reservationGranted _ => true
  | .reservationTimeout _ => true
  | .deferredMoveStart _ => true
  | .obres fmt gc _ d e => obresFmtOk fmt gc && scalOk d && blockOk e 3
  | .obrel _ _ => true
  | .obld _ _ _ e _ => blockOk e 4
  | .obldRec _ _ _ e _ => blockOk e 4
  | .mma _ _ _ _ _ e _ => blockOk e 2
  | .mloop _ _ _ _ _ e _ => blockOk e 5
  | .acz _ _ _ => true
  | .aczRel _ _ => true
  | .acld form _ e _ => match form with | .mem _ => blockOk e 2 | .regs => decide (e.toNat ≤ 96)
  | .acst form _ e _ => match form with | .mem _ => blockOk e 2 | .regs => decide (e.toNat ≤ 96)
  | .mstat _ d _ => pairOk d
  | .matrixCommand _ => true
  | .matrixWatchdog _ => true
  | .mxrst _ => true
  | .put _ _ _ e _ => decide (e.toNat ≤ 60)
  | .wreg d _ e _ => scalOk d && pairOk e && decide (e.toNat ≤ 60)
  | .wregRel d _ _ => scalOk d
  | .wctr _ d _ => pairOk d
  | .wwait _ _ e => pairOk e
  | .wwaitTimeout _ _ => true
  | .packetLanding _ => true
  | .packetAck _ => true
  | .packetTimeout _ => true
  | .portFailure _ => true
  | .fork e _ => pairOk e
  | .dataLanding _ _ => true
  | .arrive _ _ => true
  | .barrierTimeout _ _ => true
  | .gangEnd _ => true
  | .urgencyMark _ => true
  | .pageTableWalk _ _ _ => true
  | .faultPostWrite => true
  | .fqreplyRetry _ => true
  | .fqreplyKill _ => true
  | .tlbiPages _ _ _ => true
  | .tlbiContext _ => true
  | .tlbiAll => true
  | .tlbiNone => true
  | .tlbiDone => true
  | .epochEnd => true
  | .recallComplete _ => true
  | .copyReadData _ => true
  | .lineAccepted _ => true
  | .portClose _ => true
  | .sourceFrameRelease _ => true
  | .reverseLineAccepted _ => true
  | .heldFrameRelease => true
  | .cancel => true
  | .checkpoint => true
  | .checkpointDone => true
  | .restore => true
  | .restoreDone => true
  | .refreshDue _ _ _ => true
  | .refpbIssue _ _ => true
  | .refreshBurstEnd _ _ => true
  | .lineRead _ => true
  | .lineWrite _ _ => true
  | .writeQueueDrain _ _ => true
  | .channelFailed _ _ => true
  | .failed _ _ => true
  | .patrolScrub => true
  | .hdmCommit _ => true
  | .hdmUncommit _ => true
  | .viralIndication _ => true
  | .cxlLinkTrained _ => true
  | .retentionEntry _ => true
  | .retentionExit _ => true
  | .bkret _ => true
  | .launchPacketRead _ => true
  | .teamDispatch _ => true
  | .codeLinesPushed _ => true
  | .coResidentDispatch _ => true
  | .affinityTimeout _ => true
  | .preEmption _ => true
  | .precmd _ => true
  | .forcedSave _ => true
  | .teamRestore _ => true
  | .vgrowGrant _ => true
  | .stuckCore _ => true
  | .parentSwapOut _ => true
  | .spareDieSubstitution _ => true
  | .spareRemap => true
  | .launchCompletion _ => true
  | .contextTeardown _ => true
  | .replay _ => true
  | .breakpointStop _ _ => true
  | .traceSample _ _ => true
  | .dbgcmdHalt _ => true
  | .dbgcmdResume _ => true
  | .dbgcmdRead _ => true
  | .dbgcmdWrite _ => true
  | .dbgcmdStep _ => true
  | .dbgcmdClear _ => true
  | .revocation _ => true
  | .coldReset => true
  | .memoryReady => true
  | .warmReset => true
  | .vendorPartWrite _ => true
  | .marginPlan => true
  | .attestation => true
  | .attestationReport => true
  | .timeadj _ => true
  | .powerThrottle => true
  | .thermalTrip => true
  | .unsupportedRequest _ => true
  | .bar2Access _ _ _ => true
  | .registerWrite _ _ _ => true
  | .unassignedEncoding _ => true
  | .linkFlitReplay _ => true
  | .failedCxlPort _ => true

end Sys2Proof
end

