-- ==== Sys2Proof/Decode.lean ====
section
/-! DEFINITION. The decoder, total on any bytes and rejecting by name (R16 to R50), and after it the encoder, from
the same tables of the spec. -/

namespace Sys2Proof

/-- Why a word is no instruction (R47). -/
inductive DecodeError where
  /-- The bytes end before the instruction does. -/
  | truncated
  /-- A major marked unassigned (R48, R49, R50). -/
  | unassignedMajor
  /-- A Fn value that no member of the group carries. -/
  | unassignedMember
  /-- A compact opcode that R44 does not list. -/
  | unassignedCompact
  /-- A non-zero reserved field or unused field (R47). -/
  | reservedField
  /-- A reserved Sh, Md, T, Cnd or prefix field value (R47). -/
  | reservedValue
  /-- The fields breach a rule of the instruction (`instrWf`). -/
  | illFormed
  deriving DecidableEq, Repr

/-- The errors of R42 item 2: an unassigned major, group member or compact opcode. -/
def unassignedError : DecodeError → Bool
  | .unassignedMajor | .unassignedMember | .unassignedCompact => true
  | _ => false

/-- The instruction, when its fixed fields hold. -/
def need (ok : Bool) (i : Instr) : Except DecodeError Instr :=
  if ok then .ok i else .error .reservedField

/-- Bit `k` of a field. -/
def bitAt {n : Nat} (x : BitVec n) (k : Nat) : Bool := x.getLsbD k

/-- A kind from format B's K bit (R21). -/
def kindOf : Bool → Kind
  | false => .vec
  | true => .scal

/-- Format B's K bit (R21). -/
def kindBit : Kind → Nat
  | .vec => 0
  | .scal => 1

/-- The shape value of an all-vector or all-scalar operand list in formats A and L (R20). -/
def kindShCode : Kind → Nat
  | .vec => 0
  | .scal => 2

/-- The shape value of an all-vector or all-scalar operand list in format W (R27). -/
def kindWCode : Kind → Nat
  | .vec => 0
  | .scal => 3

/-- Hn (R29). -/
def hintOf (x : BitVec 2) : Hint :=
  match x.toNat with
  | 0 => .normal
  | 1 => .streaming
  | 2 => .keep
  | _ => .noAlloc

/-- Hn (R29). -/
def hintCode : Hint → Nat
  | .normal => 0
  | .streaming => 1
  | .keep => 2
  | .noAlloc => 3

/-- The tier of a place operand (R141). -/
def tierOf (x : BitVec 2) : Tier :=
  match x.toNat with
  | 0 => .auto
  | 1 => .hbm
  | 2 => .lpddr
  | _ => .cxl

/-- The tier of a place operand (R141). -/
def tierCode : Tier → Nat
  | .auto => 0
  | .hbm => 1
  | .lpddr => 2
  | .cxl => 3

/-- The Fn of ADGET (R249). -/
def adFieldCode : AdField → Nat
  | .base => 0
  | .ext => 1
  | .attr => 2

/-- Type codes (R28). -/
def tyCode : Ty → Nat
  | .i32 => 0
  | .n32 => 1
  | .b32 => 2
  | .f32 => 3
  | .i64 => 4
  | .n64 => 5
  | .b64 => 6
  | .f64 => 7
  | .i16 => 8
  | .n16 => 9
  | .b16 => 10
  | .f16 => 11
  | .bf16 => 12
  | .i8 => 13
  | .n8 => 14
  | .b8 => 15
  | .e4m3 => 16
  | .e5m2 => 17
  | .f16x2 => 18
  | .bf16x2 => 19
  | .e4m3x4 => 20
  | .e5m2x4 => 21
  | .i8x4 => 22
  | .q4g32 => 23
  | .q4g64 => 24
  | .q4g128 => 25
  | .q8g32 => 26
  | .q8g64 => 27
  | .q8g128 => 28

/-- Type codes (R28). -/
def tyOf (x : BitVec 5) : Option Ty :=
  match x.toNat with
  | 0 => some .i32
  | 1 => some .n32
  | 2 => some .b32
  | 3 => some .f32
  | 4 => some .i64
  | 5 => some .n64
  | 6 => some .b64
  | 7 => some .f64
  | 8 => some .i16
  | 9 => some .n16
  | 10 => some .b16
  | 11 => some .f16
  | 12 => some .bf16
  | 13 => some .i8
  | 14 => some .n8
  | 15 => some .b8
  | 16 => some .e4m3
  | 17 => some .e5m2
  | 18 => some .f16x2
  | 19 => some .bf16x2
  | 20 => some .e4m3x4
  | 21 => some .e5m2x4
  | 22 => some .i8x4
  | 23 => some .q4g32
  | 24 => some .q4g64
  | 25 => some .q4g128
  | 26 => some .q8g32
  | 27 => some .q8g64
  | 28 => some .q8g128
  | _ => none

/-- The Cnd field (R31). -/
def condCode : Cond → Nat
  | .eq => 0
  | .ne => 1
  | .lt => 2
  | .ge => 3
  | .le => 4
  | .gt => 5
  | .ltn => 6
  | .gen => 7
  | .len => 8
  | .gtn => 9

/-- The Cnd field (R31). -/
def condOf (x : BitVec 6) : Option Cond :=
  match x.toNat with
  | 0 => some .eq
  | 1 => some .ne
  | 2 => some .lt
  | 3 => some .ge
  | 4 => some .le
  | 5 => some .gt
  | 6 => some .ltn
  | 7 => some .gen
  | 8 => some .len
  | 9 => some .gtn
  | _ => none

/-- The conditions of FCMP (R288). -/
def fcondCode : FCond → Nat
  | .eq => 0
  | .ne => 1
  | .lt => 2
  | .ge => 3
  | .le => 4
  | .gt => 5
  | .un => 6
  | .ord => 7

/-- The conditions of FCMP (R288). -/
def fcondOf (x : BitVec 6) : Option FCond :=
  match x.toNat with
  | 0 => some .eq
  | 1 => some .ne
  | 2 => some .lt
  | 3 => some .ge
  | 4 => some .le
  | 5 => some .gt
  | 6 => some .un
  | 7 => some .ord
  | _ => none

/-- The integer group (R279). -/
def intFnCode : IntFn → Nat
  | .add => 0
  | .sub => 1
  | .mul => 2
  | .mulh => 3
  | .div => 4
  | .rem => 5
  | .min => 6
  | .max => 7
  | .and => 8
  | .or => 9
  | .xor => 10
  | .andn => 11
  | .shl => 12
  | .shr => 13
  | .sra => 14
  | .rot => 15
  | .abs => 16
  | .neg => 17
  | .clz => 18
  | .ctz => 19
  | .popc => 20
  | .brev => 21

/-- The integer group (R279). -/
def intFnOf (x : BitVec 6) : Option IntFn :=
  match x.toNat with
  | 0 => some .add
  | 1 => some .sub
  | 2 => some .mul
  | 3 => some .mulh
  | 4 => some .div
  | 5 => some .rem
  | 6 => some .min
  | 7 => some .max
  | 8 => some .and
  | 9 => some .or
  | 10 => some .xor
  | 11 => some .andn
  | 12 => some .shl
  | 13 => some .shr
  | 14 => some .sra
  | 15 => some .rot
  | 16 => some .abs
  | 17 => some .neg
  | 18 => some .clz
  | 19 => some .ctz
  | 20 => some .popc
  | 21 => some .brev
  | _ => none

/-- The floating group (R289). -/
def floatFnCode : FloatFn → Nat
  | .fadd => 0
  | .fsub => 1
  | .fmul => 2
  | .fmin => 3
  | .fmax => 4
  | .fdiv => 5
  | .fsqrt => 6
  | .frnd => 7
  | .fclass => 8

/-- The floating group (R289). -/
def floatFnOf (x : BitVec 6) : Option FloatFn :=
  match x.toNat with
  | 0 => some .fadd
  | 1 => some .fsub
  | 2 => some .fmul
  | 3 => some .fmin
  | 4 => some .fmax
  | 5 => some .fdiv
  | 6 => some .fsqrt
  | 7 => some .frnd
  | 8 => some .fclass
  | _ => none

/-- The special-function group (R289). -/
def specFnCode : SpecFn → Nat
  | .frcp => 0
  | .frsq => 1
  | .fexp2 => 2
  | .flog2 => 3
  | .fsin => 4
  | .fcos => 5
  | .ftanh => 6

/-- The special-function group (R289). -/
def specFnOf (x : BitVec 6) : Option SpecFn :=
  match x.toNat with
  | 0 => some .frcp
  | 1 => some .frsq
  | 2 => some .fexp2
  | 3 => some .flog2
  | 4 => some .fsin
  | 5 => some .fcos
  | 6 => some .ftanh
  | _ => none

/-- Atomic operations (R191). -/
def atomFnCode : AtomFn → Nat
  | .add => 0
  | .min => 1
  | .max => 2
  | .minn => 3
  | .maxn => 4
  | .and => 5
  | .or => 6
  | .xor => 7
  | .exch => 8
  | .cas => 9
  | .fadd => 10
  | .fmin => 11
  | .fmax => 12
  | .fma => 13

/-- Atomic operations (R191). -/
def atomFnOf (x : BitVec 5) : Option AtomFn :=
  match x.toNat with
  | 0 => some .add
  | 1 => some .min
  | 2 => some .max
  | 3 => some .minn
  | 4 => some .maxn
  | 5 => some .and
  | 6 => some .or
  | 7 => some .xor
  | 8 => some .exch
  | 9 => some .cas
  | 10 => some .fadd
  | 11 => some .fmin
  | 12 => some .fmax
  | 13 => some .fma
  | _ => none

/-- RED and SCAN (R368). -/
def laneOpCode : LaneOp → Nat
  | .add => 0
  | .min => 1
  | .max => 2

/-- RED and SCAN (R368). -/
def laneOpOf (x : BitVec 2) : Option LaneOp :=
  match x.toNat with
  | 0 => some .add
  | 1 => some .min
  | 2 => some .max
  | _ => none

/-- The shape field of format A (R20). -/
def shaCode : ShA → Nat
  | .vvv => 0
  | .vvs => 1
  | .sss => 2

/-- The shape field of format A (R20). -/
def shaOf (x : BitVec 2) : Option ShA :=
  match x.toNat with
  | 0 => some .vvv
  | 1 => some .vvs
  | 2 => some .sss
  | _ => none

/-- The shape field of format W (R27). -/
def shwCode : ShW → Nat
  | .vvv => 0
  | .vvs => 1
  | .vss => 2
  | .sss => 3

/-- The shape field of format W (R27). -/
def shwOf (x : BitVec 3) : Option ShW :=
  match x.toNat with
  | 0 => some .vvv
  | 1 => some .vvs
  | 2 => some .vss
  | 3 => some .sss
  | _ => none

/-- The Md field (R23). -/
def mdCode : Md → Nat
  | .vv => 0
  | .vs => 1
  | .ss => 2

/-- The Md field (R23). -/
def mdOf (x : BitVec 2) : Option Md :=
  match x.toNat with
  | 0 => some .vv
  | 1 => some .vs
  | 2 => some .ss
  | _ => none

/-- The flush fields of PR (R34). -/
def flushCode : Flush → Nat
  | .asFpc => 0
  | .on => 1
  | .off => 2

/-- The flush fields of PR (R34). -/
def flushOf (x : BitVec 2) : Option Flush :=
  match x.toNat with
  | 0 => some .asFpc
  | 1 => some .on
  | 2 => some .off
  | _ => none

/-- The Rm field of PR (R34). -/
def prRoundCode : PrRound → Nat
  | .asFpc => 0
  | .rne => 1
  | .rtz => 2
  | .rdn => 3
  | .rup => 4

/-- The Rm field of PR (R34). -/
def prRoundOf (x : BitVec 3) : Option PrRound :=
  match x.toNat with
  | 0 => some .asFpc
  | 1 => some .rne
  | 2 => some .rtz
  | 3 => some .rdn
  | 4 => some .rup
  | _ => none

/-- The KIND field of ACZ (R321). -/
def accKindCode : AccKind → Nat
  | .f32 => 0
  | .i32 => 1
  | .f64 => 2

/-- The KIND field of ACZ (R321). -/
def accKindOf (x : BitVec 2) : Option AccKind :=
  match x.toNat with
  | 0 => some .f32
  | 1 => some .i32
  | 2 => some .f64
  | _ => none

/-- Compact opcodes (R44). -/
def copCode : Cop → Nat
  | .fadd => 1
  | .fsub => 2
  | .fmul => 3
  | .fmin => 4
  | .fmax => 5
  | .paddF16x2 => 6
  | .pmulF16x2 => 7
  | .paddBf16x2 => 8
  | .pmulBf16x2 => 9
  | .add => 16
  | .sub => 17
  | .mul => 18
  | .minI => 19
  | .maxI => 20
  | .minN => 21
  | .maxN => 22
  | .shl => 23
  | .shr => 24
  | .sra => 25
  | .and => 32
  | .or => 33
  | .xor => 34
  | .andn => 35
  | .mov => 36

/-- Compact opcodes (R44). -/
def copOf (x : BitVec 7) : Option Cop :=
  match x.toNat with
  | 1 => some .fadd
  | 2 => some .fsub
  | 3 => some .fmul
  | 4 => some .fmin
  | 5 => some .fmax
  | 6 => some .paddF16x2
  | 7 => some .pmulF16x2
  | 8 => some .paddBf16x2
  | 9 => some .pmulBf16x2
  | 16 => some .add
  | 17 => some .sub
  | 18 => some .mul
  | 19 => some .minI
  | 20 => some .maxI
  | 21 => some .minN
  | 22 => some .maxN
  | 23 => some .shl
  | 24 => some .shr
  | 25 => some .sra
  | 32 => some .and
  | 33 => some .or
  | 34 => some .xor
  | 35 => some .andn
  | 36 => some .mov
  | _ => none

/-! ### The formats (R19 to R31) -/

/-- Format A (R19). -/
structure FmtA where
  d : Reg
  a : Reg
  b : Reg
  sh : BitVec 2

/-- Format B (R21). -/
structure FmtB where
  d : Reg
  a : Reg
  imm : BitVec 8
  k : Bool

/-- Format D (R23). -/
structure FmtD where
  d : Reg
  ad : BitVec 4
  ix : BitVec 6
  md : BitVec 2
  dsp : BitVec 2
  cn : BitVec 2

/-- Format E (R24). -/
structure FmtE where
  rsv : BitVec 2
  k : BitVec 16
  ks : Bool
  cn : BitVec 4

/-- Format F (R25). -/
structure FmtF where
  fn : BitVec 5
  s : SReg
  imm : BitVec 12

/-- Format L (R26). -/
structure FmtL where
  imm : BitVec 32
  rsv : BitVec 2
  t : BitVec 5
  sh : BitVec 2
  a : Reg
  d : Reg

/-- Format W (R27). -/
structure FmtW where
  rsv : BitVec 13
  fn : BitVec 6
  sh : BitVec 3
  t : BitVec 5
  c : Reg
  b : Reg
  a : Reg
  d : Reg

/-- Format M (R29). -/
structure FmtM where
  rsv1 : BitVec 1
  fn : BitVec 5
  hn : BitVec 2
  disp : BitVec 20
  cn : BitVec 4
  rsv0 : BitVec 3
  md : BitVec 2
  ix : Reg
  ad : BitVec 4
  d : Reg

/-- Format X (R30). -/
structure FmtX where
  imm : BitVec 32
  fn : BitVec 4
  e : Reg
  ab : BitVec 4
  aa : BitVec 4
  cn : BitVec 4

/-- Format J (R31). -/
structure FmtJ where
  jn : BitVec 12
  off : BitVec 20
  rsv : BitVec 3
  sh : BitVec 2
  b : Reg
  a : Reg
  cnd : BitVec 4

/-- R19. -/
def unpackA (w : BitVec 32) : FmtA :=
  ⟨w.extractLsb' 25 7, w.extractLsb' 18 7, w.extractLsb' 11 7, w.extractLsb' 9 2⟩

/-- R21. -/
def unpackB (w : BitVec 32) : FmtB :=
  ⟨w.extractLsb' 25 7, w.extractLsb' 18 7, w.extractLsb' 10 8, bitAt w 9⟩

/-- R23. -/
def unpackD (w : BitVec 32) : FmtD :=
  ⟨w.extractLsb' 25 7, w.extractLsb' 21 4, w.extractLsb' 15 6, w.extractLsb' 13 2, w.extractLsb' 11 2,
    w.extractLsb' 9 2⟩

/-- R24. -/
def unpackE (w : BitVec 32) : FmtE :=
  ⟨w.extractLsb' 30 2, w.extractLsb' 14 16, bitAt w 13, w.extractLsb' 9 4⟩

/-- R25. -/
def unpackF (w : BitVec 32) : FmtF :=
  ⟨w.extractLsb' 27 5, w.extractLsb' 21 6, w.extractLsb' 9 12⟩

/-- R26. -/
def unpackL (x : BitVec 64) : FmtL :=
  ⟨x.extractLsb' 32 32, x.extractLsb' 30 2, x.extractLsb' 25 5, x.extractLsb' 23 2, x.extractLsb' 16 7,
    x.extractLsb' 9 7⟩

/-- R27. -/
def unpackW (x : BitVec 64) : FmtW :=
  ⟨x.extractLsb' 51 13, x.extractLsb' 45 6, x.extractLsb' 42 3, x.extractLsb' 37 5, x.extractLsb' 30 7,
    x.extractLsb' 23 7, x.extractLsb' 16 7, x.extractLsb' 9 7⟩

/-- R29. -/
def unpackM (x : BitVec 64) : FmtM :=
  ⟨x.extractLsb' 63 1, x.extractLsb' 58 5, x.extractLsb' 56 2, x.extractLsb' 36 20, x.extractLsb' 32 4,
    x.extractLsb' 29 3, x.extractLsb' 27 2, x.extractLsb' 20 7, x.extractLsb' 16 4, x.extractLsb' 9 7⟩

/-- R30. -/
def unpackX (x : BitVec 64) : FmtX :=
  ⟨x.extractLsb' 32 32, x.extractLsb' 28 4, x.extractLsb' 21 7, x.extractLsb' 17 4, x.extractLsb' 13 4,
    x.extractLsb' 9 4⟩

/-- R31. -/
def unpackJ (x : BitVec 64) : FmtJ :=
  ⟨x.extractLsb' 52 12, x.extractLsb' 32 20, x.extractLsb' 29 3, x.extractLsb' 27 2, x.extractLsb' 20 7,
    x.extractLsb' 13 7, x.extractLsb' 9 4⟩

/-- R43: one compact operation. -/
def unpackCompact (x : BitVec 31) : Except DecodeError Compact :=
  match copOf (x.extractLsb' 0 7) with
  | none => .error .unassignedCompact
  | some cop =>
    if x.extractLsb' 29 2 == 0 then
      .ok ⟨bitAt x 28, x.extractLsb' 21 7, x.extractLsb' 14 7, x.extractLsb' 7 7, cop⟩
    else .error .reservedField

/-! ### Decoding -/

/-- A three-register member of format A (R19, R20). -/
def decA3 (mk : ShA → Reg → Reg → Reg → Instr) (f : FmtA) : Except DecodeError Instr :=
  match shaOf f.sh with
  | some sh => .ok (mk sh f.d f.a f.b)
  | none => .error .reservedValue

/-- A unary member of format A: B is zero and Sh 0b01 is illegal (R274). -/
def decA2 (mk : Kind → Reg → Reg → Instr) (f : FmtA) : Except DecodeError Instr :=
  match f.sh.toNat with
  | 0 => need (f.b == 0) (mk .vec f.d f.a)
  | 2 => need (f.b == 0) (mk .scal f.d f.a)
  | _ => .error .reservedValue

/-- A float unary of format A: B is zero; the two vector shapes mean the same, for no B is read (R20, R47; R274 refuses Sh 0b01 to the
integer unaries and MOV only). -/
def decA2F (mk : Kind → Reg → Reg → Instr) (f : FmtA) : Except DecodeError Instr :=
  match f.sh.toNat with
  | 0 | 1 => need (f.b == 0) (mk .vec f.d f.a)
  | 2 => need (f.b == 0) (mk .scal f.d f.a)
  | _ => .error .reservedValue

/-- An access mode (R23). -/
def withMd (x : BitVec 2) (k : Md → Except DecodeError Instr) : Except DecodeError Instr :=
  match mdOf x with
  | some md => k md
  | none => .error .reservedValue

/-- LD or LDG in format M: Fn 0, or 1 for sign extension (R190). -/
def decLoad (mk : Bool → Hint → Md → Reg → DescNo → Reg → BitVec 20 → CtrNo → Instr) (f : FmtM) :
    Except DecodeError Instr :=
  match f.fn.toNat with
  | 0 => withMd f.md (fun md => need (f.rsv1 == 0 && f.rsv0 == 0) (mk false (hintOf f.hn) md f.d f.ad f.ix f.disp f.cn))
  | 1 => withMd f.md (fun md => need (f.rsv1 == 0 && f.rsv0 == 0) (mk true (hintOf f.hn) md f.d f.ad f.ix f.disp f.cn))
  | _ => .error .unassignedMember

/-- A format M access whose Fn is 0 (R190, R253). -/
def decStore (mk : Hint → Md → Reg → DescNo → Reg → BitVec 20 → CtrNo → Instr) (f : FmtM) :
    Except DecodeError Instr :=
  match f.fn.toNat with
  | 0 => withMd f.md (fun md => need (f.rsv1 == 0 && f.rsv0 == 0) (mk (hintOf f.hn) md f.d f.ad f.ix f.disp f.cn))
  | _ => .error .unassignedMember

/-- The operations that ATOM has (R191). -/
def atomHas : AtomFn → Bool
  | .fma => false
  | _ => true

/-- The operations that BATOM has (R191). -/
def batomHas : AtomFn → Bool
  | .exch | .cas => false
  | _ => true

/-- ATOM or BATOM (R191 to R193). -/
def decAtom (mk : AtomFn → Hint → Md → Reg → DescNo → Reg → BitVec 20 → CtrNo → Instr) (has : AtomFn → Bool)
    (f : FmtM) : Except DecodeError Instr :=
  match atomFnOf f.fn with
  | none => .error .unassignedMember
  | some op =>
    if has op then
      withMd f.md (fun md => need (f.rsv1 == 0 && f.rsv0 == 0) (mk op (hintOf f.hn) md f.d f.ad f.ix f.disp f.cn))
    else .error .unassignedMember

/-- ADLD or ADST: Md 0b10, Fn 0 and D 0–15 (R250). -/
def decDesc (mk : Hint → DescNo → DescNo → Reg → BitVec 20 → CtrNo → Instr) (f : FmtM) : Except DecodeError Instr :=
  match f.fn.toNat with
  | 0 =>
    need (f.rsv1 == 0 && f.rsv0 == 0 && f.md == 2 && f.d.extractLsb' 4 3 == 0)
      (mk (hintOf f.hn) (f.d.extractLsb' 0 4) f.ad f.ix f.disp f.cn)
  | _ => .error .unassignedMember

/-- Format X, major 0x23 (R49). -/
def decodeX23 (f : FmtX) : Except DecodeError Instr :=
  match f.fn.toNat with
  | 0 => need (f.aa == 0 && f.ab == 0 && f.imm &&& 0xF3FFF000 == 0) (.brdoInit f.e (f.imm.extractLsb' 26 2) (f.imm.extractLsb' 0 12) f.cn)
  | 1 => need (f.aa == 0 && f.ab == 0 && f.imm &&& 0xFF8080FF == 0) (.brdoAdd (f.imm.extractLsb' 16 7) f.e (f.imm.extractLsb' 8 7) f.cn)
  | 2 => need (f.aa == 0 && f.ab == 0 && f.imm &&& 0xFF8080FF == 0) (.brdoAddv (f.imm.extractLsb' 16 7) f.e (f.imm.extractLsb' 8 7) f.cn)
  | 3 => need (f.aa == 0 && f.ab == 0 && f.imm &&& 0xFF8080FF == 0) (.brdoRd (f.imm.extractLsb' 16 7) f.e (f.imm.extractLsb' 8 7) f.cn)
  | _ => .error .unassignedMember

/-- Format X, major 0x24 (R49). -/
def decodeX24 (f : FmtX) : Except DecodeError Instr :=
  match f.fn.toNat with
  | 0 => need (f.aa == 0 && f.ab == 0 && f.imm &&& 0xFFFF0000 == 0) (.barxInit f.e (f.imm.extractLsb' 0 16) f.cn)
  | 1 => need (f.aa == 0 && f.ab == 0 && f.imm &&& 0xFF80FFFF == 0) (.barxArr (f.imm.extractLsb' 16 7) f.e f.cn)
  | 2 => need (f.aa == 0 && f.ab == 0 && f.imm &&& 0xFFFF80FF == 0) (.barxTx f.e (f.imm.extractLsb' 8 7) f.cn)
  | 3 => need (f.aa == 0 && f.ab == 0 && f.imm &&& 0xFFFF80FF == 0) (.barxDone f.e (f.imm.extractLsb' 8 7) f.cn)
  | 4 => need (f.aa == 0 && f.ab == 0 && f.imm &&& 0xFF8080FF == 0) (.barxArrtx (f.imm.extractLsb' 16 7) f.e (f.imm.extractLsb' 8 7) f.cn)
  | 5 => need (f.aa == 0 && f.ab == 0 && f.imm &&& 0xFF80FFFF == 0) (.barxRd (f.imm.extractLsb' 16 7) f.e f.cn)
  | _ => .error .unassignedMember

/-- Format X, major 0x25 (R49). -/
def decodeX25 (f : FmtX) : Except DecodeError Instr :=
  match f.fn.toNat with
  | 0 => need (f.ab == 0 && f.cn == 0) (.adset f.aa f.e (f.imm.extractLsb' 0 32))
  | 1 => need (f.ab == 0 && f.cn == 0 && f.imm &&& 0xFFFFFFFF == 0) (.adsetR f.aa f.e)
  | _ => .error .unassignedMember

/-- Format X, major 0x26 (R49). -/
def decodeX26 (f : FmtX) : Except DecodeError Instr :=
  match f.fn.toNat with
  | 0 => need (f.e == 0 && f.ab == 0 && f.cn == 0 && f.imm &&& 0xFFFFFF80 == 0) (.adget .base (f.imm.extractLsb' 0 7) f.aa)
  | 1 => need (f.e == 0 && f.ab == 0 && f.cn == 0 && f.imm &&& 0xFFFFFF80 == 0) (.adget .ext (f.imm.extractLsb' 0 7) f.aa)
  | 2 => need (f.e == 0 && f.ab == 0 && f.cn == 0 && f.imm &&& 0xFFFFFF80 == 0) (.adget .attr (f.imm.extractLsb' 0 7) f.aa)
  | _ => .error .unassignedMember

/-- Format X, major 0x30 (R49). -/
def decodeX30 (f : FmtX) : Except DecodeError Instr :=
  match f.fn.toNat with
  | 0 => need (f.aa == 0 && f.ab == 0 && f.imm &&& 0xFFF00000 == 0) (.tlbinvPage f.e (f.imm.extractLsb' 0 20) f.cn)
  | 1 => need (f.e == 0 && f.aa == 0 && f.ab == 0 && f.imm &&& 0xFFFFFFFF == 0) (.tlbinvCtx f.cn)
  | 2 => need (f.aa == 0 && f.ab == 0 && f.imm &&& 0xFFFFFFFF == 0) (.tlbinvAsid f.e f.cn)
  | 3 => need (f.e == 0 && f.aa == 0 && f.ab == 0 && f.imm &&& 0xFFFFFFFF == 0) (.tlbinvAll f.cn)
  | _ => .error .unassignedMember

/-- Format X, major 0x31 (R49). -/
def decodeX31 (f : FmtX) : Except DecodeError Instr :=
  match f.fn.toNat with
  | 0 => need (f.aa == 0 && f.ab == 0 && f.imm &&& 0xFFFFFFFF == 0) (.pgmapFt f.e f.cn)
  | 1 => need (f.aa == 0 && f.ab == 0 && f.imm &&& 0xFFFFFF80 == 0) (.pgmapVa f.e (f.imm.extractLsb' 0 7) f.cn)
  | 2 => need (f.e == 0 && f.aa == 0 && f.ab == 0 && f.cn == 0 && f.imm &&& 0xFFFFFFFF == 0) (.pgmapPost )
  | _ => .error .unassignedMember

/-- Format X, major 0x32 (R49). -/
def decodeX32 (f : FmtX) : Except DecodeError Instr :=
  match f.fn.toNat with
  | 0 => need (f.aa == 0 && f.ab == 0 && f.imm &&& 0xFFFFFF80 == 0) (.pgqry .scal (f.imm.extractLsb' 0 7) f.e f.cn)
  | 1 => need (f.aa == 0 && f.ab == 0 && f.imm &&& 0xFFFFFF80 == 0) (.pgqry .vec (f.imm.extractLsb' 0 7) f.e f.cn)
  | _ => .error .unassignedMember

/-- Format X, major 0x33 (R49). -/
def decodeX33 (f : FmtX) : Except DecodeError Instr :=
  match f.fn.toNat with
  | 0 => need (f.aa == 0 && f.ab == 0 && f.imm &&& 0xFFFFC080 == 0) (.migTo (bitAt f.imm 13) (tierOf (f.imm.extractLsb' 8 2)) (f.imm.extractLsb' 10 3) (f.imm.extractLsb' 0 7) f.e f.cn)
  | 1 => need (f.aa == 0 && f.ab == 0 && f.imm &&& 0xFFFF0080 == 0) (.migFrame (bitAt f.imm 15) (f.imm.extractLsb' 8 7) (f.imm.extractLsb' 0 7) f.e f.cn)
  | 2 => need (f.aa == 0 && f.ab == 0 && f.imm &&& 0xFFFFFF80 == 0) (.migCancel (f.imm.extractLsb' 0 7) f.e f.cn)
  | _ => .error .unassignedMember

/-- Format X, major 0x34 (R49). -/
def decodeX34 (f : FmtX) : Except DecodeError Instr :=
  match f.fn.toNat with
  | 0 => need (f.aa == 0 && f.ab == 0 && f.imm &&& 0xF8000000 == 0) (.pin (f.imm.extractLsb' 20 7) f.e (f.imm.extractLsb' 0 20) f.cn)
  | _ => .error .unassignedMember

/-- Format X, major 0x35 (R49). -/
def decodeX35 (f : FmtX) : Except DecodeError Instr :=
  match f.fn.toNat with
  | 0 => need (f.aa == 0 && f.ab == 0 && f.imm &&& 0xF8000000 == 0) (.unpin (f.imm.extractLsb' 20 7) f.e (f.imm.extractLsb' 0 20) f.cn)
  | _ => .error .unassignedMember

/-- Format X, major 0x36 (R49). -/
def decodeX36 (f : FmtX) : Except DecodeError Instr :=
  match f.fn.toNat with
  | 0 => need (f.aa == 0 && f.ab == 0 && f.imm &&& 0xFFFFFF80 == 0) (.hotRd (f.imm.extractLsb' 0 7) f.e f.cn)
  | 1 => need (f.aa == 0 && f.ab == 0 && f.imm &&& 0xFFFFFFFF == 0) (.hotClr f.e f.cn)
  | _ => .error .unassignedMember

/-- Format X, major 0x37 (R49). -/
def decodeX37 (f : FmtX) : Except DecodeError Instr :=
  match f.fn.toNat with
  | 0 => need (f.aa == 0 && f.ab == 0 && f.imm &&& 0xFE000000 == 0) (.plc (tierOf (f.imm.extractLsb' 20 2)) (f.imm.extractLsb' 22 3) f.e (f.imm.extractLsb' 0 20) f.cn)
  | 1 => need (f.aa == 0 && f.ab == 0 && f.imm &&& 0xFE000000 == 0) (.plcMove (tierOf (f.imm.extractLsb' 20 2)) (f.imm.extractLsb' 22 3) f.e (f.imm.extractLsb' 0 20) f.cn)
  | _ => .error .unassignedMember

/-- Format X, major 0x38 (R49). -/
def decodeX38 (f : FmtX) : Except DecodeError Instr :=
  match f.fn.toNat with
  | 0 => need (f.aa == 0 && f.ab == 0 && f.imm &&& 0xFF80F000 == 0) (.treg (f.imm.extractLsb' 16 7) f.e (f.imm.extractLsb' 0 12) f.cn)
  | _ => .error .unassignedMember

/-- Format X, major 0x39 (R49). -/
def decodeX39 (f : FmtX) : Except DecodeError Instr :=
  match f.fn.toNat with
  | 0 => need (f.ab == 0 && f.imm &&& 0xFFFFFFFF == 0) (.tunreg f.e f.aa f.cn)
  | _ => .error .unassignedMember

/-- Format X, major 0x3A (R49). -/
def decodeX3a (f : FmtX) : Except DecodeError Instr :=
  match f.fn.toNat with
  | 0 => need (f.ab == 0 && f.imm &&& 0x0000FF80 == 0) (.tld false (f.imm.extractLsb' 0 7) f.aa f.e (f.imm.extractLsb' 16 16) f.cn)
  | 1 => need (f.ab == 0 && f.imm &&& 0x0000FF80 == 0) (.tld true (f.imm.extractLsb' 0 7) f.aa f.e (f.imm.extractLsb' 16 16) f.cn)
  | _ => .error .unassignedMember

/-- Format X, major 0x3B (R49). -/
def decodeX3b (f : FmtX) : Except DecodeError Instr :=
  match f.fn.toNat with
  | 0 => need (f.ab == 0 && f.imm &&& 0x0000FF80 == 0) (.tst false (f.imm.extractLsb' 0 7) f.aa f.e (f.imm.extractLsb' 16 16) f.cn)
  | 1 => need (f.ab == 0 && f.imm &&& 0x0000FF80 == 0) (.tst true (f.imm.extractLsb' 0 7) f.aa f.e (f.imm.extractLsb' 16 16) f.cn)
  | _ => .error .unassignedMember

/-- Format X, major 0x3C (R49). -/
def decodeX3c (f : FmtX) : Except DecodeError Instr :=
  match f.fn.toNat with
  | 0 => need (f.ab == 0 && f.imm &&& 0xFFFFE000 == 0) (.tpf (bitAt f.imm 12) f.aa f.e (f.imm.extractLsb' 8 4) (f.imm.extractLsb' 0 8) f.cn)
  | _ => .error .unassignedMember

/-- Format X, major 0x3D (R49). -/
def decodeX3d (f : FmtX) : Except DecodeError Instr :=
  match f.fn.toNat with
  | 0 => need (f.ab == 0) (.thalo false (bitAt f.imm 7) (f.imm.extractLsb' 0 7) f.aa f.e (f.imm.extractLsb' 8 4) (f.imm.extractLsb' 12 4) (f.imm.extractLsb' 16 16) f.cn)
  | 1 => need (f.ab == 0) (.thalo true (bitAt f.imm 7) (f.imm.extractLsb' 0 7) f.aa f.e (f.imm.extractLsb' 8 4) (f.imm.extractLsb' 12 4) (f.imm.extractLsb' 16 16) f.cn)
  | _ => .error .unassignedMember

/-- Format X, major 0x3E (R49). -/
def decodeX3e (f : FmtX) : Except DecodeError Instr :=
  match f.fn.toNat with
  | 0 => need (f.ab == 0 && f.imm &&& 0xFFFFFFFF == 0) (.tinv false f.e f.aa f.cn)
  | 1 => need (f.ab == 0 && f.imm &&& 0xFFFFFFFF == 0) (.tinv true f.e f.aa f.cn)
  | _ => .error .unassignedMember

/-- Format X, major 0x3F (R49). -/
def decodeX3f (f : FmtX) : Except DecodeError Instr :=
  match f.fn.toNat with
  | 0 => need (f.ab == 0 && f.imm &&& 0xFFFFFF80 == 0) (.tqry (f.imm.extractLsb' 0 7) f.aa f.e f.cn)
  | _ => .error .unassignedMember

/-- Format X, major 0x40 (R49). -/
def decodeX40 (f : FmtX) : Except DecodeError Instr :=
  match f.fn.toNat with
  | 0 => need (f.imm &&& 0xFFFFE000 == 0) (.cpy (f.imm.extractLsb' 8 5) (bitAt f.imm 7) (f.imm.extractLsb' 0 7) f.aa f.ab f.e f.cn)
  | _ => .error .unassignedMember

/-- Format X, major 0x41 (R49). -/
def decodeX41 (f : FmtX) : Except DecodeError Instr :=
  match f.fn.toNat with
  | 0 => need (f.imm &&& 0xFFFFE000 == 0) (.cpyb (f.imm.extractLsb' 8 5) (bitAt f.imm 7) (f.imm.extractLsb' 0 7) f.aa f.ab f.e f.cn)
  | _ => .error .unassignedMember

/-- Format X, major 0x42 (R49). -/
def decodeX42 (f : FmtX) : Except DecodeError Instr :=
  match f.fn.toNat with
  | 0 => need (f.aa == 0 && f.ab == 0 && f.imm &&& 0xFFFFFFFF == 0) (.close f.e f.cn)
  | _ => .error .unassignedMember

/-- Format X, major 0x43 (R49). -/
def decodeX43 (f : FmtX) : Except DecodeError Instr :=
  match f.fn.toNat with
  | 0 => need (f.aa == 0 && f.ab == 0 && f.imm &&& 0xFFFFFF00 == 0) (.job (bitAt f.imm 7) (f.imm.extractLsb' 0 7) f.e f.cn)
  | _ => .error .unassignedMember

/-- Format X, major 0x44 (R49). -/
def decodeX44 (f : FmtX) : Except DecodeError Instr :=
  match f.fn.toNat with
  | 0 => need (f.aa == 0 && f.ab == 0 && f.imm &&& 0xFFFFFF80 == 0) (.jst (f.imm.extractLsb' 0 7) f.e f.cn)
  | _ => .error .unassignedMember

/-- Format X, major 0x45 (R49). -/
def decodeX45 (f : FmtX) : Except DecodeError Instr :=
  match f.fn.toNat with
  | 0 => need (f.ab == 0 && f.imm &&& 0xFFFFFFE0 == 0) (.strm 0 f.aa f.e (bitAt f.imm 4) (hintOf (f.imm.extractLsb' 2 2)) (f.imm.extractLsb' 0 2) f.cn)
  | 1 => need (f.ab == 0 && f.imm &&& 0xFFFFFFE0 == 0) (.strm 1 f.aa f.e (bitAt f.imm 4) (hintOf (f.imm.extractLsb' 2 2)) (f.imm.extractLsb' 0 2) f.cn)
  | 2 => need (f.ab == 0 && f.imm &&& 0xFFFFFFE0 == 0) (.strm 2 f.aa f.e (bitAt f.imm 4) (hintOf (f.imm.extractLsb' 2 2)) (f.imm.extractLsb' 0 2) f.cn)
  | 3 => need (f.ab == 0 && f.imm &&& 0xFFFFFFE0 == 0) (.strm 3 f.aa f.e (bitAt f.imm 4) (hintOf (f.imm.extractLsb' 2 2)) (f.imm.extractLsb' 0 2) f.cn)
  | _ => .error .unassignedMember

/-- Format X, major 0x46 (R49). -/
def decodeX46 (f : FmtX) : Except DecodeError Instr :=
  match f.fn.toNat with
  | 0 => need (f.e == 0 && f.aa == 0 && f.ab == 0 && f.imm &&& 0xFFFFFFFF == 0) (.sclose (.one 0) f.cn)
  | 1 => need (f.e == 0 && f.aa == 0 && f.ab == 0 && f.imm &&& 0xFFFFFFFF == 0) (.sclose (.one 1) f.cn)
  | 2 => need (f.e == 0 && f.aa == 0 && f.ab == 0 && f.imm &&& 0xFFFFFFFF == 0) (.sclose (.one 2) f.cn)
  | 3 => need (f.e == 0 && f.aa == 0 && f.ab == 0 && f.imm &&& 0xFFFFFFFF == 0) (.sclose (.one 3) f.cn)
  | 4 => need (f.e == 0 && f.aa == 0 && f.ab == 0 && f.imm &&& 0xFFFFFFFF == 0) (.sclose .all f.cn)
  | _ => .error .unassignedMember

/-- Format X, major 0x47 (R49). -/
def decodeX47 (f : FmtX) : Except DecodeError Instr :=
  match f.fn.toNat with
  | 0 => need (f.imm &&& 0xFFF0A000 == 0) (.mvn (f.imm.extractLsb' 16 4) (bitAt f.imm 14) (f.imm.extractLsb' 8 5) (bitAt f.imm 7) (f.imm.extractLsb' 0 7) f.aa f.ab f.e f.cn)
  | _ => .error .unassignedMember

/-- Format X, major 0x48 (R49). -/
def decodeX48 (f : FmtX) : Except DecodeError Instr :=
  match f.fn.toNat with
  | 0 => need (f.aa == 0 && f.ab == 0 && f.cn == 0 && f.imm &&& 0xFFC0F080 == 0) (.obres (f.imm.extractLsb' 16 4) (f.imm.extractLsb' 20 2) (f.imm.extractLsb' 8 4) (f.imm.extractLsb' 0 7) f.e)
  | _ => .error .unassignedMember

/-- Format X, major 0x49 (R49). -/
def decodeX49 (f : FmtX) : Except DecodeError Instr :=
  match f.fn.toNat with
  | 0 => need (f.e == 0 && f.aa == 0 && f.ab == 0 && f.imm &&& 0xFFFFF0FF == 0) (.obrel (f.imm.extractLsb' 8 4) f.cn)
  | _ => .error .unassignedMember

/-- Format X, major 0x4A (R49). -/
def decodeX4a (f : FmtX) : Except DecodeError Instr :=
  match f.fn.toNat with
  | 0 => need (f.ab == 0 && f.imm &&& 0x0000F0FF == 0) (.obld (f.imm.extractLsb' 16 16) (f.imm.extractLsb' 8 4) f.aa f.e f.cn)
  | 1 => need (f.ab == 0 && f.imm &&& 0x0000F0FF == 0) (.obldRec (f.imm.extractLsb' 16 16) (f.imm.extractLsb' 8 4) f.aa f.e f.cn)
  | _ => .error .unassignedMember

/-- Format X, major 0x4B (R49). -/
def decodeX4b (f : FmtX) : Except DecodeError Instr :=
  match f.fn.toNat with
  | 0 => need (f.aa == 0 && f.ab == 0 && f.imm &&& 0x00F0F0FF == 0) (.mma (bitAt f.imm 31) (bitAt f.imm 30) (f.imm.extractLsb' 24 6) (f.imm.extractLsb' 16 4) (f.imm.extractLsb' 8 4) f.e f.cn)
  | _ => .error .unassignedMember

/-- Format X, major 0x4C (R49). -/
def decodeX4c (f : FmtX) : Except DecodeError Instr :=
  match f.fn.toNat with
  | 0 => need (f.aa == 0 && f.ab == 0 && f.imm &&& 0x00F0F0FF == 0) (.mloop (bitAt f.imm 31) (bitAt f.imm 30) (f.imm.extractLsb' 24 6) (f.imm.extractLsb' 16 4) (f.imm.extractLsb' 8 4) f.e f.cn)
  | _ => .error .unassignedMember

/-- Format X, major 0x4D (R49). -/
def decodeX4d (f : FmtX) : Except DecodeError Instr :=
  match f.fn.toNat with
  | 0 => match accKindOf (f.imm.extractLsb' 0 2) with
      | some k => need (f.e == 0 && f.aa == 0 && f.ab == 0 && f.imm &&& 0xC0FFFFFC == 0) (.acz k (f.imm.extractLsb' 24 6) f.cn)
      | none => .error .reservedValue
  | 1 => need (f.e == 0 && f.aa == 0 && f.ab == 0 && f.imm &&& 0xC0FFFFFF == 0) (.aczRel (f.imm.extractLsb' 24 6) f.cn)
  | _ => .error .unassignedMember

/-- Format X, major 0x4E (R49). -/
def decodeX4e (f : FmtX) : Except DecodeError Instr :=
  match f.fn.toNat with
  | 0 => need (f.ab == 0 && f.imm &&& 0xC0FFFFFF == 0) (.acld (.mem f.aa) (f.imm.extractLsb' 24 6) f.e f.cn)
  | 1 => need (f.aa == 0 && f.ab == 0 && f.imm &&& 0xC0FFFFFF == 0) (.acld .regs (f.imm.extractLsb' 24 6) f.e f.cn)
  | _ => .error .unassignedMember

/-- Format X, major 0x4F (R49). -/
def decodeX4f (f : FmtX) : Except DecodeError Instr :=
  match f.fn.toNat with
  | 0 => need (f.ab == 0 && f.imm &&& 0xC0FFFFFF == 0) (.acst (.mem f.aa) (f.imm.extractLsb' 24 6) f.e f.cn)
  | 1 => need (f.aa == 0 && f.ab == 0 && f.imm &&& 0xC0FFFFFF == 0) (.acst .regs (f.imm.extractLsb' 24 6) f.e f.cn)
  | _ => .error .unassignedMember

/-- Format X, major 0x50 (R49). -/
def decodeX50 (f : FmtX) : Except DecodeError Instr :=
  match f.fn.toNat with
  | 0 => need (f.e == 0 && f.aa == 0 && f.ab == 0 && f.imm &&& 0xC0FFFF80 == 0) (.mstat (.acc (f.imm.extractLsb' 24 6)) (f.imm.extractLsb' 0 7) f.cn)
  | 1 => need (f.e == 0 && f.aa == 0 && f.ab == 0 && f.imm &&& 0xFFFFF080 == 0) (.mstat (.ob (f.imm.extractLsb' 8 4)) (f.imm.extractLsb' 0 7) f.cn)
  | 2 => need (f.e == 0 && f.aa == 0 && f.ab == 0 && f.imm &&& 0xFFFFFF80 == 0) (.mstat .eng (f.imm.extractLsb' 0 7) f.cn)
  | _ => .error .unassignedMember

/-- Format X, major 0x51 (R49). -/
def decodeX51 (f : FmtX) : Except DecodeError Instr :=
  match f.fn.toNat with
  | 0 => need (f.ab == 0 && f.imm &&& 0xFFFFC0C0 == 0) (.put (f.imm.extractLsb' 0 6) (f.imm.extractLsb' 8 6) f.aa f.e f.cn)
  | _ => .error .unassignedMember

/-- Format X, major 0x52 (R49). -/
def decodeX52 (f : FmtX) : Except DecodeError Instr :=
  match f.fn.toNat with
  | 0 => need (f.aa == 0 && f.ab == 0 && f.imm &&& 0xFF80FFC0 == 0) (.wreg (f.imm.extractLsb' 16 7) (f.imm.extractLsb' 0 6) f.e f.cn)
  | 1 => need (f.e == 0 && f.aa == 0 && f.ab == 0 && f.imm &&& 0xFF80FFC0 == 0) (.wregRel (f.imm.extractLsb' 16 7) (f.imm.extractLsb' 0 6) f.cn)
  | _ => .error .unassignedMember

/-- Format X, major 0x53 (R49). -/
def decodeX53 (f : FmtX) : Except DecodeError Instr :=
  match f.fn.toNat with
  | 0 => need (f.e == 0 && f.aa == 0 && f.ab == 0 && f.cn == 0 && f.imm &&& 0xFF80FFC0 == 0) (.wctr false (f.imm.extractLsb' 16 7) (f.imm.extractLsb' 0 6))
  | 1 => need (f.e == 0 && f.aa == 0 && f.ab == 0 && f.cn == 0 && f.imm &&& 0xFF80FFC0 == 0) (.wctr true (f.imm.extractLsb' 16 7) (f.imm.extractLsb' 0 6))
  | _ => .error .unassignedMember

/-- Format X, major 0x54 (R49). -/
def decodeX54 (f : FmtX) : Except DecodeError Instr :=
  match f.fn.toNat with
  | 0 => need (f.aa == 0 && f.ab == 0 && f.cn == 0 && f.imm &&& 0xFFFFFFC0 == 0) (.wwait false (f.imm.extractLsb' 0 6) f.e)
  | 1 => need (f.aa == 0 && f.ab == 0 && f.cn == 0 && f.imm &&& 0xFFFFFFC0 == 0) (.wwait true (f.imm.extractLsb' 0 6) f.e)
  | _ => .error .unassignedMember

/-- Format X, major 0x55 (R49). -/
def decodeX55 (f : FmtX) : Except DecodeError Instr :=
  match f.fn.toNat with
  | 0 => need (f.aa == 0 && f.ab == 0 && f.imm &&& 0xFFFFFFFF == 0) (.fork f.e f.cn)
  | _ => .error .unassignedMember

/-- The 32-bit majors of format A (R48). -/
def decodeA (major : Nat) (f : FmtA) : Except DecodeError Instr :=
  match major with
  | 0x20 => decA3 .add f
  | 0x21 => decA3 .sub f
  | 0x22 => decA3 .mul f
  | 0x23 => decA3 .mulh f
  | 0x24 => decA3 .div f
  | 0x25 => decA3 .rem f
  | 0x26 => decA3 .min f
  | 0x27 => decA3 .max f
  | 0x28 => decA3 .and f
  | 0x29 => decA3 .or f
  | 0x2A => decA3 .xor f
  | 0x2B => decA3 .andn f
  | 0x2C => decA3 .shl f
  | 0x2D => decA3 .shr f
  | 0x2E => decA3 .sra f
  | 0x2F => decA3 .rot f
  | 0x30 => decA2 .abs f
  | 0x31 => decA2 .neg f
  | 0x32 => decA2 .clz f
  | 0x33 => decA2 .ctz f
  | 0x34 => decA2 .popc f
  | 0x35 => decA2 .brev f
  | 0x36 => decA2 .mov f
  | 0x37 => if f.sh.toNat = 1 then need (f.a == 0) (.movs f.d f.b) else .error .reservedValue
  | 0x38 =>
    match f.sh.toNat with
    | 0 => .ok (.extGet f.d f.a f.b)
    | 1 => .ok (.extPut f.d f.a f.b)
    | _ => .error .unassignedMember
  | 0x39 => decA2 .iget f
  | 0x3A => if f.a == 0 then decA2 (fun k d _ => .itop k d) f else .error .reservedField
  | 0x3B =>
    match f.sh.toNat with
    | 0 => need (f.b == 0) (.vote .any f.d f.a)
    | 1 => need (f.b == 0) (.vote .all f.d f.a)
    | 2 => need (f.b == 0) (.vote .ballot f.d f.a)
    | _ => .error .unassignedMember
  | 0x3C =>
    match f.sh.toNat with
    | 0 => .ok (.shfl .idx f.d f.a f.b)
    | 1 => .ok (.shfl .up f.d f.a f.b)
    | 2 => .ok (.shfl .down f.d f.a f.b)
    | _ => .ok (.shfl .xor f.d f.a f.b)
  | 0x3D =>
    match laneOpOf f.sh with
    | some op => need (f.b == 0) (.red op f.d f.a)
    | none => .error .unassignedMember
  | 0x3E =>
    match laneOpOf f.sh with
    | some op => need (f.b == 0) (.scan op f.d f.a)
    | none => .error .unassignedMember
  | 0x50 => decA3 .fadd f
  | 0x51 => decA3 .fsub f
  | 0x52 => decA3 .fmul f
  | 0x53 => decA3 .fmin f
  | 0x54 => decA3 .fmax f
  | 0x55 => decA3 .fdiv f
  | 0x56 => decA2F .fsqrt f
  | 0x57 => decA2F .frcp f
  | 0x58 => decA2F .frsq f
  | 0x59 => decA2F .fexp2 f
  | 0x5A => decA2F .flog2 f
  | 0x5B => decA2F .fsin f
  | 0x5C => decA2F .fcos f
  | 0x5D => decA2F .ftanh f
  | 0x5E => decA2F .frnd f
  | 0x5F => decA2F .fclass f
  | _ => .error .unassignedMajor

/-- The 32-bit majors of format B (R48). -/
def decodeB (major : Nat) (f : FmtB) : Except DecodeError Instr :=
  match major with
  | 0x40 => .ok (.addImm8 (kindOf f.k) f.d f.a f.imm)
  | 0x41 => .ok (.andImm8 (kindOf f.k) f.d f.a f.imm)
  | 0x42 => .ok (.orImm8 (kindOf f.k) f.d f.a f.imm)
  | 0x43 => .ok (.xorImm8 (kindOf f.k) f.d f.a f.imm)
  | 0x44 => need (f.imm &&& 0xE0 == 0) (.shlImm (kindOf f.k) f.d f.a (f.imm.extractLsb' 0 5))
  | 0x45 => need (f.imm &&& 0xE0 == 0) (.shrImm (kindOf f.k) f.d f.a (f.imm.extractLsb' 0 5))
  | 0x46 => need (f.imm &&& 0xE0 == 0) (.sraImm (kindOf f.k) f.d f.a (f.imm.extractLsb' 0 5))
  | 0x47 => need (f.imm &&& 0xE0 == 0) (.rotImm (kindOf f.k) f.d f.a (f.imm.extractLsb' 0 5))
  | 0x48 => .ok (.minImm (kindOf f.k) f.d f.a f.imm)
  | 0x49 => .ok (.maxImm (kindOf f.k) f.d f.a f.imm)
  | 0x4A => need (f.a == 0) (.li (kindOf f.k) f.d f.imm)
  | 0x4B =>
    if f.k then need (f.imm &&& 0x80 == 0) (.shflXorImm f.d f.a (f.imm.extractLsb' 0 7)) else .ok (.shflImm f.d f.a f.imm)
  | 0x4C => need (f.a == 0) (.widr (kindOf f.k) f.d f.imm)
  | 0x4D => need (f.a == 0 && f.imm &&& 0xE0 == 0) (.rdflg (kindOf f.k) f.d (f.imm.extractLsb' 0 5))
  | 0x4E => need (f.a == 0 && f.d == 0 && f.imm &&& 0xE0 == 0) (.clflg (kindOf f.k) (f.imm.extractLsb' 0 5))
  | _ => .error .unassignedMajor

/-- An instruction of format F that defines no subfunction: another Fn is unassigned (R25, R47). -/
def needFn (f : FmtF) (ok : Bool) (i : Instr) : Except DecodeError Instr :=
  if f.fn ≠ 0 then .error .unassignedMember else need ok i

/-- The 32-bit majors of format F (R48). -/
def decodeF (major : Nat) (f : FmtF) : Except DecodeError Instr :=
  match major with
  | 0x01 => needFn f (f.s == 0 && f.imm == 0) .nop
  | 0x02 => needFn f (f.s == 0 && f.imm == 0) .exit
  | 0x03 => needFn f (f.s == 0 && f.imm == 0) .yield
  | 0x04 => needFn f (f.s == 0 && f.imm == 0) .halt
  | 0x07 => needFn f (f.s == 0 && f.imm == 0) .rfe
  | 0x13 => needFn f (f.s == 0 && f.imm == 0) .ret
  | 0x14 => needFn f (f.s == 0 && f.imm == 0) .join
  | 0x05 => needFn f (f.s == 0) (.brk f.imm)
  | 0x06 => needFn f (f.s == 0) (.trap f.imm)
  | 0x08 => needFn f true (.csrr f.s f.imm)
  | 0x09 => needFn f true (.csrw f.imm f.s)
  | 0x0A => needFn f true (.csrs f.imm f.s)
  | 0x0B => needFn f true (.csrc f.imm f.s)
  | 0x0C => needFn f (f.imm == 0) (.rdtime f.s)
  | 0x0D =>
    match f.fn.toNat with
    | 0 => need (f.imm == 0) (.gwidPack f.s)
    | 1 => need (f.imm == 0) (.gwidWidth f.s)
    | 2 => need (f.imm == 0) (.gwidLive f.s)
    | 3 => need (f.imm == 0) (.gwidSlices f.s)
    | 4 => need (f.imm == 0) (.gwidSlot f.s)
    | _ => .error .unassignedMember
  | 0x0E => needFn f (f.s == 0 && f.imm &&& 7 == 0) (.vgrow (f.imm.extractLsb' 7 5) (f.imm.extractLsb' 3 4))
  | 0x0F => needFn f (f.s == 0 && f.imm &&& 7 == 0) (.vshrink (f.imm.extractLsb' 7 5) (f.imm.extractLsb' 3 4))
  | 0x12 =>
    match f.fn.toNat with
    | 0 => need (f.imm == 0) (.jr f.s)
    | 1 => need (f.imm == 0) (.jrL f.s)
    | _ => .error .unassignedMember
  | _ => .error .unassignedMajor

/-- The 32-bit majors of format E (R48). -/
def decodeE (major : Nat) (f : FmtE) : Except DecodeError Instr :=
  if 0x1C < major then .error .unassignedMajor
  else if f.rsv ≠ 0 then .error .reservedField else
  match major with
  | 0x18 => if f.ks then need (f.k.extractLsb' 6 10 == 0) (.waitReg f.cn (f.k.extractLsb' 0 6)) else .ok (.wait f.cn f.k)
  | 0x19 => if f.ks then need (f.k.extractLsb' 6 10 == 0) (.csetReg f.cn (f.k.extractLsb' 0 6)) else .ok (.cset f.cn f.k)
  | 0x1A => if f.ks then need (f.k.extractLsb' 6 10 == 0) (.cget (f.k.extractLsb' 0 6) f.cn) else .error .reservedValue
  | 0x1B => if f.ks then .error .reservedValue else need (f.k == 0) (.bar f.cn)
  | 0x1C => if f.ks then need (f.k.extractLsb' 6 10 == 0) (.barTxReg f.cn (f.k.extractLsb' 0 6)) else .ok (.barTx f.cn f.k)
  | _ => .error .unassignedMajor

/-- The 32-bit majors of format D (R48). -/
def decodeD (major : Nat) (f : FmtD) : Except DecodeError Instr :=
  match major with
  | 0x60 => withMd f.md (fun md => .ok (.ld md f.d f.ad f.ix f.dsp f.cn))
  | 0x61 => withMd f.md (fun md => .ok (.st md f.d f.ad f.ix f.dsp f.cn))
  | 0x62 => withMd f.md (fun md => .ok (.ldg md f.d f.ad f.ix f.dsp f.cn))
  | 0x63 => withMd f.md (fun md => .ok (.stg md f.d f.ad f.ix f.dsp f.cn))
  | 0x64 => withMd f.md (fun md => need (f.d == 0) (.pf md f.ad f.ix f.dsp f.cn))
  | _ => .error .unassignedMajor

/-- Format C: B and CALL (R22). -/
def decodeC (w : BitVec 32) (mk : BitVec 22 → Instr) : Except DecodeError Instr :=
  need (!bitAt w 9) (mk (w.extractLsb' 10 22))

/-- The 7-bit major opcode (R17). -/
def majorOf (w : BitVec 32) : BitVec 7 := w.extractLsb' 2 7

/-- An instruction of kind 0b00, before the field rules of `instrWf` (R48). -/
def decode32 (w : BitVec 32) : Except DecodeError Instr :=
  let m := (majorOf w).toNat
  if m < 0x10 then decodeF m (unpackF w)
  else if m = 0x10 then decodeC w .b
  else if m = 0x11 then decodeC w .call
  else if m < 0x18 then decodeF m (unpackF w)
  else if m < 0x1D then decodeE m (unpackE w)
  else if m < 0x20 then .error .unassignedMajor
  else if m < 0x40 then decodeA m (unpackA w)
  else if m < 0x50 then decodeB m (unpackB w)
  else if m < 0x60 then decodeA m (unpackA w)
  else decodeD m (unpackD w)

/-- Format L: the type and the shape of the five immediate majors (R26, R283). -/
def decL (mk : Ty → Kind → Reg → Reg → BitVec 32 → Except DecodeError Instr) (f : FmtL) : Except DecodeError Instr :=
  if f.rsv ≠ 0 then .error .reservedField else
  match tyOf f.t, f.sh.toNat with
  | some t, 0 => mk t .vec f.d f.a f.imm
  | some t, 2 => mk t .scal f.d f.a f.imm
  | _, _ => .error .reservedValue

/-- Format W: the type and the shape (R27). -/
def decW (f : FmtW) (k : Ty → ShW → Except DecodeError Instr) : Except DecodeError Instr :=
  if f.rsv ≠ 0 then .error .reservedField else
  match tyOf f.t, shwOf f.sh with
  | some t, some sh => k t sh
  | _, _ => .error .reservedValue

/-- A kind from a format W shape without scalar B or C (R274). -/
def withKindW (sh : ShW) (k : Kind → Except DecodeError Instr) : Except DecodeError Instr :=
  match sh with
  | .vvv => k .vec
  | .sss => k .scal
  | _ => .error .reservedValue

/-- CMP (R287). -/
def decCmp (f : FmtW) : Except DecodeError Instr :=
  match condOf f.fn with
  | none => .error .reservedValue
  | some c => decW f fun t sh => need (f.c == 0) (.cmp c t sh f.d f.a f.b)

/-- FCMP (R288). -/
def decFcmp (f : FmtW) : Except DecodeError Instr :=
  match fcondOf f.fn with
  | none => .error .reservedValue
  | some c => decW f fun t sh => need (f.c == 0) (.fcmp c t sh f.d f.a f.b)

/-- The integer group (R279). -/
def decIntGroup (f : FmtW) : Except DecodeError Instr :=
  if f.fn.toNat = 22 then decW f fun t sh => need (f.c == 0) (.bfx t sh f.d f.a f.b)
  else match intFnOf f.fn with
    | none => .error .unassignedMember
    | some fn => decW f fun t sh => need (f.c == 0) (.integerGroup fn t sh f.d f.a f.b)

/-- The floating group (R289). -/
def decFloatGroup (f : FmtW) : Except DecodeError Instr :=
  match floatFnOf f.fn with
  | none => .error .unassignedMember
  | some fn => decW f fun t sh => need (f.c == 0) (.floatingGroup fn t sh f.d f.a f.b)

/-- The packed and quantize group (R294). -/
def decPacked (f : FmtW) : Except DecodeError Instr :=
  match f.fn.toNat with
  | 0 => decW f fun t sh => need (f.c == 0) (.padd t sh f.d f.a f.b)
  | 1 => decW f fun t sh => need (f.c == 0) (.pmul t sh f.d f.a f.b)
  | 2 => decW f fun t sh => .ok (.pfma t sh f.d f.a f.b f.c)
  | 3 => decW f fun t sh => .ok (.pdot t sh f.d f.a f.b f.c)
  | 4 => decW f fun t sh => .ok (.qcvt t sh f.d f.a f.b f.c)
  | 5 => decW f fun t sh => .ok (.dqcvt t sh f.d f.a f.b f.c)
  | _ => .error .unassignedMember

/-- The conversion group: the member follows from the kinds of the two types (R292). -/
def decConv (f : FmtW) : Except DecodeError Instr :=
  match tyOf (f.fn.extractLsb' 0 5), bitAt f.fn 5 with
  | some src, false =>
    decW f fun dst sh =>
      if tyIsInt src && tyIsInt dst then withKindW sh fun k => need (f.b == 0 && f.c == 0) (.cvt dst src k f.d f.a)
      else if tyIsInt src && tyIsFloat dst then
        withKindW sh fun k => need (f.b == 0 && f.c == 0) (.icvtf dst src k f.d f.a)
      else if tyIsFloat src && tyIsInt dst then
        withKindW sh fun k => need (f.b == 0 && f.c == 0) (.fcvti dst src k f.d f.a)
      else need (f.b == 0) (.fcvt dst src sh f.d f.a f.c)
  | _, _ => .error .unassignedMember

/-- The three-source group (R286). -/
def decThree (f : FmtW) : Except DecodeError Instr :=
  match f.fn.toNat with
  | 0 => decW f fun t sh => .ok (.ffma t sh f.d f.a f.b f.c)
  | 1 => decW f fun t sh => .ok (.mad t sh f.d f.a f.b f.c)
  | 2 => decW f fun t sh => .ok (.clamp t sh f.d f.a f.b f.c)
  | 3 => decW f fun t sh => .ok (.sel t sh f.d f.a f.b f.c)
  | 4 => decW f fun t sh => .ok (.bfi t sh f.d f.a f.b f.c)
  | _ => .error .unassignedMember

/-- The special-function group (R289). -/
def decSpecGroup (f : FmtW) : Except DecodeError Instr :=
  match specFnOf f.fn with
  | none => .error .unassignedMember
  | some fn => decW f fun t sh => withKindW sh fun k => need (f.b == 0 && f.c == 0) (.specialFunctionGroup fn t k f.d f.a)

/-- IWDN and ISET: T, Fn and A zero, Sh 0b010 or 0b011 (R251). -/
def decInterval (mk : Kind → Reg → Reg → Reg → Instr) (f : FmtW) : Except DecodeError Instr :=
  if f.fn ≠ 0 then .error .unassignedMember
  else decW f fun t sh =>
    match sh with
    | .vss => need (t == .i32 && f.a == 0) (mk .vec f.d f.b f.c)
    | .sss => need (t == .i32 && f.a == 0) (mk .scal f.d f.b f.c)
    | _ => .error .reservedValue

/-- BC and LOOP: Sh 0b00 or 0b01 and no join (R31, R364). -/
def decBranch (mk : Cond → Bool → Reg → Reg → BitVec 20 → Instr) (f : FmtJ) : Except DecodeError Instr :=
  match condOf (f.cnd.setWidth 6), f.sh.toNat with
  | some c, 0 => need (f.rsv == 0 && f.jn == 0) (mk c false f.a f.b f.off)
  | some c, 1 => need (f.rsv == 0 && f.jn == 0) (mk c true f.a f.b f.off)
  | _, _ => .error .reservedValue

/-- VB: Sh 0b10 or 0b11 (R31, R365). -/
def decVb (f : FmtJ) : Except DecodeError Instr :=
  match condOf (f.cnd.setWidth 6), f.sh.toNat with
  | some c, 2 => need (f.rsv == 0) (.vb c false f.a f.b f.off f.jn)
  | some c, 3 => need (f.rsv == 0) (.vb c true f.a f.b f.off f.jn)
  | _, _ => .error .reservedValue

/-- An instruction of kind 0b01, before the field rules of `instrWf` (R49). -/
def decode64 (x : BitVec 64) : Except DecodeError Instr :=
  match (majorOf (x.extractLsb' 0 32)).toNat with
  | 0x01 => decL (fun t k d a imm => need (a == 0) (.liImm32 t k d imm)) (unpackL x)
  | 0x02 => decL (fun t k d a imm => .ok (.addImm32 t k d a imm)) (unpackL x)
  | 0x03 => decL (fun t k d a imm => .ok (.andImm32 t k d a imm)) (unpackL x)
  | 0x04 => decL (fun t k d a imm => .ok (.orImm32 t k d a imm)) (unpackL x)
  | 0x05 => decL (fun t k d a imm => .ok (.xorImm32 t k d a imm)) (unpackL x)
  | 0x06 => decCmp (unpackW x)
  | 0x07 => decFcmp (unpackW x)
  | 0x08 => decIntGroup (unpackW x)
  | 0x09 => decFloatGroup (unpackW x)
  | 0x0A => decPacked (unpackW x)
  | 0x0B => decConv (unpackW x)
  | 0x0C => decThree (unpackW x)
  | 0x0D => decSpecGroup (unpackW x)
  | 0x10 => decBranch .bc (unpackJ x)
  | 0x11 => decBranch .loop (unpackJ x)
  | 0x12 => decVb (unpackJ x)
  | 0x18 => decLoad .ldLong (unpackM x)
  | 0x19 => decStore .stLong (unpackM x)
  | 0x1A => decLoad .ldgLong (unpackM x)
  | 0x1B => decStore .stgLong (unpackM x)
  | 0x1C => decStore (fun hn md _ ad ix disp cn => .pfLong hn md ad ix disp cn) (unpackM x) >>= fun i => need ((unpackM x).d == 0) i
  | 0x1D => decAtom .atom atomHas (unpackM x)
  | 0x1E => decAtom .batom batomHas (unpackM x)
  | 0x1F => decStore .ldSh (unpackM x)
  | 0x20 => decStore .stSh (unpackM x)
  | 0x21 => decDesc .adld (unpackM x)
  | 0x22 => decDesc .adst (unpackM x)
  | 0x28 => decInterval .iwdn (unpackW x)
  | 0x29 => decInterval .iset (unpackW x)
  | 0x23 => decodeX23 (unpackX x)
  | 0x24 => decodeX24 (unpackX x)
  | 0x25 => decodeX25 (unpackX x)
  | 0x26 => decodeX26 (unpackX x)
  | 0x30 => decodeX30 (unpackX x)
  | 0x31 => decodeX31 (unpackX x)
  | 0x32 => decodeX32 (unpackX x)
  | 0x33 => decodeX33 (unpackX x)
  | 0x34 => decodeX34 (unpackX x)
  | 0x35 => decodeX35 (unpackX x)
  | 0x36 => decodeX36 (unpackX x)
  | 0x37 => decodeX37 (unpackX x)
  | 0x38 => decodeX38 (unpackX x)
  | 0x39 => decodeX39 (unpackX x)
  | 0x3A => decodeX3a (unpackX x)
  | 0x3B => decodeX3b (unpackX x)
  | 0x3C => decodeX3c (unpackX x)
  | 0x3D => decodeX3d (unpackX x)
  | 0x3E => decodeX3e (unpackX x)
  | 0x3F => decodeX3f (unpackX x)
  | 0x40 => decodeX40 (unpackX x)
  | 0x41 => decodeX41 (unpackX x)
  | 0x42 => decodeX42 (unpackX x)
  | 0x43 => decodeX43 (unpackX x)
  | 0x44 => decodeX44 (unpackX x)
  | 0x45 => decodeX45 (unpackX x)
  | 0x46 => decodeX46 (unpackX x)
  | 0x47 => decodeX47 (unpackX x)
  | 0x48 => decodeX48 (unpackX x)
  | 0x49 => decodeX49 (unpackX x)
  | 0x4A => decodeX4a (unpackX x)
  | 0x4B => decodeX4b (unpackX x)
  | 0x4C => decodeX4c (unpackX x)
  | 0x4D => decodeX4d (unpackX x)
  | 0x4E => decodeX4e (unpackX x)
  | 0x4F => decodeX4f (unpackX x)
  | 0x50 => decodeX50 (unpackX x)
  | 0x51 => decodeX51 (unpackX x)
  | 0x52 => decodeX52 (unpackX x)
  | 0x53 => decodeX53 (unpackX x)
  | 0x54 => decodeX54 (unpackX x)
  | 0x55 => decodeX55 (unpackX x)
  | _ => .error .unassignedMajor

/-- A prefix word, kind 0b10 (R34, R36, R50). -/
def decodePre (w : BitVec 32) : Except DecodeError Instr :=
  match (majorOf w).toNat with
  | 0x01 =>
    match flushOf (w.extractLsb' 15 2), flushOf (w.extractLsb' 13 2), prRoundOf (w.extractLsb' 9 3) with
    | some fzr, some fzo, some rm =>
      need (w.extractLsb' 23 9 == 0) (.pr (w.extractLsb' 18 5) (bitAt w 17) fzr fzo (bitAt w 12) rm)
    | _, _, _ => .error .reservedValue
  | 0x02 =>
    need (w.extractLsb' 27 5 == 0)
      (.pn (w.extractLsb' 24 3) (w.extractLsb' 21 3) (w.extractLsb' 18 3) (w.extractLsb' 15 3) (w.extractLsb' 9 6))
  | _ => .error .unassignedMajor

/-- A pair word, kind 0b11 (R43, R44). An unassigned compact opcode in either half comes first (R42 item 2). -/
def decodePair (x : BitVec 64) : Except DecodeError Instr :=
  match unpackCompact (x.extractLsb' 2 31), unpackCompact (x.extractLsb' 33 31) with
  | .ok p, .ok q => .ok (.pairWord p q)
  | .error .unassignedCompact, _ => .error .unassignedCompact
  | _, .error .unassignedCompact => .error .unassignedCompact
  | .error e, _ => .error e
  | _, .error e => .error e

/-- The kind of a first word (R16). -/
def wordKind (w : BitVec 32) : Nat := (w.extractLsb' 0 2).toNat

/-- How many words the instruction that starts with this word has (R16). -/
def wordCount (w : BitVec 32) : Nat := if bitAt w 0 then 2 else 1

/-- The instruction that two words in sequence start with; the second word counts for kinds 0b01 and 0b11 only (R16). -/
def decodeFields (w0 w1 : BitVec 32) : Except DecodeError Instr :=
  match wordKind w0 with
  | 0 => decode32 w0
  | 1 => decode64 (w1 ++ w0)
  | 2 => decodePre w0
  | _ => decodePair (w1 ++ w0)

/-- The decoder on words: fields, then the rules of `instrWf` (R47). -/
def decodeWords (w0 w1 : BitVec 32) : Except DecodeError Instr :=
  match decodeFields w0 w1 with
  | .ok i => if instrWf i then .ok i else .error .illFormed
  | .error e => .error e

/-- A little-endian word from four bytes (R7, R16). -/
def wordOfBytes (b0 b1 b2 b3 : Byte) : BitVec 32 := b3 ++ b2 ++ b1 ++ b0

/-- The bytes of a word, lowest address first (R7, R16). -/
def bytesOfWord (w : BitVec 32) : List Byte :=
  [w.extractLsb' 0 8, w.extractLsb' 8 8, w.extractLsb' 16 8, w.extractLsb' 24 8]

/-- The decoder on any bytes: the first instruction and the bytes after it, or the reason there is none. -/
def decodeBytes : List Byte → Except DecodeError (Instr × List Byte)
  | b0 :: b1 :: b2 :: b3 :: rest =>
    let w0 := wordOfBytes b0 b1 b2 b3
    if wordCount w0 = 1 then
      match decodeWords w0 0 with
      | .ok i => .ok (i, rest)
      | .error e => .error e
    else
      match rest with
      | c0 :: c1 :: c2 :: c3 :: rest' =>
        match decodeWords w0 (wordOfBytes c0 c1 c2 c3) with
        | .ok i => .ok (i, rest')
        | .error e => .error e
      | _ => .error .truncated
  | _ => .error .truncated

/-- The instruction read from a word numbered as the opcode table numbers its bits; the bits above `nbits` are zero. -/
def decodeTableWord (nbits w : Nat) : Option Instr :=
  let x := w % 2 ^ nbits
  match decodeBytes (bytesOfWord (BitVec.ofNat 32 x) ++ bytesOfWord (BitVec.ofNat 32 (x / 2 ^ 32))) with
  | .ok (i, _) => some i
  | .error _ => none

/-! ### Prefix takers (R35, R37, R39, R40), read from the words of an assigned instruction -/

/-- What PR does for an instruction: it takes no PR, reads only Sat, or reads every field its chapter names. -/
inductive PrUse where
  | none
  | sat
  | all
  deriving DecidableEq, Repr

/-- The type code in a format W word's T field, when it is assigned (R27). -/
def tyFieldW (x : BitVec 64) : Option Ty := tyOf (x.extractLsb' 37 5)

/-- The type code in a format L word's T field, when it is assigned (R26). -/
def tyFieldL (x : BitVec 64) : Option Ty := tyOf (x.extractLsb' 25 5)

/-- Whether the instruction takes PR (R39, and the PR columns of R279, R283, R286, R289, R293 and R294). -/
def prUse (x : BitVec 64) : PrUse :=
  let m := (x.extractLsb' 2 7).toNat
  let fn := (x.extractLsb' 45 6).toNat
  match (x.extractLsb' 0 2).toNat with
  | 0 =>
    if 0x50 ≤ m ∧ m ≤ 0x5F then .all
    else if (0x20 ≤ m ∧ m ≤ 0x22) ∨ m = 0x40 then .sat
    else .none
  | 1 =>
    if m = 0x02 then .sat
    else if m = 0x07 ∨ m = 0x09 ∨ m = 0x0D then .all
    else if m = 0x08 then (if fn ≤ 2 then .sat else .none)
    else if m = 0x0A then (if tyFieldW x = some .i8x4 then .sat else .all)
    else if m = 0x0B then
      (match tyOf ((x.extractLsb' 45 5)), tyFieldW x with
        | some src, some dst => if tyIsInt src && tyIsInt dst then .sat else .all
        | _, _ => .all)
    else if m = 0x0C then (if fn = 0 then .all else if fn = 1 then .sat else .none)
    else .none
  | _ => .none

/-- Sat on a .b type of the group or of ADD with Imm32 is refused by IllegalPrefix (R279, R283). -/
def satOnRaw (x : BitVec 64) : Bool :=
  let m := (x.extractLsb' 2 7).toNat
  let t := if m = 0x02 then tyFieldL x else tyFieldW x
  ((x.extractLsb' 0 2).toNat == 1) && (m == 0x02 || m == 0x08) &&
    (match t with | some t => tyIsB t | none => false)

/-- Whether the group's PR is legal for the instruction (R35, R39). -/
def prLegal (x : BitVec 64) (xo : Bool) (fzr fzo : Flush) (sat : Bool) (rm : PrRound) : Bool :=
  match prUse x with
  | .none => false
  | .all => true
  | .sat => !xo && fzr == .asFpc && fzo == .asFpc && rm == .asFpc && !(sat && satOnRaw x)

/-- Whether the instruction takes PN (R39). -/
def pnTaker (x : BitVec 64) : Bool :=
  let m := (x.extractLsb' 2 7).toNat
  match (x.extractLsb' 0 2).toNat with
  | 0 => decide ((0x20 ≤ m ∧ m ≤ 0x37) ∨ (0x40 ≤ m ∧ m ≤ 0x4A) ∨ (0x50 ≤ m ∧ m ≤ 0x5F))
  | 1 => decide (0x01 ≤ m ∧ m ≤ 0x0D)
  | _ => false

/-- A register field as PN stepping sees it: its number, its file's last number and whether it holds a pair. -/
structure StepField where
  num : Nat
  last : Nat
  wide : Bool
  deriving DecidableEq, Repr

/-- The fields D, A, B and C of an assigned instruction that PN may step; `none` where the instruction does not use the field or it
holds an immediate (R37). They are read from the words, so that a step is judged before the instruction's own fields are (R42); a
reserved shape counts as all vector. -/
def stepFields (x : BitVec 64) : Option StepField × Option StepField × Option StepField × Option StepField :=
  let m := (x.extractLsb' 2 7).toNat
  let d := if (x.extractLsb' 0 1).toNat = 1 then (x.extractLsb' 9 7).toNat else (x.extractLsb' 25 7).toNat
  let on (b : Bool) (num last : Nat) (wide : Bool) : Option StepField := if b then some ⟨num, last, wide⟩ else none
  let lim (scal : Bool) : Nat := if scal then 63 else 127
  match (x.extractLsb' 0 1).toNat with
  | 0 =>
    let a := (x.extractLsb' 18 7).toNat
    if 0x40 ≤ m ∧ m ≤ 0x4A then
      let k := bitAt x 9
      (some ⟨d, lim k, false⟩, on (m != 0x4A) a (lim k) false, none, none)
    else
      let sh := (x.extractLsb' 9 2).toNat
      let one := decide ((0x30 ≤ m ∧ m ≤ 0x36) ∨ 0x56 ≤ m)
      (some ⟨d, lim (sh == 2), false⟩, on (m != 0x37) a (lim (sh == 2)) false,
        on (!one) (x.extractLsb' 11 7).toNat (lim (sh == 1 || sh == 2)) false, none)
  | _ =>
    let a := (x.extractLsb' 16 7).toNat
    if m ≤ 0x05 then
      let w := match tyFieldL x with | some t => tyWide t | none => false
      let k := (x.extractLsb' 23 2).toNat == 2
      (some ⟨d, lim k, w⟩, on (m != 1) a (lim k) w, none, none)
    else
      let fn := (x.extractLsb' 45 6).toNat
      let w := match tyFieldW x with | some t => tyWide t | none => false
      let ws := if m = 0x0B then (match tyOf (x.extractLsb' 45 5) with | some t => tyWide t | none => false) else w
      let sh := (x.extractLsb' 42 3).toNat
      let int := if m = 0x08 then intFnOf (x.extractLsb' 45 6) else none
      let narrowD := decide (m ≤ 0x07) || (match int with | some f => intFnNarrowD f | none => false) ||
        (m == 0x09 && (floatFnOf (x.extractLsb' 45 6)) == some .fclass)
      let narrowB := (match int with | some f => intFnNarrowB f | none => m == 0x08)
      let useB := decide (m ≤ 0x07) || (m == 0x08 && (match int with | some f => !intFnUnary f | none => true)) ||
        (m == 0x09 && (match floatFnOf (x.extractLsb' 45 6) with | some f => !floatFnUnary f | none => true)) ||
        m == 0x0A || m == 0x0C
      let useC := (m == 0x0A && decide (2 ≤ fn)) || m == 0x0C || (m == 0x0B && (match tyOf (x.extractLsb' 45 5), tyFieldW x with
        | some src, some dst => tyIsPackedFloat src || tyIsPackedFloat dst
        | _, _ => false))
      (some ⟨d, lim (sh == 3), w && !narrowD⟩, some ⟨a, lim (sh == 3), ws⟩,
        on useB (x.extractLsb' 23 7).toNat (lim (1 ≤ sh && sh ≤ 3)) (w && !narrowB),
        on useC (x.extractLsb' 30 7).toNat (lim (sh == 2 || sh == 3)) (w && m == 0x0C && decide (fn ≤ 2)))

/-- One step of PN is legal on a field (R37). -/
def stepOk (cnt step : Nat) : Option StepField → Bool
  | none => step == 0
  | some f => step == 0 || (decide (f.num + cnt * step ≤ f.last) && (!f.wide || step % 2 == 0))

/-- Whether the group's PN is legal for the instruction (R37). -/
def pnLegal (x : BitVec 64) (sc sb sa sd : BitVec 3) (cnt : BitVec 6) : Bool :=
  let f := stepFields x
  stepOk cnt.toNat sd.toNat f.1 && stepOk cnt.toNat sa.toNat f.2.1 && stepOk cnt.toNat sb.toNat f.2.2.1 &&
    stepOk cnt.toNat sc.toNat f.2.2.2

/-! ### The encoder (R19 to R49) -/

/-- One 32-bit word. -/
def oneWord (n : Nat) : List (BitVec 32) := [BitVec.ofNat 32 n]

/-- The two words of a 64-bit value, the low one first (R16). -/
def twoWords (n : Nat) : List (BitVec 32) := [BitVec.ofNat 32 n, BitVec.ofNat 32 (n / 2 ^ 32)]

/-- Format A (R19). -/
def encA (major d a b sh : Nat) : List (BitVec 32) :=
  oneWord (major * 2 ^ 2 + sh * 2 ^ 9 + b * 2 ^ 11 + a * 2 ^ 18 + d * 2 ^ 25)

/-- Format B (R21). -/
def encB (major d a imm k : Nat) : List (BitVec 32) :=
  oneWord (major * 2 ^ 2 + k * 2 ^ 9 + imm * 2 ^ 10 + a * 2 ^ 18 + d * 2 ^ 25)

/-- Format C (R22). -/
def encC (major off : Nat) : List (BitVec 32) := oneWord (major * 2 ^ 2 + off * 2 ^ 10)

/-- Format D (R23). -/
def encD (major d ad ix md dsp cn : Nat) : List (BitVec 32) :=
  oneWord (major * 2 ^ 2 + cn * 2 ^ 9 + dsp * 2 ^ 11 + md * 2 ^ 13 + ix * 2 ^ 15 + ad * 2 ^ 21 + d * 2 ^ 25)

/-- Format E (R24). -/
def encE (major k ks cn : Nat) : List (BitVec 32) :=
  oneWord (major * 2 ^ 2 + cn * 2 ^ 9 + ks * 2 ^ 13 + k * 2 ^ 14)

/-- Format F (R25). -/
def encF (major fn s imm : Nat) : List (BitVec 32) :=
  oneWord (major * 2 ^ 2 + imm * 2 ^ 9 + s * 2 ^ 21 + fn * 2 ^ 27)

/-- Format L (R26). -/
def encL (major imm t sh a d : Nat) : List (BitVec 32) :=
  twoWords (1 + major * 2 ^ 2 + d * 2 ^ 9 + a * 2 ^ 16 + sh * 2 ^ 23 + t * 2 ^ 25 + imm * 2 ^ 32)

/-- Format W (R27). -/
def encW (major fn sh t c b a d : Nat) : List (BitVec 32) :=
  twoWords (1 + major * 2 ^ 2 + d * 2 ^ 9 + a * 2 ^ 16 + b * 2 ^ 23 + c * 2 ^ 30 + t * 2 ^ 37 + sh * 2 ^ 42 + fn * 2 ^ 45)

/-- Format M (R29). -/
def encM (major fn hn disp cn md ix ad d : Nat) : List (BitVec 32) :=
  twoWords (1 + major * 2 ^ 2 + d * 2 ^ 9 + ad * 2 ^ 16 + ix * 2 ^ 20 + md * 2 ^ 27 + cn * 2 ^ 32 + disp * 2 ^ 36 +
    hn * 2 ^ 56 + fn * 2 ^ 58)

/-- Format X (R30). -/
def encX (major fn e ab aa cn imm : Nat) : List (BitVec 32) :=
  twoWords (1 + major * 2 ^ 2 + cn * 2 ^ 9 + aa * 2 ^ 13 + ab * 2 ^ 17 + e * 2 ^ 21 + fn * 2 ^ 28 + imm * 2 ^ 32)

/-- Format J (R31). -/
def encJ (major jn off sh b a cnd : Nat) : List (BitVec 32) :=
  twoWords (1 + major * 2 ^ 2 + cnd * 2 ^ 9 + a * 2 ^ 13 + b * 2 ^ 20 + sh * 2 ^ 27 + off * 2 ^ 32 + jn * 2 ^ 52)

/-- The 31 bits of a compact operation (R43). -/
def compactCode (o : Compact) : Nat :=
  copCode o.cop + o.d.toNat * 2 ^ 7 + o.a.toNat * 2 ^ 14 + o.b.toNat * 2 ^ 21 + o.bs.toNat * 2 ^ 28

/-- The words of an instruction, first word first; an event has none. -/
def encode : Instr → List (BitVec 32)
  | .pr xe xo fzr fzo sat rm => [BitVec.ofNat 32 (2 + 0x01 * 2 ^ 2 + prRoundCode rm * 2 ^ 9 + sat.toNat * 2 ^ 12 + flushCode fzo * 2 ^ 13 + flushCode fzr * 2 ^ 15 + xo.toNat * 2 ^ 17 + xe.toNat * 2 ^ 18)]
  | .pn sc sb sa sd cnt => [BitVec.ofNat 32 (2 + 0x02 * 2 ^ 2 + cnt.toNat * 2 ^ 9 + sd.toNat * 2 ^ 15 + sa.toNat * 2 ^ 18 + sb.toNat * 2 ^ 21 + sc.toNat * 2 ^ 24)]
  | .pairWord op0 op1 => twoWords (3 + compactCode op0 * 2 ^ 2 + compactCode op1 * 2 ^ 33)
  | .nop => encF 0x01 0 0 0
  | .exit => encF 0x02 0 0 0
  | .yield => encF 0x03 0 0 0
  | .halt => encF 0x04 0 0 0
  | .brk n => encF 0x05 0 0 n.toNat
  | .trap n => encF 0x06 0 0 n.toNat
  | .rfe => encF 0x07 0 0 0
  | .csrr d csr => encF 0x08 0 d.toNat csr.toNat
  | .csrw csr s => encF 0x09 0 s.toNat csr.toNat
  | .csrs csr s => encF 0x0A 0 s.toNat csr.toNat
  | .csrc csr s => encF 0x0B 0 s.toNat csr.toNat
  | .rdtime d => encF 0x0C 0 d.toNat 0
  | .gwidPack d => encF 0x0D 0 d.toNat 0
  | .gwidWidth d => encF 0x0D 1 d.toNat 0
  | .gwidLive d => encF 0x0D 2 d.toNat 0
  | .gwidSlices d => encF 0x0D 3 d.toNat 0
  | .gwidSlot d => encF 0x0D 4 d.toNat 0
  | .vgrow nvq nsq => encF 0x0E 0 0 (nvq.toNat * 2 ^ 7 + nsq.toNat * 2 ^ 3)
  | .vshrink nvq nsq => encF 0x0F 0 0 (nvq.toNat * 2 ^ 7 + nsq.toNat * 2 ^ 3)
  | .b off => encC 0x10 off.toNat
  | .call off => encC 0x11 off.toNat
  | .jr e => encF 0x12 0 e.toNat 0
  | .jrL e => encF 0x12 1 e.toNat 0
  | .ret => encF 0x13 0 0 0
  | .join => encF 0x14 0 0 0
  | .wait c k => encE 0x18 k.toNat 0 c.toNat
  | .waitReg c s => encE 0x18 s.toNat 1 c.toNat
  | .cset c k => encE 0x19 k.toNat 0 c.toNat
  | .csetReg c s => encE 0x19 s.toNat 1 c.toNat
  | .cget d c => encE 0x1A d.toNat 1 c.toNat
  | .bar n => encE 0x1B 0 0 n.toNat
  | .barTx n k => encE 0x1C k.toNat 0 n.toNat
  | .barTxReg n s => encE 0x1C s.toNat 1 n.toNat
  | .add sh d a b => encA 0x20 d.toNat a.toNat b.toNat (shaCode sh)
  | .sub sh d a b => encA 0x21 d.toNat a.toNat b.toNat (shaCode sh)
  | .mul sh d a b => encA 0x22 d.toNat a.toNat b.toNat (shaCode sh)
  | .mulh sh d a b => encA 0x23 d.toNat a.toNat b.toNat (shaCode sh)
  | .div sh d a b => encA 0x24 d.toNat a.toNat b.toNat (shaCode sh)
  | .rem sh d a b => encA 0x25 d.toNat a.toNat b.toNat (shaCode sh)
  | .min sh d a b => encA 0x26 d.toNat a.toNat b.toNat (shaCode sh)
  | .max sh d a b => encA 0x27 d.toNat a.toNat b.toNat (shaCode sh)
  | .and sh d a b => encA 0x28 d.toNat a.toNat b.toNat (shaCode sh)
  | .or sh d a b => encA 0x29 d.toNat a.toNat b.toNat (shaCode sh)
  | .xor sh d a b => encA 0x2A d.toNat a.toNat b.toNat (shaCode sh)
  | .andn sh d a b => encA 0x2B d.toNat a.toNat b.toNat (shaCode sh)
  | .shl sh d a b => encA 0x2C d.toNat a.toNat b.toNat (shaCode sh)
  | .shr sh d a b => encA 0x2D d.toNat a.toNat b.toNat (shaCode sh)
  | .sra sh d a b => encA 0x2E d.toNat a.toNat b.toNat (shaCode sh)
  | .rot sh d a b => encA 0x2F d.toNat a.toNat b.toNat (shaCode sh)
  | .abs k d a => encA 0x30 d.toNat a.toNat 0 (kindShCode k)
  | .neg k d a => encA 0x31 d.toNat a.toNat 0 (kindShCode k)
  | .clz k d a => encA 0x32 d.toNat a.toNat 0 (kindShCode k)
  | .ctz k d a => encA 0x33 d.toNat a.toNat 0 (kindShCode k)
  | .popc k d a => encA 0x34 d.toNat a.toNat 0 (kindShCode k)
  | .brev k d a => encA 0x35 d.toNat a.toNat 0 (kindShCode k)
  | .mov k d a => encA 0x36 d.toNat a.toNat 0 (kindShCode k)
  | .movs d b => encA 0x37 d.toNat 0 b.toNat 1
  | .extGet d a b => encA 0x38 d.toNat a.toNat b.toNat 0
  | .extPut d a b => encA 0x38 d.toNat a.toNat b.toNat 1
  | .iget k d a => encA 0x39 d.toNat a.toNat 0 (kindShCode k)
  | .itop k d => encA 0x3A d.toNat 0 0 (kindShCode k)
  | .vote f d a => encA 0x3B d.toNat a.toNat 0 (match f with | .any => 0 | .all => 1 | .ballot => 2)
  | .shfl f d a b => encA 0x3C d.toNat a.toNat b.toNat (match f with | .idx => 0 | .up => 1 | .down => 2 | .xor => 3)
  | .red f d a => encA 0x3D d.toNat a.toNat 0 (laneOpCode f)
  | .scan f d a => encA 0x3E d.toNat a.toNat 0 (laneOpCode f)
  | .addImm8 k d a imm => encB 0x40 d.toNat a.toNat imm.toNat (kindBit k)
  | .andImm8 k d a imm => encB 0x41 d.toNat a.toNat imm.toNat (kindBit k)
  | .orImm8 k d a imm => encB 0x42 d.toNat a.toNat imm.toNat (kindBit k)
  | .xorImm8 k d a imm => encB 0x43 d.toNat a.toNat imm.toNat (kindBit k)
  | .shlImm k d a imm => encB 0x44 d.toNat a.toNat imm.toNat (kindBit k)
  | .shrImm k d a imm => encB 0x45 d.toNat a.toNat imm.toNat (kindBit k)
  | .sraImm k d a imm => encB 0x46 d.toNat a.toNat imm.toNat (kindBit k)
  | .rotImm k d a imm => encB 0x47 d.toNat a.toNat imm.toNat (kindBit k)
  | .minImm k d a imm => encB 0x48 d.toNat a.toNat imm.toNat (kindBit k)
  | .maxImm k d a imm => encB 0x49 d.toNat a.toNat imm.toNat (kindBit k)
  | .li k d imm => encB 0x4A d.toNat 0 imm.toNat (kindBit k)
  | .shflImm d a imm => encB 0x4B d.toNat a.toNat imm.toNat 0
  | .shflXorImm d a m => encB 0x4B d.toNat a.toNat m.toNat 1
  | .widr k d imm => encB 0x4C d.toNat 0 imm.toNat (kindBit k)
  | .rdflg k d mask => encB 0x4D d.toNat 0 mask.toNat (kindBit k)
  | .clflg k mask => encB 0x4E 0 0 mask.toNat (kindBit k)
  | .fadd sh d a b => encA 0x50 d.toNat a.toNat b.toNat (shaCode sh)
  | .fsub sh d a b => encA 0x51 d.toNat a.toNat b.toNat (shaCode sh)
  | .fmul sh d a b => encA 0x52 d.toNat a.toNat b.toNat (shaCode sh)
  | .fmin sh d a b => encA 0x53 d.toNat a.toNat b.toNat (shaCode sh)
  | .fmax sh d a b => encA 0x54 d.toNat a.toNat b.toNat (shaCode sh)
  | .fdiv sh d a b => encA 0x55 d.toNat a.toNat b.toNat (shaCode sh)
  | .fsqrt k d a => encA 0x56 d.toNat a.toNat 0 (kindShCode k)
  | .frcp k d a => encA 0x57 d.toNat a.toNat 0 (kindShCode k)
  | .frsq k d a => encA 0x58 d.toNat a.toNat 0 (kindShCode k)
  | .fexp2 k d a => encA 0x59 d.toNat a.toNat 0 (kindShCode k)
  | .flog2 k d a => encA 0x5A d.toNat a.toNat 0 (kindShCode k)
  | .fsin k d a => encA 0x5B d.toNat a.toNat 0 (kindShCode k)
  | .fcos k d a => encA 0x5C d.toNat a.toNat 0 (kindShCode k)
  | .ftanh k d a => encA 0x5D d.toNat a.toNat 0 (kindShCode k)
  | .frnd k d a => encA 0x5E d.toNat a.toNat 0 (kindShCode k)
  | .fclass k d a => encA 0x5F d.toNat a.toNat 0 (kindShCode k)
  | .ld md d ad ix dsp cn => encD 0x60 d.toNat ad.toNat ix.toNat (mdCode md) dsp.toNat cn.toNat
  | .st md d ad ix dsp cn => encD 0x61 d.toNat ad.toNat ix.toNat (mdCode md) dsp.toNat cn.toNat
  | .ldg md d ad ix dsp cn => encD 0x62 d.toNat ad.toNat ix.toNat (mdCode md) dsp.toNat cn.toNat
  | .stg md d ad ix dsp cn => encD 0x63 d.toNat ad.toNat ix.toNat (mdCode md) dsp.toNat cn.toNat
  | .pf md ad ix dsp cn => encD 0x64 0 ad.toNat ix.toNat (mdCode md) dsp.toNat cn.toNat
  | .liImm32 t k d imm => encL 0x01 imm.toNat (tyCode t) (kindShCode k) 0 d.toNat
  | .addImm32 t k d a imm => encL 0x02 imm.toNat (tyCode t) (kindShCode k) a.toNat d.toNat
  | .andImm32 t k d a imm => encL 0x03 imm.toNat (tyCode t) (kindShCode k) a.toNat d.toNat
  | .orImm32 t k d a imm => encL 0x04 imm.toNat (tyCode t) (kindShCode k) a.toNat d.toNat
  | .xorImm32 t k d a imm => encL 0x05 imm.toNat (tyCode t) (kindShCode k) a.toNat d.toNat
  | .cmp c t sh d a b => encW 0x06 (condCode c) (shwCode sh) (tyCode t) 0 b.toNat a.toNat d.toNat
  | .fcmp c t sh d a b => encW 0x07 (fcondCode c) (shwCode sh) (tyCode t) 0 b.toNat a.toNat d.toNat
  | .integerGroup f t sh d a b => encW 0x08 (intFnCode f) (shwCode sh) (tyCode t) 0 b.toNat a.toNat d.toNat
  | .bfx t sh d a b => encW 0x08 22 (shwCode sh) (tyCode t) 0 b.toNat a.toNat d.toNat
  | .floatingGroup f t sh d a b => encW 0x09 (floatFnCode f) (shwCode sh) (tyCode t) 0 b.toNat a.toNat d.toNat
  | .specialFunctionGroup f t k d a => encW 0x0D (specFnCode f) (kindWCode k) (tyCode t) 0 0 a.toNat d.toNat
  | .padd t sh d a b => encW 0x0A 0 (shwCode sh) (tyCode t) 0 b.toNat a.toNat d.toNat
  | .pmul t sh d a b => encW 0x0A 1 (shwCode sh) (tyCode t) 0 b.toNat a.toNat d.toNat
  | .pfma t sh d a b c => encW 0x0A 2 (shwCode sh) (tyCode t) c.toNat b.toNat a.toNat d.toNat
  | .pdot t sh d a b c => encW 0x0A 3 (shwCode sh) (tyCode t) c.toNat b.toNat a.toNat d.toNat
  | .qcvt t sh d a b c => encW 0x0A 4 (shwCode sh) (tyCode t) c.toNat b.toNat a.toNat d.toNat
  | .dqcvt t sh d a b c => encW 0x0A 5 (shwCode sh) (tyCode t) c.toNat b.toNat a.toNat d.toNat
  | .fcvt dst src sh d a c => encW 0x0B (tyCode src) (shwCode sh) (tyCode dst) c.toNat 0 a.toNat d.toNat
  | .fcvti dst src k d a => encW 0x0B (tyCode src) (kindWCode k) (tyCode dst) 0 0 a.toNat d.toNat
  | .icvtf dst src k d a => encW 0x0B (tyCode src) (kindWCode k) (tyCode dst) 0 0 a.toNat d.toNat
  | .cvt dst src k d a => encW 0x0B (tyCode src) (kindWCode k) (tyCode dst) 0 0 a.toNat d.toNat
  | .ffma t sh d a b c => encW 0x0C 0 (shwCode sh) (tyCode t) c.toNat b.toNat a.toNat d.toNat
  | .mad t sh d a b c => encW 0x0C 1 (shwCode sh) (tyCode t) c.toNat b.toNat a.toNat d.toNat
  | .clamp t sh d a b c => encW 0x0C 2 (shwCode sh) (tyCode t) c.toNat b.toNat a.toNat d.toNat
  | .sel t sh d a b c => encW 0x0C 3 (shwCode sh) (tyCode t) c.toNat b.toNat a.toNat d.toNat
  | .bfi t sh d a b c => encW 0x0C 4 (shwCode sh) (tyCode t) c.toNat b.toNat a.toNat d.toNat
  | .bc c bi a b off => encJ 0x10 0 off.toNat (if bi then 1 else 0) b.toNat a.toNat (condCode c)
  | .loop c bi a b off => encJ 0x11 0 off.toNat (if bi then 1 else 0) b.toNat a.toNat (condCode c)
  | .vb c bi a b off jn => encJ 0x12 jn.toNat off.toNat (if bi then 3 else 2) b.toNat a.toNat (condCode c)
  | .ldLong sx hn md d ad ix disp cn => encM 0x18 sx.toNat (hintCode hn) disp.toNat cn.toNat (mdCode md) ix.toNat ad.toNat d.toNat
  | .stLong hn md d ad ix disp cn => encM 0x19 0 (hintCode hn) disp.toNat cn.toNat (mdCode md) ix.toNat ad.toNat d.toNat
  | .ldgLong sx hn md d ad ix disp cn => encM 0x1A sx.toNat (hintCode hn) disp.toNat cn.toNat (mdCode md) ix.toNat ad.toNat d.toNat
  | .stgLong hn md d ad ix disp cn => encM 0x1B 0 (hintCode hn) disp.toNat cn.toNat (mdCode md) ix.toNat ad.toNat d.toNat
  | .pfLong hn md ad ix disp cn => encM 0x1C 0 (hintCode hn) disp.toNat cn.toNat (mdCode md) ix.toNat ad.toNat 0
  | .atom f hn md d ad ix disp cn => encM 0x1D (atomFnCode f) (hintCode hn) disp.toNat cn.toNat (mdCode md) ix.toNat ad.toNat d.toNat
  | .batom f hn md d ad ix disp cn => encM 0x1E (atomFnCode f) (hintCode hn) disp.toNat cn.toNat (mdCode md) ix.toNat ad.toNat d.toNat
  | .ldSh hn md d ad ix disp cn => encM 0x1F 0 (hintCode hn) disp.toNat cn.toNat (mdCode md) ix.toNat ad.toNat d.toNat
  | .stSh hn md d ad ix disp cn => encM 0x20 0 (hintCode hn) disp.toNat cn.toNat (mdCode md) ix.toNat ad.toNat d.toNat
  | .adld hn d ad ix disp cn => encM 0x21 0 (hintCode hn) disp.toNat cn.toNat 2 ix.toNat ad.toNat d.toNat
  | .adst hn d ad ix disp cn => encM 0x22 0 (hintCode hn) disp.toNat cn.toNat 2 ix.toNat ad.toNat d.toNat
  | .brdoInit e ty n cn => encX 0x23 0 e.toNat 0 0 cn.toNat (n.toNat + ty.toNat * 2 ^ 26)
  | .brdoAdd v e k cn => encX 0x23 1 e.toNat 0 0 cn.toNat (v.toNat * 2 ^ 16 + k.toNat * 2 ^ 8)
  | .brdoAddv v e k cn => encX 0x23 2 e.toNat 0 0 cn.toNat (v.toNat * 2 ^ 16 + k.toNat * 2 ^ 8)
  | .brdoRd d e st cn => encX 0x23 3 e.toNat 0 0 cn.toNat (d.toNat * 2 ^ 16 + st.toNat * 2 ^ 8)
  | .barxInit e n cn => encX 0x24 0 e.toNat 0 0 cn.toNat (n.toNat)
  | .barxArr d e cn => encX 0x24 1 e.toNat 0 0 cn.toNat (d.toNat * 2 ^ 16)
  | .barxTx e b cn => encX 0x24 2 e.toNat 0 0 cn.toNat (b.toNat * 2 ^ 8)
  | .barxDone e b cn => encX 0x24 3 e.toNat 0 0 cn.toNat (b.toNat * 2 ^ 8)
  | .barxArrtx d e b cn => encX 0x24 4 e.toNat 0 0 cn.toNat (d.toNat * 2 ^ 16 + b.toNat * 2 ^ 8)
  | .barxRd d e cn => encX 0x24 5 e.toNat 0 0 cn.toNat (d.toNat * 2 ^ 16)
  | .adset aa e attr => encX 0x25 0 e.toNat 0 aa.toNat 0 (attr.toNat)
  | .adsetR aa e => encX 0x25 1 e.toNat 0 aa.toNat 0 (0)
  | .adget f d aa => encX 0x26 (adFieldCode f) 0 0 aa.toNat 0 (d.toNat)
  | .iwdn k d b c => encW 0x28 0 (match k with | .vec => 2 | .scal => 3) 0 c.toNat b.toNat 0 d.toNat
  | .iset k d b c => encW 0x29 0 (match k with | .vec => 2 | .scal => 3) 0 c.toNat b.toNat 0 d.toNat
  | .tlbinvPage e n cn => encX 0x30 0 e.toNat 0 0 cn.toNat (n.toNat)
  | .tlbinvCtx cn => encX 0x30 1 0 0 0 cn.toNat (0)
  | .tlbinvAsid e cn => encX 0x30 2 e.toNat 0 0 cn.toNat (0)
  | .tlbinvAll cn => encX 0x30 3 0 0 0 cn.toNat (0)
  | .pgmapFt e cn => encX 0x31 0 e.toNat 0 0 cn.toNat (0)
  | .pgmapVa e k cn => encX 0x31 1 e.toNat 0 0 cn.toNat (k.toNat)
  | .pgmapPost => encX 0x31 2 0 0 0 0 (0)
  | .pgqry k d e cn => encX 0x32 (match k with | .scal => 0 | .vec => 1) e.toNat 0 0 cn.toNat (d.toNat)
  | .migTo t tier stk d e cn => encX 0x33 0 e.toNat 0 0 cn.toNat (t.toNat * 2 ^ 13 + stk.toNat * 2 ^ 10 + tierCode tier * 2 ^ 8 + d.toNat)
  | .migFrame t f d e cn => encX 0x33 1 e.toNat 0 0 cn.toNat (t.toNat * 2 ^ 15 + f.toNat * 2 ^ 8 + d.toNat)
  | .migCancel d e cn => encX 0x33 2 e.toNat 0 0 cn.toNat (d.toNat)
  | .pin d e n cn => encX 0x34 0 e.toNat 0 0 cn.toNat (d.toNat * 2 ^ 20 + n.toNat)
  | .unpin d e n cn => encX 0x35 0 e.toNat 0 0 cn.toNat (d.toNat * 2 ^ 20 + n.toNat)
  | .hotRd d e cn => encX 0x36 0 e.toNat 0 0 cn.toNat (d.toNat)
  | .hotClr e cn => encX 0x36 1 e.toNat 0 0 cn.toNat (0)
  | .plc tier stk e n cn => encX 0x37 0 e.toNat 0 0 cn.toNat (stk.toNat * 2 ^ 22 + tierCode tier * 2 ^ 20 + n.toNat)
  | .plcMove tier stk e n cn => encX 0x37 1 e.toNat 0 0 cn.toNat (stk.toNat * 2 ^ 22 + tierCode tier * 2 ^ 20 + n.toNat)
  | .treg d e id cn => encX 0x38 0 e.toNat 0 0 cn.toNat (d.toNat * 2 ^ 16 + id.toNat)
  | .tunreg e aa cn => encX 0x39 0 e.toNat 0 aa.toNat cn.toNat (0)
  | .tld na o aa e pitch cn => encX 0x3A na.toNat e.toNat 0 aa.toNat cn.toNat (pitch.toNat * 2 ^ 16 + o.toNat)
  | .tst wt o aa e pitch cn => encX 0x3B wt.toNat e.toNat 0 aa.toNat cn.toNat (pitch.toNat * 2 ^ 16 + o.toNat)
  | .tpf c aa e dist mask cn => encX 0x3C 0 e.toNat 0 aa.toNat cn.toNat (c.toNat * 2 ^ 12 + dist.toNat * 2 ^ 8 + mask.toNat)
  | .thalo clamp pf o aa e hr hc pitch cn => encX 0x3D clamp.toNat e.toNat 0 aa.toNat cn.toNat (pitch.toNat * 2 ^ 16 + hc.toNat * 2 ^ 12 + hr.toNat * 2 ^ 8 + pf.toNat * 2 ^ 7 + o.toNat)
  | .tinv discard e aa cn => encX 0x3E discard.toNat e.toNat 0 aa.toNat cn.toNat (0)
  | .tqry d aa e cn => encX 0x3F 0 e.toNat 0 aa.toNat cn.toNat (d.toNat)
  | .cpy bt hv d aa ab e cn => encX 0x40 0 e.toNat ab.toNat aa.toNat cn.toNat (bt.toNat * 2 ^ 8 + hv.toNat * 2 ^ 7 + d.toNat)
  | .cpyb bt hv d aa ab e cn => encX 0x41 0 e.toNat ab.toNat aa.toNat cn.toNat (bt.toNat * 2 ^ 8 + hv.toNat * 2 ^ 7 + d.toNat)
  | .close e cn => encX 0x42 0 e.toNat 0 0 cn.toNat (0)
  | .job hv d e cn => encX 0x43 0 e.toNat 0 0 cn.toNat (hv.toNat * 2 ^ 7 + d.toNat)
  | .jst d e cn => encX 0x44 0 e.toNat 0 0 cn.toNat (d.toNat)
  | .mvn fmt fb bt hv d aa ab e cn => encX 0x47 0 e.toNat ab.toNat aa.toNat cn.toNat (fmt.toNat * 2 ^ 16 + fb.toNat * 2 ^ 14 + bt.toNat * 2 ^ 8 + hv.toNat * 2 ^ 7 + d.toNat)
  | .strm q aa e sx hn depth cn => encX 0x45 q.toNat e.toNat 0 aa.toNat cn.toNat (sx.toNat * 2 ^ 4 + hintCode hn * 2 ^ 2 + depth.toNat)
  | .sclose q cn => encX 0x46 (match q with | .one n => n.toNat | .all => 4) 0 0 0 cn.toNat (0)
  | .obres fmt gc h d e => encX 0x48 0 e.toNat 0 0 0 (gc.toNat * 2 ^ 20 + fmt.toNat * 2 ^ 16 + h.toNat * 2 ^ 8 + d.toNat)
  | .obrel h cn => encX 0x49 0 0 0 0 cn.toNat (h.toNat * 2 ^ 8)
  | .obld len h aa e cn => encX 0x4A 0 e.toNat 0 aa.toNat cn.toNat (len.toNat * 2 ^ 16 + h.toNat * 2 ^ 8)
  | .obldRec len h aa e cn => encX 0x4A 1 e.toNat 0 aa.toNat cn.toNat (len.toNat * 2 ^ 16 + h.toNat * 2 ^ 8)
  | .mma ua ub tile hb ha e cn => encX 0x4B 0 e.toNat 0 0 cn.toNat (ua.toNat * 2 ^ 31 + ub.toNat * 2 ^ 30 + tile.toNat * 2 ^ 24 + hb.toNat * 2 ^ 16 + ha.toNat * 2 ^ 8)
  | .mloop ua ub tile hb ha e cn => encX 0x4C 0 e.toNat 0 0 cn.toNat (ua.toNat * 2 ^ 31 + ub.toNat * 2 ^ 30 + tile.toNat * 2 ^ 24 + hb.toNat * 2 ^ 16 + ha.toNat * 2 ^ 8)
  | .acz kind tile cn => encX 0x4D 0 0 0 0 cn.toNat (accKindCode kind + tile.toNat * 2 ^ 24)
  | .aczRel tile cn => encX 0x4D 1 0 0 0 cn.toNat (tile.toNat * 2 ^ 24)
  | .acld form tile e cn => encX 0x4E (match form with | .mem _ => 0 | .regs => 1) e.toNat 0 (match form with | .mem aa => aa.toNat | .regs => 0) cn.toNat (tile.toNat * 2 ^ 24)
  | .acst form tile e cn => encX 0x4F (match form with | .mem _ => 0 | .regs => 1) e.toNat 0 (match form with | .mem aa => aa.toNat | .regs => 0) cn.toNat (tile.toNat * 2 ^ 24)
  | .mstat f d cn => encX 0x50 (match f with | .acc _ => 0 | .ob _ => 1 | .eng => 2) 0 0 0 cn.toNat (d.toNat + (match f with | .acc t => t.toNat * 2 ^ 24 | .ob h => h.toNat * 2 ^ 8 | .eng => 0))
  | .put w tw aa e cn => encX 0x51 0 e.toNat 0 aa.toNat cn.toNat (tw.toNat * 2 ^ 8 + w.toNat)
  | .wreg d w e cn => encX 0x52 0 e.toNat 0 0 cn.toNat (d.toNat * 2 ^ 16 + w.toNat)
  | .wregRel d w cn => encX 0x52 1 0 0 0 cn.toNat (d.toNat * 2 ^ 16 + w.toNat)
  | .wctr land d w => encX 0x53 land.toNat 0 0 0 0 (d.toNat * 2 ^ 16 + w.toNat)
  | .wwait land w e => encX 0x54 land.toNat e.toNat 0 0 0 (w.toNat)
  | .fork e cn => encX 0x55 0 e.toNat 0 0 cn.toNat (0)
  | .waitComplete _ _ => []
  | .waiterPlaceFreed _ => []
  | .sweepComplete _ => []
  | .streamRunAhead _ _ => []
  | .jobDispatch _ => []
  | .jobComplete _ _ => []
  | .hintServed _ => []
  | .reservationGranted _ => []
  | .reservationTimeout _ => []
  | .deferredMoveStart _ => []
  | .matrixCommand _ => []
  | .matrixWatchdog _ => []
  | .mxrst _ => []
  | .wwaitTimeout _ _ => []
  | .packetLanding _ => []
  | .packetAck _ => []
  | .packetTimeout _ => []
  | .portFailure _ => []
  | .dataLanding _ _ => []
  | .arrive _ _ => []
  | .barrierTimeout _ _ => []
  | .gangEnd _ => []
  | .urgencyMark _ => []
  | .pageTableWalk _ _ _ => []
  | .faultPostWrite => []
  | .fqreplyRetry _ => []
  | .fqreplyKill _ => []
  | .tlbiPages _ _ _ => []
  | .tlbiContext _ => []
  | .tlbiAll => []
  | .tlbiNone => []
  | .tlbiDone => []
  | .epochEnd => []
  | .recallComplete _ => []
  | .copyReadData _ => []
  | .lineAccepted _ => []
  | .portClose _ => []
  | .sourceFrameRelease _ => []
  | .reverseLineAccepted _ => []
  | .heldFrameRelease => []
  | .cancel => []
  | .checkpoint => []
  | .checkpointDone => []
  | .restore => []
  | .restoreDone => []
  | .refreshDue _ _ _ => []
  | .refpbIssue _ _ => []
  | .refreshBurstEnd _ _ => []
  | .lineRead _ => []
  | .lineWrite _ _ => []
  | .writeQueueDrain _ _ => []
  | .channelFailed _ _ => []
  | .failed _ _ => []
  | .patrolScrub => []
  | .hdmCommit _ => []
  | .hdmUncommit _ => []
  | .viralIndication _ => []
  | .cxlLinkTrained _ => []
  | .retentionEntry _ => []
  | .retentionExit _ => []
  | .bkret _ => []
  | .launchPacketRead _ => []
  | .teamDispatch _ => []
  | .codeLinesPushed _ => []
  | .coResidentDispatch _ => []
  | .affinityTimeout _ => []
  | .preEmption _ => []
  | .precmd _ => []
  | .forcedSave _ => []
  | .teamRestore _ => []
  | .vgrowGrant _ => []
  | .stuckCore _ => []
  | .parentSwapOut _ => []
  | .spareDieSubstitution _ => []
  | .spareRemap => []
  | .launchCompletion _ => []
  | .contextTeardown _ => []
  | .replay _ => []
  | .breakpointStop _ _ => []
  | .traceSample _ _ => []
  | .dbgcmdHalt _ => []
  | .dbgcmdResume _ => []
  | .dbgcmdRead _ => []
  | .dbgcmdWrite _ => []
  | .dbgcmdStep _ => []
  | .dbgcmdClear _ => []
  | .revocation _ => []
  | .coldReset => []
  | .memoryReady => []
  | .warmReset => []
  | .vendorPartWrite _ => []
  | .marginPlan => []
  | .attestation => []
  | .attestationReport => []
  | .timeadj _ => []
  | .powerThrottle => []
  | .thermalTrip => []
  | .unsupportedRequest _ => []
  | .bar2Access _ _ _ => []
  | .registerWrite _ _ _ => []
  | .unassignedEncoding _ => []
  | .linkFlitReplay _ => []
  | .failedCxlPort _ => []

/-- How many bytes of instruction memory the instruction takes (R16). -/
def instrBytes (i : Instr) : Nat := 4 * (encode i).length

end Sys2Proof
end

