-- ==== Sys2Proof/Config.lean ====
section
/-! DEFINITION. What the spec leaves open, as constants with no value: free values and free choices. Nothing in Lean
can evaluate them, so a statement about one holds whatever it is. -/

namespace Sys2Proof.Config

/-- Which of several enabled steps comes next (R353, R389 and the units that act on their own); applied to the tick.
DESIGN CHOICE, log entry 1. -/
opaque choice : Nat → Nat

/-- How many arithmetic clocks pass in a step (R8, R324); applied to the tick. DESIGN CHOICE, log entry 2. -/
opaque elapsedCc : Nat → Nat

/-- How many nanoseconds of the 1 GHz device counter pass in a step (R8, R441); applied to the tick. DESIGN CHOICE,
log entry 2. -/
opaque elapsedNs : Nat → Nat

/-- Whether an access uses a cached translation rather than the tables, where both exist (R103); applied to the tick.
DESIGN CHOICE, log entry 3. -/
opaque useCached : Nat → Bool

/-- Whether a fetch of a line that the core's instruction cache holds, and memory has changed since, uses the cached bytes; applied
to the tick. DESIGN CHOICE, log entry 17. -/
opaque staleFetch : Nat → Bool

/-- Whether a channel failed link training (R75); applied to the tick and 32 × stack + channel. DESIGN CHOICE, log entry 5. -/
opaque trainFails : Nat → Nat → Bool

/-- What the device on a CXL port is (R80): applied to the tick and the port; bit 0 a Type 3 device, bit 1 one with a persistent
region. DESIGN CHOICE, log entry 5. -/
opaque cxlDevice : Nat → Nat → Nat

/-- Which bytes of a tile's image land in a step (R157): applied to the tick and 0 for all that are left, k + 1 for the k-th of them.
DESIGN CHOICE, log entry 54. -/
opaque imageLands : Nat → Nat → Bool

/-- The contents of a byte that the spec leaves unspecified or does not give: a new operand-buffer reservation (R316), the data of a page
whose leaf was rewritten while it moved (R131), a target window after a lost packet (R340), a new team's scratchpad (R183); applied to a serial
number and a byte offset. DESIGN CHOICE, log entry 4. -/
opaque freeByte : Nat → Nat → Byte

/-- A 64-bit value that the spec does not give: a power reading (R442); applied to a serial number. DESIGN CHOICE, log entry 5. -/
opaque freeWord : Nat → DWord

/-- A field of a vendor part that has been written to the flash (R436, R437); applied to its bytes and a field number. The record's
layout is not in the spec. DESIGN CHOICE, log entry 6. -/
opaque vendorField : List Byte → Nat → Nat

/-- Which cores of a die fall short of their margin, a bit a core (R440); applied to the tick, the die index and MV. DESIGN CHOICE,
log entry 5. -/
opaque marginFails : Nat → Nat → Nat → Nat

/-- A packet of a peer's put that arrives at this device (R337): applied to the tick, its FJOB, remote window and offset, and its bytes with
their poison markers. DESIGN CHOICE, log entry 64. -/
opaque peerPacket : Nat → Nat × Nat × Nat × List (Byte × Bool)

/-- Whether a byte that puts of two origins write keeps the one that landed earlier (R338); applied to the tick and the byte's
address. DESIGN CHOICE, log entry 97. -/
opaque keepsEarlier : Nat → Nat → Bool

/-- Whether a byte of a tile's image that another agent has written between the issue and the WAIT keeps that agent's value (R157); applied to
the tick and the byte's offset. DESIGN CHOICE, log entry 54. -/
opaque imageKept : Nat → Nat → Bool

/-- Which of the timing reasons keeps an eligible arm from issuing in a cycle (R420): arithmetic latency, a miss queue or scratchpad conflict, or
its pipe given to another arm; applied to the tick and the arm. DESIGN CHOICE, log entry 1. -/
opaque stallPick : Nat → Nat → Nat

/-- How many cycles before a forced burst a stream completed its last sector (R69, R458); applied to the tick and the bank. DESIGN CHOICE,
log entry 2. -/
opaque sectorGap : Nat → Nat → Nat

/-- XMSS-SHAKE256 (R438): byte `i` of the signature of a message under a leaf of the device's identity key, as a function of leaf, message
and byte. The spec names the scheme and leaves its functions and the key to its standard. DESIGN CHOICE, log entry 6. -/
opaque xmssSign : Nat → List Byte → Nat → Byte

/-- XMSS-SHAKE256 (R438): a message's signature verifies under Azrus's public key. DESIGN CHOICE, log entry 6. -/
opaque xmssVerify : List Byte → List Byte → Bool

/-- SHAKE256 (R439): byte `i` of the digest of some bytes, as a function of both. DESIGN CHOICE, log entry 6. -/
opaque digest : List Byte → Nat → Byte

/-- The running firmware images (R439), whose bytes the spec does not give. DESIGN CHOICE, log entry 6. -/
opaque firmware : List Byte

/-- The LPDDR 6 device's own refresh timings in clocks (R78): the per-bank interval, the stagger between banks, a per-bank
refresh and an all-bank refresh. DESIGN CHOICE, log entry 8. -/
opaque lpddrRefi : Nat
/-- The stagger between banks of a sub-channel. -/
opaque lpddrStagger : Nat
/-- A per-bank refresh. -/
opaque lpddrRfcPb : Nat
/-- An all-bank refresh. -/
opaque lpddrRfcAb : Nat

end Sys2Proof.Config
end

