-- ==== Sys2Proof/Machine/Sparse.lean ====
section
/-! DEFINITION. Sparse maps: lists of (key, value) pairs with strictly rising keys and no pair whose value equals
what an unlisted key reads as, so that equal maps are equal lists. Memory, register files and MMIO areas are held so. -/

namespace Sys2Proof.Machine

/-- The value at a key; `dflt` where the key is not listed. -/
def smapGet {α : Type} (dflt : α) : List (Nat × α) → Nat → α
  | [], _ => dflt
  | (k, v) :: t, a => if a = k then v else smapGet dflt t a

/-- A map without a key. -/
def smapErase {α : Type} (m : List (Nat × α)) (a : Nat) : List (Nat × α) := m.filter (fun e => e.1 != a)

/-- Put an entry before the first entry of a greater key. -/
def smapInsert {α : Type} : List (Nat × α) → Nat → α → List (Nat × α)
  | [], a, v => [(a, v)]
  | (k, w) :: t, a, v => if a < k then (a, v) :: (k, w) :: t else (k, w) :: smapInsert t a v

/-- Write a key, keeping the canonical form: a value equal to `dflt` removes the entry. -/
def smapSet {α : Type} [DecidableEq α] (dflt : α) (m : List (Nat × α)) (a : Nat) (v : α) : List (Nat × α) :=
  if v = dflt then smapErase m a else smapInsert (smapErase m a) a v

/-- The canonical form of a sparse map whose keys lie at or above `lo`. -/
def smapWfFrom {α : Type} [DecidableEq α] (dflt : α) : Nat → List (Nat × α) → Bool
  | _, [] => true
  | lo, (k, v) :: t => decide (lo ≤ k) && decide (v ≠ dflt) && smapWfFrom dflt (k + 1) t

/-- The canonical form: keys strictly rising and no default value listed. -/
def smapWf {α : Type} [DecidableEq α] (dflt : α) (m : List (Nat × α)) : Bool := smapWfFrom dflt 0 m

/-- Keep only the keys that satisfy `p`. -/
def smapFilter {α : Type} (p : Nat → Bool) (m : List (Nat × α)) : List (Nat × α) := m.filter (fun e => p e.1)

/-- A finite set of numbers in rising order. -/
def nsetMem (m : List Nat) (a : Nat) : Bool := m.contains a

/-- Insert into a set, keeping the rising order and no repeats. -/
def nsetInsert : List Nat → Nat → List Nat
  | [], a => [a]
  | k :: t, a => if a = k then k :: t else if a < k then a :: k :: t else k :: nsetInsert t a

/-- Remove from a set. -/
def nsetErase (m : List Nat) (a : Nat) : List Nat := m.filter (fun k => k ≠ a)

/-- Replace element `n` of a list; no effect past its end. -/
def listSet {α : Type} (l : List α) (n : Nat) (x : α) : List α := l.set n x

/-- Update the elements of a list that satisfy `p`. -/
def listUpdate {α : Type} (p : α → Bool) (f : α → α) (l : List α) : List α := l.map (fun x => if p x then f x else x)

/-- The numbers `n .. n + k - 1`, ascending. -/
def natRange (n : Nat) : Nat → List Nat
  | 0 => []
  | k + 1 => n :: natRange (n + 1) k

/-- Put an element before the first one of a sorted list that it does not follow. -/
def insertBy {α : Type} (le : α → α → Bool) (a : α) : List α → List α
  | [] => [a]
  | b :: t => if le a b then a :: b :: t else b :: insertBy le a t

/-- Sort a list; elements that compare equal keep their order. -/
def sortBy {α : Type} (le : α → α → Bool) (l : List α) : List α := l.foldr (insertBy le) []

end Sys2Proof.Machine
end

