-- ==== Sys2Proof/Machine/Gang.lean ====
section
/-! DEFINITION. The state of a gang and of its arms: registers, shadows, counters, control and status registers,
divergence stack, trap frame, streams and the operations in flight (R230, R234, R354, R378, R402, R405). -/

namespace Sys2Proof.Machine

/-- A lane mask: bit l is lane l of the gang (R349). -/
abbrev LaneMask := BitVec 96

/-- An interval shadow, two signed 32-bit bounds (R234). -/
structure Shadow where
  lo : Int
  hi : Int
  deriving DecidableEq, Repr

/-- The shadow of a register that holds zero at launch (R231). -/
def Shadow.zero : Shadow := ⟨0, 0⟩

/-- Top(): nothing is known about the register (R51, R234). -/
def Shadow.top : Shadow := ⟨-2147483648, 2147483647⟩

/-- One entry of the divergence stack (R356). -/
structure StackEntry where
  mask : LaneMask
  /-- S: false while the lanes wait to run, true once they are parked at the join. -/
  parked : Bool
  jn : BitVec 12
  vbw : BitVec 19
  deriving DecidableEq, Repr

/-- The PR settings that an arm's group has installed (R34). -/
structure PrSet where
  xe : BitVec 5
  xo : Bool
  fzr : Flush
  fzo : Flush
  sat : Bool
  rm : PrRound
  deriving DecidableEq, Repr

/-- The PN settings that an arm's group has installed (R36). -/
structure PnSet where
  sc : BitVec 3
  sb : BitVec 3
  sa : BitVec 3
  sd : BitVec 3
  cnt : BitVec 6
  deriving DecidableEq, Repr

/-- The kind of an access, kept in a lane's fault state (R105). -/
inductive AccKindF where
  | read
  | write
  | atomic
  | fetch
  deriving DecidableEq, Repr

/-- The fault state of one lane (R105). -/
structure LaneFault where
  lane : Nat
  addr : DWord
  kind : AccKindF
  reason : Nat
  deriving DecidableEq, Repr

/-- The hidden trap frame (R402). -/
structure Frame where
  pc : DWord
  rep : Nat
  mask : LaneMask
  sup : Bool
  shS : List (Nat × Shadow)
  shV : List (Nat × Shadow)
  deriving DecidableEq, Repr

/-- A blank trap frame. -/
def Frame.blank : Frame := ⟨0, 0, 0, false, [], []⟩

/-- Why an arm does not issue (R353, R420). -/
inductive Stall where
  /-- The arm may issue. -/
  | none
  /-- The instruction at the arm's PC did not issue, for this STALL reason; it is tried again. -/
  | retry (reason : Nat)
  /-- A WAIT on counter `c` for the value `k`, since cycle `since` (R175). -/
  | wait (c k since : Nat)
  /-- A wait at team barrier `n` (R372). -/
  | bar (n since : Nat)
  /-- A WWAIT on window `w` (R345). -/
  | wwait (land : Bool) (w : Nat) (k : DWord) (since : Nat)
  /-- A VGROW waiting for vector registers, NV' and NS' (R391). -/
  | vgrow (nv ns : Nat)
  /-- Suspended on the host's reply to the post of this tag (R112). -/
  | posted (tag : Nat)
  deriving DecidableEq, Repr

/-- An owed register of an arm (R172 to R174). -/
structure Owed where
  vec : Bool
  reg : Nat
  ctr : Nat
  ticket : Nat
  /-- The operation that owes the register. -/
  op : Nat
  landed : Bool
  /-- No instruction of the arm has written the register since the operation issued. -/
  clean : Bool
  /-- The interval I of the landed value. -/
  ival : Shadow
  /-- The arm's mask at issue: the lanes of a vector register that the operation writes. -/
  lanes : LaneMask
  deriving DecidableEq, Repr

/-- An arm of a gang (R354), its trap frame and fault registers (R402, R405). -/
structure Arm where
  slot : Nat
  pc : DWord
  members : LaneMask
  mask : LaneMask
  link : DWord
  sup : Bool
  fstat : Word
  faddr : DWord
  frame : Frame
  shS : List (Nat × Shadow)
  shV : List (Nat × Shadow)
  owed : List Owed
  /-- On-chip stack entries, the top first, at most four (R356). -/
  stack : List StackEntry
  /-- Entries spilled to memory below the on-chip ones (R356). -/
  spilled : Nat
  parked : Bool
  ltime : Nat
  stall : Stall
  lfault : List LaneFault
  /-- Team barriers at which the arm's arrival is recorded and its wait not ended: barrier, whether a handler arrived, and the
  phase joined once the gang's arrival is made (R372, R373). -/
  barWaits : List (Nat × Bool × Option Nat)
  pr : Option PrSet
  pn : Option PnSet
  /-- The PN repetition at hand (R37, R38). -/
  rep : Nat
  /-- Halted by a precise stop (R423). -/
  halted : Bool
  /-- The next instruction issues without its breakpoint check, or a BRK as NOP: a resume after a stop (R407, R423). -/
  skipStop : Bool
  /-- A single step was asked for (R425). -/
  stepOne : Bool
  /-- An access of the instruction at hand touched a watched region (R423). -/
  watchHit : Bool
  /-- The tick of the arm's last issue (R389). -/
  lastIssue : Nat
  /-- Ineligible after YIELD until this cycle or until the other arms of its pipe have issued (R391). -/
  yieldTo : Nat
  /-- One more than the cycle of the arm's last issue, 0 before any (R352, R389). -/
  issuedAt : Nat
  /-- The cycle since which the arm has been eligible (R353). -/
  readyAt : Nat
  deriving DecidableEq, Repr

/-- An arm that is not in use. -/
def Arm.blank : Arm :=
  { slot := 0, pc := 0, members := 0, mask := 0, link := 0, sup := false, fstat := 0, faddr := 0,
    frame := Frame.blank, shS := [], shV := [], owed := [], stack := [], spilled := 0, parked := false,
    ltime := 0, stall := .none, lfault := [], barWaits := [], pr := none, pn := none, rep := 0, halted := false,
    skipStop := false, stepOne := false, watchHit := false, lastIssue := 0, yieldTo := 0, issuedAt := 0,
    readyAt := 0 }

/-- A register write that a landing performs: vector or scalar, register number, lane, value. -/
structure RegWrite where
  vec : Bool
  reg : Nat
  lane : Nat
  val : Word
  deriving DecidableEq, Repr

/-- A cause, or a set of matrix flags, that an operation leaves pending on its counter (R401). -/
structure Pend where
  ctr : Nat
  ticket : Nat
  /-- Cause code of R400; 0 for matrix flags to merge (R311). -/
  cause : Nat
  reason : Nat
  faddr : DWord
  /-- The physical address for the record of R414. -/
  pa : Nat
  /-- Flags that the WAIT merges, for matrix flags. -/
  flags : BitVec 5
  deriving DecidableEq, Repr

/-- A TLBINV or host invalidation under way: contexts and pages it drops (R114, R117). -/
inductive InvScope where
  | pages (ctx page n : Nat)
  | context (ctx : Nat)
  | all
  deriving DecidableEq, Repr

/-- Which unit finishes an operation. -/
inductive OpKind where
  /-- Performed at issue; it only lands and arrives. -/
  | mem
  /-- A job in entry `e` of die `die`'s scheduler (R201). -/
  | job (die e : Nat)
  /-- A put (R343). -/
  | put
  /-- A forked launch (R393). -/
  | fork (launch : Nat)
  /-- A queued matrix command of core `core` (R302). -/
  | matrix (core : Nat)
  /-- A BARX.arr that joined `phase` of the object at bank byte `obj` (R197). -/
  | barx (obj phase : Nat)
  /-- A BRDO.rd of the object at bank byte `obj`, with its registers; `wide` where sD is a pair (R196). -/
  | brdo (obj d st : Nat) (wide : Bool)
  /-- A request waiting at its core for a waiter place or for ARRIVED room (R188, R197): a BRDO.rd, or an arrival with its bytes;
  the destination and status registers. -/
  | held (rd : Bool) (obj : Nat) (bytes : Int) (d st : Nat) (wide : Bool)
  /-- A move record's request (R141). -/
  | move (rec : Nat)
  /-- A sweep of a tensor id (R165). -/
  | sweep
  /-- A TLBINV: what it drops when it completes (R114). -/
  | tlbinv (v : InvScope)
  /-- The image of a TLD or a THALO (R157): the bytes still to land, by offset in the team's scratchpad, and the spans it covers. -/
  | image (left : List (Nat × Byte)) (spans : List (Nat × Nat))
  /-- A PIN waiting for moves to end (R143). -/
  | pin
  /-- A write-back or prefetch batch that arrives by itself. -/
  | fill
  deriving DecidableEq, Repr

/-- An outstanding split-phase operation of a gang (R170 to R172). -/
structure Op where
  id : Nat
  slot : Nat
  ctr : Nat
  ticket : Nat
  kind : OpKind
  /-- Register writes still to land, and ADLD's descriptor. -/
  lands : List RegWrite
  desc : Option (Nat × BitVec 128)
  landed : Bool
  /-- The operation has finished and waits for its turn to arrive (R171). -/
  done : Bool
  /-- The logical time that the arm had reached at its issue, and from its end on that of its unit's last access (R204, R312, R332). -/
  time : Nat
  /-- Its data cannot land before this cycle, nor while a stream's reservation of one of these banks is held (R66, R69). -/
  after : Nat
  banks : List Nat
  deriving DecidableEq, Repr

/-- The image of a TLD or THALO that its arm has covered by no WAIT yet (R157): the arm, the counter and the ticket, the arm's logical time at
its issue, and its bytes by offset in the team's scratchpad. -/
structure Image where
  slot : Nat
  ctr : Nat
  ticket : Nat
  since : Nat
  bytes : List (Nat × Byte)
  deriving DecidableEq, Repr

/-- A stream queue (R219 to R222). -/
structure Stream where
  isOpen : Bool
  desc : BitVec 128
  off : Int
  /-- (count, stride) per level, level 0 first. -/
  levels : List (Nat × Int)
  sx : Bool
  hn : Hint
  checked : Bool
  cursor : Nat
  /-- Elements fetched ahead: position, and value with the physical address of its poison, or a dropped prefetch. -/
  ahead : List (Nat × Option (DWord × Option Nat))
  ctr : Nat
  /-- The ticket of its STRM. -/
  ticket : Nat
  deriving DecidableEq, Repr

/-- A closed stream. -/
def Stream.closed : Stream :=
  { isOpen := false, desc := 0, off := 0, levels := [], sx := false, hn := .normal, checked := false, cursor := 0,
    ahead := [], ctr := 0, ticket := 0 }

/-- The arrivals that a gang's arms have recorded at one team barrier (R372). -/
structure BarArr where
  n : Nat
  slots : List Nat
  bytes : Int
  deriving DecidableEq, Repr

/-- A gang (R349): its registers, its CSRs and its two arms. -/
structure Gang where
  id : Nat
  core : Nat
  gslot : Nat
  pipe : Nat
  team : Nat
  launch : Nat
  ctx : Nat
  gangNo : Nat
  /-- Width W: the declared width, halved in protected launch mode (R418), and the declared one. -/
  width : Nat
  declared : Nat
  /-- Kernel entry address (R356). -/
  entry : DWord
  /-- Values, widths and extents of work-identifier fields 0 to 5 (R350). -/
  wval : List Nat
  wwid : List Nat
  wext : List Nat
  nv : Nat
  ns : Nat
  nvDecl : Nat
  nsDecl : Nat
  /-- Vector registers, key 128 × register + lane. -/
  v : List (Nat × Word)
  /-- Scalar registers s0–s60; s61–s63 are the arms' masks. -/
  s : List (Nat × Word)
  /-- Array descriptors. -/
  a : List (Nat × BitVec 128)
  /-- Arrival counters and issue counts (R170). -/
  c : List (Nat × BitVec 16)
  issueCnt : List (Nat × BitVec 16)
  ops : List Op
  /-- Images of the gang's TLDs and THALOs that take their place in the memory order at a WAIT to come (R157). -/
  images : List Image
  /-- The latest logical time of the operations that have arrived on each counter: a WAIT on it comes after them (R204, R332). -/
  ctimes : List (Nat × Nat)
  pend : List Pend
  fpc : Word
  /-- GMODE but for SUP (R378). -/
  gmode : Word
  shx : Bool
  bmiss : LaneMask
  apbase : Word
  lsbase : Word
  lscfg : Word
  lsblk : Word
  bkwin : Word
  trapv : DWord
  stallCnt : List (Nat × Word)
  /-- Sticky flags per lane and the scalar flag set (R271). -/
  vflags : List (Nat × BitVec 5)
  sflags : BitVec 5
  streams : List Stream
  /-- Values that the issue at hand has popped, key 128 × queue + lane, and their shadows, by queue; empty between
  instructions. The model's own. -/
  popv : List (Nat × DWord)
  popSh : List (Nat × Shadow)
  /-- Lanes whose twin's physical address, or data, differs in protected mode (R418, R419). -/
  twinAddr : LaneMask
  twinDiff : LaneMask
  gj : Option DWord
  arm : Arm
  partner : Option Arm
  bars : List BarArr
  /-- Reset mark of the matrix engine, with its reason (R325). -/
  resetMark : Option Nat
  urgent : Bool
  /-- The slot of the arm that issued last, and its issues in succession while the other arm stayed eligible; none once it has stalled
  (R353). -/
  run : Option (Nat × Nat)
  /-- Instructions issued since the team's last barrier phase (R389). -/
  issued : Nat
  /-- Every lane has exited; the gang ends once its operations have arrived (R370). -/
  exited : Bool
  deriving DecidableEq, Repr

/-- A gang that is not in use. -/
def Gang.blank : Gang :=
  { id := 0, core := 0, gslot := 0, pipe := 0, team := 0, launch := 0, ctx := 0, gangNo := 0, width := 8, declared := 8, entry := 0,
    wval := [], wwid := [], wext := [], nv := 0, ns := 0, nvDecl := 0, nsDecl := 0, v := [], s := [], a := [],
    c := [], issueCnt := [], ops := [], images := [], ctimes := [], pend := [], fpc := 0, gmode := 0, shx := false, bmiss := 0, apbase := 0,
    lsbase := 0, lscfg := 0x10000000, lsblk := 0, bkwin := 0x3FF, trapv := 0, stallCnt := [], vflags := [],
    sflags := 0, streams := [Stream.closed, Stream.closed, Stream.closed, Stream.closed], popv := [], popSh := [], twinAddr := 0, twinDiff := 0, gj := none,
    arm := Arm.blank, partner := none, bars := [], resetMark := none, urgent := false, run := none, issued := 0, exited := false }

end Sys2Proof.Machine
end

