-- ==== Sys2Proof/Machine/Shadow.lean ====
section
/-! DEFINITION. Interval shadow arithmetic: the rules of R235, R236 and R238. -/

namespace Sys2Proof.Machine

/-- The least and greatest signed 32-bit numbers. -/
def i32Min : Int := -2147483648
/-- The greatest signed 32-bit number. -/
def i32Max : Int := 2147483647

/-- A register value read as signed 32-bit. -/
def wordInt (w : Word) : Int := w.toInt

/-- Bounds computed exactly; out of range they give Top() (R235). -/
def shClip (lo hi : Int) : Shadow := if i32Min ≤ lo ∧ hi ≤ i32Max then ⟨lo, hi⟩ else Shadow.top

/-- The exact shadow of a value. -/
def shExact (w : Word) : Shadow := ⟨wordInt w, wordInt w⟩

/-- The least interval that holds both (R234). -/
def shHull (a b : Shadow) : Shadow := ⟨Min.min a.lo b.lo, Max.max a.hi b.hi⟩

/-- Clamp to the signed range: a signed saturating result (R236). -/
def shClamp (lo hi : Int) : Shadow := ⟨Max.max i32Min (Min.min i32Max lo), Min.min i32Max (Max.max i32Min hi)⟩

/-- ADD, with Sat as `sat` (R235, R236). -/
def shAdd (sat : Bool) (a b : Shadow) : Shadow :=
  if sat then shClamp (a.lo + b.lo) (a.hi + b.hi) else shClip (a.lo + b.lo) (a.hi + b.hi)

/-- SUB (R235). -/
def shSub (sat : Bool) (a b : Shadow) : Shadow :=
  if sat then shClamp (a.lo - b.hi) (a.hi - b.lo) else shClip (a.lo - b.hi) (a.hi - b.lo)

/-- The least of four. -/
def min4 (a b c d : Int) : Int := Min.min (Min.min a b) (Min.min c d)
/-- The greatest of four. -/
def max4 (a b c d : Int) : Int := Max.max (Max.max a b) (Max.max c d)

/-- MUL, low 32 bits (R235). -/
def shMul (sat : Bool) (a b : Shadow) : Shadow :=
  let lo := min4 (a.lo * b.lo) (a.lo * b.hi) (a.hi * b.lo) (a.hi * b.hi)
  let hi := max4 (a.lo * b.lo) (a.lo * b.hi) (a.hi * b.lo) (a.hi * b.hi)
  if sat then shClamp lo hi else shClip lo hi

/-- NEG (R235). -/
def shNeg (a : Shadow) : Shadow := shClip (-a.hi) (-a.lo)

/-- A shift count's interval lies within [0, 31] (R235). -/
def shCountOk (k : Shadow) : Bool := decide (0 ≤ k.lo) && decide (k.hi ≤ 31)

/-- SHL by a count in `k` (R235). -/
def shShl (a k : Shadow) : Shadow :=
  if shCountOk k then
    let p := (2 : Int) ^ k.lo.toNat
    let q := (2 : Int) ^ k.hi.toNat
    shClip (min4 (a.lo * p) (a.lo * q) (a.hi * p) (a.hi * q)) (max4 (a.lo * p) (a.lo * q) (a.hi * p) (a.hi * q))
  else Shadow.top

/-- SRA (R235): ≫ rounds toward −∞. -/
def shSra (a k : Shadow) : Shadow :=
  if shCountOk k then
    let p := (2 : Int) ^ k.lo.toNat
    let q := (2 : Int) ^ k.hi.toNat
    ⟨Min.min (a.lo / p) (a.lo / q), Max.max (a.hi / p) (a.hi / q)⟩
  else Shadow.top

/-- SHR (R235). -/
def shShr (a k : Shadow) : Shadow :=
  if shCountOk k then
    let p := (2 : Int) ^ k.lo.toNat
    let q := (2 : Int) ^ k.hi.toNat
    if 0 ≤ a.lo then ⟨a.lo / q, a.hi / p⟩
    else if 1 ≤ k.lo then ⟨0, (2 ^ 32 - 1) / p⟩ else Shadow.top
  else Shadow.top

/-- MIN.i32 (R235). -/
def shMinI (a b : Shadow) : Shadow := ⟨Min.min a.lo b.lo, Min.min a.hi b.hi⟩
/-- MAX.i32 (R235). -/
def shMaxI (a b : Shadow) : Shadow := ⟨Max.max a.lo b.lo, Max.max a.hi b.hi⟩
/-- MIN.n32 (R235). -/
def shMinN (a b : Shadow) : Shadow := if 0 ≤ a.lo ∧ 0 ≤ b.lo then shMinI a b else Shadow.top
/-- MAX.n32 (R235). -/
def shMaxN (a b : Shadow) : Shadow := if 0 ≤ a.lo ∧ 0 ≤ b.lo then shMaxI a b else Shadow.top

/-- CLAMP.i32 (R235). -/
def shClampOp (a b c : Shadow) : Shadow :=
  ⟨Min.min (Max.max a.lo b.lo) c.lo, Min.min (Max.max a.hi b.hi) c.hi⟩

/-- AND (R235). -/
def shAnd (a b : Shadow) : Shadow :=
  if 0 ≤ a.lo ∧ 0 ≤ b.lo then ⟨0, Min.min a.hi b.hi⟩
  else if 0 ≤ a.lo then ⟨0, a.hi⟩ else if 0 ≤ b.lo then ⟨0, b.hi⟩ else Shadow.top

/-- A refinement that would give lo > hi leaves the shadow unchanged (R238). -/
def shRefined (old : Shadow) (lo hi : Int) : Shadow := if lo ≤ hi then ⟨lo, hi⟩ else old

/-- Narrowing at a compare-and-branch under a condition that holds (R238): the refined A and B. -/
def shNarrow (c : Cond) (a b : Shadow) : Shadow × Shadow :=
  let pos := decide (0 ≤ a.lo) && decide (0 ≤ b.lo)
  let eq := (shRefined a (Max.max a.lo b.lo) (Min.min a.hi b.hi), shRefined b (Max.max a.lo b.lo) (Min.min a.hi b.hi))
  let drop (x y : Shadow) : Shadow :=
    if y.lo = y.hi then
      shRefined x (if x.lo = y.lo then x.lo + 1 else x.lo) (if x.hi = y.lo then x.hi - 1 else x.hi)
    else x
  let lt := (shRefined a a.lo (Min.min a.hi (b.hi - 1)), shRefined b (Max.max b.lo (a.lo + 1)) b.hi)
  let le := (shRefined a a.lo (Min.min a.hi b.hi), shRefined b (Max.max b.lo a.lo) b.hi)
  let gt := (shRefined a (Max.max a.lo (b.lo + 1)) a.hi, shRefined b b.lo (Min.min b.hi (a.hi - 1)))
  let ge := (shRefined a (Max.max a.lo b.lo) a.hi, shRefined b b.lo (Min.min b.hi a.hi))
  match c with
  | .eq => eq
  | .ne => (drop a b, drop b a)
  | .lt => lt
  | .le => le
  | .gt => gt
  | .ge => ge
  | .ltn => if pos then lt else (a, b)
  | .len => if pos then le else (a, b)
  | .gtn => if pos then gt else (a, b)
  | .gen => if pos then ge else (a, b)

/-- The negation of a condition (R239). -/
def condNot : Cond → Cond
  | .eq => .ne
  | .ne => .eq
  | .lt => .ge
  | .ge => .lt
  | .le => .gt
  | .gt => .le
  | .ltn => .gen
  | .gen => .ltn
  | .len => .gtn
  | .gtn => .len

/-- Whether a condition holds of two 32-bit values (R31). -/
def condHolds (c : Cond) (a b : Word) : Bool :=
  match c with
  | .eq => a == b
  | .ne => a != b
  | .lt => decide (a.toInt < b.toInt)
  | .ge => decide (b.toInt ≤ a.toInt)
  | .le => decide (a.toInt ≤ b.toInt)
  | .gt => decide (b.toInt < a.toInt)
  | .ltn => decide (a.toNat < b.toNat)
  | .gen => decide (b.toNat ≤ a.toNat)
  | .len => decide (a.toNat ≤ b.toNat)
  | .gtn => decide (b.toNat < a.toNat)

end Sys2Proof.Machine
end

