-- ==== Sys2Proof/Machine/Devices.lean ====
section
/-! DEFINITION. The state of the part's units outside the gangs: memory controllers, translation, page motion, the
Jigsaw, the L1 caches, retention, jobs, matrix engines, windows and the management controller. -/

namespace Sys2Proof.Machine

/-! ### Configuration record (R436, R437) -/

/-- The signed configuration record in module flash (R436), and what the flash holds beside it (R437, R438). -/
structure Cfg where
  version : Nat
  minVersion : Nat
  /-- The vendor signature verifies, and the ageing signature verifies. -/
  vendorOk : Bool
  ageOk : Bool
  /-- Enabled cores of each physical die 0–8, one bit a core; zero for a die that is not enabled. -/
  cores : List Nat
  /-- The physical die behind each die index 0–7, and the physical spare. -/
  dieMap : List Nat
  spare : Nat
  spareUsed : Bool
  /-- FAILED channels: (stack, channel). -/
  failed : List (Nat × Nat)
  /-- The board carries LPDDR 6. -/
  lpddr : Bool
  /-- The LPDDR 6 device organisation (R78): the offset bit that names the sub-channel, and the lowest bank bit. -/
  lpddrSub : Nat
  lpddrBank : Nat
  /-- The checkpoint tier: its port, and the first byte and size of its persistent region. -/
  ckptPort : Option Nat
  ckptBase : Nat
  ckptSize : Nat
  flDevId : Nat
  flEn : Bool
  auto : Bool
  /-- Reset values of PARTMAP: ((partition, die), bits), all 96 bits of a die. -/
  partMap : List ((Nat × Nat) × Nat)
  rev : Nat
  /-- The power limit in watts, and the lowest and highest voltage of a compute die in mV. -/
  pwrMax : Nat
  voltMin : Nat
  voltMax : Nat
  /-- The ageing part in force: MV of each die index, retired cores of each die index, sequence number. -/
  volt : List Nat
  retired : List Nat
  ageSeq : Nat
  lastSeq : Nat
  /-- The parts as the flash holds them, where they can differ from those in force: the voltages and retired cores last signed, and
  the vendor part's spare-die map (R395, R436). -/
  flashVolt : List Nat
  flashRetired : List Nat
  flashMap : List Nat
  flashSpareUsed : Bool
  /-- XMSS leaves spent, and the signature of the ageing part last written (R438). -/
  leaf : Nat
  ageSig : List Byte
  /-- A vendor part waiting for the next cold reset (R437). -/
  pendingVendor : Option (List Byte)
  deriving DecidableEq, Repr

/-! ### Memory controllers -/

/-- A bulk-stream reservation or a request for one (R66). -/
structure Reserve where
  stack : Nat
  ch : Nat
  pc : Nat
  bank : Nat
  /-- The die and the job entry that own it. -/
  die : Nat
  job : Nat
  held : Bool
  /-- The cycle of its last sector transfer. -/
  last : Nat
  /-- While a forced refresh suspends its stream: the first cycle of the stall and the cycle of the column command that
  resumes it (R69, R70). -/
  susp : Option (Nat × Nat)
  /-- The cycle from which its stream may open its next row (R458). -/
  next : Nat
  deriving DecidableEq, Repr

/-- The DRAM state (R62 to R76). -/
structure Dram where
  /-- Refresh epoch of blocks 0–8, the due points served so far (in the order of R68) and, at the due point at hand,
  the next pseudo-channel. -/
  epoch : List (Option Nat)
  dueIdx : List Nat
  duePc : List Nat
  /-- Refresh debt by bank number ((block × 64 + pseudo-channel) × 16 + bank); 0 when not listed. -/
  debt : List (Nat × Nat)
  /-- Banks with a queued REFpb, earliest due first. -/
  queued : List Nat
  /-- REFpb in progress: bank number and the cycle at which it ends. -/
  refpb : List (Nat × Nat)
  /-- Requests that wait on a refresh, by pseudo-channel number: the cycles from and to which they wait (R70). -/
  refWait : List (Nat × Nat × Nat)
  /-- Forced bursts in progress: pseudo-channel number, start and end cycle (R69). -/
  burst : List (Nat × Nat × Nat)
  reserves : List Reserve
  /-- Write queues in arrival order: (pseudo-channel number, bank number, line); and the queues that drain (R62). A line is
  its address / 256, or for a parity line 2^44 + the number of its stripe (R72). -/
  writeQ : List (Nat × Nat × Nat)
  /-- Entries of the write queues that line copies have reserved, as in `writeQ` (R128). -/
  copyQ : List (Nat × Nat × Nat)
  draining : List Nat
  /-- What the reads of the instruction at hand wait for: a refresh that ends in this cycle, and reserved banks (R66, R69). -/
  reading : Nat × List Nat
  /-- Rebuilds of each channel in the patrol pass at hand: stack × 32 + channel; 0 when not listed (R75). -/
  rbPass : List (Nat × Nat)
  /-- Sectors in error: sector number, and whether the sector code cannot correct it (R73). -/
  bad : List (Nat × Bool)
  /-- Failed channels (stack, channel). -/
  failed : List (Nat × Nat)
  /-- Stripes whose parity lines wait in the write-back buffer, (stack, stripe), oldest first (R72). -/
  parityQ : List (Nat × Nat)
  /-- Wrong bits of the buffer's 8-byte words: key 32 × stripe number + word (R72). -/
  parityErr : List (Nat × Nat)
  /-- Sectors of stored parity lines whose code does not pass, key 4 × stripe number + sector: 1 correctable, 2 uncorrectable,
  3 poisoned (R71, R413). -/
  parityBad : List (Nat × Nat)
  /-- The next line that the patrol scrubber visits, and the start of its pass (R76). -/
  scrubPos : Nat
  scrubStart : Nat
  /-- The fill or restore of R77 is done. -/
  ready : Bool
  deriving DecidableEq, Repr

/-! ### Translation -/

/-- An entry of an L1 or L2 TLB (R100): where it is held, what it translates, and the leaf. -/
structure TlbEntry where
  l2 : Bool
  /-- Core number for an L1 TLB, die index for an L2 TLB. -/
  place : Nat
  ctx : Nat
  /-- First 4 KiB page number and log2 of the number of 4 KiB pages. -/
  page : Nat
  bits : Nat
  leaf : DWord
  level : Nat
  deriving DecidableEq, Repr

/-- A walk-cache entry: a non-leaf entry of level 5 to 2 (R100). -/
structure WalkEntry where
  die : Nat
  ctx : Nat
  level : Nat
  /-- The address bits above the level's own index, with the index. -/
  idx : Nat
  entry : DWord
  deriving DecidableEq, Repr

/-- A pending post to the host fault queue (R111, R112). -/
structure FaultPost where
  tag : Nat
  gang : Nat
  slot : Nat
  /-- Records not yet written. -/
  records : List (List Byte)
  deriving DecidableEq, Repr

/-! ### Page motion -/

/-- An entry of a hot-page table (R118). -/
structure HeatEntry where
  die : Nat
  set : Nat
  way : Nat
  ctx : Nat
  region : Nat
  heat : Nat
  deriving DecidableEq, Repr

/-- State of a move record (R124). -/
inductive MoveState where
  | recall
  | forward
  | reverse
  | closing
  /-- The port has closed; the source frame waits for its leases (R130). -/
  | releasing
  /-- Its frames wait for the release ring (R123). -/
  | released
  deriving DecidableEq, Repr

/-- The hold of the line at the cursor (R124). -/
inductive Hold where
  | none
  | copyRead
  | held
  deriving DecidableEq, Repr

/-- Who asked for a move (R124): the gang and its operation, with what PCs the event record needs. -/
structure Requester where
  gang : Nat
  op : Nat
  core : Nat
  gslot : Nat
  slot : Nat
  ctr : Nat
  ticket : Nat
  /-- The status register. -/
  status : Nat
  deriving DecidableEq, Repr

/-- A move record that is not Free (R124). -/
structure Move where
  no : Nat
  st : MoveState
  ctx : Nat
  va : Nat
  src : Nat
  dst : Nat
  pool : Nat
  lines : Nat
  cursor : Nat
  hold : Hold
  th : Nat
  stk : Nat
  req : Option Requester
  trap : Bool
  /-- The copy buffer: the 256 bytes of the line in copy, and its poisoned sectors. -/
  buf : List Byte
  bufPoison : List Nat
  /-- A cause of R132 to act on at the next line boundary, then the status of the abort. -/
  want : Option Nat
  abort : Option Nat
  /-- Cursor when the abort took effect. -/
  atCursor : Nat
  /-- TIME of the latest read lease granted on the frame's lines (R130). -/
  leaseEnd : Nat
  /-- The serial number at the invalidation of R130 step 2. -/
  closedAt : Nat
  /-- The closing compare failed: the abort writes no leaf (R131). -/
  leafLost : Bool
  /-- PINs that wait: gang, operation and the page's address. -/
  pinWait : List (Nat × Nat × Nat)
  deriving DecidableEq, Repr

/-- The Yo-yo's state (R118 to R139). -/
structure Yoyo where
  heat : List HeatEntry
  /-- Sample counters by core number; 63 when not listed (R119). -/
  sample : List (Nat × Nat)
  moves : List Move
  /-- Frames held for the release ring: record, frame, pool (R123). -/
  held : List (Nat × Nat × Nat)
  /-- Regions in quarantine: context, region, epoch until which (R122). -/
  quarantine : List (Nat × Nat × Nat)
  /-- PLC.move pages waiting for a pass: context, page number, and who asked (R124). -/
  plcQ : List (Nat × Nat × Requester)
  epochs : Nat
  /-- TIME of the next epoch end. -/
  nextEpoch : Nat
  /-- A checkpoint or restore in progress: which, its start TIME and whether a write or read failed. -/
  ckpt : Option (Bool × Nat × Bool)
  deriving DecidableEq, Repr

/-! ### The Jigsaw and the L1 caches -/

/-- The key of a Jigsaw line (R153). -/
inductive JKey where
  | line (pa : Nat)
  | tile (ctx id tr tc ln : Nat)
  deriving DecidableEq, Repr

/-- A line that the Jigsaw holds (R146, R153). `pa` is the line's address; masks have a bit per sector. The
current bytes are those of `Mem.main`; `back` gives the bytes last written back of the sectors of `saved`, which have
changed since. -/
structure JLine where
  home : Nat
  key : JKey
  pa : Nat
  valid : Nat
  dirty : Nat
  saved : Nat
  back : List Host.Cell
  /-- Poisoned sectors as last written back. -/
  backPoison : List Nat
  /-- Wrong bits of its 8-byte words: word in the line and how many (R146). -/
  errs : List (Nat × Nat)
  /-- Replacement order: larger is more recent. -/
  lru : Nat
  deriving DecidableEq, Repr

/-- A sweep of TINV or TUNREG (R165). -/
structure Sweep where
  id : Nat
  ctx : Nat
  tid : Nat
  unreg : Bool
  discard : Bool
  gang : Nat
  op : Nat
  deriving DecidableEq, Repr

/-- A line that an L1 holds (R178): Leased until `rts`, or Owned. `pa` is the line number (address / 256); masks have a bit per
sector. -/
structure L1Line where
  core : Nat
  pa : Nat
  owned : Bool
  rts : Nat
  /-- The write-stamp of the copy and the agent of that write (R333). -/
  wts : Nat
  wby : Nat
  valid : Nat
  dirty : Nat
  /-- The copy's 256 bytes and poisoned sectors, where memory has changed since the lease; empty while it has not. -/
  data : List Byte
  dataPoison : List Nat
  /-- Wrong bits of its 8-byte words: word in the line and how many. -/
  errs : List (Nat × Nat)
  keep : Bool
  /-- The operations that hold it reserved (R182). -/
  reserved : List Nat
  lru : Nat
  deriving DecidableEq, Repr

/-- A line of a core's instruction cache (R6, R388): its bytes and poisoned sectors as they were fetched. -/
structure ILine where
  core : Nat
  pa : Nat
  bytes : List Byte
  poison : List Nat
  lru : Nat
  deriving DecidableEq, Repr

/-- The home's stamps of a line (R333): the time and agent of the last write, the latest time that a lease reaches, and
the time and agent of the latest read at the home. -/
structure Stamp where
  pa : Nat
  wts : Nat
  wby : Nat
  rts : Nat
  rd : Nat
  rdBy : Nat
  deriving DecidableEq, Repr

structure Caches where
  jigsaw : List JLine
  sweeps : List Sweep
  l1 : List L1Line
  icache : List ILine
  stamps : List Stamp
  /-- Logical times of the agents that are not arms, by agent number (R330, R331), and the agents whose next access waits
  for TIME (R333). -/
  times : List (Nat × Nat)
  waiting : List Nat
  lruNext : Nat
  deriving DecidableEq, Repr

/-! ### Bank memory and retention -/

/-- A request that waits for a place among the 64 waiters of a bank unit, or for ARRIVED room (R188, R197): the gang, the
operation and the bank unit. Held in arrival order. -/
structure BankWait where
  id : Nat
  gang : Nat
  op : Nat
  unit : Nat
  deriving DecidableEq, Repr

structure Banks where
  waits : List BankWait
  /-- Units in retention: 128 × die index + bank, or 1024 + 4 × core + scratchpad quarter (R189). -/
  retained : List Nat
  /-- Cycle of the last touch of a unit; 0 when not listed. -/
  touched : List (Nat × Nat)
  /-- Single-bit and multi-bit errors present in 8-byte words: (scratchpad?, word number, bits in error). -/
  errors : List ((Bool × Nat) × Nat)
  deriving DecidableEq, Repr

/-! ### Copy engines -/

/-- A footprint hint that waits for a copy engine (R207): die, context, mode, the APBASE of its aperture area unless an override makes
every address global, and the first and last byte. -/
structure FootHint where
  die : Nat
  ctx : Nat
  sup : Bool
  area : Option Nat
  first : Nat
  last : Nat
  deriving DecidableEq, Repr

/-- State of a job entry (R201). -/
inductive JobSt where
  | queued
  | running
  | complete
  deriving DecidableEq, Repr

/-- A range of bytes that a job reads or writes: the aperture override, its first generic address and its length (R202). -/
structure Span where
  ovr : Nat
  first : Nat
  len : Nat
  deriving DecidableEq, Repr

/-- A region of a footprint as R203 compares it: aperture, first and last byte. -/
structure Region where
  ap : Nat
  first : Nat
  last : Nat
  deriving DecidableEq, Repr

/-- What a job does (R211, R213, R224), latched at submission. -/
inductive JobWork where
  | copy (bulk : Bool) (src dst : List Span)
  | fill (pat : Nat) (dst : List Span)
  | fence
  /-- Nothing: its result was known at submission. -/
  | none
  /-- MVN: format, FB, B's first byte (with its override), A's scratchpad offset, N, K, the result's first byte and sa. -/
  | mvn (fmt : Nat) (fb : Bool) (b : Span) (a n k : Nat) (out : Span) (sa : Nat)
  deriving DecidableEq, Repr

/-- A byte on its way, and whether it is poisoned. -/
structure MByte where
  val : Byte
  bad : Bool
  deriving DecidableEq, Repr

/-- An entry of a die's job scheduler (R200 to R206); it keeps a completed job until it is reused. -/
structure Job where
  die : Nat
  entry : Nat
  gen : Nat
  /-- Submission order. -/
  serial : Nat
  st : JobSt
  ctx : Nat
  launch : Nat
  team : Nat
  gang : Nat
  op : Nat
  core : Nat
  sup : Bool
  /-- APBASE and BKWIN at submission. -/
  apVa : Nat
  bkwin : Nat
  work : JobWork
  reads : List Region
  writes : List Region
  /-- The team barrier that landing bytes count against (R212). -/
  barrier : Option Nat
  /-- Serial numbers of the incomplete jobs it has an edge to. -/
  deps : List Nat
  /-- Bytes read and not yet written: (transfer offset, bytes) (R213). -/
  buf : List (Nat × List MByte)
  /-- Source chunks that streams still have to read, in the order of R213: (bank number, row, transfer offset, length). -/
  left : List (Nat × Nat × Nat × Nat)
  /-- The transfer offset at which the job stops for a fault of its source (R206). -/
  limit : Nat
  /-- Status, reason and FADDR, once known. -/
  res : Option (Nat × Nat × Nat)
  /-- The first poisoned byte that an MVN met (R226): VA and physical address. -/
  poison : Option (Nat × Nat)
  /-- Pages of B of an MVN that runs near memory: virtual page numbers (R225). -/
  near : List Nat
  latency : Nat
  deriving DecidableEq, Repr

/-- The job schedulers (R200). -/
structure Jobs where
  list : List Job
  /-- Next entry to search from, by die index (R201). -/
  next : List (Nat × Nat)
  deriving DecidableEq, Repr

/-- A move whose start waits for the end of a near-memory MVN (R225). -/
structure Deferred where
  id : Nat
  no : Nat
  ctx : Nat
  va : Nat
  /-- The PFN of the leaf as the request found it: the start's compare expects it (R125). -/
  pfn : Nat
  dst : Nat
  pool : Nat
  lines : Nat
  req : Option Requester
  trap : Bool
  deriving DecidableEq, Repr

/-! ### Matrix engines (R300) -/

/-- A reservation of a core's operand buffer (R305). A saved team's engine state stands under core number 768 + team. -/
structure MxRes where
  id : Nat
  core : Nat
  team : Nat
  h : Nat
  /-- The handle is held; false once OBREL has issued (R317). -/
  held : Bool
  fmt : Nat
  gc : Nat
  size : Nat
  pitch : Nat
  soff : Nat
  /-- First granule. -/
  start : Nat
  /-- Bytes by offset, each plus one; a byte that is not listed has not been loaded. -/
  data : List (Nat × Nat)
  deriving DecidableEq, Repr

/-- The group that a tile's partial sums: reservation, column and group (R309). -/
structure MxTag where
  res : Nat
  col : Nat
  grp : Nat
  deriving DecidableEq, Repr

/-- An accumulator tile (R307). -/
structure MxTile where
  id : Nat
  core : Nat
  team : Nat
  no : Nat
  /-- The tile is bound; false once ACZ.rel has issued or an F64 tile has absorbed it (R321). -/
  bound : Bool
  kind : AccKind
  slots : Nat
  /-- Elements, key 32 m + n. -/
  vals : List (Nat × Nat)
  part : List (Nat × Int)
  tag : Option MxTag
  flags : BitVec 5
  steps : Nat
  deriving DecidableEq, Repr

/-- Where a matrix command's bytes lie: a global or scratchpad range, with the physical address that the issue found. -/
structure MxPiece where
  /-- Element or record number of the transfer. -/
  idx : Nat
  va : Nat
  n : Nat
  /-- The scratchpad offset within the team's allocation, or the physical address. -/
  scratch : Bool
  pa : Nat
  /-- The pages of the entry that translated it: the first one and the log2 of their number (R312). -/
  page : Nat
  bits : Nat
  deriving DecidableEq, Repr

/-- What an MSTAT snapshots, as its place in the queue finds it: a bound tile, a held reservation, or the engine (R323). -/
inductive MxView where
  | acc (tile : Option (Nat × AccKind))
  | ob (res : Option Nat)
  | eng
  deriving DecidableEq, Repr

/-- The queue-order part of a matrix command (R316 to R323). -/
inductive MxWork where
  | obrel (res : Nat)
  /-- OBLD: pieces and their buffer offsets. -/
  | obld (res : Nat) (pieces : List (MxPiece × Nat))
  /-- OBLD.rec: record pieces with column and group. -/
  | obldRec (res : Nat) (pieces : List (MxPiece × Nat × Nat))
  /-- MMA, MLOOP: the reuse hints for A and B come last (R320). -/
  | mma (tile : Nat) (kind : AccKind) (ra rb : Nat) (oa ob da db : Int) (count : Nat) (ua ub : Bool)
  | acz (tile : Nat) (kind : AccKind) (absorbed : Option Nat)
  | aczRel (tile : Nat)
  | acldMem (tile : Nat) (kind : AccKind) (pieces : List MxPiece)
  | acldRegs (tile : Nat) (vals : List (Nat × Nat))
  | acstMem (tile : Nat) (kind : AccKind) (pieces : List MxPiece)
  | acstRegs (tile : Nat) (d : Nat) (lanes : List Nat)
  /-- MSTAT: what the issue found (R323). -/
  | mstat (view : MxView) (d : Nat)
  deriving DecidableEq, Repr

/-- A queued matrix command (R300, R302). -/
structure MxCmd where
  id : Nat
  core : Nat
  team : Nat
  launch : Nat
  ctx : Nat
  sup : Bool
  gang : Nat
  op : Nat
  work : MxWork
  /-- The logical time that its gang had reached at issue (R312). -/
  time : Nat
  deriving DecidableEq, Repr

/-- A fragment in a core's operand collector, A or B, by reservation and offset (R300, R320). Its elements are the reservation's own, for
whatever touches the reservation drops it. -/
structure MxLatch where
  core : Nat
  isB : Bool
  res : Nat
  off : Nat
  deriving DecidableEq, Repr

/-- The matrix engines of every core. -/
structure Mx where
  res : List MxRes
  tiles : List MxTile
  queue : List MxCmd
  /-- The cycle of each engine's last progress (R325). -/
  last : List (Nat × Nat)
  /-- The operand collectors. -/
  coll : List MxLatch
  deriving DecidableEq, Repr

/-! ### Windows and packets (R336, R337) -/

/-- A registered window. -/
structure Window where
  ctx : Nat
  w : Nat
  base : Nat
  len : Nat
  ack : Nat
  land : Nat
  /-- The logical time at which LAND has its value (R337, R339). -/
  landTime : Nat
  deriving DecidableEq, Repr

/-- State of a packet at its origin (R337, R340). -/
inductive PktSt where
  /-- On its way to the target. -/
  | out
  /-- Landed; its acknowledgement is on its way. -/
  | landed
  /-- Refused with a reason on its way to the origin. -/
  | refused (reason : Nat)
  deriving DecidableEq, Repr

/-- A packet of a put, or one on its way in from a peer (R337). -/
structure Packet where
  id : Nat
  /-- Sent by this device; otherwise by a peer. -/
  own : Bool
  /-- The origin's context, window, gang, operation and launch. -/
  ctx : Nat
  w : Nat
  gang : Nat
  op : Nat
  launch : Nat
  /-- The target device, FJOB, remote window and offset, and the bytes. -/
  peer : Nat
  fjob : Nat
  tw : Nat
  off : Nat
  bytes : List MByte
  /-- TIME at sending. -/
  sent : Nat
  st : PktSt
  /-- The origin has its answer, or has given up waiting. -/
  answered : Bool
  /-- Context, address and length of what peers' packets have landed here since this one was sent: no order lies between them (R338). -/
  rivals : List (Nat × Nat × Nat)
  deriving DecidableEq, Repr

/-- A put in progress (R343): the refusals so far, as (remote offset, reason). -/
structure PutRec where
  gang : Nat
  op : Nat
  refused : List (Nat × Nat)
  deriving DecidableEq, Repr

/-- The link agent. -/
structure Link where
  windows : List Window
  packets : List Packet
  puts : List PutRec
  /-- Failed ports (R340). -/
  downPorts : List Nat
  deriving DecidableEq, Repr

/-! ### Command processors and management -/

/-- What the command processors hold beside launches and teams (R379, R387, R395, R397). -/
structure Cp where
  /-- The rotation pointer of each priority level (R379). -/
  turn : List (Nat × Nat)
  /-- The die index under substitution (R395). -/
  sub : Option Nat
  /-- Dispatches so far: the next team's age (R390). -/
  age : Nat
  /-- The cycle of each core's last urgency marks (R389), and of each arm's last trace sample, by gang × 2 + slot (R422). -/
  marked : List (Nat × Nat)
  sampled : List (Nat × Nat)
  /-- The cycle since which no arm of a core has been eligible (R392). -/
  idleSince : List (Nat × Nat)
  deriving DecidableEq, Repr

/-- The debuggers' state beside their registers (R425, R426). -/
structure Dbg where
  /-- Blocks whose HALT still holds for teams to come. -/
  halting : List Nat
  /-- Blocks whose right was revoked and whose debugger has not met it yet. -/
  revoked : List Nat
  deriving DecidableEq, Repr

/-- The management controller (R437 to R442). -/
structure Mgmt where
  /-- TIME of the next margin plan. -/
  nextPlan : Nat
  /-- An attestation in progress: its nonce, and the bus address of its buffer. -/
  nonce : Option (List Byte)
  attBuf : Nat
  /-- The vendor part was rejected: only the identity area answers. -/
  held : Bool
  /-- Units whose own state holds an uncorrectable error that they have not met yet, by unit code (R411). -/
  unitBad : List Nat
  /-- What the host's last read returned (R431, R335): its bytes. -/
  hostData : List Byte
  deriving DecidableEq, Repr

end Sys2Proof.Machine
end

