-- ==== Sys2Proof/Machine/Mmio.lean ====
section
/-! DEFINITION. The register map of the MMIO window (R432): where each register lies, its access masks (R10) and
its reset value. Offsets are BAR0 offsets. -/

namespace Sys2Proof.Machine

/-- How a 64-bit register behaves (R10): its reset value and the bits of each access kind. A bit in none of the masks is
read-only or reserved. -/
structure RegInfo where
  reset : Nat
  rw : Nat
  w1c : Nat
  w1s : Nat
  wo : Nat
  /-- A register lies here. -/
  present : Bool
  deriving DecidableEq, Repr

/-- No register occupies the offset: reads zero, a write is ignored (R432). -/
def RegInfo.absent : RegInfo := ⟨0, 0, 0, 0, 0, false⟩
/-- A register with only RW and read-only bits. -/
def regRw (reset rw : Nat) : RegInfo := ⟨reset, rw, 0, 0, 0, true⟩
/-- A read-only register. -/
def regRo (reset : Nat) : RegInfo := ⟨reset, 0, 0, 0, 0, true⟩
/-- A full 64-bit counter, RW. -/
def regCnt : RegInfo := regRw 0 (2 ^ 64 - 1)
/-- The mask of bits `[hi:lo]`. -/
def bitMask (hi lo : Nat) : Nat := (2 ^ (hi + 1 - lo) - 1) * 2 ^ lo
/-- Field `[hi:lo]` of a value. -/
def bitField (x hi lo : Nat) : Nat := x / 2 ^ lo % 2 ^ (hi + 1 - lo)

/-! ### Offsets -/

/-- Memory-control block `b`, 0–7 for the stacks, 8 for LPDDR 6 (R81). -/
def mcBlock (b : Nat) : Nat := 0x10000 + 0x1000 * b
/-- MCCHSTAT (R82). -/
def mcChStat (b ch : Nat) : Nat := mcBlock b + 8 * ch
/-- MCPCSTAT (R83). -/
def mcPcStat (b ch pc : Nat) : Nat := mcBlock b + 0x100 + 16 * ch + 8 * pc
/-- Frame pool `n` (R110). -/
def fpBase (n : Nat) : Nat := 0x20400 + 0x20 * n
/-- FPCTL (R110). -/
def fpCtl (n : Nat) : Nat := fpBase n + 8
/-- FPHEAD (R110). -/
def fpHead (n : Nat) : Nat := fpBase n + 16
/-- FPTAIL (R110). -/
def fpTail (n : Nat) : Nat := fpBase n + 24
/-- FQBASE, the host fault queue's ring (R110). -/
def fqBase : Nat := 0x20600
/-- FQREPLY (R110). -/
def fqReply : Nat := 0x20620
/-- FQOVF (R110). -/
def fqOvf : Nat := 0x20628
/-- PFDROP (R110). -/
def pfDrop : Nat := 0x20630
/-- FQSTRAY (R110). -/
def fqStray : Nat := 0x20638
/-- TLBIVA (R117). -/
def tlbiVa : Nat := 0x20680
/-- TLBICMD (R117). -/
def tlbiCmd : Nat := 0x20688
/-- TLBISTAT (R117). -/
def tlbiStat : Nat := 0x20690
/-- The page-motion area (R139). -/
def yoCtl : Nat := 0x30000
/-- YOTHR (R139). -/
def yoThr : Nat := 0x30008
/-- The event ring (R139). -/
def yoEvBase : Nat := 0x30010
/-- The release ring (R139). -/
def yoRlBase : Nat := 0x30030
/-- YOMOVES (R139). -/
def yoMoves : Nat := 0x30050
/-- YOABORTS (R139). -/
def yoAborts : Nat := 0x30058
/-- YOPSKIP (R139). -/
def yoPskip : Nat := 0x30060
/-- YOEVLOST (R139). -/
def yoEvLost : Nat := 0x30068
/-- YOCKPT (R139). -/
def yoCkpt : Nat := 0x30070
/-- The Jigsaw block of die index `d` (R169). -/
def jgBlock (d : Nat) : Nat := 0x40000 + 0x100 * d
/-- The bank-memory block of die index `d` (R199). -/
def bkBlock (d : Nat) : Nat := 0x50000 + 0x100 * d
/-- The copy-engine block of die index `d` (R229). -/
def ceBlock (d : Nat) : Nat := 0x60000 + 0x100 * d
/-- The matrix block of die index `d` (R328). -/
def mxBlock (d : Nat) : Nat := 0x70000 + 0x100 * d
/-- LSCTL (R348). -/
def lsCtl : Nat := 0x80000
/-- LSWAIT (R348). -/
def lsWait : Nat := 0x80008
/-- LSRENEW (R348). -/
def lsRenew : Nat := 0x80010
/-- FLCTL (R348). -/
def flCtl : Nat := 0x80100
/-- FLDEVID (R348). -/
def flDevId : Nat := 0x80108
/-- FLNACK (R348). -/
def flNack : Nat := 0x80110
/-- FLTXB (R348). -/
def flTxb : Nat := 0x80118
/-- FLRXB (R348). -/
def flRxb : Nat := 0x80120
/-- CXLPSTAT (R80). -/
def cxlpStat (p : Nat) : Nat := 0x90000 + 8 * p
/-- HDM decoder `k` (R80). -/
def hdmBlock (k : Nat) : Nat := 0x90100 + 0x20 * k
/-- CTXBASE (R398). -/
def ctxBase : Nat := 0x100000
/-- Queue `q` (R380). -/
def qBlock (q : Nat) : Nat := 0x101000 + 0x20 * q
/-- PARTMAP of partition `p`, 1–8, on die index `d` (R398). -/
def partMap (p d : Nat) : Nat := 0x102000 + 0x100 * (p - 1) + 0x10 * d
/-- PARTCTL (R398). -/
def partCtl (p : Nat) : Nat := 0x102800 + 8 * (p - 1)
/-- PRECTL (R398). -/
def preCtl : Nat := 0x103000
/-- PRECMD (R398). -/
def preCmd : Nat := 0x103008
/-- SPARECTL (R398). -/
def spareCtl : Nat := 0x103010
/-- TDCMD (R398). -/
def tdCmd : Nat := 0x103018
/-- PLSPILL (R398). -/
def plSpill : Nat := 0x103020
/-- CPDONEF (R398). -/
def cpDonef : Nat := 0x103028
/-- The error ring (R429). -/
def errRing : Nat := 0x110000
/-- The team-record ring (R429). -/
def teamRing : Nat := 0x110040
/-- The trace ring (R429). -/
def traceRing : Nat := 0x110080
/-- TRAPDEF (R429). -/
def trapDef : Nat := 0x110100
/-- ERRCTL (R429). -/
def errCtl : Nat := 0x110108
/-- ERRFATAL0 (R429). -/
def errFatal : Nat := 0x110110
/-- CRITBASE (R429). -/
def critBase (i : Nat) : Nat := 0x110200 + 16 * i
/-- CRITLIM (R429). -/
def critLim (i : Nat) : Nat := 0x110208 + 16 * i
/-- CAPBASE (R429). -/
def capBase : Nat := 0x110300
/-- CAPCTL (R429). -/
def capCtl : Nat := 0x110308
/-- CAPHEAD (R429). -/
def capHead : Nat := 0x110310
/-- TRCCTL (R429). -/
def trcCtl : Nat := 0x110318
/-- REPLLOST (R429). -/
def replLost : Nat := 0x110320
/-- Debug block `k` (R430). -/
def dbgBlock (k : Nat) : Nat := 0x110400 + 0x80 * k
/-- MGMTSTAT (R443). -/
def mgmtStat : Nat := 0x120000
/-- CFGVER (R443). -/
def cfgVer : Nat := 0x120008
/-- AGESTAT (R443). -/
def ageStat : Nat := 0x120010
/-- VDIE (R443). -/
def vDie (d : Nat) : Nat := 0x120040 + 8 * d
/-- RETIRED (R443). -/
def retiredReg (d : Nat) : Nat := 0x120080 + 16 * d
/-- PWRLIM (R443). -/
def pwrLim : Nat := 0x120100
/-- PWRNOW (R443). -/
def pwrNow : Nat := 0x120108
/-- HOSTWIN (R443). -/
def hostWin : Nat := 0x120110
/-- TIMEADJ (R443). -/
def timeAdj : Nat := 0x120118
/-- ATTBASE (R443). -/
def attBase : Nat := 0x120120
/-- ATTREQ (R443). -/
def attReq : Nat := 0x120128
/-- MSIXSEL of source `n` (R444). -/
def msixSel (n : Nat) : Nat := 0x120200 + 8 * n
/-- The MSI-X table (R432). -/
def msixTable : Nat := 0x140000
/-- The pending bit array (R432). -/
def msixPba : Nat := 0x141000

/-! ### Access masks and reset values -/

/-- A ring in host memory: BASE, CTL, HEAD, TAIL, LOST (R429); SZ is CTL[5:2]. -/
def hostRingInfo (o : Nat) : RegInfo :=
  if o = 0 then regRw 0 (bitMask 63 12) else if o = 8 then regRw 0 (bitMask 5 0)
  else if o = 16 then regRo 0 else if o = 24 then regRw 0 (bitMask 31 0) else if o = 32 then regCnt else RegInfo.absent

/-- The memory-control area (R82 to R84). -/
def mcInfo (o : Nat) : RegInfo :=
  let b := o / 0x1000
  let r := o % 0x1000
  if 8 < b then RegInfo.absent
  else if r < 0x100 then (if b = 8 then regRw 0 (bitMask 63 32 + bitMask 15 8) else ⟨0, bitMask 63 8, 0, 1, 0, true⟩)
  else if r < 0x300 then regRw 0 (bitMask 63 8)
  else if r < 0x500 then regRo 0 else RegInfo.absent

/-- The translation-control area (R110, R117). -/
def trInfo (o : Nat) : RegInfo :=
  if o < 0x400 then RegInfo.absent
  else if o < 0x540 then
    let r := (o - 0x400) % 0x20
    if r = 0 then regRw 0 (bitMask 51 12) else if r = 8 then regRw 0 (bitMask 4 0)
    else if r = 16 then regRo 0 else regRw 0 (bitMask 31 0)
  else if o = 0x600 then regRw 0 (bitMask 63 12)
  else if o = 0x608 then regRw 0 (bitMask 5 0)
  else if o = 0x610 then regRo 0
  else if o = 0x618 then regRw 0 (bitMask 31 0)
  else if o = 0x620 then ⟨0, 0, 0, 0, bitMask 63 32 + 3, true⟩
  else if o = 0x628 ∨ o = 0x630 ∨ o = 0x638 then regCnt
  else if o = 0x680 then regRw 0 (bitMask 56 12)
  else if o = 0x688 then ⟨0, bitMask 63 48 + bitMask 27 8 + bitMask 2 1, 0, 1, 0, true⟩
  else if o = 0x690 then ⟨0, 0, 1, 0, 0, true⟩
  else RegInfo.absent

/-- The page-motion area (R139). -/
def yoInfo (o : Nat) : RegInfo :=
  if o = 0 then ⟨100 * 2 ^ 32 + 256 * 2 ^ 22 + 6 * 2 ^ 18 + 2, bitMask 39 18 + 3, 0, 4, 0, true⟩
  else if o = 8 then regRw (64 * 2 ^ 24 + 4 * 2 ^ 16 + 1024) (bitMask 31 0)
  else if o = 0x10 then regRw 0 (bitMask 63 12)
  else if o = 0x18 then regRw 0 (bitMask 5 0)
  else if o = 0x20 then regRo 0
  else if o = 0x28 then regRw 0 (bitMask 31 0)
  else if o = 0x30 then regRw 0 (bitMask 51 12)
  else if o = 0x38 then regRw 0 (bitMask 4 0)
  else if o = 0x40 then regRo 0
  else if o = 0x48 then regRw 0 (bitMask 31 0)
  else if o = 0x50 ∨ o = 0x58 ∨ o = 0x60 ∨ o = 0x68 then regCnt
  else if o = 0x70 then ⟨0, 0, bitMask 3 2, 0, 3, true⟩
  else RegInfo.absent

/-- The Jigsaw area (R169). -/
def jgInfo (o : Nat) : RegInfo :=
  if 0x800 ≤ o then RegInfo.absent
  else let r := o % 0x100
    if r = 0 then regRw 0x4000 (bitMask 15 8 + 15) else if r = 8 ∨ r = 0x10 ∨ r = 0x18 then regCnt
    else if r = 0x20 then regRw 0 (bitMask 39 8) else RegInfo.absent

/-- The bank-memory control area (R199). -/
def bkInfo (o : Nat) : RegInfo :=
  if 0x800 ≤ o then RegInfo.absent
  else let r := o % 0x100
    if r = 0 then regRw (64 * 2 ^ 32 + 3) (bitMask 47 32 + 3) else if r = 8 ∨ r = 0x10 then regRo 0
    else if r = 0x18 ∨ r = 0x20 ∨ r = 0x28 ∨ r = 0x30 then regCnt else RegInfo.absent

/-- The engine-control area (R229). -/
def ceInfo (o : Nat) : RegInfo :=
  if 0x800 ≤ o then RegInfo.absent
  else let r := o % 0x100
    if r = 0 then regRw (4 * 2 ^ 4 + 1) (bitMask 7 4 + 1) else if r = 8 then regRo 0
    else if r % 8 = 0 ∧ r ≤ 0x38 then regCnt else RegInfo.absent

/-- The matrix-control area (R328). -/
def mxInfo (o : Nat) : RegInfo :=
  if 0x800 ≤ o then RegInfo.absent
  else let r := o % 0x100
    if r = 0 then regRw 4096 (bitMask 15 0) else if r = 8 then ⟨0, 0, 0, 0, bitMask 6 0, true⟩
    else if r = 0x10 ∨ r = 0x18 then regCnt else RegInfo.absent

/-- The ordering-control area (R348). -/
def lsInfo (o : Nat) : RegInfo :=
  if o = 0 then regRw 2000 (bitMask 15 0) else if o = 8 ∨ o = 16 then regCnt
  else if o = 0x100 then regRw (10000 * 2 ^ 16 + 1000 * 2 ^ 4) (bitMask 31 4 + 1)
  else if o = 0x108 then regRo 0 else if o = 0x110 ∨ o = 0x118 ∨ o = 0x120 then regCnt else RegInfo.absent

/-- The CXL area (R80). -/
def cxlInfo (o : Nat) : RegInfo :=
  if o < 0x40 then ⟨0, 0, 8, 0, 0, true⟩
  else if o < 0x100 then RegInfo.absent
  else if o < 0x200 then
    let r := (o - 0x100) % 0x20
    if r = 0 ∨ r = 8 then regRw 0 (bitMask 51 28)
    else if r = 16 then ⟨0, bitMask 31 8 + bitMask 4 2 + 1, 2, 0, 0, true⟩ else RegInfo.absent
  else RegInfo.absent

/-- The command-processor area (R380, R398). -/
def cpInfo (o : Nat) : RegInfo :=
  if o = 0 then regRw 0 (bitMask 51 22)
  else if o < 0x1000 then RegInfo.absent
  else if o < 0x1800 then
    let r := (o - 0x1000) % 0x20
    if r = 0 then regRw 0 (bitMask 63 12) else if r = 8 then regRw 0 (bitMask 23 13 + 7)
    else if r = 16 then regRo 0 else regRw 0 (bitMask 31 0)
  else if o < 0x2000 then RegInfo.absent
  else if o < 0x2800 then
    let r := o % 0x100
    if 0x80 ≤ r then RegInfo.absent else if r % 16 = 0 then regCnt else regRw 0 (bitMask 31 0)
  else if o < 0x2840 then regRw 0 1
  else if o = 0x3000 then regRw 2000 (bitMask 31 0)
  else if o = 0x3008 then ⟨0, 0, 0, 0, bitMask 6 0, true⟩
  else if o = 0x3010 then ⟨0, 7, bitMask 5 4, 8, 0, true⟩
  else if o = 0x3018 then ⟨0, 0, 0, 0, bitMask 16 0, true⟩
  else if o = 0x3020 ∨ o = 0x3028 then regCnt
  else RegInfo.absent

/-- A debug block (R430). -/
def dbgInfo (r : Nat) : RegInfo :=
  if r = 0 then regRw 0 (bitMask 17 0)
  else if r = 8 then ⟨0, 0, 0, 0, 15, true⟩
  else if r = 0x10 then ⟨0, 0, 0b1101, 0, 0, true⟩
  else if r = 0x18 then regRw 0 (bitMask 63 15 + bitMask 11 0)
  else if r = 0x20 then regCnt
  else if 0x28 ≤ r ∧ r < 0x48 ∧ r % 8 = 0 then regRw 0 (bitMask 56 2 + 1)
  else if r = 0x48 ∨ r = 0x50 then regRw 0 (bitMask 56 0)
  else RegInfo.absent

/-- The fault-control area (R429, R430). -/
def fcInfo (o : Nat) : RegInfo :=
  if o < 0xC0 then hostRingInfo (o % 0x40)
  else if o < 0x100 then RegInfo.absent
  else if o = 0x100 then regRw 0 (bitMask 56 12)
  else if o = 0x108 then regRw 0 1
  else if o < 0x130 then regRo 0
  else if o < 0x200 then RegInfo.absent
  else if o < 0x300 then (if o % 16 = 0 then regRw 0 (bitMask 51 12 + 1) else regRw 0 (bitMask 51 12))
  else if o = 0x300 then regRw 0 (bitMask 51 12)
  else if o = 0x308 then ⟨0, bitMask 63 32 + 1, 2, 0, 0, true⟩
  else if o = 0x310 then regCnt
  else if o = 0x318 then regRw 0 (bitMask 63 16 + 15)
  else if o = 0x320 then regCnt
  else if o < 0x400 then RegInfo.absent
  else if o < 0x600 then dbgInfo ((o - 0x400) % 0x80)
  else RegInfo.absent

/-- The management area (R443, R444). -/
def mgInfo (o : Nat) : RegInfo :=
  if o = 0 then ⟨0, 0, 4, 0, 0, true⟩
  else if o = 8 then regRo 0
  else if o = 0x10 then ⟨0, 0, 1, 0, 0, true⟩
  else if 0x40 ≤ o ∧ o < 0x80 then regRo 0
  else if 0x80 ≤ o ∧ o < 0x100 then regRo 0
  else if o = 0x100 then regRw 0 (bitMask 11 0)
  else if o = 0x108 then regRo 0
  else if o = 0x110 then regRw 0 (bitMask 51 36)
  else if o = 0x118 then ⟨0, 0, 0, 0, 2 ^ 64 - 1, true⟩
  else if o = 0x120 then regRw 0 (bitMask 63 12)
  else if o = 0x128 then ⟨0, 0, 2, 1, 0, true⟩
  else if 0x200 ≤ o ∧ o < 0x440 then
    (let n := (o - 0x200) / 8; if 5 ≤ n ∧ n ≤ 7 then RegInfo.absent else regRw 0 (bitMask 6 0))
  else RegInfo.absent

/-- The capability entries of R433, one after another from 0x100: ID, area offset and size. -/
def capEntries : List (Nat × Nat × Nat) :=
  [(0x10, 0x10000, 0x9000), (0x11, 0x20000, 0x1000), (0x12, 0x30000, 0x1000), (0x13, 0x40000, 0x1000),
   (0x14, 0x50000, 0x1000), (0x15, 0x60000, 0x1000), (0x16, 0x70000, 0x1000), (0x17, 0x80000, 0x1000),
   (0x18, 0x100000, 0x4000), (0x19, 0x110000, 0x1000), (0x1A, 0x120000, 0x1000), (0x1B, 0x130000, 0x10000),
   (0x1C, 0x90000, 0x1000)]

/-- One 64-bit word of the identity area and its capability list (R433). -/
def idWord (o : Nat) : Nat :=
  if o = 0 then 0x1F3C0F09 * 2 ^ 32 + 1 * 2 ^ 16
  else if o = 8 then 0x100
  else if 0x100 ≤ o ∧ o < 0x100 + 16 * 13 then
    let n := (o - 0x100) / 16
    match capEntries[n]? with
    | none => 0
    | some (id, off, size) =>
      if o % 16 = 0 then id + 1 * 2 ^ 24 + (if n = 12 then 0 else 0x100 + 16 * (n + 1)) * 2 ^ 40 else off + size * 2 ^ 32
  else 0

/-- The register at a BAR0 offset, a multiple of 8 (R432). -/
def regInfo (off : Nat) : RegInfo :=
  if off < 0x10000 then (if off = 0 ∨ off = 8 ∨ (0x100 ≤ off ∧ off < 0x1D0) then regRo (idWord off) else RegInfo.absent)
  else if off < 0x20000 then mcInfo (off - 0x10000)
  else if off < 0x30000 then trInfo (off - 0x20000)
  else if off < 0x40000 then yoInfo (off - 0x30000)
  else if off < 0x50000 then jgInfo (off - 0x40000)
  else if off < 0x60000 then bkInfo (off - 0x50000)
  else if off < 0x70000 then ceInfo (off - 0x60000)
  else if off < 0x80000 then mxInfo (off - 0x70000)
  else if off < 0x90000 then lsInfo (off - 0x80000)
  else if off < 0xA0000 then cxlInfo (off - 0x90000)
  else if off < 0x100000 then RegInfo.absent
  else if off < 0x110000 then cpInfo (off - 0x100000)
  else if off < 0x120000 then fcInfo (off - 0x110000)
  else if off < 0x130000 then mgInfo (off - 0x120000)
  else if off < 0x140000 then regRw 0 (2 ^ 64 - 1)
  else if off < 0x140400 then regRw (if off % 16 = 8 then 2 ^ 32 else 0) (if off % 16 = 8 then 2 ^ 33 - 1 else 2 ^ 64 - 4)
  else if off = 0x141000 then regRo 0
  else RegInfo.absent

/-- The value a register holds when nothing has written it since reset. -/
def regReset (off : Nat) : DWord := BitVec.ofNat 64 (regInfo off).reset

/-- What a write leaves in a register (R10): RW bits take the value, W1C bits are cleared by a one, W1S bits set; `m` masks
the bits of the half a 4-byte access covers (R431). Write-only bits are never stored. -/
def regWritten (off : Nat) (old v m : DWord) : DWord :=
  let i := regInfo off
  let b (n : Nat) : DWord := BitVec.ofNat 64 n
  let rw := b i.rw &&& m
  ((old &&& ~~~rw) ||| (v &&& rw)) &&& ~~~(v &&& b i.w1c &&& m) ||| (v &&& b i.w1s &&& m)

end Sys2Proof.Machine
end

