-- ==== Sys2Proof/Machine/Sched.lean ====
section
/-! DEFINITION. Launches and teams as the command processors hold them (R379 to R397). -/

namespace Sys2Proof.Machine

/-- A snapshot of a page, or of a unit of bank memory, of a replayable launch: its address and the 4,096 bytes of its
pre-image (R415). -/
structure Snapshot where
  pa : Nat
  bytes : List Byte
  deriving DecidableEq, Repr

/-- An open launch (R382, R396). -/
structure Launch where
  id : Nat
  queue : Nat
  ctx : Nat
  /-- The 128 bytes of the packet, and the address it was read from. -/
  pkt : List Byte
  pktAddr : Nat
  /-- The forking gang and its launch (R393). -/
  parent : Option (Nat × Nat)
  depth : Nat
  /-- The next team to dispatch, and T. -/
  nextTeam : Nat
  teams : Nat
  /-- A status that ends the launch early (R396). -/
  killed : Option Nat
  replays : Nat
  /-- Ended by a replay of its parent: no DONE record is written (R416). -/
  silent : Bool
  /-- A replay waits for everything outstanding to end (R416). -/
  replaying : Bool
  snaps : List Snapshot
  /-- The save area had no room: the launch is replayable no longer (R415). -/
  noReplay : Bool
  /-- Snapshots of bank units (R415). -/
  bankSnaps : List Snapshot
  /-- Pages captured so far (R417). -/
  captured : List Nat
  /-- TIME at which the team at hand began to wait for its affinity group (R385). -/
  affWait : Option Nat
  /-- The place of the first team of each affinity group: group number and die or core group (R385). -/
  affPlace : List (Nat × Nat)
  /-- The command processor drains cores for this co-resident launch (R387). -/
  draining : Bool
  /-- The logical time that its submitter had reached: its arms start from it (R332). -/
  ltime : Nat
  /-- The cycle of the FORK that submitted it (R397); 0 for a packet of a queue. -/
  forkedAt : Nat
  deriving DecidableEq, Repr

/-- A team that is resident or saved (R349, R384). -/
structure Team where
  id : Nat
  launch : Nat
  ctx : Nat
  queue : Nat
  /-- Team number t of the launch. -/
  no : Nat
  core : Nat
  slot : Nat
  /-- The core of its residence, or of its last one while it is saved. -/
  lastCore : Nat
  gangs : Nat
  /-- First scratchpad granule on the core and how many. -/
  scrBase : Nat
  scrGranules : Nat
  /-- First lane-stack block (R384). -/
  block : Nat
  /-- BARWD.LIMIT. -/
  barwd : Nat
  saves : Nat
  tFirst : Nat
  /-- Dispatch order, for age. -/
  age : Nat
  /-- The code push has landed, so that the gangs may issue (R388). -/
  pushed : Bool
  /-- Code lines still to push (R388). -/
  push : List DWord
  /-- Targeted for pre-emption, with the TIME at which it is force-saved (R390). -/
  target : Option Nat
  /-- The queue whose waiting team it was told to give way to (R390). -/
  reclaim : Option Nat
  /-- Saved, not resident, with its gangs. What a core holds for a team stands then under core number 768 + team: its scratchpad
  image, its barrier block beyond the windows of bank memory, and its matrix-engine state (R326, R375, R390). -/
  saved : Bool
  savedGangs : List Gang
  /-- Its launch has ended it; it leaves at its next TEAM_END (R112, R421). -/
  endNow : Bool
  /-- Swapped out for its forks (R394). -/
  forkSwap : Bool
  /-- Drained for a spare-die substitution: it goes back by R385 (R395). -/
  back : Bool
  /-- TIME at which such a team began to wait for its affinity group (R385, R395). -/
  affWait : Option Nat
  /-- Sums of the STALL counters of gangs that have ended, saturating (R421). -/
  stallSum : List (Nat × Nat)
  deriving DecidableEq, Repr

end Sys2Proof.Machine
end

