-- ==== Sys2Proof/Machine/State.lean ====
section
/-! DEFINITION. The state of the part: every piece the spec gives the machine, as plain data, and the state after
cold reset. -/

namespace Sys2Proof.Machine

/-- The memories (R57, R183, R184, R300, R379): bytes by address, canonical, an unlisted byte reading zero. `main` is
the device's physical memory as its agents see it. -/
structure Mem where
  main : List Host.Cell
  /-- Poisoned 64-byte sectors of `main`, by sector number (R74). -/
  poison : List Nat
  /-- Bank memory, by offset in the 64 MiB window (R184), and its poisoned 8-byte words. -/
  bank : List Host.Cell
  bankPoison : List Nat
  /-- Scratchpads, key core × 2^19 + offset (R183), and their poisoned 8-byte words. -/
  scratch : List Host.Cell
  scratchPoison : List Nat
  /-- Host memory by bus address (R379). -/
  host : List Host.Cell
  deriving DecidableEq, Repr

/-- Why the machine stops. No rule of the spec stops the whole part without a next state, so no meaning raises one;
safe: nothing is claimed of it. -/
inductive Fault where
  /-- Kept for completeness of the interface; raised by nothing. -/
  | stopped
  deriving DecidableEq, Repr

/-- Why an instruction has no meaning. -/
inductive Refusal where
  /-- Raised by an arm of `exec` whose instruction has no meaning yet; safe: the model answers nothing. -/
  | notModelled (mnemonic : String)
  deriving DecidableEq, Repr

/-- What the next step does (R2, R353): nothing but pass time, one issue of an arm, or one step of a unit or of the
host. The model's own. -/
inductive Turn where
  | idle
  | arm (gang slot : Nat)
  | event (i : Instr)
  /-- A trace sample of an arm (R422). -/
  | sample (gang slot : Nat)
  /-- The urgency mark of a core (R389). -/
  | urgent (core : Nat)
  /-- The answer to a packet of this device reaches it (R337, R340). -/
  | ack (n : Nat)
  /-- The replay of a launch (R416). -/
  | replay (launch : Nat)
  deriving DecidableEq, Repr

structure State where
  /-- Steps taken: the argument of the free choices. The model's own. -/
  tick : Nat
  /-- Arithmetic clocks since cold reset (R8) and TIME in nanoseconds (R441). -/
  cc : Nat
  time : Nat
  turn : Turn
  /-- Actions of the outside world still to come, the next first: BAR0 and BAR2 accesses, packets, link and device
  indications. The model's own. -/
  inputs : List Instr
  /-- The gang at hand; `live` while a resident gang is held there. The other resident gangs. -/
  gang : Gang
  live : Bool
  others : List Gang
  mem : Mem
  teams : List Team
  launches : List Launch
  /-- The next serial number for gangs, teams, launches and operations. The model's own. -/
  serial : Nat
  /-- Register areas of the MMIO window, by BAR0 offset of each 64-bit register (R431, R432); a register that is not
  listed holds its reset value. -/
  mmio : List (Nat × DWord)
  cfg : Cfg
  dram : Dram
  tlb : List TlbEntry
  walk : List WalkEntry
  posts : List FaultPost
  /-- The fault-post tag count (R111). -/
  tagNext : Nat
  /-- The host's invalidation under way (R117), with the serial number at its start. -/
  inval : Option (InvScope × Nat)
  yo : Yoyo
  caches : Caches
  banks : Banks
  /-- Hint queues of the dies, oldest first (R207). -/
  hints : List FootHint
  jobs : Jobs
  /-- Moves that wait for a near-memory MVN (R225). -/
  deferred : List Deferred
  mx : Mx
  link : Link
  cp : Cp
  dbg : Dbg
  mgmt : Mgmt
  /-- After a fatal error the device takes only reads until a warm reset (R412). -/
  contained : Bool
  /-- MSI-X messages sent: vectors, oldest first (R444). -/
  msix : List Nat
  /-- Host-link error messages sent: the classes of R409, oldest first. -/
  errMsgs : List Nat
  deriving DecidableEq, Repr

/-- The configuration record of the part at hand: what the flash holds is not in the spec. DESIGN CHOICE, log
entry 6. -/
def Cfg.initial : Cfg :=
  { version := 1, minVersion := 1, vendorOk := true, ageOk := true,
    cores := [2 ^ 96 - 1, 2 ^ 96 - 1, 2 ^ 96 - 1, 2 ^ 96 - 1, 2 ^ 96 - 1, 2 ^ 96 - 1, 2 ^ 96 - 1, 2 ^ 96 - 1, 2 ^ 96 - 1],
    dieMap := [0, 1, 2, 3, 4, 5, 6, 7], spare := 8, spareUsed := false, failed := [], lpddr := true, lpddrSub := 13, lpddrBank := 14, ckptPort := none, ckptBase := 0, ckptSize := 0,
    flDevId := 0, flEn := true, auto := true, partMap := [], rev := 0, pwrMax := 3000, voltMin := 360, voltMax := 520,
    volt := [0, 0, 0, 0, 0, 0, 0, 0], retired := [0, 0, 0, 0, 0, 0, 0, 0], ageSeq := 0, lastSeq := 0,
    flashVolt := [0, 0, 0, 0, 0, 0, 0, 0], flashRetired := [0, 0, 0, 0, 0, 0, 0, 0], flashMap := [0, 1, 2, 3, 4, 5, 6, 7],
    flashSpareUsed := false, leaf := 0, ageSig := [],
    pendingVendor := none }

/-- The memory controllers right after cold reset: link training has set the epochs, the fill of R77 runs. The spec names no cycle in which a
controller completes link training (R68): all nine do in cycle 0. DESIGN CHOICE, log entry 95. -/
def Dram.initial : Dram :=
  { epoch := List.replicate 9 (some 0), dueIdx := List.replicate 9 0, duePc := List.replicate 9 0, debt := [],
    queued := [], refpb := [], refWait := [], burst := [], reserves := [], writeQ := [], copyQ := [], draining := [], reading := (0, []), rbPass := [], bad := [], failed := [],
    parityQ := [], parityErr := [], parityBad := [], scrubPos := 0, scrubStart := 0, ready := false }

/-- The Yo-yo right after cold reset: tables empty, no move. -/
def Yoyo.initial : Yoyo :=
  { heat := [], sample := [], moves := [], held := [], quarantine := [], plcQ := [], epochs := 0,
    nextEpoch := 1000000, ckpt := none }

/-- The state right after cold reset. -/
def State.reset : State :=
  { tick := 0, cc := 0, time := 0, turn := .idle, inputs := [], gang := Gang.blank, live := false, others := [],
    mem := { main := [], poison := [], bank := [], bankPoison := [], scratch := [], scratchPoison := [], host := [] },
    teams := [], launches := [], serial := 1,
    -- The cfg values of YOCTL.AUTO and FLCTL.EN (R436), the board's power limit, and the rest at reset.
    mmio := [(0x30000, BitVec.ofNat 64 (100 * 2 ^ 32 + 256 * 2 ^ 22 + 6 * 2 ^ 18 + 3)),
             (0x80100, BitVec.ofNat 64 (10000 * 2 ^ 16 + 1000 * 2 ^ 4 + 1)),
             (0x120008, BitVec.ofNat 64 1), (0x120100, BitVec.ofNat 64 3000)],
    cfg := Cfg.initial, dram := Dram.initial, tlb := [], walk := [], posts := [], tagNext := 1, inval := none,
    yo := Yoyo.initial, caches := { jigsaw := [], sweeps := [], l1 := [], icache := [], stamps := [], times := [], waiting := [], lruNext := 1 },
    banks := { waits := [], retained := [], touched := [], errors := [] }, hints := [],
    jobs := { list := [], next := [] }, deferred := [],
    mx := { res := [], tiles := [], queue := [], last := [], coll := [] },
    link := { windows := [], packets := [], puts := [], downPorts := [] },
    cp := { turn := [], sub := none, age := 0, marked := [], sampled := [], idleSince := [] },
    dbg := { halting := [], revoked := [] },
    mgmt := { nextPlan := 0, nonce := none, attBuf := 0, held := false, unitBad := [], hostData := [] }, contained := false, msix := [],
    errMsgs := [] }

end Sys2Proof.Machine
end

