-- ==== Sys2Proof/Machine/Regs.lean ====
section
/-! DEFINITION. The one way to read and write the registers, masks and shadows of a gang (R230, R234 to R237, R361). -/

namespace Sys2Proof.Machine

/-- Update the gang at hand. -/
def State.onGang (s : State) (f : Gang → Gang) : State := { s with gang := f s.gang }

/-- Update the executing arm. -/
def State.onArm (s : State) (f : Arm → Arm) : State := { s with gang := { s.gang with arm := f s.gang.arm } }

/-- The lanes of a mask, ascending. -/
def laneList (m : LaneMask) : List Nat := (List.range 96).filter (fun l => m.getLsbD l)

/-- One lane's bit. -/
def laneBit (l : Nat) : LaneMask := BitVec.ofNat 96 (2 ^ l)

/-- The mask of lanes 0 to W − 1. -/
def laneBelow (w : Nat) : LaneMask := BitVec.ofNat 96 (2 ^ w - 1)

/-- The mask of the lanes of a list. -/
def lanesMask (ls : List Nat) : LaneMask := ls.foldl (fun m l => m ||| laneBit l) 0

/-- How many lanes a mask holds. -/
def laneCount (m : LaneMask) : Nat := (laneList m).length

/-- Word `k` of a lane mask: s61, s62, s63 (R349). -/
def maskWord (m : LaneMask) (k : Nat) : Word := m.extractLsb' (32 * k) 32

/-- A lane mask with word `k` replaced. -/
def setMaskWord (m : LaneMask) (k : Nat) (x : Word) : LaneMask :=
  (m &&& ~~~BitVec.ofNat 96 ((2 ^ 32 - 1) * 2 ^ (32 * k))) ||| BitVec.ofNat 96 (x.toNat * 2 ^ (32 * k))

/-! ### Scalars -/

/-- Read a scalar register; s61–s63 read as the executing arm's mask (R361). -/
def readS (g : Gang) (r : Nat) : Word := if 61 ≤ r then maskWord g.arm.mask (r - 61) else smapGet 0 g.s r

/-- The executing arm's shadow of a scalar register. A mask word's is exact since it was last written, or what a shadow instruction or
an owed load has set since, widened by the word's value as control flow changes it: DEDUCED, log entry 20. -/
def shadowS (g : Gang) (r : Nat) : Shadow :=
  let set := smapGet Shadow.zero g.arm.shS r
  if 61 ≤ r then
    (if set = Shadow.zero then shExact (maskWord g.arm.mask (r - 61)) else shHull set (shExact (maskWord g.arm.mask (r - 61))))
  else set

/-- An even-odd scalar pair (R11). -/
def readS64 (g : Gang) (r : Nat) : DWord := pairOf (readS g r) (readS g (r + 1))

/-- Mark that an instruction of an arm has written a register: a covering WAIT narrows it no more (R174). -/
def armTouched (vec : Bool) (r : Nat) (a : Arm) : Arm :=
  { a with owed := a.owed.map (fun o => if o.vec = vec ∧ o.reg = r then { o with clean := false } else o) }

/-- Set the executing arm's copy of a scalar's shadow. -/
def setShadowS (g : Gang) (r : Nat) (sh : Shadow) : Gang :=
  { g with arm := { g.arm with shS := smapSet Shadow.zero g.arm.shS r sh } }

/-- Every vector shadow of the arm's copy becomes Top() (R237, R241). -/
def topVectors (nv : Nat) (a : Arm) : Arm := { a with shV := (List.range nv).map (fun r => (r, Shadow.top)) }

/-- Write s61–s63: each member's bit takes the written value, the rest stay 0; setting a bit that was 0 makes every
vector shadow Top() (R237, R361). -/
def writeMask (g : Gang) (k : Nat) (x : Word) : Gang :=
  let m := setMaskWord g.arm.mask k x &&& g.arm.members
  let a := { g.arm with mask := m }
  { g with arm := if m &&& ~~~g.arm.mask = 0 then a else topVectors g.nv a }

/-- A mask word is written: its shadow is exact again, and a covering WAIT narrows it no more (R174). -/
def armWrote (g : Gang) (r : Nat) : Gang :=
  { g with arm := armTouched false r { g.arm with shS := smapSet Shadow.zero g.arm.shS r Shadow.zero } }

/-- Write a scalar register with its new shadow: the other arm's copy becomes the hull of its old value and the new
interval (R234). -/
def writeS (g : Gang) (r : Nat) (x : Word) (sh : Shadow) : Gang :=
  if 61 ≤ r then writeMask (armWrote g r) (r - 61) x
  else
    { g with
      s := smapSet 0 g.s r x
      arm := armTouched false r { g.arm with shS := smapSet Shadow.zero g.arm.shS r sh }
      partner := g.partner.map (fun p =>
        armTouched false r { p with shS := smapSet Shadow.zero p.shS r (shHull (smapGet Shadow.zero p.shS r) sh) }) }

/-- Write an even-odd scalar pair; both shadows become `sh` (R235). -/
def writeS64 (g : Gang) (r : Nat) (x : DWord) (shLo shHi : Shadow) : Gang :=
  writeS (writeS g r (loWord x) shLo) (r + 1) (hiWord x) shHi

/-! ### Vectors -/

/-- The key of a lane of a vector register in `Gang.v`. -/
def vKey (r l : Nat) : Nat := 128 * r + l

/-- Read one lane of a vector register. -/
def readV (g : Gang) (r l : Nat) : Word := smapGet 0 g.v (vKey r l)

/-- The executing arm's shadow of a vector register. -/
def shadowV (g : Gang) (r : Nat) : Shadow := smapGet Shadow.zero g.arm.shV r

/-- Set the executing arm's copy of a vector's shadow. -/
def setShadowV (g : Gang) (r : Nat) (sh : Shadow) : Gang :=
  { g with arm := { g.arm with shV := smapSet Shadow.zero g.arm.shV r sh } }

/-- Write one lane, shadows apart. -/
def putV (g : Gang) (r l : Nat) (x : Word) : Gang := { g with v := smapSet 0 g.v (vKey r l) x }

/-- Write lanes of a vector register. -/
def putLanes (g : Gang) (r : Nat) (xs : List (Nat × Word)) : Gang := xs.foldl (fun g e => putV g r e.1 e.2) g

/-- Write the active lanes of a vector register and its shadow; under a zero mask nothing is written and the shadow stays
(R236). -/
def writeV (g : Gang) (r : Nat) (f : Nat → Word) (sh : Shadow) : Gang :=
  if g.arm.mask = 0 then g
  else
    let g := putLanes g r ((laneList g.arm.mask).map (fun l => (l, f l)))
    setShadowV { g with arm := armTouched true r g.arm } r sh

/-- An open stream's queue number, where a vector source field names one (R219). -/
def openQueue (g : Gang) (r : Nat) : Option Nat :=
  if 124 ≤ r then
    match g.streams[r - 124]? with
    | some q => if q.isOpen then some (r - 124) else none
    | none => none
  else none

/-- A vector source lane: a register, or the value popped from an open stream (R219, R221). -/
def srcV (g : Gang) (r l : Nat) : Word :=
  match openQueue g r with
  | some q => loWord (smapGet 0 g.popv (vKey q l))
  | none => readV g r l

/-- A 64-bit vector source lane (R11, R221). -/
def srcV64 (g : Gang) (r l : Nat) : DWord :=
  match openQueue g r with
  | some q => smapGet 0 g.popv (vKey q l)
  | none => pairOf (readV g r l) (readV g (r + 1) l)

/-- The shadow of a vector source: a register's, or the landed interval of a pop (R221). -/
def srcShadowV (g : Gang) (r : Nat) : Shadow :=
  match openQueue g r with
  | some q => smapGet Shadow.zero g.popSh q
  | none => shadowV g r

/-! ### Either kind -/

/-- A source value of kind `k` as a number, 64 bits wide where `wide`; a scalar reads alike in every lane. -/
def srcNat (g : Gang) (k : Kind) (wide : Bool) (r l : Nat) : Nat :=
  match k with
  | .vec => if wide then (srcV64 g r l).toNat else (srcV g r l).toNat
  | .scal => if wide then (readS64 g r).toNat else (readS g r).toNat

/-- A source's shadow. -/
def srcShadow (g : Gang) (k : Kind) (r : Nat) : Shadow :=
  match k with
  | .vec => srcShadowV g r
  | .scal => shadowS g r

/-- The shadow of a register, either kind. -/
def shadowOf (g : Gang) (k : Kind) (r : Nat) : Shadow :=
  match k with
  | .vec => shadowV g r
  | .scal => shadowS g r

/-- Both arms' copies of a gang scalar's shadow are hulled with an interval (R234); a mask word or a vector register has the executing
arm's alone. -/
def hullShadow (g : Gang) (vec : Bool) (r : Nat) (sh : Shadow) : Gang :=
  if vec then setShadowV g r (shHull (shadowV g r) sh)
  else
    let g := setShadowS g r (shHull (shadowS g r) sh)
    if 61 ≤ r then g
    else { g with partner := g.partner.map (fun p => { p with shS := smapSet Shadow.zero p.shS r (shHull (smapGet Shadow.zero p.shS r) sh) }) }

/-- Set the executing arm's copy of a register's shadow. -/
def setShadow (g : Gang) (k : Kind) (r : Nat) (sh : Shadow) : Gang :=
  match k with
  | .vec => setShadowV g r sh
  | .scal => setShadowS g r sh

/-- Write a 32-bit result: each active lane of a vector, or the scalar. -/
def writeReg (g : Gang) (k : Kind) (r : Nat) (f : Nat → Word) (sh : Shadow) : Gang :=
  match k with
  | .vec => writeV g r f sh
  | .scal => writeS g r (f 0) sh

/-- Write a result of either width; both registers of a pair become Top() (R235). -/
def writeNat (g : Gang) (k : Kind) (wide : Bool) (r : Nat) (f : Nat → Nat) (sh : Shadow) : Gang :=
  if wide then
    let lo := writeReg g k r (fun l => BitVec.ofNat 32 (f l)) Shadow.top
    writeReg lo k (r + 1) (fun l => BitVec.ofNat 32 (f l / 2 ^ 32)) Shadow.top
  else writeReg g k r (fun l => BitVec.ofNat 32 (f l)) sh

/-- The lanes over which an instruction of kind `k` computes: the active lanes, or lane 0 once for a scalar. -/
def opLanes (g : Gang) (k : Kind) : List Nat :=
  match k with
  | .vec => laneList g.arm.mask
  | .scal => [0]

/-- Descriptors (R232). -/
def readA (g : Gang) (n : Nat) : BitVec 128 := smapGet 0 g.a n

/-- Write a descriptor, its reserved bits zero (R232). -/
def writeA (g : Gang) (n : Nat) (x : BitVec 128) : Gang :=
  { g with a := smapSet 0 g.a n (x &&& BitVec.ofNat 128 (2 ^ 118 - 1)) }

end Sys2Proof.Machine
end

