-- ==== Sys2Proof/Machine/Rings.lean ====
section
/-! DEFINITION. MMIO registers as units use them, host memory, the rings in host memory, MSI-X messages and the error
log (R10, R135, R409 to R412, R429, R431, R444). -/

namespace Sys2Proof.Machine

/-! ### Registers -/

/-- The 64-bit value of a register. -/
def mmGet (s : State) (off : Nat) : Nat := (smapGet (regReset off) s.mmio off).toNat

/-- A field of a register. -/
def mmField (s : State) (off hi lo : Nat) : Nat := bitField (mmGet s off) hi lo

/-- Set a register, as its unit does. -/
def mmPut (s : State) (off v : Nat) : State := { s with mmio := smapSet (regReset off) s.mmio off (BitVec.ofNat 64 v) }

/-- Set one field. -/
def mmPutField (s : State) (off hi lo v : Nat) : State :=
  let x := mmGet s off
  mmPut s off (x - bitField x hi lo * 2 ^ lo + v % 2 ^ (hi + 1 - lo) * 2 ^ lo)

/-- Add to a counter field that wraps. -/
def mmAdd (s : State) (off hi lo n : Nat) : State := mmPutField s off hi lo (mmField s off hi lo + n)

/-- Add one to a counter field that saturates. -/
def mmAddSat (s : State) (off hi lo : Nat) : State :=
  let v := mmField s off hi lo
  if v + 1 < 2 ^ (hi + 1 - lo) then mmPutField s off hi lo (v + 1) else s

/-- Add to a 64-bit counter. -/
def mmCount (s : State) (off n : Nat) : State := mmAdd s off 63 0 n

/-! ### Bytes -/

/-- The little-endian bytes of a number (R7). -/
def leBytes : Nat → Nat → List Byte
  | 0, _ => []
  | n + 1, v => BitVec.ofNat 8 v :: leBytes n (v / 256)

/-- The number that little-endian bytes spell (R7). -/
def leNat : List Byte → Nat
  | [] => 0
  | b :: t => b.toNat + 256 * leNat t

/-- Read `n` bytes of a byte memory. -/
def cellsRead (m : List Host.Cell) (a : Nat) : Nat → List Byte
  | 0 => []
  | n + 1 => smapGet 0 m a :: cellsRead m (a + 1) n

/-- Write bytes to a byte memory. -/
def cellsWrite (m : List Host.Cell) (a : Nat) : List Byte → List Host.Cell
  | [] => m
  | b :: t => cellsWrite (smapSet 0 m a b) (a + 1) t

/-- Read host memory at a bus address (R431). -/
def hostRead (s : State) (a n : Nat) : List Byte := cellsRead s.mem.host a n

/-- Write host memory; a contained device makes no outbound request (R412). -/
def hostWrite (s : State) (a : Nat) (bs : List Byte) : State :=
  if s.contained then s else { s with mem := { s.mem with host := cellsWrite s.mem.host a bs } }

/-! ### Messages and rings -/

/-- Signal interrupt source `n` after a record (R444): its vector's message is sent, or kept pending where the
vector is masked in the MSI-X table. -/
def msixSignal (s : State) (n : Nat) : State :=
  let sel := mmGet s (msixSel n)
  let v := bitField sel 5 0
  if bitField sel 6 6 = 1 ∨ s.contained then s
  else if mmField s (msixTable + 16 * v + 8) 32 32 = 1 then mmPutField s msixPba v v 1
  else { s with msix := s.msix ++ [v] }

/-- Whether the ring or queue with control register at `ctl`, head and tail behind it, has room for a record. -/
def ringFull (s : State) (base : Nat) : Bool :=
  let sz := mmField s (base + 8) 5 2
  (mmField s (base + 16) 31 0 + 2 ^ 32 - mmField s (base + 24) 31 0) % 2 ^ 32 ≥ 2 ^ (sz + 6)

/-- Whether a ring is enabled. -/
def ringOn (s : State) (base : Nat) : Bool := mmField s (base + 8) 0 0 == 1

/-- Write a record at the head of a ring in host memory, and signal source `src` where IRQ is set. The ring has room. -/
def ringPut (s : State) (base src : Nat) (bs : List Byte) : State :=
  let sz := mmField s (base + 8) 5 2
  let h := mmField s (base + 16) 31 0
  let s := hostWrite s (mmGet s base + h % 2 ^ (sz + 6) * bs.length) bs
  let s := mmPut s (base + 16) ((h + 1) % 2 ^ 32)
  if mmField s (base + 8) 1 1 = 1 then msixSignal s src else s

/-- Write a record to a ring that drops records: a disabled ring drops them uncounted, a full one counts at `lost`
(R135, R429). -/
def ringPost (s : State) (base lost src : Nat) (bs : List Byte) : State :=
  if !ringOn s base then s
  else if ringFull s base then mmCount s lost 1
  else ringPut s base src bs

/-! ### The error log -/

/-- An error to log (R410): physical address, context, unit, unit index, class, kind, and the owner's DONE address. -/
structure ErrRec where
  pa : Nat
  ctx : Nat
  unit : Nat
  index : Nat
  cls : Nat
  kind : Nat
  done : Nat
  deriving DecidableEq, Repr

/-- The 32 bytes of a log entry (R410). -/
def errBytes (time : Nat) (e : ErrRec) : List Byte :=
  leBytes 8 e.pa ++ leBytes 8 time ++ leBytes 2 e.ctx ++ leBytes 1 e.unit ++ leBytes 1 e.index ++ leBytes 1 e.cls ++
    leBytes 1 e.kind ++ leBytes 2 0 ++ leBytes 8 e.done

/-- A physical address lies in a critical range (R411, R429). -/
def critical (s : State) (pa : Nat) : Bool :=
  (List.range 16).any (fun i =>
    let b := mmGet s (critBase i)
    bitField b 0 0 == 1 && decide (bitField b 51 12 ≤ pa / 4096) && decide (pa / 4096 ≤ mmField s (critLim i) 51 12))

/-- A fatal error (R412): ERRFATAL keeps the first record, every launch ends with status 4 and without replay, the link
stops and ERR_FATAL is sent; the device is contained until a warm reset. -/
def fatalError (s : State) (e : ErrRec) : State :=
  let bs := errBytes s.time e
  let s := ringPost s errRing (errRing + 32) 2 bs
  let s :=
    if mmGet s errFatal = 0 ∧ mmGet s (errFatal + 8) = 0 ∧ mmGet s (errFatal + 16) = 0 then
      (List.range 4).foldl (fun s i => mmPut s (errFatal + 8 * i) (leNat ((bs.drop (8 * i)).take 8))) s
    else s
  let s := mmPutField s flCtl 0 0 0
  { s with
    launches := s.launches.map (fun l => { l with killed := some 4, replaying := false })
    errMsgs := s.errMsgs ++ [2], contained := true }

/-- Log an error (R409): class 0 only where ERRCTL.CELOG is set; a class 1 error in a critical range is fatal, of kind
8 (R411). -/
def logError (s : State) (e : ErrRec) : State :=
  if e.cls = 2 then fatalError s e
  else if e.cls = 0 then
    let s := { s with errMsgs := s.errMsgs ++ [0] }
    if mmField s errCtl 0 0 = 1 then ringPost s errRing (errRing + 32) 2 (errBytes s.time e) else s
  else if (e.kind = 3 ∨ e.kind = 5) ∧ critical s e.pa then fatalError s { e with cls := 2, kind := 8 }
  else ringPost { s with errMsgs := s.errMsgs ++ [1] } errRing (errRing + 32) 2 (errBytes s.time e)

/-- The owner context of an entry that has none (R410). -/
def noOwner : Nat := 0xFFFF

end Sys2Proof.Machine
end

