-- ==== Sys2Proof/Machine/Phys.lean ====
section
/-! DEFINITION. Physical memory: the windows of R57 and R58, HBM4E decoding (R61), CXL routing (R80), sector codes,
rebuilds and poison (R71 to R75), decode errors (R60), and the move port (R127). -/

namespace Sys2Proof.Machine

/-- What a physical address names (R57, R58). -/
inductive Place where
  | hbm (stack off : Nat)
  | lpddr (off : Nat)
  | bank (off : Nat)
  | mmio
  | cxl (port : Nat)
  /-- A hole, an unbacked range, or a port whose link is down. -/
  | absent
  deriving DecidableEq, Repr

/-- The decoder that covers a CXL address: the lowest-numbered committed one (R80). -/
def hdmHit (s : State) (a : Nat) : Option Nat :=
  (List.range 8).find? (fun k =>
    mmField s (hdmBlock k + 16) 0 0 == 1 && decide (mmGet s (hdmBlock k) ≤ a) &&
      decide (a < mmGet s (hdmBlock k) + mmGet s (hdmBlock k + 8)))

/-- The port that serves an address of the CXL window (R80). -/
def cxlPort (s : State) (a : Nat) : Nat :=
  match hdmHit s a with
  | some k =>
    let c := mmGet s (hdmBlock k + 16)
    let o := a - mmGet s (hdmBlock k)
    let ig := if bitField c 2 2 = 1 then 4096 else 256
    let w := o / ig % 2 ^ bitField c 4 3
    bitField c (8 + 3 * w + 2) (8 + 3 * w)
  | none => (a - 0x100000000000) / 2 ^ 41

/-- What a physical address names. -/
def physPlace (s : State) (a : Nat) : Place :=
  if a < 0x8000000000 then
    if a % 2 ^ 36 < 56 * 2 ^ 30 then .hbm (a / 2 ^ 36) (a % 2 ^ 36) else .absent
  else if 0x10000000000 ≤ a ∧ a < 0x20000000000 then (if s.cfg.lpddr then .lpddr (a - 0x10000000000) else .absent)
  else if 0x20000000000 ≤ a ∧ a < 0x20004000000 then .bank (a - 0x20000000000)
  else if 0x30000000000 ≤ a ∧ a < 0x30100000000 then .mmio
  else if 0x100000000000 ≤ a ∧ a < 0x200000000000 then
    (let p := cxlPort s a; if mmField s (cxlpStat p) 0 0 = 1 then .cxl p else .absent)
  else .absent

/-- An access reaches an address that nothing backs (R60): logged, but not for a prefetch, by the stack's controller that decodes
it or else by a hub (R410). -/
def decodeError (s : State) (pa : Nat) : State :=
  if pa < 0x8000000000 then logError s ⟨pa, noOwner, 0, pa / 2 ^ 36, 1, 4, 0⟩ else logError s ⟨pa, noOwner, 8, 0, 1, 4, 0⟩

/-- The place of a line within a stack (R61). -/
structure HbmPlace where
  ch : Nat
  parity : Nat
  pc : Nat
  bg : Nat
  bank : Nat
  row : Nat
  col : Nat
  group : Nat
  stripe : Nat
  d : Nat
  deriving DecidableEq, Repr

/-- Decode a stack offset (R61). -/
def hbmDecode (off : Nat) : HbmPlace :=
  let l := off / 256
  let d := l % 7
  let st := l / 7
  let g := st % 4
  let t := st / 4
  let p := t % 8
  let pos := if d < p then d else d + 1
  { ch := 8 * g + pos, parity := 8 * g + p, pc := t / 4 % 2, bg := t / 8 % 4, bank := t / 32 % 4, row := t / 128 % 65536,
    col := t % 4, group := g, stripe := st, d := d }

/-- Block, channel and pseudo-channel numbers of an address, for its counters (R78, R81). The offset bit that names the sub-channel
of an LPDDR 6 channel is part of the device organisation in the configuration record: DESIGN CHOICE, log entry 8. -/
def mcPlace (s : State) (a : Nat) : Option (Nat × Nat × Nat) :=
  match physPlace s a with
  | .hbm k o => let h := hbmDecode o; some (k, h.ch, h.pc)
  | .lpddr o => some (8, o / 256 % 32, o / 2 ^ s.cfg.lpddrSub % 2)
  | _ => none

/-- The number of a pseudo-channel or sub-channel: block × 64 + channel × 2 + pseudo-channel. -/
def pcNumber (blk ch pc : Nat) : Nat := 64 * blk + 2 * ch + pc

/-- The bank number of an address: pseudo-channel number × 16 + bank. Within an LPDDR 6 sub-channel the bank comes from the offset
bits that the configuration record names (R78): DESIGN CHOICE, log entry 8. -/
def bankNumber (s : State) (a : Nat) : Option Nat :=
  match physPlace s a with
  | .hbm k o => let h := hbmDecode o; some (16 * pcNumber k h.ch h.pc + 4 * h.bg + h.bank)
  | .lpddr o => some (16 * pcNumber 8 (o / 256 % 32) (o / 2 ^ s.cfg.lpddrSub % 2) + o / 2 ^ s.cfg.lpddrBank % 16)
  | _ => none

/-! ### Requests at a controller (R62, R66, R69, R70) -/

/-- Update the controllers' state. -/
def onDram (s : State) (f : Dram → Dram) : State := { s with dram := f s.dram }

/-- A held reservation names a bank. -/
def bankReserved (s : State) (bank : Nat) : Bool :=
  s.dram.reserves.any (fun r => r.held && 16 * pcNumber r.stack r.ch r.pc + r.bank == bank)

/-- A pseudo-channel is in a forced burst (R69). -/
def inBurst (s : State) (n : Nat) : Bool := s.dram.burst.any (fun b => b.1 == n)

/-- A bank is in a REFpb (R68). -/
def bankRefreshing (s : State) (bank : Nat) : Bool := s.dram.refpb.any (fun r => r.1 == bank && decide (s.cc < r.2))

/-- A queued write must wait: a burst of its pseudo-channel, a REFpb of its bank, or a reservation of it (R66, R68, R69). -/
def writeBlocked (s : State) (w : Nat × Nat × Nat) : Bool :=
  inBurst s w.1 || bankRefreshing s w.2.1 || bankReserved s w.2.1

/-- The cycle at which a request that reaches a bank now is free of the refresh it waits on; 0 for none. -/
def refreshEnd (s : State) (bank : Nat) : Nat :=
  Max.max ((s.dram.burst.filter (fun b => b.1 == bank / 16)).foldl (fun n b => Max.max n b.2.2) 0)
    ((s.dram.refpb.filter (fun r => r.1 == bank)).foldl (fun n r => Max.max n r.2) 0)

/-- A request of a pseudo-channel waits on a refresh until a cycle (R70). -/
def noteWait (s : State) (n fin : Nat) : State :=
  if fin ≤ s.cc then s
  else onDram s (fun d =>
    { d with refWait := match d.refWait.find? (fun w => w.1 == n) with
        | some w => if s.cc ≤ w.2.2 then d.refWait.map (fun x => if x.1 = n then (n, x.2.1, Max.max x.2.2 fin) else x)
                    else d.refWait.filter (fun x => x.1 ≠ n) ++ [(n, s.cc, fin)]
        | none => d.refWait ++ [(n, s.cc, fin)] })

/-- A read reaches a controller: it waits out a refresh of its bank and a reservation of it, and stops a drain while fewer than 48 writes
wait (R62, R66, R70). -/
def readArrives (s : State) (pa : Nat) : State :=
  match bankNumber s pa with
  | none => s
  | some b =>
    let s := noteWait s (b / 16) (refreshEnd s b)
    let s := onDram s (fun d =>
      { d with reading := (Max.max d.reading.1 (refreshEnd s b), if bankReserved s b then nsetInsert d.reading.2 b else d.reading.2) })
    if (s.dram.writeQ.filter (fun w => w.1 == b / 16)).length < 48 then
      onDram s (fun d => { d with draining := nsetErase d.draining (b / 16) })
    else s

/-- A pseudo-channel's write queue of 64, with the entries that line copies have reserved in it, makes room (R62, R128): a full one performs
its oldest write that need not wait, or else its oldest of a bank that no stream has reserved (R66). Where every one is such a bank's, the
write that comes stands behind them at its controller: DESIGN CHOICE, log entry 8. -/
def makeRoom (s : State) (n : Nat) : State :=
  let own := s.dram.writeQ.filter (fun w => w.1 == n)
  if own.length + (s.dram.copyQ.filter (fun w => w.1 == n)).length < 64 then s
  else match (own.find? (fun w => !writeBlocked s w)).orElse (fun _ => own.find? (fun w => !bankReserved s w.2.1)) with
    | some w => onDram s (fun d => { d with writeQ := d.writeQ.erase w })
    | none => s

/-- A write reaches its queue (R62): from 48 entries on the queue drains. -/
def queueWrite (s : State) (bank line : Nat) : State :=
  let n := bank / 16
  let s := makeRoom (noteWait s n (refreshEnd s bank)) n
  onDram s (fun d =>
    { d with writeQ := d.writeQ ++ [(n, bank, line)]
             draining := if 48 ≤ (d.writeQ.filter (fun w => w.1 == n)).length + 1 then nsetInsert d.draining n else d.draining })

/-- A line copy reserves a write-queue entry at its destination (R128). -/
def reserveEntry (s : State) (pa : Nat) : State :=
  match bankNumber s pa with
  | some b => onDram (makeRoom s (b / 16)) (fun d => { d with copyQ := d.copyQ ++ [(b / 16, b, pa / 256)] })
  | none => s

/-- The reserved entry takes its line, or is given up. -/
def dropEntry (s : State) (pa : Nat) : State :=
  onDram s (fun d => { d with copyQ := d.copyQ.filter (fun w => w.2.2 ≠ pa / 256) })

/-! ### Stripes and the parity buffer (R71, R72) -/

/-- The number of a stripe among those of every stack. -/
def stripeNo (k stripe : Nat) : Nat := k * 2 ^ 28 + stripe

/-- The address that an error of a parity line is logged under: its stripe's first data line, for a parity line has none of its own.
DESIGN CHOICE, log entry 8. -/
def stripeAddr (k stripe : Nat) : Nat := k * 2 ^ 36 + stripe * 7 * 256

/-- A parity line leaves the write-back buffer (R72): a sector with a word that SEC-DED cannot correct is written poisoned and
logged (R413), one whose stored code had failed when the line entered is written poisoned again, the others with valid codes. -/
def parityOut (s : State) (e : Nat × Nat) : State :=
  let m := stripeNo e.1 e.2
  let new := (List.range 4).filter (fun i => (List.range 8).any (fun w => decide (2 ≤ smapGet 0 s.dram.parityErr (32 * m + 8 * i + w))))
  let bad := (List.range 4).filter (fun i => new.contains i || smapGet 0 s.dram.parityBad (4 * m + i) == 3)
  let h := hbmDecode (e.2 * 7 * 256)
  let s := onDram s (fun d =>
    { d with parityQ := d.parityQ.filter (fun x => x ≠ e)
             parityErr := smapFilter (fun j => decide (j / 32 ≠ m)) d.parityErr
             parityBad := (List.range 4).foldl (fun p i => smapSet 0 p (4 * m + i) (if bad.contains i then 3 else 0)) d.parityBad })
  let s := queueWrite s (16 * pcNumber e.1 h.parity h.pc + 4 * h.bg + h.bank) (2 ^ 44 + m)
  if new.isEmpty then s else logError s ⟨stripeAddr e.1 e.2, noOwner, 0, e.1, 1, 5, 0⟩

/-- Every parity line is written back (R72). -/
def flushParity (s : State) : State := s.dram.parityQ.foldl parityOut s

/-- The failed channels of a stack's parity group. -/
def groupFailed (s : State) (k g : Nat) : List Nat :=
  (s.dram.failed.filter (fun f => decide (f.1 = k) && decide (f.2 / 8 = g))).map (fun f => f.2)

/-- Set DEGR of every channel of a group (R82). -/
def setDegraded (s : State) (k g : Nat) : State :=
  (List.range 8).foldl (fun s i => mmPutField s (mcChStat k (8 * g + i)) 1 1 1) s

/-- The moves with a destination line in a channel of a stack. -/
def channelMoves (s : State) (k ch : Nat) (m : Move) : Bool :=
  (List.range m.lines).any (fun i => match physPlace s (m.dst * 4096 + 256 * i) with
    | .hbm k' off => k' == k && (hbmDecode off).ch == ch
    | _ => false)

/-- A move that a cancel or a PIN still aborts (R132): in Recall or Forward; its last line accepted, it is Closing. -/
def cancellable (m : Move) : Bool := m.st == .recall || m.st == .forward && decide (m.cursor < m.lines)

/-- Ask for the abort of moves at their next boundary, where they are not Closing yet (R132). -/
def cancelMoves (s : State) (p : Move → Bool) (st : Nat) : State :=
  { s with yo := { s.yo with moves := s.yo.moves.map (fun m =>
    if p m ∧ cancellable m ∧ m.want.isNone then { m with want := some st } else m) } }

/-- Declare a channel failed (R75): FAILED and DEGR are set, the parity lines are written back, moves into it abort with status 2 (R132), and
the failure is logged with the channel in place of an address. -/
def declareFailed (s : State) (k ch : Nat) : State :=
  if s.dram.failed.contains (k, ch) then s
  else
    let s := cancelMoves s (channelMoves s k ch) 2
    let s := onDram (flushParity s) (fun d => { d with failed := d.failed ++ [(k, ch)] })
    let s := setDegraded (mmPutField s (mcChStat k ch) 0 0 1) k (ch / 8)
    logError s ⟨ch, noOwner, 0, k, 1, 10, 0⟩

/-- The condition of a sector: none, correctable (false) or uncorrectable (true). -/
def sectorBad (s : State) (sec : Nat) : Option Bool := (s.dram.bad.find? (fun e => e.1 == sec)).map (fun e => e.2)

/-- Forget a sector's error. -/
def clearBad (s : State) (sec : Nat) : State :=
  { s with dram := { s.dram with bad := s.dram.bad.filter (fun e => e.1 ≠ sec) } }

/-- Mark a sector poisoned. -/
def poisonSector (s : State) (sec : Nat) : State := { s with mem := { s.mem with poison := nsetInsert s.mem.poison sec } }

/-- The same sector of the other data lines of a stripe, as sector numbers. -/
def stripeSectors (k off : Nat) : List Nat :=
  let h := hbmDecode off
  ((List.range 7).filter (fun d => d ≠ h.d)).map (fun d => (k * 2 ^ 36 + (h.stripe * 7 + d) * 256 + off % 256) / 64)

/-- The state of a sector of a stripe's parity line, taken from the buffer where it is present: 0 good, 1 correctable, 2 or more not
(R72, R73). -/
def parityState (s : State) (k stripe i : Nat) : Nat :=
  let m := stripeNo k stripe
  if s.dram.parityQ.contains (k, stripe) then
    (List.range 8).foldl (fun b w => Max.max b (smapGet 0 s.dram.parityErr (32 * m + 8 * i + w)))
      (if smapGet 0 s.dram.parityBad (4 * m + i) = 3 then 3 else 0)
  else smapGet 0 s.dram.parityBad (4 * m + i)

/-- A sector of a stack can be rebuilt from its stripe (R73, R75): no other channel of its group has failed, and no other
member of the stripe, the parity line among them, is uncorrectable there. -/
def rebuildable (s : State) (k off : Nat) : Bool :=
  let h := hbmDecode off
  ((groupFailed s k h.group).all (fun c => c == h.ch)) &&
    (stripeSectors k off).all (fun sec => sectorBad s sec != some true) &&
    decide (parityState s k h.stripe (off % 256 / 64) ≤ 1)

/-- The controller returns a sector poisoned: it is rewritten poisoned, UECNT counts and the error is logged (R73). -/
def returnPoisoned (s : State) (blk ch pa : Nat) : State :=
  let s := poisonSector (clearBad s (pa / 64)) (pa / 64)
  logError (mmAddSat s (mcChStat blk ch) 15 8) ⟨pa / 64 * 64, noOwner, 0, blk, 1, 3, 0⟩

/-- The controller corrects a sector and writes it back: CECNT (R73). -/
def correctSector (s : State) (blk ch pa : Nat) : State :=
  logError (mmAdd (clearBad s (pa / 64)) (mcChStat blk ch) 63 32 1) ⟨pa / 64 * 64, noOwner, 0, blk, 0, 1, 0⟩

/-- A correctable sector of a stripe's parity line is corrected, in the buffer or in its channel (R72, R73). -/
def correctParity (s : State) (k stripe i : Nat) : State :=
  let m := stripeNo k stripe
  if s.dram.parityQ.contains (k, stripe) then
    logError (onDram s (fun d => { d with parityErr := smapFilter (fun j => decide (j / 8 ≠ 4 * m + i)) d.parityErr }))
      ⟨stripeAddr k stripe, noOwner, 0, k, 0, 1, 0⟩
  else
    logError (mmAdd (onDram s (fun d => { d with parityBad := smapSet 0 d.parityBad (4 * m + i) 0 }))
      (mcChStat k (hbmDecode (stripe * 7 * 256)).parity) 63 32 1) ⟨stripeAddr k stripe, noOwner, 0, k, 0, 1, 0⟩

/-- A rebuild reads the other lines of the stripe and its parity line (R73): what it finds correctable there is corrected. -/
def readStripe (s : State) (k off : Nat) : State :=
  let h := hbmDecode off
  let s := (stripeSectors k off).foldl (fun s sec =>
    if sectorBad s sec = some false then correctSector s k (hbmDecode (sec * 64 - k * 2 ^ 36)).ch (sec * 64) else s) s
  let i := off % 256 / 64
  if parityState s k h.stripe i = 1 then correctParity s k h.stripe i else s

/-- A rebuild of a sector of a channel counts, is logged, and declares the channel failed at the 256th of a patrol pass (R73, R75). -/
def countRebuild (s : State) (k ch a : Nat) : State :=
  let n := smapGet 0 s.dram.rbPass (32 * k + ch) + 1
  let s := onDram (mmAddSat s (mcChStat k ch) 31 16) (fun d => { d with rbPass := smapSet 0 d.rbPass (32 * k + ch) n })
  let s := logError s ⟨a, noOwner, 0, k, 0, 2, 0⟩
  if 256 ≤ n then declareFailed s k ch else s

/-- The controller reads a sector of a stripe's parity line under R73: it is corrected, rebuilt from the stripe's data lines, or rewritten
poisoned. The parity line of a failed channel has nothing to read. -/
def readParity (s : State) (k stripe i : Nat) : State :=
  let h := hbmDecode (stripe * 7 * 256)
  let m := 4 * stripeNo k stripe + i
  let set (v : Nat) (s : State) : State := onDram s (fun d => { d with parityBad := smapSet 0 d.parityBad m v })
  if (groupFailed s k h.group).contains h.parity then s
  else match parityState s k stripe i with
    | 0 => s
    | 1 => correctParity s k stripe i
    | 2 =>
      if s.dram.parityQ.contains (k, stripe) then s
      else if (groupFailed s k h.group).isEmpty ∧
          (List.range 7).all (fun d => sectorBad s ((k * 2 ^ 36 + (stripe * 7 + d) * 256) / 64 + i) != some true) then
        countRebuild (set 0 s) k h.parity (stripeAddr k stripe)
      else logError (mmAddSat (set 3 s) (mcChStat k h.parity) 15 8) ⟨stripeAddr k stripe, noOwner, 0, k, 1, 3, 0⟩
    | _ => s

/-- A stripe's parity line is updated in its stack's buffer of 8,192 lines (R72): one that is not there is read from its channel first, under
R73; the least recently updated one leaves a full buffer. -/
def parityUpdate (s : State) (k stripe : Nat) : State :=
  let e := (k, stripe)
  let s := if s.dram.parityQ.contains e then s else (List.range 4).foldl (fun s i => readParity s k stripe i) s
  let s := onDram s (fun d => { d with parityQ := d.parityQ.filter (fun x => x ≠ e) ++ [e] })
  let own := s.dram.parityQ.filter (fun x => x.1 == k)
  if 8192 < own.length then (match own.head? with | some v => parityOut s v | none => s) else s

/-- The controller reads one sector under R73 and R75; a clean sector changes nothing. -/
def readSector (s : State) (pa : Nat) : State :=
  let sec := pa / 64
  if s.mem.poison.contains sec then s
  else
    match physPlace s pa with
    | .hbm k off =>
      let h := hbmDecode off
      let o := off / 64 * 64
      if (groupFailed s k h.group).contains h.ch then
        (if rebuildable s k o then readStripe s k o else returnPoisoned s k h.ch pa)
      else
        match sectorBad s sec with
        | none => s
        | some false => correctSector s k h.ch pa
        | some true =>
          if rebuildable s k o then countRebuild (clearBad (readStripe s k o) sec) k h.ch (pa / 64 * 64)
          else returnPoisoned s k h.ch pa
    | .lpddr off =>
      match sectorBad s sec with
      | none => s
      | some false => correctSector s 8 (off / 256 % 32) pa
      | some true => returnPoisoned s 8 (off / 256 % 32) pa
    | _ => s

/-- Sectors that `n` bytes at `a` cover whole, by number. -/
def wholeSectors (a n : Nat) : List Nat :=
  (natRange (a / 64) ((a + n - 1) / 64 + 1 - a / 64)).filter (fun k => decide (a ≤ k * 64) && decide (k * 64 + 64 ≤ a + n))

/-- Sectors that they cover in part. -/
def partSectors (a n : Nat) : List Nat :=
  (natRange (a / 64) ((a + n - 1) / 64 + 1 - a / 64)).filter (fun k => !(decide (a ≤ k * 64) && decide (k * 64 + 64 ≤ a + n)))

/-- Sectors are read only for what they held: none of them is delivered. -/
def oldRead (s : State) (secs : List Nat) : State :=
  let t := secs.foldl (fun s k => readSector s (k * 64)) s
  { t with mem := { t.mem with poison := s.mem.poison } }

/-- A controller takes a write of sectors of the line of `pa`, some in part and some whole (R62, R71, R72, R75): a sector written in part
is read first; the read-modify-write of parity reads the old data, or the other lines of a failed channel's stripe; sectors
written whole have valid codes from then on; and the write waits in its queue. -/
def ctlSectors (s : State) (pa : Nat) (part whole : List Nat) : State :=
  let s := part.foldl (fun s k => readSector s (k * 64)) s
  let s := match physPlace s pa with
    | .hbm k off =>
      let h := hbmDecode off
      let s := oldRead s (if (groupFailed s k h.group).contains h.ch
        then (whole ++ part).flatMap (fun x => stripeSectors k (x * 64 - k * 2 ^ 36)) else whole)
      parityUpdate s k h.stripe
    | _ => s
  let s := whole.foldl clearBad s
  match bankNumber s pa with
  | some b => queueWrite s b (pa / 256)
  | none => s

/-- A controller takes a write of `n` bytes at `pa`, within one line. Called before memory changes. -/
def ctlWrite (s : State) (pa n : Nat) : State := ctlSectors s pa (partSectors pa n) (wholeSectors pa n)

/-! ### The home's stamps of a line (R333) -/

/-- The home's stamps of a line. -/
def stampOf (s : State) (pa : Nat) : Stamp :=
  match s.caches.stamps.find? (fun t => t.pa == pa / 256) with
  | some t => t
  | none => ⟨pa / 256, 0, 0, 0, 0, 0⟩

/-- Put a line's stamps. -/
def putStamp (s : State) (t : Stamp) : State :=
  { s with caches := { s.caches with stamps := s.caches.stamps.filter (fun x => x.pa ≠ t.pa) ++ [t] } }

/-- The later of two events at one home, by time and agent (R331). -/
def laterOf (t : Nat) (b : Nat) (t' : Nat) (b' : Nat) : Nat × Nat :=
  if t < t' ∨ (t = t' ∧ b ≤ b') then (t', b') else (t, b)

/-- A line's stamps follow it to another frame (R129): what is placed after them at one is placed after them at the other. -/
def carryStamp (s : State) (src dst : Nat) : State :=
  let a := stampOf s src
  let b := stampOf s dst
  let w := laterOf b.wts b.wby a.wts a.wby
  let r := laterOf b.rd b.rdBy a.rd a.rdBy
  putStamp s ⟨dst / 256, w.1, w.2, Max.max a.rts b.rts, r.1, r.2⟩

/-! ### What stands at an address -/

/-- A byte as memory holds it at its home. -/
def rawByte (s : State) (pa : Nat) : Byte :=
  match physPlace s pa with
  | .bank off => smapGet 0 s.mem.bank off
  | .mmio | .absent => 0
  | _ => smapGet 0 s.mem.main pa

/-- The byte at a physical address reads poisoned. -/
def rawPoison (s : State) (pa : Nat) : Bool :=
  match physPlace s pa with
  | .bank off => s.mem.bankPoison.contains (off / 8)
  | .mmio | .absent => true
  | _ => s.mem.poison.contains (pa / 64)

/-- Sectors and words that a write covers whole lose their poison (R74, R184). -/
def healed (unit : Nat) (poison : List Nat) (a n : Nat) : List Nat :=
  poison.filter (fun k => !(decide (a ≤ k * unit) && decide (k * unit + unit ≤ a + n)))

/-- An address that no memory backs, or the MMIO window (R60, R431). -/
def unbacked (s : State) (pa : Nat) : Bool :=
  match physPlace s pa with
  | .mmio | .absent => true
  | _ => false

/-! ### The move port (R127) -/

/-- The move whose source frame holds a physical address, while its port is open. -/
def movingAt (s : State) (pa : Nat) : Option Move :=
  s.yo.moves.find? (fun m => m.st != .releasing && m.st != .released && decide (m.src * 4096 ≤ pa) && decide (pa < m.src * 4096 + m.lines * 256))

/-- Replace a move record. -/
def putMove (s : State) (m : Move) : State :=
  { s with yo := { s.yo with moves := s.yo.moves.map (fun x => if x.no = m.no then m else x) } }

/-- The index of the line in copy (R127, R133). -/
def lineInCopy (m : Move) : Nat := if m.st = .reverse then m.cursor - 1 else m.cursor

/-- The sectors of a line that are poisoned, as sector indices 0–3. -/
def linePoison (s : State) (pa : Nat) : List Nat :=
  (List.range 4).filter (fun i => s.mem.poison.contains (pa / 64 + i))

/-- Store a line with its poison as a controller accepts it; discarded where nothing backs the address (R60). -/
def storeLine (s : State) (pa : Nat) (bs : List Byte) (poison : List Nat) : State :=
  match physPlace s pa with
  | .mmio | .absent => decodeError s pa
  | .bank off =>
    let bad := poison.flatMap (fun i => (List.range 8).map (fun w => off / 8 + 8 * i + w))
    { s with mem := { s.mem with bank := cellsWrite s.mem.bank off bs
                                 bankPoison := bad.foldl nsetInsert (healed 8 s.mem.bankPoison off 256) } }
  | _ =>
    let s := ctlWrite s pa 256
    let ps := (List.range 4).foldl
      (fun ps i => if poison.contains i then nsetInsert ps (pa / 64 + i) else nsetErase ps (pa / 64 + i)) s.mem.poison
    { s with mem := { s.mem with main := cellsWrite s.mem.main pa bs, poison := ps } }

/-- The hold of the line in copy ends: its destination accepts it, in the write-queue entry that the copy reserved, and the cursor moves
(R128, R133). The line's stamps go with it (R129). A destination of a forward move that refuses the line, for its port's link has gone down,
keeps it at the source, and the move aborts with status 2 (R128, R132). -/
def endHold (s : State) (m : Move) : State :=
  let k := lineInCopy m
  let back := m.st = .reverse
  let target := (if back then m.src else m.dst) * 4096 + 256 * k
  let s := dropEntry s target
  if !back ∧ unbacked s target then putMove s { m with hold := .none, buf := [], bufPoison := [], want := some 2 }
  else
  let s := carryStamp s ((if back then m.dst else m.src) * 4096 + 256 * k) target
  let s := storeLine s target m.buf m.bufPoison
  putMove s { m with hold := .none, buf := [], bufPoison := [],
                     cursor := if back then m.cursor - 1 else m.cursor + 1 }

/-- A hold of the line of a source address ends, for an access that waits for it (R127). -/
def endHoldAt (s : State) (pa : Nat) : State :=
  match movingAt s pa with
  | some m => if m.hold = .held ∧ (pa - m.src * 4096) / 256 = lineInCopy m then endHold s m else s
  | none => s

/-- Where a port sends an access (R127): to the source or to the destination frame. -/
def portOnce (s : State) (pa : Nat) : Nat :=
  match movingAt s pa with
  | some m => if (pa - m.src * 4096) / 256 < m.cursor ∧ m.st ≠ .recall then m.dst * 4096 + (pa - m.src * 4096) else pa
  | none => pa

/-- The addresses at which an access passes ports, the line's current home last: a destination may itself be the source of a later move. -/
def portHops (s : State) : Nat → Nat → List Nat
  | 0, pa => [pa]
  | n + 1, pa => if portOnce s pa = pa then [pa] else pa :: portHops s n (portOnce s pa)

/-- Every address that an access at `pa` passes. -/
def hopsOf (s : State) (pa : Nat) : List Nat := portHops s s.yo.moves.length pa

/-- Where the ports route an access (R127): the line's single current home. -/
def portRoute (s : State) (pa : Nat) : Nat := (hopsOf s pa).getLastD pa

/-- An access waits for the ends of the holds on its way (R127). -/
def awaitHolds : Nat → State → Nat → State
  | 0, s, pa => endHoldAt s pa
  | n + 1, s, pa =>
    let s := endHoldAt s pa
    if portOnce s pa = pa then s else awaitHolds n s (portOnce s pa)

/-- An access to a held line waits for the end of the hold, then is routed again (R127). -/
def awaitHold (s : State) (pa : Nat) : State := awaitHolds s.yo.moves.length s pa

/-! ### Accesses by physical address -/

/-- The controller's side of reading the sectors of `n` bytes at `pa`, which lie in one line: waits out a hold,
reads the sectors under R73, or logs a decode error. -/
def touchRead (s : State) (pa n : Nat) : State :=
  let s := awaitHold s pa
  let pa := portRoute s pa
  if unbacked s pa then decodeError s pa
  else (List.range ((pa + n - 1) / 64 + 1 - pa / 64)).foldl (fun s i => readSector s ((pa / 64 + i) * 64)) (readArrives s pa)

/-- The bytes at a physical address range within one line. -/
def physBytes (s : State) (pa n : Nat) : List Byte :=
  let pa := portRoute s pa
  (List.range n).map (fun i => rawByte s (pa + i))

/-- Any byte of a range within one line reads poisoned. -/
def physPoison (s : State) (pa n : Nat) : Bool :=
  let pa := portRoute s pa
  (List.range n).any (fun i => rawPoison s (pa + i))

/-- Read a naturally aligned quadword, as walkers and units do (R93). -/
def physQuad (s : State) (pa : Nat) : Nat := leNat (physBytes s pa 8)

end Sys2Proof.Machine
end

