-- ==== Sys2Proof/Machine/Jigsaw.lean ====
section
/-! DEFINITION. The Jigsaw: lines, keys, homes, the directory and replacement (R146, R153 to R156, R158); the L1 copies that
a home tracks (R178); and accesses at a line's home, with their logical times (R330 to R333). The current bytes are
memory's own; a line keeps what was last written back, for TINV.discard. -/

namespace Sys2Proof.Machine

/-- The home die index of an untensored entry, and of every directory entry (R154). -/
def physHome (pa : Nat) : Nat := (pa / 256 % 8) ^^^ (pa / 2048 % 8)

/-- The home of a key (R154). -/
def keyHome : JKey → Nat
  | .line pa => physHome pa
  | .tile _ id tr tc _ => (id + 3 * tr + tc) % 8

/-- The set of a key within its slice, of 12,288. The spec gives no index function: DESIGN CHOICE, log entry 7. -/
def keySet : JKey → Nat
  | .line pa => pa / 2048 % 12288
  | .tile _ id tr tc ln => (id + 3 * tr + tc + ln) / 8 % 12288

/-- The directory set of a line at its physical home (R153). DESIGN CHOICE, log entry 7. -/
def dirSet (pa : Nat) : Nat := pa / 2048 % 12288

/-- The sectors that `n` bytes at `pa` touch within their line, as a 4-bit mask. -/
def sectorMask (pa n : Nat) : Nat :=
  ((List.range 4).filter (fun i => decide (pa % 256 / 64 ≤ i) && decide (i ≤ (pa % 256 + n - 1) / 64))).foldl
    (fun m i => m + 2 ^ i) 0

/-- The sectors of a mask, by index in the line. -/
def maskSectors (m : Nat) : List Nat := (List.range 4).filter (fun i => m.testBit i)

/-- The sectors that `n` bytes at `pa` cover whole, as a mask. -/
def wholeMask (pa n : Nat) : Nat := (wholeSectors pa n).foldl (fun m k => m + 2 ^ (k % 4)) 0

/-- The line that holds a physical line address, under whatever key. -/
def jgFind (s : State) (pa : Nat) : Option JLine := s.caches.jigsaw.find? (fun l => l.pa == pa / 256 * 256)

/-- Replace the Jigsaw's lines. -/
def setJigsaw (s : State) (ls : List JLine) : State := { s with caches := { s.caches with jigsaw := ls } }

/-- Replace the L1s' lines. -/
def setL1 (s : State) (ls : List L1Line) : State := { s with caches := { s.caches with l1 := ls } }

/-- Put a line in place of the one with its physical address. -/
def jgPut (s : State) (l : JLine) : State :=
  setJigsaw s (s.caches.jigsaw.map (fun x => if x.pa = l.pa then l else x))

/-- The sectors of a line that hold a word with at least `n` wrong bits (R146, R178). -/
def wrongSectors (errs : List (Nat × Nat)) (n : Nat) : List Nat :=
  (List.range 4).filter (fun i => errs.any (fun e => e.1 / 8 == i && decide (n ≤ e.2)))

/-- Before memory changes in a line that the Jigsaw holds: sectors not saved yet keep their bytes as last written back. -/
def jgSave (s : State) (pa n : Nat) : State :=
  match jgFind s pa with
  | none => s
  | some l =>
    let mask := sectorMask pa n
    let fresh := (maskSectors mask).filter (fun i => !l.saved.testBit i)
    let back := fresh.foldl (fun b i => cellsWrite b (64 * i) (cellsRead s.mem.main (l.pa + 64 * i) 64)) l.back
    let bp := fresh.foldl (fun b i => if s.mem.poison.contains (l.pa / 64 + i) then nsetInsert b i else b) l.backPoison
    jgPut s { l with saved := l.saved ||| mask, back := back, backPoison := bp }

/-- Sectors of a held line are valid and dirty. -/
def jgDirty (s : State) (l : JLine) (mask : Nat) : State :=
  jgPut s { l with valid := l.valid ||| mask, dirty := l.dirty ||| mask }

/-- Sectors of a line hold again the values last written back. -/
def jgRestore (s : State) (l : JLine) (mask : Nat) : State :=
  (maskSectors (mask &&& l.saved)).foldl (fun s i =>
    let ps := if l.backPoison.contains i then nsetInsert s.mem.poison (l.pa / 64 + i)
              else nsetErase s.mem.poison (l.pa / 64 + i)
    { s with mem := { s.mem with main := cellsWrite s.mem.main (l.pa + 64 * i) (cellsRead l.back (64 * i) 64), poison := ps } }) s

/-! ### L1 copies, as the homes see them (R178) -/

/-- A line of a core's L1. -/
def l1Find (s : State) (core pa : Nat) : Option L1Line :=
  s.caches.l1.find? (fun l => l.core == core && l.pa == pa / 256)

/-- Replace a line of a core's L1. -/
def l1Put (s : State) (l : L1Line) : State :=
  setL1 s (s.caches.l1.map (fun x => if x.core = l.core ∧ x.pa = l.pa then l else x))

/-- The dirty sectors of an L1 line go to its home (R178): into the Jigsaw where it holds the line, else to memory, whose controller logs
a line that nothing backs (R60). Sectors that SEC-DED cannot correct go poisoned and are logged (R413). -/
def l1WriteBack (s : State) (l : L1Line) : State :=
  if l.dirty = 0 then s
  else
    let pa := l.pa * 256
    let bad := (wrongSectors l.errs 2).filter (fun i => l.dirty.testBit i)
    let s := match jgFind s pa with
      | some j => jgDirty (mmCount s (jgBlock j.home + 8) 1) j l.dirty
      | none =>
        if unbacked s (portRoute s pa) then decodeError s (portRoute s pa)
        else ctlSectors s (portRoute s pa) [] ((maskSectors l.dirty).map (fun i => portRoute s pa / 64 + i))
    if bad.isEmpty then s
    else
      let s := bad.foldl (fun s i => poisonSector s (portRoute s pa / 64 + i)) s
      logError s ⟨pa, noOwner, 2, l.core / 96, 1, 5, 0⟩

/-- Drop a line of a core's L1, written back. -/
def l1Drop (s : State) (core pa : Nat) : State :=
  match l1Find s core pa with
  | none => s
  | some l => let s := l1WriteBack s l; setL1 s (s.caches.l1.filter (fun x => !(x.core == core && x.pa == l.pa)))

/-- A copy is one of the line at an address, or at an address to which the ports send its accesses (R127). -/
def copyOf (s : State) (pa : Nat) (l : L1Line) : Bool := (hopsOf s pa).any (fun a => l.pa == a / 256)

/-- The home recalls every other core's Owned copy of a line (R178); core 768 stands for none. -/
def l1Recall (s : State) (core pa : Nat) : State :=
  let own := s.caches.l1.filter (fun l => l.core != core && copyOf s pa l && l.owned)
  if own.isEmpty then s
  else
    let t := own.foldl l1WriteBack s
    setL1 t (t.caches.l1.filter (fun l => !(l.core != core && copyOf s pa l && l.owned)))

/-- Before memory changes in a line: every Leased copy keeps the bytes that it was granted, under whichever frame of a moving page (R129,
R333). -/
def l1Keep (s : State) (pa : Nat) : State :=
  if s.caches.l1.any (fun l => copyOf s pa l && !l.owned && l.data.isEmpty) then
    let a := portRoute s pa / 256 * 256
    let bs := (List.range 256).map (fun i => rawByte s (a + i))
    let ps := linePoison s a
    setL1 s (s.caches.l1.map (fun l => if copyOf s pa l ∧ !l.owned ∧ l.data.isEmpty then { l with data := bs, dataPoison := ps } else l))
  else s

/-! ### Write-back, eviction and room -/

/-- The poisoned sectors of a line that memory did not hold poisoned when the line was last written back. -/
def newlyPoisoned (s : State) (l : JLine) : List Nat :=
  (maskSectors l.dirty).filter (fun i => s.mem.poison.contains (l.pa / 64 + i) && !l.backPoison.contains i)

/-- A dirty line is written back (R156), with parity updated (R72): memory keeps its bytes, with a poison marker in every sector that
SEC-DED cannot correct; sectors that went bad are logged (R413). Where nothing backs the address any more the write is discarded (R60). -/
def jgWriteBack (s : State) (l : JLine) : State :=
  if l.dirty = 0 then s
  else if unbacked s l.pa then decodeError (jgRestore s l l.dirty) l.pa
  else
    let bad := (wrongSectors l.errs 2).filter (fun i => l.dirty.testBit i)
    let s := bad.foldl (fun s i => poisonSector s (l.pa / 64 + i)) s
    let s := ctlSectors s l.pa [] ((maskSectors l.dirty).map (fun i => l.pa / 64 + i))
    if bad.isEmpty ∧ newlyPoisoned s l = [] then s else logError s ⟨l.pa, noOwner, 1, l.home, 1, 5, 0⟩

/-- Drop a line after its write-back. An L1's Owned copy of it is recalled first: DESIGN CHOICE, log entry 7. -/
def jgEvict (s : State) (l : JLine) : State :=
  let s := l1Recall s 768 l.pa
  let s := jgWriteBack s ((jgFind s l.pa).getD l)
  setJigsaw s (s.caches.jigsaw.filter (fun x => x.pa ≠ l.pa))

/-- Drop the line that holds a physical address, written back: a recall (R125). -/
def jgRecall (s : State) (pa : Nat) : State :=
  match jgFind s pa with
  | some l => jgEvict s l
  | none => l1Recall s 768 pa

/-- The least recently used of some lines, in order of their entry: of those that entered in the least recently used place, the last. -/
def lruOf : List JLine → Option JLine
  | [] => none
  | l :: t => match lruOf t with
    | none => some l
    | some m => if l.lru < m.lru then some l else some m

/-- Make room in the directory set of a line (R153). -/
def dirRoom (s : State) (pa : Nat) : State :=
  let tracked := s.caches.jigsaw.filter (fun l => decide (physHome l.pa = physHome pa) && decide (dirSet l.pa = dirSet pa))
  if tracked.length < 16 then s
  else match lruOf tracked with
    | some v => mmCount (jgEvict s v) (jgBlock (physHome pa) + 0x18) 1
    | none => s

/-- Make room in the set of a key (R156): an untensored fill never takes a way that RSVW holds for tensor keys. -/
def wayRoom (s : State) (k : JKey) : State :=
  let same := s.caches.jigsaw.filter (fun l => decide (l.home = keyHome k) && decide (keySet l.key = keySet k))
  let plain := same.filter (fun l => match l.key with | .line _ => true | .tile .. => false)
  let rsv := Min.min 15 (mmField s (jgBlock (keyHome k)) 3 0)
  let untensored : Bool := (match k with | .line _ => true | .tile .. => false)
  if untensored && decide (16 - rsv ≤ plain.length) then
    match lruOf plain with | some v => jgEvict s v | none => s
  else if 16 ≤ same.length then
    match lruOf same with | some v => jgEvict s v | none => s
  else s

/-- A physical address whose lines the Jigsaw may hold. -/
def inTier (s : State) (pa : Nat) : Bool :=
  match physPlace s pa with
  | .hbm .. | .lpddr _ | .cxl _ => true
  | _ => false

/-- A physical address that the caches may hold: memory, and no line of a moving page (R127, R155, R180). -/
def cacheable (s : State) (pa : Nat) : Bool := (movingAt s pa).isNone && inTier s pa

/-- Next place in the replacement order; a line entering in the least recently used place gets 0 (R156). -/
def lruStamp (s : State) (low : Bool) : Nat × State :=
  if low then (0, s) else (s.caches.lruNext, { s with caches := { s.caches with lruNext := s.caches.lruNext + 1 } })

/-- Enter a line under a key: it holds the sectors of `mask`. -/
def jgFill (s : State) (k : JKey) (pa mask : Nat) (low : Bool) : State :=
  let s := wayRoom (dirRoom s pa) k
  let (u, s) := lruStamp s low
  setJigsaw s (s.caches.jigsaw ++
    [{ home := keyHome k, key := k, pa := pa / 256 * 256, valid := mask, dirty := 0, saved := 0, back := [], backPoison := [],
       errs := [], lru := u }])

/-- SEC-DED over the sectors that an access touches (R146): one wrong bit of a word is corrected; a word with more makes a dirty sector
read poisoned, and drops a clean one, which is read from memory again: DESIGN CHOICE, log entry 7. A sector written whole
has new codes. -/
def jgDecode (s : State) (l : JLine) (mask whole : Nat) : State :=
  let hit := l.errs.filter (fun e => mask.testBit (e.1 / 8) && !whole.testBit (e.1 / 8))
  let s := jgPut s { l with errs := l.errs.filter (fun e => !mask.testBit (e.1 / 8))
                            valid := (wrongSectors hit 2).foldl (fun v i => if l.dirty.testBit i then v else v - (v &&& 2 ^ i)) l.valid }
  hit.foldl (fun s e =>
    let a := l.pa / 64 + e.1 / 8
    if e.2 ≤ 1 then logError s ⟨a * 64, noOwner, 1, l.home, 0, 1, 0⟩
    else if l.dirty.testBit (e.1 / 8) then logError (poisonSector s a) ⟨a * 64, noOwner, 1, l.home, 1, 3, 0⟩
    else s) s

/-- SEC-DED of the line that holds an address, where an access touches it. -/
def jgChecked (s : State) (pa mask whole : Nat) : State :=
  match jgFind s pa with
  | some l => if l.errs.isEmpty then s else jgDecode s l mask whole
  | none => s

/-- The sectors of `mask` that the Jigsaw does not hold valid are read from memory (R155): only those. -/
def jgFetch (s : State) (pa mask : Nat) : State :=
  let held := match jgFind s pa with | some l => l.valid | none => 0
  let miss := (maskSectors mask).filter (fun i => !held.testBit i)
  if miss.isEmpty then s
  else miss.foldl (fun s i => readSector s (pa / 256 * 256 + 64 * i)) (readArrives s pa)

/-- Address traffic looks a line up and, unless `alloc` is off, enters it (R155): served from whichever key holds the line; a miss
fills under an untensored key; a line of a moving page misses and takes no entry. A hit on a line that another die holds under a tensor key counts
in the slice that holds it, a miss at the physical home (R169): DESIGN CHOICE, log entry 102. -/
def jgAddress (s : State) (pa n : Nat) (write alloc low : Bool) : State :=
  if !inTier s pa then s
  else
    let mask := sectorMask pa n
    match (if (movingAt s pa).isNone then jgFind s pa else none) with
    | some l =>
      let s := mmCount s (jgBlock l.home + 8) 1
      let (u, s) := lruStamp s false
      let l := { l with valid := l.valid ||| mask, lru := u }
      if write then jgDirty s l mask else jgPut s l
    | none =>
      let s := mmCount s (jgBlock (physHome pa) + 0x10) 1
      if !alloc ∨ !cacheable s pa then s
      else
        let s := jgFill s (.line (pa / 256 * 256)) pa mask low
        if write then (match jgFind s pa with | some l => jgDirty s l mask | none => s) else s

/-- Address traffic reads or writes `n` bytes of one line at its home (R60, R127, R155): sectors that the Jigsaw does not hold are read
from memory, but for a write those that it covers whole. Called before a write changes memory. -/
def homeLine (s : State) (pa n : Nat) (write alloc low : Bool) : State :=
  let s := awaitHold s pa
  if !cacheable s pa then
    let s := jgAddress s pa n write alloc low
    if write then s else touchRead s pa n
  else
    let whole := if write then wholeMask pa n else 0
    let s := jgChecked s pa (sectorMask pa n) whole
    let s := if write ∧ (jgFind s pa).isNone ∧ !alloc then s else jgFetch s pa (sectorMask pa n - whole)
    jgAddress s pa n write alloc low

/-- A tile instruction reaches the line of a tensor key (R155): a line held under another key moves to the new one; only sectors held
nowhere are read from memory. -/
def jgTile (s : State) (k : JKey) (pa : Nat) (mask whole : Nat) (write low : Bool) : State :=
  let s := awaitHold s pa
  if !inTier s pa then (if write then s else touchRead s pa 256)
  else if (movingAt s pa).isSome then
    let s := mmCount s (jgBlock (keyHome k) + 0x10) 1
    if write then s else touchRead s pa 256
  else
    let s := jgFetch (jgChecked s pa mask whole) pa (mask - whole)
    let s :=
      match jgFind s pa with
      | some l =>
        let s := mmCount s (jgBlock (keyHome k) + (if l.key = k then 8 else 0x10)) 1
        if l.key = k then
          let (u, s) := lruStamp s low
          jgPut s { l with valid := l.valid ||| mask, lru := if low then l.lru else u }
        else
          -- Moved to the new key with its sector state.
          let s := setJigsaw s (s.caches.jigsaw.filter (fun x => x.pa ≠ l.pa))
          let s := wayRoom s k
          let (u, s) := lruStamp s low
          setJigsaw s (s.caches.jigsaw ++ [{ l with home := keyHome k, key := k, valid := l.valid ||| mask, lru := u }])
      | none => jgFill (mmCount s (jgBlock (keyHome k) + 0x10) 1) k pa mask low
    if write then (match jgFind s pa with | some l => jgDirty s l mask | none => s) else s

/-- Write back every dirty line, keeping it: a checkpoint's step 3 (R137). -/
def jgFlush (s : State) : State :=
  let s := (s.caches.l1.filter (fun l => l.owned)).foldl l1WriteBack s
  let s := setL1 s (s.caches.l1.map (fun l => { l with dirty := 0 }))
  let s := s.caches.jigsaw.foldl jgWriteBack s
  setJigsaw s (s.caches.jigsaw.map (fun l => { l with dirty := 0, saved := 0, back := [], backPoison := [] }))

/-! ### Units of bank memory and of the scratchpads (R184, R189) -/

/-- The number of a bank unit, or of a scratchpad quarter, among the units of R189. -/
def unitOf (scratch : Bool) (off : Nat) : Nat := if scratch then 1024 + off / 131072 else off / 65536

/-- The die index of a unit. -/
def unitDie (u : Nat) : Nat := if u < 1024 then u / 128 else (u - 1024) / 4 / 96

/-- Mark 8-byte words poisoned. -/
def poisonWord (s : State) (scratch : Bool) (w : Nat) : State :=
  if scratch then { s with mem := { s.mem with scratchPoison := nsetInsert s.mem.scratchPoison w } }
  else { s with mem := { s.mem with bankPoison := nsetInsert s.mem.bankPoison w } }

/-- The record of an error in a word of the scratchpads (unit 3) or of bank memory (unit 4): corrected, or poisoned (R409, R410). A
scratchpad word has no physical address. -/
def wordError (u : Nat) (scratch : Bool) (w cls : Nat) : ErrRec :=
  ⟨if scratch then 0 else 0x20000000000 + w / 8 * 64, noOwner, if scratch then 3 else 4, unitDie u, cls, if cls = 0 then 1 else 3, 0⟩

/-- The errors recorded in a unit's words. -/
def unitErrors (s : State) (u : Nat) : List ((Bool × Nat) × Nat) :=
  s.banks.errors.filter (fun e => unitOf e.1.1 (e.1.2 * 8) == u)

/-- A unit leaves retention (R189): every word is decoded, up to two wrong bits are corrected and counted in RETCE, more
poison the word and count in RETUE; each is logged (R409). -/
def wakeUnit (s : State) (u : Nat) : State :=
  if !s.banks.retained.contains u then s
  else
    let es := unitErrors s u
    let d := unitDie u
    let s := es.foldl (fun s e =>
      if e.2 ≤ 2 then logError (mmAdd s (bkBlock d + 0x18) 63 32 1) (wordError u e.1.1 e.1.2 0)
      else logError (mmAddSat (poisonWord s e.1.1 e.1.2) (bkBlock d + 0x20) 63 32) (wordError u e.1.1 e.1.2 1)) s
    let s := { s with banks := { s.banks with retained := nsetErase s.banks.retained u,
                                              errors := s.banks.errors.filter (fun e => unitOf e.1.1 (e.1.2 * 8) != u) } }
    if 1024 ≤ u then s
    else mmPutField s (bkBlock d + (if u % 128 < 64 then 8 else 0x10)) (u % 64) (u % 64) 0

/-- A unit is touched now, and awake (R189). -/
def wakeTouched (s : State) (u : Nat) : State :=
  let s := wakeUnit s u
  { s with banks := { s.banks with touched := smapSet 0 s.banks.touched u s.cc } }

/-- An access touches words of a unit, or of the units that its bytes span (R184, R189): it wakes them; in an active unit one wrong bit
of a word is corrected (CE), two poison it (UE), and each is logged (R409). -/
def touchUnit (s : State) (scratch : Bool) (off n : Nat) : State :=
  let u := unitOf scratch off
  let s := (natRange u (unitOf scratch (off + n - 1) + 1 - u)).foldl wakeTouched s
  let es := s.banks.errors.filter (fun e => e.1.1 == scratch && decide (off / 8 ≤ e.1.2) && decide (e.1.2 ≤ (off + n - 1) / 8))
  let s := es.foldl (fun s e =>
    if e.2 ≤ 1 then logError (mmAdd s (bkBlock (unitDie u) + 0x18) 31 0 1) (wordError u scratch e.1.2 0)
    else logError (mmAddSat (poisonWord s scratch e.1.2) (bkBlock (unitDie u) + 0x20) 31 0) (wordError u scratch e.1.2 1)) s
  { s with banks := { s.banks with errors := s.banks.errors.filter (fun e => !es.contains e) } }

/-! ### Writes by physical address -/

/-- A copy-read under way at the line of a source address: what a write changes it changes in the copy buffer too (R128, R133). -/
def inCopyRead (s : State) (pa : Nat) : Option Move :=
  match movingAt s pa with
  | some m => if m.hold = .copyRead ∧ (pa - m.src * 4096) / 256 = lineInCopy m then some m else none
  | none => none

/-- The caches and the controller see that memory changes in one line, accessed at `pa0` and performed at `pa`: Leased copies keep their
bytes; a line that the Jigsaw holds keeps what was last written back, and is dirty where the port forwarded the access; else the
write goes to the controller. -/
def beforeWrite (s : State) (pa0 pa n : Nat) : State :=
  let s := l1Keep s pa0
  match jgFind s pa with
  | some l =>
    let s := if pa = pa0 then s else jgDirty s l (sectorMask pa n)
    jgSave s pa n
  | none => if s.caches.l1.any (fun l => l.pa == pa0 / 256 && l.owned) then s else ctlWrite s pa n

/-- Write bytes within one line at their home; discarded where nothing backs the address (R60). -/
def physWrite (s : State) (pa0 : Nat) (bs : List Byte) : State :=
  let s := awaitHold s pa0
  let pa := portRoute s pa0
  match physPlace s pa with
  | .mmio | .absent => decodeError s pa
  | .bank off =>
    let s := touchUnit s false off bs.length
    { s with mem := { s.mem with bank := cellsWrite s.mem.bank off bs, bankPoison := healed 8 s.mem.bankPoison off bs.length } }
  | _ =>
    let s := beforeWrite s pa0 pa bs.length
    let s := { s with mem := { s.mem with main := cellsWrite s.mem.main pa bs, poison := healed 64 s.mem.poison pa bs.length } }
    (hopsOf s pa0).foldl (fun s a => match inCopyRead s a with
      | some m =>
        let o := pa % 256
        putMove s { m with buf := m.buf.take o ++ bs ++ m.buf.drop (o + bs.length), bufPoison := healed 64 m.bufPoison o bs.length }
      | none => s) s

/-- Mark the sector of an address poisoned at its home: a poisoned landing, or a poisoned write-back (R206, R413). -/
def physPoisonWrite (s : State) (pa0 : Nat) : State :=
  let s := awaitHold s pa0
  let pa := portRoute s pa0
  match physPlace s pa with
  | .mmio | .absent => s
  | .bank off => { s with mem := { s.mem with bankPoison := nsetInsert s.mem.bankPoison (off / 8) } }
  | _ =>
    let s := poisonSector (jgSave (l1Keep s pa0) pa 1) (pa / 64)
    (hopsOf s pa0).foldl (fun s a => match inCopyRead s a with
      | some m => putMove s { m with bufPoison := nsetInsert m.bufPoison (pa % 256 / 64) }
      | none => s) s

/-! ### Agents and logical times (R330, R331, R333) -/

/-- Agent numbers in their lexicographic order (R330): an arm, -/
def armNo (s : State) : Nat := s.gang.core * 2 ^ 20 + s.gang.gslot * 2 + s.gang.arm.slot
/-- a job by its handle, -/
def jobNo (h : Nat) : Nat := 2 ^ 60 + h
/-- a core's matrix engine, -/
def mxNo (core : Nat) : Nat := 2 * 2 ^ 60 + core
/-- a gang's stream engine, -/
def streamNo (core gslot : Nat) : Nat := 3 * 2 ^ 60 + core * 2 ^ 20 + gslot
/-- a die's walkers, and the Yo-yo at a hub die, -/
def walkerNo (die : Nat) : Nat := 4 * 2 ^ 60 + die
/-- the Yo-yo's leaf updates and ring writes, all by hub die 0: DESIGN CHOICE, log entry 23, -/
def yoyoNo : Nat := 4 * 2 ^ 60 + 8
/-- a hub die's link agent, -/
def linkNo (hub : Nat) : Nat := 5 * 2 ^ 60 + hub
/-- and the host-link agent. -/
def hostNo : Nat := 6 * 2 ^ 60

/-- The logical time of an agent's last access: an executing arm's stands in the arm. -/
def agentTime (s : State) (ag : Nat) : Nat := if ag < 2 ^ 60 then s.gang.arm.ltime else smapGet 0 s.caches.times ag

/-- Set it. -/
def setAgentTime (s : State) (ag t : Nat) : State :=
  if ag < 2 ^ 60 then s.onArm (fun a => { a with ltime := t })
  else { s with caches := { s.caches with times := smapSet 0 s.caches.times ag t } }

/-- The least time from `t` on at which agent `ag` comes after an access of agent `b` at time `w` (R331). -/
def timeAfter (t ag w b : Nat) : Nat := if w < t then t else if b ≤ ag then w else w + 1

/-- The least logical time from `t` on at which agent `ag` reads a line at its home: not before TIME, and after the line's last write
(R331). A line is named by its physical address, or by `scrLine`. -/
def readAfter (s : State) (t ag k : Nat) : Nat :=
  let st := stampOf s k
  timeAfter (Max.max t s.time) ag st.wts st.wby

/-- The least time from `t` on of a write: after every lease, read and write of the line too (R331, R333). -/
def writeAfter (s : State) (t ag k : Nat) : Nat :=
  let st := stampOf s k
  timeAfter (Max.max (readAfter s t ag k) (if st.rts = 0 then 0 else st.rts + 1)) ag st.rd st.rdBy

/-- The logical time of an agent's next read of a line: not before its own time. -/
def readTime (s : State) (ag pa : Nat) : Nat := readAfter s (agentTime s ag) ag pa

/-- The logical time of its next write. -/
def writeTime (s : State) (ag pa : Nat) : Nat := writeAfter s (agentTime s ag) ag pa

/-- The line of a byte of the scratchpads, which have no physical address, as the stamps name it: `key` is the byte's key in
`Mem.scratch`. -/
def scrLine (key : Nat) : Nat := 2 ^ 52 + key

/-- The line of a byte of bank memory: its physical address. -/
def bankLine (off : Nat) : Nat := 0x20000000000 + off

/-- The lines that `n` bytes from `a` on touch. -/
def linesOf (a n : Nat) : List Nat := (List.range ((a + n - 1) / 256 + 1 - a / 256)).map (fun i => (a / 256 + i) * 256)

/-- A read of a line at time `t` leaves its mark. -/
def stampRead (s : State) (ag t k : Nat) : State :=
  let st := stampOf s k
  let r := laterOf st.rd st.rdBy t ag
  putStamp s { st with rd := r.1, rdBy := r.2 }

/-- A write of a line at time `t` leaves its mark. -/
def stampWrite (s : State) (ag t k : Nat) : State := putStamp s { stampOf s k with wts := t, wby := ag }

/-- An agent reads some lines at one logical time, and its own time advances to it (R331, R333). -/
def orderReads (s : State) (ag : Nat) (ks : List Nat) : State :=
  let t := ks.foldl (fun t k => Max.max t (readTime s ag k)) (agentTime s ag)
  setAgentTime (ks.foldl (fun s k => stampRead s ag t k) s) ag t

/-- An agent writes some lines at one logical time. -/
def orderWrites (s : State) (ag : Nat) (ks : List Nat) : State :=
  let t := ks.foldl (fun t k => Max.max t (writeTime s ag k)) (agentTime s ag)
  setAgentTime (ks.foldl (fun s k => stampWrite s ag t k) s) ag t

/-- A read of a line at its home takes its logical time (R331). -/
def orderRead (s : State) (ag pa : Nat) : State :=
  let pa := portRoute s pa
  let t := readTime s ag pa
  setAgentTime (stampRead s ag t pa) ag t

/-- A write or atomic at a line's home takes its logical time, and the agent's time advances to it (R333). -/
def orderWrite (s : State) (ag pa : Nat) : State :=
  let pa := portRoute s pa
  let t := writeTime s ag pa
  setAgentTime (stampWrite s ag t pa) ag t

/-- The one logical time at which an agent reads some lines (R157, R312). -/
def readsTime (s : State) (ag : Nat) (pas : List Nat) : Nat :=
  pas.foldl (fun t pa => Max.max t (readTime s ag (portRoute s pa))) (agentTime s ag)

/-- The one logical time at which it writes some lines. -/
def writesTime (s : State) (ag : Nat) (pas : List Nat) : Nat :=
  pas.foldl (fun t pa => Max.max t (writeTime s ag (portRoute s pa))) (agentTime s ag)

/-- An agent's time is `t` at least. -/
def raiseTime (s : State) (ag t : Nat) : State := setAgentTime s ag (Max.max (agentTime s ag) t)

/-- LSCTL.LEASE. -/
def leaseLen (s : State) : Nat := mmField s lsCtl 15 0

/-- The latest time an agent may reach: TIME + 2 × LSCTL.LEASE (R333). -/
def timeBound (s : State) : Nat := s.time + 2 * leaseLen s

/-- A write of some lines would take the executing arm past the bound: the instruction waits (R333). -/
def pastLines (s : State) (ks : List Nat) : Bool := ks.any (fun k => decide (timeBound s < writeTime s (armNo s) k))

/-- Drop a line without write-back: every byte of a dirty sector holds again the value last written back, as by a store of no agent at the
drop (R158, R330). An L1's Owned copy is recalled first. -/
def jgDiscard (s : State) (l : JLine) : State :=
  let s := l1Recall s 768 l.pa
  let l := (jgFind s l.pa).getD l
  let s := if l.dirty = 0 then s
    else putStamp s { stampOf s l.pa with wts := writeTime s (7 * 2 ^ 60) l.pa, wby := 7 * 2 ^ 60 }
  setJigsaw (jgRestore (l1Keep s l.pa) l l.dirty) (s.caches.jigsaw.filter (fun x => x.pa ≠ l.pa))

/-- An agent reads `n` bytes of one line at its home: every core's Owned copy is recalled, the read takes its time, and the
Jigsaw or memory serves it. -/
def homeRead (s : State) (ag pa n : Nat) (alloc low : Bool) : State :=
  homeLine (orderRead (l1Recall s 768 pa) ag pa) pa n false alloc low

/-- An agent writes bytes of one line at its home. -/
def homeWrite (s : State) (ag pa : Nat) (bs : List Byte) : State :=
  physWrite (homeLine (orderWrite (l1Recall s 768 pa) ag pa) pa bs.length true true false) pa bs

/-- Where the step of an agent that is no arm would take an access past the bound of R333, the agent waits: the step has no effect but
that LSWAIT counts from then on. -/
def bounded (ag : Nat) (f : State → State) (s : State) : State :=
  let t := f s
  if agentTime s ag < agentTime t ag ∧ timeBound s < agentTime t ag then
    { s with caches := { s.caches with waiting := nsetInsert s.caches.waiting ag } }
  else { t with caches := { t.caches with waiting := nsetErase t.caches.waiting ag } }

end Sys2Proof.Machine
end

