-- ==== Sys2Proof/Machine/Translate.lean ====
section
/-! DEFINITION. Context descriptors (R381), page-table walks, TLBs, permissions, and the A and D bits (R93 to R103,
R106, R114). -/

namespace Sys2Proof.Machine

/-! ### Context descriptors (R381) -/

/-- The physical address of a context's descriptor. -/
def ctxAddr (s : State) (ctx : Nat) : Nat := mmGet s ctxBase + 64 * ctx

/-- A field of a context descriptor: `n` bytes at `o`. -/
def ctxField (s : State) (ctx o n : Nat) : Nat := leNat (physBytes s (ctxAddr s ctx + o) n)

/-- ROOT: the frame of the level-5 table, where the descriptor is valid. -/
def ctxRoot (s : State) (ctx : Nat) : Option Nat :=
  let r := ctxField s ctx 0 8
  if bitField r 0 0 = 1 then some (bitField r 51 12) else none

/-- TTAB: the frame of the tensor table. -/
def ctxTtab (s : State) (ctx : Nat) : Nat := bitField (ctxField s ctx 8 8) 51 12
/-- FJOB. -/
def ctxFjob (s : State) (ctx : Nat) : Nat := ctxField s ctx 16 2
/-- AP. -/
def ctxAp (s : State) (ctx : Nat) : Nat := ctxField s ctx 20 4
/-- BKW. -/
def ctxBkw (s : State) (ctx : Nat) : Nat := ctxField s ctx 24 4
/-- FLAGS[0]: a supervisor context. -/
def ctxSup (s : State) (ctx : Nat) : Bool := bitField (ctxField s ctx 28 4) 0 0 == 1
/-- SAVE: the base of the save area, and its size in bytes. -/
def ctxSave (s : State) (ctx : Nat) : Nat × Nat :=
  (bitField (ctxField s ctx 32 8) 51 20 * 2 ^ 20, ctxField s ctx 40 4 * 2 ^ 20)

/-! ### Page-table entries (R94 to R97) -/

/-- V. -/
def pteV (e : Nat) : Bool := e.testBit 0
/-- PFN. -/
def ptePfn (e : Nat) : Nat := bitField e 51 12
/-- MV. -/
def pteMv (e : Nat) : Bool := e.testBit 54
/-- PN. -/
def ptePn (e : Nat) : Bool := e.testBit 52
/-- FT. -/
def pteFt (e : Nat) : Bool := e.testBit 53
/-- C64. -/
def pteC64 (e : Nat) : Bool := e.testBit 8
/-- TH. -/
def pteTh (e : Nat) : Nat := bitField e 63 62
/-- STK. -/
def pteStk (e : Nat) : Nat := bitField e 61 59
/-- MREC. -/
def pteMrec (e : Nat) : Nat := bitField e 63 55

/-- Replace a field of an entry. -/
def pteSet (e hi lo v : Nat) : Nat := e - bitField e hi lo * 2 ^ lo + v % 2 ^ (hi + 1 - lo) * 2 ^ lo

/-- A valid entry is a leaf at its level (R94). -/
def pteLeaf (level e : Nat) : Bool := level == 1 || (e.testBit 7 && decide (level ≤ 3))

/-- A reserved or misused bit in a valid entry (R94, R95). -/
def pteBad (level e : Nat) : Bool :=
  if pteLeaf level e then
    bitField e 11 9 != 0 || e.testBit 1 || (!pteMv e && bitField e 58 55 != 0) || (level == 1 && e.testBit 7) ||
      (level != 1 && pteC64 e) || (level == 2 && bitField e 20 12 != 0) || (level == 3 && bitField e 29 12 != 0)
  else bitField e 63 52 != 0 || bitField e 11 6 != 0 || bitField e 4 1 != 0

/-- A first-touch placeholder as R96 requires: FT at level 1 with PFN, A, D, PN, MV and C64 zero. -/
def pteHolder (e : Nat) : Bool :=
  !pteV e && pteFt e && ptePfn e == 0 && !e.testBit 5 && !e.testBit 6 && !ptePn e && !pteMv e && !pteC64 e

/-- The index of an address at a level, with every bit of VA[56:0] above it (R85, R93). -/
def vaIndex (va level : Nat) : Nat := va % 2 ^ 57 / 2 ^ (12 + 9 * (level - 1))

/-- The 4 KiB page number of an address, VA[56:12]: bits [63:57] take part in no lookup (R85). -/
def vaPage (va : Nat) : Nat := va % 2 ^ 57 / 4096

/-- The canonical address with the low 57 bits of `va`: bits [63:57] copy bit 56 (R85). -/
def canonVa (va : Nat) : Nat := let v := va % 2 ^ 57; if 2 ^ 56 ≤ v then 2 ^ 64 - 2 ^ 57 + v else v

/-- The physical address of the entry that an address indexes in a table. -/
def entryAddr (frame va level : Nat) : Nat := frame * 4096 + vaIndex va level % 512 * 8

/-- A translated size in log2 4 KiB pages: 4 KiB, 64 KiB, 2 MiB or 1 GiB (R94, R97). -/
def leafBits (level e : Nat) : Nat :=
  if level = 1 then (if pteC64 e then 4 else 0) else if level = 2 then 9 else 18

/-- The physical address that a leaf gives (R94, R97). -/
def leafPa (level e va : Nat) : Nat :=
  let b := 12 + leafBits level e
  ptePfn e * 4096 / 2 ^ b * 2 ^ b + va % 2 ^ b

/-! ### Walks -/

/-- How a walk ended: the level, address and value of the last entry read, the valid non-leaf entries walked on the way,
and the PageFault reason where it found no good leaf (R106). -/
structure Walk where
  level : Nat
  ea : Nat
  entry : Nat
  path : List (Nat × Nat × Nat)
  bad : Option Nat
  deriving DecidableEq, Repr

/-- Walk from a table frame at a level down. `path` lists (level, entry address, entry). -/
def walkFrom (s : State) (va : Nat) : Nat → Nat → List (Nat × Nat × Nat) → Walk
  | 0, _, path => ⟨1, 0, 0, path, some 1⟩
  | n + 1, frame, path =>
    let level := n + 1
    let ea := entryAddr frame va level
    let e := physQuad s ea
    if !pteV e then ⟨level, ea, e, path, some (if level = 1 ∧ pteFt e then 2 else 1)⟩
    else if pteBad level e then ⟨level, ea, e, path, some 3⟩
    else if pteLeaf level e then ⟨level, ea, e, path, none⟩
    else walkFrom s va n (ptePfn e) (path ++ [(level, ea, e)])

/-- A full walk in a context, from the tables alone; a context without a root has nothing present. -/
def walkTables (s : State) (ctx va : Nat) : Walk :=
  match ctxRoot s ctx with
  | some f => walkFrom s va 5 f []
  | none => ⟨5, 0, 0, [], some 1⟩

/-- The deepest walk-cache entry that covers an address (R100). A demand walk passes by one with A = 0, which a prefetch has left: it sets A on
every level that it first translates through (R99). -/
def walkCached (s : State) (demand : Bool) (die ctx va : Nat) : Option WalkEntry :=
  [2, 3, 4, 5].findSome? (fun l =>
    s.walk.find? (fun w => w.die == die && w.ctx == ctx && w.level == l && w.idx == vaIndex va l && (!demand || w.entry.getLsbD 5)))

/-- A walk as a die's walker makes it: from the walk cache where it may (R100, R103). -/
def walkDie (s : State) (demand : Bool) (die ctx va : Nat) (cached : Bool) : Walk :=
  match walkCached s demand die ctx va with
  | some w => if cached then walkFrom s va (w.level - 1) (ptePfn w.entry.toNat) [] else walkTables s ctx va
  | none => walkTables s ctx va

/-! ### Translation -/

/-- Who translates: a core through its L1 TLB, or an engine of a die through the L2 TLB alone (R206). -/
structure Xagent where
  core : Option Nat
  die : Nat
  ctx : Nat
  sup : Bool
  deriving DecidableEq, Repr

/-- A translation: the fault it meets (cause and reason), or the physical address and the leaf it came from. -/
structure Xlat where
  fault : Option (Nat × Nat)
  pa : Nat
  level : Nat
  leaf : Nat
  walk : Option Walk
  deriving DecidableEq, Repr

/-- Cause codes used here (R400). -/
def causePageFault : Nat := 8
/-- Protection (R400). -/
def causeProtection : Nat := 9

/-- The TLB entry that an agent's lookup finds (R100). -/
def tlbFind (s : State) (x : Xagent) (va : Nat) : Option TlbEntry :=
  s.tlb.find? (fun t =>
    t.ctx == x.ctx && decide (t.page ≤ vaPage va) && decide (vaPage va < t.page + 2 ^ t.bits) &&
      ((!t.l2 && x.core == some t.place) || (t.l2 && t.place == x.die)))

/-- The permission that an access breaches (R98): reasons 0x08, 0x09 and 0x0A. An access that breaches both its own and S reports its own: the
spec orders the reasons nowhere. DESIGN CHOICE, log entry 99. -/
def permFault (kind : AccKindF) (sup : Bool) (e : Nat) : Option Nat :=
  if (kind = .write ∨ kind = .atomic) ∧ !e.testBit 2 then some 8
  else if kind = .fetch ∧ !e.testBit 3 then some 9
  else if !sup ∧ e.testBit 4 then some 10 else none

/-- The outcome of a walk for an access. -/
def xlatWalk (kind : AccKindF) (sup : Bool) (va : Nat) (w : Walk) : Xlat :=
  match w.bad with
  | some r => ⟨some (causePageFault, r), 0, w.level, w.entry, some w⟩
  | none =>
    match permFault kind sup w.entry with
    | some r => ⟨some (causeProtection, r), 0, w.level, w.entry, some w⟩
    | none => ⟨none, leafPa w.level w.entry va, w.level, w.entry, some w⟩

/-- Translate an address for a demand access (`demand`) or a prefetch (R98 to R103). Where a TLB holds an entry, either it or the
tables may serve, until a TLBINV (`pick` decides: log entry 3); a write or atomic through an entry with D = 0 always walks afresh, and so
does a demand access through one with A = 0, which a prefetch has installed (R99). -/
def xlateAs (demand : Bool) (s : State) (x : Xagent) (va : Nat) (kind : AccKindF) (pick : Bool) : Xlat :=
  let write := decide (kind = .write ∨ kind = .atomic)
  match tlbFind s x va with
  | some t =>
    let e := t.leaf.toNat
    if !pick ∨ (write ∧ !e.testBit 6) ∨ (demand ∧ !e.testBit 5) then xlatWalk kind x.sup va (walkDie s demand x.die x.ctx va pick)
    else
      match permFault kind x.sup e with
      | some r => ⟨some (causeProtection, r), 0, t.level, e, none⟩
      | none => ⟨none, leafPa t.level e va, t.level, e, none⟩
  | none => xlatWalk kind x.sup va (walkDie s demand x.die x.ctx va pick)

/-- Translate a demand access. -/
def xlate (s : State) (x : Xagent) (va : Nat) (kind : AccKindF) (pick : Bool) : Xlat := xlateAs true s x va kind pick

/-- Set bits of an entry with an atomic OR at its home, an ordinary atomic of agent `ag` (R99, R330). -/
def orEntry (s : State) (ag ea bits : Nat) : State :=
  let e := physQuad s ea
  if e ||| bits = e then s else homeWrite s ag ea (leBytes 8 (e ||| bits))

/-- Write an entry at its home, as agent `ag`. -/
def writeEntry (s : State) (ag ea e : Nat) : State := homeWrite s ag ea (leBytes 8 e)

/-- The A bits that a demand walk of a die's walkers sets on the table levels it walked (R99, R104). -/
def markPath (s : State) (die : Nat) (w : Walk) : State := w.path.foldl (fun s e => orEntry s (walkerNo die) e.2.1 32) s

/-- The addresses of the entries that a walk reads. -/
def walkReads (w : Walk) : List Nat := w.path.map (fun e => e.2.1) ++ [w.ea]

/-- A walker that reads a poisoned table line meets a fatal error (R411). -/
def walkPoison (s : State) (w : Walk) : Option Nat :=
  (walkReads w).find? (fun ea => physPoison s ea 8)

/-- The traffic of a walk that agent `ag` makes, through the Jigsaw and its controller (R100, R411). Table lines of `had` are being fetched by
another walker already: the walk takes no second read of them (R101). -/
def walkBy (s : State) (ag : Nat) (had : List Nat) (w : Walk) : State :=
  let s := (walkReads w).foldl (fun s ea =>
    if had.contains (ea / 256) then s else homeRead s ag ea 8 true false) s
  match walkPoison s w with
  | some ea => fatalError s ⟨ea, noOwner, 8, 0, 2, 3, 0⟩
  | none => s

/-- The traffic of a walk of a die's walkers. -/
def walkTraffic (s : State) (die : Nat) (had : List Nat) (w : Walk) : State := walkBy s (walkerNo die) had w

/-- Keep the newest `n` of the entries that satisfy `p`: a full TLB, TLB set or walk cache gives up its oldest entry. The spec names no
replacement (R100): DESIGN CHOICE, log entry 85. -/
def keepNewest {α : Type} (n : Nat) (p : α → Bool) (l : List α) : List α :=
  let extra := (l.filter p).length - n
  (l.foldl (fun (acc : List α × Nat) e => if p e ∧ acc.2 < extra then (acc.1, acc.2 + 1) else (acc.1 ++ [e], acc.2))
    (([] : List α), 0)).1

/-- The set of an entry in a die's L2 TLB of 2,048 sets of 8 ways (R100). The index is DESIGN CHOICE, log entry 85. -/
def l2Set (t : TlbEntry) : Nat := t.page / 2 ^ t.bits % 2048

/-- Install a leaf in the TLBs, and the non-leaf entries of its walk in the walk cache (R100). -/
def xlInstall (s : State) (x : Xagent) (va : Nat) (level leaf : Nat) (path : List (Nat × Nat × Nat)) : State :=
  let b := leafBits level leaf
  let page := vaPage va / 2 ^ b * 2 ^ b
  let ent (l2 : Bool) (place : Nat) : TlbEntry := ⟨l2, place, x.ctx, page, b, BitVec.ofNat 64 leaf, level⟩
  let old := s.tlb.filter (fun t => !(t.ctx == x.ctx && t.page == page && t.bits == b &&
    ((!t.l2 && x.core == some t.place) || (t.l2 && t.place == x.die))))
  let t := match x.core with
    | some c => keepNewest 384 (fun t => !t.l2 && t.place == c) (old ++ [ent false c])
    | none => old
  let t := keepNewest 8 (fun t => t.l2 && t.place == x.die && l2Set t == l2Set (ent true x.die)) (t ++ [ent true x.die])
  let w := path.foldl (fun ws e =>
    (ws.filter (fun w => !(w.die == x.die && w.ctx == x.ctx && w.level == e.1 && w.idx == vaIndex va e.1))) ++
      [(⟨x.die, x.ctx, e.1, vaIndex va e.1, BitVec.ofNat 64 e.2.2⟩ : WalkEntry)]) s.walk
  { s with tlb := t, walk := keepNewest 1024 (fun w => w.die == x.die) w }

/-- The leaf of a demand walk: A, with D before a write, and the TLB fills, whose non-leaf entries have A by now (R99, R100). -/
def xlLeaf (s : State) (x : Xagent) (va : Nat) (kind : AccKindF) (w : Walk) : State :=
  let bits := if kind = .write ∨ kind = .atomic then 96 else 32
  xlInstall (orEntry s (walkerNo x.die) w.ea bits) x va w.level (w.entry ||| bits) (w.path.map (fun e => (e.1, e.2.1, e.2.2 ||| 32)))

/-- The effects of a demand translation that a whole instruction's checks have passed: A on every level walked and on the
leaf, D before a write, and the TLB fills (R99, R100). -/
def xlCommit (s : State) (x : Xagent) (va : Nat) (kind : AccKindF) (t : Xlat) : State :=
  match t.walk with
  | none => s
  | some w =>
    let s := markPath (walkTraffic s x.die [] w) x.die w
    xlLeaf s x va kind w

/-- The effects of a demand translation one of whose table lines other walkers of the die are fetching (R101). -/
def xlMerged (s : State) (x : Xagent) (va : Nat) (kind : AccKindF) (had : List Nat) (w : Walk) : State :=
  xlLeaf (markPath (walkTraffic s x.die had w) x.die w) x va kind w

/-- Misses in arrival order, walked at most 32 at once (R101): `walk` is one walk beside those that are fetching the table lines of its
list. A miss that waits and whose leaf another walk has installed is served from the L2 TLB, and walks otherwise. A walk is over
within the step, so no walker is taken between steps. -/
def walkGroups (x : Xagent) (walk : State → List Nat → Nat × Walk → State) : Nat → List (Nat × Walk) → State → State
  | 0, _, s => s
  | n + 1, ws, s =>
    match ws with
    | [] => s
    | _ =>
      let s := ((ws.take 32).foldl (fun (acc : State × List Nat) e =>
        (walk acc.1 acc.2 e, acc.2 ++ (walkReads e.2).map (fun a => a / 256))) (s, ([] : List Nat))).1
      walkGroups x walk n ((ws.drop 32).filter (fun e => (tlbFind s { x with core := none } e.1).isNone)) s

/-- The misses of one access go to the walkers together (R100, R101). -/
def xlWalks (x : Xagent) (kind : AccKindF) (n : Nat) (ws : List (Nat × Walk)) (s : State) : State :=
  walkGroups x (fun s had e => xlMerged s x e.1 kind had e.2) n ws s

/-- The walks of some translations, with their addresses. -/
def walksOf (ts : List (Nat × Xlat)) : List (Nat × Walk) := ts.filterMap (fun t => t.2.walk.map (fun w => (t.1, w)))

/-- The effects of the demand translations of one instruction (R99 to R101). -/
def xlCommits (s : State) (x : Xagent) (kind : AccKindF) (ts : List (Nat × Xlat)) : State :=
  xlWalks x kind (walksOf ts).length (walksOf ts) s

/-- What the translations of one instruction leave where one of them has faulted: the traffic of the walks and the A bits of the levels walked
(R101, R104). -/
def xlFaults (s : State) (x : Xagent) (ts : List (Nat × Xlat)) : State :=
  walkGroups x (fun s had e => markPath (walkTraffic s x.die had e.2) x.die e.2) (walksOf ts).length (walksOf ts) s

/-- What a translation that faulted leaves: the traffic and the A bits of the levels walked before the fault (R104). -/
def xlFaulted (s : State) (die : Nat) (t : Xlat) : State :=
  match t.walk with
  | none => s
  | some w => markPath (walkTraffic s die [] w) die w

/-- The effects of a prefetch translation: no A, no D (R113). -/
def xlPrefetch (s : State) (x : Xagent) (va : Nat) (t : Xlat) : State :=
  match t.walk with
  | none => s
  | some w => xlInstall (walkTraffic s x.die [] w) x va w.level w.entry w.path

/-! ### Invalidation (R114, R117) -/

/-- Whether an invalidation's scope names a context. -/
def invCtx : InvScope → Nat → Bool
  | .pages c _ _, d => c == d
  | .context c, d => c == d
  | .all, _ => true

/-- Whether an invalidation drops the leaf of a context that covers 2^`bits` pages from `page`. -/
def invLeaf (v : InvScope) (ctx page bits : Nat) : Bool :=
  match v with
  | .pages c p n => ctx == c && decide (page < p + n) && decide (p < page + 2 ^ bits)
  | v => invCtx v ctx

/-- Whether an invalidation drops a TLB entry. -/
def invHits (v : InvScope) (t : TlbEntry) : Bool := invLeaf v t.ctx t.page t.bits

/-- Drop the matching leaves, and every walk-cache entry of the contexts named. -/
def invalidate (s : State) (v : InvScope) : State :=
  { s with tlb := s.tlb.filter (fun t => !invHits v t), walk := s.walk.filter (fun w => !invCtx v w.ctx) }

/-- The pieces of a matrix command. -/
def workPieces : MxWork → List MxPiece
  | .obld _ ps => ps.map (fun p => p.1)
  | .obldRec _ ps => ps.map (fun p => p.1)
  | .acldMem _ _ ps => ps
  | .acstMem _ _ ps => ps
  | _ => []

/-- A queued matrix command whose operation is older than `before` has translated through a leaf that an invalidation drops, and has not
made its accesses yet: the invalidation waits for it (R114, R312). Every other access of the model takes its logical time in the
step that translates it. -/
def stillUsed (s : State) (v : InvScope) (before : Nat) : Bool :=
  s.mx.queue.any (fun c => decide (c.op < before) && (workPieces c.work).any (fun p => !p.scratch && invLeaf v c.ctx p.page p.bits))

end Sys2Proof.Machine
end

