-- ==== Sys2Proof/Machine/Access.lean ====
section
/-! DEFINITION. Memory accesses of gangs: apertures, the check order of R104, translation of every lane, the L1, heat
and footprints, and the reads and writes themselves (R85 to R91, R104, R105, R118, R119, R127, R176 to R184, R189, R333,
R415, R417). -/

namespace Sys2Proof.Machine

/-! ### Descriptors -/

/-- BASE (R232). -/
def descBase (a : BitVec 128) : Nat := bitField a.toNat 63 0
/-- EXTENT. -/
def descExtent (a : BitVec 128) : Nat := bitField a.toNat 95 64
/-- TID. -/
def descTid (a : BitVec 128) : Nat := bitField a.toNat 111 96
/-- ES. -/
def descEs (a : BitVec 128) : Nat := bitField a.toNat 114 112
/-- CM: trap mode. -/
def descTrap (a : BitVec 128) : Bool := bitField a.toNat 115 115 == 1
/-- OVR. -/
def descOvr (a : BitVec 128) : Nat := bitField a.toNat 117 116
/-- The attribute word, bits [127:96]. -/
def descAttr (a : BitVec 128) : Nat := bitField a.toNat 127 96
/-- Element size in bytes; 0 where ES is invalid. -/
def descBytes (a : BitVec 128) : Nat := if descEs a ≤ 3 then 2 ^ descEs a else 0

/-- ElemAddr: the generic address of an element, modulo 2^64. -/
def elemAddr (a : BitVec 128) (idx : Int) : Nat :=
  (((descBase a : Int) + idx * descBytes a) % 18446744073709551616).toNat

/-! ### Apertures -/

/-- Where an element goes (R86, R90). -/
inductive Target where
  /-- Global: virtual addresses and lengths; a lane-stack element has one piece a word (R89). -/
  | glob (pieces : List (Nat × Nat))
  | scratch (off : Nat)
  | bank (off : Nat)
  deriving DecidableEq, Repr

/-- A canonical generic address (R85). -/
def canonical (a : Nat) : Bool := a / 2 ^ 56 == 0 || a / 2 ^ 56 == 255

/-- What the apertures need of a gang and its context. -/
structure ApCtx where
  apVa : Nat
  lsBase : Nat
  lsCfg : Nat
  lsBlk : Nat
  bkwin : Nat
  /-- W, the declared width (R89, R418). -/
  width : Nat
  /-- The team's scratchpad: its first byte on the core and its size. -/
  scrBase : Nat
  scrSize : Nat
  core : Nat
  deriving DecidableEq, Repr

/-- LSBYTES (R89). -/
def lsBytes (p : ApCtx) : Nat := 16 * (p.lsCfg % 2 ^ 20)
/-- DSDEPTH (R89). -/
def dsDepth (p : ApCtx) : Nat := 16 * bitField p.lsCfg 31 24
/-- The gang's lane-stack block (R89). -/
def lsBlock (p : ApCtx) : Nat := p.lsBase * 2 ^ 25 + p.lsBlk % 2 ^ 16 * (16 * dsDepth p + p.width * lsBytes p)

/-- The global address of byte `o` of a lane's stack (R89). -/
def laneStackVa (p : ApCtx) (lane o : Nat) : Nat :=
  lsBlock p + 16 * dsDepth p + o / 4 * (4 * p.width) + 4 * lane + o % 4

/-- A bank-memory offset's unit may be used (R88). -/
def bankUnitOk (p : ApCtx) (off : Nat) : Bool :=
  let u := off / 65536
  decide (bitField p.bkwin 9 0 ≤ u) && decide (u ≤ bitField p.bkwin 25 16) && decide (u % 128 < 122)

/-- The word pieces of an aligned lane-stack range (R89). -/
def stackPieces (p : ApCtx) (lane o n : Nat) : List (Nat × Nat) :=
  if n ≤ 4 then [(laneStackVa p lane o, n)] else (List.range (n / 4)).map (fun i => (laneStackVa p lane (o + 4 * i), 4))

/-- The team with an identifier. -/
def teamById (s : State) (id : Nat) : Option Team := s.teams.find? (fun t => t.id == id)

/-- The launch with an identifier. -/
def launchById (s : State) (id : Nat) : Option Launch := s.launches.find? (fun l => l.id == id)

/-- Update a launch. -/
def onLaunch (s : State) (id : Nat) (f : Launch → Launch) : State :=
  { s with launches := listUpdate (fun l => l.id == id) f s.launches }

/-- A byte of a launch's packet, as a number of `n` bytes (R382). -/
def pktNat (l : Launch) (o n : Nat) : Nat := leNat ((l.pkt.drop o).take n)

/-- A MODE bit of a launch (R382): 0 HAZ, 1 PROT, 2 REPL, 3 CAPT, 4 CORES. -/
def launchMode (l : Launch) (b : Nat) : Bool := (pktNat l 31 1).testBit b

/-- What the apertures need of the gang at hand. -/
def apCtx (s : State) : ApCtx :=
  let g := s.gang
  let t := teamById s g.team
  { apVa := g.apbase.toNat % 2 ^ 17, lsBase := g.lsbase.toNat, lsCfg := g.lscfg.toNat, lsBlk := g.lsblk.toNat,
    bkwin := g.bkwin.toNat, width := g.declared,
    scrBase := (match t with | some t => t.scrBase * 4096 | none => 0),
    scrSize := (match t with | some t => t.scrGranules * 4096 | none => 0), core := g.core }

/-- Whether an address lies in the aperture area (R86). -/
def inArea (p : ApCtx) (a : Nat) : Bool := a % 2 ^ 57 / 2 ^ 40 == p.apVa

/-- Where `n` bytes at a generic address go, or the Protection reason (R85 to R91). Under an override that names the scratchpad or bank
memory, an element that starts inside and runs past the end gives 0x0C, not R91's 0x0D for an element that straddles an
aperture: DESIGN CHOICE, log entry 86. -/
def resolve (p : ApCtx) (ovr a n lane : Nat) : Except Nat Target :=
  if ovr = 2 then
    if a < 2 ^ 19 ∧ a + n ≤ p.scrSize then .ok (.scratch a) else .error 0x0C
  else if ovr = 3 then
    if a + n ≤ 2 ^ 26 ∧ bankUnitOk p a ∧ bankUnitOk p (a + n - 1) then .ok (.bank a) else .error 0x0C
  else if !canonical a then .error 0x0B
  else if ovr = 1 then .ok (.glob [(a, n)])
  else if !inArea p a then
    (if n = 0 ∨ !inArea p (a + n - 1) then .ok (.glob [(a, n)]) else .error 0x0D)
  else
    let o := a % 2 ^ 40
    let last := o + n - 1
    if o < 2 ^ 19 then
      (if 2 ^ 19 ≤ last then .error 0x0D else if last < p.scrSize then .ok (.scratch o) else .error 0x0C)
    else if 2 ^ 32 ≤ o ∧ o < 2 ^ 32 + 2 ^ 26 then
      (if 2 ^ 32 + 2 ^ 26 ≤ last then .error 0x0D
       else if bankUnitOk p (o - 2 ^ 32) ∧ bankUnitOk p (last - 2 ^ 32) then .ok (.bank (o - 2 ^ 32)) else .error 0x0C)
    else if 2 ^ 39 ≤ o then
      (if 2 ^ 40 ≤ last then .error 0x0D
       else if last - 2 ^ 39 < lsBytes p then .ok (.glob (stackPieces p lane (o - 2 ^ 39) n)) else .error 0x0C)
    else .error 0x0D

/-! ### Traps of an access -/

/-- A trap to take (R400, R402): cause, reason, FADDR, faulting lanes and their fault state (R105). -/
structure Trap where
  cause : Nat
  reason : Nat
  faddr : Nat
  lanes : LaneMask
  recs : List LaneFault
  deriving DecidableEq, Repr

/-- A trap with the arm's whole mask as its faulting lanes and no lane fault state. -/
def plainTrap (g : Gang) (cause reason faddr : Nat) : Trap := ⟨cause, reason, faddr, g.arm.mask, []⟩

/-- A Protection or PageFault of the arm itself: its whole mask is the faulting lanes, and each holds the fault state (R105, R107). -/
def armTrap (g : Gang) (cause reason va : Nat) (kind : AccKindF) : Trap :=
  ⟨cause, reason, va, g.arm.mask, (laneList g.arm.mask).map (fun l => ⟨l, BitVec.ofNat 64 va, kind, reason⟩)⟩

/-- Misaligned (R400). -/
def causeMisaligned : Nat := 7

/-- One element of an access: its lane, generic address and size. -/
structure Elem where
  lane : Nat
  addr : Nat
  n : Nat
  deriving DecidableEq, Repr

/-- One translated piece of an element. -/
structure Piece where
  lane : Nat
  va : Nat
  n : Nat
  x : Xlat
  deriving DecidableEq, Repr

/-- An element that passed its checks. -/
structure Checked where
  el : Elem
  target : Target
  pieces : List Piece
  deriving DecidableEq, Repr

/-- The translating agent of the executing arm (R98, R404). -/
def armAgent (s : State) : Xagent := ⟨some s.gang.core, s.gang.core / 96, s.gang.ctx, s.gang.arm.sup⟩

/-- Whether this step's accesses of a lane may use cached translations (R103): log entry 3. -/
def pickCached (s : State) (lane : Nat) : Bool := Config.useCached (s.tick * 128 + lane)

/-- Translate the pieces of a target. -/
def xlatePieces (s : State) (x : Xagent) (kind : AccKindF) (lane : Nat) : Target → List Piece
  | .glob ps => ps.map (fun p => ⟨lane, p.1, p.2, xlate s x p.1 kind (pickCached s lane)⟩)
  | _ => []

/-- The trap of the lanes that raised one cause: FADDR and the reason are the lowest lane's (R105). -/
def laneTrap (cause : Nat) (kind : AccKindF) (bad : List (Nat × Nat × Nat)) : Option Trap :=
  match bad with
  | [] => none
  | (_, a, r) :: _ =>
    some ⟨cause, r, a, lanesMask (bad.map (fun b => b.1)),
      bad.map (fun b => ⟨b.1, BitVec.ofNat 64 b.2.1, kind, b.2.2⟩)⟩

/-- Step 2 of R104: the lanes whose address breaches the apertures, with their reasons. -/
def apertureFaults (p : ApCtx) (ovr : Nat) (els : List Elem) : List (Nat × Nat × Nat) :=
  els.filterMap (fun e => match resolve p ovr e.addr e.n e.lane with | .error r => some (e.lane, e.addr, r) | .ok _ => none)

/-- Step 3 of R104: the lanes whose address is no multiple of the element size, or of `align`. -/
def misaligned (align : Nat) (els : List Elem) : List (Nat × Nat × Nat) :=
  els.filterMap (fun e => if e.addr % align = 0 then none else some (e.lane, e.addr, 0))

/-- The checked elements, targets resolved and translated. -/
def checkedOf (s : State) (x : Xagent) (p : ApCtx) (ovr : Nat) (kind : AccKindF) (els : List Elem) : List Checked :=
  els.filterMap (fun e => match resolve p ovr e.addr e.n e.lane with
    | .ok t => some ⟨e, t, xlatePieces s x kind e.lane t⟩
    | .error _ => none)

/-- Step 4 of R104: the lanes whose translation meets a cause. -/
def xlatFaults (cause : Nat) (cs : List Checked) : List (Nat × Nat × Nat) :=
  cs.filterMap (fun c => c.pieces.findSome? (fun q =>
    match q.x.fault with | some (k, r) => if k = cause then some (c.el.lane, q.va, r) else none | none => none))

/-- The checks of R104 steps 2 to 4 over the elements of one instruction, in order. -/
def checkAccess (s : State) (x : Xagent) (p : ApCtx) (ovr align : Nat) (kind : AccKindF) (els : List Elem) :
    Except Trap (List Checked) :=
  match laneTrap causeProtection kind (apertureFaults p ovr els) with
  | some t => .error t
  | none =>
    match laneTrap causeMisaligned kind (misaligned align els) with
    | some t => .error t
    | none =>
      let cs := checkedOf s x p ovr kind els
      match laneTrap causePageFault kind (xlatFaults causePageFault cs) with
      | some t => .error t
      | none =>
        match laneTrap causeProtection kind (xlatFaults causeProtection cs) with
        | some t => .error t
        | none => .ok cs

/-- What the translations of a faulting instruction leave behind (R104). -/
def faultMarks (s : State) (x : Xagent) (p : ApCtx) (ovr align : Nat) (kind : AccKindF) (els : List Elem) : State :=
  if (apertureFaults p ovr els).isEmpty && (misaligned align els).isEmpty then
    xlFaults s x ((checkedOf s x p ovr kind els).flatMap (fun c => c.pieces.map (fun q => (q.va, q.x))))
  else s

/-- Commit the translations of an instruction that passed its checks: its misses go to the walkers together (R101). -/
def commitXlat (s : State) (x : Xagent) (kind : AccKindF) (cs : List Checked) : State :=
  xlCommits s x kind (cs.flatMap (fun c => c.pieces.map (fun q => (q.va, q.x))))

/-! ### Replay snapshots and capture -/

/-- The replayable launches that keep snapshots for a launch: itself and its ancestors with MODE.REPL (R415). -/
def replayOwners (s : State) : Nat → Nat → List Launch
  | 0, _ => []
  | n + 1, id =>
    match launchById s id with
    | none => []
    | some l =>
      (if launchMode l 2 then [l] else []) ++
        (match l.parent with
         | some (_, pl) => replayOwners s n pl
         | none => [])

/-- The most launches from a forked one up to its root: the fork depth is at most 16 (R393). -/
def forkFuel : Nat := 17

/-- Bytes of a context's save area that are taken: 4 MiB a team, and the snapshots (R384, R415). -/
def saveUsed (s : State) (ctx : Nat) : Nat :=
  4194304 * (s.teams.filter (fun t => t.ctx == ctx)).length +
    (s.launches.filter (fun l => l.ctx == ctx)).foldl (fun n l => n + 4096 * (l.snaps.length + l.bankSnaps.length)) 0

/-- The frame address that names a page: the destination's once a move of it has closed (R130). -/
def pageKey (s : State) (pa : Nat) : Nat :=
  match movingAt s pa with
  | some m => if m.st = .closing then m.dst * 4096 + (pa / 4096 * 4096 - m.src * 4096) else pa / 4096 * 4096
  | none => pa / 4096 * 4096

/-- The bytes of a 4 KiB page as its controllers read it at its home (R60, R73), or of a unit of bank memory. -/
def pageImage (s : State) (bank : Bool) (a : Nat) : List Byte × State :=
  if bank then (cellsRead s.mem.bank a 4096, touchUnit s false a 4096)
  else
    let t := (List.range 16).foldl (fun s i => touchRead s (a + 256 * i) 256) s
    ((List.range 16).flatMap (fun i => physBytes t (a + 256 * i) 256), t)

/-- One launch's snapshot of a page or bank unit, before its first write (R415). -/
def snapOne (s : State) (bank : Bool) (page a : Nat) (l : Launch) : State :=
  if l.noReplay ∨ (if bank then l.bankSnaps else l.snaps).any (fun x => x.pa == page) then s
  else if saveUsed s l.ctx + 4096 ≤ (ctxSave s l.ctx).2 then
    let r := pageImage s bank a
    let pre : Snapshot := ⟨page, r.1⟩
    onLaunch r.2 l.id (fun l => if bank then { l with bankSnaps := l.bankSnaps ++ [pre] } else { l with snaps := l.snaps ++ [pre] })
  else mmCount (onLaunch s l.id (fun l => { l with noReplay := true })) replLost 1

/-- Before the first write to a page or bank unit of a replayable launch, its contents are copied (R415). `bank` takes
the address as an offset of bank memory. -/
def snapshot (s : State) (launch : Nat) (bank : Bool) (a : Nat) : State :=
  let page := a / 4096 * 4096
  (replayOwners s forkFuel launch).foldl (fun s l => snapOne s bank (if bank then page else pageKey s page) page l) s

/-- A move has closed: snapshots and capture marks of its page go by the destination's frames. -/
def rekeyPages (s : State) (src dst frames : Nat) : State :=
  let move (k : Nat) : Nat := if src ≤ k ∧ k < src + frames then dst + (k - src) else k
  { s with launches := s.launches.map (fun l =>
    { l with snaps := l.snaps.map (fun x => { x with pa := move (x.pa / 4096) * 4096 })
             captured := (l.captured.map (fun k => if k < 2 ^ 59 then move k else k)).foldl nsetInsert [] }) }

/-- Append a capture record (R417): header, payload and padding to 64 bytes; CAPCTL.FULL where it does not fit. -/
def captureRecord (s : State) (l : Launch) (addr kind : Nat) (payload : List Byte) : State :=
  let total := (32 + payload.length + 63) / 64 * 64
  let head := mmGet s capHead
  if mmField s capCtl 0 0 = 0 ∨ mmField s capCtl 1 1 = 1 then s
  else if mmField s capCtl 63 32 * 4096 < head + total then mmPutField s capCtl 1 1 1
  else
    let bs := leBytes 8 addr ++ leBytes 4 payload.length ++ leBytes 1 kind ++ leBytes 3 0 ++ leBytes 8 (pktNat l 64 8) ++
      leBytes 8 s.time ++ payload
    let bs := bs ++ List.replicate (total - bs.length) 0
    let base := mmField s capBase 51 12 * 4096 + head
    let s := (List.range ((bs.length + 255) / 256)).foldl
      (fun s i => physWrite s (base + 256 * i) ((bs.drop (256 * i)).take 256)) s
    mmCount s capHead total

/-- The first access of a capture launch to a 4 KiB page, or 4 KiB unit of bank memory (log entry 70), writes its pre-image (R417); a
replay adds none (R427). -/
def captureTouch (s : State) (launch : Nat) (bank : Bool) (a va : Nat) : State :=
  match launchById s launch with
  | none => s
  | some l =>
    let key := if bank then 2 ^ 60 + a / 4096 else pageKey s a / 4096
    if !launchMode l 3 ∨ l.replays ≠ 0 ∨ l.captured.contains key then s
    else
      let s := onLaunch s launch (fun l => { l with captured := nsetInsert l.captured key })
      let r := pageImage s bank (a / 4096 * 4096)
      captureRecord r.2 l (if bank then a / 4096 * 4096 else va / 4096 * 4096) (if bank then 4 else 3) r.1

/-! ### Bank memory and the scratchpad -/

/-- The key of a scratchpad byte in `Mem.scratch`: `off` is an offset within the core's 512 KiB. -/
def scrKey (core off : Nat) : Nat := core * 2 ^ 19 + off

/-- Read scratchpad bytes of a core: the bytes and whether a word of them is poisoned. -/
def scrRead (s : State) (core off n : Nat) : List Byte × Bool :=
  let k := scrKey core off
  (cellsRead s.mem.scratch k n, (List.range n).any (fun i => s.mem.scratchPoison.contains ((k + i) / 8)))

/-- Write scratchpad bytes; a write that covers a whole word clears its poison. -/
def scrWrite (s : State) (core off : Nat) (bs : List Byte) : State :=
  let k := scrKey core off
  let s := touchUnit s true k bs.length
  { s with mem := { s.mem with scratch := cellsWrite s.mem.scratch k bs,
                               scratchPoison := healed 8 s.mem.scratchPoison k bs.length } }

/-- Read bytes of bank memory. -/
def bankRead (s : State) (off n : Nat) : List Byte × Bool :=
  (cellsRead s.mem.bank off n, (List.range n).any (fun i => s.mem.bankPoison.contains ((off + i) / 8)))

/-- Write bytes of bank memory. -/
def bankWrite (s : State) (off : Nat) (bs : List Byte) : State :=
  let s := touchUnit s false off bs.length
  { s with mem := { s.mem with bank := cellsWrite s.mem.bank off bs, bankPoison := healed 8 s.mem.bankPoison off bs.length } }

/-! ### The L1 and the stamps of a line -/

/-- How an access meets the L1 (R179, R190): through it with a hint, or at the home. -/
inductive L1Mode where
  | cached (hn : Hint)
  | bypass
  deriving DecidableEq, Repr

/-- The victim of a full set: the least recently used line that is not reserved, and for a `.strm` fill not kept; of those that entered in the
least recently used place, the last. -/
def l1Victim (ls : List L1Line) (strm : Bool) : Option L1Line :=
  (ls.filter (fun l => l.reserved.isEmpty && !(strm && l.keep))).foldl (fun (b : Option L1Line) l => match b with
    | none => some l
    | some v => if l.lru ≤ v.lru then some l else some v) none

/-- A core's L1 has a way for a line: it holds the line, its set has room, or a victim leaves, written back (R178, R179). 128 sets
of 8 ways; the set is (line mod 128): DESIGN CHOICE, log entry 7. -/
def l1Room (s : State) (core pa : Nat) (hn : Hint) : Option State :=
  let set := s.caches.l1.filter (fun x => x.core == core && x.pa % 128 == pa / 256 % 128)
  if set.any (fun x => x.pa == pa / 256) || decide (set.length < 8) then some s
  else (l1Victim set (hn = .streaming)).map (fun v => l1Drop s core (v.pa * 256))

/-- Enter a line in a core's L1, which has room, in place of what it holds of it (R178, R179): at the most recently used place,
or for `.strm` at the least recently used. -/
def l1Enter (s : State) (l : L1Line) (hn : Hint) : State :=
  let others := s.caches.l1.filter (fun x => !(x.core == l.core && x.pa == l.pa))
  let u := if hn = .streaming then 0 else s.caches.lruNext
  { s with caches := { s.caches with l1 := others ++ [{ l with lru := u, keep := decide (hn = .keep) }],
                                     lruNext := s.caches.lruNext + 1 } }

/-- A hit makes a line the most recently used of its L1. -/
def l1Touch (s : State) (l : L1Line) : State :=
  let s := l1Put s { l with lru := s.caches.lruNext }
  { s with caches := { s.caches with lruNext := s.caches.lruNext + 1 } }

/-- A hit of an access with a hint: a `.strm` line that it finds in the least recently used place, where its own instruction has put it, stays
there (R179). -/
def l1Hit (s : State) (l : L1Line) (hn : Hint) : State := if hn = .streaming ∧ l.lru = 0 then s else l1Touch s l

/-- An access of the executing arm takes its logical time: not before TIME nor the arm's own time (R331). -/
def armTime (s : State) : Nat := Max.max s.gang.arm.ltime s.time

/-- The logical time of a load that a Leased copy would serve: after the write that the copy shows (R331). -/
def copyTime (s : State) (l : L1Line) : Nat := timeAfter (armTime s) (armNo s) l.wts l.wby

/-- SEC-DED over the sectors of an L1 line that an access touches (R178): one wrong bit of a word is corrected; a word with more makes a
dirty sector read poisoned, and drops a clean one, which is fetched again: DESIGN CHOICE, log entry 7. -/
def l1Decode (s : State) (l : L1Line) (mask : Nat) : State :=
  let hit := l.errs.filter (fun e => mask.testBit (e.1 / 8))
  let s := l1Put s { l with errs := l.errs.filter (fun e => !mask.testBit (e.1 / 8))
                            valid := (wrongSectors hit 2).foldl (fun v i => if l.dirty.testBit i then v else v - (v &&& 2 ^ i)) l.valid }
  hit.foldl (fun s e =>
    let a := l.pa * 4 + e.1 / 8
    if e.2 ≤ 1 then logError s ⟨a * 64, noOwner, 2, l.core / 96, 0, 1, 0⟩
    else if l.dirty.testBit (e.1 / 8) then logError (poisonSector s a) ⟨a * 64, noOwner, 2, l.core / 96, 1, 3, 0⟩
    else s) s

/-- SEC-DED of a core's copy of a line, where an access touches it. -/
def l1Checked (s : State) (core pa n : Nat) : State :=
  match l1Find s core pa with
  | some l => if l.errs.isEmpty then s else l1Decode s l (sectorMask pa n)
  | none => s

/-- An L1 line holds every sector that an access touches. -/
def l1Covers (l : L1Line) (pa n : Nat) : Bool := (maskSectors (sectorMask pa n)).all (fun i => l.valid.testBit i)

/-- The Leased copy that serves a load of the executing arm (R178, R333): its lease covers the load's logical time. -/
def leaseHit (s : State) (core pa n : Nat) (mode : L1Mode) : Option L1Line :=
  match mode with
  | .bypass => none
  | .cached _ => (l1Find s core pa).filter (fun l => !l.owned && l1Covers l pa n && decide (copyTime s l ≤ l.rts))

/-- A lease on a line for a requester at time `t` (R333): its end. -/
def leaseEnd (s : State) (pa t : Nat) : Nat := Max.max (Max.max (stampOf s pa).rts t) s.time + leaseLen s

/-- Grant a core a lease on a line, whose sectors of `mask` it now holds, and enter it (R178, R333). The L1 may be full of
reserved lines: then nothing is held. -/
def l1Lease (s : State) (core pa mask t : Nat) (hn : Hint) : State :=
  match l1Room s core pa hn with
  | none => s
  | some s =>
    let st := stampOf s pa
    let rts := leaseEnd s pa t
    let s := putStamp s { st with rts := rts }
    let old := l1Find s core pa
    let keep := match old with | some l => if l.data.isEmpty then l.valid else 0 | none => 0
    l1Enter s ⟨core, pa / 256, false, rts, st.wts, st.wby, keep ||| mask, 0, [], [], [],
      false, (match old with | some l => l.reserved | none => []), 0⟩ hn

/-- A demand read of a line by the executing arm's core (R178 to R180, R333): a hit is served; the home serves the rest, with a lease
or a renewal where the line may be held. -/
def lineReadAt (s : State) (core pa n : Nat) (mode : L1Mode) : State :=
  let s := l1Checked s core pa n
  match mode with
  | .bypass =>
    -- An Owned copy of this core is written back first; nothing is dropped (R190).
    let s := match l1Find s core pa with
      | some l => if l.owned ∧ l.dirty ≠ 0 then l1Put (l1WriteBack s l) { l with dirty := 0 } else s
      | none => s
    homeLine (orderRead (l1Recall s core pa) (armNo s) pa) pa n false true false
  | .cached hn =>
    match leaseHit s core pa n mode with
    | some l => setAgentTime (l1Hit s l hn) (armNo s) (copyTime s l)
    | none =>
      let s := orderRead (l1Recall s core pa) (armNo s) pa
      let held := l1Find s core pa
      let owned := held.any (fun l => l.owned)
      if owned ∧ held.any (fun l => l1Covers l pa n) then (match held with | some l => l1Hit s l hn | none => s)
      else
        let s := homeLine s pa n false true false
        if owned then (match l1Find s core pa with
          | some l => let l := { l with valid := l.valid ||| sectorMask pa n }; l1Hit (l1Put s l) l hn
          | none => s)
        else if hn = .noAlloc ∨ leaseLen s = 0 ∨ !cacheable s pa then s
        else l1Lease (if held.isSome then mmCount s lsRenew 1 else s) core pa (sectorMask pa n) (armTime s) hn

/-- The bytes that a load reads (R333): those of the copy that serves it, or those at the line's home. -/
def copyBytes (s : State) (hit : Option L1Line) (pa n : Nat) : List Byte :=
  match hit with
  | some l => if l.data.isEmpty then physBytes s pa n else (l.data.drop (pa % 256)).take n
  | none => physBytes s pa n

/-- Whether a load reads poisoned data. -/
def lineBad (s : State) (hit : Option L1Line) (pa n : Nat) : Bool :=
  match hit with
  | some l => if l.data.isEmpty then physPoison s pa n else (maskSectors (sectorMask pa n)).any (fun i => l.dataPoison.contains i)
  | none => physPoison s pa n

/-- A write or atomic of the executing arm to a line (R178 to R180, R333): the writer's time moves past every lease of the line. An Owned
copy is written in place; otherwise the core asks the home for it, or writes there. Called before memory changes. -/
def lineWriteAt (s : State) (core pa n : Nat) (mode : L1Mode) : State :=
  let s := l1Checked s core pa n
  let s := orderWrite (l1Recall s core pa) (armNo s) pa
  match mode with
  | .bypass => homeLine (l1Drop s core pa) pa n true true false
  | .cached hn =>
    let held := l1Find s core pa
    let mask := sectorMask pa n
    match (if held.any (fun l => l.owned) then held else none) with
    | some l =>
      let s := if l1Covers l pa n then s else homeLine s pa n false true false
      let l := { l with valid := l.valid ||| mask, dirty := l.dirty ||| mask
                        errs := l.errs.filter (fun e => !(wholeMask pa n).testBit (e.1 / 8)) }
      l1Hit (l1Put s l) l hn
    | none =>
      if hn = .noAlloc ∨ !cacheable s pa then homeLine s pa n true true false
      else
        match l1Room s core pa hn with
        | none => homeLine s pa n true true false
        | some s =>
          let s := homeLine s pa n false true false
          let keep := match held with | some l => if l.data.isEmpty then l.valid else 0 | none => 0
          l1Enter s ⟨core, pa / 256, true, agentTime s (armNo s), agentTime s (armNo s), armNo s, keep ||| mask, mask, [], [], [],
            false, (match held with | some l => l.reserved | none => []), 0⟩ hn

/-! ### The instruction cache (R6, R388) -/

/-- A line of a core's instruction cache. -/
def icFind (s : State) (core pa : Nat) : Option ILine := s.caches.icache.find? (fun l => l.core == core && l.pa == pa / 256)

/-- Enter a line, as memory holds it now, in a core's instruction cache of 256 lines: the least recently used one leaves. The spec gives
its size alone: DESIGN CHOICE, log entry 17. -/
def icFill (s : State) (core pa : Nat) : State :=
  let base := pa / 256 * 256
  let others := s.caches.icache.filter (fun l => !(l.core == core && l.pa == pa / 256))
  let own := others.filter (fun l => l.core == core)
  let old := own.foldl (fun (b : Option ILine) l => match b with
    | none => some l
    | some v => if l.lru < v.lru then some l else some v) none
  let kept := if own.length < 256 then others else others.filter (fun l => some l ≠ old)
  let l : ILine := ⟨core, pa / 256, physBytes s base 256,
    if unbacked s (portRoute s base) then [0, 1, 2, 3] else linePoison s (portRoute s base), s.caches.lruNext⟩
  { s with caches := { s.caches with icache := kept ++ [l], lruNext := s.caches.lruNext + 1 } }

/-- A cached line differs from memory. -/
def icStale (s : State) (l : ILine) (pa : Nat) : Bool := physBytes s (pa / 256 * 256) 256 != l.bytes

/-- A fetch that the core's instruction cache does not serve: the line is not held, or it is stale and fetched again. -/
def icMisses (s : State) (core pa : Nat) : Bool :=
  match icFind s core pa with
  | none => true
  | some l => icStale s l pa && !Config.staleFetch s.tick

/-- A demand fetch of a word at a physical address: a hit is served from the instruction cache, and a miss fills it through the Jigsaw. A line
that memory has changed since may be served as it was or fetched again: the spec orders no fetch after a store, and the choice is free; nor
does it give a fetch a logical time (log entry 17). -/
def icacheFetch (s : State) (core pa : Nat) : State :=
  if icMisses s core pa then icFill (homeLine (l1Recall s 768 pa) (pa / 256 * 256) 256 false true false) core pa
  else
    match icFind s core pa with
    | none => s
    | some l =>
      let n := s.caches.lruNext
      let ls := s.caches.icache.map (fun x => if x.core = core ∧ x.pa = l.pa then { x with lru := n } else x)
      { s with caches := { s.caches with icache := ls, lruNext := n + 1 } }

/-- The bytes that the instruction cache then gives, and whether their sector is poisoned. -/
def icacheBytes (s : State) (core pa n : Nat) : List Byte × Bool :=
  match icFind s core pa with
  | some l => ((l.bytes.drop (pa % 256)).take n, l.poison.contains (pa % 256 / 64))
  | none => (physBytes s pa n, physPoison s pa n)

/-! ### Reading and writing elements -/

/-- A byte of some is poisoned: the number of the first 64-byte part with such a byte. -/
def badPart (n : Nat) (bad : Nat → Nat → Bool) : Option Nat :=
  (List.range ((n + 63) / 64)).find? (fun i => bad (64 * i) (Min.min 64 (n - 64 * i)))

/-- What an element of the scratchpad or of bank memory reads as agent `ag`, at its logical time (R177, R329): the bytes, whether any of them is
poisoned with the place of the poison (virtual and physical address), and the state. -/
def readLocal (s : State) (ag : Nat) (c : Checked) : List Byte × Option (Nat × Nat) × State :=
  match c.target with
  | .scratch off =>
    let o := (apCtx s).scrBase + off
    let k := scrKey s.gang.core o
    let s := orderReads (touchUnit s true k c.el.n) ag (linesOf (scrLine k) c.el.n)
    ((scrRead s s.gang.core o c.el.n).1,
      (badPart c.el.n (fun i n => (scrRead s s.gang.core (o + i) n).2)).map (fun i => (c.el.addr + 64 * i, 0)), s)
  | .bank off =>
    let s := captureTouch s s.gang.launch true off c.el.addr
    let s := orderReads (touchUnit s false off c.el.n) ag (linesOf (bankLine off) c.el.n)
    ((bankRead s off c.el.n).1,
      (badPart c.el.n (fun i n => (bankRead s (off + i) n).2)).map (fun i => (c.el.addr + 64 * i, bankLine (off + 64 * i) / 64 * 64)), s)
  | .glob _ => ([], none, s)

/-- Read the bytes of a checked element, with the state after the traffic: the bytes, whether any of them is poisoned, and
the place of the poison (virtual and physical address). -/
def readChecked (s : State) (c : Checked) (mode : L1Mode) : List Byte × Option (Nat × Nat) × State :=
  let core := s.gang.core
  match c.target with
  | .glob _ =>
    c.pieces.foldl (fun (acc : List Byte × Option (Nat × Nat) × State) q =>
      let s := captureTouch acc.2.2 acc.2.2.gang.launch false q.x.pa q.va
      let hit := leaseHit (l1Checked s core q.x.pa q.n) core q.x.pa q.n mode
      let s := lineReadAt s core q.x.pa q.n mode
      let bad := badPart q.n (fun i n => lineBad s hit (q.x.pa + i) n)
      let p := if acc.2.1.isNone then bad.map (fun i => (q.va + 64 * i, portRoute s (q.x.pa + 64 * i) / 64 * 64)) else acc.2.1
      (acc.1 ++ copyBytes s hit q.x.pa q.n, p, s)) ([], none, s)
  | _ => readLocal s (armNo s) c

/-- A gang's stream engine reads bytes of a line as a prefetch (R113, R155, R156, R220): at the home, entering the Jigsaw at its least recently
used place, with L1 allocation by the stream's hint. -/
def streamLine (s : State) (pa n : Nat) (hn : Hint) : State :=
  let core := s.gang.core
  let ag := streamNo core s.gang.gslot
  let s := homeLine (orderRead (l1Recall s core pa) ag pa) pa n false true true
  if (l1Find s core pa).isSome ∨ hn = .noAlloc ∨ leaseLen s = 0 ∨ !cacheable s pa then s
  else l1Lease s core pa (sectorMask pa n) (agentTime s ag) hn

/-- Read the bytes of a checked element as run-ahead does; as `readChecked` but for global lines, of which a prefetch captures nothing
(R417). -/
def readStream (s : State) (c : Checked) (hn : Hint) : List Byte × Option (Nat × Nat) × State :=
  match c.target with
  | .glob _ =>
    c.pieces.foldl (fun (acc : List Byte × Option (Nat × Nat) × State) q =>
      let s := streamLine acc.2.2 q.x.pa q.n hn
      let p := if acc.2.1.isNone ∧ physPoison s q.x.pa q.n then some (q.va, portRoute s q.x.pa / 64 * 64) else acc.2.1
      (acc.1 ++ physBytes s q.x.pa q.n, p, s)) ([], none, s)
  | _ => readLocal s (streamNo s.gang.core s.gang.gslot) c

/-- Write bytes to a checked element, at its logical time (R177, R329). -/
def writeChecked (s : State) (c : Checked) (bs : List Byte) (mode : L1Mode) : State :=
  let core := s.gang.core
  match c.target with
  | .scratch off =>
    let o := (apCtx s).scrBase + off
    scrWrite (orderWrites s (armNo s) (linesOf (scrLine (scrKey core o)) bs.length)) core o bs
  | .bank off =>
    let s := captureTouch s s.gang.launch true off c.el.addr
    bankWrite (orderWrites (snapshot s s.gang.launch true off) (armNo s) (linesOf (bankLine off) bs.length)) off bs
  | .glob _ =>
    (c.pieces.foldl (fun (acc : State × List Byte) q =>
      let s := captureTouch acc.1 acc.1.gang.launch false q.x.pa q.va
      let s := snapshot s s.gang.launch false q.x.pa
      let s := lineWriteAt s core q.x.pa q.n mode
      (physWrite s q.x.pa (acc.2.take q.n), acc.2.drop q.n)) (s, bs)).1

/-! ### Heat, footprints and prefetches -/

/-- Add a credit to a region's heat in a die's table (R118, R119). -/
def heatCredit (s : State) (die ctx va credit : Nat) : State :=
  let region := va % 2 ^ 57 / 65536
  let set := region % 256
  let tab := s.yo.heat
  let here (e : HeatEntry) : Bool := e.die == die && e.set == set
  let put (e : HeatEntry) : State :=
    { s with yo := { s.yo with heat := tab.filter (fun x => !(here x && x.way == e.way)) ++ [e] } }
  match tab.find? (fun e => here e && e.ctx == ctx && e.region == region) with
  | some e => put { e with heat := Min.min 255 (e.heat + credit) }
  | none =>
    match (List.range 16).find? (fun w => !(tab.any (fun e => here e && e.way == w))) with
    | some w => put ⟨die, set, w, ctx, region, Min.min 255 credit⟩
    | none =>
      let low := (List.range 16).foldl (fun (b : Option HeatEntry) w =>
        match tab.find? (fun e => here e && e.way == w), b with
        | some e, none => some e
        | some e, some v => if e.heat < v.heat then some e else some v
        | none, b => b) none
      match low with
      | some e => put ⟨die, set, e.way, ctx, region, Min.min 255 credit⟩
      | none => s

/-- A demand access that a core sends to global memory examines its sample counter (R119). -/
def sampleHeat (s : State) (core ctx va credit : Nat) : State :=
  let smp := mmField s yoCtl 21 18
  let c := smapGet 63 s.yo.sample core
  if c = 0 then
    let s := { s with yo := { s.yo with sample := smapSet 63 s.yo.sample core (2 ^ smp - 1) } }
    heatCredit s (core / 96) ctx va credit
  else { s with yo := { s.yo with sample := smapSet 63 s.yo.sample core (c - 1) } }

/-- The footprint of a vector access (R181): its bytes and how many lines they touch. -/
structure Footprint where
  first : Nat
  bytes : Nat
  lines : Nat
  deriving DecidableEq, Repr

/-- The footprint of the index interval J, clipped to the extent (R181, R244). -/
def footprintOf (a : BitVec 128) (j : Shadow) : Footprint :=
  let lo := Max.max j.lo 0
  let hi := Min.min j.hi ((descExtent a : Int) - 1)
  if hi < lo then ⟨0, 0, 0⟩
  else
    let first := elemAddr a lo
    let bytes := ((hi - lo + 1) * descBytes a).toNat
    ⟨first, bytes, (first + bytes - 1) / 256 + 1 - first / 256⟩

/-- The credit of an access by its footprint (R119). -/
def heatOf (vec : Bool) (f : Footprint) : Nat :=
  if !vec ∨ f.lines ≤ 1 then 1 else Min.min 16 ((f.bytes + 255) / 256)

/-- The lowest lane's global address among checked elements, for the heat credit. -/
def firstGlobal (cs : List Checked) : Option Nat :=
  cs.findSome? (fun c => match c.target with | .glob ((va, _) :: _) => some va | _ => none)

/-- The footprint of a demand access whose elements are known but no index interval is: from the lowest to the highest of them.
DEDUCED, log entry 87. -/
def spanOf (cs : List Checked) : Footprint :=
  let as := cs.map (fun c => (c.el.addr, c.el.addr + c.el.n))
  let lo := as.foldl (fun n a => Min.min n a.1) ((as.headD (0, 0)).1)
  let hi := as.foldl (fun n a => Max.max n a.2) 0
  ⟨lo, hi - lo, if hi ≤ lo then 0 else (hi - 1) / 256 + 1 - lo / 256⟩

/-- Credit heat for an instruction's demand access. -/
def creditAccess (s : State) (vec : Bool) (f : Footprint) (cs : List Checked) : State :=
  match firstGlobal cs with
  | some va => sampleHeat s s.gang.core s.gang.ctx va (heatOf vec f)
  | none => s

/-- A prefetch of one line by an agent (R113): dropped, and counted, where it meets a cause of R104 steps 2 to 4. `area` is the APBASE whose
aperture area is no global memory, unless an override makes every address global (R86, R90). A line that nothing backs is dropped
without a log entry (R60). `low` where it enters the Jigsaw in the least recently used place (R156): not so for the batch that fills a load's
own footprint (R182). -/
def prefetchLine (s : State) (x : Xagent) (area : Option Nat) (va : Nat) (hn : Option Hint) (low : Bool) : State :=
  let t := xlateAs false s x va .read (pickCached s 127)
  if !canonical va ∨ area = some (va % 2 ^ 57 / 2 ^ 40) ∨ t.fault.isSome then mmCount s pfDrop 1
  else
    let s := xlPrefetch s x va t
    if unbacked s (portRoute s t.pa) then s
    else
      let pa := t.pa / 256 * 256
      match x.core, hn with
      | some c, some h =>
        if (l1Find s c pa).isSome then s
        else
          let s := homeLine (l1Recall s c pa) pa 256 false true low
          if h = .noAlloc ∨ leaseLen s = 0 ∨ !cacheable s pa then s else l1Lease s c pa 15 s.time h
      | _, _ => homeLine (l1Recall s 768 pa) pa 256 false true low

/-- A footprint too large for the L1 goes to the die's copy engines as a hint (R182, R207). -/
def postHint (s : State) (area : Option Nat) (f : Footprint) : State :=
  let die := s.gang.core / 96
  if mmField s (ceBlock die) 0 0 = 0 ∨ f.bytes = 0 ∨ 1048576 < f.bytes then s
  else if 64 ≤ (s.hints.filter (fun h => h.die == die)).length then mmCount s (ceBlock die + 0x18) 1
  else { s with hints := s.hints ++ [⟨die, s.gang.ctx, s.gang.arm.sup, area, f.first, f.first + f.bytes - 1⟩] }

/-- The lines of a footprint, by virtual address. -/
def footprintLines (f : Footprint) : List Nat := (List.range f.lines).map (fun i => (f.first / 256 + i) * 256)

/-- Reserve a footprint's lines in the L1 for operation `op` and fill those that miss, by the instruction's hint (R182); `pf` for a PF. Skipped, and
counted, where it would push the core past 128 reserved lines or a set past 6 ways; a line reserved already counts once. -/
def reserveLines (s : State) (op : Nat) (hn : Hint) (pf : Bool) (area : Option Nat) (f : Footprint) : State :=
  let core := s.gang.core
  let die := core / 96
  let pas := (footprintLines f).filterMap (fun va =>
    let t := xlateAs false s (armAgent s) va .read true
    if t.fault.isSome then none else some (t.pa / 256))
  let held := (s.caches.l1.filter (fun l => l.core == core && !l.reserved.isEmpty)).map (fun l => l.pa)
  let all := pas.foldl nsetInsert (held.foldl nsetInsert [])
  if 128 < all.length ∨ (List.range 128).any (fun k => decide (6 < (all.filter (fun p => p % 128 == k)).length)) then
    mmCount s (bkBlock die + 0x30) 1
  else
    let s := (footprintLines f).foldl (fun s va => prefetchLine s (armAgent s) area va (some hn) pf) s
    setL1 s (s.caches.l1.map (fun l => if l.core = core ∧ pas.contains l.pa then { l with reserved := nsetInsert l.reserved op } else l))

/-- An operation arrives, or ends with its team: its lines are reserved no longer (R182). -/
def unreserve (s : State) (op : Nat) : State :=
  if s.caches.l1.any (fun l => l.reserved.contains op) then
    setL1 s (s.caches.l1.map (fun l => { l with reserved := nsetErase l.reserved op }))
  else s

end Sys2Proof.Machine
end

