-- ==== Sys2Proof/Machine/Operands.lean ====
section
/-! DEFINITION. The registers that an instruction names, reads and writes, PN stepping of its fields, and the immediates
(R18 to R38, R173, R219, R231). -/

namespace Sys2Proof.Machine

/-- The field a register operand stands in, for PN steps (R36); `x` is never stepped. -/
inductive Fld where
  | d
  | a
  | b
  | c
  | x
  deriving DecidableEq, Repr

/-- One register that an instruction names: its kind and number, its field, whether it is read or written, and whether the
field may read an open stream (R219). -/
structure Use where
  k : Kind
  reg : Nat
  f : Fld
  rd : Bool
  wr : Bool
  strm : Bool
  /-- The odd half of a 64-bit operand. -/
  half : Bool := false
  deriving DecidableEq, Repr

/-- A source in a field. -/
def uS (f : Fld) (k : Kind) (wide : Bool) (r : Reg) : List Use :=
  ⟨k, r.toNat, f, true, false, true, false⟩ :: (if wide then [⟨k, r.toNat + 1, f, true, false, true, true⟩] else [])

/-- A destination in field D. -/
def uD (k : Kind) (wide : Bool) (r : Reg) : List Use :=
  ⟨k, r.toNat, .d, false, true, false, false⟩ :: (if wide then [⟨k, r.toNat + 1, .d, false, true, false, false⟩] else [])

/-- A destination that the instruction also reads. -/
def uRW (k : Kind) (wide : Bool) (r : Reg) : List Use :=
  ⟨k, r.toNat, .d, true, true, false, false⟩ :: (if wide then [⟨k, r.toNat + 1, .d, true, true, false, false⟩] else [])

/-- `n` scalars read from `r` on, in no stepped field and never a stream. -/
def uB (r n : Nat) : List Use := (List.range n).map (fun i => ⟨.scal, r + i, .x, true, false, false, false⟩)

/-- `n` scalars written from `r` on. -/
def uW (r n : Nat) : List Use := (List.range n).map (fun i => ⟨.scal, r + i, .x, false, true, false, false⟩)

/-- A vector register of a field that is neither stepped nor a stream. -/
def uV (r : Nat) (rd wr : Bool) : Use := ⟨.vec, r, .x, rd, wr, false, false⟩

/-- The index operand of an access mode (R23). -/
def uIx (md : Md) (ix : Nat) : List Use :=
  match md with
  | .vv => [uV ix true false]
  | .vs | .ss => uB ix 1

/-- The data operand of an access mode. -/
def uData (md : Md) (d : Nat) (rd wr : Bool) : List Use :=
  match md with
  | .vv | .vs => [uV d rd wr]
  | .ss => [⟨.scal, d, .x, rd, wr, false, false⟩]

/-- The operands of a compact operation. -/
def uCompact (o : Compact) : List Use :=
  uS .x .vec false o.a ++ (if o.cop = .mov then [] else if o.bs then uB o.b.toNat 1 else uS .x .vec false o.b) ++
    [⟨.vec, o.d.toNat, .x, false, true, false, false⟩]

/-- The registers that an instruction names. A memory instruction's second data register, which depends on the descriptor,
is checked by its meaning. -/
def uses : Instr → List Use
  | .add sh d a b | .sub sh d a b | .mul sh d a b | .mulh sh d a b | .div sh d a b | .rem sh d a b
  | .min sh d a b | .max sh d a b | .and sh d a b | .or sh d a b | .xor sh d a b | .andn sh d a b
  | .shl sh d a b | .shr sh d a b | .sra sh d a b | .rot sh d a b
  | .fadd sh d a b | .fsub sh d a b | .fmul sh d a b | .fmin sh d a b | .fmax sh d a b | .fdiv sh d a b =>
    uD (shaKind sh) false d ++ uS .a (shaKind sh) false a ++ uS .b (shaKindB sh) false b
  | .abs k d a | .neg k d a | .clz k d a | .ctz k d a | .popc k d a | .brev k d a | .mov k d a
  | .fsqrt k d a | .frcp k d a | .frsq k d a | .fexp2 k d a | .flog2 k d a | .fsin k d a | .fcos k d a
  | .ftanh k d a | .frnd k d a | .fclass k d a
  | .addImm8 k d a _ | .andImm8 k d a _ | .orImm8 k d a _ | .xorImm8 k d a _ | .minImm k d a _ | .maxImm k d a _
  | .shlImm k d a _ | .shrImm k d a _ | .sraImm k d a _ | .rotImm k d a _ => uD k false d ++ uS .a k false a
  | .movs d b => uD .vec false d ++ uS .b .scal false b
  | .li k d _ => uD k false d
  | .liImm32 t k d _ => uD k (tyWide t) d
  | .addImm32 t k d a _ | .andImm32 t k d a _ | .orImm32 t k d a _ | .xorImm32 t k d a _ =>
    uD k (tyWide t) d ++ uS .a k (tyWide t) a
  | .cmp _ t sh d a b | .fcmp _ t sh d a b =>
    uD (shwKind sh) false d ++ uS .a (shwKind sh) (tyWide t) a ++ uS .b (shwKindB sh) (tyWide t) b
  | .integerGroup f t sh d a b =>
    uD (shwKind sh) (tyWide t && !intFnNarrowD f) d ++ uS .a (shwKind sh) (tyWide t) a ++
      (if intFnUnary f then [] else uS .b (shwKindB sh) (tyWide t && !intFnNarrowB f) b)
  | .bfx t sh d a b => uD (shwKind sh) (tyWide t) d ++ uS .a (shwKind sh) (tyWide t) a ++ uS .b (shwKindB sh) false b
  | .floatingGroup f t sh d a b =>
    uD (shwKind sh) (tyWide t && f != .fclass) d ++ uS .a (shwKind sh) (tyWide t) a ++
      (if floatFnUnary f then [] else uS .b (shwKindB sh) (tyWide t) b)
  | .specialFunctionGroup _ t k d a => uD k (tyWide t) d ++ uS .a k (tyWide t) a
  | .padd _ sh d a b | .pmul _ sh d a b => uD (shwKind sh) false d ++ uS .a (shwKind sh) false a ++ uS .b (shwKindB sh) false b
  | .pfma _ sh d a b c | .pdot _ sh d a b c | .dqcvt _ sh d a b c =>
    uD (shwKind sh) false d ++ uS .a (shwKind sh) false a ++ uS .b (shwKindB sh) false b ++ uS .c (shwKindC sh) false c
  | .qcvt _ sh d a b c =>
    uRW (shwKind sh) false d ++ uS .a (shwKind sh) false a ++ uS .b (shwKindB sh) false b ++ uS .c (shwKindC sh) false c
  | .ffma t sh d a b c | .mad t sh d a b c | .clamp t sh d a b c =>
    uD (shwKind sh) (tyWide t) d ++ uS .a (shwKind sh) (tyWide t) a ++ uS .b (shwKindB sh) (tyWide t) b ++
      uS .c (shwKindC sh) (tyWide t) c
  | .sel t sh d a b c | .bfi t sh d a b c =>
    uD (shwKind sh) (tyWide t) d ++ uS .a (shwKind sh) (tyWide t) a ++ uS .b (shwKindB sh) (tyWide t) b ++
      uS .c (shwKindC sh) false c
  | .fcvt dst src sh d a c =>
    (if tyIsPackedFloat dst then uRW (shwKind sh) false d else uD (shwKind sh) (tyWide dst) d) ++
      uS .a (shwKind sh) (tyWide src) a ++
      (if tyIsPackedFloat dst || tyIsPackedFloat src then uS .c (shwKindC sh) false c else [])
  | .fcvti dst src k d a | .icvtf dst src k d a | .cvt dst src k d a => uD k (tyWide dst) d ++ uS .a k (tyWide src) a
  | .pairWord x y => uCompact x ++ uCompact y
  | .extGet d a b => [⟨.scal, d.toNat, .x, false, true, false, false⟩] ++ uS .x .vec false a ++ uB b.toNat 1
  | .extPut d a b => [uV d.toNat false true] ++ uB a.toNat 1 ++ uB b.toNat 1
  -- IGET, ISET and IWDN stall on an owed register as a writer does, and raise no Hazard (R251, R252).
  | .iget k d a => uW d.toNat 2 ++ [⟨k, a.toNat, .x, false, true, false, false⟩]
  | .itop k d => [⟨k, d.toNat, .x, false, true, false, false⟩]
  | .vote f d a => uW d.toNat (if f = .ballot then 3 else 1) ++ uS .x .vec false a
  | .shfl f d a b => [uV d.toNat false true] ++ uS .x .vec false a ++
      (match f with | .idx => uS .x .vec false b | _ => uB b.toNat 1)
  | .red _ d a => uW d.toNat 1 ++ uS .x .vec false a
  | .scan _ d a => [uV d.toNat false true] ++ uS .x .vec false a
  | .shflImm d a _ | .shflXorImm d a _ => [uV d.toNat false true] ++ uS .x .vec false a
  | .widr k d _ => [⟨k, d.toNat, .x, false, true, false, false⟩]
  | .rdflg k d _ => [⟨k, d.toNat, .x, false, true, false, false⟩]
  | .csrr d _ | .gwidPack d | .gwidWidth d | .gwidLive d | .gwidSlices d | .gwidSlot d => uW d.toNat 1
  | .cget d _ => uW d.toNat 1
  | .rdtime d => uW d.toNat 2
  | .csrw _ r | .csrs _ r | .csrc _ r | .waitReg _ r | .csetReg _ r | .barTxReg _ r => uB r.toNat 1
  | .jr e | .jrL e => uB e.toNat 2
  | .bc _ bi a b _ => uB a.toNat 1 ++ (if bi then [] else uB b.toNat 1)
  | .loop _ bi a b _ => [⟨.scal, a.toNat, .x, true, true, false, false⟩] ++ (if bi then [] else uB b.toNat 1)
  | .vb _ bi a b _ _ => [uV a.toNat true false] ++ (if bi then [] else [uV b.toNat true false])
  | .ld md d _ ix _ _ | .ldg md d _ ix _ _ => uData md d.toNat false true ++ uIx md ix.toNat
  | .st md d _ ix _ _ | .stg md d _ ix _ _ => uData md d.toNat true false ++ uIx md ix.toNat
  | .pf md _ ix _ _ => uIx md ix.toNat
  | .ldLong _ _ md d _ ix _ _ | .ldgLong _ _ md d _ ix _ _ => uData md d.toNat false true ++ uIx md ix.toNat
  | .stLong _ md d _ ix _ _ | .stgLong _ md d _ ix _ _ => uData md d.toNat true false ++ uIx md ix.toNat
  | .pfLong _ md _ ix _ _ => uIx md ix.toNat
  | .atom _ _ md d _ ix _ _ => uData md d.toNat true true ++ uIx md ix.toNat
  | .batom _ _ md d _ ix _ _ => uData md d.toNat true false ++ uIx md ix.toNat
  | .ldSh _ md d _ ix _ _ => uData md d.toNat false true ++ uB ix.toNat 1
  | .stSh _ md d _ ix _ _ => uData md d.toNat true false ++ uB ix.toNat 1
  | .adld _ _ _ ix _ _ | .adst _ _ _ ix _ _ => uB ix.toNat 1
  | .brdoInit e _ _ _ => uB e.toNat 2
  | .brdoAdd v e k _ => uB v.toNat 1 ++ uB e.toNat 2 ++ uB k.toNat 1
  | .brdoAddv v e k _ => [uV v.toNat true false] ++ uB e.toNat 2 ++ uB k.toNat 1
  | .brdoRd d e st _ => uW d.toNat 1 ++ uB e.toNat 2 ++ uW st.toNat 1
  | .barxInit e _ _ => uB e.toNat 2
  | .barxArr d e _ => uW d.toNat 1 ++ uB e.toNat 2
  | .barxTx e b _ | .barxDone e b _ => uB e.toNat 2 ++ uB b.toNat 1
  | .barxArrtx d e b _ => uW d.toNat 1 ++ uB e.toNat 2 ++ uB b.toNat 1
  | .barxRd d e _ => uW d.toNat 2 ++ uB e.toNat 2
  | .adset _ e _ => uB e.toNat 3
  | .adsetR _ e => uB e.toNat 4
  | .adget f d _ => uW d.toNat (if f = .base then 2 else 1)
  | .iwdn k d b c | .iset k d b c => [⟨k, d.toNat, .x, false, true, false, false⟩] ++ uB b.toNat 1 ++ uB c.toNat 1
  | .tlbinvPage e _ _ => uB e.toNat 2
  | .tlbinvAsid e _ => uB e.toNat 1
  | .pgmapFt e _ => [uV e.toNat false true]
  | .pgmapVa e k _ => [uV e.toNat false true, uV k.toNat true false, uV (k.toNat + 1) true false]
  | .pgqry .scal d e _ => uW d.toNat 2 ++ uB e.toNat 2
  | .pgqry .vec d e _ => [uV d.toNat false true, uV (d.toNat + 1) false true, uV e.toNat true false, uV (e.toNat + 1) true false]
  | .migTo _ _ _ d e _ => uW d.toNat 1 ++ uB e.toNat 2
  | .migFrame _ f d e _ => uB f.toNat 2 ++ uW d.toNat 1 ++ uB e.toNat 2
  | .migCancel d e _ => uW d.toNat 1 ++ uB e.toNat 2
  | .pin d e _ _ | .unpin d e _ _ => uW d.toNat 1 ++ uB e.toNat 2
  | .hotRd d e _ => uW d.toNat 2 ++ uB e.toNat 2
  | .hotClr e _ | .plc _ _ e _ _ | .plcMove _ _ e _ _ => uB e.toNat 2
  | .treg d e _ _ => uW d.toNat 1 ++ uB e.toNat 2
  | .tunreg d _ _ | .tinv _ d _ _ => uW d.toNat 1
  | .tld _ o _ e _ _ | .tst _ o _ e _ _ => uB o.toNat 1 ++ uB e.toNat 2
  | .tpf _ _ e _ _ _ => uB e.toNat 2
  | .thalo _ _ o _ e _ _ _ _ => uB o.toNat 1 ++ uB e.toNat 2
  | .tqry d _ e _ => uW d.toNat 2 ++ uB e.toNat 2
  | .cpy _ hv d _ _ e _ | .cpyb _ hv d _ _ e _ => (if hv then uW d.toNat 1 else []) ++ uB e.toNat 3
  | .close e _ => uB e.toNat 1
  | .job hv d e _ => (if hv then uW d.toNat 1 else []) ++ uB e.toNat 2
  | .jst d e _ => uW d.toNat 2 ++ uB e.toNat 1
  | .mvn _ _ _ hv d _ _ e _ => (if hv then uW d.toNat 1 else []) ++ uB e.toNat 5
  | .strm _ _ e _ _ depth _ => uB e.toNat (1 + 2 * (depth.toNat + 1))
  | .obres _ _ _ d e => uW d.toNat 1 ++ uB e.toNat 3
  | .obld _ _ _ e _ | .obldRec _ _ _ e _ => uB e.toNat 4
  | .mma _ _ _ _ _ e _ => uB e.toNat 2
  | .mloop _ _ _ _ _ e _ => uB e.toNat 5
  | .acld .regs _ e _ => (List.range 32).map (fun i => uV (e.toNat + i) true false)
  | .acst .regs _ e _ => (List.range 32).map (fun i => uV (e.toNat + i) false true)
  | .acld (.mem _) _ e _ | .acst (.mem _) _ e _ => uB e.toNat 2
  | .mstat _ d _ => uW d.toNat 2
  | .put _ _ _ e _ => uB e.toNat 4
  | .wreg d _ e _ => uW d.toNat 1 ++ uB e.toNat 3
  | .wregRel d _ _ => uW d.toNat 1
  | .wctr _ d _ => uW d.toNat 2
  | .wwait _ _ e => uB e.toNat 2
  | .fork e _ => uB e.toNat 2
  | _ => []

/-- The step of a field in the arm's group, times the repetition at hand (R37). -/
def stepOf (a : Arm) (f : Fld) : Nat :=
  match a.pn with
  | none => 0
  | some p => a.rep * (match f with | .d => p.sd.toNat | .a => p.sa.toNat | .b => p.sb.toNat | .c => p.sc.toNat | .x => 0)

/-- The registers that the repetition at hand names. -/
def usesNow (a : Arm) (i : Instr) : List Use := (uses i).map (fun u => { u with reg := u.reg + stepOf a u.f })

/-- Field D of the repetition at hand. -/
def regD (s : State) (r : Reg) : Nat := r.toNat + stepOf s.gang.arm .d
/-- Field A. -/
def regA (s : State) (r : Reg) : Nat := r.toNat + stepOf s.gang.arm .a
/-- Field B. -/
def regB (s : State) (r : Reg) : Nat := r.toNat + stepOf s.gang.arm .b
/-- Field C. -/
def regC (s : State) (r : Reg) : Nat := r.toNat + stepOf s.gang.arm .c

/-- A register lies within the gang's allocation (R231). -/
def allocated (g : Gang) (k : Kind) (r : Nat) : Bool :=
  match k with
  | .vec => decide (r < g.nv)
  | .scal => decide (r < g.ns) || (decide (61 ≤ r) && decide (r ≤ 63))

/-- The operand is an element of an open stream: the odd half of a 64-bit one belongs to its even half's queue (R219). -/
def useStream (g : Gang) (u : Use) : Option Nat :=
  if u.k = .vec ∧ u.strm then openQueue g (if u.half then u.reg - 1 else u.reg) else none

/-- A use is legal at execution (R219, R231): an open stream where its field may read one, an allocated register otherwise. -/
def useOk (g : Gang) (u : Use) : Bool :=
  (useStream g u).isSome || (allocated g u.k u.reg && !(u.k = .vec && (openQueue g u.reg).isSome))

/-- Every register that the repetition at hand names may be named. -/
def usesOk (g : Gang) (i : Instr) : Bool := (usesNow g.arm i).all (useOk g)

/-- The open streams that an issue pops (R221). -/
def popsOf (g : Gang) (i : Instr) : List Nat :=
  (List.range 4).filter (fun q => (usesNow g.arm i).any (fun u => useStream g u == some q))

end Sys2Proof.Machine
end

