-- ==== Sys2Proof/Machine/Ops.lean ====
section
/-! DEFINITION. The named operations that every meaning goes through: ending a launch, taking an exception and returning
from one (R402, R403), arrival at joins (R357, R358), outstanding operations (R170 to R174), and the issue of one
instruction (R42, R173, R219, R221, R231, R401). -/

namespace Sys2Proof.Machine

/-! ### Gangs and arms -/

/-- Bring a resident gang to hand: its arm in `slot` executes. Nothing changes where no such gang or arm is. -/
def focusOn (s : State) (id slot : Nat) : State :=
  let turnArm (g : Gang) : Gang :=
    if g.arm.slot = slot then g
    else match g.partner with
      | some p => if p.slot = slot then { g with arm := p, partner := some g.arm } else g
      | none => g
  if s.live ∧ s.gang.id = id then { s with gang := turnArm s.gang }
  else match s.others.find? (fun g => g.id == id) with
    | none => s
    | some g =>
      { s with gang := turnArm g, live := true,
               others := (if s.live then [s.gang] else []) ++ s.others.filter (fun x => x.id ≠ id) }

/-- Every resident gang. -/
def gangsOf (s : State) : List Gang := (if s.live then [s.gang] else []) ++ s.others

/-- A resident gang. -/
def gangById (s : State) (id : Nat) : Option Gang := (gangsOf s).find? (fun g => g.id == id)

/-- Update every resident gang, and every saved one. -/
def mapGangs (s : State) (f : Gang → Gang) : State :=
  { s with gang := if s.live then f s.gang else s.gang, others := s.others.map f,
           teams := s.teams.map (fun t => { t with savedGangs := t.savedGangs.map f }) }

/-- Update one gang, resident or saved. -/
def onGangId (s : State) (id : Nat) (f : Gang → Gang) : State := mapGangs s (fun g => if g.id = id then f g else g)

/-- The live arms of a gang. -/
def armsOf (g : Gang) : List Arm := g.arm :: (match g.partner with | some p => [p] | none => [])

/-- Update both arms. -/
def onArms (g : Gang) (f : Arm → Arm) : Gang := { g with arm := f g.arm, partner := g.partner.map f }

/-! ### Trace (R422) -/

/-- Write a trace record of the executing arm, where TRCCTL traces its context and the enable bit is set. -/
def trace (s : State) (kind : Nat) (bit : Option Nat) : State :=
  let c := mmGet s trcCtl
  let on : Bool := match bit with | some b => c.testBit b | none => true
  if bitField c 0 0 = 1 ∧ bitField c 31 16 = s.gang.ctx ∧ on then
    ringPost s traceRing (traceRing + 32) 4
      (leBytes 8 s.time ++ leBytes 8 s.gang.arm.pc.toNat ++ leBytes 12 s.gang.arm.mask.toNat ++ leBytes 2 s.gang.core ++
        leBytes 1 s.gang.gslot ++ leBytes 1 (s.gang.arm.slot * 128 + kind))
  else s

/-! ### Ending launches -/

/-- A launch and the launches forked under it. -/
def launchTree (s : State) : Nat → Nat → List Nat
  | 0, id => [id]
  | n + 1, id =>
    id :: ((s.launches.filter (fun l => match l.parent with | some (_, p) => p == id | none => false)).map (fun l => l.id)).flatMap
      (fun c => launchTree s n c)

/-- Add a gang's STALL counters to the sums of its team, saturating (R421). -/
def stallAdd (m : List (Nat × Nat)) (g : Gang) : List (Nat × Nat) :=
  (List.range 16).foldl (fun m i => smapSet 0 m i (Min.min (smapGet 0 m i + (smapGet 0 g.stallCnt i).toNat) (2 ^ 32 - 1))) m

/-- The latest logical time of a gang's arms. -/
def gangTime (g : Gang) : Nat := (armsOf g).foldl (fun t a => Max.max t a.ltime) 0

/-- The latest logical time that a gang's arms and the operations that have arrived for it have reached. -/
def gangLast (g : Gang) : Nat := g.ctimes.foldl (fun t c => Max.max t c.2) (gangTime g)

/-- A launch's accesses have reached logical time `t` (R332, R393). -/
def raiseLaunch (s : State) (id t : Nat) : State := onLaunch s id (fun l => { l with ltime := Max.max l.ltime t })

/-- End every team of a launch at once, without a save: its gangs leave, with the lines that their operations hold reserved (R182); its posts
are discarded (R112), and its teams wait only to be freed (R421). -/
def dropTeams (s : State) (ids : List Nat) : State :=
  let dead (g : Gang) : Bool := ids.contains g.launch
  let gone := (gangsOf s).filter dead ++ (s.teams.flatMap (fun t => t.savedGangs)).filter dead
  { s with
    live := s.live && !dead s.gang
    others := s.others.filter (fun g => !dead g)
    launches := s.launches.map (fun l => { l with ltime := (gone.filter (fun g => g.launch == l.id)).foldl (fun t g => Max.max t (gangLast g)) l.ltime })
    posts := s.posts.filter (fun p => !(gone.any (fun g => g.id == p.gang)))
    caches := { s.caches with l1 := s.caches.l1.map (fun l =>
      { l with reserved := l.reserved.filter (fun n => !(gone.any (fun g => g.ops.any (fun o => o.id == n)))) }) }
    teams := s.teams.map (fun t =>
      if ids.contains t.launch then
        { t with savedGangs := [], endNow := true, stallSum := (gone.filter (fun g => g.team == t.id)).foldl stallAdd t.stallSum }
      else t) }

/-- End a launch with a status: a kill, a double fault, a HALT, resources that cannot be met (R112, R402, R407). -/
def killLaunch (s : State) (id status : Nat) : State :=
  dropTeams (onLaunch s id (fun l => { l with killed := some (match l.killed with | some k => k | none => status) })) [id]

/-- Start the replay of a launch (R416): dispatch stops, its teams and its children's end, and the rest follows in REPLAY once
nothing of it is outstanding. -/
def startReplay (s : State) (id : Nat) : State :=
  let ids := launchTree s forkFuel id
  let s := { s with launches := s.launches.map (fun l =>
    if l.id = id then { l with replaying := true }
    else if ids.contains l.id then { l with killed := some 4, silent := true } else l) }
  dropTeams s ids

/-! ### Divergence-stack entries in memory (R356) -/

/-- The 16 bytes of an entry. -/
def entryBytes (e : StackEntry) : List Byte :=
  leBytes 12 e.mask.toNat ++ leBytes 4 ((if e.parked then 2 ^ 31 else 0) + e.jn.toNat * 2 ^ 19 + e.vbw.toNat)

/-- The entry that 16 bytes spell. -/
def entryOf (bs : List Byte) : StackEntry :=
  let w := leNat (bs.drop 12)
  ⟨BitVec.ofNat 96 (leNat (bs.take 12)), w.testBit 31, BitVec.ofNat 12 (w / 2 ^ 19), BitVec.ofNat 19 w⟩

/-- The virtual address of entry `k` of the executing arm's stack part. -/
def entryVa (s : State) (k : Nat) : Nat :=
  let p := apCtx s
  lsBlock p + 16 * (if s.gang.arm.slot = 0 then k else dsDepth p - 1 - k)

/-- One 16-byte access of the arm at a global address, with the arm's whole mask as faulting lanes; a fault leaves the A bits of the levels
walked before it (R104). -/
def armQuad (s : State) (va : Nat) (kind : AccKindF) : Except (Trap × State) Checked :=
  let x := xlate s (armAgent s) va kind (pickCached s 126)
  match x.fault with
  | some (c, r) => .error (armTrap s.gang c r va kind, xlFaulted s (s.gang.core / 96) x)
  | none => .ok ⟨⟨0, va, 16⟩, .glob [(va, 16)], [⟨0, va, 16, x⟩]⟩

/-- An access of the arm for its stack part is a demand access of its core (R119, R356). -/
def stackHeat (s : State) (k : Nat) : State := sampleHeat s s.gang.core s.gang.ctx (entryVa s k) 1

/-- Store an entry of the stack part to memory. -/
def storeEntry (s : State) (k : Nat) (e : StackEntry) : Except (Trap × State) State :=
  match armQuad s (entryVa s k) .write with
  | .error t => .error t
  | .ok c => .ok (writeChecked (stackHeat (commitXlat s (armAgent s) .write [c]) k) c (entryBytes e) (.cached .normal))

/-- Load an entry of the stack part from memory. -/
def loadEntry (s : State) (k : Nat) : Except (Trap × State) (StackEntry × State) :=
  match armQuad s (entryVa s k) .read with
  | .error t => .error t
  | .ok c =>
    let r := readChecked (stackHeat (commitXlat s (armAgent s) .read [c]) k) c (.cached .normal)
    .ok (entryOf r.1, r.2.2)

/-- Write every on-chip entry to memory: at trap entry and at a forced save (R356). -/
def storeStack (s : State) : Except (Trap × State) State :=
  let n := s.gang.arm.stack.length
  let base := s.gang.arm.spilled
  (List.range n).foldl (fun acc j => match acc, s.gang.arm.stack[j]? with
    | .ok s, some e => storeEntry s (base + (n - 1 - j)) e
    | acc, _ => acc) (.ok s)

/-! ### Taking an exception and returning from one (R402, R403) -/

/-- Cause codes (R400). -/
def causeIllegal : Nat := 1
/-- IllegalPrefix. -/
def causePrefix : Nat := 2
/-- Software. -/
def causeSoftware : Nat := 3
/-- Privilege. -/
def causePrivilege : Nat := 4
/-- BoundsTrap. -/
def causeBounds : Nat := 5
/-- IntervalAssert. -/
def causeInterval : Nat := 6
/-- MigrationAbort. -/
def causeMigration : Nat := 10
/-- Poison. -/
def causePoison : Nat := 11
/-- Hazard. -/
def causeHazard : Nat := 12
/-- FPTrap. -/
def causeFp : Nat := 13
/-- MatrixEngineReset. -/
def causeMxReset : Nat := 14
/-- OperandBuffer. -/
def causeOb : Nat := 15
/-- BarrierTimeout. -/
def causeBarrier : Nat := 16
/-- DivergenceStack. -/
def causeStack : Nat := 17
/-- ShadowMismatch. -/
def causeShadow : Nat := 18
/-- Breakpoint. -/
def causeBreak : Nat := 19
/-- JobFault. -/
def causeJob : Nat := 20
/-- WindowFault. -/
def causeWindow : Nat := 21
/-- ForkFault. -/
def causeFork : Nat := 22

/-- FSTAT as trap entry sets it (R402, R405). -/
def fstatOf (sup : Bool) (rep reason cause : Nat) : Word :=
  BitVec.ofNat 32 ((if sup then 2 ^ 31 else 0) + 2 ^ 30 + rep % 64 * 2 ^ 24 + reason % 256 * 2 ^ 16 + cause % 256)

/-- FSTAT.INH: the arm is in a handler. -/
def inHandler (a : Arm) : Bool := a.fstat.getLsbD 30

/-- The launch is replayable still (R415). -/
def replayable (s : State) : Bool :=
  s.gang.gmode.getLsbD 2 && (match launchById s s.gang.launch with | some l => !l.noReplay | none => false)

/-- Trap entry (R402) of the executing arm, resuming at `resume`. A trap in a handler, and a stack entry that cannot be
written, end the launch with status 3; a replayable launch replays on Poison, MatrixEngineReset and ShadowMismatch. -/
def trapEntry (s : State) (t : Trap) (resume : DWord) : State :=
  let a := s.gang.arm
  if inHandler a then killLaunch s s.gang.launch 3
  else if (t.cause = causePoison ∨ t.cause = causeMxReset ∨ t.cause = causeShadow) ∧ replayable s then
    startReplay s s.gang.launch
  else
    match storeStack s with
    | .error (_, s) => killLaunch s s.gang.launch 3
    | .ok s =>
      let s := s.onArm (fun a =>
        { a with
          frame := ⟨resume, a.rep, a.mask, a.sup, a.shS, a.shV⟩
          fstat := fstatOf a.sup a.rep t.reason t.cause
          faddr := BitVec.ofNat 64 t.faddr
          sup := true
          mask := t.lanes &&& a.members
          lfault := t.recs
          pc := s.gang.trapv + BitVec.ofNat 64 (64 * t.cause)
          rep := 0, pr := none, pn := none, stall := .none })
      trace s 5 (some 2)

/-- The register shadows that appear in either copy, hulled (R240, R242). -/
def hullShadows (x y : List (Nat × Shadow)) : List (Nat × Shadow) :=
  let keys := (x.map (fun e => e.1) ++ y.map (fun e => e.1)).foldl nsetInsert []
  keys.foldl (fun m k => smapSet Shadow.zero m k (shHull (smapGet Shadow.zero x k) (smapGet Shadow.zero y k))) []

/-- Return from a handler (R403): mask, mode, PC and repeat index come from the frame; shadows are hulled. -/
def trapReturn (s : State) : State :=
  s.onArm (fun a =>
    { a with
      mask := a.frame.mask &&& a.members
      sup := a.fstat.getLsbD 31
      fstat := a.fstat &&& ~~~(BitVec.ofNat 32 (2 ^ 30))
      shS := hullShadows a.frame.shS a.shS
      shV := hullShadows a.frame.shV a.shV
      pc := a.frame.pc
      rep := a.frame.rep
      lfault := [], pr := none, pn := none })

/-! ### The outcome of a body -/

/-- What an instruction's body comes to: done; a trap with no effect but what `s` holds; or no issue, tried again. -/
inductive Exe where
  | ok (s : State)
  | trap (t : Trap) (s : State)
  | stall (reason : Nat) (s : State)
  deriving DecidableEq, Repr

/-- Go on with a body that is done. -/
def Exe.bind (x : Exe) (f : State → Exe) : Exe :=
  match x with
  | .ok s => f s
  | .trap t s => .trap t s
  | .stall n s => .stall n s

/-- An access has taken the executing arm past the bound of R333, `s` before it and `t` after it. -/
def newlyPast (s t : State) : Bool := decide (s.gang.arm.ltime < t.gang.arm.ltime) && decide (timeBound s < t.gang.arm.ltime)

/-- An instruction whose accesses would take its arm past the bound does not issue, and waits until TIME catches up (R333). -/
def boundedExe (s : State) (x : Exe) : Exe :=
  match x with
  | .ok t => if newlyPast s t then .stall 14 s else .ok t
  | x => x

/-! ### Joins (R357, R358) -/

/-- The join address of an entry: the VB's address and 4 × JN (R356). -/
def entryJoin (g : Gang) (e : StackEntry) : DWord := g.entry + BitVec.ofNat 64 (4 * e.vbw.toNat + 4 * e.jn.toNat)

/-- The fall-through address of an entry. -/
def entryFall (g : Gang) (e : StackEntry) : DWord := g.entry + BitVec.ofNat 64 (4 * e.vbw.toNat + 8)

/-- The current join of the executing arm (R354). -/
def currentJoin (g : Gang) : Option DWord :=
  match g.arm.stack with
  | e :: _ => some (entryJoin g e)
  | [] => if g.partner.isSome then g.gj else none

/-- After a pop, refill the on-chip part from memory (R356): a fault, or reason 0x03 for a mask that is not the gang's
(R360). -/
def refill (s : State) : Except (Trap × State) State :=
  if s.gang.arm.spilled = 0 then .ok s
  else
    match loadEntry s (s.gang.arm.spilled - 1) with
    | .error t => .error t
    | .ok (e, s') =>
      if e.mask &&& ~~~laneBelow s.gang.width ≠ 0 then .error (plainTrap s.gang causeStack 3 0, s')
      else .ok (s'.onArm (fun a => { a with stack := a.stack ++ [e], spilled := a.spilled - 1 }))

/-- Merge two scoreboards (R358): an operand owed to both is covered, or clean, only where both say so. -/
def mergeOwed (x y : List Owed) : List Owed :=
  x.map (fun o => match y.find? (fun p => p.op == o.op && p.vec == o.vec && p.reg == o.reg) with
    | some p => { o with clean := o.clean && p.clean }
    | none => { o with clean := false }) ++
  (y.filter (fun p => !(x.any (fun o => p.op == o.op && p.vec == o.vec && p.reg == o.reg)))).map
    (fun p => { p with clean := false })

/-- Both arms parked at the split join re-gang into slot 0 (R358). -/
def reGang (s : State) : State :=
  match s.gang.partner, s.gang.gj with
  | some p, some j =>
    if s.gang.arm.parked ∧ p.parked then
      let a := s.gang.arm
      let z := if a.slot = 0 then a else p
      let s := s.onGang (fun g =>
        { g with
          arm := { z with slot := 0, pc := j, members := a.members ||| p.members, mask := a.mask ||| p.mask,
                          shS := hullShadows a.shS p.shS, shV := hullShadows a.shV p.shV,
                          owed := mergeOwed a.owed p.owed, ltime := Max.max a.ltime p.ltime, parked := false,
                          stall := .none }
          images := g.images.map (fun i => { i with slot := 0 })
          partner := none, gj := none })
      trace s 4 (some 1)
    else s
  | _, _ => s

/-- The executing arm stands at its current join and is to arrive there (R357); one suspended on the host's reply waits (R112). -/
def atJoin (g : Gang) : Bool :=
  !g.arm.parked && (match g.arm.stall with | .posted _ => false | _ => true) && currentJoin g == some g.arm.pc

/-- The arm is to pop its top entry. -/
def popsEntry (g : Gang) : Bool := match g.arm.stack with | e :: _ => e.parked | [] => false

/-- The executing arm pops its top entry, and the refill would take it past the bound: it waits at its join (R333, R356). -/
def refillPast (s : State) : Bool :=
  popsEntry s.gang && (match refill (s.onArm (fun a => { a with stack := a.stack.drop 1 })) with | .ok t => newlyPast s t | .error _ => false)

/-- One arrival at the current join (R357): `none` where the arm does not stand at it, or waits there. A refill that faults leaves the arm as
it is but for the A bits of its walk (R104, R356). -/
def arriveOnce (s : State) : Option (Except (Trap × State) State) :=
  let g := s.gang
  if !atJoin g || refillPast s then none
  else
    match g.arm.stack with
    | e :: rest =>
      if !e.parked then
        some (.ok (s.onArm (fun a => topVectors g.nv
          { a with stack := { e with mask := a.mask, parked := true } :: rest
                   members := e.mask ||| (a.members &&& ~~~a.mask)
                   mask := e.mask, pc := entryFall g e })))
      else
        match refill (s.onArm (fun a => { a with stack := rest })) with
        | .error (t, s') => some (.error (t, s'.onArm (fun a => { a with stack := e :: rest })))
        | .ok s => some (.ok (s.onArm (fun a => topVectors g.nv
            { a with members := a.members ||| e.mask, mask := a.mask ||| e.mask })))
    | [] => some (.ok (reGang (s.onArm (fun a => { a with parked := true }))))

/-- Repeat arrival until the PC differs from the current join or the arm parks (R357). -/
def arriveJoin : Nat → State → State
  | 0, s => s
  | n + 1, s =>
    match arriveOnce s with
    | none => if atJoin s.gang then s.onArm (fun a => { a with stall := .retry 14 }) else s
    | some (.error (t, s)) => trapEntry s t s.gang.arm.pc
    | some (.ok s) => arriveJoin n (s.onArm (fun a => { a with stall := match a.stall with | .retry 14 => .none | x => x }))

/-- Enough arrivals for every entry of the arm's stack part: each is swapped at most once and popped once. -/
def joinFuel (s : State) : Nat := 2 * (s.gang.arm.stack.length + s.gang.arm.spilled) + 2

/-- Entries that an arm's stack part holds (R356). -/
def stackUsed (a : Arm) : Nat := a.stack.length + a.spilled

/-- What names the surviving arm's slot follows it to slot 0: its operations, and its arrivals at the team's barriers (R359, R372). -/
def slotsLowered (g : Gang) (slot : Nat) : Gang :=
  if slot = 0 then g
  else { g with ops := g.ops.map (fun o => if o.slot = slot then { o with slot := 0 } else o)
                images := g.images.map (fun i => if i.slot = slot then { i with slot := 0 } else i)
                bars := g.bars.map (fun b => { b with slots := b.slots.map (fun k => if k = slot then 0 else k) }) }

/-- A survivor moves to slot 0 once its stack part is empty (R359). -/
def lowerSlot (s : State) : State :=
  if s.gang.partner.isNone ∧ stackUsed s.gang.arm = 0 then
    (s.onGang (fun g => slotsLowered g g.arm.slot)).onArm (fun a => { a with slot := 0 })
  else s

/-- A boundary of the executing arm: arrival at its join. -/
def boundary (s : State) : State := if s.live then lowerSlot (arriveJoin (joinFuel s) s) else s

/-! ### Outstanding operations (R170 to R174) -/

/-- An arrival counter. -/
def readC (g : Gang) (n : Nat) : BitVec 16 := smapGet 0 g.c n

/-- A counter has reached a value (R172). -/
def reached (c k : BitVec 16) : Bool := decide ((c - k).toNat < 32768)

/-- The operations outstanding on a counter (R171). -/
def outstanding (g : Gang) (c : Nat) : List Op := g.ops.filter (fun o => o.ctr == c)

/-- Issue an operation on a counter: the ticket is the issue count after the addition (R170). What its reads wait for at their controllers its
landing waits for (R66, R69). -/
def newOp (s : State) (c : Nat) (kind : OpKind) (lands : List RegWrite) (desc : Option (Nat × BitVec 128)) (landed done : Bool) :
    Nat × BitVec 16 × State :=
  let id := s.serial
  let t := smapGet 0 s.gang.issueCnt c + 1
  let op : Op := ⟨id, s.gang.arm.slot, c, t.toNat, kind, lands, desc, landed, done, s.gang.arm.ltime, s.dram.reading.1, s.dram.reading.2⟩
  (id, t, { s with serial := id + 1,
                   gang := { s.gang with issueCnt := smapSet 0 s.gang.issueCnt c t, ops := s.gang.ops ++ [op] } })

/-- Record that an operation owes registers to the executing arm (R172, R174). A gang scalar that the other arm's earlier load has written, and
that no WAIT of that arm has covered, holds another value from now on: that WAIT narrows it no more (R234, R254). -/
def oweRegs (s : State) (id c ticket : Nat) (regs : List (Bool × Nat × Shadow)) : State :=
  let s := s.onArm (fun a =>
    let kept := a.owed.filter (fun o => !(regs.any (fun r => r.1 == o.vec && r.2.1 == o.reg && o.landed)))
    { a with owed := kept ++ regs.map (fun r => ⟨r.1, r.2.1, c, ticket, id, false, true, r.2.2, a.mask⟩) })
  s.onGang (fun g => { g with partner := g.partner.map (fun p =>
    (regs.filter (fun r => !r.1 && decide (r.2.1 < 61))).foldl (fun p r => armTouched false r.2.1 p) p) })

/-- Leave a cause pending on a counter for the WAIT that reaches the ticket (R401). -/
def addPend (g : Gang) (p : Pend) : Gang := { g with pend := g.pend ++ [p] }

/-- Mark an operation of any gang finished, its unit's last access at logical time `t` (R332); it arrives in ticket order (R171). -/
def finishOp (s : State) (gang op t : Nat) : State :=
  onGangId s gang (fun g => { g with ops := g.ops.map (fun o => if o.id = op then { o with done := true, time := Max.max o.time t } else o) })

/-- Change one operation of any gang. -/
def updateOp (s : State) (gang op : Nat) (f : Op → Op) : State :=
  onGangId s gang (fun g => { g with ops := g.ops.map (fun o => if o.id = op then f o else o) })

/-- The operation with an identifier, and its gang. -/
def findOp (s : State) (gang op : Nat) : Option (Gang × Op) :=
  match ((gangsOf s) ++ s.teams.flatMap (fun t => t.savedGangs)).find? (fun g => g.id == gang) with
  | none => none
  | some g => (g.ops.find? (fun o => o.id == op)).map (fun o => (g, o))

/-- The next arrivals that a counter may make: its oldest outstanding operation, where it has landed and finished (R171). -/
def arrivable (g : Gang) (c : Nat) : Option Op :=
  match outstanding g c with
  | [] => none
  | o :: t =>
    -- Oldest by ticket: operations stand in issue order.
    let first := (o :: t).headD o
    if first.landed ∧ first.done then some first else none

/-! ### Hazards (R173) -/

/-- Owed entries that concern a register for the executing arm: its own scoreboard, and for a scalar its partner's. -/
def owedOn (g : Gang) (vec : Bool) (r : Nat) : List Owed :=
  (g.arm.owed ++ (if vec then [] else match g.partner with | some p => p.owed | none => [])).filter
    (fun o => o.vec == vec && o.reg == r)

/-- GMODE.HAZ: debug-hazard mode. -/
def hazMode (g : Gang) : Bool := g.gmode.getLsbD 0

/-- A register whose read raises Hazard in debug-hazard mode: owed, or landed and not covered. -/
def hazardReg (g : Gang) (us : List Use) : Option Nat :=
  if !hazMode g then none
  else (us.find? (fun u => u.rd && (useStream g u).isNone && !(owedOn g (u.k = .vec) u.reg).isEmpty)).map (fun u => u.reg)

/-- A register to write is still owed: the writer stalls until the data has landed. -/
def owedWrite (g : Gang) (us : List Use) : Bool :=
  us.any (fun u => u.wr && (owedOn g (u.k = .vec) u.reg).any (fun o => !o.landed))

/-- A descriptor that an ADLD still owes (R250). -/
def owedDesc (g : Gang) (n : Nat) : Bool :=
  g.ops.any (fun o => !o.landed && (match o.desc with | some (d, _) => d == n | none => false))

end Sys2Proof.Machine
end

