-- ==== Sys2Proof/Machine/Issue.lean ====
section
/-! DEFINITION. Stream pops (R219 to R222) and the issue of one instruction: the checks of R42 and R401, hazards, the
body, and what follows it (R37, R38, R173, R357, R420, R423). -/

namespace Sys2Proof.Machine

/-! ### Watchpoints (R423) -/

/-- The debug block that holds the right for a context (R424). -/
def debugBlock (s : State) (ctx : Nat) : Option Nat :=
  (List.range 4).find? (fun k => mmField s (dbgBlock k) 16 16 == 1 && mmField s (dbgBlock k) 15 0 == ctx)

/-- An access of the arm touches a region that its context's debug block watches for its kind (R423, R430). -/
def watched (s : State) (vas : List (Nat × Nat)) (kind : AccKindF) : Bool :=
  match debugBlock s s.gang.ctx with
  | none => false
  | some k =>
    (List.range 2).any (fun i =>
      let w := mmGet s (dbgBlock k + 0x48 + 8 * i)
      let lo := bitField w 56 6 * 64
      let n := 64 * 2 ^ bitField w 3 0
      let on : Bool := match kind with
        | .read => w.testBit 5
        | .write => w.testBit 4
        | .atomic => w.testBit 5 || w.testBit 4
        | .fetch => false
      on && vas.any (fun v => decide (v.1 % 2 ^ 57 < lo + n) && decide (lo < v.1 % 2 ^ 57 + v.2)))

/-- A watched access stops its arm after the instruction. -/
def noteWatch (s : State) (vas : List (Nat × Nat)) (kind : AccKindF) : State :=
  if watched s vas kind then s.onArm (fun b => { b with watchHit := true }) else s

/-! ### Stream elements -/

/-- T, the number of positions of a stream (R220). -/
def streamTotal (q : Stream) : Nat := q.levels.foldl (fun n l => n * l.1) 1

/-- The index of a position: level 0 runs fastest (R220). -/
def levelIndex : List (Nat × Int) → Nat → Int
  | [], _ => 0
  | (c, st) :: t, p => ((p % c : Nat) : Int) * st + levelIndex t (p / c)

/-- The element index of position `p`. -/
def streamIndex (q : Stream) (p : Nat) : Int := q.off + levelIndex q.levels p

/-- A loaded element extended to 64 bits, zero or sign (R190, R221). -/
def extendBytes (sx : Bool) (bs : List Byte) : DWord :=
  let n := leNat bs
  let w := 8 * bs.length
  if sx ∧ w < 64 ∧ 2 ^ (w - 1) ≤ n then BitVec.ofInt 64 ((n : Int) - 2 ^ w) else BitVec.ofNat 64 n

/-- The landed interval of a loaded element (R190). -/
def loadInterval (es : Nat) (sx : Bool) : Shadow :=
  if es = 1 then (if sx then ⟨-128, 127⟩ else ⟨0, 255⟩)
  else if es = 2 then (if sx then ⟨-32768, 32767⟩ else ⟨0, 65535⟩) else Shadow.top

/-- Put a stream queue. -/
def putStream (g : Gang) (n : Nat) (q : Stream) : Gang := { g with streams := listSet g.streams n q }

/-- Fetch the element at a position ahead of its pop, as a prefetch (R113, R220): its value and poison, or dropped. A position
past the end, or masked by the bounds check, has none. -/
def streamFetch (s : State) (n p : Nat) : State :=
  match s.gang.streams[n]? with
  | none => s
  | some q =>
    let idx := streamIndex q p
    if streamTotal q ≤ p ∨ q.ahead.any (fun e => e.1 == p) ∨ (q.checked ∧ (idx < 0 ∨ (descExtent q.desc : Int) ≤ idx)) then s
    else
      let a := elemAddr q.desc idx
      let es := descBytes q.desc
      let el : Elem := ⟨0, a, es⟩
      let drop (s : State) : State :=
        mmCount (s.onGang (fun g => putStream g n { q with ahead := q.ahead ++ [(p, none)] })) pfDrop 1
      match checkAccess s (armAgent s) (apCtx s) (descOvr q.desc) es .read [el] with
      | .error _ => drop s
      | .ok cs =>
        match cs with
        | [] => drop s
        | c :: _ =>
          let s := c.pieces.foldl (fun s x => xlPrefetch s (armAgent s) x.va x.x) s
          let r := readStream s c q.hn
          r.2.2.onGang (fun g => putStream g n
            { q with ahead := q.ahead ++ [(p, some (extendBytes q.sx r.1, r.2.1.map (fun x => x.2)))] })

/-- The positions that a pop takes, one for each active lane (R221). -/
def popPositions (g : Gang) (q : Stream) : List (Nat × Nat) := (laneList g.arm.mask).map (fun l => (l, q.cursor + l))

/-- A fetched element. -/
def aheadAt (q : Stream) (p : Nat) : Option (Option (DWord × Option Nat)) := (q.ahead.find? (fun e => e.1 == p)).map (fun e => e.2)

/-- A pop accesses an element that run-ahead has read (R417). -/
def popCapture (s : State) (q : Stream) (lane p : Nat) : State :=
  match resolve (apCtx s) (descOvr q.desc) (elemAddr q.desc (streamIndex q p)) (descBytes q.desc) lane with
  | .ok (.glob ps) => ps.foldl (fun s v =>
      let x := xlateAs false s (armAgent s) v.1 .read true
      if x.fault.isSome then s else captureTouch s s.gang.launch false x.pa v.1) s
  | _ => s

/-- The stream engine of the gang at hand. -/
def streamAg (s : State) : Nat := streamNo s.gang.core s.gang.gslot

/-- Elements that wait for the bound on the stream engine's time (R333), `s` before their reading and `t` after it. -/
def streamPast (s t : State) : Bool :=
  decide (agentTime s (streamAg s) < agentTime t (streamAg s)) && decide (timeBound s < agentTime t (streamAg s))

/-- Pop queue `n` once (R221): dropped elements are read as demand accesses, which may trap; the cursor moves by W, the declared width
(R220). The arm comes after the reads of what it pops (R222); an issue whose elements cannot be read yet stalls. -/
def popStream (s0 : State) (n : Nat) : Exe :=
  match s0.gang.streams[n]? with
  | none => .ok s0
  | some q0 =>
    let ps := popPositions s0.gang q0
    let s := ps.foldl (fun s e => streamFetch s n e.2) s0
    match s.gang.streams[n]? with
    | none => .ok s
    | some q =>
      if streamPast s0 s then .stall 9 s0
      else
      let es := descBytes q.desc
      let els := ps.filterMap (fun e => match aheadAt q e.2 with
        | some none => some (⟨e.1, elemAddr q.desc (streamIndex q e.2), es⟩ : Elem)
        | _ => none)
      match checkAccess s (armAgent s) (apCtx s) (descOvr q.desc) es .read els with
      | .error t => .trap t (faultMarks s0 (armAgent s0) (apCtx s0) (descOvr q.desc) es .read els)
      | .ok cs =>
        let s := ps.foldl (fun s e => match aheadAt q e.2 with | some (some _) => popCapture s q e.1 e.2 | _ => s) s
        let s := creditAccess (commitXlat s (armAgent s) .read cs) true (spanOf cs) cs
        let s := noteWatch s (els.map (fun e => (e.addr, e.n))) .read
        let rd := cs.foldl (fun (acc : List (Nat × DWord × Option Nat) × State) c =>
          let r := readChecked acc.2 c (.cached .normal)
          (acc.1 ++ [(c.el.lane, extendBytes q.sx r.1, r.2.1.map (fun x => x.2))], r.2.2)) (([], s) : List (Nat × DWord × Option Nat) × State)
        let s := raiseTime rd.2 (armNo rd.2) (agentTime rd.2 (streamAg rd.2))
        let val (e : Nat × Nat) : DWord × Option Nat :=
          match aheadAt q e.2 with
          | some (some v) => v
          | some none => (match rd.1.find? (fun x => x.1 == e.1) with | some x => x.2 | none => (0, none))
          | none => (0, none)
        let out (e : Nat × Nat) : Bool :=
          let idx := streamIndex q e.2
          decide (e.2 < streamTotal q) && q.checked && (decide (idx < 0) || decide ((descExtent q.desc : Int) ≤ idx))
        let bad := ps.find? (fun e => (val e).2.isSome)
        boundedExe s0 (.ok (s.onGang (fun g =>
          let g := putStream g n { q with cursor := q.cursor + g.declared,
                                          ahead := q.ahead.filter (fun e => decide (q.cursor + g.declared ≤ e.1)) }
          let g := { g with popv := ps.foldl (fun m e => smapSet 0 m (vKey n e.1) (if (val e).2.isSome then 0 else (val e).1)) g.popv
                            popSh := smapSet Shadow.zero g.popSh n (loadInterval es q.sx)
                            bmiss := ps.foldl (fun m e => if out e then m ||| laneBit e.1 else m) g.bmiss }
          match bad with
          | some e => addPend g ⟨q.ctr, q.ticket, causePoison, 3, BitVec.ofNat 64 (elemAddr q.desc (streamIndex q e.2)), (val e).2.getD 0, 0⟩
          | none => g)))

/-- Pop every stream that an issue reads (R221). -/
def popAll (s : State) (i : Instr) : Exe := (popsOf s.gang i).foldl (fun x n => x.bind (fun s => popStream s n)) (.ok s)

/-! ### Issue -/

/-- The address of the group's instruction: the group's address past its prefixes (R33). -/
def instrAddr (a : Arm) : DWord :=
  a.pc + (if a.pr.isSome then 4 else 0) + (if a.pn.isSome then 4 else 0)

/-- Items 4 and 5 of R42, in order: IllegalInstruction, also for a register that may not be named (R219, R231), then
Privilege. -/
def earlyTrap (s : State) (i : Instr) (needSup : Bool) : Option Trap :=
  if !instrWf i || !usesOk s.gang i then some (plainTrap s.gang causeIllegal 0 (instrAddr s.gang.arm).toNat)
  else if needSup && !s.gang.arm.sup then some (plainTrap s.gang causePrivilege 0 s.gang.arm.pc.toNat)
  else none

/-- The part of an issue before an instruction's own causes: items 4 and 5 of R42, the faults of stream elements, the
hazards of R173, and a destination that is still owed (reason 0 of R420). -/
def preIssue (s : State) (i : Instr) (needSup : Bool) : Exe :=
  match earlyTrap s i needSup with
  | some t => .trap t s
  | none =>
    (popAll s i).bind (fun s' =>
      match hazardReg s.gang (usesNow s.gang.arm i) with
      | some r => .trap (plainTrap s.gang causeHazard 0 r) s
      | none => if owedWrite s.gang (usesNow s.gang.arm i) then .stall 0 s else .ok s')

/-- A precise stop of the executing arm (R423): STOPPED is set and the stop is traced. `before` where it falls before an
instruction, which then issues without stopping again. -/
def preciseStop (s : State) (before : Bool) : State :=
  let s := s.onArm (fun a => { a with halted := true, watchHit := false, stepOne := false, skipStop := before })
  let s := match debugBlock s s.gang.ctx with
    | some k => mmPutField s (dbgBlock k + 0x10) 4 4 1
    | none => s
  trace s 6 (some 3)

/-- A single step of the executing arm is over: it stops, and the command has finished (R425). -/
def stepDone (s : State) : State :=
  if s.live ∧ s.gang.arm.stepOne then
    let s := match debugBlock s s.gang.ctx with
      | some k => mmPutField s (dbgBlock k + 0x10) 0 0 1
      | none => s
    s.onArm (fun a => { a with halted := true, stepOne := false })
  else s

/-- After an instruction or group of the executing arm: arrival at a join (R357), then a watchpoint's stop or the end of a
single step (R423, R425). -/
def afterIssue (s : State) : State :=
  let s := boundary s
  if !s.live then s
  else if s.gang.arm.watchHit then preciseStop s false
  else if s.gang.arm.rep = 0 then stepDone s
  else s

/-- A suspension that an instruction starts outlasts its issue (R112). -/
def stallKept : Stall → Stall
  | .posted t => .posted t
  | _ => .none

/-- The executing arm has issued: how often in succession (R353). -/
def runAfter (g : Gang) : Option (Nat × Nat) :=
  match g.run with
  | some (k, n) => if k = g.arm.slot then some (k, n + 1) else some (g.arm.slot, 1)
  | none => some (g.arm.slot, 1)

/-- The bookkeeping of an issue: the group's prefixes and popped values are spent. -/
def retire (s : State) : State :=
  s.onGang (fun g =>
    { g with
      popv := [], popSh := [], issued := g.issued + 1, run := runAfter g
      arm := { g.arm with pr := none, pn := none, stall := stallKept g.arm.stall, lastIssue := s.tick, issuedAt := s.cc + 1, skipStop := false } })

/-- How many repetitions the group's PN asks for (R37). -/
def repCount (a : Arm) : Nat := match a.pn with | some p => p.cnt.toNat + 1 | none => 1

/-- The address after the group (R400: "next"). -/
def nextAddr (a : Arm) (i : Instr) : DWord := instrAddr a + BitVec.ofNat 64 (instrBytes i)

/-- A sequential instruction is done: the next repetition, or the address after the group (R37). -/
def advance (s : State) (i : Instr) : State :=
  let a := s.gang.arm
  let s := retire s
  s.onArm (fun b =>
    if a.rep + 1 < repCount a then { b with rep := a.rep + 1 }
    else { b with rep := 0, pc := nextAddr a i })

/-- An issue that traps or stalls has popped no stream queue (R276): queues, popped values, missed lanes and pending causes
are as before it. -/
def unpop (s0 s : State) : State :=
  if s.gang.popSh.isEmpty then s
  else s.onGang (fun g => { g with streams := s0.gang.streams, popv := s0.gang.popv, popSh := s0.gang.popSh,
                                   bmiss := s0.gang.bmiss, pend := s0.gang.pend })

/-- What the outcome of an issue leaves: `done` follows a body that is done; a trap resumes at the group; a stalled
instruction has no effect and is tried again. -/
def settle (s0 : State) (x : Exe) (done : State → State) : State :=
  match x with
  | .ok s => done s
  | .trap t s => stepDone (trapEntry (unpop s0 s) t s0.gang.arm.pc)
  | .stall r s =>
    (unpop s0 s).onArm (fun a => { a with stall := (match a.stall with | .none | .retry _ => .retry r | w => w), pr := none, pn := none })

/-- Issue a sequential instruction whose effect is `body`. -/
def issue (i : Instr) (needSup : Bool) (s : State) (body : State → Exe) : Host.Outcome State Fault Refusal :=
  if !s.live then .next s
  else .next (settle s ((preIssue s i needSup).bind body) (fun s' => afterIssue (advance s' i)))

/-- Issue an instruction whose body sets the PC. -/
def issueJump (i : Instr) (needSup : Bool) (s : State) (body : State → Exe) : Host.Outcome State Fault Refusal :=
  if !s.live then .next s
  else .next (settle s ((preIssue s i needSup).bind body) (fun s' => afterIssue (retire s')))

/-- Step a unit that needs no arm: the event's effect. -/
def event (s : State) (f : State → State) : Host.Outcome State Fault Refusal := .next (f s)

end Sys2Proof.Machine
end

