-- ==== Sys2Proof/Machine/Num.lean ====
section
/-! DEFINITION. Floating-point formats, exact reals and rounding (R255 to R269): decoding, Round with its flags, flush
and saturation, and the special results. Values are exact dyadic numbers; a sticky bit stands for the part below them. -/

namespace Sys2Proof.Machine

/-- The five flags in the order of R271: NV, DZ, OF, UF, NX from bit 4 down. -/
abbrev Flags := BitVec 5

/-- Invalid. -/
def flagNV : Flags := 16
/-- Divide-by-zero. -/
def flagDZ : Flags := 8
/-- Overflow. -/
def flagOF : Flags := 4
/-- Underflow. -/
def flagUF : Flags := 2
/-- Inexact. -/
def flagNX : Flags := 1

/-- The floating-point formats (R256). -/
inductive Fmt where
  | f64 | f32 | f16 | bf16 | e5m2 | e4m3
  deriving DecidableEq, Repr

/-- Width in bits (R256). -/
def fmtWidth : Fmt → Nat
  | .f64 => 64
  | .f32 => 32
  | .f16 | .bf16 => 16
  | .e5m2 | .e4m3 => 8

/-- Fraction bits (R256). -/
def fmtFrac : Fmt → Nat
  | .f64 => 52
  | .f32 => 23
  | .f16 => 10
  | .bf16 => 7
  | .e5m2 => 2
  | .e4m3 => 3

/-- Exponent bits (R256). -/
def fmtExp (f : Fmt) : Nat := fmtWidth f - 1 - fmtFrac f

/-- Bias (R256). -/
def fmtBias : Fmt → Nat
  | .f64 => 1023
  | .f32 | .bf16 => 127
  | .f16 | .e5m2 => 15
  | .e4m3 => 7

/-- The bit of a format in FPC's flush fields, counted from the E4M3 end (R273). -/
def fmtBit : Fmt → Nat
  | .f64 => 5
  | .f32 => 4
  | .f16 => 3
  | .bf16 => 2
  | .e5m2 => 1
  | .e4m3 => 0

/-- The rounding modes (R264). -/
inductive RMode where
  | rne | rtz | rdn | rup
  deriving DecidableEq, Repr

/-- The effective controls of an instruction (R35): rounding, saturation, operand and result flush per format
(bit `fmtBit`), and trap enables. -/
structure FCtl where
  rm : RMode
  sat : Bool
  fin : BitVec 6
  fout : BitVec 6
  te : Flags
  deriving DecidableEq, Repr

/-- Nearest-even, no flush, no saturation, no trap: the controls of atomics, BRDO, MVN and RoundF32 (R51, R187, R191). -/
def FCtl.plain : FCtl := ⟨.rne, false, 0, 0, 0⟩

/-- EffFlushIn(f) (R35). -/
def flushIn (c : FCtl) (f : Fmt) : Bool := c.fin.getLsbD (fmtBit f)

/-- EffFlushOut(f) (R35). -/
def flushOut (c : FCtl) (f : Fmt) : Bool := c.fout.getLsbD (fmtBit f)

/-- A decoded floating operand: a NaN with its sign, quietness and fraction; an infinity; or the exact value
(−1)^neg × m × 2^e. -/
inductive FVal where
  | nan (neg quiet : Bool) (frac : Nat)
  | inf (neg : Bool)
  | fin (neg : Bool) (m : Nat) (e : Int)
  deriving DecidableEq, Repr

/-- The value of an encoding (R256). -/
def fpDecode (f : Fmt) (bits : Nat) : FVal :=
  let fb := fmtFrac f
  let frac := bits % 2 ^ fb
  let ex := bits / 2 ^ fb % 2 ^ fmtExp f
  let neg := bits / 2 ^ (fmtWidth f - 1) % 2 == 1
  let top := 2 ^ fmtExp f - 1
  if f = .e4m3 then
    if ex = top ∧ frac = 7 then .nan neg true frac
    else if ex = 0 then .fin neg frac (1 - (fmtBias f : Int) - fb)
    else .fin neg (frac + 2 ^ fb) ((ex : Int) - fmtBias f - fb)
  else if ex = top then
    if frac = 0 then .inf neg else .nan neg (decide (2 ^ (fb - 1) ≤ frac)) frac
  else if ex = 0 then .fin neg frac (1 - (fmtBias f : Int) - fb)
  else .fin neg (frac + 2 ^ fb) ((ex : Int) - fmtBias f - fb)

/-- A subnormal encoding (R256). -/
def fpSubnormal (f : Fmt) (bits : Nat) : Bool :=
  bits / 2 ^ fmtFrac f % 2 ^ fmtExp f == 0 && bits % 2 ^ fmtFrac f != 0

/-- An operand as a floating instruction reads it: a subnormal becomes zero of its sign under operand flush (R268). -/
def fpOperand (c : FCtl) (f : Fmt) (bits : Nat) : FVal :=
  match fpDecode f bits with
  | .fin neg m e => if flushIn c f && fpSubnormal f bits then .fin neg 0 0 else .fin neg m e
  | v => v

/-- The sign bit of an encoding. -/
def signBits (f : Fmt) (neg : Bool) : Nat := if neg then 2 ^ (fmtWidth f - 1) else 0

/-- Infinity; in E4M3, which has none, the NaN of the sign (R257, R265). -/
def infBits (f : Fmt) (neg : Bool) : Nat :=
  signBits f neg + (match f with
    | .e4m3 => 0x7F
    | _ => (2 ^ fmtExp f - 1) * 2 ^ fmtFrac f)

/-- The largest finite encoding (R257). -/
def maxfBits (f : Fmt) (neg : Bool) : Nat :=
  signBits f neg + (match f with
    | .e4m3 => 0x7E
    | _ => (2 ^ fmtExp f - 1) * 2 ^ fmtFrac f - 1)

/-- The canonical NaN, positive (R257). -/
def canonNaN : Fmt → Nat
  | .e4m3 => 0x7F
  | f => (2 ^ fmtExp f - 1) * 2 ^ fmtFrac f + 2 ^ (fmtFrac f - 1)

/-- MAXF as mantissa and exponent. -/
def maxfMant (f : Fmt) : Nat × Int :=
  match f with
  | .e4m3 => (14, 5)
  | _ => (2 ^ (fmtFrac f + 1) - 1, (2 ^ fmtExp f - 2 : Nat) - (fmtBias f : Int) - fmtFrac f)

/-- `m × 2^k` for a shift of either sign, rounding toward zero. -/
def shiftInt (m : Nat) (k : Int) : Nat := if 0 ≤ k then m * 2 ^ k.toNat else m / 2 ^ (-k).toNat

/-- Compare m1 × 2^e1 with m2 × 2^e2. -/
def dyLt (m1 : Nat) (e1 : Int) (m2 : Nat) (e2 : Int) : Bool :=
  if e1 ≤ e2 then decide (m1 < m2 * 2 ^ (e2 - e1).toNat) else decide (m1 * 2 ^ (e1 - e2).toNat < m2)

/-- The number of bits of m. -/
def bitLen (m : Nat) : Nat := if m = 0 then 0 else Nat.log2 m + 1

/-- An exact real: (−1)^neg × (m + δ) × 2^e with δ = 0, or 0 < δ < 1 when `sticky`. -/
structure Exact where
  neg : Bool
  m : Nat
  e : Int
  sticky : Bool
  deriving DecidableEq, Repr

/-- Round the magnitude to a multiple of 2^q (R264): the multiple and whether the rounding was inexact. -/
def roundAt (x : Exact) (q : Int) (rm : RMode) : Nat × Bool :=
  let sh := (q - x.e).toNat
  if q ≤ x.e then (x.m * 2 ^ (x.e - q).toNat, x.sticky)
  else
    let k := x.m / 2 ^ sh
    let r := x.m % 2 ^ sh
    let inexact := r ≠ 0 || x.sticky
    let half := 2 ^ (sh - 1)
    let up := match rm with
      | .rne => decide (half < r) || (decide (r = half) && (x.sticky || k % 2 == 1))
      | .rtz => false
      | .rdn => x.neg && inexact
      | .rup => !x.neg && inexact
    (if up then k + 1 else k, inexact)

/-- The encoding of ±k × 2^q, which the format holds exactly. -/
def finBits (f : Fmt) (neg : Bool) (k : Nat) (q : Int) : Nat :=
  let fb := fmtFrac f
  if k = 0 then signBits f neg
  else
    let ex := q + bitLen k - 1
    if ex < 1 - (fmtBias f : Int) then signBits f neg + shiftInt k (q - (1 - (fmtBias f : Int) - fb))
    else signBits f neg + (ex + fmtBias f).toNat * 2 ^ fb + (shiftInt k (q - (ex - fb)) - 2 ^ fb)

/-- OvfResult(s, f, m) (R265). -/
def ovfInf (neg : Bool) : RMode → Bool
  | .rne => true
  | .rtz => false
  | .rdn => neg
  | .rup => !neg

/-- An infinite result under saturation and in E4M3 (R265, R266). -/
def infResult (c : FCtl) (f : Fmt) (neg : Bool) : Nat := if c.sat then maxfBits f neg else infBits f neg

/-- Round(x, f, m) with the effective controls (R265): the encoding and the flags raised. -/
def fpRound (c : FCtl) (f : Fmt) (x : Exact) : Nat × Flags :=
  if x.m = 0 ∧ !x.sticky then (signBits f x.neg, 0)
  else
    let q := x.e + bitLen x.m - (fmtFrac f + 1)
    let y := roundAt x q c.rm
    let mf := maxfMant f
    if dyLt mf.1 mf.2 y.1 q then
      (if ovfInf x.neg c.rm then infResult c f x.neg else maxfBits f x.neg, flagOF ||| flagNX)
    else if dyLt y.1 q 1 (1 - (fmtBias f : Int)) then
      if flushOut c f then (signBits f x.neg, flagUF ||| flagNX)
      else
        let q' := 1 - (fmtBias f : Int) - fmtFrac f
        let z := roundAt x q' c.rm
        (finBits f x.neg z.1 q', if z.2 then flagUF ||| flagNX else 0)
    else (finBits f x.neg y.1 q, if y.2 then flagNX else 0)

/-- InvalidResult(f) (R269). -/
def invalidResult (f : Fmt) : Nat × Flags := (canonNaN f, flagNV)

/-- The NaN that a NaN operand of format `g` gives in format `f` (R269). -/
def nanResult (g f : Fmt) (neg : Bool) (frac : Nat) : Nat :=
  match f with
  | .e4m3 => if neg then 0xFF else 0x7F
  | _ =>
    let fb := fmtFrac f
    let gb := fmtFrac g
    let fr := (if gb ≤ fb then frac * 2 ^ (fb - gb) else frac / 2 ^ (gb - fb)) % 2 ^ fb
    signBits f neg + (2 ^ fmtExp f - 1) * 2 ^ fb + (fr ||| 2 ^ (fb - 1))

/-- Is the operand a NaN. -/
def isNaN : FVal → Bool
  | .nan _ _ _ => true
  | _ => false

/-- Is the operand a signalling NaN. -/
def isSNaN : FVal → Bool
  | .nan _ q _ => !q
  | _ => false

/-- NaNOperandResult over operands in order, each with its format (R269); `none` when none is a NaN. -/
def nanOperand (ops : List (Fmt × FVal)) (f : Fmt) : Option (Nat × Flags) :=
  match ops.find? (fun o => isNaN o.2) with
  | some (g, .nan neg _ frac) =>
    some (nanResult g f neg frac, if ops.any (fun o => isSNaN o.2) then flagNV else 0)
  | _ => none

/-- The sign of an operand. -/
def fvNeg : FVal → Bool
  | .nan n _ _ => n
  | .inf n => n
  | .fin n _ _ => n

/-- Is the operand a zero. -/
def isZero : FVal → Bool
  | .fin _ m _ => m == 0
  | _ => false

/-- Is the operand infinite. -/
def isInf : FVal → Bool
  | .inf _ => true
  | _ => false

/-- A signed magnitude. -/
def signed (neg : Bool) (m : Nat) : Int := if neg then -(m : Int) else m

/-- The exact sum of two finite values; an exact zero takes the sign IEEE 754 gives it (R265). -/
def addExact (rm : RMode) (n1 : Bool) (m1 : Nat) (e1 : Int) (n2 : Bool) (m2 : Nat) (e2 : Int) : Exact :=
  let e := if m1 = 0 then e2 else if m2 = 0 then e1 else min e1 e2
  let s := signed n1 (if m1 = 0 then 0 else m1 * 2 ^ (e1 - e).toNat) +
    signed n2 (if m2 = 0 then 0 else m2 * 2 ^ (e2 - e).toNat)
  if s = 0 then ⟨if m1 = 0 ∧ m2 = 0 ∧ n1 = n2 then n1 else rm = .rdn, 0, 0, false⟩
  else ⟨decide (s < 0), s.natAbs, e, false⟩

/-- Addition (R289). -/
def fpAddV (c : FCtl) (f : Fmt) (a b : FVal) : Nat × Flags :=
  match nanOperand [(f, a), (f, b)] f with
  | some r => r
  | none =>
    match a, b with
    | .inf n1, .inf n2 => if n1 = n2 then (infResult c f n1, 0) else invalidResult f
    | .inf n, _ => (infResult c f n, 0)
    | _, .inf n => (infResult c f n, 0)
    | .fin n1 m1 e1, .fin n2 m2 e2 => fpRound c f (addExact c.rm n1 m1 e1 n2 m2 e2)
    | _, _ => invalidResult f

/-- Negate an operand; a NaN keeps its sign, so that FSUB reports its NaN operand as it stands (R269). -/
def fvNegate : FVal → FVal
  | .nan n q fr => .nan n q fr
  | .inf n => .inf (!n)
  | .fin n m e => .fin (!n) m e

/-- Multiplication (R289). -/
def fpMulV (c : FCtl) (f : Fmt) (a b : FVal) : Nat × Flags :=
  match nanOperand [(f, a), (f, b)] f with
  | some r => r
  | none =>
    match a, b with
    | .fin n1 m1 e1, .fin n2 m2 e2 => fpRound c f ⟨n1 != n2, m1 * m2, e1 + e2, false⟩
    | _, _ => if isZero a || isZero b then invalidResult f else (infResult c f (fvNeg a != fvNeg b), 0)

/-- A × B + C, rounded once (R286); the product 0 × ∞ raises invalid even beside a quiet NaN C. -/
def fpFmaV (c : FCtl) (f : Fmt) (a b d : FVal) : Nat × Flags :=
  let badProduct := (isZero a && isInf b) || (isInf a && isZero b)
  match nanOperand [(f, a), (f, b), (f, d)] f with
  | some (r, fl) => (r, if badProduct then fl ||| flagNV else fl)
  | none =>
    if badProduct then invalidResult f
    else
      let pn := fvNeg a != fvNeg b
      match a, b, d with
      | .fin _ m1 e1, .fin _ m2 e2, .fin n3 m3 e3 =>
        fpRound c f (addExact c.rm pn (m1 * m2) (e1 + e2) n3 m3 e3)
      | .fin _ _ _, .fin _ _ _, _ => (infResult c f (fvNeg d), 0)
      | _, _, .inf n3 => if pn = n3 then (infResult c f pn, 0) else invalidResult f
      | _, _, _ => (infResult c f pn, 0)

/-- The exact quotient of two positive values to `p` bits and a sticky bit. -/
def divExact (neg : Bool) (m1 : Nat) (e1 : Int) (m2 : Nat) (e2 : Int) (p : Nat) : Exact :=
  let k := p + bitLen m2
  ⟨neg, m1 * 2 ^ k / m2, e1 - e2 - k, m1 * 2 ^ k % m2 != 0⟩

/-- Division (R289, R269). -/
def fpDivV (c : FCtl) (f : Fmt) (a b : FVal) : Nat × Flags :=
  let neg := fvNeg a != fvNeg b
  match nanOperand [(f, a), (f, b)] f with
  | some r => r
  | none =>
    match a, b with
    | .inf _, .inf _ => invalidResult f
    | .inf _, _ => (infResult c f neg, 0)
    | _, .inf _ => (signBits f neg, 0)
    | .fin _ m1 e1, .fin _ m2 e2 =>
      if m2 = 0 then (if m1 = 0 then invalidResult f else (infResult c f neg, flagDZ))
      else if m1 = 0 then (signBits f neg, 0)
      else fpRound c f (divExact neg m1 e1 m2 e2 (fmtFrac f + 4))
    | _, _ => invalidResult f

/-- The integer square root of `x`, given a power of two `2^n` above it: one bit per step. -/
def isqrtGo (x : Nat) : Nat → Nat → Nat
  | 0, r => r
  | n + 1, r => isqrtGo x n (if (r + 2 ^ n) * (r + 2 ^ n) ≤ x then r + 2 ^ n else r)

/-- The integer square root. -/
def isqrt (x : Nat) : Nat := isqrtGo x (bitLen x / 2 + 1) 0

/-- The exact square root of m × 2^e to at least `p` bits and a sticky bit. -/
def sqrtExact (m : Nat) (e : Int) (p : Nat) : Exact :=
  let m0 := if e % 2 = 0 then m else m * 2
  let e0 := if e % 2 = 0 then e else e - 1
  let x := m0 * 2 ^ (2 * p)
  let r := isqrt x
  ⟨false, r, e0 / 2 - p, r * r != x⟩

/-- The exact reciprocal square root of m × 2^e to at least `p` bits and a sticky bit. -/
def rsqrtExact (m : Nat) (e : Int) (p : Nat) : Exact :=
  let m0 := if e % 2 = 0 then m else m * 2
  let e0 := if e % 2 = 0 then e else e - 1
  let k := p + bitLen m0
  let x := 2 ^ (2 * k) / m0
  let r := isqrt x
  ⟨false, r, -(e0 / 2) - k, r * r * m0 != 2 ^ (2 * k)⟩

/-- Square root (R289, R291). -/
def fpSqrtV (c : FCtl) (f : Fmt) (a : FVal) : Nat × Flags :=
  match nanOperand [(f, a)] f with
  | some r => r
  | none =>
    match a with
    | .fin neg m e =>
      if m = 0 then (signBits f neg, 0)
      else if neg then invalidResult f
      else fpRound c f (sqrtExact m e (fmtFrac f + 4))
    | .inf neg => if neg then invalidResult f else (infResult c f false, 0)
    | _ => invalidResult f

/-- Reciprocal (R291). -/
def fpRcpV (c : FCtl) (f : Fmt) (a : FVal) : Nat × Flags :=
  match nanOperand [(f, a)] f with
  | some r => r
  | none =>
    match a with
    | .fin neg m e =>
      if m = 0 then (infResult c f neg, flagDZ) else fpRound c f (divExact neg 1 0 m e (fmtFrac f + 4))
    | .inf neg => (signBits f neg, 0)
    | _ => invalidResult f

/-- Reciprocal square root (R291). -/
def fpRsqV (c : FCtl) (f : Fmt) (a : FVal) : Nat × Flags :=
  match nanOperand [(f, a)] f with
  | some r => r
  | none =>
    match a with
    | .fin neg m e =>
      if m = 0 then (infResult c f neg, flagDZ)
      else if neg then invalidResult f
      else fpRound c f (rsqrtExact m e (fmtFrac f + 4))
    | .inf neg => if neg then invalidResult f else (signBits f false, 0)
    | _ => invalidResult f

/-- Order of two non-NaN operands with −0 below +0: is `a` below `b` (R290). -/
def fvLt (zeroOrder : Bool) (a b : FVal) : Bool :=
  match a, b with
  | .inf n1, .inf n2 => n1 && !n2
  | .inf n1, _ => n1
  | _, .inf n2 => !n2
  | .fin n1 m1 e1, .fin n2 m2 e2 =>
    if m1 = 0 ∧ m2 = 0 then zeroOrder && n1 && !n2
    else if m1 = 0 then !n2
    else if m2 = 0 then n1
    else match n1, n2 with
      | true, false => true
      | false, true => false
      | false, false => dyLt m1 e1 m2 e2
      | true, true => dyLt m2 e2 m1 e1
  | _, _ => false

/-- Equality of two non-NaN operands, with −0 = +0 (R288). -/
def fvEq (a b : FVal) : Bool := !fvLt false a b && !fvLt false b a

/-- The encoding of an operand as it was read, flushed or not (R290). -/
def fvBits (c : FCtl) (f : Fmt) (bits : Nat) : Nat :=
  if flushIn c f && fpSubnormal f bits then signBits f (bits / 2 ^ (fmtWidth f - 1) % 2 == 1)
  else bits % 2 ^ fmtWidth f

/-- FMIN and FMAX (R290). -/
def fpMinMax (c : FCtl) (f : Fmt) (wantMax : Bool) (x y : Nat) : Nat × Flags :=
  let a := fpOperand c f x
  let b := fpOperand c f y
  let fl : Flags := if isSNaN a || isSNaN b then flagNV else 0
  match isNaN a, isNaN b with
  | true, true => (nanOperand [(f, a), (f, b)] f).getD (invalidResult f)
  | true, false => (fvBits c f y, fl)
  | false, true => (fvBits c f x, fl)
  | false, false =>
    if (if wantMax then fvLt true a b else fvLt true b a) then (fvBits c f y, fl) else (fvBits c f x, fl)

/-- FRND: round to an integral value; only a signalling NaN raises a flag (R290). -/
def fpRnd (c : FCtl) (f : Fmt) (x : Nat) : Nat × Flags :=
  match fpOperand c f x with
  | .nan neg q frac => (nanResult f f neg frac, if q then 0 else flagNV)
  | .inf neg => (infResult c f neg, 0)
  | .fin neg m e => ((fpRound { c with rm := .rtz } f ⟨neg, (roundAt ⟨neg, m, e, false⟩ 0 c.rm).1, 0, false⟩).1, 0)

/-- FCLASS (R290). -/
def fpClass (f : Fmt) (x : Nat) : Nat :=
  match fpDecode f x with
  | .nan _ q _ => if q then 512 else 256
  | .inf neg => if neg then 1 else 128
  | .fin neg m _ =>
    if m = 0 then (if neg then 8 else 16)
    else if fpSubnormal f x then (if neg then 4 else 32)
    else (if neg then 2 else 64)

/-- FCMP: whether the condition holds, and the flags (R288). -/
def fpCmp (c : FCtl) (f : Fmt) (cond : FCond) (x y : Nat) : Bool × Flags :=
  let a := fpOperand c f x
  let b := fpOperand c f y
  let un := isNaN a || isNaN b
  let sn := isSNaN a || isSNaN b
  let ordered := match cond with
    | .lt | .ge | .le | .gt => true
    | _ => false
  let fl : Flags := if sn || (un && ordered) then flagNV else 0
  let r := match cond with
    | .eq => !un && fvEq a b
    | .ne => un || !fvEq a b
    | .lt => !un && fvLt false a b
    | .ge => !un && !fvLt false a b
    | .le => !un && !fvLt false b a
    | .gt => !un && fvLt false b a
    | .un => un
    | .ord => !un
  (r, fl)

/-- Float to float conversion (R267). -/
def fpConvert (c : FCtl) (src dst : Fmt) (x : Nat) : Nat × Flags :=
  match fpOperand c src x with
  | .nan neg q frac => (nanResult src dst neg frac, if q then 0 else flagNV)
  | .inf neg => (infResult c dst neg, if dst = .e4m3 then flagNV else 0)
  | .fin neg m e => fpRound c dst ⟨neg, m, e, false⟩

/-- Integer to float conversion (R267). -/
def fpOfInt (c : FCtl) (f : Fmt) (n : Int) : Nat × Flags := fpRound c f ⟨decide (n < 0), n.natAbs, 0, false⟩

/-- Float to integer conversion, clamped to [lo, hi] (R267). -/
def fpToInt (c : FCtl) (f : Fmt) (lo hi : Int) (x : Nat) : Int × Flags :=
  match fpOperand c f x with
  | .nan _ _ _ => (0, flagNV)
  | .inf neg => (if neg then lo else hi, flagNV)
  | .fin neg m e =>
    let r := roundAt ⟨neg, m, e, false⟩ 0 c.rm
    let n := signed neg r.1
    if n < lo then (lo, flagNV) else if hi < n then (hi, flagNV) else (n, if r.2 then flagNX else 0)

/-- An exact sum under construction: any NaN, the infinities met, and a finite sum as an integer at 2^e. -/
structure DotAcc where
  posInf : Bool
  negInf : Bool
  invalid : Bool
  sum : Int
  e : Int
  /-- Every term so far is a positive zero, or a negative zero: the sign of a zero sum (R265). -/
  zpos : Bool
  zneg : Bool
  deriving DecidableEq, Repr

/-- The empty sum. -/
def DotAcc.empty : DotAcc := ⟨false, false, false, 0, 0, true, true⟩

/-- Add a finite term. -/
def dotAddFin (s : DotAcc) (neg : Bool) (m : Nat) (e : Int) : DotAcc :=
  if m = 0 then { s with zpos := s.zpos && !neg, zneg := s.zneg && neg }
  else
    let e' := if s.sum = 0 then e else min s.e e
    { s with sum := s.sum * 2 ^ (s.e - e').toNat + signed neg m * 2 ^ (e - e').toNat, e := e', zpos := false,
             zneg := false }

/-- Add an infinite term. -/
def dotAddInf (s : DotAcc) (neg : Bool) : DotAcc :=
  if neg then { s with negInf := true } else { s with posInf := true }

/-- Add the product of two non-NaN values (R295, R308). -/
def dotAddMul (s : DotAcc) (a b : FVal) : DotAcc :=
  match a, b with
  | .fin n1 m1 e1, .fin n2 m2 e2 => dotAddFin s (n1 != n2) (m1 * m2) (e1 + e2)
  | _, _ => if isZero a || isZero b then { s with invalid := true } else dotAddInf s (fvNeg a != fvNeg b)

/-- Add one non-NaN value. -/
def dotAddVal (s : DotAcc) (a : FVal) : DotAcc :=
  match a with
  | .fin n m e => dotAddFin s n m e
  | .inf n => dotAddInf s n
  | .nan _ _ _ => s

/-- Round an exact sum without NaN terms (R295). Like-signed zeros keep their sign. -/
def dotRound (c : FCtl) (f : Fmt) (s : DotAcc) : Nat × Flags :=
  if s.invalid || (s.posInf && s.negInf) then invalidResult f
  else if s.posInf then (infResult c f false, 0)
  else if s.negInf then (infResult c f true, 0)
  else if s.sum = 0 then
    (signBits f (if s.zpos then false else if s.zneg then true else decide (c.rm = .rdn)), 0)
  else fpRound c f ⟨decide (s.sum < 0), s.sum.natAbs, s.e, false⟩

end Sys2Proof.Machine
end

