-- ==== Sys2Proof/Machine/Flags.lean ====
section
/-! DEFINITION. The effective controls of an instruction (R35, R273), the sticky flags (R271), FPTrap (R272), and the
common effect of every arithmetic instruction (R275, R276). -/

namespace Sys2Proof.Machine

/-! ### Controls -/

/-- EffSat() (R35). -/
def effSat (g : Gang) : Bool := match g.arm.pr with | some p => p.sat | none => false

/-- A rounding mode of FPC (R264). -/
def rmOfFpc (fpc : Word) : RMode :=
  match (fpc.extractLsb' 0 2).toNat with
  | 0 => .rne
  | 1 => .rtz
  | 2 => .rdn
  | _ => .rup

/-- EffRound() (R35). -/
def effRound (g : Gang) : RMode :=
  match g.arm.pr.map (fun p => p.rm) with
  | some PrRound.rne => .rne
  | some PrRound.rtz => .rtz
  | some PrRound.rdn => .rdn
  | some PrRound.rup => .rup
  | _ => rmOfFpc g.fpc

/-- A flush field of PR over the FPC bits it replaces (R35). -/
def effFlush (f : Option Flush) (fpc : BitVec 6) : BitVec 6 :=
  match f with
  | some .on => 63
  | some .off => 0
  | _ => fpc

/-- EffTrapEn (R35). -/
def effTrapEn (g : Gang) : Flags :=
  match g.arm.pr with
  | some p => if p.xo then p.xe else g.fpc.extractLsb' 24 5
  | none => g.fpc.extractLsb' 24 5

/-- The effective controls of the executing arm's instruction (R35, R273). -/
def effCtl (g : Gang) : FCtl :=
  { rm := effRound g
    sat := effSat g
    fin := effFlush (g.arm.pr.map (fun p => p.fzo)) (g.fpc.extractLsb' 12 6)
    fout := effFlush (g.arm.pr.map (fun p => p.fzr)) (g.fpc.extractLsb' 18 6)
    te := effTrapEn g }

/-! ### The common effect -/

/-- What an operation computes for one lane, or for the scalar as lane 0. -/
structure LaneRes where
  lane : Nat
  val : Nat
  fl : Flags
  deriving DecidableEq, Repr

/-- The results of an operation over its lanes (R275). -/
def laneResults (g : Gang) (k : Kind) (f : Nat → Nat × Flags) : List LaneRes :=
  (opLanes g k).map (fun l => ⟨l, (f l).1, (f l).2⟩)

/-- A lane's result. -/
def resAt (rs : List LaneRes) (l : Nat) : Nat :=
  match rs.find? (fun r => r.lane == l) with
  | some r => r.val
  | none => 0

/-- The results with an enabled flag raised (R272). -/
def faulting (te : Flags) (rs : List LaneRes) : List LaneRes := rs.filter (fun r => r.fl &&& te != 0)

/-- FPTrap of the faulting results (R272): the union of their enabled flags, and the lowest lane. -/
def fpTrapOf (g : Gang) (k : Kind) (te : Flags) (bad : List LaneRes) : Trap :=
  let reason := (bad.foldl (fun m r => m ||| (r.fl &&& te)) (0 : Flags)).toNat
  match k with
  | .vec => ⟨causeFp, reason, (bad.headD ⟨0, 0, 0⟩).lane, lanesMask (bad.map (fun r => r.lane)), []⟩
  | .scal => plainTrap g causeFp reason 0

/-- OR raised flags into the sticky flags: each lane's, or the scalar flag set (R271). -/
def orFlags (k : Kind) (rs : List LaneRes) (g : Gang) : Gang :=
  match k with
  | .vec => { g with vflags := rs.foldl (fun m r => if r.fl = 0 then m else smapSet 0 m r.lane (smapGet 0 m r.lane ||| r.fl)) g.vflags }
  | .scal => { g with sflags := rs.foldl (fun m r => m ||| r.fl) g.sflags }

/-- Write results and their flags (R275). -/
def putResults (k : Kind) (wide : Bool) (d : Nat) (rs : List LaneRes) (sh : Shadow) (g : Gang) : Gang :=
  orFlags k rs (writeNat g k wide d (resAt rs) sh)

/-- The effect of an arithmetic instruction (R275): compute every lane, take FPTrap where an enabled flag is raised, and
otherwise write register `d` of kind `k`, the flags and the shadow. -/
def arith (s : State) (k : Kind) (wide : Bool) (d : Nat) (te : Flags) (f : Nat → Nat × Flags) (sh : Shadow) : Exe :=
  let rs := laneResults s.gang k f
  match faulting te rs with
  | [] => .ok (s.onGang (putResults k wide d rs sh))
  | bad => .trap (fpTrapOf s.gang k te bad) s

/-- One source, in field A. -/
def arith1 (k : Kind) (wD wA : Bool) (d a : Reg) (te : Flags) (f : Nat → Nat × Flags) (sh : Shadow → Shadow)
    (s : State) : Exe :=
  arith s k wD (regD s d) te (fun l => f (srcNat s.gang k wA (regA s a) l)) (sh (srcShadow s.gang k (regA s a)))

/-- Two sources, in fields A and B; A is of D's kind. -/
def arith2 (k kB : Kind) (wD wA wB : Bool) (d a b : Reg) (te : Flags) (f : Nat → Nat → Nat × Flags)
    (sh : Shadow → Shadow → Shadow) (s : State) : Exe :=
  arith s k wD (regD s d) te
    (fun l => f (srcNat s.gang k wA (regA s a) l) (srcNat s.gang kB wB (regB s b) l))
    (sh (srcShadow s.gang k (regA s a)) (srcShadow s.gang kB (regB s b)))

/-- Three sources, in fields A, B and C. -/
def arith3 (k kB kC : Kind) (wD wC : Bool) (d a b c : Reg) (te : Flags) (f : Nat → Nat → Nat → Nat × Flags)
    (sh : Shadow → Shadow → Shadow → Shadow) (s : State) : Exe :=
  arith s k wD (regD s d) te
    (fun l => f (srcNat s.gang k wD (regA s a) l) (srcNat s.gang kB wD (regB s b) l) (srcNat s.gang kC wC (regC s c) l))
    (sh (srcShadow s.gang k (regA s a)) (srcShadow s.gang kB (regB s b)) (srcShadow s.gang kC (regC s c)))

/-- The shadow of every result for which no rule states one (R235, R284). -/
def shTop1 (_ : Shadow) : Shadow := Shadow.top
/-- The same, of two sources. -/
def shTop2 (_ _ : Shadow) : Shadow := Shadow.top
/-- The same, of three sources. -/
def shTop3 (_ _ _ : Shadow) : Shadow := Shadow.top

end Sys2Proof.Machine
end

