-- ==== Sys2Proof/Machine/Integer.lean ====
section
/-! DEFINITION. Integer arithmetic, bit fields and immediates (R278 to R284, R286, R287). -/

namespace Sys2Proof.Machine

/-! ### Values -/

/-- An operand as its type reads it: signed for .i, unsigned otherwise; the bits above its width are ignored (R259). -/
def intRead (t : Ty) (x : Nat) : Int :=
  let w := tyWidth t
  let u := x % 2 ^ w
  if tyIsI t && decide (2 ^ (w - 1) ≤ u) then (u : Int) - 2 ^ w else u

/-- The bits of a result: the low bits of the number, an 8-bit or 16-bit one extended to 32 bits (R259). -/
def intWrite (t : Ty) (r : Int) : Nat :=
  let w := tyWidth t
  let u := (r % 2 ^ w).toNat
  if tyIsI t && decide (w < 32) && decide (2 ^ (w - 1) ≤ u) then u + 2 ^ 32 - 2 ^ w else u

/-- The least number of an integer type (R259). -/
def tyMin (t : Ty) : Int := if tyIsI t then -(2 ^ (tyWidth t - 1)) else 0
/-- The greatest number of an integer type (R259). -/
def tyMax (t : Ty) : Int := if tyIsI t then 2 ^ (tyWidth t - 1) - 1 else 2 ^ tyWidth t - 1

/-- Clamp to the type's range (R266). -/
def tyClamp (t : Ty) (r : Int) : Int := Max.max (tyMin t) (Min.min (tyMax t) r)

/-- A result of ADD, SUB, MUL or MAD: modulo 2^w, or clamped under Sat (R279). -/
def intFit (t : Ty) (sat : Bool) (r : Int) : Nat := intWrite t (if sat then tyClamp t r else r)

/-- The signed type of a raw type's width: a .b type clamps as signed (R278). -/
def satTy (t : Ty) : Ty :=
  match t with
  | .b8 => .i8
  | .b16 => .i16
  | .b32 => .i32
  | .b64 => .i64
  | t => t

/-- MAD (R286): modulo 2^w; under Sat the exact result clamped, a .b type's as signed (DEDUCED from R278, log entry 10). -/
def madVal (t : Ty) (sat : Bool) (x y z : Nat) : Nat :=
  let u := if sat then satTy t else t
  intWrite t (let r := intRead u x * intRead u y + intRead u z; if sat then tyClamp u r else r)

/-- DIV (R281). -/
def divInt (a b : Int) : Int := if b = 0 then -1 else Int.tdiv a b

/-- REM (R281). -/
def remInt (a b : Int) : Int := if b = 0 then a else Int.tmod a b

/-- Leading zero bits of the low `w` bits. -/
def clzNat (w x : Nat) : Nat := w - bitLen (x % 2 ^ w)

/-- Trailing zero bits of the low `w` bits. -/
def ctzNat (w x : Nat) : Nat := ((List.range w).find? (fun i => x.testBit i)).getD w

/-- Set bits among the low `w` bits. -/
def popcNat (w x : Nat) : Nat := ((List.range w).filter (fun i => x.testBit i)).length

/-- The low `w` bits in reverse order. -/
def brevNat (w x : Nat) : Nat := (List.range w).foldl (fun r i => if x.testBit i then r + 2 ^ (w - 1 - i) else r) 0

/-- A rotation left by k of the low `w` bits, k < w. -/
def rotNat (w x k : Nat) : Nat :=
  let u := x % 2 ^ w
  (u * 2 ^ k) % 2 ^ w + u / 2 ^ (w - k)

/-- BFX (R282). -/
def bfxVal (t : Ty) (x ctl : Nat) : Nat :=
  let w := tyWidth t
  let pos := ctl % 64
  let len := Min.min (ctl / 256 % 128) w
  if len = 0 ∨ w ≤ pos then 0
  else
    let n := Min.min (pos + len) w - pos
    let f := x % 2 ^ w / 2 ^ pos % 2 ^ n
    intWrite t (if tyIsI t && decide (2 ^ (n - 1) ≤ f) then (f : Int) - 2 ^ n else f)

/-- BFI (R282): the low bits of A inserted into B. -/
def bfiVal (t : Ty) (x y ctl : Nat) : Nat :=
  let w := tyWidth t
  let pos := ctl % 64
  let n := Min.min (ctl / 256 % 128) w
  let y := y % 2 ^ w
  intWrite t (((List.range n).foldl (fun r i =>
    if pos + i < w then (if x.testBit i then r ||| 2 ^ (pos + i) else r &&& (2 ^ w - 1 - 2 ^ (pos + i))) else r) y : Nat) : Int)

/-- The result of a member of the integer group (R279), from the register values of A and B. -/
def intVal (f : IntFn) (t : Ty) (sat : Bool) (x y : Nat) : Nat :=
  let w := tyWidth t
  let a := intRead t x
  let b := intRead t y
  let u := x % 2 ^ w
  let v := y % 2 ^ w
  let k := y % w
  match f with
  | .add => intFit t sat (a + b)
  | .sub => intFit t sat (a - b)
  | .mul => intFit t sat (a * b)
  | .mulh => intWrite t (a * b / 2 ^ w)
  | .div => intWrite t (divInt a b)
  | .rem => intWrite t (remInt a b)
  | .min => intWrite t (if a ≤ b then a else b)
  | .max => intWrite t (if a ≤ b then b else a)
  | .and => intWrite t ((u &&& v : Nat) : Int)
  | .or => intWrite t ((u ||| v : Nat) : Int)
  | .xor => intWrite t ((u ^^^ v : Nat) : Int)
  | .andn => intWrite t ((u &&& (2 ^ w - 1 - v) : Nat) : Int)
  | .shl => intWrite t ((u * 2 ^ k : Nat) : Int)
  | .shr => intWrite t ((u / 2 ^ k : Nat) : Int)
  | .sra => intWrite t (a / 2 ^ k)
  | .rot => intWrite t ((rotNat w u k : Nat) : Int)
  | .abs => intWrite t (if a < 0 then -a else a)
  | .neg => intWrite t (-a)
  | .clz => clzNat w u
  | .ctz => ctzNat w u
  | .popc => popcNat w u
  | .brev => intWrite t ((brevNat w u : Nat) : Int)

/-! ### Shadows (R235, R236, R284) -/

/-- DIV. -/
def shDiv (a b : Shadow) : Shadow := if 0 ≤ a.lo ∧ 1 ≤ b.lo then ⟨a.lo / b.hi, a.hi / b.lo⟩ else Shadow.top

/-- REM. -/
def shRem (a b : Shadow) : Shadow := if 0 ≤ a.lo ∧ 1 ≤ b.lo then ⟨0, Min.min a.hi (b.hi - 1)⟩ else Shadow.top

/-- ABS. -/
def shAbs (a : Shadow) : Shadow :=
  if a.lo = i32Min then Shadow.top
  else if 0 ≤ a.lo then a else if a.hi ≤ 0 then ⟨-a.hi, -a.lo⟩ else ⟨0, Max.max (-a.lo) a.hi⟩

/-- ADD, SUB or MUL of a 32-bit type: under Sat a signed form clamps, and any other form gives Top() (R236). -/
def shSat (t : Ty) (sat : Bool) (f : Bool → Shadow → Shadow → Shadow) (a b : Shadow) : Shadow :=
  if sat && !tyIsI t then Shadow.top else f sat a b

/-- MAD.i32: the MUL rule, then the ADD rule (R284). -/
def shMad (t : Ty) (sat : Bool) (a b c : Shadow) : Shadow :=
  if t = .i32 ∧ !sat then
    let p := shMul false a b
    if p = Shadow.top then Shadow.top else shAdd false p c
  else Shadow.top

/-- BFX under an exact control word (R284). -/
def shBfx (t : Ty) (_a b : Shadow) : Shadow :=
  let ctl := (b.lo % 2 ^ 32).toNat
  let pos := ctl % 64
  let len := ctl / 256 % 128
  if tyWidth t = 32 ∧ b.lo = b.hi ∧ 1 ≤ len ∧ len ≤ 31 ∧ pos < 32 then
    (if tyIsI t then ⟨-(2 ^ (len - 1)), 2 ^ (len - 1) - 1⟩ else ⟨0, 2 ^ len - 1⟩)
  else Shadow.top

/-- The result shadow of a member of the integer group. -/
def intShadow (f : IntFn) (t : Ty) (sat : Bool) (a b : Shadow) : Shadow :=
  match f with
  | .clz | .ctz | .popc => ⟨0, tyWidth t⟩
  | _ =>
    if tyWidth t ≠ 32 then Shadow.top
    else match f with
      | .add => shSat t sat shAdd a b
      | .sub => shSat t sat shSub a b
      | .mul => shSat t sat shMul a b
      | .neg => shNeg a
      | .shl => shShl a b
      | .sra => shSra a b
      | .shr => shShr a b
      | .min => if tyIsI t then shMinI a b else shMinN a b
      | .max => if tyIsI t then shMaxI a b else shMaxN a b
      | .and => shAnd a b
      | .div => shDiv a b
      | .rem => shRem a b
      | .abs => shAbs a
      | _ => Shadow.top

/-! ### Bodies -/

/-- A two-source instruction of a 32-bit major (R278): its type is .i32, in which the raw operations read alike. -/
def intA (f : IntFn) (sh : ShA) (d a b : Reg) (s : State) : Exe :=
  let sat := effSat s.gang
  arith2 (shaKind sh) (shaKindB sh) false false false d a b 0 (fun x y => (intVal f .i32 sat x y, 0)) (intShadow f .i32 sat) s

/-- A one-source instruction of a 32-bit major. -/
def intU (f : IntFn) (k : Kind) (d a : Reg) (s : State) : Exe :=
  arith1 k false false d a 0 (fun x => (intVal f .i32 false x 0, 0)) (fun p => intShadow f .i32 false p p) s

/-- A register and an immediate, already extended (R21). -/
def intI (f : IntFn) (k : Kind) (d a : Reg) (imm : Word) (s : State) : Exe :=
  let sat := effSat s.gang
  arith1 k false false d a 0 (fun x => (intVal f .i32 sat x imm.toNat, 0)) (fun p => intShadow f .i32 sat p (shExact imm)) s

/-- A register and Imm32 of format L (R283): sign-extended for ADD, zero-extended otherwise, at 64 bits. -/
def intL (f : IntFn) (t : Ty) (k : Kind) (d a : Reg) (imm : Word) (s : State) : Exe :=
  let sat := effSat s.gang
  let y := if f = .add then (imm.signExtend 64).toNat else imm.toNat
  arith1 k (tyWide t) (tyWide t) d a 0 (fun x => (intVal f t sat x y, 0)) (fun p => intShadow f t sat p (shExact imm)) s

/-- A member of the integer group (R279). -/
def intW (f : IntFn) (t : Ty) (sh : ShW) (d a b : Reg) (s : State) : Exe :=
  let w := tyWide t
  let sat := effSat s.gang
  if intFnUnary f then
    arith1 (shwKind sh) (w && !intFnNarrowD f) w d a 0 (fun x => (intVal f t sat x 0, 0))
      (fun p => intShadow f t sat p p) s
  else
    arith2 (shwKind sh) (shwKindB sh) w w (w && !intFnNarrowB f) d a b 0
      (fun x y => (intVal f t sat x y, 0)) (intShadow f t sat) s

/-- LI: every lane takes the value (R283). -/
def loadImm (k : Kind) (wide : Bool) (d : Reg) (x : Nat) (sh : Shadow) (s : State) : Exe :=
  arith s k wide (regD s d) 0 (fun _ => (x, 0)) sh

/-- An FP32 value widened to FP64; a signalling NaN is quieted and no flag is raised (R283). -/
def widenF32 (x : Word) : Nat := (fpConvert FCtl.plain .f32 .f64 x.toNat).1

/-- The value that LI of format L writes (R283). -/
def liVal (t : Ty) (imm : Word) : Nat :=
  match t with
  | .i64 => (imm.signExtend 64).toNat
  | .f64 => widenF32 imm
  | _ => imm.toNat

/-- CMP of two comparands of `w` bits (R287). -/
def cmpVal (c : Cond) (wide : Bool) (x y : Nat) : Nat :=
  let h :=
    if wide then
      let a : DWord := BitVec.ofNat 64 x
      let b : DWord := BitVec.ofNat 64 y
      match c with
      | .eq => a == b
      | .ne => a != b
      | .lt => decide (a.toInt < b.toInt)
      | .ge => decide (b.toInt ≤ a.toInt)
      | .le => decide (a.toInt ≤ b.toInt)
      | .gt => decide (b.toInt < a.toInt)
      | .ltn => decide (a.toNat < b.toNat)
      | .gen => decide (b.toNat ≤ a.toNat)
      | .len => decide (a.toNat ≤ b.toNat)
      | .gtn => decide (b.toNat < a.toNat)
    else condHolds c (BitVec.ofNat 32 x) (BitVec.ofNat 32 y)
  if h then 1 else 0

/-! ### Meanings -/

/-- ADD (R279). -/
def execAdd (sh : ShA) (d a b : Reg) (s : State) : Host.Outcome State Fault Refusal :=
  issue (.add sh d a b) false s (fun s => intA .add sh d a b s)

/-- SUB (R279). -/
def execSub (sh : ShA) (d a b : Reg) (s : State) : Host.Outcome State Fault Refusal :=
  issue (.sub sh d a b) false s (fun s => intA .sub sh d a b s)

/-- MUL (R279). -/
def execMul (sh : ShA) (d a b : Reg) (s : State) : Host.Outcome State Fault Refusal :=
  issue (.mul sh d a b) false s (fun s => intA .mul sh d a b s)

/-- MULH (R279). -/
def execMulh (sh : ShA) (d a b : Reg) (s : State) : Host.Outcome State Fault Refusal :=
  issue (.mulh sh d a b) false s (fun s => intA .mulh sh d a b s)

/-- DIV (R281). -/
def execDiv (sh : ShA) (d a b : Reg) (s : State) : Host.Outcome State Fault Refusal :=
  issue (.div sh d a b) false s (fun s => intA .div sh d a b s)

/-- REM (R281). -/
def execRem (sh : ShA) (d a b : Reg) (s : State) : Host.Outcome State Fault Refusal :=
  issue (.rem sh d a b) false s (fun s => intA .rem sh d a b s)

/-- MIN (R279). -/
def execMin (sh : ShA) (d a b : Reg) (s : State) : Host.Outcome State Fault Refusal :=
  issue (.min sh d a b) false s (fun s => intA .min sh d a b s)

/-- MAX (R279). -/
def execMax (sh : ShA) (d a b : Reg) (s : State) : Host.Outcome State Fault Refusal :=
  issue (.max sh d a b) false s (fun s => intA .max sh d a b s)

/-- AND (R279). -/
def execAnd (sh : ShA) (d a b : Reg) (s : State) : Host.Outcome State Fault Refusal :=
  issue (.and sh d a b) false s (fun s => intA .and sh d a b s)

/-- OR (R279). -/
def execOr (sh : ShA) (d a b : Reg) (s : State) : Host.Outcome State Fault Refusal :=
  issue (.or sh d a b) false s (fun s => intA .or sh d a b s)

/-- XOR (R279). -/
def execXor (sh : ShA) (d a b : Reg) (s : State) : Host.Outcome State Fault Refusal :=
  issue (.xor sh d a b) false s (fun s => intA .xor sh d a b s)

/-- ANDN (R279). -/
def execAndn (sh : ShA) (d a b : Reg) (s : State) : Host.Outcome State Fault Refusal :=
  issue (.andn sh d a b) false s (fun s => intA .andn sh d a b s)

/-- SHL (R279). -/
def execShl (sh : ShA) (d a b : Reg) (s : State) : Host.Outcome State Fault Refusal :=
  issue (.shl sh d a b) false s (fun s => intA .shl sh d a b s)

/-- SHR (R279). -/
def execShr (sh : ShA) (d a b : Reg) (s : State) : Host.Outcome State Fault Refusal :=
  issue (.shr sh d a b) false s (fun s => intA .shr sh d a b s)

/-- SRA (R279). -/
def execSra (sh : ShA) (d a b : Reg) (s : State) : Host.Outcome State Fault Refusal :=
  issue (.sra sh d a b) false s (fun s => intA .sra sh d a b s)

/-- ROT (R279). -/
def execRot (sh : ShA) (d a b : Reg) (s : State) : Host.Outcome State Fault Refusal :=
  issue (.rot sh d a b) false s (fun s => intA .rot sh d a b s)

/-- ABS (R279). -/
def execAbs (k : Kind) (d a : Reg) (s : State) : Host.Outcome State Fault Refusal :=
  issue (.abs k d a) false s (fun s => intU .abs k d a s)

/-- NEG (R279). -/
def execNeg (k : Kind) (d a : Reg) (s : State) : Host.Outcome State Fault Refusal :=
  issue (.neg k d a) false s (fun s => intU .neg k d a s)

/-- CLZ (R279). -/
def execClz (k : Kind) (d a : Reg) (s : State) : Host.Outcome State Fault Refusal :=
  issue (.clz k d a) false s (fun s => intU .clz k d a s)

/-- CTZ (R279). -/
def execCtz (k : Kind) (d a : Reg) (s : State) : Host.Outcome State Fault Refusal :=
  issue (.ctz k d a) false s (fun s => intU .ctz k d a s)

/-- POPC (R279). -/
def execPopc (k : Kind) (d a : Reg) (s : State) : Host.Outcome State Fault Refusal :=
  issue (.popc k d a) false s (fun s => intU .popc k d a s)

/-- BREV (R279). -/
def execBrev (k : Kind) (d a : Reg) (s : State) : Host.Outcome State Fault Refusal :=
  issue (.brev k d a) false s (fun s => intU .brev k d a s)

/-- ADD with Imm8, sign-extended (R21, R279). -/
def execAddImm8 (k : Kind) (d a : Reg) (imm : BitVec 8) (s : State) : Host.Outcome State Fault Refusal :=
  issue (.addImm8 k d a imm) false s (fun s => intI .add k d a (imm.signExtend 32) s)

/-- AND with Imm8, zero-extended (R21, R279). -/
def execAndImm8 (k : Kind) (d a : Reg) (imm : BitVec 8) (s : State) : Host.Outcome State Fault Refusal :=
  issue (.andImm8 k d a imm) false s (fun s => intI .and k d a (imm.setWidth 32) s)

/-- OR with Imm8, zero-extended (R21, R279). -/
def execOrImm8 (k : Kind) (d a : Reg) (imm : BitVec 8) (s : State) : Host.Outcome State Fault Refusal :=
  issue (.orImm8 k d a imm) false s (fun s => intI .or k d a (imm.setWidth 32) s)

/-- XOR with Imm8, zero-extended (R21, R279). -/
def execXorImm8 (k : Kind) (d a : Reg) (imm : BitVec 8) (s : State) : Host.Outcome State Fault Refusal :=
  issue (.xorImm8 k d a imm) false s (fun s => intI .xor k d a (imm.setWidth 32) s)

/-- MIN with Imm8, sign-extended (R21, R279). -/
def execMinImm (k : Kind) (d a : Reg) (imm : BitVec 8) (s : State) : Host.Outcome State Fault Refusal :=
  issue (.minImm k d a imm) false s (fun s => intI .min k d a (imm.signExtend 32) s)

/-- MAX with Imm8, sign-extended (R21, R279). -/
def execMaxImm (k : Kind) (d a : Reg) (imm : BitVec 8) (s : State) : Host.Outcome State Fault Refusal :=
  issue (.maxImm k d a imm) false s (fun s => intI .max k d a (imm.signExtend 32) s)

/-- SHL by Imm8[4:0] (R21, R279). -/
def execShlImm (k : Kind) (d a : Reg) (imm : BitVec 5) (s : State) : Host.Outcome State Fault Refusal :=
  issue (.shlImm k d a imm) false s (fun s => intI .shl k d a (imm.setWidth 32) s)

/-- SHR by Imm8[4:0] (R21, R279). -/
def execShrImm (k : Kind) (d a : Reg) (imm : BitVec 5) (s : State) : Host.Outcome State Fault Refusal :=
  issue (.shrImm k d a imm) false s (fun s => intI .shr k d a (imm.setWidth 32) s)

/-- SRA by Imm8[4:0] (R21, R279). -/
def execSraImm (k : Kind) (d a : Reg) (imm : BitVec 5) (s : State) : Host.Outcome State Fault Refusal :=
  issue (.sraImm k d a imm) false s (fun s => intI .sra k d a (imm.setWidth 32) s)

/-- ROT by Imm8[4:0] (R21, R279). -/
def execRotImm (k : Kind) (d a : Reg) (imm : BitVec 5) (s : State) : Host.Outcome State Fault Refusal :=
  issue (.rotImm k d a imm) false s (fun s => intI .rot k d a (imm.setWidth 32) s)

/-- LI with Imm8, sign-extended (R283). -/
def execLi (k : Kind) (d : Reg) (imm : BitVec 8) (s : State) : Host.Outcome State Fault Refusal :=
  issue (.li k d imm) false s (fun s => loadImm k false d (imm.signExtend 32).toNat (shExact (imm.signExtend 32)) s)

/-- LI with Imm32 (R283). -/
def execLiImm32 (t : Ty) (k : Kind) (d : Reg) (imm : BitVec 32) (s : State) : Host.Outcome State Fault Refusal :=
  issue (.liImm32 t k d imm) false s (fun s => loadImm k (tyWide t) d (liVal t imm) (shExact imm) s)

/-- ADD with Imm32 (R283). -/
def execAddImm32 (t : Ty) (k : Kind) (d a : Reg) (imm : BitVec 32) (s : State) : Host.Outcome State Fault Refusal :=
  issue (.addImm32 t k d a imm) false s (fun s => intL .add t k d a imm s)

/-- AND with Imm32 (R283). -/
def execAndImm32 (t : Ty) (k : Kind) (d a : Reg) (imm : BitVec 32) (s : State) : Host.Outcome State Fault Refusal :=
  issue (.andImm32 t k d a imm) false s (fun s => intL .and t k d a imm s)

/-- OR with Imm32 (R283). -/
def execOrImm32 (t : Ty) (k : Kind) (d a : Reg) (imm : BitVec 32) (s : State) : Host.Outcome State Fault Refusal :=
  issue (.orImm32 t k d a imm) false s (fun s => intL .or t k d a imm s)

/-- XOR with Imm32 (R283). -/
def execXorImm32 (t : Ty) (k : Kind) (d a : Reg) (imm : BitVec 32) (s : State) : Host.Outcome State Fault Refusal :=
  issue (.xorImm32 t k d a imm) false s (fun s => intL .xor t k d a imm s)

/-- The integer group (R279): the member's operation in type `t`. -/
def execIntegerGroup (f : IntFn) (t : Ty) (sh : ShW) (d a b : Reg) (s : State) : Host.Outcome State Fault Refusal :=
  issue (.integerGroup f t sh d a b) false s (fun s => intW f t sh d a b s)

/-- BFX (R282). -/
def execBfx (t : Ty) (sh : ShW) (d a b : Reg) (s : State) : Host.Outcome State Fault Refusal :=
  issue (.bfx t sh d a b) false s (fun s => arith2 (shwKind sh) (shwKindB sh) (tyWide t) (tyWide t) false d a b 0 (fun x y => (bfxVal t x y, 0)) (shBfx t) s)

/-- BFI (R282). -/
def execBfi (t : Ty) (sh : ShW) (d a b c : Reg) (s : State) : Host.Outcome State Fault Refusal :=
  issue (.bfi t sh d a b c) false s (fun s => arith3 (shwKind sh) (shwKindB sh) (shwKindC sh) (tyWide t) false d a b c 0
    (fun x y z => (bfiVal t x y z, 0)) shTop3 s)

/-- MAD (R286): modulo 2^w, or clamped under Sat. -/
def execMad (t : Ty) (sh : ShW) (d a b c : Reg) (s : State) : Host.Outcome State Fault Refusal :=
  issue (.mad t sh d a b c) false s (fun s => arith3 (shwKind sh) (shwKindB sh) (shwKindC sh) (tyWide t) (tyWide t) d a b c 0
    (fun x y z => (madVal t (effSat s.gang) x y z, 0)) (shMad t (effSat s.gang)) s)

/-- CLAMP (R286): min(max(A, B), C). -/
def execClamp (t : Ty) (sh : ShW) (d a b c : Reg) (s : State) : Host.Outcome State Fault Refusal :=
  issue (.clamp t sh d a b c) false s (fun s => arith3 (shwKind sh) (shwKindB sh) (shwKindC sh) (tyWide t) (tyWide t) d a b c 0
    (fun x y z => (intWrite t (Min.min (Max.max (intRead t x) (intRead t y)) (intRead t z)), 0))
    (fun x y z => if t = .i32 then shClampOp x y z else Shadow.top) s)

/-- SEL (R286): A where C is not 0, else B. -/
def execSel (t : Ty) (sh : ShW) (d a b c : Reg) (s : State) : Host.Outcome State Fault Refusal :=
  issue (.sel t sh d a b c) false s (fun s => arith3 (shwKind sh) (shwKindB sh) (shwKindC sh) (tyWide t) false d a b c 0
    (fun x y z => (if z = 0 then y else x, 0)) (fun x y _ => if tyWide t then Shadow.top else shHull x y) s)

/-- CMP (R287). -/
def execCmp (c : Cond) (t : Ty) (sh : ShW) (d a b : Reg) (s : State) : Host.Outcome State Fault Refusal :=
  issue (.cmp c t sh d a b) false s (fun s => arith2 (shwKind sh) (shwKindB sh) false (tyWide t) (tyWide t) d a b 0
    (fun x y => (cmpVal c (tyWide t) x y, 0)) (fun _ _ => ⟨0, 1⟩) s)

end Sys2Proof.Machine
end

