-- ==== Sys2Proof/Machine/Special.lean ====
section
/-! DEFINITION. The special functions FEXP2, FLOG2, FSIN, FCOS and FTANH (R289, R291): correctly rounded, from
enclosures of the exact value in fixed point. An enclosure is widened in precision until both ends round alike. -/

namespace Sys2Proof.Machine

/-- An enclosure of a non-negative real: lo × 2^−p ≤ x ≤ hi × 2^−p for a precision p that the caller knows. -/
structure Encl where
  lo : Nat
  hi : Nat
  deriving DecidableEq, Repr

/-- ⌊ln 2 × 2^384⌋. -/
def ln2Bits : Nat :=
  27311389503436327984859642001965014295881604093268141717219425985154158335678826923825841039545353940567474963094288

/-- ⌊π × 2^384⌋. -/
def piBits : Nat :=
  123785053203292407819553701039137184435442376711719744927844101526111311422332618694237111830548352286187237239491692

/-- ln 2 to precision `p` ≤ 384. -/
def enLn2 (p : Nat) : Encl := ⟨ln2Bits / 2 ^ (384 - p), ln2Bits / 2 ^ (384 - p) + 1⟩

/-- π to precision `p` ≤ 384. -/
def enPi (p : Nat) : Encl := ⟨piBits / 2 ^ (384 - p), piBits / 2 ^ (384 - p) + 1⟩

/-- Product at precision `p`. -/
def enMul (p : Nat) (a b : Encl) : Encl := ⟨a.lo * b.lo / 2 ^ p, a.hi * b.hi / 2 ^ p + 1⟩

/-- Quotient at precision `p`; the divisor's lower end is positive. -/
def enDiv (p : Nat) (a b : Encl) : Encl := ⟨a.lo * 2 ^ p / b.hi, a.hi * 2 ^ p / b.lo + 1⟩

/-- Quotient by a number. -/
def enDivNat (a : Encl) (n : Nat) : Encl := ⟨a.lo / n, a.hi / n + 1⟩

/-- Sum. -/
def enAdd (a b : Encl) : Encl := ⟨a.lo + b.lo, a.hi + b.hi⟩

/-- Difference, where the exact one is not negative. -/
def enSub (a b : Encl) : Encl := ⟨a.lo - b.hi, a.hi - b.lo⟩

/-- The enclosure of m × 2^e at precision `p`. -/
def enDyadic (p : Nat) (m : Nat) (e : Int) : Encl :=
  let k := e + p
  if 0 ≤ k then ⟨m * 2 ^ k.toNat, m * 2 ^ k.toNat⟩
  else ⟨m / 2 ^ (-k).toNat, m / 2 ^ (-k).toNat + 1⟩

/-- Σ term(k) for an exponential-like series: each term is the one before times `t` over the next divisor; the tail
after the last term is below that term. -/
def enSeries (p : Nat) (t : Encl) (divisor : Nat → Nat) : Nat → Nat → Encl → Encl → Encl
  | 0, _, term, acc => ⟨acc.lo, acc.hi + term.hi⟩
  | n + 1, k, term, acc =>
    let term' := enDivNat (enMul p term t) (divisor k)
    enSeries p t divisor n (k + 1) term' (enAdd acc term')

/-- The same for an alternating series Σ (−1)^k term(k), with terms that fall. -/
def enAlt (p : Nat) (t : Encl) (divisor : Nat → Nat) : Nat → Nat → Encl → Encl → Encl
  | 0, _, term, acc => ⟨acc.lo - term.hi, acc.hi + term.hi⟩
  | n + 1, k, term, acc =>
    let term' := enDivNat (enMul p term t) (divisor k)
    enAlt p t divisor n (k + 1) term' (if k % 2 = 0 then enSub acc term' else enAdd acc term')

/-- 1 at precision `p`. -/
def enOne (p : Nat) : Encl := ⟨2 ^ p, 2 ^ p⟩

/-- e^t for 0 ≤ t < 1. -/
def enExp (p : Nat) (t : Encl) : Encl := enSeries p t (fun k => k + 1) (p / 2) 0 (enOne p) (enOne p)

/-- Σ t^(2k+1) / (2k+1) × 2 = ln((1+t)/(1−t)) for 0 ≤ t ≤ 1/3, as Σ over powers of t². -/
def enAtanhGo (p : Nat) (t2 : Encl) : Nat → Nat → Encl → Encl → Encl
  | 0, _, pw, acc => ⟨acc.lo, acc.hi + pw.hi⟩
  | n + 1, k, pw, acc =>
    let pw' := enMul p pw t2
    enAtanhGo p t2 n (k + 1) pw' (enAdd acc (enDivNat pw' (2 * k + 3)))

/-- An exact real from an enclosure of a value that is no dyadic number and lies below `cap` × 2^−p: 64 leading bits
and a sticky bit, when both ends agree on them. -/
def enExact (p : Nat) (neg : Bool) (e : Int) (cap : Nat) (x : Encl) : Option Exact :=
  let hi := if cap ≤ x.hi then cap - 1 else x.hi
  let k := bitLen x.lo - 64
  if x.lo / 2 ^ k = hi / 2 ^ k ∧ 64 ≤ bitLen x.lo then some ⟨neg, x.lo / 2 ^ k, e - p + k, true⟩ else none

/-- Try an enclosure at precision 160, then 256, then 384; past that the lower end stands (no operand of the formats
of R289 reaches it). -/
def enTry (f : Nat → Option Exact) (last : Exact) : Exact :=
  match f 160 with
  | some x => x
  | none =>
    match f 256 with
    | some x => x
    | none =>
      match f 384 with
      | some x => x
      | none => last

/-- The floor of m × 2^e and what lies above it, as m' × 2^e. -/
def splitInt (neg : Bool) (m : Nat) (e : Int) : Int × Nat × Int :=
  if 0 ≤ e then (signed neg (m * 2 ^ e.toNat), 0, 0)
  else
    let d := 2 ^ (-e).toNat
    let s := signed neg m
    (s / d, (s % d).toNat, e)

/-- 2^A for a finite, non-zero operand (R289): an integer power is exact. -/
def exp2Exact (neg : Bool) (m : Nat) (e : Int) : Exact :=
  if e + bitLen m > 12 then
    -- beyond every format's range: the rounding overflows or underflows whatever the bits
    ⟨false, 2 ^ 64, if neg then -8192 else 8192, true⟩
  else
    let r := splitInt neg m e
    if r.2.1 = 0 then ⟨false, 1, r.1, false⟩
    else
      let n := r.1
      enTry (fun p =>
        let t := enMul p (enDyadic p r.2.1 r.2.2) (enLn2 p)
        enExact p false n (2 ^ (p + 1)) (let x := enExp p t; ⟨max x.lo (2 ^ p), x.hi⟩))
        ⟨false, 2 ^ 64, n - 64, true⟩

/-- log2 A for a finite positive operand other than 1 (R289): the logarithm of a power of two is exact. -/
def log2Exact (m : Nat) (e : Int) : Exact :=
  let l := bitLen m - 1
  let n := e + l
  if m = 2 ^ l then ⟨decide (n < 0), n.natAbs, 0, false⟩
  else
    -- m × 2^−l lies between 1 and 2; its logarithm g lies between 0 and 1
    let g (p : Nat) : Encl :=
      let z : Encl := ⟨(m - 2 ^ l) * 2 ^ p / (m + 2 ^ l), (m - 2 ^ l) * 2 ^ p / (m + 2 ^ l) + 1⟩
      let at_ := enAtanhGo p (enMul p z z) (p / 3 + 4) 0 z z
      enDiv p ⟨2 * at_.lo, 2 * at_.hi⟩ (enLn2 p)
    if 0 ≤ n then
      enTry (fun p => enExact p false 0 ((n.toNat + 1) * 2 ^ p) (enAdd (g p) ⟨n.toNat * 2 ^ p, n.toNat * 2 ^ p⟩))
        ⟨false, n.toNat, 0, true⟩
    else
      let k := (-n).toNat
      enTry (fun p => enExact p true 0 (k * 2 ^ p) (enSub ⟨k * 2 ^ p, k * 2 ^ p⟩ (g p))) ⟨true, k - 1, 0, true⟩

/-- sin(π r) for 0 < r ≤ 1/4, with r = m × 2^e: r × π × (sin t / t), t = π r. -/
def sinSmall (neg : Bool) (m : Nat) (e : Int) : Exact :=
  enTry (fun p =>
    let t := enMul p (enDyadic p m e) (enPi p)
    let t2 := enMul p t t
    let s := enAlt p t2 (fun k => (2 * k + 2) * (2 * k + 3)) (p / 4) 0 (enOne p) (enOne p)
    let ps := enMul p (enPi p) ⟨s.lo, min s.hi (2 ^ p)⟩
    enExact p neg e (m * 4 * 2 ^ p) ⟨m * ps.lo, m * ps.hi⟩)
    ⟨neg, m, e + 1, true⟩

/-- cos(π r) for 0 < r < 1/4, with r = m × 2^e. -/
def cosSmall (neg : Bool) (m : Nat) (e : Int) : Exact :=
  enTry (fun p =>
    let t := enMul p (enDyadic p m e) (enPi p)
    let t2 := enMul p t t
    enExact p neg 0 (2 ^ p) (enAlt p t2 (fun k => (2 * k + 1) * (2 * k + 2)) (p / 4) 0 (enOne p) (enOne p)))
    ⟨neg, 2 ^ 64 - 1, -64, true⟩

/-- sin(π x) for x = m × 2^e ≥ 0 with e < 0, up to sign; `none` when it is zero. Reduces x modulo 2, then to at most 1/2. -/
def sinPiExact (neg : Bool) (m : Nat) (e : Int) : Option Exact :=
  if 0 ≤ e then none
  else
    let one := 2 ^ (-e).toNat
    let m2 := m % (2 * one)
    let neg' := if one ≤ m2 then !neg else neg
    let m1 := m2 % one
    if m1 = 0 then none
    else
      let r := if one < 2 * m1 then one - m1 else m1
      -- sin(π r), 0 < r ≤ 1/2, r over `one`
      if 2 * r = one then some ⟨neg', 1, 0, false⟩
      else if 4 * r ≤ one then some (sinSmall neg' r e)
      else some (cosSmall neg' (one - 2 * r) (e - 1))

/-- tanh A for a finite non-zero operand (R289). -/
def tanhExact (neg : Bool) (m : Nat) (e : Int) : Exact :=
  if e + bitLen m ≤ 0 then
    -- |A| < 1: A × (sinh t / t) / cosh t
    enTry (fun p =>
      let t := enDyadic p m e
      let t2 := enMul p t t
      let sh := enSeries p t2 (fun k => (2 * k + 2) * (2 * k + 3)) (p / 4) 0 (enOne p) (enOne p)
      let ch := enSeries p t2 (fun k => (2 * k + 1) * (2 * k + 2)) (p / 4) 0 (enOne p) (enOne p)
      let r := enDiv p sh ch
      enExact p neg e (m * 2 ^ p) ⟨m * r.lo, m * min r.hi (2 ^ p)⟩)
      ⟨neg, m * 2 ^ 64 - 1, e - 64, true⟩
  else if e + bitLen m > 7 then ⟨neg, 2 ^ 128 - 1, -128, true⟩
  else
    -- 1 ≤ |A| < 128: (1 − u) / (1 + u) with u = 2^−k × e^−r, 2|A| = k ln 2 + r
    enTry (fun p =>
      let t := enDyadic p m (e + 1)
      let k := t.lo / (enLn2 p).hi
      let r := enSub t ⟨k * (enLn2 p).lo, k * (enLn2 p).hi⟩
      let x := enDiv p (enOne p) (enExp p r)
      let u : Encl := ⟨x.lo / 2 ^ k, x.hi / 2 ^ k + 1⟩
      enExact p neg 0 (2 ^ p) (enDiv p (enSub (enOne p) u) (enAdd (enOne p) u)))
      ⟨neg, 2 ^ 128 - 1, -128, true⟩

/-- 2^A (R291). -/
def fpExp2V (c : FCtl) (f : Fmt) (a : FVal) : Nat × Flags :=
  match nanOperand [(f, a)] f with
  | some r => r
  | none =>
    match a with
    | .fin neg m e => if m = 0 then fpRound c f ⟨false, 1, 0, false⟩ else fpRound c f (exp2Exact neg m e)
    | .inf neg => if neg then (signBits f false, 0) else (infResult c f false, 0)
    | _ => invalidResult f

/-- log2 A (R291). -/
def fpLog2V (c : FCtl) (f : Fmt) (a : FVal) : Nat × Flags :=
  match nanOperand [(f, a)] f with
  | some r => r
  | none =>
    match a with
    | .fin neg m e =>
      if m = 0 then (infResult c f true, flagDZ)
      else if neg then invalidResult f
      else
        let x := log2Exact m e
        if x.m = 0 ∧ !x.sticky then (signBits f false, 0) else fpRound c f x
    | .inf neg => if neg then invalidResult f else (infResult c f false, 0)
    | _ => invalidResult f

/-- sin(π A) (R291): an integer gives zero with the sign of A. -/
def fpSinV (c : FCtl) (f : Fmt) (a : FVal) : Nat × Flags :=
  match nanOperand [(f, a)] f with
  | some r => r
  | none =>
    match a with
    | .fin neg m e =>
      match (if m = 0 then none else sinPiExact neg m e) with
      | some x => fpRound c f x
      | none => (signBits f neg, 0)
    | _ => invalidResult f

/-- cos(π A) = sin(π (|A| + 1/2)) (R291): a half-integer gives +0. -/
def fpCosV (c : FCtl) (f : Fmt) (a : FVal) : Nat × Flags :=
  match nanOperand [(f, a)] f with
  | some r => r
  | none =>
    match a with
    | .fin _ m e =>
      let e' := if m = 0 then -1 else min e (-1)
      let m' := (if m = 0 then 0 else m * 2 ^ (e - e').toNat) + 2 ^ (-1 - e').toNat
      match sinPiExact false m' e' with
      | some x => fpRound c f x
      | none => (signBits f false, 0)
    | _ => invalidResult f

/-- tanh A (R291). -/
def fpTanhV (c : FCtl) (f : Fmt) (a : FVal) : Nat × Flags :=
  match nanOperand [(f, a)] f with
  | some r => r
  | none =>
    match a with
    | .fin neg m e => if m = 0 then (signBits f neg, 0) else fpRound c f (tanhExact neg m e)
    | .inf neg => fpRound c f ⟨neg, 1, 0, false⟩
    | _ => invalidResult f

end Sys2Proof.Machine
end

