-- ==== Sys2Proof/Machine/Float.lean ====
section
/-! DEFINITION. Floating arithmetic, compares, conversions, packed operations, quantizing and the flag instructions
(R286, R288 to R298). -/

namespace Sys2Proof.Machine

/-- The floating format of a type; an element's, for a packed type (R256, R258). -/
def fmtOf : Ty → Fmt
  | .f64 => .f64
  | .f16 | .f16x2 => .f16
  | .bf16 | .bf16x2 => .bf16
  | .e5m2 | .e5m2x4 => .e5m2
  | .e4m3 | .e4m3x4 => .e4m3
  | _ => .f32

/-- A member of the floating group (R289 to R291), from the register values of A and B. -/
def floatVal (f : FloatFn) (c : FCtl) (m : Fmt) (x y : Nat) : Nat × Flags :=
  let a := fpOperand c m x
  let b := fpOperand c m y
  match f with
  | .fadd => fpAddV c m a b
  | .fsub => fpAddV c m a (fvNegate b)
  | .fmul => fpMulV c m a b
  | .fmin => fpMinMax c m false x y
  | .fmax => fpMinMax c m true x y
  | .fdiv => fpDivV c m a b
  | .fsqrt => fpSqrtV c m a
  | .frnd => fpRnd c m x
  | .fclass => (fpClass m x, 0)

/-- The trap enables of a member: FCLASS never traps (R290). -/
def floatTe (f : FloatFn) (c : FCtl) : Flags := match f with | .fclass => 0 | _ => c.te

/-- The result shadow of a member (R284). -/
def floatShadow (f : FloatFn) : Shadow := match f with | .fclass => ⟨1, 512⟩ | _ => Shadow.top

/-- A member of the special-function group (R289, R291). -/
def specVal (f : SpecFn) (c : FCtl) (m : Fmt) (x : Nat) : Nat × Flags :=
  let a := fpOperand c m x
  match f with
  | .frcp => fpRcpV c m a
  | .frsq => fpRsqV c m a
  | .fexp2 => fpExp2V c m a
  | .flog2 => fpLog2V c m a
  | .fsin => fpSinV c m a
  | .fcos => fpCosV c m a
  | .ftanh => fpTanhV c m a

/-- Two sources in a 32-bit major: .f32. -/
def floatA (f : FloatFn) (sh : ShA) (d a b : Reg) (s : State) : Exe :=
  let c := effCtl s.gang
  arith2 (shaKind sh) (shaKindB sh) false false false d a b (floatTe f c) (floatVal f c .f32) (fun _ _ => floatShadow f) s

/-- One source in a 32-bit major: .f32. -/
def floatU (f : FloatFn) (k : Kind) (d a : Reg) (s : State) : Exe :=
  let c := effCtl s.gang
  arith1 k false false d a (floatTe f c) (fun x => floatVal f c .f32 x 0) (fun _ => floatShadow f) s

/-- A special function of one source. -/
def specU (f : SpecFn) (t : Ty) (k : Kind) (d a : Reg) (s : State) : Exe :=
  let c := effCtl s.gang
  arith1 k (tyWide t) (tyWide t) d a c.te (specVal f c (fmtOf t)) shTop1 s

/-- A member of the floating group. -/
def floatW (f : FloatFn) (t : Ty) (sh : ShW) (d a b : Reg) (s : State) : Exe :=
  let c := effCtl s.gang
  let w := tyWide t
  if floatFnUnary f then
    arith1 (shwKind sh) (w && f != .fclass) w d a (floatTe f c) (fun x => floatVal f c (fmtOf t) x 0)
      (fun _ => floatShadow f) s
  else
    arith2 (shwKind sh) (shwKindB sh) w w w d a b (floatTe f c) (floatVal f c (fmtOf t)) shTop2 s

/-! ### Conversions (R293) -/

/-- Element `j` of `n` bits. -/
def elemGet (n x j : Nat) : Nat := x / 2 ^ (n * j) % 2 ^ n

/-- A word with element `j` of `n` bits replaced. -/
def elemPut (n x j v : Nat) : Nat := x - elemGet n x j * 2 ^ (n * j) + v % 2 ^ n * 2 ^ (n * j)

/-- The element that C picks in a packed type: C[1:0] of four, C[0] of two (R293). -/
def elemPick (t : Ty) (c : Nat) : Nat := c % (32 / fmtWidth (fmtOf t))

/-- FCVT (R293), from the values of A, C and the destination's old value. -/
def fcvtVal (c : FCtl) (dst src : Ty) (x z old : Nat) : Nat × Flags :=
  if tyIsPackedFloat dst then
    let r := fpConvert c .f32 (fmtOf dst) x
    (elemPut (fmtWidth (fmtOf dst)) old (elemPick dst z) r.1, r.2)
  else if tyIsPackedFloat src then
    fpConvert c (fmtOf src) .f32 (elemGet (fmtWidth (fmtOf src)) x (elemPick src z))
  else fpConvert c (fmtOf src) (fmtOf dst) x

/-- CVT (R293): the low bits, or a clamp under Sat. -/
def cvtVal (sat : Bool) (dst src : Ty) (x : Nat) : Nat :=
  let n := intRead src x
  intWrite dst (if sat then tyClamp dst n else n)

/-! ### Packed operations (R294, R295) -/

/-- Combine element results: the word they make and the union of their flags (R270). -/
def packElems (n : Nat) (rs : List (Nat × Flags)) : Nat × Flags :=
  rs.foldr (fun r acc => (r.1 % 2 ^ n + acc.1 * 2 ^ n, r.2 ||| acc.2)) (0, 0)

/-- An operation on each element of packed floating operands (R270). -/
def packedMap (t : Ty) (f : Nat → Nat × Flags) : Nat × Flags :=
  let n := fmtWidth (fmtOf t)
  packElems n ((List.range (32 / n)).map f)

/-- A signed 8-bit element of a word. -/
def i8At (x j : Nat) : Int := intRead .i8 (elemGet 8 x j)

/-- An operation on each element of .i8x4 operands: wraps, or clamps under Sat (R294). -/
def i8Map (sat : Bool) (f : Nat → Int) : Nat × Flags :=
  packElems 8 ((List.range 4).map (fun j => (((if sat then tyClamp .i8 (f j) else f j) % 256).toNat, 0)))

/-- PADD (R294). -/
def paddVal (c : FCtl) (t : Ty) (x y : Nat) : Nat × Flags :=
  if t = .i8x4 then i8Map c.sat (fun j => i8At x j + i8At y j)
  else
    let m := fmtOf t
    let n := fmtWidth m
    packedMap t (fun j => fpAddV c m (fpOperand c m (elemGet n x j)) (fpOperand c m (elemGet n y j)))

/-- PMUL (R294). -/
def pmulVal (c : FCtl) (t : Ty) (x y : Nat) : Nat × Flags :=
  if t = .i8x4 then i8Map c.sat (fun j => i8At x j * i8At y j)
  else
    let m := fmtOf t
    let n := fmtWidth m
    packedMap t (fun j => fpMulV c m (fpOperand c m (elemGet n x j)) (fpOperand c m (elemGet n y j)))

/-- PFMA (R294). -/
def pfmaVal (c : FCtl) (t : Ty) (x y z : Nat) : Nat × Flags :=
  let m := fmtOf t
  let n := fmtWidth m
  packedMap t (fun j => fpFmaV c m (fpOperand c m (elemGet n x j)) (fpOperand c m (elemGet n y j))
    (fpOperand c m (elemGet n z j)))

/-- PDOT of floating elements (R295): a NaN operand, in the order A_0, B_0, A_1, … C, gives the result; 0 × ∞ and opposite infinities among the
others raise invalid beside it, as in a K-step (R310; log entry 19). -/
def pdotFloat (c : FCtl) (m : Fmt) (x y z : Nat) : Nat × Flags :=
  let n := fmtWidth m
  let ps := (List.range (32 / n)).map (fun j => (fpOperand c m (elemGet n x j), fpOperand c m (elemGet n y j)))
  let v := fpOperand c .f32 z
  let d := (ps.filter (fun p => !(isNaN p.1 || isNaN p.2))).foldl (fun s p => dotAddMul s p.1 p.2) (dotAddVal DotAcc.empty v)
  match nanOperand (ps.flatMap (fun p => [(m, p.1), (m, p.2)]) ++ [(.f32, v)]) .f32 with
  | some r => (r.1, r.2 ||| (if d.invalid || (d.posInf && d.negInf) then flagNV else 0))
  | none => dotRound c .f32 d

/-- PDOT (R295). -/
def pdotVal (c : FCtl) (t : Ty) (x y z : Nat) : Nat × Flags :=
  if t = .i8x4 then
    (intFit .i32 c.sat (intRead .i32 z + (List.range 4).foldl (fun s j => s + i8At x j * i8At y j) (0 : Int)), 0)
  else pdotFloat c (fmtOf t) x y z

/-! ### Quantizing (R296, R297) -/

/-- The KIND code of a record type (R260). -/
def recKind : Ty → Nat
  | .q4g32 => 1
  | .q4g64 => 2
  | .q4g128 => 3
  | .q8g32 => 4
  | .q8g64 => 5
  | .q8g128 => 6
  | _ => 0

/-- The element width of a record type (R260). -/
def recBits : Ty → Nat
  | .q4g32 | .q4g64 | .q4g128 => 4
  | _ => 8

/-- A header word is malformed for a type (R263, R296). -/
def recBad (t : Ty) (hdr : Nat) : Bool := hdr / 2 ^ 24 % 8 != recKind t || hdr / 2 ^ 27 % 16 != 0

/-- SG of a header word (R260). -/
def recSg (hdr : Nat) : Bool := hdr / 2 ^ 31 % 2 == 1

/-- Z of a header word (R260). -/
def recZ (hdr : Nat) : Int := intRead .i8 (hdr / 2 ^ 16)

/-- The least element code. -/
def codeMin (t : Ty) (sg : Bool) : Int := if sg then -(2 ^ (recBits t - 1)) else 0
/-- The greatest element code. -/
def codeMax (t : Ty) (sg : Bool) : Int := if sg then 2 ^ (recBits t - 1) - 1 else 2 ^ recBits t - 1

/-- The field of a word of element codes that C picks (R296). -/
def codePick (t : Ty) (c : Nat) : Nat := c % (32 / recBits t)

/-- QCVT (R296), from A, the header, C and D's old value. -/
def qcvtVal (c : FCtl) (t : Ty) (x hdr z old : Nat) : Nat × Flags :=
  if recBad t hdr then (old, flagNV)
  else
    let lo := codeMin t (recSg hdr)
    let hi := codeMax t (recSg hdr)
    let put (q : Int) : Nat := elemPut (recBits t) old (codePick t z) (q % 2 ^ recBits t).toNat
    let clamp (q : Int) : Int := Max.max lo (Min.min hi q)
    match fpOperand c .f32 x, fpDecode .f16 (hdr % 2 ^ 16) with
    | .fin n1 m1 e1, .fin n2 m2 e2 =>
      if m2 = 0 then (put (clamp (recZ hdr)), flagNV)
      else
        let r := roundAt (divExact (n1 != n2) m1 e1 m2 e2 64) 0 c.rm
        let q := signed (n1 != n2) r.1 + recZ hdr
        if q < lo ∨ hi < q then (put (clamp q), flagNV) else (put q, if r.2 then flagNX else 0)
    | _, _ => (put (clamp (recZ hdr)), flagNV)

/-- The product of an exact integer and a scale, the value of R262, rounded to FP32: (q − Z) × H. A zero integer is +0. -/
def scaleMul (c : FCtl) (n : Int) (h : Nat) : Nat × Flags :=
  match fpDecode .f16 h with
  | .nan neg q frac => (nanResult .f16 .f32 neg frac, if q then 0 else flagNV)
  | .inf neg => if n = 0 then invalidResult .f32 else (infResult c .f32 (neg != decide (n < 0)), 0)
  | .fin neg m e => fpRound c .f32 ⟨neg != decide (n < 0), n.natAbs * m, e, false⟩

/-- DQCVT (R297), from A, the header and C. -/
def dqcvtVal (c : FCtl) (t : Ty) (x hdr z : Nat) : Nat × Flags :=
  if recBad t hdr then invalidResult .f32
  else
    let u := elemGet (recBits t) x (codePick t z)
    let q : Int := if recSg hdr && decide (2 ^ (recBits t - 1) ≤ u) then (u : Int) - 2 ^ recBits t else u
    scaleMul c (q - recZ hdr) (hdr % 2 ^ 16)

/-- FCMP (R288). -/
def fcmpVal (c : FCtl) (cond : FCond) (m : Fmt) (x y : Nat) : Nat × Flags :=
  let r := fpCmp c m cond x y
  (if r.1 then 1 else 0, r.2)

/-- FCVTI (R293, R267). -/
def fcvtiVal (c : FCtl) (dst src : Ty) (x : Nat) : Nat × Flags :=
  let r := fpToInt c (fmtOf src) (tyMin dst) (tyMax dst) x
  (intWrite dst r.1, r.2)

/-- The masked flag bits of an immediate. -/
def flagBits (x : BitVec 5) : Word := x.setWidth 32

/-- Clear masked flags of the active lanes, or of the scalar set (R298). -/
def clearFlags (k : Kind) (mask : BitVec 5) (g : Gang) : Gang :=
  match k with
  | .vec => { g with vflags := (laneList g.arm.mask).foldl (fun m l => smapSet 0 m l (smapGet 0 m l &&& ~~~mask)) g.vflags }
  | .scal => { g with sflags := g.sflags &&& ~~~mask }

/-- The old value of a 32-bit destination. -/
def oldNat (g : Gang) (k : Kind) (r l : Nat) : Nat :=
  match k with
  | .vec => (readV g r l).toNat
  | .scal => (readS g r).toNat

/-! ### Meanings -/

/-- FADD (R289). -/
def execFadd (sh : ShA) (d a b : Reg) (s : State) : Host.Outcome State Fault Refusal :=
  issue (.fadd sh d a b) false s (fun s => floatA .fadd sh d a b s)

/-- FSUB (R289). -/
def execFsub (sh : ShA) (d a b : Reg) (s : State) : Host.Outcome State Fault Refusal :=
  issue (.fsub sh d a b) false s (fun s => floatA .fsub sh d a b s)

/-- FMUL (R289). -/
def execFmul (sh : ShA) (d a b : Reg) (s : State) : Host.Outcome State Fault Refusal :=
  issue (.fmul sh d a b) false s (fun s => floatA .fmul sh d a b s)

/-- FMIN (R290). -/
def execFmin (sh : ShA) (d a b : Reg) (s : State) : Host.Outcome State Fault Refusal :=
  issue (.fmin sh d a b) false s (fun s => floatA .fmin sh d a b s)

/-- FMAX (R290). -/
def execFmax (sh : ShA) (d a b : Reg) (s : State) : Host.Outcome State Fault Refusal :=
  issue (.fmax sh d a b) false s (fun s => floatA .fmax sh d a b s)

/-- FDIV (R289). -/
def execFdiv (sh : ShA) (d a b : Reg) (s : State) : Host.Outcome State Fault Refusal :=
  issue (.fdiv sh d a b) false s (fun s => floatA .fdiv sh d a b s)

/-- FSQRT (R291). -/
def execFsqrt (k : Kind) (d a : Reg) (s : State) : Host.Outcome State Fault Refusal :=
  issue (.fsqrt k d a) false s (fun s => floatU .fsqrt k d a s)

/-- FRND (R290). -/
def execFrnd (k : Kind) (d a : Reg) (s : State) : Host.Outcome State Fault Refusal :=
  issue (.frnd k d a) false s (fun s => floatU .frnd k d a s)

/-- FCLASS (R290). -/
def execFclass (k : Kind) (d a : Reg) (s : State) : Host.Outcome State Fault Refusal :=
  issue (.fclass k d a) false s (fun s => floatU .fclass k d a s)

/-- FRCP (R291). -/
def execFrcp (k : Kind) (d a : Reg) (s : State) : Host.Outcome State Fault Refusal :=
  issue (.frcp k d a) false s (fun s => specU .frcp .f32 k d a s)

/-- FRSQ (R291). -/
def execFrsq (k : Kind) (d a : Reg) (s : State) : Host.Outcome State Fault Refusal :=
  issue (.frsq k d a) false s (fun s => specU .frsq .f32 k d a s)

/-- FEXP2 (R291). -/
def execFexp2 (k : Kind) (d a : Reg) (s : State) : Host.Outcome State Fault Refusal :=
  issue (.fexp2 k d a) false s (fun s => specU .fexp2 .f32 k d a s)

/-- FLOG2 (R291). -/
def execFlog2 (k : Kind) (d a : Reg) (s : State) : Host.Outcome State Fault Refusal :=
  issue (.flog2 k d a) false s (fun s => specU .flog2 .f32 k d a s)

/-- FSIN (R291). -/
def execFsin (k : Kind) (d a : Reg) (s : State) : Host.Outcome State Fault Refusal :=
  issue (.fsin k d a) false s (fun s => specU .fsin .f32 k d a s)

/-- FCOS (R291). -/
def execFcos (k : Kind) (d a : Reg) (s : State) : Host.Outcome State Fault Refusal :=
  issue (.fcos k d a) false s (fun s => specU .fcos .f32 k d a s)

/-- FTANH (R291). -/
def execFtanh (k : Kind) (d a : Reg) (s : State) : Host.Outcome State Fault Refusal :=
  issue (.ftanh k d a) false s (fun s => specU .ftanh .f32 k d a s)

/-- The floating group (R289). -/
def execFloatingGroup (f : FloatFn) (t : Ty) (sh : ShW) (d a b : Reg) (s : State) : Host.Outcome State Fault Refusal :=
  issue (.floatingGroup f t sh d a b) false s (fun s => floatW f t sh d a b s)

/-- The special-function group (R289, R291). -/
def execSpecialFunctionGroup (f : SpecFn) (t : Ty) (k : Kind) (d a : Reg) (s : State) : Host.Outcome State Fault Refusal :=
  issue (.specialFunctionGroup f t k d a) false s (fun s => specU f t k d a s)

/-- FCMP (R288). -/
def execFcmp (c : FCond) (t : Ty) (sh : ShW) (d a b : Reg) (s : State) : Host.Outcome State Fault Refusal :=
  issue (.fcmp c t sh d a b) false s (fun s => arith2 (shwKind sh) (shwKindB sh) false (tyWide t) (tyWide t) d a b (effTrapEn s.gang)
    (fcmpVal (effCtl s.gang) c (fmtOf t)) (fun _ _ => ⟨0, 1⟩) s)

/-- FFMA (R286): A × B + C, rounded once. -/
def execFfma (t : Ty) (sh : ShW) (d a b c : Reg) (s : State) : Host.Outcome State Fault Refusal :=
  issue (.ffma t sh d a b c) false s (fun s => let f := effCtl s.gang
    arith3 (shwKind sh) (shwKindB sh) (shwKindC sh) (tyWide t) (tyWide t) d a b c f.te
      (fun x y z => fpFmaV f (fmtOf t) (fpOperand f (fmtOf t) x) (fpOperand f (fmtOf t) y) (fpOperand f (fmtOf t) z)) shTop3 s)

/-- PADD (R294). -/
def execPadd (t : Ty) (sh : ShW) (d a b : Reg) (s : State) : Host.Outcome State Fault Refusal :=
  issue (.padd t sh d a b) false s (fun s => arith2 (shwKind sh) (shwKindB sh) false false false d a b (effTrapEn s.gang)
    (paddVal (effCtl s.gang) t) shTop2 s)

/-- PMUL (R294). -/
def execPmul (t : Ty) (sh : ShW) (d a b : Reg) (s : State) : Host.Outcome State Fault Refusal :=
  issue (.pmul t sh d a b) false s (fun s => arith2 (shwKind sh) (shwKindB sh) false false false d a b (effTrapEn s.gang)
    (pmulVal (effCtl s.gang) t) shTop2 s)

/-- PFMA (R294). -/
def execPfma (t : Ty) (sh : ShW) (d a b c : Reg) (s : State) : Host.Outcome State Fault Refusal :=
  issue (.pfma t sh d a b c) false s (fun s => arith3 (shwKind sh) (shwKindB sh) (shwKindC sh) false false d a b c (effTrapEn s.gang)
    (pfmaVal (effCtl s.gang) t) shTop3 s)

/-- PDOT (R295). -/
def execPdot (t : Ty) (sh : ShW) (d a b c : Reg) (s : State) : Host.Outcome State Fault Refusal :=
  issue (.pdot t sh d a b c) false s (fun s => arith3 (shwKind sh) (shwKindB sh) (shwKindC sh) false false d a b c (effTrapEn s.gang)
    (pdotVal (effCtl s.gang) t) shTop3 s)

/-- DQCVT (R297). -/
def execDqcvt (t : Ty) (sh : ShW) (d a b c : Reg) (s : State) : Host.Outcome State Fault Refusal :=
  issue (.dqcvt t sh d a b c) false s (fun s => arith3 (shwKind sh) (shwKindB sh) (shwKindC sh) false false d a b c (effTrapEn s.gang)
    (dqcvtVal (effCtl s.gang) t) shTop3 s)

/-- QCVT (R296): field j of D, the rest kept. -/
def execQcvt (t : Ty) (sh : ShW) (d a b c : Reg) (s : State) : Host.Outcome State Fault Refusal :=
  issue (.qcvt t sh d a b c) false s (fun s => let g := s.gang
    arith s (shwKind sh) false (regD s d) (effTrapEn g)
      (fun l => qcvtVal (effCtl g) t (srcNat g (shwKind sh) false (regA s a) l) (srcNat g (shwKindB sh) false (regB s b) l)
        (srcNat g (shwKindC sh) false (regC s c) l) (oldNat g (shwKind sh) (regD s d) l)) Shadow.top)

/-- FCVT (R293). -/
def execFcvt (dst src : Ty) (sh : ShW) (d a c : Reg) (s : State) : Host.Outcome State Fault Refusal :=
  issue (.fcvt dst src sh d a c) false s (fun s => let g := s.gang
    arith s (shwKind sh) (tyWide dst) (regD s d) (effTrapEn g)
      (fun l => fcvtVal (effCtl g) dst src (srcNat g (shwKind sh) (tyWide src) (regA s a) l)
        (srcNat g (shwKindC sh) false (regC s c) l) (oldNat g (shwKind sh) (regD s d) l)) Shadow.top)

/-- FCVTI (R293). -/
def execFcvti (dst src : Ty) (k : Kind) (d a : Reg) (s : State) : Host.Outcome State Fault Refusal :=
  issue (.fcvti dst src k d a) false s (fun s => arith1 k (tyWide dst) (tyWide src) d a (effTrapEn s.gang) (fcvtiVal (effCtl s.gang) dst src) shTop1 s)

/-- ICVTF (R293). -/
def execIcvtf (dst src : Ty) (k : Kind) (d a : Reg) (s : State) : Host.Outcome State Fault Refusal :=
  issue (.icvtf dst src k d a) false s (fun s => arith1 k (tyWide dst) (tyWide src) d a (effTrapEn s.gang)
    (fun x => fpOfInt (effCtl s.gang) (fmtOf dst) (intRead src x)) shTop1 s)

/-- CVT (R293). -/
def execCvt (dst src : Ty) (k : Kind) (d a : Reg) (s : State) : Host.Outcome State Fault Refusal :=
  issue (.cvt dst src k d a) false s (fun s => arith1 k (tyWide dst) (tyWide src) d a 0 (fun x => (cvtVal (effSat s.gang) dst src x, 0)) shTop1 s)

/-- RDFLG (R298): the masked flags of each active lane, or of the scalar set. -/
def execRdflg (k : Kind) (d : Reg) (mask : BitVec 5) (s : State) : Host.Outcome State Fault Refusal :=
  issue (.rdflg k d mask) false s (fun s => .ok (s.onGang (fun g => writeReg g k d.toNat
    (fun l => flagBits (mask &&& (match k with | .vec => smapGet 0 g.vflags l | .scal => g.sflags))) ⟨0, mask.toNat⟩)))

/-- CLFLG (R298). -/
def execClflg (k : Kind) (mask : BitVec 5) (s : State) : Host.Outcome State Fault Refusal :=
  issue (.clflg k mask) false s (fun s => .ok (s.onGang (fun g => clearFlags k mask g)))

end Sys2Proof.Machine
end

