-- ==== Sys2Proof/Machine/Moves.lean ====
section
/-! DEFINITION. Moves, lane operations, the work identifier, interval instructions and descriptor registers (R248 to
R252, R285, R366 to R371). -/

namespace Sys2Proof.Machine

/-! ### Moves (R285) -/

/-- EXT.get's value: lane n of a vector source, or 0 past the declared width. -/
def extGetVal (g : Gang) (a n : Nat) : Word := if g.declared ≤ n then 0 else srcV g a n

/-- EXT.get (R285, R284). -/
def extGetBody (d a b : Nat) (s : State) : Exe :=
  let g := s.gang
  let n := (readS g b).toNat % 128
  .ok (s.onGang (fun h => writeS h d (extGetVal g a n) (if g.arm.mask.getLsbD n then srcShadowV g a else Shadow.top)))

/-- EXT.put (R285, R284). -/
def extPutBody (d a b : Nat) (s : State) : Exe :=
  let g := s.gang
  let n := (readS g b).toNat % 128
  if g.arm.mask.getLsbD n then
    .ok (s.onGang (fun h =>
      let h := putV h d n (readS g a)
      setShadowV { h with arm := armTouched true d h.arm } d (shHull (shadowV g d) (shadowS g a))))
  else .ok s

/-! ### Lane operations (R366 to R369) -/

/-- The active lanes that vote true. -/
def votes (g : Gang) (a : Nat) : List Nat := (laneList g.arm.mask).filter (fun l => srcV g a l != 0)

/-- VOTE (R367). -/
def voteBody (f : VoteOp) (d a : Nat) (s : State) : Exe :=
  let g := s.gang
  let bit (b : Bool) : Exe := .ok (s.onGang (fun h => writeS h d (if b then 1 else 0) ⟨0, 1⟩))
  match f with
  | .any => bit (!(votes g a).isEmpty)
  | .all => bit (g.arm.mask != 0 && decide ((votes g a).length = laneCount g.arm.mask))
  | .ballot =>
    let m := lanesMask (votes g a)
    .ok (s.onGang (fun h => (List.range 3).foldl (fun h k => writeS h (d + k) (maskWord m k) Shadow.top) h))

/-- One step of RED and SCAN (R368). -/
def laneStep (f : LaneOp) (x y : Word) : Word :=
  match f with
  | .add => x + y
  | .min => if x.toInt ≤ y.toInt then x else y
  | .max => if x.toInt ≤ y.toInt then y else x

/-- The identity of RED (R368). -/
def laneIdent : LaneOp → Word
  | .add => 0
  | .min => 0x7FFFFFFF
  | .max => 0x80000000

/-- The operation over some lanes, in ascending order. -/
def laneFold (f : LaneOp) (g : Gang) (a : Nat) (ls : List Nat) : Word :=
  ls.foldl (fun x l => laneStep f x (srcV g a l)) (laneIdent f)

/-- Shadows of RED and SCAN (R368). -/
def laneShadow (f : LaneOp) (scan : Bool) (n : Nat) (a : Shadow) : Shadow :=
  match f with
  | .add =>
    if scan then shClip (Min.min a.lo (n * a.lo)) (Max.max a.hi (n * a.hi)) else shClip (n * a.lo) (n * a.hi)
  | _ => if n = 0 then shExact (laneIdent f) else a

/-- RED (R368). -/
def redBody (f : LaneOp) (d a : Nat) (s : State) : Exe :=
  let g := s.gang
  .ok (s.onGang (fun h => writeS h d (laneFold f g a (laneList g.arm.mask))
    (laneShadow f false (laneCount g.arm.mask) (srcShadowV g a))))

/-- SCAN (R368). -/
def scanBody (f : LaneOp) (d a : Nat) (s : State) : Exe :=
  let g := s.gang
  let ls := laneList g.arm.mask
  .ok (s.onGang (fun h => writeV h d (fun l => laneFold f g a (ls.filter (fun j => decide (j ≤ l))))
    (laneShadow f true ls.length (srcShadowV g a))))

/-- SHFL (R369), with the source lane of each lane: a lane outside the arm gives 0 and sets GSTAT.SHX. -/
def shflBody (d a : Nat) (src : Nat → Int) (s : State) : Exe :=
  let g := s.gang
  let ok (l : Nat) : Bool := decide (0 ≤ src l) && decide (src l < g.width) && g.arm.mask.getLsbD (src l).toNat
  let out := (laneList g.arm.mask).any (fun l => !ok l)
  .ok (s.onGang (fun h =>
    let h := writeV h d (fun l => if ok l then srcV g a (src l).toNat else 0) (shHull (srcShadowV g a) Shadow.zero)
    { h with shx := h.shx || out }))

/-- The source lane of the register forms of SHFL (R369). -/
def shflSrc (f : ShflOp) (g : Gang) (b l : Nat) : Int :=
  match f with
  | .idx => (srcV g b l).toInt
  | .up => (l : Int) - (readS g b).toNat
  | .down => (l : Int) + (readS g b).toNat
  | .xor => ((l ^^^ (readS g b).toNat : Nat) : Int)

/-! ### The work identifier (R350, R370, R371) -/

/-- Live slices of the executing arm (R349). -/
def liveSlices (g : Gang) : Nat :=
  ((List.range 12).filter (fun k => g.arm.mask.extractLsb' (8 * k) 8 != 0)).length

/-- Field f of a lane (R350): field 0 is the lane number. -/
def widField (g : Gang) (f l : Nat) : Nat := if f = 0 then l else g.wval.getD f 0

/-- The 64-bit identifier of a lane: its fields packed upward (R350). -/
def widBits (g : Gang) (l : Nat) : Nat :=
  ((List.range 6).foldl (fun (acc : Nat × Nat) f =>
    (acc.1 + widField g f l % 2 ^ g.wwid.getD f 0 * 2 ^ acc.2, acc.2 + g.wwid.getD f 0)) (0, 0)).1 % 2 ^ 64

/-- The shadow of field f (R235, R371). -/
def widShadow (g : Gang) (f : Nat) : Shadow :=
  let e := if f = 0 then g.width else g.wext.getD f 0
  if f ≠ 0 ∧ g.wwid.getD f 0 = 0 then Shadow.zero else ⟨0, Min.min ((e : Int) - 1) i32Max⟩

/-- WIDR (R371). -/
def widrBody (k : Kind) (d f : Nat) (s : State) : Exe :=
  let g := s.gang
  let val (l : Nat) : Word :=
    if f = 6 then BitVec.ofNat 32 (widBits g l)
    else if f = 7 then BitVec.ofNat 32 (widBits g l / 2 ^ 32)
    else BitVec.ofNat 32 (widField g f l)
  .ok (s.onGang (fun h => writeReg h k d val (if 6 ≤ f then Shadow.top else widShadow g f)))

/-- GWID's packed word (R370). -/
def gwidWord (g : Gang) : Word :=
  BitVec.ofNat 32 (g.width + laneCount g.arm.mask * 2 ^ 8 + liveSlices g * 2 ^ 16 + g.arm.slot * 2 ^ 20 +
    (if g.partner.isSome then 2 ^ 21 else 0))

/-- Write a scalar result of a system instruction. -/
def putS (s : State) (d : Nat) (x : Word) (sh : Shadow) : Exe := .ok (s.onGang (fun g => writeS g d x sh))

/-! ### Interval instructions (R251, R252) -/

/-- Mark that the executing arm has written a register, for R174. -/
def touched (k : Kind) (r : Nat) (g : Gang) : Gang := { g with arm := armTouched (k = .vec) r g.arm }

/-- IWDN (R251). -/
def iwdnBody (k : Kind) (d b c : Nat) (s : State) : Exe :=
  let g := s.gang
  let lo := (readS g b).toInt
  let hi := (readS g c).toInt
  let sh := shadowOf g k d
  if k = .vec ∧ g.arm.mask = 0 then .ok s
  else
    let s := s.onGang (touched k d)
    if hi < lo then .ok s
    else .ok (s.onGang (fun h => setShadow h k d (if lo ≤ sh.lo ∧ sh.hi ≤ hi then ⟨lo, hi⟩ else shHull sh ⟨lo, hi⟩)))

/-- The value that an interval instruction reads in a lane, or of the scalar. -/
def laneInt (g : Gang) (k : Kind) (d l : Nat) : Int :=
  match k with
  | .vec => (readV g d l).toInt
  | .scal => (readS g d).toInt

/-- The lanes whose value lies outside an interval (R251). -/
def outside (g : Gang) (k : Kind) (d : Nat) (lo hi : Int) : List Nat :=
  (opLanes g k).filter (fun l => decide (laneInt g k d l < lo) || decide (hi < laneInt g k d l))

/-- A signed number as a 64-bit address value. -/
def sext64 (n : Int) : Nat := (n % 18446744073709551616).toNat

/-- ISET (R251). -/
def isetBody (k : Kind) (d b c : Nat) (s : State) : Exe :=
  let g := s.gang
  let lo := (readS g b).toInt
  let hi := (readS g c).toInt
  let sh := shadowOf g k d
  if k = .vec ∧ g.arm.mask = 0 then .ok s
  else if hi < lo then .trap (plainTrap g causeInterval 2 0) s
  else
    let bad := if lo ≤ sh.lo ∧ sh.hi ≤ hi then [] else outside g k d lo hi
    match bad with
    | [] => .ok (s.onGang (fun h => setShadow (touched k d h) k d ⟨Max.max sh.lo lo, Min.min sh.hi hi⟩))
    | l :: _ =>
      let t := plainTrap g causeInterval 1 (sext64 (laneInt g k d l))
      .trap (match k with | .vec => { t with lanes := lanesMask bad } | .scal => t) s

/-- IGET (R252). -/
def igetBody (k : Kind) (d a : Nat) (s : State) : Exe :=
  let sh := shadowOf s.gang k a
  let w (n : Int) : Word := BitVec.ofInt 32 n
  .ok (s.onGang (fun g => writeS (writeS g d (w sh.lo) (shExact (w sh.lo))) (d + 1) (w sh.hi) (shExact (w sh.hi))))

/-- ITOP (R252). -/
def itopBody (k : Kind) (d : Nat) (s : State) : Exe := .ok (s.onGang (fun g => setShadow (touched k d g) k d Shadow.top))

/-! ### Descriptor registers (R232, R248, R249) -/

/-- The descriptor of a base, an extent and an attribute word. -/
def descOf (base : DWord) (ext : Word) (attr : Word) : BitVec 128 :=
  BitVec.ofNat 128 (base.toNat + ext.toNat * 2 ^ 64 + attr.toNat % 2 ^ 22 * 2 ^ 96)

/-- An instruction that names a descriptor which an ADLD owes stalls until it lands (R250). -/
def withDesc (n : DescNo) (s : State) (body : State → Exe) : Exe := if owedDesc s.gang n.toNat then .stall 0 s else body s

/-- ADSET (R248). -/
def adsetBody (aa : DescNo) (e : Nat) (attr : Word) (s : State) : Exe :=
  withDesc aa s (fun s => .ok (s.onGang (fun g => writeA g aa.toNat (descOf (readS64 g e) (readS g (e + 2)) attr))))

/-- ADGET (R249). -/
def adgetBody (f : AdField) (d : Nat) (aa : DescNo) (s : State) : Exe :=
  withDesc aa s (fun s =>
    let x := readA s.gang aa.toNat
    let put (g : Gang) (r : Nat) (w : Word) : Gang := writeS g r w (shExact w)
    .ok (s.onGang (fun g => match f with
      | .base => put (put g d (x.extractLsb' 0 32)) (d + 1) (x.extractLsb' 32 32)
      | .ext => put g d (x.extractLsb' 64 32)
      | .attr => put g d (x.extractLsb' 96 32))))

/-! ### Meanings -/

/-- MOV (R285). -/
def execMov (k : Kind) (d a : Reg) (s : State) : Host.Outcome State Fault Refusal :=
  issue (.mov k d a) false s (fun s => arith1 k false false d a 0 (fun x => (x, 0)) (fun p => p) s)

/-- MOVS (R285): each active lane of vD := sB. -/
def execMovs (d b : Reg) (s : State) : Host.Outcome State Fault Refusal :=
  issue (.movs d b) false s (fun s =>
    arith s .vec false (regD s d) 0 (fun _ => ((readS s.gang (regB s b)).toNat, 0)) (shadowS s.gang (regB s b)))

/-- EXT.get (R285). -/
def execExtGet (d a b : Reg) (s : State) : Host.Outcome State Fault Refusal :=
  issue (.extGet d a b) false s (fun s => extGetBody d.toNat a.toNat b.toNat s)

/-- EXT.put (R285). -/
def execExtPut (d a b : Reg) (s : State) : Host.Outcome State Fault Refusal :=
  issue (.extPut d a b) false s (fun s => extPutBody d.toNat a.toNat b.toNat s)

/-- IGET (R252). -/
def execIget (k : Kind) (d a : Reg) (s : State) : Host.Outcome State Fault Refusal :=
  issue (.iget k d a) false s (fun s => igetBody k d.toNat a.toNat s)

/-- ITOP (R252). -/
def execItop (k : Kind) (d : Reg) (s : State) : Host.Outcome State Fault Refusal :=
  issue (.itop k d) false s (fun s => itopBody k d.toNat s)

/-- VOTE (R367). -/
def execVote (f : VoteOp) (d a : Reg) (s : State) : Host.Outcome State Fault Refusal :=
  issue (.vote f d a) false s (fun s => voteBody f d.toNat a.toNat s)

/-- SHFL, register forms (R369). -/
def execShfl (f : ShflOp) (d a b : Reg) (s : State) : Host.Outcome State Fault Refusal :=
  issue (.shfl f d a b) false s (fun s => shflBody d.toNat a.toNat (shflSrc f s.gang b.toNat) s)

/-- RED (R368). -/
def execRed (f : LaneOp) (d a : Reg) (s : State) : Host.Outcome State Fault Refusal :=
  issue (.red f d a) false s (fun s => redBody f d.toNat a.toNat s)

/-- SCAN (R368). -/
def execScan (f : LaneOp) (d a : Reg) (s : State) : Host.Outcome State Fault Refusal :=
  issue (.scan f d a) false s (fun s => scanBody f d.toNat a.toNat s)

/-- SHFL.up and SHFL.down by an immediate (R369). -/
def execShflImm (d a : Reg) (imm : BitVec 8) (s : State) : Host.Outcome State Fault Refusal :=
  issue (.shflImm d a imm) false s (fun s => shflBody d.toNat a.toNat (fun l => (l : Int) + imm.toInt) s)

/-- SHFL.xor by an immediate (R369). -/
def execShflXorImm (d a : Reg) (m : BitVec 7) (s : State) : Host.Outcome State Fault Refusal :=
  issue (.shflXorImm d a m) false s (fun s => shflBody d.toNat a.toNat (fun l => ((l ^^^ m.toNat : Nat) : Int)) s)

/-- WIDR (R371). -/
def execWidr (k : Kind) (d : Reg) (imm : BitVec 8) (s : State) : Host.Outcome State Fault Refusal :=
  issue (.widr k d imm) false s (fun s => widrBody k d.toNat imm.toNat s)

/-- GWID.pack (R370). -/
def execGwidPack (d : SReg) (s : State) : Host.Outcome State Fault Refusal :=
  issue (.gwidPack d) false s (fun s => putS s d.toNat (gwidWord s.gang) ⟨0, 2 ^ 22 - 1⟩)

/-- GWID.width (R370). -/
def execGwidWidth (d : SReg) (s : State) : Host.Outcome State Fault Refusal :=
  issue (.gwidWidth d) false s (fun s => putS s d.toNat (BitVec.ofNat 32 s.gang.width) ⟨s.gang.width, s.gang.width⟩)

/-- GWID.live (R370). -/
def execGwidLive (d : SReg) (s : State) : Host.Outcome State Fault Refusal :=
  issue (.gwidLive d) false s (fun s => putS s d.toNat (BitVec.ofNat 32 (laneCount s.gang.arm.mask)) ⟨0, s.gang.width⟩)

/-- GWID.slices (R370). -/
def execGwidSlices (d : SReg) (s : State) : Host.Outcome State Fault Refusal :=
  issue (.gwidSlices d) false s (fun s => putS s d.toNat (BitVec.ofNat 32 (liveSlices s.gang)) ⟨0, (s.gang.width / 8 : Nat)⟩)

/-- GWID.slot (R370). -/
def execGwidSlot (d : SReg) (s : State) : Host.Outcome State Fault Refusal :=
  issue (.gwidSlot d) false s (fun s => putS s d.toNat (BitVec.ofNat 32 s.gang.arm.slot) ⟨0, 1⟩)

/-- IWDN (R251). -/
def execIwdn (k : Kind) (d b c : Reg) (s : State) : Host.Outcome State Fault Refusal :=
  issue (.iwdn k d b c) false s (fun s => iwdnBody k d.toNat b.toNat c.toNat s)

/-- ISET (R251). -/
def execIset (k : Kind) (d b c : Reg) (s : State) : Host.Outcome State Fault Refusal :=
  issue (.iset k d b c) false s (fun s => isetBody k d.toNat b.toNat c.toNat s)

/-- ADSET with the attribute word in Imm32 (R248). -/
def execAdset (aa : DescNo) (e : Reg) (attr : BitVec 32) (s : State) : Host.Outcome State Fault Refusal :=
  issue (.adset aa e attr) false s (fun s => adsetBody aa e.toNat attr s)

/-- ADSET.r, with the attribute word in sE+3 (R248). -/
def execAdsetR (aa : DescNo) (e : Reg) (s : State) : Host.Outcome State Fault Refusal :=
  issue (.adsetR aa e) false s (fun s => adsetBody aa e.toNat (readS s.gang (e.toNat + 3)) s)

/-- ADGET (R249). -/
def execAdget (f : AdField) (d : Reg) (aa : DescNo) (s : State) : Host.Outcome State Fault Refusal :=
  issue (.adget f d aa) false s (fun s => adgetBody f d.toNat aa s)

end Sys2Proof.Machine
end

