-- ==== Sys2Proof/Machine/Async.lean ====
section
/-! DEFINITION. Split-phase operations: issue on a counter, landing, arrival, WAIT, CSET and CGET (R170 to R175, R401,
R414). -/

namespace Sys2Proof.Machine

/-! ### Issue, landing and arrival -/

/-- While 32,767 operations are outstanding on a counter, an issue that names it stalls (R171). -/
def withCtr (c : CtrNo) (s : State) (body : State → Exe) : Exe :=
  if 32767 ≤ (outstanding s.gang c.toNat).length then .stall 15 s else body s

/-- Registers become owed: their shadows are hulled with the interval of the value to come, a scalar's in both arms (R174, R234). -/
def hullOwed (g : Gang) (rs : List (Bool × Nat × Shadow)) : Gang := rs.foldl (fun g r => hullShadow g r.1 r.2.1 r.2.2) g

/-- A split-phase operation of the executing arm on counter `c`: its kind, the register writes of its landing, the registers
it owes with their intervals, and whether its unit has finished (R170 to R174). The identifier, the ticket and the state. -/
def startOp (s : State) (c : CtrNo) (kind : OpKind) (lands : List RegWrite) (owed : List (Bool × Nat × Shadow))
    (done : Bool) : Nat × BitVec 16 × State :=
  let r := newOp s c.toNat kind lands none (owed.isEmpty) done
  let s := oweRegs r.2.2 r.1 c.toNat r.2.1.toNat owed
  (r.1, r.2.1, s.onGang (fun g => hullOwed g owed))

/-- Whether an operation's data may land: what it writes is known, and its reads wait for no refresh and no reserved bank (R66, R69); a
TLBINV waits for the accesses that used what it drops (R114). -/
def opReady (s : State) (o : Op) : Bool :=
  !o.landed && decide (o.after ≤ s.cc) && o.banks.all (fun b => !bankReserved s b) && (match o.kind with
    | .tlbinv v => !stillUsed s v o.id
    | .brdo _ _ _ _ | .held _ _ _ _ _ _ | .move _ | .pin | .sweep | .matrix _ => o.done
    | _ => true)

/-- Write one register of a landing; the mask words take it as any write (R361), and no shadow changes. -/
def landWrite (g : Gang) (w : RegWrite) : Gang :=
  if w.vec then putV g w.reg w.lane w.val
  else if 61 ≤ w.reg then writeMask g (w.reg - 61) w.val
  else { g with s := smapSet 0 g.s w.reg w.val }

/-- Mark an operation's owed registers landed in an arm's scoreboard. -/
def landOwed (op : Nat) (a : Arm) : Arm :=
  { a with owed := a.owed.map (fun o => if o.op = op then { o with landed := true } else o) }

/-- Do something as the arm in a slot, or as the executing arm where that slot has none. -/
def asSlot (g : Gang) (slot : Nat) (f : Gang → Gang) : Gang :=
  match g.partner with
  | some p =>
    if g.arm.slot ≠ slot ∧ p.slot = slot then
      let h := f { g with arm := p, partner := some g.arm }
      match h.partner with
      | some q => { h with arm := q, partner := some h.arm }
      | none => h
    else f g
  | none => f g

/-- An operation's data lands in its gang (R172, R250); a mask word is the issuing arm's (R361). -/
def landOp (g : Gang) (o : Op) : Gang :=
  let g := asSlot g o.slot (fun g => o.lands.foldl landWrite g)
  let g := match o.desc with
    | some (n, x) => writeA g n x
    | none => g
  onArms { g with ops := g.ops.map (fun p => if p.id = o.id then { p with landed := true, lands := [], desc := none } else p) }
    (landOwed o.id)

/-- The oldest operation on a counter arrives, where it has landed and finished (R171); a WAIT on the counter comes after its unit's accesses
(R332). -/
def arriveOn (g : Gang) (c : Nat) : Gang :=
  match arrivable g c with
  | none => g
  | some o => { g with ops := g.ops.filter (fun p => p.id ≠ o.id), c := smapSet 0 g.c c (readC g c + 1)
                       ctimes := smapSet 0 g.ctimes c (Max.max (smapGet 0 g.ctimes c) o.time) }

/-- An operation that its rule completes at once: it arrives where no earlier one is outstanding. -/
def arriveAtOnce (s : State) (c : CtrNo) : State :=
  s.onGang (fun g => if (outstanding g c.toNat).length = 1 then arriveOn g c.toNat else g)

/-- Bytes of a tile image land in the team's scratchpad (R157): all that are left, or those that the free choice names. The words that
the image covers lose their poison marks with its last byte. The second result says whether all has landed. -/
def landImage (s : State) (g : Gang) (n : Nat) (left : List (Nat × Byte)) (spans : List (Nat × Nat)) (all : Bool) : State × Bool :=
  let base := match teamById s g.team with | some t => t.scrBase * 4096 | none => 0
  let key (o : Nat) : Nat := scrKey g.core (base + o)
  let is := (List.range left.length).zip left
  let lands (x : Nat × Nat × Byte) : Bool := all || Config.imageLands s.tick (x.1 + 1)
  let rest := (is.filter (fun x => !lands x)).map (fun x => x.2)
  let s := spans.foldl (fun s x => touchUnit s true (key x.1) x.2) s
  let s := (is.filter lands).foldl (fun s x =>
    { s with mem := { s.mem with scratch := cellsWrite s.mem.scratch (key x.2.1) [x.2.2] } }) s
  if rest.isEmpty then
    (spans.foldl (fun s x => { s with mem := { s.mem with scratchPoison := healed 8 s.mem.scratchPoison (key x.1) x.2 } }) s, true)
  else
    (onGangId s g.id (fun y => { y with ops := y.ops.map (fun o => if o.id = n then { o with kind := .image rest spans } else o) }), false)

/-- What a landing does outside the gang's registers: a TLBINV drops its entries (R114), a tile image lands (R157). -/
def landOutside (s : State) (g : Gang) (o : Op) (all : Bool) : State × Bool :=
  match o.kind with
  | .tlbinv v => (invalidate s v, true)
  | .image left spans => landImage s g o.id left spans all
  | _ => (s, true)

/-- DATA_LANDING (R172, R174): the data of operation `n` of gang `g` lands. -/
def execDataLanding (g n : Nat) (s : State) : Host.Outcome State Fault Refusal :=
  event s (fun s =>
    let land (x : Gang) : Gang :=
      match x.ops.find? (fun o => o.id == n) with
      | some o => if opReady s o then landOp x o else x
      | none => x
    let r := match (gangById s g).bind (fun x => (x.ops.find? (fun o => o.id == n)).map (fun o => (x, o))) with
      | some (x, o) => if opReady s o then landOutside s x o (Config.imageLands s.tick 0) else (s, true)
      | none => (s, true)
    if r.2 then onGangId r.1 g land else r.1)

/-- ARRIVE (R171): counter `ctr` of gang `g` takes the arrival of its oldest operation, where that has finished. -/
def execArrive (g ctr : Nat) (s : State) : Host.Outcome State Fault Refusal :=
  event s (fun s =>
    let t := onGangId s g (fun x => arriveOn x ctr)
    match (gangById s g).bind (fun x => arrivable x ctr) with
    | some o => unreserve t o.id
    | none => t)

/-! ### WAIT (R175, R401) -/

/-- A ticket that a value has reached. -/
def covers (k : BitVec 16) (ticket : Nat) : Bool := reached k (BitVec.ofNat 16 ticket)

/-- The pending entries of a counter that a value has reached. -/
def pendOf (g : Gang) (c : Nat) (k : BitVec 16) : List Pend := g.pend.filter (fun p => p.ctr == c && covers k p.ticket)

/-- The order in which a WAIT checks pending causes (R401). -/
def waitOrder : List Nat := [causePoison, causeJob, causeMxReset, causeOb, causeWindow, causeFork, causeMigration]

/-- Of two entries, the one with the earlier ticket, seen from the value. -/
def earlier (k : BitVec 16) (p q : Pend) : Pend :=
  if (k - BitVec.ofNat 16 p.ticket).toNat < (k - BitVec.ofNat 16 q.ticket).toNat then q else p

/-- The cause that a completing WAIT raises: the first present, from its entry with the earliest ticket. -/
def waitCause (g : Gang) (c : Nat) (k : BitVec 16) : Option Pend :=
  waitOrder.findSome? (fun x =>
    match (pendOf g c k).filter (fun p => p.cause == x) with
    | [] => none
    | p :: t => some (t.foldl (earlier k) p))

/-- A WAIT ends the debt of the registers it covers and narrows the shadows of those not written since (R172, R174); that of a vector
register only where the operation has written every active lane of the arm, for a shadow bounds them all (R234). DEDUCED, log entry 105. -/
def coverRegs (g : Gang) (c : Nat) (k : BitVec 16) : Gang :=
  let cov (o : Owed) : Bool := o.ctr == c && o.landed && covers k o.ticket
  let g' := (g.arm.owed.filter cov).foldl (fun g o =>
    if o.clean ∧ (!o.vec ∨ g.arm.mask &&& ~~~o.lanes = 0) then setShadow g (if o.vec then .vec else .scal) o.reg o.ival else g) g
  { g' with arm := { g'.arm with owed := g'.arm.owed.filter (fun o => !cov o) } }

/-- Merge the matrix flags of covered commands into the active lanes (R311). -/
def mergeFlags (g : Gang) (c : Nat) (k : BitVec 16) : Gang :=
  let ps := (pendOf g c k).filter (fun p => p.cause == 0)
  let fl : BitVec 5 := ps.foldl (fun m p => m ||| p.flags) 0
  { g with vflags := (laneList g.arm.mask).foldl (fun m l => smapSet 0 m l (smapGet 0 m l ||| fl)) g.vflags
           pend := g.pend.filter (fun p => !(p.cause == 0 && p.ctr == c && covers k p.ticket)) }

/-- The record of consumed poison (R414). -/
def consumePoison (s : State) (pa : Nat) : State :=
  let done := match launchById s s.gang.launch with | some l => pktNat l 64 8 | none => 0
  logError s ⟨pa, s.gang.ctx, 5, s.gang.core / 96, 1, 6, done⟩

/-- The image of a TLD or THALO takes its place as writes of its arm, at the logical time of the arm's WAIT (R157): a byte that another agent
has written since the issue keeps that agent's value or takes the image's, as the free choice says (log entry 54). -/
def placeImage (s : State) (im : Image) : State :=
  let base := match teamById s s.gang.team with | some t => t.scrBase * 4096 | none => 0
  let key (o : Nat) : Nat := scrKey s.gang.core (base + o)
  let kept (o : Nat) : Bool :=
    let st := stampOf s (scrLine (key o))
    st.wby != armNo s && decide (0 < st.wts) && decide (im.since ≤ st.wts) && Config.imageKept s.tick o
  let ws := im.bytes.filter (fun b => !kept b.1)
  let s := orderWrites s (armNo s) ((ws.map (fun b => scrLine (key b.1) / 256 * 256)).foldl nsetInsert [])
  { s with mem := { s.mem with scratch := ws.foldl (fun m b => smapSet 0 m (key b.1) b.2) s.mem.scratch } }

/-- The images that a WAIT of the executing arm covers. -/
def imagesOf (g : Gang) (c : Nat) (k : BitVec 16) (im : Image) : Bool := im.slot == g.arm.slot && im.ctr == c && covers k im.ticket

/-- A WAIT takes its place in the memory order (R157, R332): after the accesses of the units whose operations have arrived on its counter, and
with the images that it covers. -/
def waitPlaced (c : Nat) (k : BitVec 16) (s : State) : State :=
  let t := (s.gang.images.filter (imagesOf s.gang c k)).foldl placeImage (raiseTime s (armNo s) (smapGet 0 s.gang.ctimes c))
  t.onGang (fun g => { g with images := g.images.filter (fun im => !imagesOf g c k im) })

/-- A WAIT whose counter has reached its value: the first pending cause traps and its entries are cleared, otherwise flags
merge and registers are covered (R175, R401). -/
def waitDone (c : Nat) (k : BitVec 16) (s : State) : Exe :=
  match waitCause s.gang c k with
  | some p =>
    let s := s.onGang (fun g =>
      { g with pend := g.pend.filter (fun q => !(q.cause == p.cause && q.ctr == c && covers k q.ticket)) })
    let s := if p.cause = causePoison then consumePoison s p.pa else s
    .trap (plainTrap s.gang p.cause p.reason p.faddr.toNat) s
  | none => .ok ((waitPlaced c k s).onGang (fun g => coverRegs (mergeFlags g c k) c k))

/-- The same, unless its place would pass the bound on logical time (R333). -/
def waitTry (c : Nat) (k : BitVec 16) (s : State) : Exe := boundedExe s (waitDone c k s)

/-- WAIT for counter `c` to reach `k`: done, or the arm stalls. -/
def waitBody (c : CtrNo) (k : BitVec 16) (s : State) : Exe :=
  if reached (readC s.gang c.toNat) k then waitTry c.toNat k s
  else .stall 1 (s.onArm (fun a => { a with stall := (match a.stall with
    | .wait c' k' t => if c' = c.toNat ∧ k' = k.toNat then .wait c' k' t else .wait c.toNat k.toNat s.cc
    | _ => .wait c.toNat k.toNat s.cc) }))

/-- WAIT with a value (R175). -/
def execWait (c : CtrNo) (k : BitVec 16) (s : State) : Host.Outcome State Fault Refusal :=
  issue (.wait c k) false s (fun s => waitBody c k s)

/-- WAIT with sK[15:0] (R175). -/
def execWaitReg (c : CtrNo) (r : SReg) (s : State) : Host.Outcome State Fault Refusal :=
  issue (.waitReg c r) false s (fun s => waitBody c ((readS s.gang r.toNat).extractLsb' 0 16) s)

/-- WAIT_COMPLETE (R401): the stalled WAIT of an arm ends once its counter has reached the value it waits for. -/
def execWaitComplete (g slot : Nat) (s : State) : Host.Outcome State Fault Refusal :=
  event s (fun s0 =>
    let s := focusOn s0 g slot
    if s.live ∧ s.gang.id = g ∧ s.gang.arm.slot = slot then
      match s.gang.arm.stall with
      | .wait c k _ =>
        if reached (readC s.gang c) (BitVec.ofNat 16 k) then
          settle s (waitTry c (BitVec.ofNat 16 k) s)
            (fun s' => afterIssue (advance s' (.wait (BitVec.ofNat 4 c) (BitVec.ofNat 16 k))))
        else s
      | _ => s
    else s)

/-! ### CSET and CGET (R175) -/

/-- CSET: the counter and its issue count; a Hazard in debug-hazard mode while an operation is outstanding. -/
def csetBody (c : CtrNo) (k : BitVec 16) (s : State) : Exe :=
  if hazMode s.gang && !(outstanding s.gang c.toNat).isEmpty then .trap (plainTrap s.gang causeHazard 0 c.toNat) s
  else .ok (s.onGang (fun g => { g with c := smapSet 0 g.c c.toNat k, issueCnt := smapSet 0 g.issueCnt c.toNat k }))

/-- CSET with a value (R175). -/
def execCset (c : CtrNo) (k : BitVec 16) (s : State) : Host.Outcome State Fault Refusal :=
  issue (.cset c k) false s (fun s => csetBody c k s)

/-- CSET with sK[15:0] (R175). -/
def execCsetReg (c : CtrNo) (r : SReg) (s : State) : Host.Outcome State Fault Refusal :=
  issue (.csetReg c r) false s (fun s => csetBody c ((readS s.gang r.toNat).extractLsb' 0 16) s)

/-- CGET (R175). -/
def execCget (d : SReg) (c : CtrNo) (s : State) : Host.Outcome State Fault Refusal :=
  issue (.cget d c) false s (fun s => putS s d.toNat ((readC s.gang c.toNat).setWidth 32) ⟨0, 65535⟩)

end Sys2Proof.Machine
end

