-- ==== Sys2Proof/Machine/Banks.lean ====
section
/-! DEFINITION. Ordered reduction and barrier objects in bank memory (R186 to R188, R195 to R197) and the retention of
banks and scratchpads (R189, R199). -/

namespace Sys2Proof.Machine

/-! ### Object fields -/

/-- A field of an object in bank memory: `n` bytes at an offset of the 64 MiB window. -/
def bkNat (s : State) (a n : Nat) : Nat := leNat (cellsRead s.mem.bank a n)

/-- Set a field of an object; a whole word's poison is cleared by the write (R74). -/
def bkPut (s : State) (a n v : Nat) : State :=
  { s with mem := { s.mem with bank := cellsWrite s.mem.bank a (leBytes n v), bankPoison := healed 8 s.mem.bankPoison a n } }

/-- OR bits into a status byte. -/
def bkOr (s : State) (a bits : Nat) : State := bkPut s a 1 (bkNat s a 1 ||| bits)

/-- The generic address of a byte of bank memory in a gang's aperture area (R86). -/
def bankVa (g : Gang) (off : Nat) : Nat := canonVa (g.apbase.toNat % 2 ^ 17 * 2 ^ 40 + 2 ^ 32 + off)

/-- The first poisoned word that bytes of bank memory touch, by offset. -/
def bkBad (s : State) (a n : Nat) : Option Nat :=
  ((natRange (a / 8) ((a + n - 1) / 8 + 1 - a / 8)).find? (fun k => s.mem.bankPoison.contains k)).map (fun k => 8 * k)

/-- An object operation that met a poisoned word leaves Poison on its counter, as a load does (R73, R190). What it does there the
spec does not say: DESIGN CHOICE, log entry 88. -/
def pendBank (c : CtrNo) (t : BitVec 16) (bad : Option Nat) (s : State) : State :=
  match bad with
  | some a => s.onGang (fun g => addPend g ⟨c.toNat, t.toNat, causePoison, 1, BitVec.ofNat 64 (bankVa g a), bankLine a / 64 * 64, 0⟩)
  | none => s

/-- The signed number that 32 bits spell. -/
def int32 (n : Nat) : Int := (BitVec.ofNat 32 n).toInt

/-- The 4 KiB units of bank memory that `n` bytes at an offset lie in. -/
def bankPages (off n : Nat) : List Nat := natRange (off / 4096) ((off + n - 1) / 4096 + 1 - off / 4096)

/-- A launch's operation reaches bytes of bank memory, which it may write (R184, R189): a capture launch keeps their units' pre-images (R417),
a replayable one their units (R415), and the bank wakes and decodes them. What stands for a saved team beyond the windows of bank memory
is no bank's. -/
def objAccess (s : State) (launch off n : Nat) : State :=
  if 67108864 ≤ off then s
  else
    let s := (bankPages off n).foldl (fun s p => captureTouch s launch true (4096 * p) (4096 * p)) s
    let s := (bankPages off n).foldl (fun s p => snapshot s launch true (4096 * p)) s
    touchUnit s false off n

/-- A bank operation of the executing arm touches bytes, at its logical time of issue (R177, R195, R423). -/
def bankTouch (s : State) (off n : Nat) : State :=
  orderWrites (objAccess (noteWatch s [(bankVa s.gang off, n)] .atomic) s.gang.launch off n) (armNo s) (linesOf (bankLine off) n)

/-- One that only reads them. -/
def bankPeek (s : State) (off n : Nat) : State :=
  orderReads (objAccess (noteWatch s [(bankVa s.gang off, n)] .read) s.gang.launch off n) (armNo s) (linesOf (bankLine off) n)

/-! ### Waiters (R188) -/

/-- The offset of team barrier `n` of a team (R188). -/
def teamBarObj (t : Team) (n : Nat) : Nat :=
  t.core / 96 * 8388608 + 0x7A0000 + 256 * (16 * (t.core % 96) + t.slot) + 16 * n

/-- PHASE has passed the phase that a waiter joined, modulo 2^32. -/
def phasePassed (s : State) (obj ph : Nat) : Bool :=
  let d := (bkNat s (obj + 8) 4 + 2 ^ 32 - ph % 2 ^ 32) % 2 ^ 32
  decide (1 ≤ d) && decide (d < 2 ^ 31)

/-- An operation that holds a place among the waiters of a bank unit: one that a restore brings back holds none while it waits for it. -/
def waitsAt (ws : List BankWait) (u : Nat) (o : Op) : Bool :=
  match o.kind with
  | .barx obj _ | .brdo obj _ _ _ => !o.done && obj / 65536 == u && !(ws.any (fun w => w.op == o.id))
  | _ => false

/-- The places in use at a bank unit: BARX and BRDO waiters, and gangs that wait at team barriers there. -/
def placesUsed (s : State) (u : Nat) : Nat :=
  (gangsOf s).foldl (fun n g =>
    let bars := match teamById s g.team with
      | none => 0
      | some t => ((List.range 16).filter (fun b => teamBarObj t b / 65536 == u &&
          (armsOf g).any (fun a => a.barWaits.any (fun w => w.1 == b && (match w.2.2 with
            | some ph => !phasePassed s (teamBarObj t b) ph
            | none => false))))).length
    n + (g.ops.filter (waitsAt s.banks.waits u)).length + bars) 0

/-- The logical time of the last operation on an object: what it completes comes after it (R332). -/
def objTime (s : State) (obj : Nat) : Nat := (stampOf s (bankLine obj)).wts

/-- Release every BARX waiter of an object whose phase has passed, or all of them (R188, R197). -/
def barxRelease (s : State) (obj : Nat) (all : Bool) : State :=
  mapGangs s (fun g => { g with ops := g.ops.map (fun o => match o.kind with
    | .barx ob ph => if ob = obj ∧ (all ∨ phasePassed s obj ph) then { o with done := true, time := Max.max o.time (objTime s obj) } else o
    | _ => o) })

/-! ### BARX (R188, R197) -/

/-- A team's gangs count their issues anew from the completion of a phase of its barriers (R389). -/
def phaseIssued (s : State) (obj : Nat) : State :=
  match s.teams.find? (fun t => decide (teamBarObj t 0 ≤ obj) && decide (obj < teamBarObj t 16)) with
  | some t => mapGangs s (fun g => if g.team = t.id then { g with issued := 0 } else g)
  | none => s

/-- The completion check of R188: every phase that can complete does, and its waiters are released. -/
def barxCheck (s : State) (obj : Nat) : State :=
  let arrived := bkNat s (obj + 4) 2
  let expect := bkNat s (obj + 6) 2
  if 1 ≤ expect ∧ expect ≤ arrived ∧ bkNat s obj 4 = 0 then
    let s := phaseIssued (bkPut s (obj + 8) 4 (bkNat s (obj + 8) 4 + arrived / expect)) obj
    barxRelease (bkPut s (obj + 4) 2 (arrived % expect)) obj false
  else s

/-- Add to PEND, modulo 2^32; ST bit 0 where it leaves the signed range (R197). -/
def barxPend (s : State) (obj : Nat) (d : Int) : State :=
  let v := int32 (bkNat s obj 4) + d
  let s := if i32Min ≤ v ∧ v ≤ i32Max then s else bkOr s (obj + 12) 1
  bkPut s obj 4 (v % 2 ^ 32).toNat

/-- The phase that an arrival joins (R197). -/
def barxJoin (s : State) (obj : Nat) : Nat :=
  let e := bkNat s (obj + 6) 2
  if e = 0 then bkNat s (obj + 8) 4 else (bkNat s (obj + 8) 4 + bkNat s (obj + 4) 2 / e) % 2 ^ 32

/-- BARX.tx, BARX.done and byte landings: PEND changes by `d`, then the check. -/
def barxAdd (s : State) (obj : Nat) (d : Int) : State := barxCheck (barxPend s obj d) obj

/-- One indivisible arrival that announces `d` bytes; the waiter has been recorded. -/
def barxArrive (s : State) (obj : Nat) (d : Int) : State :=
  let s := barxPend s obj d
  barxCheck (bkPut s (obj + 4) 2 (bkNat s (obj + 4) 2 + 1)) obj

/-- Whether an arrival may be performed now: ARRIVED has room, and the waiter a place or no need of one (R188, R197). -/
def barxRoom (s : State) (obj : Nat) (d : Int) : Bool :=
  let a := bkNat s (obj + 4) 2
  let e := bkNat s (obj + 6) 2
  let done := 1 ≤ e && (int32 (bkNat s obj 4) + d) % 2 ^ 32 == 0 && decide (a / e < (a + 1) / e)
  decide (a < 65535) && (done || decide (placesUsed s (obj / 65536) < 64))

/-- BARX.init: waiters are released with ST bit 1 (R197). -/
def barxInit (s : State) (obj n : Nat) : State :=
  let waiting := (gangsOf s ++ s.teams.flatMap (fun t => t.savedGangs)).any (fun g => g.ops.any (fun o =>
    match o.kind with | .barx ob _ => ob == obj && !o.done | _ => false))
  let s := bkPut (bkPut (bkPut (bkPut s (obj + 6) 2 n) (obj + 4) 2 0) obj 4 0) (obj + 12) 1 (if waiting then 2 else 0)
  barxRelease s obj true

/-! ### BRDO (R186, R187, R196) -/

/-- A TYPE whose values are 64-bit. -/
def brdoWide (t : Nat) : Bool := t == 1 || t == 3

/-- A malformed object (R186). -/
def brdoBad (s : State) (obj : Nat) : Bool :=
  decide (3 < bkNat s (obj + 6) 1) || bkNat s obj 4 == 0 || decide (4096 < bkNat s obj 4)

/-- The bytes of an object of `n` slots. -/
def brdoSize (n : Nat) : Nat := 16 + 8 * n + 8 * ((n + 63) / 64)

/-- acc + x of a TYPE (R187). -/
def brdoAdd (t acc x : Nat) : Nat :=
  match t with
  | 0 => (fpAddV FCtl.plain .f32 (fpDecode .f32 acc) (fpDecode .f32 x)).1
  | 1 => (fpAddV FCtl.plain .f64 (fpDecode .f64 acc) (fpDecode .f64 x)).1
  | 2 => (acc + x) % 2 ^ 32
  | _ => (acc + x) % 2 ^ 64

/-- The value of slot k. -/
def brdoSlot (s : State) (obj k : Nat) : Nat := bkNat s (obj + 16 + 8 * k) (if brdoWide (bkNat s (obj + 6) 1) then 8 else 4)

/-- The sum of the slots in slot order (R187). -/
def brdoSum (s : State) (obj : Nat) : Nat :=
  let t := bkNat s (obj + 6) 1
  (natRange 1 (bkNat s obj 4 - 1)).foldl (fun acc k => brdoAdd t acc (brdoSlot s obj k)) (brdoSlot s obj 0)

/-- The register writes of a BRDO.rd (R196). -/
def brdoLands (d st : Nat) (wide : Bool) (res status : Nat) : List RegWrite :=
  [⟨false, d, 0, BitVec.ofNat 32 res⟩] ++ (if wide then [⟨false, d + 1, 0, BitVec.ofNat 32 (res / 2 ^ 32)⟩] else []) ++
    [⟨false, st, 0, BitVec.ofNat 32 status⟩]

/-- RESULT as a reader receives it: 0 where its word is poisoned. -/
def brdoResult (s : State) (obj : Nat) : Nat := if (bkBad s (obj + 8) 8).isSome then 0 else bkNat s (obj + 8) 8

/-- The words of an object that a contribution to slot k touches: its slot and its bitmap word (R184). -/
def brdoTouch (s : State) (obj k : Nat) : State :=
  let n := bkNat s obj 4
  if brdoBad s obj ∨ n ≤ k then s
  else
    let bm := obj + 16 + 8 * n + k / 64 * 8
    bankTouch (bankTouch s (obj + 16 + 8 * k) 8) bm 8

/-- A BRDO.rd that waits on an object. -/
def readsObj (obj : Nat) (o : Op) : Bool := match o.kind with | .brdo ob _ _ _ => ob == obj && !o.done | _ => false

/-- It gets RESULT and ST. -/
def brdoFinish (s : State) (obj : Nat) (o : Op) : Op :=
  match o.kind with
  | .brdo _ d st w =>
    if readsObj obj o then { o with done := true, time := Max.max o.time (objTime s obj), lands := brdoLands d st w (brdoResult s obj) (bkNat s (obj + 7) 1) } else o
  | _ => o

/-- The readers that wait on an object get RESULT and ST (R196), and Poison where RESULT is poisoned. -/
def brdoRelease (s : State) (obj : Nat) : State :=
  let bad (g : Gang) : List Pend := match bkBad s (obj + 8) 8 with
    | some a => (g.ops.filter (readsObj obj)).map (fun o =>
        ⟨o.ctr, o.ticket, causePoison, 1, BitVec.ofNat 64 (bankVa g a), bankLine a / 64 * 64, 0⟩)
    | none => []
  mapGangs s (fun g => { g with ops := g.ops.map (brdoFinish s obj), pend := g.pend ++ bad g })

/-- The poisoned word that a contribution to slot k reads: the object's first word, or the slot's bitmap word. -/
def brdoPutBad (s : State) (obj k : Nat) : Option Nat :=
  match bkBad s obj 8 with
  | some a => some a
  | none => if brdoBad s obj ∨ bkNat s obj 4 ≤ k then none else bkBad s (obj + 16 + 8 * bkNat s obj 4 + k / 64 * 8) 8

/-- A contribution (R186, R196); one that reads a poisoned word is not performed, and a sum over a poisoned slot leaves RESULT poisoned
(log entry 88). -/
def brdoPut (s0 : State) (obj k v : Nat) : State :=
  let s := brdoTouch s0 obj k
  let n := bkNat s obj 4
  if (brdoPutBad s obj k).isSome then s
  else if brdoBad s obj then bkOr s (obj + 7) 0x20
  else if bkNat s (obj + 7) 1 % 2 = 1 then bkOr s (obj + 7) 8
  else if n ≤ k then bkOr s (obj + 7) 4
  else
    let bm := obj + 16 + 8 * n + k / 8
    if (bkNat s bm 1).testBit (k % 8) then bkOr s (obj + 7) 2
    else
      let s := bkPut s (obj + 16 + 8 * k) (if brdoWide (bkNat s (obj + 6) 1) then 8 else 4) v
      let s := bkOr s bm (2 ^ (k % 8))
      let f := bkNat s (obj + 4) 2 + 1
      let s := bkPut s (obj + 4) 2 f
      if f = n then
        let w := brdoWide (bkNat s (obj + 6) 1)
        let s := bankTouch s (obj + 16) (8 * n)
        let bad := (bkBad s (obj + 16) (8 * n)).isSome
        let s := bkPut s (obj + 8) (if w then 8 else 4) (brdoSum s obj)
        brdoRelease (bkOr (if bad then poisonWord s false ((obj + 8) / 8) else s) (obj + 7) 1) obj
      else s

/-- BRDO.init (R196): readers waiting on the object arrive with ST bit 4. -/
def brdoInit (s : State) (obj n t : Nat) : State :=
  let waiting := (gangsOf s ++ s.teams.flatMap (fun t => t.savedGangs)).any (fun g => g.ops.any (fun o =>
    match o.kind with | .brdo ob _ _ _ => ob == obj && !o.done | _ => false))
  let s := bkPut (bkPut (bkPut s obj 4 n) (obj + 4) 2 0) (obj + 6) 1 t
  let s := bkPut s (obj + 7) 1 (if waiting then 16 else 0)
  let s := (List.range ((n + 63) / 64)).foldl (fun s i => bkPut s (obj + 16 + 8 * n + 8 * i) 8 0) s
  brdoRelease s obj

/-! ### Objects of instructions (R195) -/

/-- Protection of an object's address, as an access of lane 0. -/
def objTrap (reason a : Nat) : Trap :=
  ⟨causeProtection, reason, a, laneBit 0, [⟨0, BitVec.ofNat 64 a, .atomic, reason⟩]⟩

/-- The bank-memory offset of the object at generic address sE:sE+1 (R195). -/
def bankObject (s : State) (e : Nat) : Except Trap Nat :=
  let a := (readS64 s.gang e).toNat
  let p := apCtx s
  let o := a % 2 ^ 40
  match resolve p 0 a 16 0 with
  | .ok (.bank off) => if off % 16 = 0 then .ok off else .error (objTrap 0x11 a)
  | .error 0x0C => .error (objTrap (if inArea p a ∧ 2 ^ 32 ≤ o ∧ o < 2 ^ 32 + 2 ^ 26 then 0x0C else 0x11) a)
  | _ => .error (objTrap 0x11 a)

/-- Go on with an object, or trap; an operation whose first 16 bytes lie past the bound on logical time waits (R333). -/
def withObject (s : State) (e : Nat) (f : Nat → Exe) : Exe :=
  match bankObject s e with
  | .error t => .trap t s
  | .ok obj => if pastLines s (linesOf (bankLine obj) 16) then .stall 14 s else f obj

/-- The same for `n` bytes of an object. -/
def withLines (s : State) (obj n : Nat) (f : Exe) : Exe := if pastLines s (linesOf (bankLine obj) n) then .stall 14 s else f

/-- A BRDO object of `n` slots must not cross a bank boundary (R186). -/
def brdoFits (obj n : Nat) : Bool := obj / 65536 == (obj + brdoSize n - 1) / 65536

/-- A BRDO object that an instruction other than BRDO.init names: its address, and where it is well formed its bank. -/
def withBrdo (s : State) (e : Nat) (f : Nat → Exe) : Exe :=
  withObject s e (fun obj =>
    if brdoBad s obj then f obj
    else if !brdoFits obj (bkNat s obj 4) then .trap (objTrap 0x11 (readS64 s.gang e).toNat) s
    else withLines s obj (brdoSize (bkNat s obj 4)) (f obj))

/-- IllegalInstruction that an instruction meets at execution (R42 item 6, R47). -/
def illegalHere (s : State) : Exe := .trap (plainTrap s.gang causeIllegal 0 (instrAddr s.gang.arm).toNat) s

/-- The upper register of a pair that a 64-bit TYPE adds to an instruction's sources may not be read yet (R173). -/
def pairHazard (s : State) (k : Kind) (r : Nat) : Option Trap :=
  (hazardReg s.gang [⟨k, r, .x, true, false, false, false⟩]).map (fun r => plainTrap s.gang causeHazard 0 r)

/-- BRDO.add: slot sK := sV, a pair for a 64-bit TYPE (R196). -/
def brdoAddBody (v e k : Nat) (c : CtrNo) (s : State) : Exe :=
  withCtr c s (fun s => withBrdo s e (fun obj =>
    let w := !brdoBad s obj && brdoWide (bkNat s (obj + 6) 1)
    if w && (v % 2 == 1 || !allocated s.gang .scal (v + 1)) then illegalHere s
    else match (if w then pairHazard s .scal (v + 1) else none) with
    | some t => .trap t s
    | none =>
      let x := if w then (readS64 s.gang v).toNat else (readS s.gang v).toNat
      let o := startOp s c .mem [] [] true
      let s := bankTouch o.2.2 obj 16
      let k := (readS s.gang k).toNat
      .ok (pendBank c o.2.1 (brdoPutBad (brdoTouch s obj k) obj k) (brdoPut s obj k x))))

/-- The lanes whose twin's result differs raise ShadowMismatch at a vector access that writes outside the core (R419). -/
def twinTrap (g : Gang) : Option Trap :=
  let bad := (g.twinAddr ||| g.twinDiff) &&& g.arm.mask
  match laneList bad with
  | [] => none
  | l :: _ =>
    if launchProtected g then some (plainTrap g causeShadow (if g.twinAddr.getLsbD l then 1 else 2) l) else none
where
  /-- GMODE.PROT. -/
  launchProtected (g : Gang) : Bool := g.gmode.getLsbD 1

/-- ShadowMismatch, then the rest (R401, R419). -/
def withTwin (vec : Bool) (s : State) (f : State → Exe) : Exe :=
  match (if vec then twinTrap s.gang else none) with
  | some t => .trap t s
  | none => f s

/-- BRDO.addv: for each active lane l, slot sK + l := lane l of vV (R196). The slot number is read as unsigned and its sum with the lane
number is not wrapped at 2^32: DESIGN CHOICE, log entry 90. -/
def brdoAddvBody (v e k : Nat) (c : CtrNo) (s : State) : Exe :=
  withCtr c s (fun s =>
    if s.gang.arm.mask = 0 then .ok (startOp s c .mem [] [] true).2.2
    else withBrdo s e (fun obj =>
      let w := !brdoBad s obj && brdoWide (bkNat s (obj + 6) 1)
      if w && (v % 2 == 1 || !allocated s.gang .vec (v + 1)) then illegalHere s
      else match (if w then pairHazard s .vec (v + 1) else none) with
      | some t => .trap t s
      | none => withTwin true s (fun s =>
        let g := s.gang
        let o := startOp s c .mem [] [] true
        let r := (laneList g.arm.mask).foldl (fun (acc : State × Option Nat) l =>
          let k := (readS g k).toNat + l
          let bad := match acc.2 with | some a => some a | none => brdoPutBad (brdoTouch acc.1 obj k) obj k
          (brdoPut acc.1 obj k (if w then (pairOf (readV g v l) (readV g (v + 1) l)).toNat else (readV g v l).toNat), bad))
          (bankTouch o.2.2 obj 16, (none : Option Nat))
        .ok (pendBank c o.2.1 r.2 r.1))))

/-- Put a request in line for a place at its bank unit (R188). -/
def enqueueBank (s : State) (op obj : Nat) : State :=
  { s with serial := s.serial + 1,
           banks := { s.banks with waits := s.banks.waits ++ [⟨s.serial, s.gang.id, op, obj / 65536⟩] } }

/-- The registers that BRDO.rd owes (R174, R196). -/
def brdoOwed (d st : Nat) (wide : Bool) : List (Bool × Nat × Shadow) :=
  [(false, d, Shadow.top)] ++ (if wide then [(false, d + 1, Shadow.top)] else []) ++ [(false, st, (⟨0, 63⟩ : Shadow))]

/-- BRDO.rd: at once where the object is complete or malformed, else when it completes (R186, R196). An odd D against a TYPE of 1 or 3
raises IllegalInstruction though the object is malformed (R196 over R186's last line): DESIGN CHOICE, log entry 89. -/
def brdoRdBody (d e st : Nat) (c : CtrNo) (s : State) : Exe :=
  withCtr c s (fun s => withBrdo s e (fun obj =>
    let w := brdoWide (bkNat s (obj + 6) 1)
    if w && (d % 2 == 1 || !allocated s.gang .scal (d + 1)) then illegalHere s
    else if w && owedWrite s.gang [⟨.scal, d + 1, .x, false, true, false, false⟩] then .stall 0 s
    else
      let s := bankTouch s obj 16
      let owed := brdoOwed d st w
      if brdoBad s obj then
        let s := bkOr s (obj + 7) 0x20
        let o := startOp s c .mem (brdoLands d st w 0 (bkNat s (obj + 7) 1)) owed true
        .ok (pendBank c o.2.1 (bkBad s obj 8) o.2.2)
      else if bkNat s (obj + 7) 1 % 2 = 1 then
        let o := startOp s c .mem (brdoLands d st w (brdoResult s obj) (bkNat s (obj + 7) 1)) owed true
        .ok (pendBank c o.2.1 (bkBad s obj 16) o.2.2)
      else if placesUsed s (obj / 65536) < 64 then .ok (startOp s c (.brdo obj d st w) [] owed false).2.2
      else
        let r := startOp s c (.held true obj 0 d st w) [] owed false
        .ok (enqueueBank r.2.2 r.1 obj)))

/-- BARX.arr and BARX.arrtx: an arrival that announces `dp` bytes, sD := the phase joined (R197). -/
def barxArrBody (d e : Nat) (dp : Int) (c : CtrNo) (s : State) : Exe :=
  withCtr c s (fun s => withObject s e (fun obj =>
    let s := bankTouch s obj 16
    let owed := [(false, d, Shadow.top)]
    if barxRoom s obj dp then
      let ph := barxJoin s obj
      let o := startOp s c (.barx obj ph) [⟨false, d, 0, BitVec.ofNat 32 ph⟩] owed false
      .ok (pendBank c o.2.1 (bkBad s obj 16) (barxArrive o.2.2 obj dp))
    else
      let r := startOp s c (.held false obj dp d 0 false) [] owed false
      .ok (enqueueBank r.2.2 r.1 obj)))

/-- BARX.tx and BARX.done: PEND changes by `d` (R197). -/
def barxAddBody (c : CtrNo) (obj : Nat) (d : Int) (s : State) : Exe :=
  let o := startOp s c .mem [] [] true
  let s := bankTouch o.2.2 obj 16
  .ok (pendBank c o.2.1 (bkBad s obj 16) (barxAdd s obj d))

/-- A signed scalar. -/
def readI (g : Gang) (r : Nat) : Int := (readS g r).toInt

/-! ### Meanings -/

/-- BRDO.init (R196). -/
def execBrdoInit (e : Reg) (ty : BitVec 2) (n : BitVec 12) (cn : CtrNo) (s : State) : Host.Outcome State Fault Refusal :=
  issue (.brdoInit e ty n cn) false s (fun s => withCtr cn s (fun s => withObject s e.toNat (fun obj =>
    if !brdoFits obj (n.toNat + 1) then .trap (objTrap 0x11 (readS64 s.gang e.toNat).toNat) s
    else withLines s obj (brdoSize (n.toNat + 1))
      (let s := bankTouch (startOp s cn .mem [] [] true).2.2 obj 16
       .ok (brdoInit (bankTouch s (obj + 16 + 8 * (n.toNat + 1)) (8 * ((n.toNat + 64) / 64))) obj (n.toNat + 1) ty.toNat)))))

/-- BRDO.add (R196). -/
def execBrdoAdd (v e k : Reg) (cn : CtrNo) (s : State) : Host.Outcome State Fault Refusal :=
  issue (.brdoAdd v e k cn) false s (fun s => brdoAddBody v.toNat e.toNat k.toNat cn s)

/-- BRDO.addv (R196). -/
def execBrdoAddv (v e k : Reg) (cn : CtrNo) (s : State) : Host.Outcome State Fault Refusal :=
  issue (.brdoAddv v e k cn) false s (fun s => brdoAddvBody v.toNat e.toNat k.toNat cn s)

/-- BRDO.rd (R196). -/
def execBrdoRd (d e st : Reg) (cn : CtrNo) (s : State) : Host.Outcome State Fault Refusal :=
  issue (.brdoRd d e st cn) false s (fun s => brdoRdBody d.toNat e.toNat st.toNat cn s)

/-- BARX.init (R197). -/
def execBarxInit (e : Reg) (n : BitVec 16) (cn : CtrNo) (s : State) : Host.Outcome State Fault Refusal :=
  issue (.barxInit e n cn) false s (fun s => withCtr cn s (fun s => withObject s e.toNat (fun obj =>
    .ok (barxInit (bankTouch (startOp s cn .mem [] [] true).2.2 obj 16) obj n.toNat))))

/-- BARX.arr (R197). -/
def execBarxArr (d e : Reg) (cn : CtrNo) (s : State) : Host.Outcome State Fault Refusal :=
  issue (.barxArr d e cn) false s (fun s => barxArrBody d.toNat e.toNat 0 cn s)

/-- BARX.tx (R197). -/
def execBarxTx (e b : Reg) (cn : CtrNo) (s : State) : Host.Outcome State Fault Refusal :=
  issue (.barxTx e b cn) false s (fun s => withCtr cn s (fun s => withObject s e.toNat (fun obj =>
    barxAddBody cn obj (readI s.gang b.toNat) s)))

/-- BARX.done (R197). -/
def execBarxDone (e b : Reg) (cn : CtrNo) (s : State) : Host.Outcome State Fault Refusal :=
  issue (.barxDone e b cn) false s (fun s => withCtr cn s (fun s => withObject s e.toNat (fun obj =>
    barxAddBody cn obj (-(readI s.gang b.toNat)) s)))

/-- BARX.arrtx: BARX.tx, then BARX.arr, as one operation (R197). -/
def execBarxArrtx (d e b : Reg) (cn : CtrNo) (s : State) : Host.Outcome State Fault Refusal :=
  issue (.barxArrtx d e b cn) false s (fun s => barxArrBody d.toNat e.toNat (readI s.gang b.toNat) cn s)

/-- BARX.rd: PHASE and PEND, arriving at once (R197). -/
def execBarxRd (d e : Reg) (cn : CtrNo) (s : State) : Host.Outcome State Fault Refusal :=
  issue (.barxRd d e cn) false s (fun s => withCtr cn s (fun s => withObject s e.toNat (fun obj =>
    let o := startOp s cn .mem [] [] true
    let s := bankPeek o.2.2 obj 16
    let w (a : Nat) : Word := BitVec.ofNat 32 (if (bkBad s a 4).isSome then 0 else bkNat s a 4)
    .ok (arriveAtOnce ((pendBank cn o.2.1 (bkBad s obj 16) s).onGang (fun g => writeS (writeS g d.toNat (w (obj + 8)) Shadow.top) (d.toNat + 1) (w obj) Shadow.top)) cn))))

/-- The agent number of an arm of any gang (R330). -/
def armNoOf (g : Gang) (slot : Nat) : Nat := g.core * 2 ^ 20 + g.gslot * 2 + slot

/-- A request that has waited reaches its object for its arm (R184, R189, R415, R417), at a logical time after its issue (R332): none while that
time lies past the bound (R333). -/
def heldAccess (s : State) (g : Gang) (o : Op) (obj : Nat) : Option State :=
  let t := writeAfter s o.time (armNoOf g o.slot) (bankLine obj)
  if timeBound s < t then none
  else
    let s := stampWrite (objAccess s g.launch obj 16) (armNoOf g o.slot) t (bankLine obj)
    some (updateOp s g.id o.id (fun o => { o with time := t }))

/-- WAITER_PLACE_FREED (R188, R197): the waiting request `n` is performed where its bank unit has room for it. -/
def execWaiterPlaceFreed (n : Nat) (s : State) : Host.Outcome State Fault Refusal :=
  event s (fun s0 =>
    match s0.banks.waits.find? (fun w => w.id == n) with
    | none => s0
    | some w =>
      let gone (s : State) : State := { s with banks := { s.banks with waits := s.banks.waits.filter (fun x => x.id ≠ n) } }
      match findOp s0 w.gang w.op with
      | none => gone s0
      | some (g, o) =>
        match o.kind with
        | .held true obj _ d st wide =>
          (match heldAccess s0 g o obj with
          | none => s0
          | some s =>
            if bkNat s (obj + 7) 1 % 2 = 1 ∨ brdoBad s obj then
              let s := if brdoBad s obj then bkOr s (obj + 7) 0x20 else s
              let ls := brdoLands d st wide (if brdoBad s obj then 0 else brdoResult s obj) (bkNat s (obj + 7) 1)
              gone (updateOp s w.gang w.op (fun o => { o with kind := .mem, done := true, lands := ls }))
            else if placesUsed s w.unit < 64 then gone (updateOp s w.gang w.op (fun o => { o with kind := .brdo obj d st wide }))
            else s0)
        | .held false obj dp d _ _ =>
          if barxRoom s0 obj dp then
            (match heldAccess s0 g o obj with
            | none => s0
            | some s =>
              let ph := barxJoin s obj
              let ls : List RegWrite := [⟨false, d, 0, BitVec.ofNat 32 ph⟩]
              gone (barxArrive (updateOp s w.gang w.op (fun o => { o with kind := .barx obj ph, lands := ls })) obj dp))
          else s0
        | .barx .. | .brdo .. => if o.done ∨ placesUsed s0 w.unit < 64 then gone s0 else s0
        | _ => gone s0)

/-- A restored team's BARX arrivals and BRDO readers register as waiters again, each waiting for a place where its unit has none free
(R188, R197). -/
def reRegister (s : State) (g : Nat) : State :=
  match gangById s g with
  | none => s
  | some x =>
    x.ops.foldl (fun s o =>
      let again (obj : Nat) : State :=
        let w : BankWait := ⟨s.serial, g, o.id, obj / 65536⟩
        let t := { s with serial := s.serial + 1, banks := { s.banks with waits := s.banks.waits ++ [w] } }
        if placesUsed t (obj / 65536) < 64 then s else t
      match o.kind with
      | .barx obj _ => if o.done then s else again obj
      | .brdo obj _ _ _ => if o.done then s else again obj
      | _ => s) s

/-! ### Retention (R189, R199) -/

/-- Idle clocks before a unit enters retention: BKCTL.RETIDLE × 1,024, 0 acting as 1. -/
def retIdle (s : State) (d : Nat) : Nat := 1024 * Max.max 1 (mmField s (bkBlock d) 47 32)

/-- Whether a unit may enter retention now. -/
def mayRetain (s : State) (u : Nat) : Bool :=
  let d := unitDie u
  !s.banks.retained.contains u && mmField s (bkBlock d) (if u < 1024 then 0 else 1) (if u < 1024 then 0 else 1) == 1 &&
    decide (smapGet 0 s.banks.touched u + retIdle s d ≤ s.cc)

/-- RETENTION_ENTRY (R189): each line is re-encoded; single-bit errors found are corrected and counted in CE, words with more are poisoned and
counted in UE; each is logged (R409). -/
def execRetentionEntry (unit : Nat) (s : State) : Host.Outcome State Fault Refusal :=
  event s (fun s =>
    if !mayRetain s unit then s
    else
      let d := unitDie unit
      let s := (unitErrors s unit).foldl (fun s e =>
        if e.2 ≤ 1 then logError (mmAdd s (bkBlock d + 0x18) 31 0 1) (wordError unit e.1.1 e.1.2 0)
        else logError (mmAddSat (poisonWord s e.1.1 e.1.2) (bkBlock d + 0x20) 31 0) (wordError unit e.1.1 e.1.2 1)) s
      let s := { s with banks := { s.banks with
        retained := nsetInsert s.banks.retained unit
        errors := s.banks.errors.filter (fun e => unitOf e.1.1 (e.1.2 * 8) != unit) } }
      if 1024 ≤ unit then s
      else mmPutField s (bkBlock d + (if unit % 128 < 64 then 8 else 0x10)) (unit % 64) (unit % 64) 1)

/-- RETENTION_EXIT (R189): a unit in retention is active again. -/
def execRetentionExit (unit : Nat) (s : State) : Host.Outcome State Fault Refusal := event s (fun s => wakeUnit s unit)

/-- BKRET (R189, R199): with BKCTL.BKRET cleared every bank of the die wakes, and with BKCTL.SPRET cleared every scratchpad quarter of its
cores. A contained device takes no write (R412). -/
def execBkret (die : Nat) (s : State) : Host.Outcome State Fault Refusal :=
  event s (fun s =>
    if s.contained then s
    else
    let s := if mmField s (bkBlock die) 0 0 = 0 then (List.range 128).foldl (fun s b => wakeUnit s (128 * die + b)) s else s
    if mmField s (bkBlock die) 1 1 = 0 then (List.range 384).foldl (fun s q => wakeUnit s (1024 + 384 * die + q)) s else s)

end Sys2Proof.Machine
end

