-- ==== Sys2Proof/Machine/Control.lean ====
section
/-! DEFINITION. Control flow, divergence, joins, exits and team barriers (R354 to R365, R370, R372 to R374). -/

namespace Sys2Proof.Machine

/-! ### Branches (R363, R364) -/

/-- Set the executing arm's PC. -/
def setPc (s : State) (pc : DWord) : State := s.onArm (fun a => { a with pc := pc })

/-- A taken branch writes a trace record where TRCCTL.BR is set (R422). -/
def takeBranch (s : State) (pc : DWord) : State := setPc (trace s 2 (some 1)) pc

/-- The target of an offset in words from the instruction's address (R22, R31). -/
def branchTarget (s : State) (off : Int) : DWord := s.gang.arm.pc + BitVec.ofInt 64 (4 * off)

/-- A jump to a register value or LINK: Misaligned where it is no multiple of 4 (R363). -/
def jumpTo (s : State) (s' : State) (t : DWord) : Exe :=
  if t.toNat % 4 = 0 then .ok (takeBranch s' t) else .trap (plainTrap s.gang causeMisaligned 0 t.toNat) s

/-- LINK := the address after this one. -/
def setLink (s : State) : State := s.onArm (fun a => { a with link := a.pc + 4 })

/-- Refine the executing arm's shadows of two comparands under a condition (R238, R239); B only where it is a register. -/
def refine (k : Kind) (c : Cond) (a : Nat) (b : Option Nat) (bSh : Shadow) (g : Gang) : Gang :=
  let n := shNarrow c (shadowOf g k a) bSh
  let g := setShadow g k a n.1
  match b with
  | none => g
  | some r => setShadow g k r (if r = a then (shNarrow c n.1 n.1).2 else n.2)

/-- The immediate comparand of BC, LOOP and VB, 7 bits signed (R364). -/
def immB (b : Reg) : Word := b.signExtend 32

/-- A scalar compare-and-branch (R364): to the target or to the next instruction, with the refinement of the side taken. -/
def compareBranch (c : Cond) (bi : Bool) (a b : Reg) (off : BitVec 20) (s : State) : State :=
  let g := s.gang
  let x := readS g a.toNat
  let y := if bi then immB b else readS g b.toNat
  let bSh := if bi then shExact (immB b) else shadowS g b.toNat
  let hold := condHolds c x y
  let s := s.onGang (refine .scal (if hold then c else condNot c) a.toNat (if bi then none else some b.toNat) bSh)
  if hold then takeBranch s (branchTarget s off.toInt) else setPc s (s.gang.arm.pc + 8)

/-! ### Divergence (R355, R356, R360, R365) -/

/-- Entries that both stack parts hold. -/
def stackTotal (g : Gang) : Nat := (armsOf g).foldl (fun n a => n + stackUsed a) 0

/-- Push an entry (R356): merged into a top entry of the same VB with S = 0; otherwise added, the oldest on-chip one of four
going to memory. -/
def pushEntry (s : State) (e : StackEntry) (vbOk : Bool) : Except (Trap × State) State :=
  let a := s.gang.arm
  let merge : Option (List StackEntry) := match a.stack with
    | t :: rest => if t.vbw = e.vbw ∧ t.jn = e.jn ∧ !t.parked then some ({ t with mask := t.mask ||| e.mask } :: rest) else none
    | [] => none
  if !vbOk then .error (plainTrap s.gang causeStack 2 0, s)
  else
    match merge with
    | some st => .ok (s.onArm (fun a => { a with stack := st }))
    | none =>
      if dsDepth (apCtx s) ≤ stackTotal s.gang then .error (plainTrap s.gang causeStack 1 0, s)
      else if a.stack.length < 4 then .ok (s.onArm (fun a => { a with stack := e :: a.stack }))
      else
        match a.stack.getLast? with
        | none => .ok s
        | some old =>
          match storeEntry s a.spilled old with
          | .error t => .error t
          | .ok s => .ok (s.onArm (fun a => { a with stack := e :: a.stack.take 3, spilled := a.spilled + 1 }))

/-- The lanes of a VB that take the branch (R365). -/
def takers (g : Gang) (c : Cond) (bi : Bool) (a b : Reg) : List Nat :=
  (laneList g.arm.mask).filter (fun l => condHolds c (readV g a.toNat l) (if bi then immB b else readV g b.toNat l))

/-- Refine vector comparands on one side of a VB. -/
def refineV (c : Cond) (bi : Bool) (a b : Reg) (g : Gang) : Gang :=
  refine .vec c a.toNat (if bi then none else some b.toNat) (if bi then shExact (immB b) else shadowV g b.toNat) g

/-- Split the gang (R355): the lanes of `t` go to the free slot at the target; each arm's shadows are refined. -/
def splitGang (s : State) (t : LaneMask) (target join : DWord) (c : Cond) (bi : Bool) (a b : Reg) : State :=
  let g := s.gang
  let taken := (refineV c bi a b g).arm
  let rest := (refineV (condNot c) bi a b g).arm
  let s := s.onGang (fun g =>
    { g with
      arm := { rest with members := rest.members &&& ~~~t, mask := rest.mask &&& ~~~t, pc := g.arm.pc + 8 }
      partner := some { taken with slot := 1 - g.arm.slot, members := t, mask := t, pc := target, barWaits := [],
                                   stepOne := false, stall := .none }
      gj := some join })
  trace s 3 (some 1)

/-- VB (R365). -/
def vbBody (c : Cond) (bi : Bool) (a b : Reg) (off : BitVec 20) (jn : BitVec 12) (s : State) : Exe :=
  let g := s.gang
  let t := lanesMask (takers g c bi a b)
  let n := g.arm.mask &&& ~~~t
  let target := branchTarget s off.toInt
  if g.arm.mask = 0 then .ok (setPc s (g.arm.pc + 8))
  else if t = 0 then .ok (setPc (s.onGang (refineV (condNot c) bi a b)) (g.arm.pc + 8))
  else if n = 0 then .ok (takeBranch (s.onGang (refineV c bi a b)) target)
  else if g.partner.isNone ∧ stackUsed g.arm = 0 then
    .ok (splitGang s t target (g.arm.pc + BitVec.ofNat 64 (4 * jn.toNat)) c bi a b)
  else
    let d := g.arm.pc - g.entry
    match pushEntry s ⟨n, false, jn, BitVec.ofNat 19 (d.toNat / 4)⟩ (decide (d.toNat < 2097152)) with
    | .error (tr, s) => .trap tr s
    | .ok s' =>
      boundedExe s (.ok
        (takeBranch ((s'.onArm (fun a => { a with members := a.members &&& ~~~n, mask := t })).onGang (refineV c bi a b)) target))

/-- Exchange the arms of a split gang. -/
def swapArms (s : State) : State :=
  match s.gang.partner with
  | some p => s.onGang (fun g => { g with arm := p, partner := some g.arm })
  | none => s

/-- The boundary of a gang whose other arm stands at a new instruction too. -/
def boundaryOther (s : State) : State :=
  if s.live ∧ s.gang.partner.isSome then
    let s' := boundary (swapArms s)
    if s'.live ∧ s'.gang.id = s.gang.id then swapArms s' else s'
  else s

/-! ### Team barriers (R372, R373) -/

/-- The arrivals that the gang at hand has recorded at barrier `n`. -/
def barArr (g : Gang) (n : Nat) : BarArr := (g.bars.find? (fun b => b.n == n)).getD ⟨n, [], 0⟩

/-- Put a gang's arrival state for a barrier; an empty one is not listed. -/
def putBarArr (g : Gang) (b : BarArr) : Gang :=
  let rest := g.bars.filter (fun x => x.n ≠ b.n)
  { g with bars := if b.slots.isEmpty then rest else rest ++ [b] }

/-- The object of the gang's team barrier `n`. -/
def gangBarObj (s : State) (n : Nat) : Nat :=
  match teamById s s.gang.team with
  | some t => teamBarObj t n
  | none => 0

/-- Record in an arm the phase that its gang has joined at barrier `n`. -/
def joinPhase (n ph : Nat) (a : Arm) : Arm :=
  { a with barWaits := a.barWaits.map (fun w => if w.1 = n ∧ w.2.2.isNone then (n, w.2.1, some ph) else w) }

/-- When every live arm's arrival at barrier `n` is recorded, the gang arrives in one bank operation, where the object has room
(R197, R372), at a logical time after both arms' accesses (R332): none while that time lies past the bound (R333). -/
def gangArrive (s : State) (n : Nat) : State :=
  let b := barArr s.gang n
  let obj := gangBarObj s n
  let t := writeAfter s (gangTime s.gang) (armNo s) (bankLine obj)
  if !b.slots.isEmpty && (armsOf s.gang).all (fun a => b.slots.contains a.slot) && barxRoom s obj b.bytes &&
      decide (t ≤ timeBound s) then
    let ph := barxJoin s obj
    let s := s.onGang (fun g => onArms (putBarArr g ⟨n, [], 0⟩) (joinPhase n ph))
    let s := raiseTime (stampWrite (objAccess s s.gang.launch obj 16) (armNo s) t (bankLine obj)) (armNo s) t
    barxArrive s obj b.bytes
  else s

/-- An arm has ended: the arrivals that wait for it are made (R359, R372). -/
def gangArriveAll (s : State) : State := (List.range 16).foldl gangArrive s

/-- BAR and BAR.TX (R372): record the arrival once, then wait for the phase joined; the arm that resumes comes after what completed it. -/
def barBody (n : Nat) (bytes : Int) (s : State) : Exe :=
  let h := inHandler s.gang.arm
  let mine (a : Arm) := a.barWaits.find? (fun w => w.1 == n && w.2.1 == h)
  let s1 :=
    if (mine s.gang.arm).isSome then gangArrive s n
    else
      let b := barArr s.gang n
      let s := s.onGang (fun g => putBarArr g ⟨n, g.arm.slot :: b.slots, b.bytes + bytes⟩)
      gangArrive (s.onArm (fun a => { a with barWaits := (n, h, none) :: a.barWaits })) n
  let drop (s : State) : State := s.onArm (fun a => { a with barWaits := a.barWaits.filter (fun w => !(w.1 == n && w.2.1 == h)) })
  let hold : Exe := .stall 2 (s1.onArm (fun a => { a with stall := match a.stall with
    | .bar m t => if m = n then .bar m t else .bar n s.cc
    | _ => .bar n s.cc }))
  match mine s1.gang.arm with
  | some (_, _, some ph) => if phasePassed s1 (gangBarObj s1 n) ph then .ok (drop (raiseTime s1 (armNo s1) (objTime s1 (gangBarObj s1 n)))) else hold
  | _ => hold

/-! ### EXIT (R359) -/

/-- EXIT's outcome for the executing arm: `true` where the arm goes on. -/
def exitArm (s : State) : Except (Trap × State) (Bool × State) :=
  let g := s.gang
  match g.arm.stack with
  | e :: rest =>
    if !e.parked then
      .ok (true, s.onArm (fun a => topVectors g.nv
        { a with members := e.mask, mask := e.mask, pc := entryFall g e, stack := { e with mask := 0, parked := true } :: rest }))
    else
      match refill (s.onArm (fun a => { a with stack := rest })) with
      | .error (t, s') => .error (t, s'.onArm (fun a => { a with stack := e :: rest }))
      | .ok s => .ok (true, s.onArm (fun a => topVectors g.nv { a with members := e.mask, mask := e.mask, pc := entryJoin g e }))
  | [] =>
    match g.partner with
    | some p =>
      -- Its slot is free: what it had recorded at team barriers stands without it (R359, R372).
      let left (b : BarArr) : BarArr := { b with slots := b.slots.filter (fun k => k ≠ g.arm.slot) }
      .ok (false, lowerSlot (s.onGang (fun g =>
        { g with arm := { p with parked := false }, partner := none, gj := none, bars := g.bars.map left,
                 images := g.images.filter (fun i => i.slot ≠ g.arm.slot) })))
    | none => .ok (false, s.onGang (fun g => { g with exited := true, arm := { g.arm with members := 0, mask := 0 } }))

/-! ### Meanings -/

/-- NOP (R374). -/
def execNop (s : State) : Host.Outcome State Fault Refusal := issue .nop false s (fun s => .ok s)

/-- EXIT (R359, R374). -/
def execExit (s : State) : Host.Outcome State Fault Refusal :=
  if !s.live then .next s
  else .next (match preIssue s .exit false with
    | .ok s1 =>
      match exitArm (retire s1) with
      | .error (t, s') => stepDone (trapEntry s' t s.gang.arm.pc)
      | .ok (true, s2) => if newlyPast s1 s2 then settle s (.stall 14 s1) (fun s => s) else afterIssue s2
      | .ok (false, s2) => if s2.gang.exited then s2 else gangArriveAll s2
    | x => settle s x (fun s => s))

/-- B (R363). -/
def execB (off : BitVec 22) (s : State) : Host.Outcome State Fault Refusal :=
  issueJump (.b off) false s (fun s => .ok (takeBranch s (branchTarget s off.toInt)))

/-- CALL (R363). -/
def execCall (off : BitVec 22) (s : State) : Host.Outcome State Fault Refusal :=
  issueJump (.call off) false s (fun s => .ok (takeBranch (setLink s) (branchTarget s off.toInt)))

/-- JR (R363). -/
def execJr (e : SReg) (s : State) : Host.Outcome State Fault Refusal :=
  issueJump (.jr e) false s (fun s => jumpTo s s (readS64 s.gang e.toNat))

/-- JR.l (R363). -/
def execJrL (e : SReg) (s : State) : Host.Outcome State Fault Refusal :=
  issueJump (.jrL e) false s (fun s => jumpTo s (setLink s) (readS64 s.gang e.toNat))

/-- RET (R363). -/
def execRet (s : State) : Host.Outcome State Fault Refusal :=
  issueJump .ret false s (fun s => jumpTo s s s.gang.arm.link)

/-- JOIN (R363): to the current join, and on where the arm has none. -/
def execJoin (s : State) : Host.Outcome State Fault Refusal :=
  issueJump .join false s (fun s => match currentJoin s.gang with
    | some j => .ok (takeBranch s j)
    | none => .ok (setPc s (s.gang.arm.pc + 4)))

/-- BC (R364). -/
def execBc (c : Cond) (bi : Bool) (a b : Reg) (off : BitVec 20) (s : State) : Host.Outcome State Fault Refusal :=
  issueJump (.bc c bi a b off) false s (fun s => .ok (compareBranch c bi a b off s))

/-- LOOP (R364): sA := sA + 1, then as BC. -/
def execLoop (c : Cond) (bi : Bool) (a b : Reg) (off : BitVec 20) (s : State) : Host.Outcome State Fault Refusal :=
  issueJump (.loop c bi a b off) false s (fun s =>
    .ok (compareBranch c bi a b off (s.onGang (fun g =>
      writeS g a.toNat (readS g a.toNat + 1) (shAdd false (shadowS g a.toNat) ⟨1, 1⟩)))))

/-- VB (R365); after a split the new arm may stand at its join too. -/
def execVb (c : Cond) (bi : Bool) (a b : Reg) (off : BitVec 20) (jn : BitVec 12) (s : State) : Host.Outcome State Fault Refusal :=
  if !s.live then .next s
  else .next (settle s ((preIssue s (.vb c bi a b off jn) false).bind (vbBody c bi a b off jn)) (fun s' =>
    let s' := retire s'
    boundaryOther (afterIssue s')))

/-- BAR (R372). -/
def execBar (n : BitVec 4) (s : State) : Host.Outcome State Fault Refusal :=
  issue (.bar n) false s (fun s => barBody n.toNat 0 s)

/-- BAR.TX with a byte count (R372). -/
def execBarTx (n : BitVec 4) (k : BitVec 16) (s : State) : Host.Outcome State Fault Refusal :=
  issue (.barTx n k) false s (fun s => barBody n.toNat k.toNat s)

/-- BAR.TX with sK (R372). -/
def execBarTxReg (n : BitVec 4) (r : SReg) (s : State) : Host.Outcome State Fault Refusal :=
  issue (.barTxReg n r) false s (fun s => barBody n.toNat (readI s.gang r.toNat) s)

/-- BARWD.LIMIT of the gang at hand, in clocks (R373, R378). -/
def watchdog (s : State) : Nat :=
  match teamById s s.gang.team with
  | some t => t.barwd * 1024
  | none => 0

/-- A counter is owed by a BARX.arr (R175). -/
def owedByBarx (g : Gang) (c : Nat) : Bool :=
  g.ops.any (fun o => o.ctr == c && (match o.kind with | .barx _ _ => true | .held false _ _ _ _ _ => true | _ => false))

/-- BARRIER_TIMEOUT (R373): an arm that has waited past the watchdog's limit at a team barrier, or in a WAIT on a counter owed
by a BARX.arr, takes BarrierTimeout; a phase that has completed releases it instead. -/
def execBarrierTimeout (g slot : Nat) (s : State) : Host.Outcome State Fault Refusal :=
  event s (fun s0 =>
    let s := focusOn s0 g slot
    let lim := watchdog s
    if s.live ∧ s.gang.id = g ∧ s.gang.arm.slot = slot ∧ lim ≠ 0 then
      match s.gang.arm.stall with
      | .bar n t =>
        let done := s.gang.arm.barWaits.any (fun w => w.1 == n && (match w.2.2 with
          | some ph => phasePassed s (gangBarObj s n) ph
          | none => false))
        if t + lim ≤ s.cc ∧ !done then trapEntry s (plainTrap s.gang causeBarrier 1 n) s.gang.arm.pc else s
      | .wait c k t =>
        if t + lim ≤ s.cc ∧ owedByBarx s.gang c ∧ !reached (readC s.gang c) (BitVec.ofNat 16 k) then
          trapEntry s (plainTrap s.gang causeBarrier 2 c) s.gang.arm.pc
        else s
      | _ => s
    else s)

end Sys2Proof.Machine
end

