-- ==== Sys2Proof/Machine/MxArith.lean ====
section
/-! DEFINITION. The sums of the near-memory matrix-vector rows and of the matrix engines (R226, R262, R263, R303, R307 to
R310). -/

namespace Sys2Proof.Machine

/-- One rounding of an accumulator and products (R308, R310): a NaN result is the canonical one; invalid comes of a signalling
NaN, 0 × ∞ and infinities of opposite sign. -/
def kStep (f : Fmt) (acc : FVal) (ps : List (FVal × FVal)) : Nat × Flags :=
  let nan := isNaN acc || ps.any (fun p => isNaN p.1 || isNaN p.2)
  let snan := isSNaN acc || ps.any (fun p => isSNaN p.1 || isSNaN p.2)
  let d := (ps.filter (fun p => !(isNaN p.1 || isNaN p.2))).foldl (fun d p => dotAddMul d p.1 p.2) (dotAddVal DotAcc.empty acc)
  if nan then (canonNaN f, if snan || d.invalid || (d.posInf && d.negInf) then flagNV else 0) else dotRound FCtl.plain f d

/-- A chain: one fused rounding for each k (R308). -/
def chain (f : Fmt) (acc : Nat) (ps : List (Nat × Nat)) : Nat × Flags :=
  ps.foldl (fun r p =>
    let x := kStep f (fpDecode f r.1) [(fpDecode f p.1, fpDecode f p.2)]
    (x.1, r.2 ||| x.2)) (acc, 0)

/-- An exact K-step into an FP32 accumulator (R308). -/
def exactStep (fa fb : Fmt) (acc : Nat) (ps : List (Nat × Nat)) : Nat × Flags :=
  kStep .f32 (fpDecode .f32 acc) (ps.map (fun p => (fpDecode fa p.1, fpDecode fb p.2)))

/-- Σ over pairs of their products. -/
def dotInt (ps : List (Int × Int)) : Int := ps.foldl (fun n p => n + p.1 * p.2) 0

/-- Σ q × a − Z × Σ a, from pairs (q, a) (R226, R309). -/
def groupDot (z : Int) (ps : List (Int × Int)) : Int := dotInt ps - z * ps.foldl (fun n p => n + p.2) 0

/-- RoundF32(part × H) (R309): a part of 0 is +0, so the sign of a zero is H's. -/
def scalePart (part : Int) (h : Nat) : Nat × Flags :=
  let r := scaleMul FCtl.plain part h
  if isNaN (fpDecode .f32 r.1) then (canonNaN .f32, r.2) else r

/-- A fold: acc := RoundF32(acc + RoundF32(part × H)) (R309). -/
def foldPart (acc : Nat) (part : Int) (h : Nat) : Nat × Flags :=
  let x := scalePart part h
  let v := fpDecode .f32 x.1
  let a := fpDecode .f32 acc
  if isNaN a ∨ isNaN v then (canonNaN .f32, x.2 ||| (if isSNaN a then flagNV else 0))
  else
    let r := dotRound FCtl.plain .f32 (dotAddVal (dotAddVal DotAcc.empty a) v)
    (r.1, x.2 ||| r.2)

/-- RoundF32(acc × sa), canonical where it is a NaN (R226). -/
def scaleRow (acc sa : Nat) : Nat :=
  let r := (fpMulV FCtl.plain .f32 (fpDecode .f32 acc) (fpDecode .f32 sa)).1
  if isNaN (fpDecode .f32 r) then canonNaN .f32 else r

/-- Element code `k` of a record's or a column's bytes: 4-bit elements stand two to a byte, the even one low (R260, R306); a
signed code is sign-extended. -/
def codeAt (bits : Nat) (sg : Bool) (byte : Nat → Nat) (k : Nat) : Int :=
  let u := if bits = 4 then byte (k / 2) / 2 ^ (4 * (k % 2)) % 16 else byte k % 256
  if sg && decide (2 ^ (bits - 1) ≤ u) then (u : Int) - 2 ^ bits else u

/-- A list's byte, as a number. -/
def byteAt (bs : List Byte) (k : Nat) : Nat := (bs.getD k 0).toNat

/-- A little-endian element of `n` bytes at byte `o`. -/
def elemAt (bs : List Byte) (o n : Nat) : Nat := leNat ((bs.drop o).take n)

/-! ### Rows of an MVN (R224, R226) -/

/-- The element format of an MVN's float formats. -/
def mvnFmt : Nat → Fmt
  | 0 => .bf16
  | 1 => .e4m3
  | _ => .e5m2

/-- The record type of an MVN's group formats. -/
def mvnTy : Nat → Ty
  | 3 => .q4g32
  | 4 => .q4g64
  | 5 => .q4g128
  | 6 => .q8g32
  | 7 => .q8g64
  | _ => .q8g128

/-- An MVN format is a group format. -/
def mvnGroup (fmt : Nat) : Bool := decide (3 ≤ fmt)

/-- G: the group length of an MVN format; 32 for the float formats. -/
def mvnG (fmt : Nat) : Nat := if mvnGroup fmt then 32 * 2 ^ (fmt % 3) else 32

/-- Bytes of a record of an MVN format. -/
def mvnRec (fmt : Nat) : Nat := 4 + mvnG fmt * recBits (mvnTy fmt) / 8

/-- Bytes of an element of A. -/
def mvnEs (fmt : Nat) : Nat := if fmt = 0 then 2 else 1

/-- RB: the bytes of a row of B. -/
def mvnRb (fmt k : Nat) : Nat := if mvnGroup fmt then k / mvnG fmt * mvnRec fmt else k * mvnEs fmt

/-- A row in a float format (R226). -/
def floatRow (fmt k : Nat) (row a : List Byte) : Nat :=
  let es := mvnEs fmt
  let f := mvnFmt fmt
  (List.range (k / 32)).foldl (fun acc s =>
    (exactStep f f acc ((List.range 32).map (fun i => (elemAt row ((32 * s + i) * es) es, elemAt a ((32 * s + i) * es) es)))).1) 0

/-- The records of a row. -/
def rowRecs (fmt k : Nat) (row : List Byte) : List (List Byte) :=
  (List.range (k / mvnG fmt)).map (fun g => (row.drop (g * mvnRec fmt)).take (mvnRec fmt))

/-- A row holds a malformed record (R263). A record whose header a poisoned sector takes, as `lost` says of each byte of the row, is not
used (R226). -/
def rowBad (fmt k : Nat) (row : List Byte) (lost : Nat → Bool) : Bool :=
  mvnGroup fmt && ((rowRecs fmt k row).zip (List.range (k / mvnG fmt))).any (fun r =>
    recBad (mvnTy fmt) (elemAt r.1 0 4) && !(List.range 4).any (fun i => lost (r.2 * mvnRec fmt + i)))

/-- The alignment of B's rows: a record's (R261), or an element's own size. -/
def mvnAlign (fmt : Nat) : Nat := if mvnGroup fmt then 4 else if fmt = 0 then 2 else 1

/-- A row in a group format (R226). -/
def groupRow (fmt k sa : Nat) (row a : List Byte) : Nat :=
  let g := mvnG fmt
  let t := mvnTy fmt
  let rs := rowRecs fmt k row
  let acc := (rs.zip (List.range rs.length)).foldl (fun acc r =>
    let hdr := elemAt r.1 0 4
    let ps := (List.range g).map (fun i =>
      (codeAt (recBits t) (recSg hdr) (fun b => byteAt r.1 (4 + b)) i, codeAt 8 true (fun b => byteAt a (r.2 * g + b)) i))
    (foldPart acc (groupDot (recZ hdr) ps) (hdr % 2 ^ 16)).1) 0
  scaleRow acc sa

/-- y[n] of a row without a malformed record. -/
def mvnRow (fmt k sa : Nat) (row a : List Byte) : Nat :=
  if mvnGroup fmt then groupRow fmt k sa row a else floatRow fmt k row a

end Sys2Proof.Machine
end

