-- ==== Sys2Proof/Machine/Memory.lean ====
section
/-! DEFINITION. Memory instructions: loads, stores, prefetches, atomics, shadow spills and descriptor moves (R182, R190 to
R193, R243 to R247, R250, R253, R419). -/

namespace Sys2Proof.Machine

/-! ### Indices and the bounds decision -/

/-- The lanes of an access: the active lanes, or lane 0 of a scalar form (R190, R244). -/
def accLanes (g : Gang) (md : Md) : List Nat :=
  match md with
  | .vv | .vs => laneList g.arm.mask
  | .ss => [0]

/-- The exact index of a lane (R190). -/
def accIndex (g : Gang) (md : Md) (ix : Nat) (disp : Int) (l : Nat) : Int :=
  match md with
  | .vv => (readV g ix l).toInt + disp
  | .vs => (readS g ix).toInt + l + disp
  | .ss => (readS g ix).toInt + disp

/-- The index interval J of an access (R244); W is the declared width. -/
def accInterval (g : Gang) (md : Md) (ix : Nat) (disp : Int) : Shadow :=
  match md with
  | .vv => let h := shadowV g ix; ⟨h.lo + disp, h.hi + disp⟩
  | .vs => let h := shadowS g ix; ⟨h.lo + disp, h.hi + disp + g.declared - 1⟩
  | .ss => let h := shadowS g ix; ⟨h.lo + disp, h.hi + disp⟩

/-- A form with vector data. -/
def mdVec (md : Md) : Bool := md != .ss

/-- Discharge (R243): whether J shows every index in range. -/
def discharged (a : BitVec 128) (j : Shadow) : Bool :=
  decide (1 ≤ descExtent a) && decide (0 ≤ j.lo) && decide (j.hi ≤ (descExtent a : Int) - 1)

/-- An index in range. -/
def inExtent (a : BitVec 128) (i : Int) : Bool := decide (0 ≤ i) && decide (i ≤ (descExtent a : Int) - 1)

/-- The element of the lowest lane of a list, the first of that lane. -/
def lowestLane (bad : List (Nat × Int)) : Nat × Int :=
  bad.tail.foldl (fun b e => if e.1 < b.1 then e else b) (bad.headD (0, 0))

/-- BoundsTrap of the lanes out of range (R243, R247): FADDR is the index of the lowest one. -/
def boundsTrap (bad : List (Nat × Int)) : Trap :=
  let i := (lowestLane bad).2
  ⟨causeBounds, if i < 0 then 1 else 2, sext64 i, lanesMask (bad.map (fun e => e.1)), []⟩

/-- The lanes that pass the bounds decision (R243). -/
def okLanes (a : BitVec 128) (j : Shadow) (ix : List (Nat × Int)) : List (Nat × Int) :=
  if discharged a j then ix else ix.filter (fun e => inExtent a e.2)

/-- The lanes that it masks or traps. -/
def missLanes (a : BitVec 128) (j : Shadow) (ix : List (Nat × Int)) : List (Nat × Int) :=
  if discharged a j then [] else ix.filter (fun e => !inExtent a e.2)

/-- Set the BMISS bits of masked lanes (R243, R246). -/
def setMiss (miss : List (Nat × Int)) (g : Gang) : Gang := { g with bmiss := g.bmiss ||| lanesMask (miss.map (fun e => e.1)) }

/-! ### The common steps -/

/-- An element size that the instruction does not accept (R190, R194). -/
def sizeTrap (kind : AccKindF) (s : State) : Exe := .trap (armTrap s.gang causeProtection 0x10 0 kind) s

/-- The data registers of an access that its descriptor's element size adds: `n` from D + 1 on. -/
def extraUses (md : Md) (d n : Nat) (rd wr : Bool) : List Use :=
  (List.range n).map (fun i => ⟨if mdVec md then .vec else .scal, d + 1 + i, .x, rd, wr, false, false⟩)

/-- Legality, hazards and owed destinations of the added registers (R173, R190, R192, R231). -/
def withExtra (s : State) (us : List Use) (aligned : Bool) (f : Exe) : Exe :=
  if !aligned || !us.all (useOk s.gang) then illegalHere s
  else match hazardReg s.gang us with
    | some r => .trap (plainTrap s.gang causeHazard 0 r) s
    | none => if owedWrite s.gang us then .stall 0 s else f

/-- The lines that a checked element touches, by their home or by the key of the scratchpad's (R329). -/
def elemLines (s : State) (c : Checked) : List Nat :=
  match c.target with
  | .glob _ => c.pieces.map (fun q => portRoute s q.x.pa)
  | .scratch off => linesOf (scrLine (scrKey s.gang.core ((apCtx s).scrBase + off))) c.el.n
  | .bank off => linesOf (bankLine off) c.el.n

/-- Walks have taken the walkers of the arm's die past the bound (R333), `s` before them and `t` after them. -/
def walkersPast (s t : State) : Bool :=
  let ag := walkerNo (s.gang.core / 96)
  decide (agentTime s ag < agentTime t ag) && decide (timeBound s < agentTime t ag)

/-- The walks of an access would take the die's walkers past the bound. -/
def walksPast (s : State) (cs : List Checked) (write : Bool) : Bool :=
  walkersPast s (commitXlat s (armAgent s) (if write then .write else .read) cs)

/-- An access would pass the bound on logical time (R333): it waits until TIME catches up. The lanes of one instruction share a line's time,
so each line is asked once. -/
def pastBound (s : State) (cs : List Checked) (write : Bool) : Bool :=
  decide (timeBound s < s.gang.arm.ltime) || walksPast s cs write ||
    cs.any (fun c => (elemLines s c).any (fun k =>
      decide (timeBound s < (if write then writeTime s (armNo s) k else readTime s (armNo s) k))))

/-- The elements of an access pass the checks of R104 steps 2 to 4, ShadowMismatch (R419) and the bound of R333; then the
translations are committed and the access performed. -/
def withAccess (s : State) (a : BitVec 128) (align : Nat) (kind : AccKindF) (twin : Bool) (els : List Elem)
    (f : List Checked → State → Exe) : Exe :=
  let x := armAgent s
  match checkAccess s x (apCtx s) (descOvr a) align kind els with
  | .error t => .trap t (faultMarks s x (apCtx s) (descOvr a) align kind els)
  | .ok cs =>
    withTwin twin s (fun s =>
      if pastBound s cs (kind != .read) then .stall 14 s
      else
        let s := commitXlat s x kind cs
        f cs (noteWatch s (els.map (fun e => (e.addr, e.n))) kind))

/-- The footprint of a descriptor's access is global (R176, R181): what its first byte names; a footprint never depends on lane values. -/
def footprintGlobal (p : ApCtx) (ovr : Nat) (f : Footprint) : Bool :=
  f.lines != 0 && (ovr == 1 || (ovr == 0 && canonical f.first && !inArea p f.first))

/-- The aperture area that a footprint's lines must not enter: none under the global override. -/
def footprintArea (p : ApCtx) (ovr : Nat) : Option Nat := if ovr = 1 then none else some p.apVa

/-- What a footprint does at issue of a load or prefetch, whose operation is the next to take an identifier (R182): up to 32 lines are
reserved, unless the L1 is bypassed; a larger one becomes a hint to the copy engines. -/
def footprintLoad (s : State) (ovr : Nat) (reserve : Bool) (hn : Hint) (pf : Bool) (f : Footprint) : State :=
  let p := apCtx s
  if !footprintGlobal p ovr f then s
  else if reserve ∧ f.lines ≤ 32 then reserveLines s s.serial hn pf (footprintArea p ovr) f
  else postHint s (footprintArea p ovr) f

/-- What a footprint does at issue (R181, R182): heat for every vector access; for loads a reservation or a hint. -/
def footprintEffects (s : State) (vec : Bool) (load : Option (Nat × Bool × Hint)) (f : Footprint) (cs : List Checked) : State :=
  let s := creditAccess s vec f cs
  match load with
  | some (ovr, reserve, hn) => if vec then footprintLoad s ovr reserve hn false f else s
  | none => s

/-- Read every checked element in lane order: lane, bytes, and the place of its poison. -/
def readAll (s : State) (cs : List Checked) (mode : L1Mode) : List (Nat × List Byte × Option (Nat × Nat)) × State :=
  cs.foldl (fun (acc : List (Nat × List Byte × Option (Nat × Nat)) × State) c =>
    let r := readChecked acc.2 c mode
    (acc.1 ++ [(c.el.lane, r.1, r.2.1)], r.2.2)) (([], s) : List (Nat × List Byte × Option (Nat × Nat)) × State)

/-- The register writes of one lane: its register, or a pair (R190). -/
def laneWrites (vec : Bool) (d l : Nat) (wide : Bool) (x : DWord) : List RegWrite :=
  ⟨vec, d, l, loWord x⟩ :: (if wide then [⟨vec, d + 1, l, hiWord x⟩] else [])

/-- The registers that a load owes (R174). -/
def owedData (vec : Bool) (d : Nat) (wide : Bool) (i : Shadow) : List (Bool × Nat × Shadow) :=
  (vec, d, if wide then Shadow.top else i) :: (if wide then [(vec, d + 1, Shadow.top)] else [])

/-- Leave Poison on the counter for the first poisoned element (R190, R414). -/
def pendPoison (s : State) (c : CtrNo) (t : BitVec 16) (reason : Nat) (p : Option (Nat × Nat)) : State :=
  match p with
  | some (va, pa) => s.onGang (fun g => addPend g ⟨c.toNat, t.toNat, causePoison, reason, BitVec.ofNat 64 va, pa, 0⟩)
  | none => s

/-- An instruction that does nothing but arrive: a vector form under a zero mask (R190). -/
def arriveOnly (c : CtrNo) (s : State) : Exe := .ok (startOp s c .mem [] [] true).2.2

/-- The low `n` bytes of a data register, or of a pair. -/
def dataBytes (g : Gang) (md : Md) (d l n : Nat) : List Byte :=
  leBytes n (match md with
    | .ss => if n = 8 then (readS64 g d).toNat else (readS g d).toNat
    | _ => if n = 8 then (pairOf (readV g d l) (readV g (d + 1) l)).toNat else (readV g d l).toNat)

/-! ### Loads, stores and prefetches (R190) -/

/-- LD and LDG. -/
def loadBody (g_ : Bool) (sx : Bool) (hn : Hint) (md : Md) (d : Nat) (ad : DescNo) (ix : Nat) (disp : Int) (c : CtrNo)
    (s : State) : Exe :=
  withDesc ad s (fun s => withCtr c s (fun s =>
    if mdVec md && s.gang.arm.mask == 0 then arriveOnly c s
    else
      let g := s.gang
      let a := readA g ad.toNat
      let es := descBytes a
      if es = 0 then sizeTrap .read s
      else withExtra s (if es = 8 then extraUses md d 1 false true else []) (es != 8 || d % 2 == 0)
        (let idx := (accLanes g md).map (fun l => (l, accIndex g md ix disp l))
         let j := accInterval g md ix disp
         let ok := okLanes a j idx
         let miss := missLanes a j idx
         if descTrap a && !miss.isEmpty then .trap (boundsTrap miss) s
         else withAccess s a es .read false (ok.map (fun e => ⟨e.1, elemAddr a e.2, es⟩)) (fun cs s =>
           let s := footprintEffects (s.onGang (setMiss miss)) (mdVec md) (some (descOvr a, !g_, hn)) (footprintOf a j) cs
           let r := readAll s cs (if g_ then .bypass else .cached hn)
           let ws := r.1.flatMap (fun e =>
             laneWrites (mdVec md) d e.1 (es == 8) (if e.2.2.isSome then 0 else extendBytes sx e.2.1))
           let zs := miss.flatMap (fun e => laneWrites (mdVec md) d e.1 (es == 8) 0)
           let o := startOp r.2 c .mem (ws ++ zs) (owedData (mdVec md) d (es == 8) (loadInterval es sx)) true
           .ok (pendPoison o.2.2 c o.2.1 1 (r.1.findSome? (fun e => e.2.2)))))))

/-- ST and STG. -/
def storeBody (g_ : Bool) (hn : Hint) (md : Md) (d : Nat) (ad : DescNo) (ix : Nat) (disp : Int) (c : CtrNo) (s : State) : Exe :=
  withDesc ad s (fun s => withCtr c s (fun s =>
    if mdVec md && s.gang.arm.mask == 0 then arriveOnly c s
    else
      let g := s.gang
      let a := readA g ad.toNat
      let es := descBytes a
      if es = 0 then sizeTrap .write s
      else withExtra s (if es = 8 then extraUses md d 1 true false else []) (es != 8 || d % 2 == 0)
        (let idx := (accLanes g md).map (fun l => (l, accIndex g md ix disp l))
         let j := accInterval g md ix disp
         let ok := okLanes a j idx
         let miss := missLanes a j idx
         if descTrap a && !miss.isEmpty then .trap (boundsTrap miss) s
         else withAccess s a es .write (mdVec md) (ok.map (fun e => ⟨e.1, elemAddr a e.2, es⟩)) (fun cs s =>
           let s := footprintEffects (s.onGang (setMiss miss)) (mdVec md) none (footprintOf a j) cs
           let s := cs.foldl (fun s k => writeChecked s k (dataBytes g md d k.el.lane es) (if g_ then .bypass else .cached hn)) s
           .ok (startOp s c .mem [] [] true).2.2))))

/-- PF: the line of each lane is prefetched; a lane out of range, or that meets a cause, is dropped (R113, R190, R243). -/
def prefetchBody (hn : Hint) (md : Md) (ad : DescNo) (ix : Nat) (disp : Int) (c : CtrNo) (s : State) : Exe :=
  withDesc ad s (fun s => withCtr c s (fun s =>
    if mdVec md && s.gang.arm.mask == 0 then arriveOnly c s
    else
      let g := s.gang
      let a := readA g ad.toNat
      let es := descBytes a
      if es = 0 then sizeTrap .read s
      else
        let j := accInterval g md ix disp
        let ok := okLanes a j ((accLanes g md).map (fun l => (l, accIndex g md ix disp l)))
        let f := footprintOf a j
        let s := if mdVec md then footprintLoad s (descOvr a) true hn true f else s
        let s := ok.foldl (fun s e =>
          let va := elemAddr a e.2
          match resolve (apCtx s) (descOvr a) va es e.1 with
          | .error _ => mmCount s pfDrop 1
          | .ok t =>
            if va % es ≠ 0 then mmCount s pfDrop 1
            else match t with
              | .glob ps => ps.foldl (fun s p => prefetchLine s (armAgent s) none p.1 (some hn) true) s
              | _ => s) s
        .ok (startOp s c .mem [] [] true).2.2))

/-! ### Atomics (R191 to R193) -/

/-- The floating format of an element size. -/
def atomFmt (es : Nat) : Fmt := if es = 8 then .f64 else .f32

/-- Minimum or maximum of floating values: two NaNs yield m (R191). -/
def atomMinMax (f : Fmt) (mx : Bool) (m x : Nat) : Nat :=
  if isNaN (fpDecode f m) && isNaN (fpDecode f x) then m else (fpMinMax FCtl.plain f mx m x).1

/-- A signed number of `n` bits. -/
def signedOf (n x : Nat) : Int := if 2 ^ (n - 1) ≤ x % 2 ^ n then (x % 2 ^ n : Nat) - (2 : Int) ^ n else (x % 2 ^ n : Nat)

/-- op(m, operands) of R191: `x` is the operand, `y` the expected value of .cas or the factor of .fma. -/
def atomVal (f : AtomFn) (es m x y : Nat) : Nat :=
  let w := 8 * es
  let fm := atomFmt es
  match f with
  | .add => (m + x) % 2 ^ w
  | .min => if signedOf w x < signedOf w m then x else m
  | .max => if signedOf w m < signedOf w x then x else m
  | .minn => Min.min m x
  | .maxn => Max.max m x
  | .and => m &&& x
  | .or => m ||| x
  | .xor => m ^^^ x
  | .exch => x
  | .cas => if m = y then x else m
  | .fadd => (fpAddV FCtl.plain fm (fpDecode fm m) (fpDecode fm x)).1
  | .fmin => atomMinMax fm false m x
  | .fmax => atomMinMax fm true m x
  | .fma => (fpFmaV FCtl.plain fm (fpDecode fm y) (fpDecode fm x) (fpDecode fm m)).1

/-- Operations with a second operand behind D (R192, R193). -/
def atomTwo (f : AtomFn) : Bool := f = .cas || f = .fma

/-- A data operand of `es` bytes from register r. -/
def dataNat (g : Gang) (md : Md) (r l es : Nat) : Nat := leNat (dataBytes g md r l es)

/-- Read, update and write one element; a poisoned one is left alone (R192, R193). -/
def atomElem (f : AtomFn) (es : Nat) (x y : Nat) (s : State) (k : Checked) : (Nat × Option (Nat × Nat)) × State :=
  let r := readChecked s k .bypass
  if r.2.1.isSome then ((0, r.2.1), r.2.2)
  else
    let m := leNat r.1
    ((m, none), writeChecked r.2.2 k (leBytes es (atomVal f es m x y)) .bypass)

/-- Registers of an atomic: D's alignment, and the registers that its size and operation add. -/
def atomAligned (f : AtomFn) (es d : Nat) : Bool :=
  d % ((if es = 8 then 2 else 1) * (if atomTwo f then 2 else 1)) == 0

/-- How many registers beyond D an atomic names. -/
def atomExtra (f : AtomFn) (es : Nat) : Nat := (if es = 8 then 2 else 1) * (if atomTwo f then 2 else 1) - 1

/-- Perform the lanes of an atomic in ascending order: each lane's old value and the place of its poison. -/
def atomAll (f : AtomFn) (g : Gang) (md : Md) (d es : Nat) (cs : List Checked) (s : State) :
    List (Nat × Nat × Option (Nat × Nat)) × State :=
  cs.foldl (fun (acc : List (Nat × Nat × Option (Nat × Nat)) × State) k =>
    let x := dataNat g md d k.el.lane es
    let y := dataNat g md (d + (if es = 8 then 2 else 1)) k.el.lane es
    let r := atomElem f es x y acc.2 k
    (acc.1 ++ [(k.el.lane, r.1.1, r.1.2)], r.2)) (([], s) : List (Nat × Nat × Option (Nat × Nat)) × State)

/-- ATOM (R192). -/
def atomBody (f : AtomFn) (md : Md) (d : Nat) (ad : DescNo) (ix : Nat) (disp : Int) (c : CtrNo) (s : State) : Exe :=
  withDesc ad s (fun s => withCtr c s (fun s =>
    if mdVec md && s.gang.arm.mask == 0 then arriveOnly c s
    else
      let g := s.gang
      let a := readA g ad.toNat
      let es := descBytes a
      if es < 4 then sizeTrap .atomic s
      else withExtra s (extraUses md d (atomExtra f es) true false ++ (if es = 8 then extraUses md d 1 true true else []))
          (atomAligned f es d)
        (let idx := (accLanes g md).map (fun l => (l, accIndex g md ix disp l))
         let j := accInterval g md ix disp
         let ok := okLanes a j idx
         let miss := missLanes a j idx
         if descTrap a && !miss.isEmpty then .trap (boundsTrap miss) s
         else withAccess s a es .atomic (mdVec md) (ok.map (fun e => ⟨e.1, elemAddr a e.2, es⟩)) (fun cs s =>
           let s := footprintEffects (s.onGang (setMiss miss)) (mdVec md) none (footprintOf a j) cs
           let r := atomAll f g md d es cs s
           let ws := r.1.flatMap (fun e => laneWrites (mdVec md) d e.1 (es == 8) (BitVec.ofNat 64 e.2.1))
           let zs := miss.flatMap (fun e => laneWrites (mdVec md) d e.1 (es == 8) 0)
           let o := startOp r.2 c .mem (ws ++ zs) (owedData (mdVec md) d (es == 8) Shadow.top) true
           .ok (pendPoison o.2.2 c o.2.1 1 (r.1.findSome? (fun e => e.2.2)))))))

/-- The lanes of a BATOM that do not reach bank memory (R193). -/
def notBank (p : ApCtx) (ovr : Nat) (els : List Elem) : List (Nat × Nat × Nat) :=
  els.filterMap (fun e => match resolve p ovr e.addr e.n e.lane with
    | .ok (.bank _) => none
    | .ok _ => some (e.lane, e.addr, 0x11)
    | .error r => some (e.lane, e.addr, r))

/-- BATOM (R193): the runs apply lanes in ascending order. -/
def batomBody (f : AtomFn) (md : Md) (d : Nat) (ad : DescNo) (ix : Nat) (disp : Int) (c : CtrNo) (s : State) : Exe :=
  withDesc ad s (fun s => withCtr c s (fun s =>
    if mdVec md && s.gang.arm.mask == 0 then arriveOnly c s
    else
      let g := s.gang
      let a := readA g ad.toNat
      let es := descBytes a
      if es < 4 then sizeTrap .atomic s
      else withExtra s (extraUses md d (atomExtra f es) true false) (atomAligned f es d)
        (let idx := (accLanes g md).map (fun l => (l, accIndex g md ix disp l))
         let j := accInterval g md ix disp
         let ok := okLanes a j idx
         let miss := missLanes a j idx
         let els := ok.map (fun e => (⟨e.1, elemAddr a e.2, es⟩ : Elem))
         if descTrap a && !miss.isEmpty then .trap (boundsTrap miss) s
         else match laneTrap causeProtection .atomic (notBank (apCtx s) (descOvr a) els) with
           | some t => .trap t s
           | none => withAccess s a es .atomic (mdVec md) els (fun cs s =>
             let s := s.onGang (setMiss miss)
             let r := atomAll f g md d es cs s
             let o := startOp r.2 c .mem [] [] true
             .ok (pendPoison o.2.2 c o.2.1 1 (r.1.findSome? (fun e => e.2.2)))))))

/-! ### Shadow spills (R253) -/

/-- The elements of a spill block at index i in the order of their lanes (R105: a trap of lanes reports the lowest): lane 0's
value, where lane 0 takes part; the two shadow words past W of them, which belong to lane 0 (R239); the other lanes' values. -/
def spillElems (g : Gang) (vec : Bool) (i : Int) : List (Nat × Int) × List (Nat × Int) × List (Nat × Int) :=
  let w : Int := if vec then g.declared else 1
  let ls := if vec then laneList g.arm.mask else [0]
  ((ls.filter (· == 0)).map (fun l => (l, i + l)), [(0, i + w), (0, i + w + 1)],
    (ls.filter (· != 0)).map (fun l => (l, i + l)))

/-- J of a spill block (R244). -/
def spillInterval (g : Gang) (vec : Bool) (ix : Nat) (disp : Int) : Shadow :=
  let h := shadowS g ix
  ⟨h.lo + disp, h.hi + disp + (if vec then g.declared + 1 else 2)⟩

/-- ST.SH and LD.SH: the checks that both make, in trap mode always, then the access to values and shadow words. -/
def withSpill (md : Md) (ad : DescNo) (ix : Nat) (disp : Int) (c : CtrNo) (kind : AccKindF) (s : State)
    (f : Gang → List Checked → List Checked → State → Exe) : Exe :=
  withDesc ad s (fun s => withCtr c s (fun s =>
    let vec := mdVec md
    if vec && s.gang.arm.mask == 0 then arriveOnly c s
    else
      let g := s.gang
      let a := readA g ad.toNat
      if descEs a ≠ 2 then sizeTrap kind s
      else
        let i := (readS g ix).toInt + disp
        let e := spillElems g vec i
        let j := spillInterval g vec ix disp
        let es := e.1 ++ e.2.1 ++ e.2.2
        let miss := missLanes a j es
        if !miss.isEmpty then .trap (boundsTrap miss) s
        else withAccess s a 4 kind (vec && kind == .write) (es.map (fun x => ⟨x.1, elemAddr a x.2, 4⟩)) (fun cs s =>
          let s := creditAccess s vec (footprintOf a j) cs
          let r := cs.drop e.1.length
          f g (cs.take e.1.length ++ r.drop 2) (r.take 2) s)))

/-- ST.SH. -/
def stShBody (hn : Hint) (md : Md) (d : Nat) (ad : DescNo) (ix : Nat) (disp : Int) (c : CtrNo) (s : State) : Exe :=
  withSpill md ad ix disp c .write s (fun g vs ss s =>
    let sh := shadowOf g (if mdVec md then .vec else .scal) d
    let s := vs.foldl (fun s k => writeChecked s k (dataBytes g md d k.el.lane 4) (.cached hn)) s
    let s := (ss.zip [sh.lo, sh.hi]).foldl (fun s p => writeChecked s p.1 (leBytes 4 (p.2 % 2 ^ 32).toNat) (.cached hn)) s
    .ok (startOp s c .mem [] [] true).2.2)

/-- LD.SH: the landed interval is the spilled shadow where it is one and holds every landed value; a poisoned element lands 0 (R190). -/
def ldShBody (hn : Hint) (md : Md) (d : Nat) (ad : DescNo) (ix : Nat) (disp : Int) (c : CtrNo) (s : State) : Exe :=
  withSpill md ad ix disp c .read s (fun _ vs ss s =>
    let vec := mdVec md
    let r := readAll s vs (.cached hn)
    let h := readAll r.2 ss (.cached hn)
    let vals := r.1.map (fun e => (e.1, if e.2.2.isSome then (0 : Nat) else leNat e.2.1))
    let words := h.1.map (fun e => int32 (if e.2.2.isSome then 0 else leNat e.2.1))
    let lo := words.getD 0 0
    let hi := words.getD 1 0
    let poison := (r.1 ++ h.1).findSome? (fun e => e.2.2)
    let sound := decide (lo ≤ hi) && vals.all (fun e => decide (lo ≤ int32 e.2) && decide (int32 e.2 ≤ hi))
    let s := h.2.onGang (fun g => hullShadow g vec d Shadow.top)
    let o := startOp s c .mem (vals.map (fun e => ⟨vec, d, e.1, BitVec.ofNat 32 e.2⟩))
      [(vec, d, if sound then ⟨lo, hi⟩ else Shadow.top)] true
    .ok (pendPoison o.2.2 c o.2.1 1 poison))

/-! ### Descriptor moves (R250) -/

/-- ADLD and ADST: the checks that both make, then the access; `none` where the index is masked. -/
def withDescWord (d ad : DescNo) (ix : Nat) (disp : Int) (c : CtrNo) (kind : AccKindF) (s : State)
    (f : Option Checked → State → Exe) : Exe :=
  withDesc d s (fun s => withDesc ad s (fun s => withCtr c s (fun s =>
    let g := s.gang
    let a := readA g ad.toNat
    if descEs a ≠ 3 then sizeTrap kind s
    else
      let i := (readS g ix).toInt + disp
      let h := shadowS g ix
      let j : Shadow := ⟨h.lo + disp, h.hi + disp + 1⟩
      let miss := missLanes a j [(0, i)]
      if descTrap a && !miss.isEmpty then .trap (boundsTrap miss) s
      else if !miss.isEmpty then f none (s.onGang (setMiss miss))
      else withAccess s a 16 kind false [⟨0, elemAddr a i, 16⟩] (fun cs s => f cs.head? (creditAccess s false ⟨0, 0, 0⟩ cs)))))

/-- ADLD. -/
def adldBody (hn : Hint) (d ad : DescNo) (ix : Nat) (disp : Int) (c : CtrNo) (s : State) : Exe :=
  withDescWord d ad ix disp c .read s (fun k s =>
    let go (s : State) (x : BitVec 128) (p : Option (Nat × Nat)) : Exe :=
      let o := newOp s c.toNat .mem [] (some (d.toNat, x)) false true
      .ok (pendPoison o.2.2 c o.2.1 1 p)
    match k with
    | none => go s 0 none
    | some k =>
      let r := readChecked s k (.cached hn)
      go r.2.2 (if r.2.1.isSome then 0 else BitVec.ofNat 128 (leNat r.1)) r.2.1)

/-- ADST. -/
def adstBody (hn : Hint) (d ad : DescNo) (ix : Nat) (disp : Int) (c : CtrNo) (s : State) : Exe :=
  withDescWord d ad ix disp c .write s (fun k s =>
    let s := match k with
      | none => s
      | some k => writeChecked s k (leBytes 16 (readA s.gang d.toNat).toNat) (.cached hn)
    .ok (startOp s c .mem [] [] true).2.2)

/-! ### Meanings -/

/-- LD, format D (R190). -/
def execLd (md : Md) (d : Reg) (ad : DescNo) (ix : BitVec 6) (dsp cn : BitVec 2) (s : State) : Host.Outcome State Fault Refusal :=
  issue (.ld md d ad ix dsp cn) false s (fun s => loadBody false false .normal md d.toNat ad ix.toNat dsp.toNat (cn.setWidth 4) s)

/-- ST, format D (R190). -/
def execSt (md : Md) (d : Reg) (ad : DescNo) (ix : BitVec 6) (dsp cn : BitVec 2) (s : State) : Host.Outcome State Fault Refusal :=
  issue (.st md d ad ix dsp cn) false s (fun s => storeBody false .normal md d.toNat ad ix.toNat dsp.toNat (cn.setWidth 4) s)

/-- LDG, format D (R190). -/
def execLdg (md : Md) (d : Reg) (ad : DescNo) (ix : BitVec 6) (dsp cn : BitVec 2) (s : State) : Host.Outcome State Fault Refusal :=
  issue (.ldg md d ad ix dsp cn) false s (fun s => loadBody true false .normal md d.toNat ad ix.toNat dsp.toNat (cn.setWidth 4) s)

/-- STG, format D (R190). -/
def execStg (md : Md) (d : Reg) (ad : DescNo) (ix : BitVec 6) (dsp cn : BitVec 2) (s : State) : Host.Outcome State Fault Refusal :=
  issue (.stg md d ad ix dsp cn) false s (fun s => storeBody true .normal md d.toNat ad ix.toNat dsp.toNat (cn.setWidth 4) s)

/-- PF, format D (R190). -/
def execPf (md : Md) (ad : DescNo) (ix : BitVec 6) (dsp cn : BitVec 2) (s : State) : Host.Outcome State Fault Refusal :=
  issue (.pf md ad ix dsp cn) false s (fun s => prefetchBody .normal md ad ix.toNat dsp.toNat (cn.setWidth 4) s)

/-- LD, format M (R190). -/
def execLdLong (sx : Bool) (hn : Hint) (md : Md) (d : Reg) (ad : DescNo) (ix : Reg) (disp : BitVec 20) (cn : CtrNo) (s : State) :
    Host.Outcome State Fault Refusal :=
  issue (.ldLong sx hn md d ad ix disp cn) false s (fun s => loadBody false sx hn md d.toNat ad ix.toNat disp.toInt cn s)

/-- ST, format M (R190). -/
def execStLong (hn : Hint) (md : Md) (d : Reg) (ad : DescNo) (ix : Reg) (disp : BitVec 20) (cn : CtrNo) (s : State) :
    Host.Outcome State Fault Refusal :=
  issue (.stLong hn md d ad ix disp cn) false s (fun s => storeBody false hn md d.toNat ad ix.toNat disp.toInt cn s)

/-- LDG, format M (R190). -/
def execLdgLong (sx : Bool) (hn : Hint) (md : Md) (d : Reg) (ad : DescNo) (ix : Reg) (disp : BitVec 20) (cn : CtrNo) (s : State) :
    Host.Outcome State Fault Refusal :=
  issue (.ldgLong sx hn md d ad ix disp cn) false s (fun s => loadBody true sx hn md d.toNat ad ix.toNat disp.toInt cn s)

/-- STG, format M (R190). -/
def execStgLong (hn : Hint) (md : Md) (d : Reg) (ad : DescNo) (ix : Reg) (disp : BitVec 20) (cn : CtrNo) (s : State) :
    Host.Outcome State Fault Refusal :=
  issue (.stgLong hn md d ad ix disp cn) false s (fun s => storeBody true hn md d.toNat ad ix.toNat disp.toInt cn s)

/-- PF, format M (R190). -/
def execPfLong (hn : Hint) (md : Md) (ad : DescNo) (ix : Reg) (disp : BitVec 20) (cn : CtrNo) (s : State) :
    Host.Outcome State Fault Refusal :=
  issue (.pfLong hn md ad ix disp cn) false s (fun s => prefetchBody hn md ad ix.toNat disp.toInt cn s)

/-- ATOM (R192). -/
def execAtom (f : AtomFn) (hn : Hint) (md : Md) (d : Reg) (ad : DescNo) (ix : Reg) (disp : BitVec 20) (cn : CtrNo) (s : State) :
    Host.Outcome State Fault Refusal :=
  issue (.atom f hn md d ad ix disp cn) false s (fun s => atomBody f md d.toNat ad ix.toNat disp.toInt cn s)

/-- BATOM (R193). -/
def execBatom (f : AtomFn) (hn : Hint) (md : Md) (d : Reg) (ad : DescNo) (ix : Reg) (disp : BitVec 20) (cn : CtrNo) (s : State) :
    Host.Outcome State Fault Refusal :=
  issue (.batom f hn md d ad ix disp cn) false s (fun s => batomBody f md d.toNat ad ix.toNat disp.toInt cn s)

/-- LD.SH (R253). -/
def execLdSh (hn : Hint) (md : Md) (d : Reg) (ad : DescNo) (ix : Reg) (disp : BitVec 20) (cn : CtrNo) (s : State) :
    Host.Outcome State Fault Refusal :=
  issue (.ldSh hn md d ad ix disp cn) false s (fun s => ldShBody hn md d.toNat ad ix.toNat disp.toInt cn s)

/-- ST.SH (R253). -/
def execStSh (hn : Hint) (md : Md) (d : Reg) (ad : DescNo) (ix : Reg) (disp : BitVec 20) (cn : CtrNo) (s : State) :
    Host.Outcome State Fault Refusal :=
  issue (.stSh hn md d ad ix disp cn) false s (fun s => stShBody hn md d.toNat ad ix.toNat disp.toInt cn s)

/-- ADLD (R250). -/
def execAdld (hn : Hint) (d ad : DescNo) (ix : Reg) (disp : BitVec 20) (cn : CtrNo) (s : State) : Host.Outcome State Fault Refusal :=
  issue (.adld hn d ad ix disp cn) false s (fun s => adldBody hn d ad ix.toNat disp.toInt cn s)

/-- ADST (R250). -/
def execAdst (hn : Hint) (d ad : DescNo) (ix : Reg) (disp : BitVec 20) (cn : CtrNo) (s : State) : Host.Outcome State Fault Refusal :=
  issue (.adst hn d ad ix disp cn) false s (fun s => adstBody hn d ad ix.toNat disp.toInt cn s)

end Sys2Proof.Machine
end

