-- ==== Sys2Proof/Machine/System.lean ====
section
/-! DEFINITION. System instructions: prefixes, control and status registers, traps and returns, halts, register growth
(R34, R36, R377, R378, R391, R392, R403, R405 to R408). -/

namespace Sys2Proof.Machine

/-! ### Control and status registers (R377, R378) -/

/-- CSR numbers that user code may write (R408). -/
def csrUser (c : BitVec 12) : Bool :=
  let n := c.toNat
  n == 0 || n == 2 || n == 6 || n == 7 || n == 8 || n == 9 || n == 10

/-- Entries that slot `k`'s stack part holds, for DSP. -/
def slotUsed (g : Gang) (k : Nat) : Nat :=
  match (armsOf g).find? (fun a => a.slot == k) with
  | some a => stackUsed a
  | none => 0

/-- The value of a CSR, as the executing arm reads it. -/
def csrRead (s : State) (n : Nat) : Word :=
  let g := s.gang
  let a := g.arm
  match n with
  | 0x00 => g.fpc
  | 0x01 => g.gmode ||| (if a.sup then 0x20 else 0)
  | 0x02 => if g.shx then 1 else 0
  | 0x03 => match teamById s g.team with | some t => BitVec.ofNat 32 (t.barwd % 65536) | none => 0
  | 0x04 => BitVec.ofNat 32 (slotUsed g 0 + slotUsed g 1 * 2 ^ 12)
  | 0x06 => loWord a.link
  | 0x07 => hiWord a.link
  | 0x08 => maskWord g.bmiss 0
  | 0x09 => maskWord g.bmiss 1
  | 0x0A => maskWord g.bmiss 2
  | 0x10 => g.apbase
  | 0x11 => g.lsbase
  | 0x12 => g.lscfg
  | 0x13 => g.lsblk
  | 0x14 => g.bkwin
  | 0x20 => loWord g.trapv
  | 0x21 => hiWord g.trapv
  | 0x22 => a.fstat
  | 0x23 => loWord a.faddr
  | 0x24 => hiWord a.faddr
  | 0x60 => BitVec.ofNat 32 s.time
  | 0x61 => BitVec.ofNat 32 (s.time / 2 ^ 32)
  | n => if 0x40 ≤ n ∧ n ≤ 0x4F then smapGet 0 g.stallCnt (n - 0x40) else 0

/-- RW bits of FPC (R273). -/
def fpcMask : Word := 0x1FFFF003

/-- Put a value into the RW fields of a CSR; RO fields ignore it (R408). -/
def csrPut (s : State) (n : Nat) (x : Word) : State :=
  let miss (k : Nat) : State := s.onGang (fun g => { g with bmiss := setMaskWord g.bmiss k x })
  match n with
  | 0x00 => s.onGang (fun g => { g with fpc := x &&& fpcMask })
  | 0x06 => s.onArm (fun a => { a with link := pairOf x (hiWord a.link) })
  | 0x07 => s.onArm (fun a => { a with link := pairOf (loWord a.link) x })
  | 0x08 => miss 0
  | 0x09 => miss 1
  | 0x0A => miss 2
  | 0x20 => s.onGang (fun g => { g with trapv := pairOf (x &&& 0xFFFFF000) (hiWord g.trapv) })
  | 0x21 => s.onGang (fun g => { g with trapv := pairOf (loWord g.trapv) x })
  | n => if 0x40 ≤ n ∧ n ≤ 0x4F then s.onGang (fun g => { g with stallCnt := smapSet 0 g.stallCnt (n - 0x40) x }) else s

/-- A W1C field takes sS under CSRW and CSRS: GSTAT.SHX (R378, R408). -/
def csrClear (s : State) (n : Nat) (x : Word) : State :=
  if n = 2 ∧ x.getLsbD 0 then s.onGang (fun g => { g with shx := false }) else s

/-- CSRW, CSRS and CSRC: the operand over the old value (R408). -/
def csrWrite (f : Word → Word → Word) (clears : Bool) (c : BitVec 12) (r : Nat) (s : State) : Exe :=
  let x := readS s.gang r
  let n := c.toNat
  .ok (csrPut (if clears then csrClear s n x else s) n (f (csrRead s n) x))

/-! ### Register growth (R391, R392) -/

/-- The vector-file bytes that the resident gangs of a core hold (R231): 32 × S a register, by physical slices. -/
def vrfUsed (s : State) (core : Nat) : Nat :=
  (gangsOf s).foldl (fun n g => if g.core = core then n + g.nv * 32 * (g.declared / 8) else n) 0

/-- The core's 1 MiB vector register file has room for `n` more bytes. -/
def vrfRoom (s : State) (core n : Nat) : Bool := decide (vrfUsed s core + n ≤ 1048576)

/-- Drop registers from `nv` and `ns` on, with their shadows in both arms and in their trap frames, and what either scoreboard holds of
them: a register that VGROW brings back holds zero with the shadow [0, 0] (R231). -/
def dropRegs (nv ns : Nat) (g : Gang) : Gang :=
  let vs (m : List (Nat × Shadow)) := m.filter (fun e => decide (e.1 < nv))
  let ss (m : List (Nat × Shadow)) := m.filter (fun e => decide (e.1 < ns) || decide (61 ≤ e.1))
  onArms { g with nv := nv, ns := ns, v := g.v.filter (fun e => decide (e.1 < 128 * nv)), s := g.s.filter (fun e => decide (e.1 < ns)) }
    (fun a => { a with shV := vs a.shV, shS := ss a.shS
                       frame := { a.frame with shV := vs a.frame.shV, shS := ss a.frame.shS }
                       owed := a.owed.filter (fun o => if o.vec then decide (o.reg < nv) else decide (o.reg < ns) || decide (61 ≤ o.reg)) })

/-- VGROW (R391): NS' at once; NV' when it is granted (R392). -/
def vgrowBody (nvq nsq : Nat) (s : State) : Exe :=
  let g := s.gang
  let nv := Max.max g.nv (8 * nvq)
  let ns := Max.max g.ns (8 * nsq)
  let s1 := s.onGang (fun g => { dropRegs g.nv g.ns g with ns := ns })
  if nv = g.nv then .ok s1 else .stall 10 (s1.onArm (fun a => { a with stall := .vgrow nv ns }))

/-- VSHRINK (R391): never below .regs, and not while an operation owes a released register. -/
def vshrinkBody (nvq nsq : Nat) (s : State) : Exe :=
  let g := s.gang
  let nv := if nvq = 0 then g.nv else Max.max g.nvDecl (Min.min g.nv (8 * nvq))
  let ns := if nsq = 0 then g.ns else Max.max g.nsDecl (Min.min g.ns (8 * nsq))
  let owed := (armsOf g).any (fun a => a.owed.any (fun o => !o.landed && (if o.vec then decide (nv ≤ o.reg) else decide (ns ≤ o.reg) && decide (o.reg < 61))))
  if owed then .stall 10 s else .ok (s.onGang (dropRegs nv ns))

/-- Insert a request in the order of team age and gang number. -/
def insertReq (x : Nat × Nat × Gang × Arm) : List (Nat × Nat × Gang × Arm) → List (Nat × Nat × Gang × Arm)
  | [] => [x]
  | y :: t => if x.1 < y.1 ∨ (x.1 = y.1 ∧ x.2.1 ≤ y.2.1) then x :: y :: t else y :: insertReq x t

/-- The VGROW requests of a core, in the order of R392: oldest team first, then the gang number. -/
def vgrowQueue (s : State) (core : Nat) : List (Nat × Nat × Gang × Arm) :=
  let reqs := (gangsOf s).flatMap (fun g => if g.core = core then
    (armsOf g).filterMap (fun a => match a.stall with
      | .vgrow _ _ => some ((match teamById s g.team with | some t => t.age | none => 0), g.gangNo, g, a)
      | _ => none) else [])
  reqs.foldr insertReq []

/-- VGROW_GRANT (R392): the first request of the core's queue is granted whole, where it fits. -/
def execVgrowGrant (core : Nat) (s : State) : Host.Outcome State Fault Refusal :=
  event s (fun s0 =>
    match vgrowQueue s0 core with
    | [] => s0
    | (_, _, g, a) :: _ =>
      match a.stall with
      | .vgrow nv ns =>
        if vrfRoom s0 core ((nv - g.nv) * 32 * (g.declared / 8)) then
          let s := focusOn s0 g.id a.slot
          afterIssue (advance (s.onGang (fun g => { dropRegs g.nv g.ns g with nv := Max.max g.nv nv, ns := Max.max g.ns ns })) (.vgrow 0 0))
        else s0
      | _ => s0)

/-! ### Traps, returns and halts (R403, R406, R407) -/

/-- An instruction whose effect is to trap, with the return at the next instruction (R400). -/
def issueTrap (i : Instr) (s : State) (cause : Nat) (n : Nat) : Host.Outcome State Fault Refusal :=
  if !s.live then .next s
  else .next (settle s (preIssue s i false) (fun s' =>
    stepDone (trapEntry (retire s') (plainTrap s.gang cause 0 n) (nextAddr s.gang.arm i))))

/-- BRK makes a precise stop instead: the block that holds the right for the context has BRKH set (R407). -/
def brkStops (s : State) : Bool :=
  match debugBlock s s.gang.ctx with
  | some k => mmField s (dbgBlock k) 17 17 == 1
  | none => false

/-- The status with which HALT ends its launch (R407). -/
def haltStatus (a : Arm) : Nat :=
  let c := (a.fstat.extractLsb' 0 8).toNat
  if inHandler a ∧ (c = causePoison ∨ c = causeMxReset) then 4 else 7

/-! ### Meanings -/

/-- PR (R34): the group's instruction takes the settings. -/
def execPr (xe : BitVec 5) (xo : Bool) (fzr fzo : Flush) (sat : Bool) (rm : PrRound) (s : State) :
    Host.Outcome State Fault Refusal :=
  if !s.live then .next s
  else if !instrWf (.pr xe xo fzr fzo sat rm) then
    .next (stepDone (trapEntry s (plainTrap s.gang causeIllegal 0 (instrAddr s.gang.arm).toNat) s.gang.arm.pc))
  else .next (s.onArm (fun a => { a with pr := some ⟨xe, xo, fzr, fzo, sat, rm⟩ }))

/-- PN (R36): the group's instruction repeats. -/
def execPn (sc sb sa sd : BitVec 3) (cnt : BitVec 6) (s : State) : Host.Outcome State Fault Refusal :=
  if !s.live then .next s else .next (s.onArm (fun a => { a with pn := some ⟨sc, sb, sa, sd, cnt⟩ }))

/-- CSRR (R408). -/
def execCsrr (d : SReg) (csr : BitVec 12) (s : State) : Host.Outcome State Fault Refusal :=
  issue (.csrr d csr) false s (fun s => putS s d.toNat (csrRead s csr.toNat) (shExact (csrRead s csr.toNat)))

/-- CSRW (R408). -/
def execCsrw (csr : BitVec 12) (r : SReg) (s : State) : Host.Outcome State Fault Refusal :=
  issue (.csrw csr r) (!csrUser csr) s (fun s => csrWrite (fun _ x => x) true csr r.toNat s)

/-- CSRS (R408). -/
def execCsrs (csr : BitVec 12) (r : SReg) (s : State) : Host.Outcome State Fault Refusal :=
  issue (.csrs csr r) (!csrUser csr) s (fun s => csrWrite (fun old x => old ||| x) true csr r.toNat s)

/-- CSRC (R408). -/
def execCsrc (csr : BitVec 12) (r : SReg) (s : State) : Host.Outcome State Fault Refusal :=
  issue (.csrc csr r) (!csrUser csr) s (fun s => csrWrite (fun old x => old &&& ~~~x) false csr r.toNat s)

/-- RDTIME (R408): both words of TIME, taken at once. -/
def execRdtime (d : SReg) (s : State) : Host.Outcome State Fault Refusal :=
  issue (.rdtime d) false s (fun s =>
    .ok (s.onGang (fun g => writeS64 g d.toNat (BitVec.ofNat 64 s.time) Shadow.top Shadow.top)))

/-- TRAP (R407): Software, with the operand in FADDR. -/
def execTrap (n : BitVec 12) (s : State) : Host.Outcome State Fault Refusal := issueTrap (.trap n) s causeSoftware n.toNat

/-- BRK (R407): Breakpoint; under a debugger with BRKH a precise stop before it, and NOP on resume. -/
def execBrk (n : BitVec 12) (s : State) : Host.Outcome State Fault Refusal :=
  if !brkStops s then issueTrap (.brk n) s causeBreak n.toNat
  else if s.live ∧ !s.gang.arm.skipStop then .next (preciseStop s true)
  else issue (.brk n) false s (fun s => .ok s)

/-- HALT (R407): the launch ends as by a kill. -/
def execHalt (s : State) : Host.Outcome State Fault Refusal :=
  if !s.live then .next s
  else .next (settle s (preIssue s .halt true) (fun s' => killLaunch s' s'.gang.launch (haltStatus s'.gang.arm)))

/-- RFE (R403); outside a handler it is illegal at execution (R406). -/
def execRfe (s : State) : Host.Outcome State Fault Refusal :=
  issueJump .rfe true s (fun s => if inHandler s.gang.arm then .ok (trapReturn s) else illegalHere s)

/-- YIELD (R391): ineligible for 64 cc, or until the other eligible arms of the pipe have issued. -/
def execYield (s : State) : Host.Outcome State Fault Refusal :=
  issue .yield false s (fun s => .ok (s.onArm (fun a => { a with yieldTo := s.cc + 64 })))

/-- VGROW (R391). -/
def execVgrow (nvq : BitVec 5) (nsq : BitVec 4) (s : State) : Host.Outcome State Fault Refusal :=
  issue (.vgrow nvq nsq) false s (fun s => vgrowBody nvq.toNat nsq.toNat s)

/-- VSHRINK (R391). -/
def execVshrink (nvq : BitVec 5) (nsq : BitVec 4) (s : State) : Host.Outcome State Fault Refusal :=
  issue (.vshrink nvq nsq) false s (fun s => vshrinkBody nvq.toNat nsq.toNat s)

end Sys2Proof.Machine
end

