-- ==== Sys2Proof/Machine/Paging.lean ====
section
/-! DEFINITION. Translation as instructions and the host manage it: frame pools (R109, R110), the host fault queue (R111,
R112), TLBINV, PGMAP and PGQRY (R114 to R116), the host's invalidation (R117) and walks (R100). -/

namespace Sys2Proof.Machine

/-! ### Frame pools (R109, R110) -/

/-- Slots of a pool's ring. -/
def poolSlots (s : State) (n : Nat) : Nat := 2 ^ (mmField s (fpCtl n) 4 1 + 9)

/-- A pool has no frame: disabled, or HEAD = TAIL. -/
def poolEmpty (s : State) (n : Nat) : Bool :=
  mmField s (fpCtl n) 0 0 == 0 || mmField s (fpHead n) 31 0 == mmField s (fpTail n) 31 0

/-- Take the frame at FPHEAD of a pool that is not empty, for agent `ag`: frame number bits [39:0] of its slot. -/
def poolPop (s : State) (ag n : Nat) : Nat × State :=
  let h := mmField s (fpHead n) 31 0
  let a := mmField s (fpBase n) 51 12 * 4096 + h % poolSlots s n * 8
  let s := homeRead s ag a 8 true false
  (bitField (physQuad s a) 39 0, mmPut s (fpHead n) ((h + 1) % 2 ^ 32))

/-- The pool that a placement chooses (R109): TH, STK, and the die index of the agent. -/
def poolOf (th stk die : Nat) : Nat := match th with | 0 => die | 1 => stk | 2 => 8 | _ => 9

/-- Write 4 KiB of zeros to a frame, line by line, as agent `ag`. -/
def zeroFrame (s : State) (ag f : Nat) : State :=
  (List.range 16).foldl (fun s i => homeWrite s ag (f * 4096 + 256 * i) (List.replicate 256 0)) s

/-- A first-touch mapping of the page of an address, for agent `ag` of a die (R115, R206): the status, and the state after it. -/
def mapTouch (s : State) (ag die ctx va : Nat) : Nat × State :=
  let w := walkTables s ctx va
  let s := walkTraffic s die [] w
  if w.level ≠ 1 ∨ !pteHolder w.entry then (if pteV w.entry then 1 else 3, s)
  else
    let n := poolOf (pteTh w.entry) (pteStk w.entry) die
    if poolEmpty s n then (2, s)
    else
      let r := poolPop s ag n
      let s := zeroFrame r.2 ag r.1
      let e := 1 + (w.entry / 4 % 8) * 4 + r.1 % 2 ^ 40 * 4096 + pteStk w.entry * 2 ^ 59 + pteTh w.entry * 2 ^ 62
      (0, writeEntry s ag w.ea e)

/-! ### TLBINV (R114) -/

/-- Invalidate, and arrive on a counter: the landing of the operation waits for the accesses that used what it drops (`opReady`). -/
def tlbinvBody (v : InvScope) (cn : CtrNo) (s : State) : Exe :=
  withCtr cn s (fun s => .ok (newOp s cn.toNat (.tlbinv v) [] none false true).2.2)

/-- TLBINV.page (R114). -/
def execTlbinvPage (e : Reg) (n : BitVec 20) (cn : CtrNo) (s : State) : Host.Outcome State Fault Refusal :=
  issue (.tlbinvPage e n cn) true s (fun s =>
    tlbinvBody (.pages s.gang.ctx ((readS64 s.gang e.toNat).toNat % 2 ^ 57 / 4096) (n.toNat + 1)) cn s)

/-- TLBINV.ctx (R114). -/
def execTlbinvCtx (cn : CtrNo) (s : State) : Host.Outcome State Fault Refusal :=
  issue (.tlbinvCtx cn) true s (fun s => tlbinvBody (.context s.gang.ctx) cn s)

/-- TLBINV.asid (R114). -/
def execTlbinvAsid (e : Reg) (cn : CtrNo) (s : State) : Host.Outcome State Fault Refusal :=
  issue (.tlbinvAsid e cn) true s (fun s => tlbinvBody (.context ((readS s.gang e.toNat).toNat % 65536)) cn s)

/-- TLBINV.all (R114). -/
def execTlbinvAll (cn : CtrNo) (s : State) : Host.Outcome State Fault Refusal :=
  issue (.tlbinvAll cn) true s (fun s => tlbinvBody .all cn s)

/-! ### PGMAP (R115) -/

/-- The distinct pages of lanes, by ascending lowest lane. -/
def pagesOf (ls : List (Nat × Nat)) : List Nat :=
  ls.foldl (fun ps e => if ps.contains (vaPage e.2) then ps else ps ++ [vaPage e.2]) []

/-- Map the pages of lanes that have an address; the statuses of their lanes. -/
def mapPages (s : State) (ls : List (Nat × Nat)) : List (Nat × Nat) × State :=
  (pagesOf ls).foldl (fun (acc : List (Nat × Nat) × State) p =>
    let r := mapTouch acc.2 (armNo acc.2) (acc.2.gang.core / 96) acc.2.gang.ctx (canonVa (p * 4096))
    let own := (ls.filter (fun e => vaPage e.2 == p)).map (fun e => e.1)
    let st := match own with
      | [] => []
      | l :: t => (l, r.1) :: t.map (fun x => (x, if r.1 = 0 then 1 else r.1))
    (acc.1 ++ st, r.2)) (([], s) : List (Nat × Nat) × State)

/-- PGMAP.ft and PGMAP.va: `addr` gives a lane's address, where it has one; a lane without one gets status 3. Its writes to memory are
accesses of the arm, under the bound of R333. -/
def pgmapBody (e : Nat) (cn : CtrNo) (addr : Gang → Nat → Option Nat) (s : State) : Exe :=
  withCtr cn s (fun s =>
    let g := s.gang
    let lanes := laneList g.arm.mask
    if lanes.isEmpty then .ok (startOp s cn .mem [] [] true).2.2
    else
      let r := mapPages s (lanes.filterMap (fun l => (addr g l).map (fun a => (l, a))))
      let st (l : Nat) : Nat := match r.1.find? (fun x => x.1 == l) with | some x => x.2 | none => 3
      let lands := lanes.map (fun l => (⟨true, e, l, BitVec.ofNat 32 (st l)⟩ : RegWrite))
      boundedExe s (.ok (startOp r.2 cn .mem lands [(true, e, ⟨0, 3⟩)] true).2.2))

/-- A lane's fault state. -/
def laneFault (g : Gang) (l : Nat) : Option LaneFault := g.arm.lfault.find? (fun f => f.lane == l)

/-- PGMAP.ft (R115). -/
def execPgmapFt (e : Reg) (cn : CtrNo) (s : State) : Host.Outcome State Fault Refusal :=
  issue (.pgmapFt e cn) true s (fun s =>
    pgmapBody e.toNat cn (fun g l => (laneFault g l).map (fun f => f.addr.toNat)) s)

/-- PGMAP.va (R115). -/
def execPgmapVa (e k : Reg) (cn : CtrNo) (s : State) : Host.Outcome State Fault Refusal :=
  issue (.pgmapVa e k cn) true s (fun s =>
    pgmapBody e.toNat cn (fun g l => some (pairOf (readV g k.toNat l) (readV g (k.toNat + 1) l)).toNat) s)

/-! ### Posting to the host (R111, R112, R115) -/

/-- An access kind's code (R111). -/
def accCode : AccKindF → Nat
  | .read => 0
  | .write => 1
  | .atomic => 2
  | .fetch => 3

/-- The next tag: the count, past 0 and past every tag that a pending post holds. -/
def freshTag (s : State) : Nat → Nat → Nat
  | 0, t => t
  | n + 1, t => if t = 0 ∨ s.posts.any (fun p => p.tag == t) then freshTag s n ((t + 1) % 2 ^ 32) else t

/-- The records of a post (R111). -/
def postRecords (g : Gang) (tag : Nat) (fs : List LaneFault) : List (List Byte) :=
  let pages := pagesOf (fs.map (fun f => (f.lane, f.addr.toNat)))
  pages.filterMap (fun p =>
    (fs.find? (fun f => vaPage f.addr.toNat == p)).map (fun f =>
      leBytes 8 f.addr.toNat ++ leBytes 8 g.arm.frame.pc.toNat ++ leBytes 4 tag ++ leBytes 2 g.ctx ++ leBytes 2 g.core ++
        leBytes 1 g.gslot ++ leBytes 1 g.arm.slot ++ leBytes 1 f.lane ++ leBytes 1 (accCode f.kind) ++ leBytes 1 f.reason ++
        leBytes 1 pages.length ++ leBytes 2 0))

/-- The arm is in a PageFault or Protection handler (R115). -/
def inFaultHandler (a : Arm) : Bool :=
  let c := (a.fstat.extractLsb' 0 8).toNat
  inHandler a && (c == causePageFault || c == causeProtection)

/-- PGMAP.post: post the active lanes' faults, and leave the handler with the arm suspended until the reply. -/
def postBody (s : State) : Exe :=
  if !inFaultHandler s.gang.arm then illegalHere s
  else
    let fs := (laneList s.gang.arm.mask).filterMap (laneFault s.gang)
    if fs.isEmpty then .ok (trapReturn s)
    else
      let tag := freshTag s (s.posts.length + 2) s.tagNext
      let post : FaultPost := ⟨tag, s.gang.id, s.gang.arm.slot, postRecords s.gang tag fs⟩
      let s := { s with posts := s.posts ++ [post], tagNext := (tag + 1) % 2 ^ 32 }
      .ok ((trapReturn s).onArm (fun a => { a with stall := .posted tag }))

/-- PGMAP.post (R115): the arm stays suspended through the issue's bookkeeping. -/
def execPgmapPost (s : State) : Host.Outcome State Fault Refusal :=
  issueJump .pgmapPost true s postBody

/-- FAULT_POST_WRITE (R111, R112): the oldest post with records left writes one, where the queue is enabled and has room. -/
def execFaultPostWrite (s : State) : Host.Outcome State Fault Refusal :=
  event s (fun s =>
    match s.posts.find? (fun p => !p.records.isEmpty) with
    | none => s
    | some p =>
      if !ringOn s fqBase || ringFull s fqBase then s
      else
        match p.records with
        | [] => s
        | r :: rest =>
          let s := { s with posts := s.posts.map (fun q => if q.tag = p.tag then { q with records := rest } else q) }
          ringPut s fqBase 0 r)

/-- A reply's tag names a pending post. -/
def postOf (s : State) (tag : Nat) : Option FaultPost := s.posts.find? (fun p => p.tag == tag)

/-- A reply that names no pending post (R112). -/
def strayReply (s : State) : State := mmCount s fqStray 1

/-- A reply takes the post away, with the records that the queue has not taken yet, for nothing waits on them any more: R112 lets a reply
come before the host has read every record, and does not say what becomes of records that are still to be written. DESIGN CHOICE,
log entry 91. -/
def dropPost (s : State) (tag : Nat) : State := { s with posts := s.posts.filter (fun p => p.tag ≠ tag) }

/-- Retry: the arm that waits for a tag executes again, resident or once restored (R112). -/
def replyRetry (s : State) (tag : Nat) : State :=
  match postOf s tag with
  | none => strayReply s
  | some p =>
    let wake (a : Arm) : Arm := match a.stall with | .posted t => if t = tag then { a with stall := .none } else a | _ => a
    onGangId (dropPost s tag) p.gang (fun g => onArms g wake)

/-- Kill: the launch of the waiting arm ends with status 1 (R112, R396). -/
def replyKill (s : State) (tag : Nat) : State :=
  match postOf s tag with
  | none => strayReply s
  | some p =>
    let s := dropPost s tag
    match (gangsOf s ++ s.teams.flatMap (fun t => t.savedGangs)).find? (fun g => g.id == p.gang) with
    | none => s
    | some g => killLaunch s g.launch 1

/-- FQREPLY with ACT = retry (R112). A contained device takes no write (R412). -/
def execFqreplyRetry (tag : BitVec 32) (s : State) : Host.Outcome State Fault Refusal := event s (fun s => if s.contained then s else replyRetry s tag.toNat)

/-- FQREPLY with ACT = kill launch (R112). A contained device takes no write (R412). -/
def execFqreplyKill (tag : BitVec 32) (s : State) : Host.Outcome State Fault Refusal := event s (fun s => if s.contained then s else replyKill s tag.toNat)

/-! ### PGQRY (R116) -/

/-- The result of PGQRY for an address. -/
def queryPage (s : State) (va : Nat) (lane : Nat) : Nat × State :=
  if !canonical va || inArea (apCtx s) va then (2, s)
  else
    let x : Xagent := { armAgent s with sup := true }
    let t := xlateAs false s x va .read (pickCached s lane)
    let s := if t.fault.isNone then xlPrefetch s x va t
      else match t.walk with | some w => walkTraffic s x.die [] w | none => s
    (pteSet (pteSet t.leaf 11 9 t.level) 1 1 0, s)

/-- PGQRY (R116). -/
def pgqryBody (k : Kind) (d e : Nat) (cn : CtrNo) (s : State) : Exe :=
  withCtr cn s (fun s =>
    let g := s.gang
    let vec := k = .vec
    let lanes := opLanes g k
    if lanes.isEmpty then .ok (startOp s cn .mem [] [] true).2.2
    else
      let r := lanes.foldl (fun (acc : List RegWrite × State) l =>
        let va := if vec then (pairOf (readV g e l) (readV g (e + 1) l)).toNat else (readS64 g e).toNat
        let q := queryPage acc.2 va l
        (acc.1 ++ [⟨vec, d, l, BitVec.ofNat 32 q.1⟩, ⟨vec, d + 1, l, BitVec.ofNat 32 (q.1 / 2 ^ 32)⟩], q.2))
        (([], s) : List RegWrite × State)
      .ok (startOp r.2 cn .mem r.1 [(vec, d, Shadow.top), (vec, d + 1, Shadow.top)] true).2.2)

/-- PGQRY (R116). -/
def execPgqry (k : Kind) (d e : Reg) (cn : CtrNo) (s : State) : Host.Outcome State Fault Refusal :=
  issue (.pgqry k d e cn) false s (fun s => pgqryBody k d.toNat e.toNat cn s)

/-! ### Walks and the host's invalidation (R100, R117) -/

/-- PAGE_TABLE_WALK (R100): a walker of a die serves a demand read that missed the TLBs. -/
def execPageTableWalk (die ctx : Nat) (va : BitVec 64) (s : State) : Host.Outcome State Fault Refusal :=
  event s (fun s =>
    if !canonical va.toNat then s
    else
      let x : Xagent := ⟨none, die, ctx, true⟩
      let w := walkDie s true die ctx va.toNat (pickCached s 124)
      match w.bad with
      | some _ => markPath (walkTraffic s die [] w) die w
      | none => xlCommit s x va.toNat .read ⟨none, leafPa w.level w.entry va.toNat, w.level, w.entry, some w⟩)

/-- The host's invalidation starts (R117): nothing while one is in progress. DONE of an earlier one stays set until it is written with
1, for R117 names nothing else that clears it: DESIGN CHOICE, log entry 92. A contained device takes no write (R412). -/
def tlbiStart (s : State) (v : InvScope) : State :=
  if s.inval.isSome ∨ s.contained then s
  else mmPutField (mmPutField { invalidate s v with inval := some (v, s.serial) } tlbiCmd 0 0 1) tlbiStat 1 1 1

/-- The host's invalidation is complete: DONE; not while an access that used what it drops is still to be made (R114). -/
def tlbiFinish (s : State) : State :=
  match s.inval with
  | none => s
  | some (v, n) =>
    if stillUsed s v n then s
    else mmPutField (mmPutField (mmPutField { invalidate s v with inval := none } tlbiCmd 0 0 0) tlbiStat 1 1 0) tlbiStat 0 0 1

/-- TLBICMD with FORM 0b00 (R117): `n` pages from an address, of a context. -/
def execTlbiPages (ctx : Nat) (va : BitVec 64) (n : Nat) (s : State) : Host.Outcome State Fault Refusal :=
  event s (fun s => tlbiStart s (.pages ctx (va.toNat % 2 ^ 57 / 4096) n))

/-- TLBICMD with FORM 0b01 (R117). -/
def execTlbiContext (ctx : Nat) (s : State) : Host.Outcome State Fault Refusal := event s (fun s => tlbiStart s (.context ctx))

/-- TLBICMD with FORM 0b10 (R117). -/
def execTlbiAll (s : State) : Host.Outcome State Fault Refusal := event s (fun s => tlbiStart s .all)

/-- TLBICMD with FORM 0b11 (R117): nothing is dropped and DONE is set at once; ignored while an invalidation runs. -/
def execTlbiNone (s : State) : Host.Outcome State Fault Refusal :=
  event s (fun s => if s.inval.isSome ∨ s.contained then s else mmPutField (mmPutField s tlbiCmd 0 0 0) tlbiStat 0 0 1)

/-- TLBI_DONE (R117): the completion conditions of R114 hold. -/
def execTlbiDone (s : State) : Host.Outcome State Fault Refusal := event s tlbiFinish

end Sys2Proof.Machine
end

