-- ==== Sys2Proof/Machine/Motion.lean ====
section
/-! DEFINITION. Page motion: move records, the move port's copies, aborts, the placement pass, checkpoints and the
instructions MIG, PIN, UNPIN, HOT and PLC (R118 to R145). -/

namespace Sys2Proof.Machine

/-! ### The release ring (R123, R139) -/

/-- Slots of the release ring. -/
def rlSlots (s : State) : Nat := 2 ^ (mmField s (yoRlBase + 8) 4 1 + 9)

/-- The release ring takes an entry now. -/
def rlRoom (s : State) : Bool :=
  mmField s (yoRlBase + 8) 0 0 == 1 &&
    decide ((mmField s (yoRlBase + 16) 31 0 + 2 ^ 32 - mmField s (yoRlBase + 24) 31 0) % 2 ^ 32 < rlSlots s)

/-- Put a frame on the release ring. -/
def rlPush (s : State) (frame pool : Nat) : State :=
  let h := mmField s (yoRlBase + 16) 31 0
  let a := mmField s yoRlBase 51 12 * 4096 + h % rlSlots s * 8
  mmPut (homeWrite s yoyoNo a (leBytes 8 (frame % 2 ^ 40 + pool * 2 ^ 40))) (yoRlBase + 16) ((h + 1) % 2 ^ 32)

/-- Replace the Yo-yo's state. -/
def onYo (s : State) (f : Yoyo → Yoyo) : State := { s with yo := f s.yo }

/-- Records whose frames have all gone are free. -/
def freeRecords (s : State) : State :=
  onYo s (fun y => { y with moves := y.moves.filter (fun m => m.st != .released || y.held.any (fun h => h.1 == m.no)) })

/-- Put held frames on the ring, oldest first, while it has room. -/
def drainHeld : Nat → State → State
  | 0, s => freeRecords s
  | n + 1, s =>
    match s.yo.held with
    | [] => freeRecords s
    | h :: t => if rlRoom s then drainHeld n (rlPush (onYo s (fun y => { y with held := t })) h.2.1 h.2.2) else freeRecords s

/-- Give up frames of a record: to the ring, or held for it. -/
def giveFrames (s : State) (no frame count pool : Nat) : State :=
  let s := onYo s (fun y => { y with held := y.held ++ (List.range count).map (fun i => (no, frame + i, pool)) })
  drainHeld s.yo.held.length s

/-! ### Leaves -/

/-- The pool whose memory a frame lies in (R123). -/
def poolOfFrame (s : State) (f : Nat) : Nat :=
  match physPlace s (f * 4096) with
  | .hbm k _ => k
  | .lpddr _ => 8
  | _ => 9

/-- A frame of HBM4E, LPDDR 6 or CXL. -/
def frameBacked (s : State) (f : Nat) : Bool :=
  match physPlace s (f * 4096) with
  | .hbm .. | .lpddr _ | .cxl _ => true
  | _ => false

/-- The present leaf of a page: the walk that reached it. -/
def leafOf (s : State) (ctx va : Nat) : Option Walk :=
  let w := walkTables s ctx va
  if w.bad.isSome then none else some w

/-- The frame that a leaf gives to a page. -/
def leafFrame (w : Walk) (va : Nat) : Nat := leafPa w.level w.entry va / 4096

/-- A line of a frame range is known to be poisoned. -/
def framePoison (s : State) (f lines : Nat) : Bool :=
  s.mem.poison.any (fun k => decide (f * 64 ≤ k) && decide (k < f * 64 + 4 * lines))

/-- The entries of a page's leaf: one, or the sixteen of its 64 KiB group (R97, R126). -/
def groupEas (w : Walk) (va lines : Nat) : List Nat :=
  if lines = 16 then [w.ea] else (List.range 16).map (fun i => w.ea - va / 4096 % 16 * 8 + 8 * i)

/-- The entries whose PN a PIN or UNPIN of a page sets: one, or all sixteen of a 64 KiB page (R126, R143). -/
def pinEas (w : Walk) (va : Nat) : List Nat := groupEas w va (if w.level = 1 ∧ pteC64 w.entry then 256 else 16)

/-- Set PN on a page's entries by atomic OR, as agent `ag`. -/
def setPins (s : State) (ag : Nat) (w : Walk) (va : Nat) : State := (pinEas w va).foldl (fun s a => orEntry s ag a (2 ^ 52)) s

/-- R121: a page that may move, its large pages apart. -/
def movable (s : State) (sup : Bool) (w : Walk) (va : Nat) : Bool :=
  w.level == 1 && !ptePn w.entry && !pteMv w.entry && (sup || !w.entry.testBit 4) && !framePoison s (leafFrame w va) 16

/-! ### Move records (R124, R125, R126) -/

/-- The lowest free record, of 512. -/
def freeRecord (s : State) : Option Nat := (List.range 512).find? (fun n =>
  !(s.yo.moves.any (fun m => m.no == n)) && !(s.deferred.any (fun d => d.no == n)))

/-- The record that a leaf's MREC names. -/
def moveNo (s : State) (no : Nat) : Option Move := s.yo.moves.find? (fun m => m.no == no)

/-- The record of a page's move in Recall or Forward (R141), by the context and address that it holds (R124), whatever the leaf says now. -/
def moveOfPage (s : State) (ctx va : Nat) : Option Move :=
  s.yo.moves.find? (fun m => m.ctx == ctx && cancellable m && decide (vaPage m.va ≤ vaPage va) &&
    decide (vaPage va < vaPage m.va + m.lines / 16))

/-- The start compare on a page's entries (R125, R126): the status of the first term that fails. -/
def startCompare (s : State) (eas : List Nat) (src : Nat) (group : Bool) : Option Nat :=
  let es := eas.map (fun a => physQuad s a)
  let bases := natRange src eas.length
  if es.any (fun e => !pteV e) then some 9
  else if es.any pteMv then some 10
  else if es.any (fun e => ptePn e || (group && !pteC64 e)) then some 6
  else if (es.zip bases).any (fun p => ptePfn p.1 != p.2) then some 9
  else none

/-- A page is one of B's of an MVN that runs near memory (R225). -/
def nearBusy (s : State) (ctx va lines : Nat) : Bool :=
  s.jobs.list.any (fun j => j.st == .running && j.ctx == ctx &&
    (List.range (lines / 16)).any (fun i => j.near.contains (vaPage va + i)))

/-- Start a move (R125) of the page at `base` into a record: the leaf's entries must still name the frame `src` that the request found. The
status where the compare fails, the frames going back. The destination frames have been taken. -/
def openMove (s : State) (no ctx base src : Nat) (w : Walk) (dst pool lines : Nat) (req : Option Requester) (trap : Bool) :
    Option Nat × State :=
  let eas := groupEas w base lines
  match (if w.level = 1 then startCompare s eas src (lines ≠ 16) else some 9) with
  | some st => (some st, giveFrames s 512 dst (lines / 16) pool)
  | none =>
    let s := eas.foldl (fun s a => writeEntry s yoyoNo a (pteSet (pteSet (physQuad s a) 54 54 1) 63 55 no)) s
    let m : Move :=
      { no := no, st := .recall, ctx := ctx, va := base, src := src, dst := dst, pool := pool, lines := lines, cursor := 0,
        hold := .none, th := pteTh w.entry, stk := pteStk w.entry, req := req, trap := trap, buf := [], bufPoison := [],
        want := none, abort := none, atCursor := 0, leaseEnd := 0, closedAt := 0, leafLost := false, pinWait := [] }
    (none, onYo s (fun y => { y with moves := y.moves ++ [m] }))

/-- Start a move of the page that a walk has found, or defer it while a near-memory MVN reads the page (R225). -/
def startMove (s : State) (no ctx va : Nat) (w : Walk) (dst pool lines : Nat) (req : Option Requester) (trap : Bool) :
    Option Nat × State :=
  let base := if lines = 16 then va / 4096 * 4096 else va / 65536 * 65536
  let src := if lines = 16 then leafFrame w va else leafFrame w va / 16 * 16
  if nearBusy s ctx base lines then
    (none, { s with serial := s.serial + 1
                    deferred := s.deferred ++ [⟨s.serial, no, ctx, base, src, dst, pool, lines, req, trap⟩] })
  else openMove s no ctx base src w dst pool lines req trap

/-! ### Completion of requests -/

/-- Write a MIG requester's status and let its operation arrive; the abort of a MIG.t stays pending on its counter (R134). -/
def answerMig (s : State) (m : Move) (st : Nat) : State :=
  match m.req with
  | none => s
  | some r =>
    let fin (o : Op) : Op := if o.id = r.op then { o with done := true, lands := [⟨false, r.status, 0, BitVec.ofNat 32 st⟩],
                                                          time := Max.max o.time (agentTime s yoyoNo) } else o
    onGangId s r.gang (fun g =>
      let g := { g with ops := g.ops.map fin }
      if m.trap ∧ m.abort.isSome then addPend g ⟨r.ctr, r.ticket, causeMigration, 0, 0, 0, 0⟩ else g)

/-- The PINs that wait on a move set PN on the leaves it leaves, and arrive once they wait on no other (R143). -/
def answerPins (s : State) (m : Move) : State :=
  m.pinWait.foldl (fun s p =>
    let s := match leafOf s m.ctx p.2.2 with
      | some w => setPins s yoyoNo w p.2.2
      | none => s
    if s.yo.moves.any (fun x => x.no != m.no && x.pinWait.any (fun q => q.1 == p.1 && q.2.1 == p.2.1)) then s
    else finishOp s p.1 p.2.1 (agentTime s yoyoNo)) s

/-! ### Events (R135) -/

/-- Post an event record: page, frames, kind, status, cursor, context and requester. -/
def yoEvent (s : State) (va src dst kind st cur ctx : Nat) (req : Option Requester) : State :=
  let r := match req with
    | some r => leBytes 2 r.core ++ leBytes 1 r.gslot ++ leBytes 1 r.slot
    | none => leBytes 2 0xFFFF ++ leBytes 1 0xFF ++ leBytes 1 0xFF
  ringPost s yoEvBase yoEvLost 1
    (leBytes 8 (va / 4096 * 4096) ++ leBytes 5 src ++ leBytes 3 0 ++ leBytes 5 dst ++ leBytes 1 kind ++ leBytes 1 st ++
      leBytes 1 cur ++ leBytes 2 ctx ++ r ++ leBytes 2 0)

/-! ### Copies (R128, R133) -/

/-- The destination refuses a line: nothing backs it, or its channel has failed (R132). -/
def dstRefuses (s : State) (m : Move) : Bool :=
  match physPlace s (m.dst * 4096 + 256 * m.cursor) with
  | .hbm k off => s.dram.failed.contains (k, (hbmDecode off).ch)
  | .lpddr _ | .cxl _ => false
  | _ => true

/-- Where the line in copy goes (R128, R133). -/
def copyTarget (m : Move) : Nat := (if m.st = .reverse then m.src else m.dst) * 4096 + 256 * lineInCopy m

/-- Begin the copy-read of the line in copy. The destination's controller reserves a write-queue entry first; the line's controller reads it as for anyone (R73, R75), and where nothing backs it, as behind a port
whose link is down, it reads zero with poison and is logged (R60). -/
def beginCopy (s : State) (m : Move) : State :=
  let a := (if m.st = .reverse then m.dst else m.src) * 4096 + 256 * lineInCopy m
  let s := reserveEntry s (copyTarget m)
  let s := if unbacked s a then decodeError s a else (List.range 4).foldl (fun s i => readSector s (a + 64 * i)) (readArrives s a)
  putMove s { m with hold := .copyRead, buf := (List.range 256).map (fun i => rawByte s (a + i))
                     bufPoison := (List.range 4).filter (fun i => (List.range 8).any (fun w => rawPoison s (a + 64 * i + 8 * w))) }

/-- The entries of a moving page that still show MV = 1 with its record (R130, R131). -/
def ownEas (s : State) (m : Move) : List (Nat × Nat) :=
  let w := walkTables s m.ctx m.va
  if w.level ≠ 1 then []
  else (groupEas w m.va m.lines).zip (List.range (m.lines / 16)) |>.filter (fun p =>
    pteMv (physQuad s p.1) && pteMrec (physQuad s p.1) == m.no)

/-- An entry with its hint back and MV = 0. -/
def settledEntry (e th stk : Nat) : Nat := pteSet (pteSet (pteSet (pteSet e 54 54 0) 58 55 0) 61 59 stk) 63 62 th

/-- The abort is complete (R134): leaf, destination frames, event, status. -/
def abortDone (s : State) (m : Move) : State :=
  let st := m.abort.getD 5
  let s := if m.leafLost then s
    else (ownEas s m).foldl (fun s p => writeEntry s yoyoNo p.1 (settledEntry (physQuad s p.1) m.th m.stk)) s
  let s := putMove s { m with st := .released, hold := .none, buf := [], bufPoison := [], pinWait := [] }
  let s := giveFrames s m.no m.dst (m.lines / 16) m.pool
  let s := mmCount (yoEvent s m.va m.src m.dst 1 st m.atCursor m.ctx m.req) yoAborts 1
  let s := onYo s (fun y => { y with quarantine := y.quarantine ++ [(m.ctx, m.va % 2 ^ 57 / 65536, y.epochs + 16)] })
  answerPins (answerMig s m st) m

/-- The record enters Reverse with a status (R132, R133); with nothing copied it closes at once. A copy that ends without a hold gives up its
write-queue entry. The cursor of a 64 KiB move that the Closing compare cancels is 256, which byte 23 of its event (0 to 255, R135) does not
hold: the event carries it modulo 256. DESIGN CHOICE, log entry 104. -/
def startReverse (s : State) (m : Move) (st : Nat) : State :=
  let s := if m.hold = .none then s else dropEntry s (copyTarget m)
  let m := { m with st := .reverse, abort := some st, atCursor := m.cursor, hold := .none, buf := [], bufPoison := [], want := none }
  if m.cursor = 0 then abortDone s m else beginCopy (putMove s m) m

/-- Free bytes (log entry 4) in the frames that a closing page moves to, where its leaf names another frame than the move's source: such a
rewrite is undefined for the data of that page (R131). -/
def strayData (s : State) (m : Move) (own : List (Nat × Nat)) : State :=
  match own.filter (fun p => ptePfn (physQuad s p.1) != m.src + p.2) with
  | [] => s
  | bad =>
    let t := bad.foldl (fun (t : State) p => (List.range 16).foldl (fun (t : State) i =>
      physWrite t ((m.dst + p.2) * 4096 + 256 * i) ((List.range 256).map (fun k => Config.freeByte s.serial (4096 * p.2 + 256 * i + k)))) t) s
    { t with serial := t.serial + 1 }

/-- What the closing of a move invalidates (R130). -/
def closeScope (m : Move) : InvScope := .pages m.ctx (vaPage m.va) (m.lines / 16)

/-- The last line is copied (R130 steps 1 and 2): the leaf names the destination and the TLBs drop the page; a leaf that no
longer shows this move cancels it (R131). -/
def closeLeaf (s : State) (m : Move) : State :=
  let own := ownEas s m
  if own.length < m.lines / 16 then startReverse s { m with leafLost := true } 5
  else
    let s := strayData s m own
    let s := own.foldl (fun s p =>
      writeEntry s yoyoNo p.1 (settledEntry (pteSet (physQuad s p.1) 51 12 (m.dst + p.2)) m.th m.stk)) s
    let s := rekeyPages s m.src m.dst (m.lines / 16)
    putMove (invalidate s (closeScope m)) { m with st := .closing, hold := .none, closedAt := s.serial }

/-- A line boundary of a forward move: a cause that waits acts, or the next line is read, or the move closes. -/
def lineBoundary (s : State) (m : Move) : State :=
  match m.want with
  | some st => startReverse s m st
  | none => if m.cursor = m.lines then closeLeaf s m else beginCopy s m

/-- RECALL_COMPLETE (R125): the frame's lines have left the Jigsaw and every L1 that owned one; the copy begins, or a cancel
acts. -/
def execRecallComplete (r : Nat) (s : State) : Host.Outcome State Fault Refusal :=
  event s (fun s =>
    match moveNo s r with
    | none => s
    | some m =>
      if m.st ≠ .recall then s
      else
        let pas := (List.range m.lines).map (fun i => m.src * 4096 + 256 * i)
        let s := pas.foldl jgRecall s
        let last := pas.foldl (fun n a => Max.max n (stampOf s a).rts) 0
        let m := { m with st := .forward, leaseEnd := last }
        lineBoundary (putMove s m) m)

/-- A read at an address still waits at its controller: for a burst, a refresh or a reservation (R66, R68, R69). -/
def readWaits (s : State) (pa : Nat) : Bool :=
  match bankNumber s pa with
  | some b => writeBlocked s (b / 16, b, pa / 256)
  | none => false

/-- COPY_READ_DATA (R128, R132): the read data arrives, when the read waits for nothing at its controller; poison or a refusing destination aborts the move, otherwise the hold
begins. -/
def execCopyReadData (r : Nat) (s : State) : Host.Outcome State Fault Refusal :=
  event s (fun s =>
    match moveNo s r with
    | none => s
    | some m =>
      if m.hold ≠ .copyRead ∨ readWaits s ((if m.st = .reverse then m.dst else m.src) * 4096 + 256 * lineInCopy m) then s
      else if m.st = .forward ∧ !m.bufPoison.isEmpty then startReverse s m 4
      else if m.st = .forward ∧ dstRefuses s m then startReverse s m 2
      else putMove s { m with hold := .held })

/-- End the hold of a record, where one is in force. -/
def finishHold (s : State) (m : Move) : State := if m.hold = .held then endHold s m else s

/-- LINE_ACCEPTED (R128, R129): the destination has the line; the next begins, or the move closes or aborts. -/
def execLineAccepted (r : Nat) (s : State) : Host.Outcome State Fault Refusal :=
  event s (fun s =>
    match moveNo s r with
    | none => s
    | some m =>
      if m.st ≠ .forward ∨ m.hold = .copyRead then s
      else
        let s := finishHold s m
        match moveNo s r with
        | some m => lineBoundary s m
        | none => s)

/-- REVERSE_LINE_ACCEPTED (R133): the source has the line back; at cursor 0 the abort is complete. -/
def execReverseLineAccepted (r : Nat) (s : State) : Host.Outcome State Fault Refusal :=
  event s (fun s =>
    match moveNo s r with
    | none => s
    | some m =>
      if m.st ≠ .reverse ∨ m.hold = .copyRead then s
      else
        let s := finishHold s m
        match moveNo s r with
        | some m => if m.cursor = 0 then abortDone s m else beginCopy s m
        | none => s)

/-- PORT_CLOSE (R130 step 3): the invalidation is complete, every access that used what it drops among it. -/
def execPortClose (r : Nat) (s : State) : Host.Outcome State Fault Refusal :=
  event s (fun s =>
    match moveNo s r with
    | some m => if m.st = .closing ∧ stillUsed s (closeScope m) m.closedAt = false then putMove s { m with st := .releasing } else s
    | none => s)

/-- SOURCE_FRAME_RELEASE (R130 steps 4 and 5): once TIME has passed every lease, the source frame is released and the
requester answered. -/
def execSourceFrameRelease (r : Nat) (s : State) : Host.Outcome State Fault Refusal :=
  event s (fun s =>
    match moveNo s r with
    | some m =>
      if m.st = .releasing ∧ m.leaseEnd < s.time then
        let s := putMove s { m with st := .released, pinWait := [] }
        let s := mmCount (giveFrames s m.no m.src (m.lines / 16) (poolOfFrame s m.src)) yoMoves 1
        answerPins (answerMig s m 0) m
      else s
    | none => s)

/-- HELD_FRAME_RELEASE (R123): the ring has room again. -/
def execHeldFrameRelease (s : State) : Host.Outcome State Fault Refusal := event s (fun s => drainHeld s.yo.held.length s)

/-- CANCEL (R132, R139): YOCTL.CANCEL cancels every move in progress. A contained device takes no write (R412). -/
def execCancel (s : State) : Host.Outcome State Fault Refusal := event s (fun s => if s.contained then s else cancelMoves s (fun _ => true) 5)

/-- The moves with a destination line behind a port, whose ports may change every 256 bytes (R80, R132). -/
def portMoves (s : State) (port : Nat) (m : Move) : Bool :=
  (List.range m.lines).any (fun i =>
    let a := m.dst * 4096 + 256 * i
    decide (0x100000000000 ≤ a) && decide (a < 0x200000000000) && cxlPort s a == port)

/-- FAILED_CXL_PORT (R132): the port's link is down, and moves into it abort with status 2. -/
def execFailedCxlPort (port : Nat) (s : State) : Host.Outcome State Fault Refusal :=
  event s (fun s => mmPutField (cancelMoves s (portMoves s port) 2) (cxlpStat port) 0 0 0)

/-! ### Heat (R118, R120) -/

/-- heat(d) of a region. -/
def heatAt (tab : List HeatEntry) (ctx region d : Nat) : Nat :=
  match tab.find? (fun e => e.die == d && e.ctx == ctx && e.region == region) with
  | some e => e.heat
  | none => 0

/-- The die with the highest heat, the lowest on ties; none where every heat is 0. -/
def hotDie (tab : List HeatEntry) (ctx region : Nat) : Option Nat :=
  (List.range 8).foldl (fun (b : Option Nat) d =>
    let h := heatAt tab ctx region d
    match b with
    | none => if h = 0 then none else some d
    | some x => if heatAt tab ctx region x < h then some d else some x) none

/-- The sum of a region's heats. -/
def heatSum (tab : List HeatEntry) (ctx region : Nat) : Nat := (List.range 8).foldl (fun n d => n + heatAt tab ctx region d) 0

/-! ### The placement pass (R121, R122) -/

/-- The regions of the tables, each once. -/
def tableRegions (tab : List HeatEntry) : List (Nat × Nat) :=
  tab.foldl (fun rs e => if rs.contains (e.ctx, e.region) then rs else rs ++ [(e.ctx, e.region)]) []

/-- Insert a region by total heat descending, then by address ascending (R122). Regions of two contexts with equal heat and address keep
the order of the tables, for the spec gives none: DESIGN CHOICE, log entry 93. -/
def insertRegion (tab : List HeatEntry) (r : Nat × Nat) : List (Nat × Nat) → List (Nat × Nat)
  | [] => [r]
  | x :: t =>
    let a := heatSum tab r.1 r.2
    let b := heatSum tab x.1 x.2
    if b < a ∨ (a = b ∧ r.2 < x.2) then r :: x :: t else x :: insertRegion tab r t

/-- Records that the policy holds: those of moves, of frames that are still to be released, and of starts that wait (R123, R225). -/
def policyMoves (s : State) : Nat :=
  (s.yo.moves.filter (fun m => m.req.isNone)).length + (s.deferred.filter (fun d => d.req.isNone)).length

/-- YOCTL.AUTOMAX as it acts (R139). -/
def autoMax (s : State) : Nat := Min.min 512 (mmField s yoCtl 31 22)

/-- Move the page that a walk has found to a pool for a requester or the policy, where it may move, is not there, and the pool and the records
allow it. -/
def policyMove (s : State) (ctx va : Nat) (w : Walk) (pool : Nat) (req : Option Requester) : State :=
  if !movable s (ctxSup s ctx) w va || pteC64 w.entry || poolOfFrame s (leafFrame w va) == pool || poolEmpty s pool ||
      mmField s (yoRlBase + 8) 0 0 == 0 || decide (autoMax s ≤ policyMoves s) then s
  else
    match freeRecord s with
    | none => s
    | some no =>
      let r := poolPop s yoyoNo pool
      (startMove r.2 no ctx va w r.1 pool 16 req false).2

/-- Where the pass puts a page (R122). -/
def passTarget (w : Walk) (o : Nat) : Nat := poolOf (pteTh w.entry) (pteStk w.entry) o

/-- What the pass has done so far: the state, and the regions whose PinnedSkip event it has posted. -/
abbrev Pass := State × List (Nat × Nat)

/-- The pass walks the tables for the leaf of a page, as a walker does and without A or D (R122): its reads of table lines go through the
Jigsaw, and a poisoned one is fatal (R411), after which the pass goes no further. -/
def passWalk (acc : Pass) (ctx va : Nat) (f : Walk → Pass → Pass) : Pass :=
  let s := walkBy acc.1 yoyoNo [] (walkTables acc.1 ctx va)
  match (if s.contained then none else leafOf s ctx va) with
  | none => (s, acc.2)
  | some w => f w (s, acc.2)

/-- The pass has selected a page with a leaf: it moves to a pool, or is skipped where it is pinned, with one PinnedSkip event for its
region in the epoch (R121). YOPSKIP (R139) counts these events, and the event names the policy (R135), also where a PLC.move queued the page:
the spec settles neither. DESIGN CHOICE, log entry 49. -/
def passPage (acc : Pass) (ctx va : Nat) (w : Walk) (pool : Nat) (req : Option Requester) : Pass :=
  let g := (ctx, va % 2 ^ 57 / 65536)
  if ptePn w.entry then
    (if acc.2.contains g then acc
     else (mmCount (yoEvent acc.1 va (leafFrame w va) 0 2 0 0 ctx none) yoPskip 1, acc.2 ++ [g]))
  else (policyMove acc.1 ctx va w pool req, acc.2)

/-- The PLC.move that queued a page (R124, R145). -/
def plcAsked (q : List (Nat × Nat × Requester)) (ctx p : Nat) : Option Requester :=
  (q.find? (fun e => e.1 == ctx && e.2.1 == p)).map (fun e => e.2.2)

/-- The pages of a candidate, in ascending order: every page of the region, or those that PLC.move named. Where several are pinned, the
region's one PinnedSkip event names the lowest: the spec says which page of the region it names nowhere. DESIGN CHOICE, log entry 94. -/
def passPages (acc : Pass) (q : List (Nat × Nat × Requester)) (ctx o : Nat) (pages : List Nat) : Pass :=
  pages.foldl (fun (acc : Pass) p => passWalk acc ctx (canonVa (p * 4096)) (fun w acc =>
    passPage acc ctx (canonVa (p * 4096)) w (passTarget w o) (plcAsked q ctx p))) acc

/-- The sixteen pages of a region. -/
def regionPages (r : Nat) : List Nat := natRange (r * 16) 16

/-- A region whose move aborted within 16 epochs (R122). -/
def quarantined (s : State) (ctx region : Nat) : Bool :=
  s.yo.quarantine.any (fun q => q.1 == ctx && q.2.1 == region && decide (s.yo.epochs ≤ q.2.2))

/-- The regions that PLC.move named, in arrival order. -/
def plcRegions (s : State) : List (Nat × Nat) :=
  s.yo.plcQ.foldl (fun rs e => if rs.contains (e.1, e.2.1 / 16) then rs else rs ++ [(e.1, e.2.1 / 16)]) []

/-- Frames in a pool. -/
def poolCount (s : State) (n : Nat) : Nat :=
  if mmField s (fpCtl n) 0 0 = 0 then 0
  else (mmField s (fpTail n) 31 0 + 2 ^ 32 - mmField s (fpHead n) 31 0) % 2 ^ 32

/-- Demotion from one stack (R122). -/
def demoteStack (acc : Pass) (tab : List HeatEntry) (k : Nat) : Pass :=
  if mmField acc.1 yoThr 15 0 ≤ poolCount acc.1 k then acc
  else
    (tableRegions tab).foldl (fun (acc : Pass) r =>
      if (List.range 8).any (fun d => decide (mmField acc.1 yoThr 23 16 < heatAt tab r.1 r.2 d)) then acc
      else (regionPages r.2).foldl (fun (acc : Pass) p =>
        let va := canonVa (p * 4096)
        passWalk acc r.1 va (fun w acc =>
          if pteTh w.entry = 0 ∧ !pteMv w.entry ∧ poolOfFrame acc.1 (leafFrame w va) = k then
            passPage acc r.1 va w (if poolEmpty acc.1 8 then 9 else 8) none
          else acc)) acc) acc

/-- The placement pass over a snapshot of the tables. -/
def placementPass (s : State) (tab : List HeatEntry) : State :=
  let auto := mmField s yoCtl 0 0 == 1
  let hot := (tableRegions tab).filter (fun r => (List.range 8).any (fun d => decide (mmField s yoThr 31 24 ≤ heatAt tab r.1 r.2 d)))
  let plc := plcRegions s
  let cand := plc ++ (if auto then (hot.filter (fun r => !plc.contains r)).foldl (fun rs r => insertRegion tab r rs) [] else [])
  let named := s.yo.plcQ
  let acc := cand.foldl (fun (acc : Pass) r =>
    if autoMax acc.1 ≤ policyMoves acc.1 ∨ quarantined acc.1 r.1 r.2 then acc
    else passPages acc named r.1 ((hotDie tab r.1 r.2).getD 0)
      (if auto then regionPages r.2
       else (regionPages r.2).filter (fun p => (plcAsked named r.1 p).isSome))) (s, [])
  let acc := (onYo acc.1 (fun y => { y with plcQ := [] }), acc.2)
  if auto ∧ mmField acc.1 yoCtl 1 1 = 1 then ((List.range 8).foldl (fun acc k => demoteStack acc tab k) acc).1 else acc.1

/-- P of R120 in nanoseconds; EPOCH 0 acts as 1. -/
def epochNs (s : State) : Nat := 10000 * Max.max 1 (mmField s yoCtl 39 32)

/-- The first multiple of P after TIME. -/
def epochAfter (s : State) : Nat := (s.time / epochNs s + 1) * epochNs s

/-- EPOCH_END (R120): the pass runs over the tables as they stand, and every counter is halved; a checkpoint suspends the
pass (R137). TIME never passes this instant before it (`passTime`), and nothing else comes between (`nextTurn`). -/
def execEpochEnd (s : State) : Host.Outcome State Fault Refusal :=
  event s (fun s =>
    if s.time < s.yo.nextEpoch then s
    else
      let tab := s.yo.heat
      let s := onYo s (fun y =>
        { y with epochs := y.epochs + 1, nextEpoch := epochAfter s, heat := y.heat.map (fun e => { e with heat := e.heat / 2 })
                 quarantine := y.quarantine.filter (fun q => decide (y.epochs + 1 ≤ q.2.2)) })
      if s.yo.ckpt.isSome then s else placementPass s tab)

/-! ### MIG (R141, R142) -/

/-- A MIG answered at issue: the status lands and the operation arrives. -/
def statusOp (s : State) (cn : CtrNo) (d st hi : Nat) : State :=
  (startOp s cn .mem [⟨false, d, 0, BitVec.ofNat 32 st⟩] [(false, d, ⟨0, (hi : Int)⟩)] true).2.2

/-- The page of an address is global. -/
def globalVa (s : State) (va : Nat) : Bool := canonical va && !inArea (apCtx s) va

/-- What a MIG asks for: a place (`none` for auto without a hot die), or a frame. -/
inductive MigTarget where
  | pool (p : Option Nat)
  | frame (f : Nat)
  deriving DecidableEq, Repr

/-- MIG.to and MIG.frame. -/
def migBody (t : Bool) (tgt : Nat → MigTarget) (d e : Nat) (cn : CtrNo) (s : State) : Exe :=
  withCtr cn s (fun s =>
    let va := (readS64 s.gang e).toNat
    let ctx := s.gang.ctx
    let say (st : Nat) : Exe := .ok (statusOp s cn d st 10)
    match (if globalVa s va then leafOf s ctx va else none) with
    | none => say 9
    | some w =>
      let frame (f : Nat) : Bool := match tgt va with | .frame x => x == f | .pool _ => false
      let fn1 := match tgt va with | .frame f => some f | .pool _ => none
      let lines := if pteC64 w.entry then 256 else 16
      let src := if lines = 256 then leafFrame w va / 16 * 16 else leafFrame w va
      let bad : Bool := !movable s s.gang.arm.sup w va ||
        (pteC64 w.entry && (match fn1 with | some f => f % 16 != 0 || framePoison s src 256 | none => true)) ||
        (match fn1 with
          | some f => !((List.range (lines / 16)).all (fun i => frameBacked s (f + i)))
          | none => false)
      if pteMv w.entry then say 10
      else if bad then say 6
      else
        let pool : Option Nat := match tgt va with | .pool p => p | .frame f => some (poolOfFrame s f)
        match pool with
        | none => say 1
        | some p =>
          if (fn1.isNone && poolOfFrame s src == p) || frame src then say 1
          else
            match freeRecord s with
            | none => say 8
            | some no =>
              if s.yo.ckpt.isSome || mmField s (yoRlBase + 8) 0 0 == 0 then say 8
              else if fn1.isNone && poolEmpty s p then say 7
              else
                let r := startOp s cn (.move no) [] [(false, d, ⟨0, 10⟩)] false
                let q := match fn1 with | some f => (f, r.2.2) | none => poolPop r.2.2 yoyoNo p
                let req : Requester := ⟨s.gang.id, r.1, s.gang.core, s.gang.gslot, s.gang.arm.slot, cn.toNat, r.2.1.toNat, d⟩
                let m := startMove q.2 no ctx va w q.1 p lines (some req) t
                match m.1 with
                | none => .ok m.2
                | some st => .ok (updateOp m.2 s.gang.id r.1 (fun o =>
                    { o with done := true, lands := [⟨false, d, 0, BitVec.ofNat 32 st⟩] })))

/-- The pool of a place (R141). -/
def placePool (s : State) (tier : Tier) (stk va : Nat) : Option Nat :=
  match tier with
  | .auto => hotDie s.yo.heat s.gang.ctx (va % 2 ^ 57 / 65536)
  | .hbm => some stk
  | .lpddr => some 8
  | .cxl => some 9

/-- MIG.to (R141). -/
def execMigTo (t : Bool) (tier : Tier) (stk : BitVec 3) (d e : Reg) (cn : CtrNo) (s : State) : Host.Outcome State Fault Refusal :=
  issue (.migTo t tier stk d e cn) false s (fun s => migBody t (fun va => .pool (placePool s tier stk.toNat va)) d.toNat e.toNat cn s)

/-- MIG.frame (R141). -/
def execMigFrame (t : Bool) (f d e : Reg) (cn : CtrNo) (s : State) : Host.Outcome State Fault Refusal :=
  issue (.migFrame t f d e cn) true s (fun s =>
    migBody t (fun _ => .frame ((readS64 s.gang f.toNat).toNat % 2 ^ 40)) d.toNat e.toNat cn s)

/-- MIG.cancel (R141). -/
def execMigCancel (d e : Reg) (cn : CtrNo) (s : State) : Host.Outcome State Fault Refusal :=
  issue (.migCancel d e cn) false s (fun s => withCtr cn s (fun s =>
    let va := (readS64 s.gang e.toNat).toNat
    match (if globalVa s va then moveOfPage s s.gang.ctx va else none) with
    | some m => .ok (statusOp (cancelMoves s (fun x => x.no == m.no) 5) cn d.toNat 0 10)
    | none => .ok (statusOp s cn d.toNat 1 10)))

/-! ### PIN and UNPIN (R143) -/

/-- The leaves of `n` pages from an address, a large leaf once: each page's address with its walk, or none where absent. -/
def pinLeaves (s : State) (ctx va n : Nat) : List (Nat × Option Walk) :=
  ((List.range n).foldl (fun (acc : List (Nat × Option Walk) × Option Nat) j =>
    let a := va / 4096 * 4096 + 4096 * j
    match (if globalVa s a then leafOf s ctx a else none) with
    | none => (acc.1 ++ [(a, none)], none)
    | some w => if w.level ≠ 1 ∧ acc.2 = some w.ea then acc else (acc.1 ++ [(a, some w)], some w.ea))
    (([], none) : List (Nat × Option Walk) × Option Nat)).1

/-- PIN one leaf for operation `op`: at once, or when the move of its page ends. A leaf with MV = 0 whose record still closes (R130 steps 3 to
5) is pinned at once, as the pseudocode of R143 has it, though its sentence that no move is in progress once PIN has arrived asks for a wait:
DESIGN CHOICE, log entry 101. -/
def pinLeaf (op : Nat) (s : State) (a : Nat) (w : Walk) : State :=
  match (if pteMv w.entry then moveNo s (pteMrec w.entry) else none) with
  | none => setPins s (armNo s) w a
  | some m =>
    let s := cancelMoves s (fun x => x.no == m.no) 3
    onYo s (fun y => { y with moves := y.moves.map (fun x =>
      if x.no = m.no then { x with pinWait := x.pinWait ++ [(s.gang.id, op, a)] } else x) })

/-- PIN (R143). -/
def execPin (d e : Reg) (n : BitVec 20) (cn : CtrNo) (s : State) : Host.Outcome State Fault Refusal :=
  issue (.pin d e n cn) true s (fun s => withCtr cn s (fun s0 =>
    let s := s0
    let ls := pinLeaves s s.gang.ctx (readS64 s.gang e.toNat).toNat (n.toNat + 1)
    let skipped := (ls.filter (fun x => x.2.isNone)).length
    let r := startOp s cn .pin [⟨false, d.toNat, 0, BitVec.ofNat 32 skipped⟩] [(false, d.toNat, ⟨0, 1048576⟩)] false
    let s := ls.foldl (fun s x => match x.2 with | some w => pinLeaf r.1 s x.1 w | none => s) r.2.2
    boundedExe s0 (.ok (if s.yo.moves.any (fun m => m.pinWait.any (fun p => p.1 == s.gang.id && p.2.1 == r.1)) then s
      else finishOp s s.gang.id r.1 s.gang.arm.ltime))))

/-- UNPIN (R143). -/
def execUnpin (d e : Reg) (n : BitVec 20) (cn : CtrNo) (s : State) : Host.Outcome State Fault Refusal :=
  issue (.unpin d e n cn) true s (fun s => withCtr cn s (fun s0 =>
    let s := s0
    let ls := pinLeaves s s.gang.ctx (readS64 s.gang e.toNat).toNat (n.toNat + 1)
    let skipped := (ls.filter (fun x => x.2.isNone)).length
    let s := ls.foldl (fun s x => match x.2 with
      | some w => (pinEas w x.1).foldl (fun s a =>
          if ptePn (physQuad s a) then writeEntry s (armNo s) a (pteSet (physQuad s a) 52 52 0) else s) s
      | none => s) s
    boundedExe s0 (.ok (statusOp s cn d.toNat skipped 1048576))))

/-! ### HOT (R144) -/

/-- HOT.rd: byte d is heat(d). -/
def execHotRd (d e : Reg) (cn : CtrNo) (s : State) : Host.Outcome State Fault Refusal :=
  issue (.hotRd d e cn) false s (fun s => withCtr cn s (fun s =>
    let va := (readS64 s.gang e.toNat).toNat
    let h (k : Nat) : Nat := if globalVa s va then heatAt s.yo.heat s.gang.ctx (va % 2 ^ 57 / 65536) k else 0
    let v := leNat ((List.range 8).map (fun k => BitVec.ofNat 8 (h k)))
    .ok (startOp s cn .mem [⟨false, d.toNat, 0, BitVec.ofNat 32 v⟩, ⟨false, d.toNat + 1, 0, BitVec.ofNat 32 (v / 2 ^ 32)⟩]
      [(false, d.toNat, Shadow.top), (false, d.toNat + 1, Shadow.top)] true).2.2))

/-- HOT.clr: the region's entry is zeroed in every table. -/
def execHotClr (e : Reg) (cn : CtrNo) (s : State) : Host.Outcome State Fault Refusal :=
  issue (.hotClr e cn) true s (fun s => withCtr cn s (fun s =>
    let va := (readS64 s.gang e.toNat).toNat
    let s' := (startOp s cn .mem [] [] true).2.2
    .ok (if globalVa s va then
        onYo s' (fun y => { y with heat := y.heat.map (fun x =>
          if x.ctx = s.gang.ctx ∧ x.region = va % 2 ^ 57 / 65536 then { x with heat := 0 } else x) })
      else s')))

/-! ### PLC (R145) -/

/-- Set the hint of one page: in its leaf or placeholder, or in the record of its move; none where it is skipped. -/
def plcPage (s : State) (th stk va : Nat) : Option State :=
  let w := walkTables s s.gang.ctx va
  let e := w.entry
  let holder := w.level = 1 ∧ !pteV e ∧ pteFt e
  if !globalVa s va ∨ !(w.bad.isNone ∨ holder) ∨ (e.testBit 4 ∧ !s.gang.arm.sup) then none
  else
    match (if pteV e && pteMv e then moveNo s (pteMrec e) else none) with
    | some m => some (onYo s (fun y => { y with moves := y.moves.map (fun x => if x.no = m.no then { x with th := th, stk := stk } else x) }))
    | none => some (writeEntry s (armNo s) w.ea (pteSet (pteSet e 61 59 stk) 63 62 th))

/-- PLC and PLC.move. -/
def plcBody (move : Bool) (tier : Tier) (stk e n : Nat) (cn : CtrNo) (s : State) : Exe :=
  withCtr cn s (fun s0 =>
    let s := s0
    let va := (readS64 s.gang e).toNat / 4096 * 4096
    let ctx := s.gang.ctx
    let r := startOp s cn .mem [] [] true
    let s := r.2.2
    let req : Requester := ⟨s.gang.id, r.1, s.gang.core, s.gang.gslot, s.gang.arm.slot, cn.toNat, r.2.1.toNat, 0⟩
    boundedExe s0 (.ok ((List.range n).foldl (fun s j =>
      let a := va + 4096 * j
      match plcPage s (tierCode tier) stk a with
      | none => s
      | some s => if move then onYo s (fun y => { y with plcQ := y.plcQ ++ [(ctx, vaPage a, req)] }) else s) s)))

/-- PLC (R145). -/
def execPlc (tier : Tier) (stk : BitVec 3) (e : Reg) (n : BitVec 20) (cn : CtrNo) (s : State) : Host.Outcome State Fault Refusal :=
  issue (.plc tier stk e n cn) false s (fun s => plcBody false tier stk.toNat e.toNat (n.toNat + 1) cn s)

/-- PLC.move (R145). -/
def execPlcMove (tier : Tier) (stk : BitVec 3) (e : Reg) (n : BitVec 20) (cn : CtrNo) (s : State) :
    Host.Outcome State Fault Refusal :=
  issue (.plcMove tier stk e n cn) false s (fun s => plcBody true tier stk.toNat e.toNat (n.toNat + 1) cn s)

/-! ### Checkpoint and restore (R137, R138) -/

/-- Bytes of the image: the HBM4E data windows, and LPDDR 6 where the board has it. -/
def imageBytes (s : State) : Nat := 8 * (56 * 2 ^ 30) + (if s.cfg.lpddr then 2 ^ 40 else 0)

/-- The checkpoint tier may be used: named, its port's device persistent, its region large enough. -/
def ckptOk (s : State) : Bool :=
  match s.cfg.ckptPort with
  | none => false
  | some p => mmField s (cxlpStat p) 2 2 == 1 && decide (4096 + imageBytes s ≤ s.cfg.ckptSize)

/-- An operation ends: BUSY clears, DONE is set, ERR too where it failed. Neither bit is cleared by the start of a later operation, for R139
gives them no way but the write of 1: DESIGN CHOICE, log entry 103. -/
def ckptEnd (s : State) (err : Bool) : State :=
  let s := mmPutField (mmPutField (onYo s (fun y => { y with ckpt := none })) yoCkpt 4 4 0) yoCkpt 2 2 1
  if err then mmPutField s yoCkpt 3 3 1 else s

/-- The position in the image of a byte of HBM4E or LPDDR 6. -/
def imagePos (a : Nat) : Option Nat :=
  if a < 0x8000000000 then (if a % 2 ^ 36 < 56 * 2 ^ 30 then some (a / 2 ^ 36 * (56 * 2 ^ 30) + a % 2 ^ 36) else none)
  else if 0x10000000000 ≤ a ∧ a < 0x20000000000 then some (8 * (56 * 2 ^ 30) + (a - 0x10000000000))
  else none

/-- The byte at a position of the image. -/
def imageAddr (p : Nat) : Nat :=
  if p < 8 * (56 * 2 ^ 30) then p / (56 * 2 ^ 30) * 2 ^ 36 + p % (56 * 2 ^ 30) else 0x10000000000 + (p - 8 * (56 * 2 ^ 30))

/-- The header of the checkpoint (R138): TIME at the end is 0 until the last write. -/
def ckptHeader (s : State) (start fin : Nat) : List Byte :=
  [0x43, 0x4B, 0x31, 0x00] ++ leBytes 4 (imageBytes s / 2 ^ 20) ++ leBytes 8 start ++ leBytes 8 fin ++ leBytes 4 s.cfg.version ++
    [if s.cfg.lpddr then 1 else 0]

/-- Every byte of the region lies behind one port that is up: no decoder is committed and the first and last bytes are reached. -/
def regionWhole (s : State) : Bool :=
  let a := s.cfg.ckptBase
  let b := a + 4095 + imageBytes s
  (List.range 8).all (fun k => mmField s (hdmBlock k + 16) 0 0 == 0) && decide (0x100000000000 ≤ a) && decide (b < 0x200000000000) &&
    cxlPort s a == cxlPort s b && !unbacked s a

/-- The sectors of the region, from its first byte on, that cannot be written or read: nothing backs their addresses now (R80). -/
def regionDown (s : State) : List Nat :=
  if regionWhole s then [] else (List.range (64 + imageBytes s / 64)).filter (fun i => unbacked s (s.cfg.ckptBase + 64 * i))

/-- Accesses to lines of the region that nothing backs now, by their sectors: each line's is logged (R60). -/
def logDown (s : State) (down : List Nat) : State :=
  ((down.map (fun i => (s.cfg.ckptBase + 64 * i) / 256)).foldl nsetInsert []).foldl (fun s l => decodeError s (256 * l)) s

/-- The header's 4 KiB go to the region, as far as it can be written (R138). -/
def putHeader (s : State) (down : List Nat) (bs : List Byte) : State :=
  let s := logDown s (down.filter (fun i => decide (i < 64)))
  let b := s.cfg.ckptBase
  let mine (a : Nat) : Bool := decide (b ≤ a) && decide (a < b + 4096) && !down.contains ((a - b) / 64)
  { s with mem := { s.mem with main := (if down.contains 0 then s.mem.main else cellsWrite (s.mem.main.filter (fun c => !mine c.1)) b bs)
                               poison := s.mem.poison.filter (fun k => !mine (64 * k)) } }

/-- A checkpoint starts: its header stands in the region with a zero end, so that an image which a reset interrupts is never restored
(R138). -/
def openRegion (s : State) (start : Nat) : State := putHeader s (regionDown s) (ckptHeader s start 0)

/-- CHECKPOINT (R137, R138): the checks, then the placement pass stops and MIG is refused. A contained device takes no write (R412). -/
def execCheckpoint (s : State) : Host.Outcome State Fault Refusal :=
  event s (fun s =>
    if s.yo.ckpt.isSome ∨ s.contained then s
    else if !ckptOk s then ckptEnd s true
    else mmPutField (onYo (openRegion s s.time) (fun y => { y with ckpt := some (false, s.time, false) })) yoCkpt 4 4 1)

/-- The sectors of a channel of a stack. -/
def channelSectors (k ch : Nat) : List Nat :=
  ((List.range (56 * 2 ^ 22)).filter (fun l => (hbmDecode (256 * l)).ch == ch)).flatMap
    (fun l => (List.range 4).map (fun i => k * 2 ^ 30 + 4 * l + i))

/-- The sectors that the image's reading finds other than clean (R73, R75): those with an error, and those of failed channels. -/
def imageReads (s : State) : List Nat :=
  (s.dram.bad.map (fun e => e.1)).filter (fun k => (imagePos (64 * k)).isSome) ++ s.dram.failed.flatMap (fun f => channelSectors f.1 f.2)

/-- Copy the image to the region, every sector as its controller reads it and with its poison marker, but for the sectors that cannot be
written; the end in the header comes last, and stays zero where a write has failed (R137, R138). -/
def saveImage (s : State) (start fin : Nat) : State :=
  let s := (imageReads s).foldl (fun s k => readSector s (64 * k)) s
  let b := s.cfg.ckptBase
  let n := imageBytes s
  let down := regionDown s
  let up (a : Nat) : Bool := !down.contains ((a - b) / 64)
  let cells := (s.mem.main.filterMap (fun c => (imagePos c.1).map (fun p => (b + 4096 + p, c.2)))).filter (fun c => up c.1)
  let pois := (s.mem.poison.filterMap (fun k => (imagePos (64 * k)).map (fun p => (b + 4096 + p) / 64))).filter (fun k => up (64 * k))
  let mine (a : Nat) : Bool := decide (b + 4096 ≤ a) && decide (a < b + 4096 + n) && up a
  let kept := s.mem.main.filter (fun c => !mine c.1)
  let keptP := s.mem.poison.filter (fun k => !mine (64 * k))
  let s := { s with mem := { s.mem with main := cells.foldl (fun m c => smapSet 0 m c.1 c.2) kept, poison := pois.foldl nsetInsert keptP } }
  putHeader (logDown s (down.filter (fun i => decide (64 ≤ i)))) down (ckptHeader s start (if down.isEmpty then fin else 0))

/-- CHECKPOINT_DONE (R137, R138): every move has ended; the Jigsaw and the parity buffers are written back and the image is
copied. A write that fails leaves ERR. -/
def execCheckpointDone (s : State) : Host.Outcome State Fault Refusal :=
  event s (fun s =>
    match s.yo.ckpt with
    | some (false, start, _) =>
      if s.yo.moves.any (fun m => m.st != .released) then s
      else
        let s := flushParity (jgFlush s)
        ckptEnd (saveImage s start s.time) (!(regionDown s).isEmpty)
    | _ => s)

/-- The header in the region is one to restore on this device (R138); bytes that cannot be read are zero (R60). -/
def headerOk (s : State) : Bool :=
  let h := if unbacked s s.cfg.ckptBase then List.replicate 29 0 else cellsRead s.mem.main s.cfg.ckptBase 29
  h.take 4 == [0x43, 0x4B, 0x31, 0x00] && leNat ((h.drop 4).take 4) == imageBytes s / 2 ^ 20 && leNat ((h.drop 16).take 8) != 0 &&
    leNat ((h.drop 24).take 4) == s.cfg.version && leNat ((h.drop 28).take 1) == (if s.cfg.lpddr then 1 else 0)

/-- The read of the header, logged where nothing backs it (R60). -/
def readHeader (s : State) : State := if unbacked s s.cfg.ckptBase then decodeError s s.cfg.ckptBase else s

/-- Memory of HBM4E and LPDDR 6 filled with zeros (R77). -/
def zeroFill (s : State) : State :=
  { s with mem := { s.mem with main := s.mem.main.filter (fun c => (imagePos c.1).isNone)
                               poison := s.mem.poison.filter (fun k => (imagePos (64 * k)).isNone) }
           dram := { s.dram with bad := [], parityQ := [], parityErr := [], parityBad := [] } }

/-- The image in place of the zero fill. A sector that cannot be read gets the poison marker, and is logged (R60). -/
def loadImage (s : State) : State :=
  let b := s.cfg.ckptBase + 4096
  let n := imageBytes s
  let z := zeroFill s
  let down := (regionDown s).filter (fun i => decide (64 ≤ i))
  let inImage (a : Nat) : Bool := decide (b ≤ a) && decide (a < b + n) && !down.contains ((a - s.cfg.ckptBase) / 64)
  let cells := s.mem.main.filterMap (fun c => if inImage c.1 then some (imageAddr (c.1 - b), c.2) else none)
  let pois := s.mem.poison.filterMap (fun k => if inImage (64 * k) then some (imageAddr (64 * k - b) / 64) else none) ++
    down.map (fun i => imageAddr (64 * i - 4096) / 64)
  logDown { z with mem := { z.mem with main := cells.foldl (fun m c => smapSet 0 m c.1 c.2) z.mem.main
                                       poison := pois.foldl nsetInsert z.mem.poison } } down

/-- RESTORE (R137, R138): before memory is ready; a check that fails leaves the zero fill to run. -/
def execRestore (s : State) : Host.Outcome State Fault Refusal :=
  event s (fun s =>
    if s.yo.ckpt.isSome ∨ s.dram.ready ∨ s.contained then s
    else if !ckptOk s then ckptEnd s true
    else if !headerOk s then ckptEnd (readHeader s) true
    else mmPutField (onYo s (fun y => { y with ckpt := some (true, s.time, false) })) yoCkpt 4 4 1)

/-- Memory is reported ready; the failed channels that the record names are logged, once (R75, R77). -/
def reportReady (s : State) : State :=
  s.cfg.failed.foldl (fun s (kc : Nat × Nat) => logError s ⟨kc.2, noOwner, 0, kc.1, 1, 10, 0⟩)
    (mmPutField { s with dram := { s.dram with ready := true } } mgmtStat 1 1 1)

/-- RESTORE_DONE (R137, R138): the image is in memory, and memory is ready. -/
def execRestoreDone (s : State) : Host.Outcome State Fault Refusal :=
  event s (fun s =>
    match s.yo.ckpt with
    | some (true, _, _) => reportReady (ckptEnd (loadImage s) ((regionDown s).any (fun i => decide (64 ≤ i))))
    | _ => s)

end Sys2Proof.Machine
end

