-- ==== Sys2Proof/Machine/MemCtl.lean ====
section
/-! DEFINITION. The memory controllers' own steps: refresh (R68 to R70), line reads and writes (R60, R62, R72 to R74), failed
channels (R75), the patrol scrubber (R76), and the CXL ports (R79, R80). -/

namespace Sys2Proof.Machine

/-! ### Refresh -/

/-- tREFIpb, the stagger, tRFCpb and tRFCab of a block (R64, R78). -/
def refi (blk : Nat) : Nat := if blk = 8 then Config.lpddrRefi else 3315
/-- The stagger between banks. -/
def stagger (blk : Nat) : Nat := if blk = 8 then Config.lpddrStagger else 207
/-- tRFCpb. -/
def rfcPb (blk : Nat) : Nat := if blk = 8 then Config.lpddrRfcPb else 136
/-- tRFCab. -/
def rfcAb (blk : Nat) : Nat := if blk = 8 then Config.lpddrRfcAb else 298

/-- The cycle of due point `k` after the epoch, k = 16 n + b (R68). -/
def dueAt (blk k : Nat) : Nat := k / 16 * refi blk + k % 16 * stagger blk

/-- A bank has a request queued, or is reserved. -/
def bankBusy (s : State) (bank : Nat) : Bool := bankReserved s bank || s.dram.writeQ.any (fun w => w.2.1 == bank)

/-- The streams that hold a reservation in a pseudo-channel, in ascending bank order. -/
def pcStreams (s : State) (n : Nat) : List Reserve :=
  (List.range 16).filterMap (fun b => s.dram.reserves.find? (fun r => r.held && pcNumber r.stack r.ch r.pc == n && r.bank == b))

/-- A forced burst of a pseudo-channel starts (R69): a stream ends its sector in the next cycle and is suspended, PREab follows, and the nine
REFab come tRP = 12 cc later; the streams' rows are reopened after it, one in 2 cc, and each column command comes tRCD = 12 cc later.
A stream between two rows has completed its last sector up to 26 cc before (R458; how many is free: log entry 2), and its stall runs from
then (R70). Queued writes wait. The LPDDR 6 block's device gives no precharge and activate times (R78): HBM4E's 12 cc stand for them.
DESIGN CHOICE, log entry 8. -/
def startBurst (s : State) (n : Nat) : State :=
  let rs := pcStreams s n
  let pre := s.cc + (if rs.isEmpty then 0 else 1)
  let since (r : Reserve) : Nat := pre - Config.sectorGap s.tick (16 * n + r.bank) % 27
  let fin := pre + 12 + 9 * rfcAb (n / 64)
  let place (r : Reserve) : Nat := (rs.takeWhile (fun x => x.bank != r.bank)).length
  let s := onDram s (fun d =>
    { d with burst := d.burst ++ [(n, s.cc, fin)]
             reserves := d.reserves.map (fun r =>
               if r.held ∧ pcNumber r.stack r.ch r.pc = n then { r with susp := some (since r, fin + 12 + 2 * place r) } else r) })
  if s.dram.writeQ.any (fun w => w.1 == n) then noteWait s n fin else s

/-- The due point that a block comes to next, with its pseudo-channel: none before link training. -/
def nextDue (s : State) (blk : Nat) : Option (Nat × Nat × Nat) :=
  match s.dram.epoch[blk]? with
  | some (some e) => some (e + dueAt blk (s.dram.dueIdx.getD blk 0), s.dram.duePc.getD blk 0, s.dram.dueIdx.getD blk 0 % 16)
  | _ => none

/-- A block goes on to its next pseudo-channel, or to its next due point. -/
def advanceDue (s : State) (blk : Nat) : State :=
  onDram s (fun d =>
    let p := d.duePc.getD blk 0
    if p + 1 < 64 then { d with duePc := listSet d.duePc blk (p + 1) }
    else { d with duePc := listSet d.duePc blk 0, dueIdx := listSet d.dueIdx blk (d.dueIdx.getD blk 0 + 1) })

/-- MCPCSTAT of a pseudo-channel number. -/
def pcStatOf (n : Nat) : Nat := mcPcStat (n / 64) (n / 2 % 32) (n % 2)

/-- REFRESH_DUE (R68): a bank's refresh falls due: forced burst, postponement, or a queued REFpb. One that falls due at debt 8 while its
pseudo-channel is in a burst already is met by that burst, which starts no second one and counts once in FORCED: DESIGN CHOICE, log
entry 8. -/
def execRefreshDue (stack pc bank : Nat) (s : State) : Host.Outcome State Fault Refusal :=
  event s (fun s =>
    match nextDue s stack with
    | none => s
    | some (at_, p, b) =>
      if p ≠ pc ∨ b ≠ bank ∨ s.cc < at_ then s
      else
        let s := advanceDue s stack
        let n := 64 * stack + pc
        let k := 16 * n + bank
        let debt := smapGet 0 s.dram.debt k
        if 8 ≤ debt then
          if inBurst s n then s else mmAdd (startBurst s n) (pcStatOf n) 31 16 1
        else if bankBusy s k then onDram s (fun d => { d with debt := smapSet 0 d.debt k (debt + 1) })
        else onDram s (fun d => { d with queued := d.queued ++ [k] }))

/-- The bank that a pseudo-channel refreshes next (R68): a queued REFpb, the earliest due first; else the highest debt. -/
def nextRefresh (s : State) (n : Nat) : Option (Nat × Bool) :=
  match s.dram.queued.find? (fun k => k / 16 == n && !bankBusy s k) with
  | some k => some (k, true)
  | none =>
    ((List.range 16).foldl (fun (b : Option Nat) i =>
      let k := 16 * n + i
      let d := smapGet 0 s.dram.debt k
      if d = 0 ∨ bankBusy s k then b
      else match b with
        | none => some k
        | some x => if smapGet 0 s.dram.debt x < d then some k else some x) none).map (fun k => (k, false))

/-- A REFpb is in progress on a pseudo-channel. -/
def inRefpb (s : State) (n : Nat) : Bool := s.dram.refpb.any (fun r => r.1 / 16 == n && decide (s.cc < r.2))

/-- REFPB_ISSUE (R68): with none in progress, the next ready bank is refreshed. -/
def execRefpbIssue (stack pc : Nat) (s : State) : Host.Outcome State Fault Refusal :=
  event s (fun s =>
    let n := 64 * stack + pc
    if inRefpb s n || inBurst s n then s
    else
      match nextRefresh s n with
      | none => s
      | some (k, queued) =>
        onDram s (fun d =>
          { d with
            refpb := (d.refpb.filter (fun r => r.1 / 16 ≠ n)) ++ [(k, s.cc + rfcPb stack)]
            queued := if queued then d.queued.erase k else d.queued
            debt := if queued then d.debt else smapSet 0 d.debt k (smapGet 0 d.debt k - 1) }))

/-- Add to the latency counter of a job entry (R70, R213). -/
def addLatency (s : State) (die entry n : Nat) : State :=
  { s with jobs := { s.jobs with list := s.jobs.list.map (fun j =>
      if j.die = die ∧ j.entry = entry then { j with latency := Min.min (j.latency + n) (2 ^ 32 - 1) } else j) } }

/-- A reservation's suspension is charged to its stream's latency counter up to a cycle (R70). -/
def chargeSusp (s : State) (upto : Nat) (r : Reserve) : State :=
  match r.susp with
  | some (a, b) => addLatency s r.die r.job (Min.min upto b - a)
  | none => s

/-- The streams whose column command has come resume: their stall is charged, their rows go on that much later, and their time without a sector
counts from here (R69, R70, R213, R458). -/
def resumeStreams (s : State) : State :=
  let ended (r : Reserve) : Bool := match r.susp with | some (_, b) => decide (b ≤ s.cc) | none => false
  let s := (s.dram.reserves.filter ended).foldl (fun s r => chargeSusp s s.cc r) s
  onDram s (fun d => { d with reserves := d.reserves.map (fun r => match r.susp with
    | some (a, b) => if b ≤ s.cc then { r with susp := none, last := Max.max r.last b, next := r.next + (b - a) } else r
    | none => r) })

/-- How many of the cycles from `lo` to before `hi` the intervals of a list cover; the list is in order of their starts. -/
def coveredCycles : Nat → Nat → List (Nat × Nat) → Nat
  | _, _, [] => 0
  | lo, hi, (a, b) :: t =>
    let a := Max.max a lo
    let b := Min.min b hi
    if a < b then b - a + coveredCycles b hi t else coveredCycles lo hi t

/-- Insert an interval by its start. -/
def insertStart (x : Nat × Nat) : List (Nat × Nat) → List (Nat × Nat)
  | [] => [x]
  | y :: t => if x.1 ≤ y.1 then x :: y :: t else y :: insertStart x t

/-- RFSTALL of every pseudo-channel counts the cycles from `lo` to now in which a request or stream waited on a refresh (R70). -/
def refreshStalls (s : State) (lo : Nat) : State :=
  let sus := s.dram.reserves.filterMap (fun r => r.susp.map (fun x => (pcNumber r.stack r.ch r.pc, x)))
  -- A reservation that is not granted waits out the refresh of its bank, or the burst of its pseudo-channel.
  let held := (s.dram.reserves.filter (fun r => !r.held)).flatMap (fun r =>
    let n := pcNumber r.stack r.ch r.pc
    (s.dram.burst.filter (fun b => b.1 == n)).map (fun b => (n, b.2)) ++
      (s.dram.refpb.filter (fun x => x.1 == 16 * n + r.bank)).map (fun x => (n, (x.2 - rfcPb r.stack, x.2))))
  let all := s.dram.refWait ++ sus ++ held
  let s := ((all.map (fun w => w.1)).foldl nsetInsert []).foldl (fun s n =>
    let n' := coveredCycles lo s.cc (((all.filter (fun w => w.1 == n)).map (fun w => w.2)).foldl (fun l x => insertStart x l) [])
    if n' = 0 then s else mmAdd s (pcStatOf n) 63 32 n') s
  onDram s (fun d => { d with refWait := d.refWait.filter (fun w => decide (s.cc < w.2.2)) })

/-- REFRESH_BURST_END (R69): the debts are cleared; the suspended streams resume at their column commands (`resumeStreams`). -/
def execRefreshBurstEnd (stack pc : Nat) (s : State) : Host.Outcome State Fault Refusal :=
  event s (fun s =>
    let n := 64 * stack + pc
    match s.dram.burst.find? (fun b => b.1 == n) with
    | none => s
    | some (_, _, fin) =>
      if s.cc < fin then s
      else onDram s (fun d =>
        { d with burst := d.burst.filter (fun b => b.1 ≠ n)
                 debt := (List.range 16).foldl (fun m b => smapSet 0 m (16 * n + b) (smapGet 0 m (16 * n + b) - 9)) d.debt }))

/-! ### Reads and writes of lines -/

/-- LINE_READ (R60, R73, R75, R78, R79): the controller reads the line of an address. -/
def execLineRead (pa : Nat) (s : State) : Host.Outcome State Fault Refusal := event s (fun s => touchRead s (pa / 256 * 256) 256)

/-- LINE_WRITE (R60, R72, R74): the controller writes bytes from an address to the end of its line at most. -/
def execLineWrite (pa : Nat) (data : List Byte) (s : State) : Host.Outcome State Fault Refusal :=
  event s (fun s =>
    let bs := data.take (256 - pa % 256)
    physWrite (homeLine (l1Recall s 768 pa) pa bs.length true false false) pa bs)

/-- WRITE_QUEUE_DRAIN (R62): a queue that does not drain starts to, for no read is pending; one that does performs its oldest write that need
not wait (R66, R68, R69), and stops when it falls to 16 entries or is empty. -/
def execWriteQueueDrain (block pc : Nat) (s : State) : Host.Outcome State Fault Refusal :=
  event s (fun s =>
    let n := 64 * block + pc
    let own := s.dram.writeQ.filter (fun w => w.1 == n)
    if own.isEmpty then onDram s (fun d => { d with draining := nsetErase d.draining n })
    else if s.dram.draining.contains n then
      match own.find? (fun w => !writeBlocked s w) with
      | none => s
      | some w => onDram s (fun d =>
          { d with writeQ := d.writeQ.erase w
                   draining := if own.length = 17 ∨ own.length = 1 then nsetErase d.draining n else d.draining })
    else onDram s (fun d => { d with draining := nsetInsert d.draining n }))

/-! ### Failed channels and the scrubber -/

/-- CHANNEL_FAILED (R75): a channel whose rebuilds reach 256 in one patrol pass, or which has failed link training at the cold reset, is
declared failed. -/
def execChannelFailed (block ch : Nat) (s : State) : Host.Outcome State Fault Refusal :=
  event s (fun s =>
    if block < 8 ∧ ch < 32 ∧
        (256 ≤ smapGet 0 s.dram.rbPass (32 * block + ch) ∨ (!s.dram.ready ∧ Config.trainFails s.tick (32 * block + ch))) then
      declareFailed s block ch
    else s)

/-- FAILED (R75, R82): software sets MCCHSTAT.FAILED; block 8 has no such bit, and a contained device takes no write (R412). -/
def execFailed (block ch : Nat) (s : State) : Host.Outcome State Fault Refusal :=
  event s (fun s => if block < 8 ∧ ch < 32 ∧ !s.contained then declareFailed s block ch else s)

/-- Parity lines of a stack: one for each stripe of seven data lines. -/
def parityLines : Nat := 56 * 2 ^ 30 / 1792

/-- Lines that the scrubber visits in a pass: every data line, and every parity line of the stacks (R76). -/
def scrubLines (s : State) : Nat := imageBytes s / 256 + 8 * parityLines

/-- The scrubber reads line number `p` of its pass. -/
def scrubLine (s : State) (p : Nat) : State :=
  let n := imageBytes s / 256
  (List.range 4).foldl (fun s i =>
    if p < n then readSector s (imageAddr (256 * p) + 64 * i)
    else readParity s ((p - n) / parityLines) ((p - n) % parityLines) i) s

/-- The TIME by which the scrubber comes to its next line, at one pass in 12 h (R76). -/
def scrubDue (s : State) : Nat := s.dram.scrubStart + s.dram.scrubPos * 43200000000000 / scrubLines s

/-- PATROL_SCRUB (R76): the scrubber reads its next line, correcting it; a new pass counts rebuilds afresh (R75). -/
def execPatrolScrub (s : State) : Host.Outcome State Fault Refusal :=
  event s (fun s =>
    if s.time < scrubDue s ∨ !s.dram.ready then s
    else
      let s := scrubLine s s.dram.scrubPos
      onDram s (fun d =>
        if d.scrubPos + 1 < scrubLines s then { d with scrubPos := d.scrubPos + 1 }
        else { d with scrubPos := 0, scrubStart := s.time, rbPass := [] }))

/-! ### CXL ports (R79, R80) -/

/-- The legal values of a decoder. -/
def hdmLegal (s : State) (k : Nat) : Bool :=
  let base := mmField s (hdmBlock k) 51 28
  let size := mmField s (hdmBlock k + 8) 51 28
  let ways := 2 ^ mmField s (hdmBlock k + 16) 4 3
  size != 0 && size % ways == 0 && decide (0x100000000000 ≤ base * 2 ^ 28) && decide ((base + size) * 2 ^ 28 ≤ 0x200000000000)

/-- Commit a decoder, or refuse with ERR. A commit that succeeds later leaves ERR as it is: the spec clears it nowhere. DESIGN CHOICE, log
entry 8. -/
def hdmCommit (s : State) (k : Nat) : State :=
  if mmField s (hdmBlock k + 16) 0 0 = 1 then s
  else if hdmLegal s k then mmPutField s (hdmBlock k + 16) 0 0 1
  else mmPutField s (hdmBlock k + 16) 1 1 1

/-- HDM_COMMIT (R80): a legal decoder comes into force; otherwise ERR is set. A contained device takes no write (R412). -/
def execHdmCommit (k : Nat) (s : State) : Host.Outcome State Fault Refusal := event s (fun s => if k < 8 ∧ !s.contained then hdmCommit s k else s)

/-- HDM_UNCOMMIT (R80). -/
def execHdmUncommit (k : Nat) (s : State) : Host.Outcome State Fault Refusal :=
  event s (fun s => if k < 8 ∧ !s.contained then mmPutField s (hdmBlock k + 16) 0 0 0 else s)

/-- VIRAL_INDICATION (R79, R411): fatal. -/
def execViralIndication (port : Nat) (s : State) : Host.Outcome State Fault Refusal :=
  event s (fun s => fatalError (mmPutField s (cxlpStat port) 3 3 1) ⟨0, noOwner, 7, port, 2, 7, 0⟩)

/-- CXL_LINK_TRAINED (R80): LINKUP; T3 where a Type 3 device is enumerated on the port, and PMEM where that device exposes a persistent
region, as the device on the port says (log entry 5). -/
def execCxlLinkTrained (port : Nat) (s : State) : Host.Outcome State Fault Refusal :=
  event s (fun s =>
    let d := Config.cxlDevice s.tick port
    let s := mmPutField (mmPutField s (cxlpStat port) 0 0 1) (cxlpStat port) 1 1 (d % 2)
    mmPutField s (cxlpStat port) 2 2 (if d % 2 = 1 then d / 2 % 2 else 0))

end Sys2Proof.Machine
end

