-- ==== Sys2Proof/Machine/Tiles.lean ====
section
/-! DEFINITION. The tensor table and the tile instructions (R147 to R166). -/

namespace Sys2Proof.Machine

/-! ### Traps and traffic of gang-wide instructions -/

/-- A trap with the arm's whole mask as its faulting lanes, each with the fault state of the one access (R160, R314, R343). -/
def wideTrap (g : Gang) (t : Trap) : Trap :=
  { t with lanes := g.arm.mask
           recs := match t.recs with
             | r :: _ => (laneList g.arm.mask).map (fun l => { r with lane := l })
             | [] => [] }

/-- The translation of a tile's line: canonical form and the aperture area first (R85, R86, R104), then the tables. A line that has come to lie
in the aperture area since TREG, which refuses such a span, is no global memory: Protection 0x0D (log entry 100). -/
def lineXlat (s : State) (va n : Nat) (kind : AccKindF) : Xlat :=
  let p := apCtx s
  if !canonical va then ⟨some (causeProtection, 0x0B), 0, 0, 0, none⟩
  else if inArea p va ∨ inArea p (va + n - 1) then ⟨some (causeProtection, 0x0D), 0, 0, 0, none⟩
  else xlate s (armAgent s) va kind (pickCached s (va / 256 % 96))

/-- The checks of R104 steps 2 to 4 for one global range of at most a line, for the arm's whole mask. -/
def lineCheck (s : State) (va n : Nat) (kind : AccKindF) : Except Trap Piece :=
  let x := lineXlat s va n kind
  match x.fault with
  | some (c, r) => .error (armTrap s.gang c r va kind)
  | none => .ok ⟨0, va, n, x⟩

/-- The pieces of several ranges, or the first fault with the translations up to it. -/
def linesCheck (s : State) (kind : AccKindF) : List (Nat × Nat) → Except (Trap × List (Nat × Xlat)) (List Piece)
  | [] => .ok []
  | (va, n) :: t =>
    match lineCheck s va n kind with
    | .error e => .error (e, [(va, lineXlat s va n kind)])
    | .ok p =>
      match linesCheck s kind t with
      | .error e => .error (e.1, (va, p.x) :: e.2)
      | .ok ps => .ok (p :: ps)

/-- The demand access of a gang-wide instruction to global lines, the first at its lowest address (R119). -/
def lineHeat (s : State) (vas : List Nat) : State :=
  match vas with
  | va :: _ => sampleHeat s s.gang.core s.gang.ctx va (Min.min 16 vas.length)
  | [] => s

/-- A core's or unit's line write on behalf of a launch: capture and snapshot first (R415, R417). -/
def launchWrite (s : State) (launch pa va : Nat) : State := snapshot (captureTouch s launch false pa va) launch false pa

/-- The lines of a tile instruction pass their checks in ascending order, or the first that fails traps (R160, R104); their translations are
made together (R101), and their demand accesses credited and watched (R119, R423). -/
def withTileLines (s : State) (kind : AccKindF) (ls : List (Nat × Nat)) (f : List Piece → State → Exe) : Exe :=
  match linesCheck s kind ls with
  | .error e => .trap e.1 (xlFaults s (armAgent s) e.2)
  | .ok ps =>
    let t := xlCommits s (armAgent s) kind (ps.map (fun q => (q.va, q.x)))
    if walkersPast s t then .stall 14 s
    else f ps (noteWatch (lineHeat t (ps.map (fun q => q.va))) ls kind)

/-! ### Tensors (R148 to R151) -/

/-- A tensor as its record gives it. -/
structure Tensor where
  base : Nat
  e0 : Nat
  e1 : Nat
  e2 : Nat
  e3 : Nat
  s1 : Nat
  s2 : Nat
  s3 : Nat
  es : Nat
  dims : Nat
  shape : Nat
  deriving DecidableEq, Repr

/-- A field of a record. -/
def recNat (bs : List Byte) (o n : Nat) : Nat := leNat ((bs.drop o).take n)

/-- Read a record (R148). -/
def tensorOf (bs : List Byte) : Tensor :=
  { base := recNat bs 0 8, e0 := recNat bs 8 4, e1 := recNat bs 12 4, e2 := recNat bs 16 4, e3 := recNat bs 20 4,
    s1 := recNat bs 24 8, s2 := recNat bs 32 8, s3 := recNat bs 40 8, es := 2 ^ recNat bs 48 1, dims := recNat bs 49 1,
    shape := recNat bs 50 1 }

/-- TW and TH of a shape code (R149). -/
def tileShape : Nat → Option (Nat × Nat)
  | 0 => some (1, 4) | 1 => some (2, 2) | 2 => some (4, 1) | 3 => some (1, 8) | 4 => some (2, 4) | 5 => some (4, 2)
  | 6 => some (1, 16) | 7 => some (2, 8) | 8 => some (4, 4) | _ => none

/-- TW. -/
def tileW (t : Tensor) : Nat := ((tileShape t.shape).getD (1, 1)).1
/-- TH. -/
def tileH (t : Tensor) : Nat := ((tileShape t.shape).getD (1, 1)).2
/-- RB, the row bytes. -/
def rowBytes (t : Tensor) : Nat := (t.e0 * t.es + 255) / 256 * 256
/-- R, the folded rows. -/
def foldedRows (t : Tensor) : Nat := t.e1 * t.e2 * t.e3
/-- TR. -/
def tileRows (t : Tensor) : Nat := (foldedRows t + tileH t - 1) / tileH t
/-- TC. -/
def tileCols (t : Tensor) : Nat := (rowBytes t / 256 + tileW t - 1) / tileW t
/-- LAST (R150). -/
def tensorLast (t : Tensor) : Nat := t.base + (t.e3 - 1) * t.s3 + (t.e2 - 1) * t.s2 + (t.e1 - 1) * t.s1 + rowBytes t - 1

/-- A span ends at or below the top of the canonical space and outside the aperture area (R150). One that begins below 2^56 and runs on past it
leaves the canonical space and is refused: the rule does not name that case. DESIGN CHOICE, log entry 96. -/
def spanOk (p : ApCtx) (a last : Nat) : Bool :=
  canonical a && (if a < 2 ^ 63 then decide (last < 2 ^ 56) else decide (last < 2 ^ 64)) &&
    !(decide (a % 2 ^ 57 < (p.apVa + 1) * 2 ^ 40) && decide (p.apVa * 2 ^ 40 ≤ a % 2 ^ 57 + (last - a)))

/-- A record is well formed (R148 to R150). -/
def tensorOk (p : ApCtx) (bs : List Byte) : Bool :=
  let t := tensorOf bs
  t.base % 256 == 0 && decide (1 ≤ t.dims) && decide (t.dims ≤ 4) && decide (recNat bs 48 1 ≤ 3) && (tileShape t.shape).isSome &&
    (bs.drop 51).all (fun b => b == 0) && decide (1 ≤ t.e0) &&
    (if 2 ≤ t.dims then decide (1 ≤ t.e1) && t.s1 % 256 == 0 && decide (rowBytes t ≤ t.s1) else t.e1 == 1 && t.s1 == 0) &&
    (if 3 ≤ t.dims then decide (1 ≤ t.e2) && t.s2 % 256 == 0 && decide (t.e1 * t.s1 ≤ t.s2) else t.e2 == 1 && t.s2 == 0) &&
    (if t.dims = 4 then decide (1 ≤ t.e3) && t.s3 % 256 == 0 && decide (t.e2 * t.s2 ≤ t.s3) else t.e3 == 1 && t.s3 == 0) &&
    decide (tileRows t < 2 ^ 32) && decide (tileCols t < 2 ^ 32) && spanOk p t.base (tensorLast t)

/-- The line at folded row `r` and column line `c` is in extent (R151). -/
def lineIn (t : Tensor) (r c : Nat) : Bool := decide (r < foldedRows t) && decide (c * 256 < t.e0 * t.es)

/-- The address of a line (R151), modulo 2^64. -/
def lineVa (t : Tensor) (r c : Nat) : Nat :=
  (t.base + r / (t.e1 * t.e2) * t.s3 + r / t.e1 % t.e2 * t.s2 + r % t.e1 * t.s1 + 256 * c) % 2 ^ 64

/-- The bytes of a line that are in extent (R152). -/
def lineBytes (t : Tensor) (c : Nat) : Nat := Min.min 256 (t.e0 * t.es - c * 256)

/-- The key of a line, by folded row and column line (R151, R153). -/
def lineKey (ctx id : Nat) (t : Tensor) (r c : Nat) : JKey :=
  .tile ctx id (r / tileH t) (c / tileW t) (r % tileH t * tileW t + c % tileW t)

/-- The lines of a tile in ascending order: row and column in the tile, folded row and column line. -/
def tileLines (t : Tensor) (tr tc : Nat) : List (Nat × Nat × Nat × Nat) :=
  (List.range (tileH t)).flatMap (fun j => (List.range (tileW t)).map (fun i => (j, i, tr * tileH t + j, tc * tileW t + i)))

/-! ### The tensor table (R147) -/

/-- The physical address of an entry of a context's table. -/
def entryPa (s : State) (ctx id : Nat) : Nat := ctxTtab s ctx * 4096 + 64 * id

/-- The 64 bytes of an entry. -/
def entryRec (s : State) (ctx id : Nat) : List Byte := physBytes s (entryPa s ctx id) 64

/-- The state of an id: 0 Free, 1 Registered, 2 and 3 Retiring. -/
def idState (s : State) (ctx id : Nat) : Nat := if id = 0 ∨ 4096 ≤ id then 0 else recNat (entryRec s ctx id) 51 1

/-- TREG, TUNREG, TINV and the ends of sweeps take turns at a context's table (R161): each comes after the last in the memory order, as by a
write of its first line, which holds the entry that is never used (R147). -/
def tableTurn (s : State) (ag ctx : Nat) : State := orderWrite s ag (entryPa s ctx 0)

/-- A tile instruction reads its id's entry at its logical time (R157, R158). -/
def entryRead (s : State) (ctx id : Nat) : State := orderRead (l1Recall s 768 (entryPa s ctx id)) (armNo s) (entryPa s ctx id)

/-- Put an id in a state, as agent `ag`. -/
def setIdState (s : State) (ag ctx id st : Nat) : State := homeWrite s ag (entryPa s ctx id + 51) [BitVec.ofNat 8 st]

/-- The tensor of an id, as its entry copies it. -/
def tensorAt (s : State) (ctx id : Nat) : Tensor := tensorOf (entryRec s ctx id)

/-- The lowest Free id. -/
def freeId (s : State) (ctx : Nat) : Option Nat := (natRange 1 4095).find? (fun i => idState s ctx i == 0)

/-- A span overlaps that of a Registered or Retiring tensor (R150). -/
def spanTaken (s : State) (ctx : Nat) (t : Tensor) : Bool :=
  (natRange 1 4095).any (fun i => idState s ctx i != 0 &&
    (let u := tensorAt s ctx i; decide (t.base ≤ tensorLast u) && decide (u.base ≤ tensorLast t)))

/-- The status of TREG, and the id it takes (R161). -/
def tregStatus (s : State) (p : ApCtx) (ctx id : Nat) (bs : List Byte) (poisoned : Bool) : Int × Option Nat :=
  if poisoned ∨ !tensorOk p bs then (-5, none)
  else if id ≠ 0 ∧ idState s ctx id = 1 then (-1, none)
  else if id ≠ 0 ∧ idState s ctx id ≠ 0 then (-2, none)
  else match (if id = 0 then freeId s ctx else some id) with
    | none => (-3, none)
    | some n => if spanTaken s ctx (tensorOf bs) then (-4, none) else (n, some n)

/-- TREG (R161). -/
def tregBody (d e id : Nat) (cn : CtrNo) (s : State) : Exe :=
  withCtr cn s (fun s0 =>
    let s := s0
    let a := (readS64 s.gang e).toNat
    let ctx := s.gang.ctx
    match checkAccess s (armAgent s) (apCtx s) 0 64 .read [⟨0, a, 64⟩] with
    | .error t => .trap (wideTrap s.gang t) (faultMarks s (armAgent s) (apCtx s) 0 64 .read [⟨0, a, 64⟩])
    | .ok cs =>
      if pastBound s cs false then .stall 14 s else
      let s := noteWatch (creditAccess (commitXlat s (armAgent s) .read cs) false ⟨0, 0, 0⟩ cs) [(a, 64)] .read
      let r := match cs with | c :: _ => readChecked s c .bypass | [] => ([], none, s)
      let s := tableTurn r.2.2 (armNo s) ctx
      let st := tregStatus s (apCtx s) ctx id r.1 r.2.1.isSome
      let s := match st.2 with
        | some n => tableTurn (homeWrite s (armNo s) (entryPa s ctx n) (r.1.take 51 ++ [1] ++ List.replicate 12 0)) (armNo s) ctx
        | none => s
      let o := startOp s cn .mem [⟨false, d, 0, BitVec.ofInt 32 st.1⟩] [(false, d, ⟨-5, 4095⟩)] true
      boundedExe s0 (.ok (match r.2.1 with
        | some p => o.2.2.onGang (fun g => addPend g ⟨cn.toNat, o.2.1.toNat, causePoison, 1, BitVec.ofNat 64 p.1, p.2, 0⟩)
        | none => o.2.2)))

/-- TREG (R161). -/
def execTreg (d e : Reg) (id : BitVec 12) (cn : CtrNo) (s : State) : Host.Outcome State Fault Refusal :=
  issue (.treg d e id cn) false s (fun s => tregBody d.toNat e.toNat id.toNat cn s)

/-! ### Checks of the tile instructions (R160) -/

/-- The id that a descriptor names, where it is Registered: its tensor, or Protection 0x0E. The entry is read at the instruction's logical time, so
that one later than the id's leaving Registered finds it so, and an earlier one does not (R158). -/
def withTensor (aa : DescNo) (kind : AccKindF) (s0 : State) (f : Nat → Tensor → State → Exe) : Exe :=
  withDesc aa s0 (fun s =>
    let id := descTid (readA s.gang aa.toNat)
    let s := entryRead s s.gang.ctx id
    boundedExe s0 (if idState s s.gang.ctx id = 1 then f id (tensorAt s s.gang.ctx id) s
      else .trap (armTrap s.gang causeProtection 0x0E 0 kind) s))

/-- The first byte of an image past the team's scratchpad, where there is one. -/
def imageBeyond (p : ApCtx) (o pitch row rows : Nat) : Option Nat :=
  if o + (rows - 1) * pitch + row ≤ p.scrSize then none else some (Max.max o p.scrSize)

/-- The checks of R160 on a scratchpad image: rows of `row` bytes at `pitch`. FADDR is 0 under 0x0E, the first scratchpad offset beyond the
allocation under 0x0C, and the image's offset under 0x0F and Misaligned, for no rule states it: DESIGN CHOICE, log entry 100. -/
def imageCheck (s : State) (o pitchField pitch row rows : Nat) (kind : AccKindF) : Option Trap :=
  match imageBeyond (apCtx s) o pitch row rows with
  | some a => some (armTrap s.gang causeProtection 0x0C a kind)
  | none =>
    if pitchField ≠ 0 ∧ pitch < row then some (armTrap s.gang causeProtection 0x0F o kind)
    else if o % 4 ≠ 0 then some (plainTrap s.gang causeMisaligned 0 o)
    else none

/-- Row pitch in bytes: 4 × PITCH, or the row's width (R160, R163). -/
def rowPitch (pitch row : Nat) : Nat := if pitch = 0 then row else 4 * pitch

/-- The sectors of a line that read poisoned, as sector indices. -/
def poisonOf (s : State) (pa : Nat) : List Nat := (List.range 4).filter (fun i => physPoison s (pa + 64 * i) 64)

/-- A tile read of one line (R155, R162): its 256 bytes with poisoned sectors zero, and the first poisoned sector. -/
def tileRead (na : Bool) (k : JKey) (q : Piece) (s : State) : List Byte × Option (Nat × Nat) × State :=
  let s := captureTouch (orderRead (l1Recall s 768 q.x.pa) (armNo s) q.x.pa) s.gang.launch false q.x.pa q.va
  let s := if na ∧ (jgFind s q.x.pa).isNone then touchRead (mmCount s (jgBlock (keyHome k) + 0x10) 1) q.x.pa 256
    else jgTile s k q.x.pa 15 0 false na
  let ps := poisonOf s q.x.pa
  let bs := (physBytes s q.x.pa 256).zip (List.range 256)
  (bs.map (fun b => if ps.contains (b.2 / 64) then 0 else b.1),
   ps.head?.map (fun i => (q.va + 64 * i, portRoute s (q.x.pa + 64 * i))), s)

/-- Leave Poison, reason 0x02, pending for an image (R160, R414). -/
def imagePoison (s : State) (cn : CtrNo) (ticket : BitVec 16) (p : Option (Nat × Nat)) : State :=
  match p with
  | some p => s.onGang (fun g => addPend g ⟨cn.toNat, ticket.toNat, causePoison, 2, BitVec.ofNat 64 p.1, p.2, 0⟩)
  | none => s

/-- The first of two marks. -/
def firstMark (a b : Option (Nat × Nat)) : Option (Nat × Nat) := if a.isSome then a else b

/-- A line's bytes among those that an image has read; none where it was not read. -/
def haloLine (rd : List ((Nat × Nat) × List Byte)) (r c : Nat) : List Byte :=
  match rd.find? (fun x => x.1 == (r, c)) with
  | some x => x.2
  | none => []

/-- The operation of a TLD or a THALO: the bytes of its image, given as runs of bytes by offset, land by its arrival, and the arm keeps the image
until a WAIT places it (R157). Its ticket. -/
def startImage (s : State) (cn : CtrNo) (runs : List (Nat × List Byte)) : BitVec 16 × State :=
  let left := runs.flatMap (fun r => ((List.range r.2.length).zip r.2).map (fun x => (r.1 + x.1, x.2)))
  let op := newOp s cn.toNat (.image left (runs.map (fun r => (r.1, r.2.length)))) [] none false true
  let im : Image := ⟨s.gang.arm.slot, cn.toNat, op.2.1.toNat, s.gang.arm.ltime, left⟩
  (op.2.1, op.2.2.onGang (fun g => { g with images := g.images ++ [im] }))

/-- TLD (R162). -/
def tldBody (na : Bool) (o : Nat) (aa : DescNo) (e : Nat) (pitch : Nat) (cn : CtrNo) (s : State) : Exe :=
  withCtr cn s (fun s => withTensor aa .read s (fun id t s =>
    let off := (readS s.gang o).toNat
    let row := 256 * tileW t
    let p := rowPitch pitch row
    match imageCheck s off pitch p row (tileH t) .read with
    | some tr => .trap tr s
    | none =>
      let ls := tileLines t (readS s.gang e).toNat (readS s.gang (e + 1)).toNat
      let inn := ls.filter (fun l => lineIn t l.2.2.1 l.2.2.2)
      withTileLines s .read (inn.map (fun l => (lineVa t l.2.2.1 l.2.2.2, 256))) (fun ps s =>
        let s := setAgentTime s (armNo s) (readsTime s (armNo s) (ps.map (fun q => q.x.pa)))
        let r := (inn.zip ps).foldl (fun (acc : List ((Nat × Nat) × List Byte) × Option (Nat × Nat) × State) lq =>
          let l := lq.1
          let x := tileRead na (lineKey acc.2.2.gang.ctx id t l.2.2.1 l.2.2.2) lq.2 acc.2.2
          (acc.1 ++ [((l.1, l.2.1), x.1.take (lineBytes t l.2.2.2))], firstMark acc.2.1 x.2.1, x.2.2))
          (([], none, s) : List ((Nat × Nat) × List Byte) × Option (Nat × Nat) × State)
        let line (j i : Nat) : List Byte := let b := haloLine r.1 j i; b ++ List.replicate (256 - b.length) 0
        let op := startImage r.2.2 cn (ls.map (fun l => (off + l.1 * p + 256 * l.2.1, line l.1 l.2.1)))
        .ok (imagePoison op.2 cn op.1 r.2.1))))

/-- TLD (R162). -/
def execTld (na : Bool) (o : Reg) (aa : DescNo) (e : Reg) (pitch : BitVec 16) (cn : CtrNo) (s : State) :
    Host.Outcome State Fault Refusal :=
  issue (.tld na o aa e pitch cn) false s (fun s => tldBody na o.toNat aa e.toNat pitch.toNat cn s)

/-- A held line is written through to memory and left clean (R162). -/
def writeThrough (s : State) (pa : Nat) : State :=
  match jgFind s pa with
  | some l => let s := jgWriteBack s l; jgPut s { l with dirty := 0, saved := 0, back := [], backPoison := [] }
  | none => s

/-- A tile write of one line (R155, R162). -/
def tileWrite (wt : Bool) (k : JKey) (q : Piece) (bs : List Byte) (bad : List Nat) (s : State) : State :=
  let s := orderWrite (l1Recall (launchWrite s s.gang.launch q.x.pa q.va) 768 q.x.pa) (armNo s) q.x.pa
  let s :=
    if wt ∧ (jgFind s q.x.pa).isNone then mmCount s (jgBlock (keyHome k) + 0x10) 1
    else jgTile s k q.x.pa (sectorMask q.x.pa bs.length) (wholeMask q.x.pa bs.length) true false
  let s := physWrite s q.x.pa bs
  let s := bad.foldl (fun s i => physPoisonWrite s (q.x.pa + 64 * i)) s
  if wt then writeThrough s q.x.pa else s

/-- TST (R162). -/
def tstBody (wt : Bool) (o : Nat) (aa : DescNo) (e : Nat) (pitch : Nat) (cn : CtrNo) (s : State) : Exe :=
  withCtr cn s (fun s => withTensor aa .write s (fun id t s =>
    let off := (readS s.gang o).toNat
    let row := 256 * tileW t
    let p := rowPitch pitch row
    match imageCheck s off pitch p row (tileH t) .write with
    | some tr => .trap tr s
    | none =>
      let ls := (tileLines t (readS s.gang e).toNat (readS s.gang (e + 1)).toNat).filter (fun l => lineIn t l.2.2.1 l.2.2.2)
      withTileLines s .write (ls.map (fun l => (lineVa t l.2.2.1 l.2.2.2, lineBytes t l.2.2.2))) (fun ps s =>
        let base := (apCtx s).scrBase + off
        let from_ := ls.flatMap (fun l => linesOf (scrLine (scrKey s.gang.core (base + l.1 * p + 256 * l.2.1))) (lineBytes t l.2.2.2))
        let s := raiseTime s (armNo s) (Max.max (readsTime s (armNo s) from_) (writesTime s (armNo s) (ps.map (fun q => q.x.pa))))
        let s := orderReads s (armNo s) from_
        let s := (ls.zip ps).foldl (fun s lq =>
          let l := lq.1
          let at_ := base + l.1 * p + 256 * l.2.1
          let n := lineBytes t l.2.2.2
          let s := touchUnit s true (scrKey s.gang.core at_) n
          let bs := (scrRead s s.gang.core at_ n).1
          let bad := (List.range 4).filter (fun i => decide (64 * i < n) && (scrRead s s.gang.core (at_ + 64 * i) (Min.min 64 (n - 64 * i))).2)
          tileWrite wt (lineKey s.gang.ctx id t l.2.2.1 l.2.2.2) lq.2 bs bad s) s
        .ok (startOp s cn .mem [] [] true).2.2)))

/-- TST (R162). -/
def execTst (wt : Bool) (o : Reg) (aa : DescNo) (e : Reg) (pitch : BitVec 16) (cn : CtrNo) (s : State) :
    Host.Outcome State Fault Refusal :=
  issue (.tst wt o aa e pitch cn) false s (fun s => tstBody wt o.toNat aa e.toNat pitch.toNat cn s)

/-! ### TPF and THALO (R163, R164) -/

/-- The neighbour that a mask bit selects: Δr and Δc. -/
def neighbour : Nat → Int × Int
  | 0 => (-1, 0) | 1 => (-1, 1) | 2 => (0, 1) | 3 => (1, 1) | 4 => (1, 0) | 5 => (1, -1) | 6 => (0, -1) | _ => (-1, -1)

/-- Prefetch one line under its key (R113, R164). -/
def tilePrefetch (k : JKey) (va : Nat) (s : State) : State :=
  let x := xlateAs false s (armAgent s) va .read (pickCached s 127)
  if x.fault.isSome then mmCount s pfDrop 1
  else
    let s := xlPrefetch s (armAgent s) va x
    if unbacked s x.pa then s else jgTile s k x.pa 15 0 false true

/-- Prefetch a tile where it lies inside the grid. -/
def tileFill (id : Nat) (t : Tensor) (tr tc : Int) (s : State) : State :=
  if 0 ≤ tr ∧ 0 ≤ tc ∧ tr < tileRows t ∧ tc < tileCols t then
    ((tileLines t tr.toNat tc.toNat).filter (fun l => lineIn t l.2.2.1 l.2.2.2)).foldl (fun s l =>
      tilePrefetch (lineKey s.gang.ctx id t l.2.2.1 l.2.2.2) (lineVa t l.2.2.1 l.2.2.2) s) s
  else s

/-- The neighbours of a tile at a distance, as TPF prefetches them. -/
def tpfTiles (id : Nat) (t : Tensor) (self : Bool) (tr tc dist mask : Nat) (s : State) : State :=
  let s := if self then tileFill id t tr tc s else s
  ((List.range 8).filter (fun b => mask.testBit b)).foldl (fun s b =>
    tileFill id t ((tr : Int) + (neighbour b).1 * dist) ((tc : Int) + (neighbour b).2 * dist) s) s

/-- TPF (R164). -/
def execTpf (c : Bool) (aa : DescNo) (e : Reg) (dist : BitVec 4) (mask : BitVec 8) (cn : CtrNo) (s : State) :
    Host.Outcome State Fault Refusal :=
  issue (.tpf c aa e dist mask cn) false s (fun s => withCtr cn s (fun s => withDesc aa s (fun s =>
    let id := descTid (readA s.gang aa.toNat)
    let s0 := s
    let s := entryRead s s.gang.ctx id
    let s :=
      if idState s s.gang.ctx id = 1 then
        tpfTiles id (tensorAt s s.gang.ctx id) c (readS s.gang e.toNat).toNat (readS s.gang (e.toNat + 1)).toNat dist.toNat mask.toNat s
      else mmCount s pfDrop 1
    boundedExe s0 (.ok (startOp s cn .mem [] [] true).2.2))))

/-- A coordinate clamped to 0 … n − 1. -/
def clampTo (x : Int) (n : Nat) : Nat := if x < 0 then 0 else if (n : Int) ≤ x then n - 1 else x.toNat

/-- The element that a halo position reads: a coordinate in extent, or clamped to it where Fn asks so (R163). -/
def haloCoord (clamp : Bool) (x : Int) (n : Nat) : Option Nat :=
  if 0 ≤ x ∧ x < n then some x.toNat else if clamp then some (clampTo x n) else none

/-- Distinct values in ascending order. -/
def distinct (l : List Nat) : List Nat := l.foldl nsetInsert []

/-- THALO (R163). -/
def thaloBody (clamp pf : Bool) (o : Nat) (aa : DescNo) (e hr hc pitch : Nat) (cn : CtrNo) (s : State) : Exe :=
  withCtr cn s (fun s => withTensor aa .read s (fun id t s =>
    let off := (readS s.gang o).toNat
    let tr := (readS s.gang e).toNat
    let tc := (readS s.gang (e + 1)).toNat
    let row := 256 * tileW t + 2 * hc * t.es
    let p := rowPitch pitch row
    let rows := (List.range (tileH t + 2 * hr)).map (fun (k : Nat) => haloCoord clamp ((tr * tileH t : Nat) - (hr : Int) + k) (foldedRows t))
    let els := (List.range (row / t.es)).map (fun (x : Nat) => haloCoord clamp ((tc * tileW t * (256 / t.es) : Nat) - (hc : Int) + x) t.e0)
    match imageCheck s off pitch p row (tileH t + 2 * hr) .read with
    | some x => .trap x s
    | none =>
      let rs := distinct (rows.filterMap (fun x => x))
      let cs := distinct (els.filterMap (fun x => x.map (fun y => y * t.es / 256)))
      let ls := rs.flatMap (fun r => cs.map (fun c => (r, c)))
      withTileLines s .read (ls.map (fun l => (lineVa t l.1 l.2, 256))) (fun ps s =>
        let s := setAgentTime s (armNo s) (readsTime s (armNo s) (ps.map (fun q => q.x.pa)))
        let rd := (ls.zip ps).foldl (fun (acc : List ((Nat × Nat) × List Byte) × Option (Nat × Nat) × State) lq =>
          let x := tileRead false (lineKey acc.2.2.gang.ctx id t lq.1.1 lq.1.2) lq.2 acc.2.2
          (acc.1 ++ [(lq.1, x.1)], firstMark acc.2.1 x.2.1, x.2.2)) (([], none, s) : List ((Nat × Nat) × List Byte) × Option (Nat × Nat) × State)
        let el (r x : Option Nat) : List Byte := match r, x with
          | some r, some x => ((haloLine rd.1 r (x * t.es / 256)).drop (x * t.es % 256)).take t.es
          | _, _ => List.replicate t.es 0
        let image := (rows.zip (List.range rows.length)).map (fun rk => (off + rk.2 * p, els.flatMap (fun x => el rk.1 x)))
        let s := if pf then tpfTiles id t false tr tc 1 255 rd.2.2 else rd.2.2
        let op := startImage s cn image
        .ok (imagePoison op.2 cn op.1 rd.2.1))))

/-- THALO (R163). -/
def execThalo (clamp pf : Bool) (o : Reg) (aa : DescNo) (e : Reg) (hr hc : BitVec 4) (pitch : BitVec 16) (cn : CtrNo) (s : State) :
    Host.Outcome State Fault Refusal :=
  issue (.thalo clamp pf o aa e hr hc pitch cn) false s (fun s =>
    thaloBody clamp pf o.toNat aa e.toNat hr.toNat hc.toNat pitch.toNat cn s)

/-! ### TINV, TUNREG and their sweeps (R158, R165) -/

/-- JGSWEEP.BUSY of every slice follows the sweeps in progress (R169). -/
def sweepBusy (s : State) : State :=
  (List.range 8).foldl (fun s d => mmPutField s (jgBlock d + 0x20) 7 0 s.caches.sweeps.length) s

/-- End a registration, in its turn at the table (R161): the state of the id changes at once, and a sweep begins. -/
def retireBody (unreg discard : Bool) (d : Nat) (aa : DescNo) (cn : CtrNo) (s : State) : Exe :=
  withCtr cn s (fun s0 => withDesc aa s0 (fun s =>
    let id := descTid (readA s.gang aa.toNat)
    let owed : List (Bool × Nat × Shadow) := [(false, d, ⟨0, 2⟩)]
    let s := tableTurn s (armNo s) s.gang.ctx
    let now (st : Nat) : Exe := .ok (startOp s cn .mem [⟨false, d, 0, BitVec.ofNat 32 st⟩] owed true).2.2
    boundedExe s0 (match idState s s.gang.ctx id with
    | 0 => now 1
    | 1 =>
      let s := tableTurn (setIdState s (armNo s) s.gang.ctx id (if unreg then 3 else 2)) (armNo s) s.gang.ctx
      let r := startOp s cn .sweep [⟨false, d, 0, 0⟩] owed false
      let s := r.2.2
      .ok (sweepBusy { s with
        serial := s.serial + 1
        caches := { s.caches with sweeps := s.caches.sweeps ++ [⟨s.serial, s.gang.ctx, id, unreg, discard, s.gang.id, r.1⟩] } })
    | _ => now 2)))

/-- TUNREG (R165). -/
def execTunreg (e : Reg) (aa : DescNo) (cn : CtrNo) (s : State) : Host.Outcome State Fault Refusal :=
  issue (.tunreg e aa cn) false s (fun s => retireBody true false e.toNat aa cn s)

/-- TINV (R165). -/
def execTinv (discard : Bool) (e : Reg) (aa : DescNo) (cn : CtrNo) (s : State) : Host.Outcome State Fault Refusal :=
  issue (.tinv discard e aa cn) false s (fun s => retireBody false discard e.toNat aa cn s)

/-- Re-key a line as untensored at its physical home, its sector state kept (R165). -/
def rekey (s : State) (l : JLine) : State :=
  let s := setJigsaw s (s.caches.jigsaw.filter (fun x => x.pa ≠ l.pa))
  let s := wayRoom s (.line l.pa)
  setJigsaw s (s.caches.jigsaw ++ [{ l with home := physHome l.pa, key := .line l.pa }])

/-- What a sweep does to one line; DROPS counts it. -/
def sweepLine (w : Sweep) (s : State) (l : JLine) : State :=
  let s := mmAdd s (jgBlock l.home + 0x20) 39 8 1
  if w.unreg then rekey s l else if w.discard then jgDiscard s l else jgEvict s l

/-- The lines that a slice holds under an id. -/
def tensorLines (s : State) (ctx id : Nat) : List JLine :=
  s.caches.jigsaw.filter (fun l => match l.key with | .tile c i _ _ _ => c == ctx && i == id | .line _ => false)

/-- Sweep an id and free it: each line as the sweep finds it, for re-keying one may have written back and dropped another. The tensor
table's write is that of the walkers of die 0: DESIGN CHOICE, log entry 23. -/
def sweepNow (s : State) (w : Sweep) : State :=
  let s := (tensorLines s w.ctx w.tid).foldl (fun s l =>
    match s.caches.jigsaw.find? (fun x => x.key == l.key && x.pa == l.pa) with
    | some x => sweepLine w s x
    | none => s) s
  let s := tableTurn (setIdState (tableTurn s (walkerNo 0) w.ctx) (walkerNo 0) w.ctx w.tid 0) (walkerNo 0) w.ctx
  sweepBusy { s with caches := { s.caches with sweeps := s.caches.sweeps.filter (fun x => x.id ≠ w.id) } }

/-- SWEEP_COMPLETE (R165): every slice has swept and written back; the id is Free and the instruction arrives. -/
def execSweepComplete (n : Nat) (s : State) : Host.Outcome State Fault Refusal :=
  event s (fun s =>
    match s.caches.sweeps.find? (fun w => w.id == n) with
    | none => s
    | some w => bounded (walkerNo 0) (fun s => let t := sweepNow s w; finishOp t w.gang w.op (agentTime t (walkerNo 0))) s)

/-! ### TQRY (R166) -/

/-- The bits of a tile's lines that hold under its key, by a mask of sectors. -/
def tileMask (s : State) (ctx id : Nat) (t : Tensor) (tr tc : Nat) (sel : JLine → Nat) : Nat :=
  ((List.range (tileH t * tileW t)).filter (fun n =>
    s.caches.jigsaw.any (fun l => l.key == JKey.tile ctx id tr tc n && sel l != 0))).foldl (fun m n => m + 2 ^ n) 0

/-- TQRY (R166). -/
def execTqry (d : Reg) (aa : DescNo) (e : Reg) (cn : CtrNo) (s : State) : Host.Outcome State Fault Refusal :=
  issue (.tqry d aa e cn) false s (fun s => withCtr cn s (fun s => withDesc aa s (fun s =>
    let id := descTid (readA s.gang aa.toNat)
    let ctx := s.gang.ctx
    let s0 := s
    let s := entryRead s ctx id
    let st := idState s ctx id
    let t := tensorAt s ctx id
    let tr := (readS s.gang e.toNat).toNat
    let tc := (readS s.gang (e.toNat + 1)).toNat
    let out : Bool := st != 0 && !(decide (tr < tileRows t) && decide (tc < tileCols t))
    let m (sel : JLine → Nat) : Nat := if st = 1 ∧ !out then tileMask s ctx id t tr tc sel else 0
    let lo := m (fun l => l.dirty) * 2 ^ 16 + m (fun l => l.valid)
    let hi := (id + 3 * tr + tc) % 8 * 2 ^ 8 + (if out then 4 else 0) + st % 4
    boundedExe s0 (.ok (startOp s cn .mem [⟨false, d.toNat, 0, BitVec.ofNat 32 lo⟩, ⟨false, d.toNat + 1, 0, BitVec.ofNat 32 hi⟩]
      [(false, d.toNat, Shadow.top), (false, d.toNat + 1, Shadow.top)] true).2.2))))

end Sys2Proof.Machine
end

