-- ==== Sys2Proof/Machine/Jobs.lean ====
section
/-! DEFINITION. Job schedulers, copy engines, job cards, bulk streams and near-memory matrix-vector jobs (R66, R200 to R218,
R224 to R228). -/

namespace Sys2Proof.Machine

/-! ### Job entries (R201, R205) -/

/-- The job with a serial number. -/
def jobBySerial (s : State) (n : Nat) : Option Job := s.jobs.list.find? (fun j => j.serial == n)

/-- Update a job. -/
def onJob (s : State) (n : Nat) (f : Job → Job) : State :=
  { s with jobs := { s.jobs with list := listUpdate (fun j => j.serial == n) f s.jobs.list } }

/-- The incomplete jobs of a die's scheduler. -/
def liveJobs (s : State) (die : Nat) : List Job := s.jobs.list.filter (fun j => j.die == die && j.st != .complete)

/-- CEOCC of a die follows its scheduler (R229). -/
def ceOcc (s : State) (die : Nat) : State := mmPutField s (ceBlock die + 8) 8 0 (liveJobs s die).length

/-- The job that holds an entry, complete or not. -/
def jobAtEntry (s : State) (die e : Nat) : Option Job := s.jobs.list.find? (fun j => j.die == die && j.entry == e)

/-- The entry that a new job takes: the first free one at or after the next (R201). -/
def freeEntry (s : State) (die : Nat) : Option Nat :=
  let n := smapGet 0 s.jobs.next die
  ((List.range 256).map (fun i => (n + i) % 256)).find? (fun e =>
    match jobAtEntry s die e with | some j => j.st == .complete | none => true)

/-- A job's handle. -/
def jobHandle (j : Job) : Nat := j.die * 8192 + j.gen * 256 + j.entry

/-- The job that a handle names (R201, R218). -/
def jobOfHandle (s : State) (h : Nat) : Option Job := s.jobs.list.find? (fun j => jobHandle j == h % 65536)

/-! ### Apertures of a job (R202) -/

/-- The first generic address of a span, as R203 compares it: an override's offset stands in the aperture area. -/
def spanGeneric (p : ApCtx) (x : Span) : Nat :=
  (if x.ovr = 2 then p.apVa * 2 ^ 40 + x.first else if x.ovr = 3 then p.apVa * 2 ^ 40 + 2 ^ 32 + x.first else x.first) % 2 ^ 57

/-- The region that a span declares. -/
def spanRegion (p : ApCtx) (x : Span) : Region :=
  let a := spanGeneric p x
  ⟨if x.ovr = 1 ∧ inArea p a then 1 else 0, a, a + x.len - 1⟩

/-- The declared regions of spans; an empty span declares none. -/
def spanRegions (p : ApCtx) (xs : List Span) : List Region := (xs.filter (fun x => x.len ≠ 0)).map (spanRegion p)

/-- A span touches the lane-stack aperture (R86, R202): the address of the first byte there. -/
def spanStack (p : ApCtx) (x : Span) : Option Nat :=
  let a := x.first % 2 ^ 57
  let lo := p.apVa * 2 ^ 40 + 2 ^ 39
  let hi := (p.apVa + 1) * 2 ^ 40
  if x.ovr = 0 ∧ x.len ≠ 0 ∧ canonical x.first ∧ a < hi ∧ lo < a + x.len then some (x.first + (lo - a)) else none

/-- A span of plain generic addresses has a byte at the offsets `lo` to `hi` − 1 of the aperture area. -/
def spanMeets (p : ApCtx) (x : Span) (lo hi : Nat) : Bool :=
  let a := x.first % 2 ^ 57
  x.ovr == 0 && x.len != 0 && canonical x.first && decide (a < p.apVa * 2 ^ 40 + hi) && decide (p.apVa * 2 ^ 40 + lo < a + x.len)

/-- The aperture that an address lies in, whatever is allocated there: global, scratchpad, bank memory, lane stack or none. -/
inductive ApKind where
  | glob
  | scratch
  | bank
  | stack
  | none
  deriving DecidableEq, Repr

/-- Classify an address (R86, R90). -/
def apKind (p : ApCtx) (ovr a : Nat) : ApKind :=
  if ovr = 2 then .scratch else if ovr = 3 then .bank
  else if !canonical a then .none
  else if ovr = 1 ∨ !inArea p a then .glob
  else
    let o := a % 2 ^ 40
    if o < 2 ^ 19 then .scratch else if 2 ^ 32 ≤ o ∧ o < 2 ^ 32 + 2 ^ 26 then .bank else if 2 ^ 39 ≤ o then .stack else .none

/-- Two regions touch a common line (R203). -/
def regionMeets (x y : Region) : Bool := x.ap == y.ap && decide (x.first / 256 ≤ y.last / 256) && decide (y.first / 256 ≤ x.last / 256)

/-- A job has an edge to an earlier one (R203). -/
def jobEdge (j k : Job) : Bool :=
  j.reads.any (fun r => k.writes.any (regionMeets r)) || j.writes.any (fun w => k.reads.any (regionMeets w) || k.writes.any (regionMeets w))

/-! ### Submission (R200, R201, R203, R207) -/

/-- An issue stalls while the die's scheduler is full (R207). -/
def withScheduler (s : State) (f : State → Exe) : Exe :=
  if 256 ≤ (liveJobs s (s.gang.core / 96)).length then .stall 8 s else f s

/-- What a submission gives a job beside its place. -/
structure JobSpec where
  work : JobWork
  reads : List Region
  writes : List Region
  barrier : Option Nat
  res : Option (Nat × Nat × Nat)
  deriving DecidableEq, Repr

/-- A job of the executing arm in an entry of its die's scheduler, with its edges. -/
def newJob (s : State) (x : JobSpec) (e op : Nat) : Job :=
  let g := s.gang
  let die := g.core / 96
  let j : Job :=
    { die := die, entry := e, gen := (match jobAtEntry s die e with | some k => (k.gen + 1) % 32 | none => 0), serial := s.serial,
      st := .queued, ctx := g.ctx, launch := g.launch, team := g.team, gang := g.id, op := op, core := g.core, sup := g.arm.sup,
      apVa := g.apbase.toNat % 2 ^ 17, bkwin := g.bkwin.toNat, work := x.work, reads := x.reads, writes := x.writes,
      barrier := x.barrier, deps := [], buf := [], left := [], limit := 0, res := x.res, poison := none, near := [], latency := 0 }
  { j with deps := ((liveJobs s die).filter (fun k => k.ctx == g.ctx && jobEdge j k)).map (fun k => k.serial) }

/-- Submit a job: entry, handle, operation on its counter (R201); its accesses come after those that the arms of its gang have made (R204). -/
def submitJob (s : State) (cn : CtrNo) (hv : Bool) (d : Nat) (x : JobSpec) : Exe :=
  let die := s.gang.core / 96
  match freeEntry s die with
  | none => .stall 8 s
  | some e =>
    let o := startOp s cn (.job die e) [] [] false
    let s := o.2.2
    let j := newJob s x e o.1
    let ag := jobNo (jobHandle j)
    let s := raiseTime s ag (gangTime s.gang)
    let s := { s with serial := s.serial + 1
                      jobs := { list := s.jobs.list.filter (fun k => !(k.die == die && k.entry == e)) ++ [j]
                                next := smapSet 0 s.jobs.next die ((e + 1) % 256) } }
    let s := ceOcc s die
    if hv then putS s d (BitVec.ofNat 32 (jobHandle j)) ⟨0, 65535⟩ else .ok s

/-! ### A job's agent and its bytes (R204, R206) -/

/-- What the apertures give a job: its team's scratchpad wherever the team is, APBASE and BKWIN as submitted. -/
def jobAp (s : State) (j : Job) : ApCtx :=
  let t := teamById s j.team
  { apVa := j.apVa, lsBase := 0, lsCfg := 0, lsBlk := 0, bkwin := j.bkwin, width := 0
    scrBase := (match t with | some t => t.scrBase * 4096 | none => 0)
    scrSize := (match t with | some t => t.scrGranules * 4096 | none => 0)
    core := (match t with | some t => t.core | none => j.core) }

/-- The job's translating agent. -/
def jobAgent (j : Job) : Xagent := ⟨none, j.die, j.ctx, j.sup⟩

/-- A piece of a transfer within one line: transfer offset, override, generic address and length. -/
structure Chunk where
  off : Nat
  ovr : Nat
  a : Nat
  n : Nat
  deriving DecidableEq, Repr

/-- The pieces of a span from a transfer offset on. -/
def spanChunks (off : Nat) (x : Span) : List Chunk :=
  if x.len = 0 then []
  else
    let lines := (x.first + x.len - 1) / 256 + 1 - x.first / 256
    (List.range lines).map (fun i =>
      let lo := Max.max x.first ((x.first / 256 + i) * 256)
      let hi := Min.min (x.first + x.len) ((x.first / 256 + i + 1) * 256)
      ⟨off + (lo - x.first), x.ovr, lo % 2 ^ 64, hi - lo⟩)

/-- The pieces of a transfer. -/
def chunksOf : Nat → List Span → List Chunk
  | _, [] => []
  | off, x :: t => spanChunks off x ++ chunksOf (off + x.len) t

/-- A piece that has passed its checks: where its bytes are. -/
inductive JPlace where
  | mem (va pa leaf : Nat)
  | scr (off : Nat)
  | bank (off va : Nat)
  deriving DecidableEq, Repr

/-- Translate for a job; a first-touch placeholder is mapped first (R206). -/
def jobXlate (s : State) (j : Job) (va : Nat) (kind : AccKindF) : Xlat × State :=
  let x := xlate s (jobAgent j) va kind (pickCached s 126)
  if x.fault = some (causePageFault, 2) then
    let r := mapTouch s (jobNo (jobHandle j)) j.die j.ctx va
    if r.1 = 2 then (x, r.2) else (xlate r.2 (jobAgent j) va kind false, r.2)
  else (x, s)

/-- The checks of R104 steps 2 to 4 for a piece, whose first byte must be a multiple of `align`, with the effects of its translation (R99,
R206): the kept reason of R106, 0 for Misaligned. -/
def jobPlace (s : State) (j : Job) (kind : AccKindF) (c : Chunk) (align : Nat := 1) : Except Nat JPlace × State :=
  let p := jobAp s j
  if (spanStack p ⟨c.ovr, c.a, c.n⟩).isSome then (.error 0x12, s)
  else match resolve p c.ovr c.a c.n 0 with
    | .error r => (.error r, s)
    | .ok x =>
    if c.a % align ≠ 0 then (.error 0, s)
    else match x with
    | .scratch o => (.ok (.scr o), s)
    | .bank o => (.ok (.bank o c.a), s)
    | .glob _ =>
      let x := jobXlate s j c.a kind
      match x.1.fault with
      | some (_, r) => (.error r, xlFaulted x.2 j.die x.1)
      | none => (.ok (.mem c.a x.1.pa x.1.leaf), xlCommit x.2 (jobAgent j) c.a kind x.1)

/-- Read a piece's bytes as agent `ag`. `fill` is off where the bytes do not pass through the Jigsaw (R225). -/
def jobRead (s : State) (ag : Nat) (j : Job) (fill : Bool) (n : Nat) : JPlace → List MByte × State
  | .mem va pa _ =>
    let s := homeRead (captureTouch s j.launch false pa va) ag pa n fill false
    (((physBytes s pa n).zip (List.range n)).map (fun b => ⟨b.1, physPoison s (pa + b.2) 1⟩), s)
  | .scr o =>
    let p := jobAp s j
    let k := scrKey p.core (p.scrBase + o)
    let s := orderReads (touchUnit s true k n) ag (linesOf (scrLine k) n)
    ((List.range n).map (fun i => ⟨(scrRead s p.core (p.scrBase + o + i) 1).1.headD 0, s.mem.scratchPoison.contains ((k + i) / 8)⟩), s)
  | .bank o va =>
    let s := orderReads (touchUnit (captureTouch s j.launch true o va) false o n) ag (linesOf (bankLine o) n)
    ((List.range n).map (fun i => ⟨(bankRead s (o + i) 1).1.headD 0, s.mem.bankPoison.contains ((o + i) / 8)⟩), s)

/-- Write a piece's bytes as agent `ag`; poisoned ones mark their sectors, or words, at the destination (R206). -/
def jobWrite (s : State) (ag : Nat) (j : Job) (bs : List MByte) : JPlace → State
  | .mem va pa _ =>
    let s := homeWrite (launchWrite s j.launch pa va) ag pa (bs.map (fun b => b.val))
    (bs.zip (List.range bs.length)).foldl (fun s b => if b.1.bad then physPoisonWrite s (pa + b.2) else s) s
  | .scr o =>
    let p := jobAp s j
    let k := scrKey p.core (p.scrBase + o)
    let s := scrWrite (orderWrites s ag (linesOf (scrLine k) bs.length)) p.core (p.scrBase + o) (bs.map (fun b => b.val))
    (bs.zip (List.range bs.length)).foldl (fun s b => if b.1.bad then poisonWord s true ((k + b.2) / 8) else s) s
  | .bank o va =>
    let s := snapshot (captureTouch s j.launch true o va) j.launch true o
    let s := bankWrite (orderWrites s ag (linesOf (bankLine o) bs.length)) o (bs.map (fun b => b.val))
    (bs.zip (List.range bs.length)).foldl (fun s b => if b.1.bad then poisonWord s false ((o + b.2) / 8) else s) s

/-- A job's agent number (R330). -/
def jobAg (j : Job) : Nat := jobNo (jobHandle j)

/-- Bytes that a job with a barrier writes are landings (R212), writes of the barrier's object in bank memory at the job's logical time (R188,
R332). -/
def jobLand (s : State) (j : Job) (n : Nat) : State :=
  match j.barrier, teamById s j.team with
  | some b, some t =>
    if n = 0 then s
    else
      let obj := teamBarObj t b
      barxAdd (orderWrites (objAccess s j.launch obj 16) (jobAg j) (linesOf (bankLine obj) 16)) obj (-(n : Int))
  | _, _ => s

/-! ### Copies (R206, R211, R213) -/

/-- Source and destination pieces in ascending transfer offset, the source first at equal offsets. -/
def mergeChunks : Nat → List Chunk → List Chunk → List (Bool × Chunk)
  | 0, _, _ => []
  | _ + 1, [], ds => ds.map (fun d => (true, d))
  | _ + 1, ss, [] => ss.map (fun c => (false, c))
  | n + 1, c :: ss, d :: ds =>
    if c.off ≤ d.off then (false, c) :: mergeChunks n ss (d :: ds) else (true, d) :: mergeChunks n (c :: ss) ds

/-- The lowest failing transfer offset of a copy, with its reason and address; the translations before it take effect. -/
def copyChecks (j : Job) : List (Bool × Chunk) → State → Option (Nat × Nat × Nat) × State
  | [], s => (none, s)
  | (w, c) :: t, s =>
    let r := jobPlace s j (if w then .write else .read) c
    match r.1 with
    | .error why => (some (c.off, why, c.a), r.2)
    | .ok _ => copyChecks j t r.2

/-- A piece cut at a transfer offset. -/
def clipChunk (limit : Nat) (c : Chunk) : Option Chunk :=
  if limit ≤ c.off then none else some { c with n := Min.min c.n (limit - c.off) }

/-- Read source pieces: their bytes by transfer offset. A piece that has come to fail lowers the job's limit. -/
def readChunks (s : State) (n : Nat) (cs : List Chunk) : State :=
  cs.foldl (fun s c =>
    match jobBySerial s n with
    | none => s
    | some j =>
      let r := jobPlace s j .read c
      match r.1 with
      | .error why => if c.off < j.limit then onJob r.2 n (fun j => { j with limit := c.off, res := some (2, why, c.a) }) else r.2
      | .ok p =>
        let b := jobRead r.2 (jobAg j) j true c.n p
        onJob b.2 n (fun j => { j with buf := j.buf ++ [(c.off, b.1)] })) s

/-- The byte of a transfer offset among those read. -/
def bufByte (j : Job) (off : Nat) : Option MByte :=
  match j.buf.find? (fun e => decide (e.1 ≤ off) && decide (off < e.1 + e.2.length)) with
  | some e => e.2[off - e.1]?
  | none => none

/-- Write destination pieces whose bytes have all been read, in ascending offset, up to the limit. -/
def writeChunks (s : State) (n : Nat) (cs : List Chunk) : State :=
  cs.foldl (fun s c0 =>
    match jobBySerial s n with
    | none => s
    | some j =>
      match clipChunk j.limit c0 with
      | none => s
      | some c =>
        let bs := (List.range c.n).filterMap (fun i => bufByte j (c.off + i))
        if bs.length < c.n then s
        else
          let r := jobPlace s j .write c
          match r.1 with
          | .error why => onJob r.2 n (fun j => { j with limit := c.off, res := some (2, why, c.a) })
          | .ok p => jobLand (jobWrite r.2 (jobAg j) j bs p) j c.n) s

/-- The total length of spans. -/
def spansLen (xs : List Span) : Nat := xs.foldl (fun n x => n + x.len) 0

/-- Where a piece's line lies in HBM4E and does not move: the bank number, and its row and column there (R213). -/
def streamBank (s : State) (j : Job) (c : Chunk) : Option (Nat × Nat) :=
  match resolve (jobAp s j) c.ovr c.a c.n 0 with
  | .ok (.glob _) =>
    let x := xlate s (jobAgent j) c.a .read (pickCached s 126)
    if x.fault.isSome ∨ pteMv x.leaf then none
    else match physPlace s x.pa with
      | .hbm _ off => let h := hbmDecode off; (bankNumber s x.pa).map (fun b => (b, 4 * h.row + h.col))
      | _ => none
  | _ => none

/-- Insert a chunk, with its bank and row, in the order in which streams read: by bank, then by row ascending (R213). -/
def insertRow (x : (Nat × Nat) × Nat × Nat) : List ((Nat × Nat) × Nat × Nat) → List ((Nat × Nat) × Nat × Nat)
  | [] => [x]
  | y :: t => if x.1.1 < y.1.1 ∨ (x.1.1 = y.1.1 ∧ x.1.2 ≤ y.1.2) then x :: y :: t else y :: insertRow x t

/-- RSVBG of a pseudo-channel follows its held reservations (R83). -/
def rsvBits (s : State) (n : Nat) : State :=
  mmPutField s (pcStatOf n) 3 0 ((List.range 4).foldl (fun m g =>
    if s.dram.reserves.any (fun r => r.held && pcNumber r.stack r.ch r.pc == n && r.bank / 4 == g) then m + 2 ^ g else m) 0)

/-- Drop reservations and requests: a stream that is suspended is charged up to now (R70). -/
def dropReserves (s : State) (p : Reserve → Bool) : State :=
  let gone := (s.dram.reserves.filter p).map (fun r => pcNumber r.stack r.ch r.pc)
  let s := (s.dram.reserves.filter p).foldl (fun s r => chargeSusp s s.cc r) s
  gone.foldl rsvBits (onDram s (fun d => { d with reserves := d.reserves.filter (fun r => !p r) }))

/-- BKMAX as it acts (R229). -/
def bkMax (s : State) (die : Nat) : Nat := Min.min 4 (Max.max 1 (mmField s (ceBlock die) 7 4))

/-- Ask for the reservations of a stream's next banks, in ascending number, at most BKMAX at once (R213). -/
def requestBanks (s : State) (n : Nat) : State :=
  match jobBySerial s n with
  | none => s
  | some j =>
    let mine (r : Reserve) : Bool := r.die == j.die && r.job == j.entry
    let have_ := (s.dram.reserves.filter mine).map (fun r => 16 * pcNumber r.stack r.ch r.pc + r.bank)
    let want := ((j.left.map (fun e => e.1)).foldl nsetInsert []).filter (fun b => !have_.contains b)
    let new := (want.take (bkMax s j.die - have_.length)).map (fun b =>
      (⟨b / 1024, b / 32 % 32, b / 16 % 2, b % 16, j.die, j.entry, false, s.cc, none, 0⟩ : Reserve))
    onDram s (fun d => { d with reserves := d.reserves ++ new })

/-- The source pieces of a copy that a list of offsets names. -/
def leftChunks (j : Job) (left : List (Nat × Nat × Nat × Nat)) : List Chunk :=
  match j.work with
  | .copy _ src _ => (chunksOf 0 src).filterMap (fun c =>
      if left.any (fun e => e.2.2.1 == c.off) then clipChunk j.limit c else none)
  | _ => []

/-- The end of a copy: every byte of the transfer below its limit is written (R206). -/
def copyEnd (s : State) (n : Nat) (dst : List Span) : State :=
  let s := writeChunks s n (chunksOf 0 dst)
  onJob s n (fun j => { j with res := some (j.res.getD (0, 0, 0)), left := [] })

/-- Start a copy (R206, R211, R213): all checks; then lines that go as CPY reads them, and at once the destination, unless a bulk
stream has lines to read. -/
def startCopy (s : State) (n : Nat) (bulk : Bool) (src dst : List Span) : State :=
  match jobBySerial s n with
  | none => s
  | some j =>
    let ss := chunksOf 0 src
    let ds := chunksOf 0 dst
    let r := copyChecks j (mergeChunks (ss.length + ds.length) ss ds) s
    let limit := match r.1 with | some f => f.1 | none => spansLen dst
    let s := onJob r.2 n (fun j => { j with limit := limit, res := r.1.map (fun f => (2, f.2.1, f.2.2)) })
    let cs := ss.filterMap (clipChunk limit)
    let tagged := cs.map (fun c => (c, if bulk then streamBank s j c else none))
    let plain := (tagged.filter (fun e => e.2.isNone)).map (fun e => e.1)
    let left := ((tagged.filterMap (fun e => e.2.map (fun b => (b, e.1.off, e.1.n)))).foldl (fun l x => insertRow x l) []).map
      (fun e => (e.1.1, e.1.2 / 4, e.2.1, e.2.2))
    let s := if bulk then mmCount s (ceBlock j.die + 0x20) plain.length else s
    let s := readChunks s n plain
    if left.isEmpty then copyEnd s n dst else requestBanks (onJob s n (fun j => { j with left := left })) n

/-! ### Fills (R211) -/

/-- Byte `i` of a pattern. -/
def patByte (pat i : Nat) : Byte := BitVec.ofNat 8 (pat / 2 ^ (8 * (i % 8)))

/-- Fill pieces in ascending offset up to the first that fails; the pattern restarts in each region. -/
def fillChunks (pat : Nat) (j : Job) : List (Nat × Chunk) → State → Option (Nat × Nat) × State
  | [], s => (none, s)
  | (base, c) :: t, s =>
    let r := jobPlace s j .write c
    match r.1 with
    | .error why => (some (why, c.a), r.2)
    | .ok p =>
      let bs := (List.range c.n).map (fun i => (⟨patByte pat (c.off - base + i), false⟩ : MByte))
      fillChunks pat j t (jobLand (jobWrite r.2 (jobAg j) j bs p) j c.n)

/-- Pieces with the transfer offset at which their region begins. -/
def basedChunks : Nat → List Span → List (Nat × Chunk)
  | _, [] => []
  | off, x :: t => (spanChunks off x).map (fun c => (off, c)) ++ basedChunks (off + x.len) t

/-- Run a fill. -/
def runFill (s : State) (n pat : Nat) (dst : List Span) : State :=
  match jobBySerial s n with
  | none => s
  | some j =>
    let r := fillChunks pat j (basedChunks 0 dst) s
    onJob r.2 n (fun j => { j with res := some (match r.1 with | some f => (2, f.1, f.2) | none => (0, 0, 0)) })

/-! ### MVN jobs (R224 to R226) -/

/-- Translate B's pages: a fault, or whether B may be used near memory with its pages (R225). -/
def mvnPages (j : Job) (al : Nat) : List Chunk → State → List (Nat × Nat × Bool) → Except (Nat × Nat) (List (Nat × Nat × Bool)) × State
  | [], s, acc => (.ok acc, s)
  | c :: t, s, acc =>
    let r := jobPlace s j .read c al
    match r.1 with
    | .error why => (.error (why, c.a), r.2)
    | .ok (.mem va pa leaf) =>
      let k := match physPlace r.2 pa with | .hbm k _ => k | _ => 8
      mvnPages j al t r.2 (acc ++ [(vaPage va, k, pteMv leaf)])
    | .ok _ => mvnPages j al t r.2 (acc ++ [(0, 8, true)])

/-- The places of pieces that an MVN reads, or the reason and address of the first that fails (R206). -/
def mvnPlaces (j : Job) : List Chunk → State → List (Nat × JPlace) → Except (Nat × Nat) (List (Nat × JPlace)) × State
  | [], s, acc => (.ok acc, s)
  | c :: t, s, acc =>
    let r := jobPlace s j .read c
    match r.1 with
    | .error why => (.error (why, c.a), r.2)
    | .ok p => mvnPlaces j t r.2 (acc ++ [(c.n, p)])

/-- The lines that a piece of `n` bytes touches, as the stamps name them. -/
def placeLines (s : State) (j : Job) (n : Nat) : JPlace → List Nat
  | .mem _ pa _ => linesOf pa n
  | .scr o => let p := jobAp s j; linesOf (scrLine (scrKey p.core (p.scrBase + o))) n
  | .bank o _ => linesOf (bankLine o) n

/-- Read pieces for an MVN, all of them at one logical time, since records may lie across lines (R261): their bytes, or the reason and address
of the first piece that fails (R206). -/
def mvnBytes (j : Job) (fill : Bool) (cs : List Chunk) (s : State) : Except (Nat × Nat) (List MByte) × State :=
  let r := mvnPlaces j cs s []
  match r.1 with
  | .error f => (.error f, r.2)
  | .ok ps =>
    let s := r.2
    let s := setAgentTime s (jobAg j) (readsTime s (jobAg j) (ps.flatMap (fun p => placeLines s j p.1 p.2)))
    let e := ps.foldl (fun (acc : List MByte × State) p =>
      let b := jobRead acc.2 (jobAg j) j fill p.1 p.2
      (acc.1 ++ b.1, b.2)) (([], s) : List MByte × State)
    (.ok e.1, e.2)

/-- The lowest byte that is poisoned, as an offset. -/
def firstBad (bs : List MByte) : Option Nat := (List.range bs.length).find? (fun i => match bs[i]? with | some b => b.bad | none => false)

/-- Note the first poisoned sector that an MVN meets, in ascending address order (R226). -/
def notePoison (s : State) (n : Nat) (x : Span) (bs : List MByte) : State :=
  match jobBySerial s n, firstBad bs with
  | some j, some i =>
    let a := spanGeneric (jobAp s j) x + i
    let va := a / 64 * 64
    let pa := match jobPlace s j .read ⟨0, x.ovr, x.first + i, 1⟩ with
      | (.ok (.mem _ pa _), _) => portRoute s pa / 64 * 64
      | (.ok (.bank o _), _) => bankLine o / 64 * 64
      | _ => 0
    match j.poison with
    | some (v, _) => if va < v then onJob s n (fun j => { j with poison := some (va, pa) }) else s
    | none => onJob s n (fun j => { j with poison := some (va, pa) })
  | _, _ => s

/-- Rows of an MVN from row `i` on: each is computed and written in turn; the result that stops the job. -/
def mvnRows (n fmt k sa rb : Nat) (fill : Bool) (b out : Span) (a : List MByte) :
    List Nat → State → Option (Nat × Nat × Nat) × State
  | [], s => (none, s)
  | i :: t, s =>
    match jobBySerial s n with
    | none => (none, s)
    | some j =>
      let x : Span := ⟨b.ovr, b.first + i * rb, rb⟩
      let r := mvnBytes j fill (spanChunks 0 x) s
      match r.1 with
      | .error f => (some (2, f.1, f.2), r.2)
      | .ok bs =>
        let row := bs.map (fun e => e.val)
        let bad := (firstBad bs).isSome || (firstBad a).isSome
        let s := notePoison r.2 n x bs
        if rowBad fmt k row (fun o => match bs[o]? with | some e => e.bad | none => false) then (some (5, 0, 0), s)
        else
          let y := if bad then 0 else mvnRow fmt k sa row (a.map (fun e => e.val))
          let c : Chunk := ⟨0, out.ovr, out.first + 4 * i, 4⟩
          let w := jobPlace s j .write c 4
          match w.1 with
          | .error why => (some (2, why, c.a), w.2)
          | .ok p =>
            let ws := (leBytes 4 y).map (fun e => (⟨e, false⟩ : MByte))
            mvnRows n fmt k sa rb fill b out a t (jobLand (jobWrite w.2 (jobAg j) j ws p) j 4)

/-- Run an MVN on the path that B's pages allow (R225). -/
def runMvn (s : State) (m fmt : Nat) (fb : Bool) (b : Span) (a n k : Nat) (out : Span) (sa : Nat) : State :=
  match jobBySerial s m with
  | none => s
  | some j =>
    let r := mvnPages j (mvnAlign fmt) (spanChunks 0 b) s []
    match r.1 with
    | .error f => onJob r.2 m (fun j => { j with res := some (2, f.1, f.2) })
    | .ok ps =>
      let k0 := match ps with | p :: _ => p.2.1 | [] => 8
      let near := !fb && k0 != 8 && ps.all (fun p => p.2.1 == k0 && !p.2.2)
      let s := mmCount r.2 (ceBlock j.die + (if near then 0x30 else 0x38)) 1
      let s := onJob s m (fun j => { j with near := if near then (ps.map (fun p => p.1)).foldl nsetInsert [] else [] })
      let ax : Span := ⟨2, a, k * mvnEs fmt⟩
      let av := mvnBytes j true (spanChunks 0 ax) s
      match av.1 with
      | .error f => onJob av.2 m (fun j => { j with res := some (2, f.1, f.2) })
      | .ok as =>
        let s := notePoison av.2 m ax as
        let e := mvnRows m fmt k sa (mvnRb fmt k) (!near) b out as (List.range n) s
        onJob e.2 m (fun j => { j with res := some (e.1.getD (0, 0, 0)) })

/-! ### Dispatch and completion (R203, R205, R206) -/

/-- A job's cause and poison stay pending on its counter (R205, R226, R414). -/
def jobPend (s : State) (j : Job) (st why fa : Nat) : State :=
  match findOp s j.gang j.op with
  | none => s
  | some (_, o) =>
    let s := if st = 2 ∨ st = 3 ∨ st = 5 then
        onGangId s j.gang (fun g => addPend g ⟨o.ctr, o.ticket, causeJob, if st = 2 then why else 0, if st = 2 then BitVec.ofNat 64 fa else 0, 0, 0⟩)
      else s
    match j.poison with
    | some p => onGangId s j.gang (fun g => addPend g ⟨o.ctr, o.ticket, causePoison, 2, BitVec.ofNat 64 p.1, p.2, 0⟩)
    | none => s

/-- A job completes (R205): its dependants lose their edge to it, come after it in the memory order (R204), and are not run where its status
says so. -/
def completeJob (s : State) (n st why fa : Nat) : State :=
  match jobBySerial s n with
  | none => s
  | some j =>
    let s := dropReserves s (fun r => r.die == j.die && r.job == j.entry)
    let bad := st = 2 ∨ st = 3 ∨ st = 5
    let after (k : Job) : Job :=
      if k.st != .complete && k.deps.contains n then
        { k with deps := k.deps.filter (fun d => d ≠ n), res := if bad then some (3, 0, 0) else k.res }
      else k
    let t := agentTime s (jobAg j)
    let s := (s.jobs.list.filter (fun k => k.st != .complete && k.deps.contains n)).foldl (fun s k =>
      raiseTime s (jobAg k) t) s
    let s := { s with jobs := { s.jobs with list := s.jobs.list.map after } }
    let s := onJob s n (fun j => { j with st := .complete, res := some (st, why, fa), buf := [], left := [], near := [], deps := [] })
    let s := mmCount s (ceBlock j.die + 0x10) 1
    let s := if st = 2 then mmCount s (ceBlock j.die + 0x28) 1 else s
    ceOcc (finishOp (jobPend (raiseLaunch s j.launch t) j st why fa) j.gang j.op t) j.die

/-- A queued job with every edge met, the oldest of its die. -/
def readyJob (s : State) (die : Nat) : Option Job := (liveJobs s die).find? (fun j => j.st == .queued && j.deps.isEmpty)

/-- Jobs that run on a die. -/
def runningJobs (s : State) (die : Nat) : List Job := (liveJobs s die).filter (fun j => j.st == .running)

/-- The copy engines of a die that are taken: an MVN near memory takes none (R200). -/
def enginesTaken (s : State) (die : Nat) : Nat := ((runningJobs s die).filter (fun j => j.near.isEmpty)).length

/-- Run a job that has just been dispatched. -/
def runJob (s : State) (j : Job) : State :=
  if j.res.isSome then s
  else match j.work with
    | .copy bulk src dst => startCopy s j.serial bulk src dst
    | .fill pat dst => runFill s j.serial pat dst
    | .fence | .none => onJob s j.serial (fun j => { j with res := some (0, 0, 0) })
    | .mvn fmt fb b a n k out sa => runMvn s j.serial fmt fb b a n k out sa

/-- Dispatch a ready job. With every engine taken only an MVN that runs near memory starts (R200, R203, R225). A job that would read a bank which
a stream has reserved waits for the end of the reservation (R66). -/
def dispatchJob (s : State) (j : Job) : State :=
  let t := runJob (onJob s j.serial (fun j => { j with st := .running })) j
  let near : Bool := match jobBySerial t j.serial with | some k => !k.near.isEmpty | none => false
  if (4 ≤ enginesTaken s j.die ∧ !near) ∨ t.dram.reading.2.any (fun b => !s.dram.reading.2.contains b) then s else t

/-- JOB_DISPATCH (R203, R206, R209, R211 to R213, R225, R226): the oldest ready job goes to an idle engine. -/
def execJobDispatch (die : Nat) (s : State) : Host.Outcome State Fault Refusal :=
  event s (fun s =>
    if s.cp.sub = some die then s
    else match readyJob s die with
      | none => s
      | some j => bounded (jobAg j) (fun s => dispatchJob s j) s)

/-- The bank number of a reservation. -/
def bankOf (r : Reserve) : Nat := 16 * pcNumber r.stack r.ch r.pc + r.bank

/-- A reservation, or a request for one, of a job. -/
def ownsReserve (j : Job) (r : Reserve) : Bool := r.die == j.die && r.job == j.entry

/-- The lines that a stream still has to read of its next row of a bank. -/
def nextRow (j : Job) (bank : Nat) : List (Nat × Nat × Nat × Nat) :=
  match j.left.filter (fun e => e.1 == bank) with
  | [] => []
  | e :: t => (e :: t).filter (fun x => x.2.1 == e.2.1)

/-- A job still streams: lines are left, or a bank that it holds has not been closed. -/
def streaming (s : State) (j : Job) : Bool := !j.left.isEmpty || s.dram.reserves.any (ownsReserve j)

/-- The cycle of a row of `n` lines, from its ACT on, at which its last column command comes, where `k` streams share the pins (R458, R459): the
share of the pseudo-channel's other requests is timing that the model leaves out (log entry 2). -/
def lastColumn (n k : Nat) : Nat := 12 + 2 * k * (4 * n - 1)

/-- A held reservation's stream opens its next row, or closes the bank where no row is left: its time has come, and no refresh suspends it. -/
def rowDue (s : State) (r : Reserve) : Bool := r.held && r.susp.isNone && decide (r.next ≤ s.cc)

/-- A stream goes on (R213, R458): each bank that it holds, and whose time has come, has its next row read, or is closed; then it asks for the
next banks. -/
def streamStep (s : State) (n : Nat) : State :=
  match jobBySerial s n with
  | none => s
  | some j =>
    let due (r : Reserve) : Bool := ownsReserve j r && rowDue s r
    let left := (s.dram.reserves.filter due).flatMap (fun r => nextRow j (bankOf r))
    let users (r : Reserve) : Nat := (s.dram.reserves.filter (fun x => x.held && x.susp.isNone && pcNumber x.stack x.ch x.pc == pcNumber r.stack r.ch r.pc)).length
    let opened (r : Reserve) : Reserve :=
      let c := lastColumn (nextRow j (bankOf r)).length (users r)
      { r with last := s.cc + c + 16, next := s.cc + Max.max (c + 14) 36 }
    let t := readChunks s n (leftChunks j left)
    let t := onJob t n (fun j => { j with left := j.left.filter (fun e => !left.contains e) })
    let t := dropReserves t (fun r => due r && (nextRow j (bankOf r)).isEmpty)
    let t := onDram t (fun d => { d with reserves := d.reserves.map (fun r => if due r then opened r else r) })
    requestBanks t n

/-- A running job ends; a bulk stream first goes on, and ends with its last bank. -/
def endJob (s : State) (j : Job) : State :=
  let s' := if streaming s j then streamStep s j.serial else s
  match jobBySerial s' j.serial with
  | none => s'
  | some k =>
    if streaming s' k then s'
    else
      let s' := match k.work with
        | .copy _ _ dst => if streaming s j then copyEnd s' k.serial dst else s'
        | _ => s'
      match (jobBySerial s' j.serial).bind (fun k => k.res) with
      | some (st, why, fa) => completeJob s' j.serial st why fa
      | none => s'

/-- JOB_COMPLETE (R202, R205, R208, R213). -/
def execJobComplete (die entry : Nat) (s : State) : Host.Outcome State Fault Refusal :=
  event s (fun s =>
    match jobAtEntry s die entry with
    | none => s
    | some j => if j.st ≠ .running then s else bounded (jobAg j) (fun s => endJob s j) s)

/-- RESERVATION_GRANTED (R66, R213): the controller grants request `n`, and the stream may open its first row of the bank. -/
def execReservationGranted (n : Nat) (s : State) : Host.Outcome State Fault Refusal :=
  event s (fun s =>
    match s.dram.reserves[n]? with
    | none => s
    | some r =>
      let pcn := pcNumber r.stack r.ch r.pc
      let clash := s.dram.reserves.any (fun x => x.held && pcNumber x.stack x.ch x.pc == pcn && x.bank / 4 == r.bank / 4)
      if r.held || clash || bankRefreshing s (16 * pcn + r.bank) || inBurst s pcn then s
      else rsvBits (onDram s (fun d => { d with reserves := listSet d.reserves n { r with held := true, last := s.cc, next := s.cc } })) pcn)

/-- RESERVATION_TIMEOUT (R66, R213): 4,096 cc after its last transfer a reservation is closed, and the engine asks again. A suspended one
does not time out. -/
def execReservationTimeout (n : Nat) (s : State) : Host.Outcome State Fault Refusal :=
  event s (fun s =>
    match s.dram.reserves[n]? with
    | none => s
    | some r =>
      if !r.held ∨ r.susp.isSome ∨ s.cc < r.last + 4096 then s
      else
        let pcn := pcNumber r.stack r.ch r.pc
        let s := dropReserves s (fun x => x == r)
        let s := mmAddSat s (pcStatOf pcn) 15 8
        match jobAtEntry s r.die r.job with
        | some j => requestBanks s j.serial
        | none => s)

/-- HINT_SERVED (R207): with no ready job, an engine prefetches the lines of the oldest hint. -/
def execHintServed (die : Nat) (s : State) : Host.Outcome State Fault Refusal :=
  event s (fun s =>
    if (readyJob s die).isSome ∨ 4 ≤ enginesTaken s die then s
    else match s.hints.find? (fun h => h.die == die) with
      | none => s
      | some h =>
        let s := { s with hints := s.hints.erase h }
        (List.range (h.last / 256 + 1 - h.first / 256)).foldl (fun s i =>
          prefetchLine s ⟨none, die, h.ctx, h.sup⟩ h.area ((h.first / 256 + i) * 256) none true) s)

/-- DEFERRED_MOVE_START (R225): a move that waited for a near-memory MVN starts, where the leaf still names the frame that the request found
(R125). While the release ring is disabled no move starts (R139). -/
def execDeferredMoveStart (n : Nat) (s : State) : Host.Outcome State Fault Refusal :=
  event s (fun s =>
    match s.deferred.find? (fun d => d.id == n) with
    | none => s
    | some d =>
      if nearBusy s d.ctx d.va d.lines ∨ mmField s (yoRlBase + 8) 0 0 = 0 then s
      else
        let s := { s with deferred := s.deferred.filter (fun x => x.id ≠ n) }
        let req : Move :=
          { no := d.no, st := .recall, ctx := d.ctx, va := d.va, src := 0, dst := d.dst, pool := d.pool, lines := d.lines, cursor := 0,
            hold := .none, th := 0, stk := 0, req := d.req, trap := d.trap, buf := [], bufPoison := [], want := none, abort := none,
            atCursor := 0, leaseEnd := 0, closedAt := 0, leafLost := false, pinWait := [] }
        match leafOf s d.ctx d.va with
        | none => answerMig (giveFrames s 512 d.dst (d.lines / 16) d.pool) req 9
        | some w =>
          let r := openMove s d.no d.ctx d.va d.pfn w d.dst d.pool d.lines d.req d.trap
          match r.1 with
          | some st => answerMig r.2 req st
          | none => r.2)

/-! ### CPY and CPYB (R215) -/

/-- The first index outside an extent, where a range of `n` indices from `i` is not within it (R247). -/
def rangeOutside (i : Int) (n : Nat) (ext : Nat) : Option Int :=
  if n = 0 ∨ (0 ≤ i ∧ i + n ≤ ext) then none else some (if i < 0 then i else Max.max i ext)

/-- BoundsTrap for an index, with the arm's whole mask. -/
def rangeTrap (g : Gang) (i : Int) : Trap := plainTrap g causeBounds (if i < 0 then 1 else 2) (sext64 i)

/-- Team barrier of a BT field (R214). -/
def btOf (bt : BitVec 5) : Option Nat := if bt = 0 then none else some (bt.toNat - 1)

/-- CPY and CPYB. -/
def copyBody (bulk : Bool) (bt : BitVec 5) (hv : Bool) (d : Nat) (aa ab : DescNo) (e : Nat) (cn : CtrNo) (s : State) : Exe :=
  withCtr cn s (fun s => withDesc aa s (fun s => withDesc ab s (fun s => withScheduler s (fun s =>
    let g := s.gang
    let a := readA g aa.toNat
    let b := readA g ab.toNat
    let es := descBytes a
    let di := (readS g e).toInt
    let si := (readS g (e + 1)).toInt
    let n := (readS g (e + 2)).toNat
    let p := apCtx s
    let dst : Span := ⟨descOvr a, elemAddr a di, n * es⟩
    let src : Span := ⟨descOvr b, elemAddr b si, n * es⟩
    if es = 0 ∨ descEs a ≠ descEs b then .trap (armTrap g causeProtection 0x10 0 .write) s
    else match rangeOutside di n (descExtent a), rangeOutside si n (descExtent b) with
      | some i, _ => .trap (rangeTrap g i) s
      | none, some i => .trap (rangeTrap g i) s
      | none, none =>
        match spanStack p dst, spanStack p src with
        | some f, _ => .trap (armTrap g causeProtection 0x12 f .write) s
        | none, some f => .trap (armTrap g causeProtection 0x12 f .read) s
        | none, none =>
          if n = 0 then
            -- The job completes with status 0 at once.
            (submitJob s cn hv d ⟨.none, [], [], btOf bt, some (0, 0, 0)⟩).bind (fun t => .ok (completeJob t (t.serial - 1) 0 0 0))
          else submitJob s cn hv d ⟨.copy bulk [src] [dst], spanRegions p [src], spanRegions p [dst], btOf bt, none⟩))))

/-- CPY (R215). -/
def execCpy (bt : BitVec 5) (hv : Bool) (d : Reg) (aa ab : DescNo) (e : Reg) (cn : CtrNo) (s : State) :
    Host.Outcome State Fault Refusal :=
  issue (.cpy bt hv d aa ab e cn) false s (fun s => copyBody false bt hv d.toNat aa ab e.toNat cn s)

/-- CPYB (R213, R215). -/
def execCpyb (bt : BitVec 5) (hv : Bool) (d : Reg) (aa ab : DescNo) (e : Reg) (cn : CtrNo) (s : State) :
    Host.Outcome State Fault Refusal :=
  issue (.cpyb bt hv d aa ab e cn) false s (fun s => copyBody true bt hv d.toNat aa ab e.toNat cn s)

/-! ### CLOSE and JST (R216, R218) -/

/-- The job is a CPYB. -/
def isBulk (j : Job) : Bool := match j.work with | .copy b _ _ => b | _ => false

/-- Close a CPYB (R216): a queued one has copied nothing; a running one writes the destination lines whose source lines have been
read. -/
def closeJob (s : State) (j : Job) : State :=
  let s := match j.st, j.work with
    | .running, .copy _ _ dst => if !streaming s j then s else writeChunks s j.serial (chunksOf 0 dst)
    | _, _ => s
  completeJob s j.serial 1 0 0

/-- CLOSE (R216). -/
def execClose (e : Reg) (cn : CtrNo) (s : State) : Host.Outcome State Fault Refusal :=
  issue (.close e cn) false s (fun s => withCtr cn s (fun s =>
    let s := match jobOfHandle s (readS s.gang e.toNat).toNat with
      | some j => if j.ctx = s.gang.ctx ∧ j.st ≠ .complete ∧ isBulk j then closeJob s j else s
      | none => s
    .ok (startOp s cn .mem [] [] true).2.2))

/-- The pair that JST answers (R218). -/
def jstAnswer (s : State) (h : Nat) : Nat × Nat :=
  match jobOfHandle s h with
  | none => (3 * 2 ^ 30, 0)
  | some j =>
    if j.ctx ≠ s.gang.ctx then (3 * 2 ^ 30, 0)
    else match j.st with
      | .queued => (0, j.latency)
      | .running => (2 ^ 30, j.latency)
      | .complete =>
        let r := j.res.getD (0, 0, 0)
        (2 * 2 ^ 30 + r.1 * 2 ^ 16 + (if r.1 = 2 then r.2.1 * 2 ^ 8 else 0), j.latency)

/-- JST (R218). -/
def execJst (d e : Reg) (cn : CtrNo) (s : State) : Host.Outcome State Fault Refusal :=
  issue (.jst d e cn) false s (fun s => withCtr cn s (fun s =>
    let r := jstAnswer s (readS s.gang e.toNat).toNat
    .ok (startOp s cn .mem [⟨false, d.toNat, 0, BitVec.ofNat 32 r.1⟩, ⟨false, d.toNat + 1, 0, BitVec.ofNat 32 r.2⟩]
      [(false, d.toNat, Shadow.top), (false, d.toNat + 1, Shadow.top)] true).2.2))

/-! ### JOB (R210, R211, R217) -/

/-- Region `i` of a card. -/
def cardSpan (bs : List Byte) (i : Nat) : Span := ⟨0, recNat bs (32 + 16 * i) 8, recNat bs (40 + 16 * i) 4⟩

/-- The read regions of a card in use. -/
def cardReads (bs : List Byte) : List Span := (List.range (recNat bs 1 1)).map (cardSpan bs)

/-- The write regions of a card in use. -/
def cardWrites (bs : List Byte) : List Span := (List.range (recNat bs 2 1)).map (fun i => cardSpan bs (4 + i))

/-- A card obeys R210 and R211. -/
def cardOk (bs : List Byte) : Bool :=
  let op := recNat bs 0 1
  let nr := recNat bs 1 1
  let nw := recNat bs 2 1
  let zero (o n : Nat) : Bool := recNat bs o n == 0
  let used (i : Nat) : Bool := if i < 4 then decide (i < nr) else decide (i - 4 < nw)
  decide (op ≤ 2) && decide (nr ≤ 4) && decide (nw ≤ 2) && decide (recNat bs 3 1 ≤ 16) && zero 4 4 && zero 16 16 &&
    (List.range 6).all (fun i =>
      if used i then decide (1 ≤ (cardSpan bs i).len) && zero (44 + 16 * i) 4 else zero (32 + 16 * i) 16) &&
    (match op with
     | 0 => decide (1 ≤ nr) && decide (1 ≤ nw) && spansLen (cardReads bs) == spansLen (cardWrites bs)
     | 1 => nr == 0 && decide (1 ≤ nw)
     | _ => true)

/-- The job that a card's bytes ask for (R202, R211). -/
def cardJob (p : ApCtx) (bs : List Byte) : JobSpec :=
  if !cardOk bs then ⟨.none, [], [], none, some (5, 0, 0)⟩
  else
    let rs := cardReads bs
    let ws := cardWrites bs
    let work : JobWork := match recNat bs 0 1 with
      | 0 => .copy false rs ws
      | 1 => .fill (recNat bs 8 8) ws
      | _ => .fence
    ⟨work, spanRegions p rs, spanRegions p ws, btOf (BitVec.ofNat 5 (recNat bs 3 1)),
     ((rs ++ ws).findSome? (spanStack p)).map (fun a => (2, 0x12, a))⟩

/-- A card that cannot be used (R217). -/
def badCard (why fa : Nat) : JobSpec := ⟨.none, [], [], none, some (2, why, fa)⟩

/-- The agent that reads a card: the scheduler, for the submitting arm. -/
def cardAgent (s : State) : Job :=
  { die := s.gang.core / 96, entry := 0, gen := 0, serial := 0, st := .queued, ctx := s.gang.ctx, launch := s.gang.launch,
    team := s.gang.team, gang := s.gang.id, op := 0, core := s.gang.core, sup := s.gang.arm.sup, apVa := s.gang.apbase.toNat % 2 ^ 17,
    bkwin := s.gang.bkwin.toNat, work := .none, reads := [], writes := [], barrier := none, deps := [], buf := [], left := [],
    limit := 0, res := none, poison := none, near := [], latency := 0 }

/-- Read the card at an address (R217): a fault is reported with the faulting line's address, the line of the card. -/
def readCard (s : State) (a : Nat) : JobSpec × State :=
  if a % 128 ≠ 0 then (badCard 0x13 a, s)
  else
    let j := cardAgent s
    let r := jobPlace s j .read ⟨0, 0, a, 128⟩
    match r.1 with
    | .error why => (badCard why (a / 256 * 256), r.2)
    | .ok p =>
      let b := jobRead r.2 (armNo s) j true 128 p
      match firstBad b.1 with
      | some i => (badCard 0x14 (a + i / 64 * 64), b.2)
      | none => (cardJob (apCtx b.2) (b.1.map (fun e => e.val)), b.2)

/-- JOB (R217). -/
def execJob (hv : Bool) (d e : Reg) (cn : CtrNo) (s : State) : Host.Outcome State Fault Refusal :=
  issue (.job hv d e cn) false s (fun s => withCtr cn s (fun s => withScheduler s (fun s =>
    let c := readCard s (readS64 s.gang e.toNat).toNat
    submitJob c.2 cn hv d.toNat c.1)))

/-! ### MVN (R224) -/

/-- MVN. -/
def mvnBody (fmt : Nat) (fb : Bool) (bt : BitVec 5) (hv : Bool) (d : Nat) (aa ab : DescNo) (e : Nat) (cn : CtrNo) (s : State) : Exe :=
  withCtr cn s (fun s => withDesc aa s (fun s => withDesc ab s (fun s => withScheduler s (fun s =>
    let g := s.gang
    let a := readA g aa.toNat
    let b := readA g ab.toNat
    let off := (readS g e).toNat
    let n := (readS g (e + 1)).toNat
    let k := (readS g (e + 2)).toNat
    let y := (readS g (e + 3)).toInt
    let sa := (readS g (e + 4)).toNat
    let rb := mvnRb fmt k
    let p := apCtx s
    let al := k * mvnEs fmt
    let out : Span := ⟨descOvr a, elemAddr a y, 4 * n⟩
    let bx : Span := ⟨descOvr b, descBase b, n * rb⟩
    let ya := apKind p (descOvr a) (elemAddr a y)
    if descEs a ≠ 2 ∨ descEs b ≠ 0 then .trap (armTrap g causeProtection 0x10 0 .read) s
    else match rangeOutside 0 (n * rb) (descExtent b), rangeOutside y n (descExtent a) with
      | some i, _ => .trap (rangeTrap g i) s
      | none, some i => .trap (rangeTrap g i) s
      | none, none =>
        if apKind p (descOvr b) (descBase b) ≠ .glob ∨ spanMeets p bx 0 (2 ^ 40) then .trap (armTrap g causeProtection 0x12 (descBase b) .read) s
        else if ya ≠ .scratch ∧ ya ≠ .bank then .trap (armTrap g causeProtection 0x12 (elemAddr a y) .write) s
        else if al ≠ 0 ∧ p.scrSize < off + al then .trap (armTrap g causeProtection 0x0C off .read) s
        else if off % 4 ≠ 0 then .trap (plainTrap g causeMisaligned 0 off) s
        else
          let ok := decide (1 ≤ n) && decide (n ≤ 1048576) && decide (32 ≤ k) && decide (k ≤ 65536) && k % 32 == 0 && k % mvnG fmt == 0
          submitJob s cn hv d ⟨.mvn fmt fb bx off n k out sa, spanRegions p [bx, ⟨2, off, al⟩], spanRegions p [out], btOf bt,
            if ok then none else some (5, 0, 0)⟩))))

/-- MVN (R224 to R226). -/
def execMvn (fmt : BitVec 4) (fb : Bool) (bt : BitVec 5) (hv : Bool) (d : Reg) (aa ab : DescNo) (e : Reg) (cn : CtrNo) (s : State) :
    Host.Outcome State Fault Refusal :=
  issue (.mvn fmt fb bt hv d aa ab e cn) false s (fun s => mvnBody fmt.toNat fb bt hv d.toNat aa ab e.toNat cn s)

end Sys2Proof.Machine
end

