-- ==== Sys2Proof/Machine/Streams.lean ====
section
/-! DEFINITION. Opening and closing streams, and their run-ahead (R219 to R223). -/

namespace Sys2Proof.Machine

/-- Levels of a STRM block: count and stride of each (R220). -/
def strmLevels (g : Gang) (e depth : Nat) : List (Nat × Int) :=
  (List.range depth).map (fun k => ((readS g (e + 1 + 2 * k)).toNat, (readS g (e + 2 + 2 * k)).toInt))

/-- The lowest and the highest index of a stream (R220). -/
def strmRange (off : Int) (ls : List (Nat × Int)) : Int × Int :=
  ls.foldl (fun r l =>
    let x := ((l.1 : Int) - 1) * l.2
    (r.1 + Min.min 0 x, r.2 + Max.max 0 x)) (off, off)

/-- STRM (R220): an open stream of the queue closes first; the new one opens, checked where its range leaves the extent. Neither its base nor
an element of its range may lie in bank memory or the lane stack. The stream's reads come after the accesses that its gang has made (R222). -/
def strmBody (q : Nat) (aa : DescNo) (e : Nat) (sx : Bool) (hn : Hint) (depth : Nat) (cn : CtrNo) (s : State) : Exe :=
  withCtr cn s (fun s => withDesc aa s (fun s =>
    let s := s.onGang (fun g => putStream g q Stream.closed)
    let g := s.gang
    let a := readA g aa.toNat
    let k := apKind (apCtx s) (descOvr a) (descBase a)
    let off := (readS g e).toInt
    let ls := strmLevels g e depth
    let r := strmRange off ls
    let total := ls.foldl (fun n l => n * l.1) 1
    let lo : Int := Max.max r.1 0
    let hi : Int := Min.min r.2 ((descExtent a : Int) - 1)
    let els : Span := ⟨descOvr a, elemAddr a lo, if total != 0 && decide (lo ≤ hi) then (hi + 1 - lo).toNat * descBytes a else 0⟩
    let far : Bool := spanMeets (apCtx s) els (2 ^ 32) (2 ^ 32 + 2 ^ 26) || spanMeets (apCtx s) els (2 ^ 39) (2 ^ 40)
    let out : Bool := total != 0 && (decide (r.1 < 0) || decide ((descExtent a : Int) ≤ r.2))
    if descBytes a = 0 then .trap (armTrap g causeProtection 0x10 0 .read) s
    else if k = .bank ∨ k = .stack ∨ far then .trap (armTrap g causeProtection 0x12 (descBase a) .read) s
    else if out ∧ descTrap a then .trap (rangeTrap g (if r.1 < 0 then r.1 else r.2)) s
    else
      let o := startOp (raiseTime s (streamAg s) (gangTime s.gang)) cn .fill [] [] true
      .ok (o.2.2.onGang (fun g => putStream g q
        { isOpen := true, desc := a, off := off, levels := ls, sx := sx, hn := hn, checked := out, cursor := 0, ahead := [],
          ctr := cn.toNat, ticket := o.2.1.toNat }))))

/-- STRM (R220). -/
def execStrm (q : BitVec 2) (aa : DescNo) (e : Reg) (sx : Bool) (hn : Hint) (depth : BitVec 2) (cn : CtrNo) (s : State) :
    Host.Outcome State Fault Refusal :=
  issue (.strm q aa e sx hn depth cn) false s (fun s => strmBody q.toNat aa e.toNat sx hn (depth.toNat + 1) cn s)

/-- SCLOSE (R223). -/
def execSclose (q : StreamSel) (cn : CtrNo) (s : State) : Host.Outcome State Fault Refusal :=
  issue (.sclose q cn) false s (fun s => withCtr cn s (fun s =>
    let qs := match q with | .one n => [n.toNat] | .all => [0, 1, 2, 3]
    let s := s.onGang (fun g => qs.foldl (fun g n => putStream g n Stream.closed) g)
    .ok (startOp s cn .fill [] [] true).2.2))

/-- The next position that run-ahead fetches: up to 4 × W elements past the cursor, W as declared (R220). -/
def aheadNext (g : Gang) (q : Stream) : Option Nat :=
  if !q.isOpen then none
  else (natRange q.cursor (4 * g.declared)).find? (fun p => decide (p < streamTotal q) && !(q.ahead.any (fun e => e.1 == p)))

/-- STREAM_RUN_AHEAD (R220, R222): queue `q` of gang `g` fetches its next element as a prefetch. -/
def execStreamRunAhead (g q : Nat) (s : State) : Host.Outcome State Fault Refusal :=
  event s (fun s0 =>
    let s := focusOn s0 g 0
    if !s.live ∨ s.gang.id ≠ g then s
    else match s.gang.streams[q]? with
      | none => s
      | some x => match aheadNext s.gang x with
        | none => s
        | some p => bounded (streamNo s.gang.core s.gang.gslot) (fun s => streamFetch s q p) s)

end Sys2Proof.Machine
end

