-- ==== Sys2Proof/Machine/Matrix.lean ====
section
/-! DEFINITION. The matrix engines (R300 to R328). -/

namespace Sys2Proof.Machine

/-! ### Formats and pairings (R303, R304) -/

/-- Bits of an element. -/
def mxBits : Nat → Nat
  | 0 => 64 | 1 => 32 | 2 | 3 => 16 | 7 => 4 | _ => 8

/-- The floating format of FMT 0 to 5. -/
def mxFloat : Nat → Fmt
  | 0 => .f64 | 1 => .f32 | 2 => .bf16 | 3 => .f16 | 4 => .e4m3 | _ => .e5m2

/-- How a pairing sums. -/
inductive MxRule where
  | chain
  | exact
  | int
  | group
  deriving DecidableEq, Repr

/-- The pairing of A's and B's formats: tile kind and summation (R304). -/
def mxPair (a b : Nat) : Option (AccKind × MxRule) :=
  match a, b with
  | 0, 0 => some (.f64, .chain)
  | 1, 1 => some (.f32, .chain)
  | 2, 2 | 3, 3 => some (.f32, .exact)
  | 4, 4 | 4, 5 | 5, 4 | 5, 5 => some (.f32, .exact)
  | 6, 6 => some (.i32, .int)
  | 6, 7 | 6, 8 => some (.f32, .group)
  | _, _ => none

/-- G of a group code. -/
def mxG (gc : Nat) : Nat := 32 * 2 ^ (gc - 1)

/-- Ge: the bytes of a group's elements. -/
def mxGe (r : MxRes) : Nat := mxG r.gc * mxBits r.fmt / 8

/-- SPC. -/
def mxSpc (r : MxRes) : Nat := r.pitch / mxGe r

/-- Offset of scale entry (c, g). -/
def scaleOff (r : MxRes) (c g : Nat) : Nat := r.soff + 4 * (c * mxSpc r + g)

/-! ### The engine's tables -/

/-- Put the engines' state. -/
def onMx (s : State) (f : Mx → Mx) : State := { s with mx := f s.mx }

/-- A reservation. -/
def mxRes (s : State) (id : Nat) : Option MxRes := s.mx.res.find? (fun r => r.id == id)

/-- A tile. -/
def mxTile (s : State) (id : Nat) : Option MxTile := s.mx.tiles.find? (fun t => t.id == id)

/-- Put a reservation. -/
def putRes (s : State) (r : MxRes) : State := onMx s (fun m => { m with res := listUpdate (fun x => x.id == r.id) (fun _ => r) m.res })

/-- Put a tile. -/
def putTile (s : State) (t : MxTile) : State := onMx s (fun m => { m with tiles := listUpdate (fun x => x.id == t.id) (fun _ => t) m.tiles })

/-- The reservation that the executing gang's team holds under a handle. -/
def heldRes (s : State) (h : Nat) : Option MxRes :=
  s.mx.res.find? (fun r => r.team == s.gang.team && r.core == s.gang.core && r.h == h && r.held)

/-- The tile that the executing gang's team has bound at a number. -/
def boundTile (s : State) (n : Nat) : Option MxTile :=
  s.mx.tiles.find? (fun t => t.team == s.gang.team && t.core == s.gang.core && t.no == n && t.bound)

/-- A number is the odd half of a bound F64 tile (R307). -/
def oddHalf (s : State) (n : Nat) : Bool :=
  n % 2 == 1 && (match boundTile s (n - 1) with | some t => t.kind == .f64 | none => false)

/-- Free slots of a core's accumulator memory. -/
def freeSlots (s : State) (core : Nat) : Nat := 64 - ((s.mx.tiles.filter (fun t => t.core == core)).foldl (fun n t => n + t.slots) 0)

/-- Granules that reservations of a core take. -/
def takenGranules (s : State) (core : Nat) : List (Nat × Nat) :=
  (s.mx.res.filter (fun r => r.core == core)).map (fun r => (r.start, (r.size + 1023) / 1024))

/-- Free granules. -/
def freeGranules (s : State) (core : Nat) : Nat := 512 - (takenGranules s core).foldl (fun n g => n + g.2) 0

/-- The lowest run of free granules that fits. -/
def freeRun (s : State) (core n : Nat) : Option Nat :=
  (List.range (513 - n)).find? (fun a => (takenGranules s core).all (fun g => decide (a + n ≤ g.1) || decide (g.1 + g.2 ≤ a)))

/-- The commands queued on a core. -/
def coreQueue (s : State) (core : Nat) : List MxCmd := s.mx.queue.filter (fun c => c.core == core)

/-! ### Values -/

/-- A reservation's byte; one that has not been loaded is unspecified (R316): log entry 4. -/
def resByte (r : MxRes) (o : Nat) : Nat :=
  match smapGet 0 r.data o with
  | 0 => (Config.freeByte r.id o).toNat
  | b + 1 => b

/-- Bytes of a reservation, as a number. -/
def resNat (r : MxRes) (o : Nat) : Nat → Nat
  | 0 => 0
  | n + 1 => resByte r o + 256 * resNat r (o + 1) n

/-- Write bytes into a reservation. -/
def resWrite (r : MxRes) (o : Nat) : List Byte → MxRes
  | [] => r
  | b :: bs => resWrite { r with data := smapSet 0 r.data o (b.toNat + 1) } (o + 1) bs

/-- Element `k` of a fragment's row or column that begins at byte `o` (R306). -/
def resElem (r : MxRes) (o k : Nat) : Nat :=
  let b := mxBits r.fmt
  if b = 4 then resByte r (o + k / 2) / 2 ^ (4 * (k % 2)) % 16 else resNat r (o + k * (b / 8)) (b / 8)

/-- A fragment at an offset: 32 rows of A, or columns of B, of 32 elements. -/
def fragment (r : MxRes) (o : Nat) : List (List Nat) :=
  (List.range 32).map (fun m => (List.range 32).map (fun k => resElem r (o + m * r.pitch) k))

/-- A sparse table read from key `k` on. -/
def dense {α : Type} (d : α) : Nat → Nat → List (Nat × α) → List α
  | _, 0, _ => []
  | k, n + 1, [] => d :: dense d (k + 1) n []
  | k, n + 1, e :: t => if e.1 = k then e.2 :: dense d (k + 1) n t else d :: dense d (k + 1) n (e :: t)

/-- A list of values as a sparse table. -/
def sparse {α : Type} [DecidableEq α] (d : α) (xs : List α) : List (Nat × α) :=
  ((List.range xs.length).zip xs).filter (fun e => e.2 ≠ d)

/-- The 1,024 elements of a tile, row by row. -/
def tileVals (t : MxTile) : List Nat := dense 0 0 1024 t.vals

/-! ### K-steps and folds (R307 to R310) -/

/-- Fold a pending partial with the scale entries that its tag names (R309). -/
def foldTile (r : MxRes) (tg : MxTag) (t : MxTile) : MxTile × Flags :=
  let hs := (List.range 32).map (fun n => resNat r (scaleOff r (tg.col + n) tg.grp) 2)
  let xs := ((tileVals t).zip (dense 0 0 1024 t.part)).zip ((List.range 32).flatMap (fun _ => hs))
  let rs := xs.map (fun x => foldPart x.1.1 x.1.2 x.2)
  let f : Flags := rs.foldl (fun f x => f ||| x.2) 0
  ({ t with vals := sparse 0 (rs.map (fun x => x.1)), part := [], tag := none, flags := t.flags ||| f }, f)

/-- Fold a tile's partial where one is pending. -/
def foldPending (s : State) (t : MxTile) : MxTile × Flags :=
  match t.tag with
  | none => (t, 0)
  | some tg => match mxRes s tg.res with
    | some r => foldTile r tg t
    | none => ({ t with part := [], tag := none }, 0)

/-- Combine every element of a tile with its row of A and column of B. -/
def mapTile (t : MxTile) (fa fb : List (List Nat)) (f : Nat → List (Nat × Nat) → Nat × Flags) : MxTile × Flags :=
  let xs := (tileVals t).zip (fa.flatMap (fun a => fb.map (fun b => a.zip b)))
  let rs := xs.map (fun x => f x.1 x.2)
  let fl : Flags := rs.foldl (fun f x => f ||| x.2) 0
  ({ t with vals := sparse 0 (rs.map (fun x => x.1)), flags := t.flags ||| fl }, fl)

/-- Sum of the products of signed bytes, modulo 2^32 (R308). -/
def intStep (acc : Nat) (ps : List (Nat × Nat)) : Nat × Flags :=
  let xs : List (Int × Int) := ps.map (fun p => (codeAt 8 true (fun _ => p.1) 0, codeAt 8 true (fun _ => p.2) 0))
  ((((acc : Int) + dotInt xs) % 4294967296).toNat, 0)

/-- One K-step of a group pairing (R309). -/
def groupStep (s : State) (rb : MxRes) (ob : Nat) (fa fb : List (List Nat)) (t : MxTile) : MxTile × Flags :=
  let pos := ob % rb.pitch
  let tg : MxTag := ⟨rb.id, ob / rb.pitch, pos / mxGe rb⟩
  let x := if t.tag.isSome ∧ t.tag ≠ some tg then foldPending s t else (t, 0)
  let t := x.1
  let bits := mxBits rb.fmt
  let cols := (fb.zip (List.range 32)).map (fun b =>
    let e := resNat rb (scaleOff rb (tg.col + b.2) tg.grp) 4
    (recZ e, b.1.map (fun q => codeAt bits (recSg e) (fun _ => q) 0)))
  let rows := fa.map (fun a => a.map (fun x => codeAt 8 true (fun _ => x) 0))
  let adds := rows.flatMap (fun a => cols.map (fun c => groupDot c.1 (c.2.zip a)))
  let part : List Int := ((dense (0 : Int) 0 1024 t.part).zip adds).map (fun (p : Int × Int) => p.1 + p.2)
  let t := { t with part := sparse 0 part, tag := some tg }
  if (pos + 32 * bits / 8) % mxGe rb = 0 then
    let y := foldTile rb tg t
    (y.1, x.2 ||| y.2)
  else (t, x.2)

/-- One K-step (R308, R309). -/
def kStepTile (s : State) (ra rb : MxRes) (oa ob : Nat) (t : MxTile) : MxTile × Flags :=
  let fa := fragment ra oa
  let fb := fragment rb ob
  match mxPair ra.fmt rb.fmt with
  | none => (t, 0)
  | some (_, .group) => groupStep s rb ob fa fb t
  | some (_, rule) =>
    let x := foldPending s t
    let f := match rule with
      | .chain => chain (mxFloat ra.fmt)
      | .exact => exactStep (mxFloat ra.fmt) (mxFloat rb.fmt)
      | _ => intStep
    let y := mapTile x.1 fa fb f
    (y.1, x.2 ||| y.2)

/-- The K-steps of a command, in ascending step number (R302, R319). -/
def kSteps (s : State) (ra rb : MxRes) (oa ob da db : Int) : Nat → Nat → MxTile × Flags → MxTile × Flags
  | _, 0, x => x
  | i, n + 1, x =>
    let y := kStepTile s ra rb (oa + i * da).toNat (ob + i * db).toNat x.1
    kSteps s ra rb oa ob da db (i + 1) n ({ y.1 with steps := Min.min (y.1.steps + 1) (2 ^ 32 - 1) }, x.2 ||| y.2)

/-! ### Running commands (R302, R311, R312) -/

/-- A command as an agent that moves bytes, in the terms of a job. -/
def mxAgent (s : State) (c : MxCmd) : Job :=
  { cardAgent s with die := c.core / 96, ctx := c.ctx, launch := c.launch, team := c.team, gang := c.gang, op := c.op, core := c.core,
                     sup := c.sup }

/-- Where a piece lies: as the issue translated it, through the move port where its page moves (R312). A frame's port does not close before
the command has run (`stillUsed`). -/
def piecePlace (p : MxPiece) : JPlace := if p.scratch then .scr p.pa else .mem p.va p.pa 0

/-- Read a piece: a poisoned sector gives zero bytes (R312). The bytes and the first poisoned sector. -/
def pieceRead (s : State) (c : MxCmd) (p : MxPiece) : List Byte × Option (Nat × Nat) × State :=
  let at_ := piecePlace p
  let r := jobRead s (mxNo c.core) (mxAgent s c) true p.n at_
  let pa (i : Nat) : Nat := match at_ with | .mem _ pa _ => portRoute s (pa + i) / 64 * 64 | _ => 0
  let sector (i : Nat) : Nat := (p.va + i) / 64
  let bad (i : Nat) : Bool := ((r.1.zip (List.range p.n)).any (fun b => b.1.bad && sector b.2 == sector i))
  ((r.1.zip (List.range p.n)).map (fun b => if bad b.2 then 0 else b.1.val),
   (firstBad r.1).map (fun i => ((p.va + i) / 64 * 64, pa i)), r.2)

/-- Read pieces in order, at one logical time: bytes of each, and the first poisoned sector of all. -/
def piecesRead (s : State) (c : MxCmd) (ps : List MxPiece) : List (List Byte) × Option (Nat × Nat) × State :=
  let s := setAgentTime s (mxNo c.core) (readsTime s (mxNo c.core) (ps.flatMap (fun p => placeLines s (mxAgent s c) p.n (piecePlace p))))
  ps.foldl (fun (acc : List (List Byte) × Option (Nat × Nat) × State) p =>
    let r := pieceRead acc.2.2 c p
    (acc.1 ++ [r.1], firstMark acc.2.1 r.2.1, r.2.2)) ([], none, s)

/-- The collectors drop what they hold of a reservation (R320). -/
def dropLatch (s : State) (res : Nat) : State := onMx s (fun m => { m with coll := m.coll.filter (fun l => l.res ≠ res) })

/-- A fragment that a command has read under a reuse hint stays latched; without the hint the latch stays as it is (R320). -/
def latchFrag (s : State) (use isB : Bool) (core res off : Nat) : State :=
  if use then onMx s (fun m => { m with coll := m.coll.filter (fun l => !(l.core == core && l.isB == isB)) ++ [⟨core, isB, res, off⟩] }) else s

/-- A command is done: its flags and causes stay pending on its counter, and it may arrive (R311, R313). -/
def mxDone (s : State) (c : MxCmd) (f : Flags) (bad : Option (Nat × Nat)) (mal : Option Nat) : State :=
  let s := onMx s (fun m => { m with queue := m.queue.filter (fun x => x.id ≠ c.id), last := smapSet 0 m.last c.core s.cc })
  match findOp s c.gang c.op with
  | none => s
  | some (_, o) =>
    let pend (cause why fa pa : Nat) (fl : Flags) (s : State) : State :=
      onGangId s c.gang (fun g => addPend g ⟨o.ctr, o.ticket, cause, why, BitVec.ofNat 64 fa, pa, fl⟩)
    let s := if f = 0 then s else pend 0 0 0 0 f s
    let s := match bad with | some p => pend causePoison 2 p.1 p.2 0 s | none => s
    let s := match mal with | some a => pend causeOb 8 a 0 0 s | none => s
    finishOp s c.gang c.op (agentTime s (mxNo c.core))

/-- Put the register writes of a command's landing. -/
def mxLands (s : State) (c : MxCmd) (ws : List RegWrite) : State := updateOp s c.gang c.op (fun o => { o with lands := ws })

/-- A tile's elements as bytes of a row-major image, `es` bytes each. -/
def tileImage (t : MxTile) (es : Nat) : List Byte := (tileVals t).flatMap (fun v => leBytes es v)

/-- Bytes of an element of a kind. -/
def kindBytes : AccKind → Nat
  | .f64 => 8
  | _ => 4

/-- ACZ, ACLD: a tile starts anew with these elements (R321, R322). -/
def freshTile (t : MxTile) (vals : List (Nat × Nat)) : MxTile :=
  { t with vals := vals, part := [], tag := none, flags := 0, steps := 0 }

/-- MSTAT's pair (R323). -/
def mstatPair (s : State) (core : Nat) : MxView → Nat × Nat
  | .acc none | .ob none => (0, 0)
  | .acc (some (id, k)) =>
    match mxTile s id with
    | none => (0, 0)
    | some t =>
      let kc := match k with | .f32 => 0 | .i32 => 1 | .f64 => 2
      (2 ^ 31 + kc * 2 ^ 29 + (if t.tag.isSome then 2 ^ 28 else 0) + t.flags.toNat, t.steps)
  | .ob (some id) =>
    match mxRes s id with
    | none => (0, 0)
    | some r => (2 ^ 31 + r.fmt * 2 ^ 27 + r.gc * 2 ^ 25 + r.size, r.soff / 4 * 2 ^ 15 + r.pitch / 16)
  | .eng =>
    (Min.min 255 (mmGet s (mxBlock (core / 96) + 0x10)) * 2 ^ 24 + (coreQueue s core).length * 2 ^ 8 + freeSlots s core,
     freeGranules s core)

/-- Fold a tile before a command that reads it (R309). -/
def foldFirst (s : State) (t : MxTile) : Flags × MxTile × State :=
  let x := foldPending s t
  (x.2, x.1, putTile s x.1)

/-- A record's header is malformed for a reservation (R263, R318). -/
def recordBad (r : MxRes) (hdr : Nat) : Bool := hdr / 2 ^ 24 % 8 != (if r.fmt = 7 then r.gc else 3 + r.gc) || hdr / 2 ^ 27 % 16 != 0

/-- Put a record's elements and its scale entry in place (R318). -/
def putRecord (r : MxRes) (bs : List Byte) (c g : Nat) : MxRes :=
  let hdr := elemAt bs 0 4
  let r := resWrite r (c * r.pitch + g * mxGe r) (bs.drop 4)
  resWrite r (scaleOff r c g) (leBytes 4 (hdr % 2 ^ 24 + hdr / 2 ^ 31 % 2 * 2 ^ 31))

/-- Join the pieces of each record: record address, column, group and bytes, in order. -/
def joinRecords : List ((MxPiece × Nat × Nat) × List Byte) → List (Nat × Nat × Nat × List Byte)
  | [] => []
  | ((p, c, g), bs) :: t =>
    match joinRecords t with
    | [] => [(p.va, c, g, bs)]
    | (va, c', g', bs') :: rest =>
      if c' = c ∧ g' = g then (p.va, c, g, bs ++ bs') :: rest else (p.va, c, g, bs) :: (va, c', g', bs') :: rest

/-- What a matrix command does at its place in the queue; its accesses follow those that its gang had made at its issue (R312). -/
def runCmd (s : State) (c : MxCmd) : State :=
  let s := raiseTime s (mxNo c.core) c.time
  match c.work with
  | .obrel id =>
    let x := (s.mx.tiles.filter (fun t => match t.tag with | some g => g.res == id | none => false)).foldl
      (fun (acc : Flags × State) t => let y := foldFirst acc.2 t; (acc.1 ||| y.1, y.2.2)) ((0 : Flags), s)
    mxDone (onMx (dropLatch x.2 id) (fun m => { m with res := m.res.filter (fun r => r.id ≠ id) })) c x.1 none none
  | .obld id ps =>
    let r := piecesRead s c (ps.map (fun p => p.1))
    let s := (ps.zip r.1).foldl (fun s p => match mxRes s id with
      | some q => putRes s (resWrite q p.1.2 p.2)
      | none => s) (dropLatch r.2.2 id)
    mxDone s c 0 r.2.1 none
  | .obldRec id ps =>
    let r := piecesRead s c (ps.map (fun p => p.1))
    let recs := joinRecords (ps.zip r.1)
    let x := recs.foldl (fun (acc : Option Nat × State) e =>
      match mxRes acc.2 id with
      | none => acc
      | some q =>
        if recordBad q (elemAt e.2.2.2 0 4) then (if acc.1.isSome then acc.1 else some e.1, acc.2)
        else (acc.1, putRes acc.2 (putRecord q e.2.2.2 e.2.1 e.2.2.1))) ((none : Option Nat), dropLatch r.2.2 id)
    mxDone x.2 c 0 r.2.1 x.1
  | .mma id _ ra rb oa ob da db n ua ub =>
    match mxTile s id, mxRes s ra, mxRes s rb with
    | some t, some a, some b =>
      let x := kSteps s a b oa ob da db 0 n (t, 0)
      let s := if n = 0 then s else
        latchFrag (latchFrag (mmCount (putTile s x.1) (mxBlock (c.core / 96) + 0x18) n) ua false c.core ra (oa + (n - 1 : Nat) * da).toNat)
          ub true c.core rb (ob + (n - 1 : Nat) * db).toNat
      mxDone s c x.2 none none
    | _, _, _ => mxDone s c 0 none none
  | .acz id _ gone =>
    let s := onMx s (fun m => { m with tiles := m.tiles.filter (fun t => some t.id ≠ gone) })
    let s := match mxTile s id with | some t => putTile s (freshTile t []) | none => s
    mxDone s c 0 none none
  | .aczRel id => mxDone (onMx s (fun m => { m with tiles := m.tiles.filter (fun t => t.id ≠ id) })) c 0 none none
  | .acldMem id k ps =>
    let r := piecesRead s c ps
    let img := r.1.flatMap (fun b => b)
    let s := match mxTile r.2.2 id with
      | some t => putTile r.2.2 (freshTile t (sparse 0 ((List.range 1024).map (fun i => elemAt img (i * kindBytes k) (kindBytes k)))))
      | none => r.2.2
    mxDone s c 0 r.2.1 none
  | .acldRegs id vs =>
    let s := match mxTile s id with
      | some t => putTile s (freshTile t (vs.foldl (fun m e => smapSet 0 m e.1 e.2) t.vals))
      | none => s
    mxDone s c 0 none none
  | .acstMem id k ps =>
    match mxTile s id with
    | none => mxDone s c 0 none none
    | some t =>
      let x := foldFirst s t
      let img := tileImage x.2.1 (kindBytes k)
      let s := ps.foldl (fun s p =>
        jobWrite s (mxNo c.core) (mxAgent s c) (((img.drop p.idx).take p.n).map (fun b => ⟨b, false⟩)) (piecePlace p)) x.2.2
      mxDone s c x.1 none none
  | .acstRegs id d lanes =>
    match mxTile s id with
    | none => mxDone s c 0 none none
    | some t =>
      let x := foldFirst s t
      let ws := (List.range 32).flatMap (fun m => lanes.map (fun n =>
        (⟨true, d + m, n, BitVec.ofNat 32 (smapGet 0 x.2.1.vals (32 * m + n))⟩ : RegWrite)))
      mxDone (mxLands x.2.2 c ws) c x.1 none none
  | .mstat v d =>
    let r := mstatPair s c.core v
    mxDone (mxLands s c [⟨false, d, 0, BitVec.ofNat 32 r.1⟩, ⟨false, d + 1, 0, BitVec.ofNat 32 r.2⟩]) c 0 none none

/-- MATRIX_COMMAND (R302): the oldest command of a core's queue takes effect. -/
def execMatrixCommand (core : Nat) (s : State) : Host.Outcome State Fault Refusal :=
  event s (fun s =>
    if 768 ≤ core then s
    else match coreQueue s core with
      | c :: _ => bounded (mxNo core) (fun s => runCmd s c) s
      | [] => s)

/-! ### Resets, saves and team ends (R301, R325, R326) -/

/-- Reset a core's engine, with the reason (R325): the teams that hold a reservation or a tile lose all of it and their queued
commands; the rest runs again. -/
def mxReset (s : State) (core why : Nat) : State :=
  let teams := ((s.mx.res.filter (fun r => r.core == core)).map (fun r => r.team) ++
    (s.mx.tiles.filter (fun t => t.core == core)).map (fun t => t.team)).foldl nsetInsert []
  let lost := (coreQueue s core).filter (fun c => teams.contains c.team)
  let s := lost.foldl (fun s c =>
    let s := match findOp s c.gang c.op with
      | some (_, o) => onGangId s c.gang (fun g => addPend g ⟨o.ctr, o.ticket, causeMxReset, why, 0, 0, 0⟩)
      | none => s
    finishOp s c.gang c.op 0) s
  let s := onMx s (fun m =>
    { res := m.res.filter (fun r => r.core ≠ core)
      tiles := m.tiles.filter (fun t => t.core ≠ core)
      queue := m.queue.filter (fun c => !lost.contains c)
      last := smapSet 0 m.last core s.cc
      coll := m.coll.filter (fun l => l.core ≠ core) })
  let s := mapGangs s (fun g => if teams.contains g.team then { g with resetMark := some why } else g)
  mmCount s (mxBlock (core / 96) + 0x10) 1

/-- MATRIX_WATCHDOG (R325): commands are queued and nothing has completed for the limit. -/
def execMatrixWatchdog (core : Nat) (s : State) : Host.Outcome State Fault Refusal :=
  event s (fun s =>
    let w := mmField s (mxBlock (core / 96)) 15 0
    if 768 ≤ core ∨ w = 0 ∨ (coreQueue s core).isEmpty ∨ s.cc < smapGet 0 s.mx.last core + w * 1024 then s else mxReset s core 1)

/-- MXRST (R325, R328): system software resets a core's engine. A contained device takes no write (R412). -/
def execMxrst (core : Nat) (s : State) : Host.Outcome State Fault Refusal :=
  event s (fun s => if 768 ≤ core ∨ s.contained then s else mxReset s core 2)

/-- The team's queued commands that must finish before a save: those up to the last that is no MLOOP (R326). -/
def upToLast (cs : List MxCmd) : List MxCmd :=
  (cs.reverse.dropWhile (fun c => match c.work with | .mma .. => true | _ => false)).reverse

/-- Move a team's engine state from one core number to another. -/
def mxMove (s : State) (team src dst : Nat) : State :=
  onMx s (fun m =>
    { m with res := m.res.map (fun r => if r.team = team ∧ r.core = src then { r with core := dst } else r)
             tiles := m.tiles.map (fun t => if t.team = team ∧ t.core = src then { t with core := dst } else t)
             queue := m.queue.map (fun c => if c.team = team ∧ c.core = src then { c with core := dst } else c)
             coll := m.coll.filter (fun l => !(m.res.any (fun r => r.team == team && r.core == src && r.id == l.res))) })

/-- A team leaves its core (R326): its commands but trailing MLOOPs take effect, and its state stands under 768 + team. -/
def mxSave (s : State) (team core : Nat) : State :=
  let mine := upToLast ((coreQueue s core).filter (fun c => c.team == team))
  mxMove (mine.foldl runCmd s) team core (768 + team)

/-- Whether a core has room for a saved team's reservations and tiles (R326). -/
def mxPlace (s : State) (team core : Nat) : Option State :=
  let mine := s.mx.res.filter (fun r => r.team == team && r.core == 768 + team)
  let tiles := s.mx.tiles.filter (fun t => t.team == team && t.core == 768 + team)
  if freeSlots s core < tiles.foldl (fun n t => n + t.slots) 0 ∨
     64 < (s.mx.res.filter (fun r => r.core == core)).length + mine.length then none
  else
    (mine.foldl (fun (acc : Option State) r => match acc with
      | none => none
      | some s => (freeRun s core ((r.size + 1023) / 1024)).map (fun a => putRes s { r with core := core, start := a })) (some s)).map
      (fun s => onMx (mxMove s team (768 + team) core) (fun m => { m with last := smapSet 0 m.last core s.cc }))

/-- A team ends: the engine frees what it held (R301). -/
def mxFree (s : State) (team : Nat) : State :=
  onMx s (fun m => { m with res := m.res.filter (fun r => r.team ≠ team), tiles := m.tiles.filter (fun t => t.team ≠ team),
                            queue := m.queue.filter (fun c => c.team ≠ team)
                            coll := m.coll.filter (fun l => !(m.res.any (fun r => r.team == team && r.id == l.res))) })

/-! ### Issue (R314, R315) -/

/-- Issue a matrix instruction: after items 1 to 5 of R42 the gang's reset mark comes first (R314, R325, R401). -/
def issueMx (i : Instr) (s : State) (body : State → Exe) : Host.Outcome State Fault Refusal :=
  if !s.live then .next s
  else
    let x : Exe := match earlyTrap s i false with
      | some t => .trap t s
      | none => match s.gang.resetMark with
        | some r => .trap (plainTrap s.gang causeMxReset r 0) (s.onGang (fun g => { g with resetMark := none }))
        | none => preIssue s i false
    .next (settle s (x.bind body) (fun s' => afterIssue (advance s' i)))

/-- OperandBuffer at issue (R313). -/
def obTrap (s : State) (reason : Nat) : Exe := .trap (plainTrap s.gang causeOb reason 0) s

/-- A command names a counter and a place in its core's queue; a full queue stalls (R300). -/
def withQueue (cn : CtrNo) (s : State) (f : State → Exe) : Exe :=
  withCtr cn s (fun s => if 64 ≤ (coreQueue s s.gang.core).length then .stall 8 s else f s)

/-- Queue a command of the executing arm. -/
def enqueueMx (s : State) (cn : CtrNo) (owed : List (Bool × Nat × Shadow)) (w : MxWork) : Exe :=
  let o := startOp s cn (.matrix s.gang.core) [] owed false
  let s := o.2.2
  let g := s.gang
  let c : MxCmd := ⟨s.serial, g.core, g.team, g.launch, g.ctx, g.arm.sup, g.id, o.1, w, gangTime g⟩
  .ok { s with serial := s.serial + 1
               mx := { s.mx with queue := s.mx.queue ++ [c]
                                 last := if (coreQueue s g.core).isEmpty then smapSet 0 s.mx.last g.core s.cc else s.mx.last } }

/-- The reservation under a handle, or OperandBuffer 0x01. -/
def withRes (s : State) (h : BitVec 4) (f : MxRes → Exe) : Exe :=
  match heldRes s h.toNat with
  | some r => f r
  | none => obTrap s 1

/-- The bound tile, or OperandBuffer 0x05. -/
def withTile (s : State) (n : BitVec 6) (f : MxTile → Exe) : Exe :=
  match boundTile s n.toNat with
  | some t => f t
  | none => obTrap s 5

/-! ### Memory operands (R314) -/

/-- Insert a piece by ascending address. -/
def insertChunk (c : Chunk) : List Chunk → List Chunk
  | [] => [c]
  | d :: t => if c.a < d.a then c :: d :: t else d :: insertChunk c t

/-- Pieces in ascending address. -/
def sortChunks (cs : List Chunk) : List Chunk := cs.foldr insertChunk []

/-- An operand's address lies in an aperture, or at an unassigned offset of the aperture area: neither global memory nor the team scratchpad
(R314, R343). An address that is not canonical is left to R104 step 2. -/
def notMemory (p : ApCtx) (ovr a : Nat) : Bool :=
  match apKind p ovr a with
  | .bank | .stack => true
  | .none => canonical a
  | .glob | .scratch => false

/-- Items 5 and 6 of R314 for an instruction's pieces: their places, with the effects of translation and the heat of R119. -/
def mxPieces (s : State) (a : BitVec 128) (kind : AccKindF) (rows : List Chunk) (f : List MxPiece → State → Exe) : Exe :=
  let p := apCtx s
  let ovr := descOvr a
  let cs := rows.flatMap (fun r => spanChunks r.off ⟨ovr, r.a, r.n⟩)
  let sorted := sortChunks cs
  match sorted.find? (fun c => notMemory p ovr c.a) with
  | some c => .trap (armTrap s.gang causeProtection 0x12 c.a kind) s
  | none =>
    let el (c : Chunk) : Elem := ⟨0, c.a, c.n⟩
    let check (cs : List Chunk) : Except Trap (List Checked) := checkAccess s (armAgent s) p ovr (descBytes a) kind (cs.map el)
    -- Lines fail in ascending address order; the tables walked up to the first that does keep their A bits (R104).
    match sorted.findSome? (fun c => match check [c] with | .error t => some (c, t) | .ok _ => none) with
    | some (c, t) =>
      let walked := sorted.filter (fun d => decide (d.a < c.a)) ++
        (if (apertureFaults p ovr [el c]).isEmpty && (misaligned (descBytes a) [el c]).isEmpty then [c] else [])
      .trap (wideTrap s.gang t) (faultMarks s (armAgent s) p ovr (descBytes a) kind (walked.map el))
    | none =>
      let ks := match check sorted with | .ok ks => ks | .error _ => []
      let piece (c : Chunk) : Option MxPiece :=
        match resolve p ovr c.a c.n 0 with
        | .ok (.scratch o) => some ⟨c.off, c.a, c.n, true, o, 0, 0⟩
        | .ok (.glob _) =>
          let x := xlate s (armAgent s) c.a kind (pickCached s 0)
          let b := leafBits x.level x.leaf
          some ⟨c.off, c.a, c.n, false, x.pa, vaPage c.a / 2 ^ b * 2 ^ b, b⟩
        | _ => none
      let ps := cs.filterMap piece
      let s := lineHeat (commitXlat s (armAgent s) kind ks) ((sorted.filter (fun c => apKind p ovr c.a = .glob)).map (fun c => c.a))
      f ps s

/-- Item 4 of R314 (log: FADDR is the bound that lies outside). -/
def rowsOutside (i str : Int) (n w ext : Nat) : Option Int :=
  let lo := i + Min.min 0 (((n : Int) - 1) * str)
  let hi := i + Max.max 0 (((n : Int) - 1) * str) + w - 1
  if lo < 0 then some lo else if (ext : Int) ≤ hi then some (Max.max lo ext) else none

/-- The rows of a transfer: `n` rows of `w` elements at stride `str` from index `i`, at offsets `step` apart. -/
def rowChunks (a : BitVec 128) (i str : Int) (n w off step : Nat) : List Chunk :=
  (List.range n).map (fun (r : Nat) => ⟨off + r * step, descOvr a, elemAddr a (i + r * str), w * descBytes a⟩)

/-! ### OBRES and OBREL (R316, R317) -/

/-- SIZE, PITCH or SOFF breach R305. -/
def obresBad (fmt gc size pitch soff : Nat) : Bool :=
  !(decide (1 ≤ size) && decide (size ≤ 524288) && decide (16 ≤ pitch) && decide (pitch ≤ 65520) && pitch % 16 == 0) ||
    (gc != 0 && !(pitch % (mxG gc * mxBits fmt / 8) == 0 && soff % 4 == 0 && decide (soff < size)))

/-- OBRES (R316): the status and the state. -/
def obresBody (fmt gc h : Nat) (d e : Nat) (s : State) : Exe :=
  let g := s.gang
  let size := (readS g e).toNat
  let pitch := (readS g (e + 1)).toNat
  let soff := (readS g (e + 2)).toNat
  let fail (n : Int) : Exe := putS s d (BitVec.ofInt 32 n) ⟨-4, 0⟩
  if (heldRes s h).isSome then fail (-1)
  else if obresBad fmt gc size pitch soff then fail (-4)
  else if 64 ≤ (s.mx.res.filter (fun r => r.core == g.core)).length then fail (-2)
  else match freeRun s g.core ((size + 1023) / 1024) with
    | none => fail (-3)
    | some a =>
      let r : MxRes := ⟨s.serial, g.core, g.team, h, true, fmt, gc, size, pitch, if gc = 0 then 0 else soff, a, []⟩
      putS { s with serial := s.serial + 1, mx := { s.mx with res := s.mx.res ++ [r] } } d 0 ⟨-4, 0⟩

/-- OBRES (R316). -/
def execObres (fmt : BitVec 4) (gc : BitVec 2) (h : BitVec 4) (d e : Reg) (s : State) : Host.Outcome State Fault Refusal :=
  issueMx (.obres fmt gc h d e) s (fun s => obresBody fmt.toNat gc.toNat h.toNat d.toNat e.toNat s)

/-- OBREL (R317). -/
def execObrel (h : BitVec 4) (cn : CtrNo) (s : State) : Host.Outcome State Fault Refusal :=
  issueMx (.obrel h cn) s (fun s => withQueue cn s (fun s => withRes s h (fun r =>
    enqueueMx (putRes s { r with held := false }) cn [] (.obrel r.id))))

/-! ### OBLD (R318) -/

/-- OBLD, rows of elements. -/
def obldBody (len h : Nat) (aa : DescNo) (e : Nat) (cn : CtrNo) (s : State) : Exe :=
  withQueue cn s (fun s => withDesc aa s (fun s => withRes s (BitVec.ofNat 4 h) (fun r =>
    let g := s.gang
    let a := readA g aa.toNat
    let i := (readS g e).toInt
    let str := (readS g (e + 1)).toInt
    let o := (readS g (e + 2)).toNat
    let n := (readS g (e + 3)).toNat
    if n < 1 ∨ 4096 < n ∨ len = 0 then obTrap s 2
    else if o % 16 ≠ 0 then obTrap s 3
    else if r.size < o + (n - 1) * r.pitch + len * descBytes a then obTrap s 2
    else if descBytes a = 0 then .trap (armTrap g causeProtection 0x10 0 .read) s
    else match rowsOutside i str n len (descExtent a) with
      | some x => .trap (rangeTrap g x) s
      | none => mxPieces s a .read (rowChunks a i str n len o r.pitch) (fun ps s =>
          enqueueMx s cn [] (.obld r.id (ps.map (fun p => (p, p.idx))))))))

/-- OBLD (R318). -/
def execObld (len : BitVec 16) (h : BitVec 4) (aa : DescNo) (e : Reg) (cn : CtrNo) (s : State) : Host.Outcome State Fault Refusal :=
  issueMx (.obld len h aa e cn) s (fun s => obldBody len.toNat h.toNat aa e.toNat cn s)

/-- OBLD.rec, rows of records. -/
def obldRecBody (len h : Nat) (aa : DescNo) (e : Nat) (cn : CtrNo) (s : State) : Exe :=
  withQueue cn s (fun s => withDesc aa s (fun s => withRes s (BitVec.ofNat 4 h) (fun r =>
    let g := s.gang
    let a := readA g aa.toNat
    let i := (readS g e).toInt
    let str := (readS g (e + 1)).toInt
    let c0 := (readS g (e + 2)).toNat % 65536
    let g0 := (readS g (e + 2)).toNat / 65536
    let n := (readS g (e + 3)).toNat
    let ge := mxGe r
    let rb := 4 + ge
    if n < 1 ∨ 4096 < n ∨ len = 0 then obTrap s 2
    else if r.gc = 0 then obTrap s 4
    else if r.pitch < (g0 + len) * ge ∨ r.size < (c0 + n - 1) * r.pitch + (g0 + len) * ge ∨
        r.size < scaleOff r (c0 + n - 1) (g0 + len - 1) + 4 then obTrap s 2
    else if descEs a ≠ 2 then .trap (armTrap g causeProtection 0x10 0 .read) s
    else match rowsOutside i str n (len * rb / 4) (descExtent a) with
      | some x => .trap (rangeTrap g x) s
      | none =>
        let rows := (List.range n).flatMap (fun (k : Nat) => (List.range len).map (fun (j : Nat) =>
          (⟨k * len + j, descOvr a, elemAddr a (i + k * str + j * (rb / 4 : Nat)), rb⟩ : Chunk)))
        -- A piece's offset counts bytes of all records in order, so that it names its record.
        mxPieces s a .read (rows.map (fun c => { c with off := c.off * rb })) (fun ps s =>
          enqueueMx s cn [] (.obldRec r.id (ps.map (fun p => (p, c0 + p.idx / rb / len, g0 + p.idx / rb % len))))))))

/-- OBLD.rec (R318). -/
def execObldRec (len : BitVec 16) (h : BitVec 4) (aa : DescNo) (e : Reg) (cn : CtrNo) (s : State) : Host.Outcome State Fault Refusal :=
  issueMx (.obldRec len h aa e cn) s (fun s => obldRecBody len.toNat h.toNat aa e.toNat cn s)

/-! ### MMA and MLOOP (R306, R319) -/

/-- What a fragment's offset breaches: reason 0x03 or 0x02 (R306). -/
def fragBad (r : MxRes) (o : Int) : Option Nat :=
  if o % 16 ≠ 0 then some 3
  else if o < 0 ∨ (r.size : Int) < o + 31 * r.pitch + 4 * mxBits r.fmt then some 2 else none

/-- What a group B fragment breaches beside it (R306). -/
def groupBad (r : MxRes) (o : Int) : Option Nat :=
  match fragBad r o with
  | some x => some x
  | none =>
    let pos := o.toNat % r.pitch
    if r.pitch < pos + 4 * mxBits r.fmt ∨ (r.fmt = 8 ∧ pos % 32 ≠ 0) then some 3
    else if r.size < scaleOff r (o.toNat / r.pitch + 31) (pos / mxGe r) + 4 then some 2 else none

/-- What one of an MLOOP's steps breaches, the first step first. -/
def stepsBad (ra rb : MxRes) (grp : Bool) (oa ob da db : Int) : Nat → Nat → Option Nat
  | _, 0 => none
  | i, n + 1 =>
    match fragBad ra (oa + i * da) with
    | some x => some x
    | none =>
      match (if grp then groupBad rb (ob + i * db) else fragBad rb (ob + i * db)) with
      | some x => some x
      | none => stepsBad ra rb grp oa ob da db (i + 1) n

/-- MMA and MLOOP. -/
def mmaBody (ua ub : Bool) (tile : BitVec 6) (hb ha : BitVec 4) (oa ob da db : Int) (n : Nat) (cn : CtrNo) (s : State) : Exe :=
  withQueue cn s (fun s => withRes s ha (fun ra => withRes s hb (fun rb => withTile s tile (fun t =>
    match mxPair ra.fmt rb.fmt with
    | none => obTrap s 4
    | some (k, rule) =>
      if k ≠ t.kind then obTrap s 4
      else match stepsBad ra rb (rule = .group) oa ob da db 0 n with
        | some x => obTrap s x
        | none => enqueueMx s cn [] (.mma t.id k ra.id rb.id oa ob da db n ua ub)))))

/-- MMA (R319). Reuse hints change the collector and timing only (R320). -/
def execMma (ua ub : Bool) (tile : BitVec 6) (hb ha : BitVec 4) (e : Reg) (cn : CtrNo) (s : State) : Host.Outcome State Fault Refusal :=
  issueMx (.mma ua ub tile hb ha e cn) s (fun s =>
    mmaBody ua ub tile hb ha (readS s.gang e.toNat).toNat (readS s.gang (e.toNat + 1)).toNat 0 0 1 cn s)

/-- MLOOP (R319). -/
def execMloop (ua ub : Bool) (tile : BitVec 6) (hb ha : BitVec 4) (e : Reg) (cn : CtrNo) (s : State) : Host.Outcome State Fault Refusal :=
  issueMx (.mloop ua ub tile hb ha e cn) s (fun s =>
    let g := s.gang
    let r := e.toNat
    mmaBody ua ub tile hb ha (readS g r).toNat (readS g (r + 1)).toNat (readS g (r + 3)).toInt (readS g (r + 4)).toInt (readS g (r + 2)).toNat
      cn s)

/-! ### ACZ (R321) -/

/-- Slots of a kind (R307). -/
def kindSlots : AccKind → Nat
  | .f64 => 2
  | _ => 1

/-- ACZ.kind: bind or re-kind a tile, absorbing one at T + 1 where it becomes F64. -/
def aczBody (k : AccKind) (n : Nat) (cn : CtrNo) (s : State) : Exe :=
  withQueue cn s (fun s =>
    if (k = .f64 ∧ n % 2 = 1) ∨ oddHalf s n then obTrap s 5
    else
      let g := s.gang
      let old := boundTile s n
      let nxt := if k = .f64 then boundTile s (n + 1) else none
      let slots (t : Option MxTile) : Nat := match t with | some t => t.slots | none => 0
      if freeSlots s g.core + slots old + slots nxt < kindSlots k then obTrap s 6
      else
        let s := match nxt with | some t => putTile s { t with bound := false, slots := 0 } | none => s
        let gone := nxt.map (fun t => t.id)
        match old with
        | some t => enqueueMx (putTile s { t with kind := k, slots := kindSlots k }) cn [] (.acz t.id k gone)
        | none =>
          let t : MxTile := ⟨s.serial, g.core, g.team, n, true, k, kindSlots k, [], [], none, 0, 0⟩
          enqueueMx { s with serial := s.serial + 1, mx := { s.mx with tiles := s.mx.tiles ++ [t] } } cn [] (.acz t.id k gone))

/-- ACZ (R321). -/
def execAcz (kind : AccKind) (tile : BitVec 6) (cn : CtrNo) (s : State) : Host.Outcome State Fault Refusal :=
  issueMx (.acz kind tile cn) s (fun s => aczBody kind tile.toNat cn s)

/-- ACZ.rel (R321). -/
def execAczRel (tile : BitVec 6) (cn : CtrNo) (s : State) : Host.Outcome State Fault Refusal :=
  issueMx (.aczRel tile cn) s (fun s => withQueue cn s (fun s => withTile s tile (fun t =>
    enqueueMx (putTile s { t with bound := false }) cn [] (.aczRel t.id))))

/-! ### ACLD and ACST (R322) -/

/-- A tile and memory. -/
def acMem (store : Bool) (aa : DescNo) (tile : BitVec 6) (e : Nat) (cn : CtrNo) (s : State) : Exe :=
  withQueue cn s (fun s => withDesc aa s (fun s => withTile s tile (fun t =>
    let g := s.gang
    let a := readA g aa.toNat
    let es := kindBytes t.kind
    let i := (readS g e).toInt
    let str := (readS g (e + 1)).toInt
    if descBytes a ≠ es then .trap (armTrap g causeProtection 0x10 0 (if store then .write else .read)) s
    else match rowsOutside i str 32 32 (descExtent a) with
      | some x => .trap (rangeTrap g x) s
      | none => mxPieces s a (if store then .write else .read) (rowChunks a i str 32 32 0 (32 * es)) (fun ps s =>
          enqueueMx s cn [] (if store then .acstMem t.id t.kind ps else .acldMem t.id t.kind ps)))))

/-- The active lanes that a register form moves. -/
def acLanes (g : Gang) : List Nat := (laneList g.arm.mask).filter (fun l => decide (l < 32))

/-- ACLD (R322). -/
def execAcld (form : AcForm) (tile : BitVec 6) (e : Reg) (cn : CtrNo) (s : State) : Host.Outcome State Fault Refusal :=
  issueMx (.acld form tile e cn) s (fun s =>
    match form with
    | .mem aa => acMem false aa tile e.toNat cn s
    | .regs => withQueue cn s (fun s => withTile s tile (fun t =>
        if t.kind = .f64 then obTrap s 5
        else enqueueMx s cn [] (.acldRegs t.id ((List.range 32).flatMap (fun m =>
          (acLanes s.gang).map (fun n => (32 * m + n, (readV s.gang (e.toNat + m) n).toNat))))))))

/-- ACST (R322); the twins are compared for the register form (R419). Its registers are owed under every mask but zero. -/
def execAcst (form : AcForm) (tile : BitVec 6) (e : Reg) (cn : CtrNo) (s : State) : Host.Outcome State Fault Refusal :=
  issueMx (.acst form tile e cn) s (fun s =>
    match form with
    | .mem aa => acMem true aa tile e.toNat cn s
    | .regs => withQueue cn s (fun s => withTile s tile (fun t =>
        if t.kind = .f64 then obTrap s 5
        else withTwin true s (fun s => enqueueMx s cn
          (if s.gang.arm.mask = 0 then [] else (List.range 32).map (fun m => (true, e.toNat + m, Shadow.top)))
          (.acstRegs t.id e.toNat (acLanes s.gang))))))

/-! ### MSTAT (R323) -/

/-- MSTAT (R323). -/
def execMstat (f : MstatSel) (d : Reg) (cn : CtrNo) (s : State) : Host.Outcome State Fault Refusal :=
  issueMx (.mstat f d cn) s (fun s => withQueue cn s (fun s =>
    let go (v : MxView) : Exe := enqueueMx s cn [(false, d.toNat, Shadow.top), (false, d.toNat + 1, Shadow.top)] (.mstat v d.toNat)
    match f with
    | .acc n => if oddHalf s n.toNat then obTrap s 5 else go (.acc ((boundTile s n.toNat).map (fun t => (t.id, t.kind))))
    | .ob h => go (.ob ((heldRes s h.toNat).map (fun r => r.id)))
    | .eng => go .eng))

end Sys2Proof.Machine
end

