-- ==== Sys2Proof/Machine/Link.lean ====
section
/-! DEFINITION. Windows, puts and packets across Fenien Link (R336 to R348). -/

namespace Sys2Proof.Machine

/-- WindowFault with the arm's whole mask (R346). -/
def windowTrap (s : State) (reason : Nat) : Exe := .trap (plainTrap s.gang causeWindow reason 0) s

/-- Put the link agent's state. -/
def onLink (s : State) (f : Link → Link) : State := { s with link := f s.link }

/-- A registered window. -/
def windowOf (s : State) (ctx w : Nat) : Option Window := s.link.windows.find? (fun x => x.ctx == ctx && x.w == w)

/-- Update a window. -/
def onWindow (s : State) (ctx w : Nat) (f : Window → Window) : State :=
  onLink s (fun l => { l with windows := listUpdate (fun x => x.ctx == ctx && x.w == w) f l.windows })

/-! ### WREG (R336, R342) -/

/-- A page is present, writable and pinned. -/
def pageReady (s : State) (ctx va : Nat) : Bool :=
  match leafOf s ctx va with
  | some w => w.entry.testBit 2 && ptePn w.entry
  | none => false

/-- Every page of a range is present, writable and pinned. -/
def rangeReady (s : State) (ctx a n : Nat) : Bool :=
  (List.range ((a + n - 1) / 4096 + 1 - a / 4096)).all (fun i => pageReady s ctx ((a / 4096 + i) * 4096))

/-- The status of WREG. -/
def wregStatus (s : State) (w base len : Nat) : Int :=
  if (windowOf s s.gang.ctx w).isSome then -1
  else if base % 64 ≠ 0 ∨ len % 64 ≠ 0 ∨ len = 0 then -3
  else if !spanOk (apCtx s) base (base + len - 1) then -4
  else if !rangeReady s s.gang.ctx base len then -2 else 0

/-- An operation that lands one status. -/
def statusWrite (s : State) (cn : CtrNo) (d : Nat) (st : Int) : State :=
  (startOp s cn .mem [⟨false, d, 0, BitVec.ofInt 32 st⟩] [(false, d, ⟨-4, 0⟩)] true).2.2

/-- WREG (R342). -/
def execWreg (d : Reg) (w : BitVec 6) (e : Reg) (cn : CtrNo) (s : State) : Host.Outcome State Fault Refusal :=
  issue (.wreg d w e cn) false s (fun s => withCtr cn s (fun s =>
    let base := (readS64 s.gang e.toNat).toNat
    let len := (readS s.gang (e.toNat + 2)).toNat
    let st := wregStatus s w.toNat base len
    let s := if st = 0 then onLink s (fun l => { l with windows := l.windows ++ [⟨s.gang.ctx, w.toNat, base, len, 0, 0, 0⟩] }) else s
    .ok (statusWrite s cn d.toNat st)))

/-- WREG.rel (R342). A landing is one step, so that none is under way. -/
def execWregRel (d : Reg) (w : BitVec 6) (cn : CtrNo) (s : State) : Host.Outcome State Fault Refusal :=
  issue (.wregRel d w cn) false s (fun s => withCtr cn s (fun s =>
    match windowOf s s.gang.ctx w.toNat with
    | none => .ok (statusWrite s cn d.toNat (-1))
    | some x => .ok (statusWrite (onLink s (fun l => { l with windows := l.windows.filter (fun y => y ≠ x) })) cn d.toNat 0)))

/-! ### Answers (R337, R340, R343) -/

/-- A packet of this device's puts that has no answer yet. -/
def unanswered (p : Packet) : Bool := p.own && !p.answered

/-- Once every packet of a put is answered, the put's fault stays pending and it may arrive (R343, R346). -/
def settlePut (s : State) (gang op : Nat) : State :=
  if s.link.packets.any (fun p => unanswered p && p.gang == gang && p.op == op) then s
  else match s.link.puts.find? (fun r => r.gang == gang && r.op == op) with
    | none => s
    | some r =>
      let s := onLink s (fun l => { l with puts := l.puts.filter (fun x => x ≠ r) })
      let low := r.refused.foldl (fun (b : Option (Nat × Nat)) x => match b with
        | none => some x
        | some y => if x.1 < y.1 then some x else some y) none
      let s := match low, findOp s gang op with
        | some (o, why), some (_, x) => onGangId s gang (fun g => addPend g ⟨x.ctr, x.ticket, causeWindow, why, BitVec.ofNat 64 o, 0, 0⟩)
        | _, _ => s
      finishOp s gang op (agentTime s (linkNo 0))

/-- Update a packet. -/
def onPacket (s : State) (id : Nat) (f : Packet → Packet) : State :=
  onLink s (fun l => { l with packets := listUpdate (fun p => p.id == id) f l.packets })

/-- A packet goes once it is answered and can no longer land here. -/
def dropAnswered (own : Nat) (p : Packet) : Bool := p.own && p.answered && (p.peer != own || p.st != .out)

/-- FLDEVID.ID. -/
def ownId (s : State) : Nat := mmField s flDevId 11 0

/-- Forget packets that are over. -/
def prunePackets (s : State) : State := onLink s (fun l => { l with packets := l.packets.filter (fun p => !dropAnswered (ownId s) p) })

/-- The window that a packet names under a matching FJOB. -/
def targetWindow (s : State) (p : Packet) : Option Window := s.link.windows.find? (fun x => x.w == p.tw && ctxFjob s x.ctx == p.fjob)

/-- What the target window of a put to this device holds after a refusal with reason 0x02 is undefined (R340): free bytes (log entry 4)
in the pages that are present. -/
def freeWindow (s : State) (p : Packet) : State :=
  if p.peer ≠ ownId s then s
  else match targetWindow s p with
    | none => s
    | some w =>
      let t := (spanChunks 0 ⟨1, w.base, w.len⟩).foldl (fun (t : State) c =>
        match leafOf t w.ctx c.a with
        | none => t
        | some x => homeWrite t (linkNo 0) (leafPa x.level x.entry c.a) ((List.range c.n).map (fun i => Config.freeByte s.serial (c.off + i)))) s
      { t with serial := t.serial + 1 }

/-- A packet counts as refused with a reason at its origin. -/
def refusePacket (s : State) (p : Packet) (why : Nat) : State :=
  let s := if why = 2 then freeWindow s p else s
  let s := onPacket s p.id (fun p => { p with answered := true })
  let note (r : PutRec) : PutRec := if r.gang = p.gang ∧ r.op = p.op then { r with refused := r.refused ++ [(p.off, why)] } else r
  let s := onLink s (fun l => { l with puts := l.puts.map note })
  settlePut (prunePackets (mmCount s flNack 1)) p.gang p.op

/-- A packet's acknowledgement reaches its origin. -/
def ackPacket (s : State) (p : Packet) : State :=
  let n := p.bytes.length
  let s := onPacket s p.id (fun p => { p with answered := true })
  let s := onWindow s p.ctx p.w (fun w => { w with ack := (w.ack + n) % 2 ^ 64 })
  settlePut (prunePackets (mmCount s flTxb n)) p.gang p.op

/-- The ports that route to a peer and have not failed: the hub dies have 96 (R7). -/
def livePorts (s : State) (peer : Nat) : List Nat :=
  (List.range 96).filter (fun p =>
    (mmGet s (0x130000 + 16 * peer + 8 * (p / 64))).testBit (p % 64) && !s.link.downPorts.contains p)

/-- A packet cannot be delivered: no route, or every port of it has failed (R340). -/
def undeliverable (s : State) (peer : Nat) : Bool := peer != ownId s && (livePorts s peer).isEmpty

/-! ### PUT (R343) -/

/-- Cut bytes at the 4 KiB boundaries of the target offset: offset and length of each packet. -/
def packetCuts : Nat → Nat → Nat → List (Nat × Nat)
  | 0, _, _ => []
  | k + 1, off, n =>
    if n = 0 then []
    else
      let m := Min.min n (4096 - off % 4096)
      (off, m) :: packetCuts k (off + m) (n - m)

/-- Send a put's bytes. While FLCTL.EN is 0 nothing is sent: every packet is refused with reason 0x02 (R348). -/
def sendPut (s : State) (op w peer tw off : Nat) (bs : List MByte) : State :=
  let g := s.gang
  let fjob := ctxFjob s g.ctx
  let cuts := packetCuts (bs.length / 4096 + 2) off bs.length
  let off_ := mmField s flCtl 0 0 == 0
  let s := onLink s (fun l => { l with puts := l.puts ++ [⟨g.id, op, []⟩] })
  let r := cuts.foldl (fun (acc : List Packet × State) c =>
    let s := acc.2
    let p : Packet := ⟨s.serial, true, g.ctx, w, g.id, op, g.launch, peer, fjob, tw, c.1, (bs.drop (c.1 - off)).take c.2, s.time, if off_ then .refused 2 else .out, false, []⟩
    (acc.1 ++ [p], { s with serial := s.serial + 1, link := { s.link with packets := s.link.packets ++ [p] } })) (([] : List Packet), s)
  if off_ ∨ undeliverable r.2 peer then r.1.foldl (fun s p => refusePacket s p 2) r.2 else r.2

/-- Read the source bytes of a put through the translations of its checks, as its gang's link traffic (R337, R343). -/
def putBytes (s : State) (ovr : Nat) (ks : List Checked) (cs : List Chunk) : List MByte × State :=
  let p := apCtx s
  let j := cardAgent s
  cs.foldl (fun (acc : List MByte × State) c =>
    let at_ : JPlace := match resolve p ovr c.a c.n 0 with
      | .ok (.scratch o) => .scr o
      | .ok (.bank o) => .bank o c.a
      | _ => .mem c.a (((ks.flatMap (fun k => k.pieces)).find? (fun q => q.va == c.a)).elim 0 (fun q => q.x.pa)) 0
    let r := jobRead acc.2 (armNo acc.2) j true c.n at_
    (acc.1 ++ r.1, r.2)) (([] : List MByte), s)

/-- PUT. Its reads are accesses of the arm, under the bound of R333; one of no elements arrives at once. -/
def putBody (w tw : Nat) (aa : DescNo) (e : Nat) (cn : CtrNo) (s : State) : Exe :=
  withCtr cn s (fun s0 => withDesc aa s0 (fun s =>
    let g := s.gang
    let a := readA g aa.toNat
    let peer := (readS g e).toNat % 4096
    let off := (readS g (e + 1)).toNat
    let i := (readS g (e + 2)).toInt
    let n := (readS g (e + 3)).toNat
    let p := apCtx s
    let ovr := descOvr a
    let cs := spanChunks 0 ⟨ovr, elemAddr a i, n * descBytes a⟩
    if descBytes a = 0 then .trap (armTrap g causeProtection 0x10 0 .read) s
    else match rangeOutside i n (descExtent a) with
      | some x => .trap (rangeTrap g x) s
      | none =>
        match cs.find? (fun c => notMemory p ovr c.a) with
        | some c => .trap (armTrap g causeProtection 0x12 c.a .read) s
        | none =>
          if (windowOf s g.ctx w).isNone then windowTrap s 3
          else if 16777216 < n * descBytes a then windowTrap s 5
          else
            let els := (sortChunks cs).map (fun c => (⟨0, c.a, c.n⟩ : Elem))
            match checkAccess s (armAgent s) p ovr (descBytes a) .read els with
            | .error t => .trap (wideTrap g t) (faultMarks s (armAgent s) p ovr (descBytes a) .read els)
            | .ok ks =>
              let s := lineHeat (commitXlat s (armAgent s) .read ks) ((cs.filter (fun c => apKind p ovr c.a = .glob)).map (fun c => c.a))
              let o := startOp s cn .put [] [] (n == 0)
              if n = 0 then .ok (arriveAtOnce o.2.2 cn)
              else
                let r := putBytes o.2.2 ovr ks cs
                boundedExe s0 (.ok (sendPut r.2 o.1 w peer tw off r.1))))

/-- PUT (R343). -/
def execPut (w tw : BitVec 6) (aa : DescNo) (e : Reg) (cn : CtrNo) (s : State) : Host.Outcome State Fault Refusal :=
  issue (.put w tw aa e cn) false s (fun s => putBody w.toNat tw.toNat aa e.toNat cn s)

/-! ### Packets (R337 to R340) -/

/-- The link agent writes bytes of one line. -/
def landPiece (s : State) (pa : Nat) (bs : List MByte) : State :=
  let s := homeWrite s (linkNo 0) pa (bs.map (fun b => b.val))
  (bs.zip (List.range bs.length)).foldl (fun s b => if b.1.bad then physPoisonWrite s (pa + b.2) else s) s

/-- A byte of an own packet stays as a peer's packet wrote it: no order lies between the two puts (R338). -/
def keptByte (s : State) (rivals : List (Nat × Nat × Nat)) (ctx va : Nat) : Bool :=
  rivals.any (fun r => r.1 == ctx && decide (r.2.1 ≤ va) && decide (va < r.2.1 + r.2.2)) && Config.keepsEarlier s.tick va

/-- Write a landing's bytes, line by line, as the link agent: that of hub die 0, log entry 23. Bytes that an unordered put has written
too are written one by one, or left (R338). -/
def landBytes (s : State) (ctx base : Nat) (bs : List MByte) (rivals : List (Nat × Nat × Nat)) : State :=
  (spanChunks 0 ⟨1, base, bs.length⟩).foldl (fun s c =>
    match leafOf s ctx c.a with
    | none => s
    | some w =>
      let s := orEntry s (linkNo 0) w.ea 96
      let pa := leafPa w.level w.entry c.a
      let ds := (bs.drop c.off).take c.n
      if rivals.isEmpty then landPiece s pa ds
      else (ds.zip (List.range c.n)).foldl (fun s b => if keptByte s rivals ctx (c.a + b.2) then s else landPiece s (pa + b.2) [b.1]) s) s

/-- A packet lands whole, or is refused with reason 0x01 (R337). -/
def landPacket (s : State) (p : Packet) : PktSt × State :=
  let n := p.bytes.length
  match targetWindow s p with
  | none => (.refused 1, s)
  | some w =>
    if w.len < p.off + n ∨ !rangeReady s w.ctx (w.base + p.off) n then (.refused 1, s)
    else
      let s := landBytes s w.ctx (w.base + p.off) p.bytes p.rivals
      let note (q : Packet) : Packet := if !p.own ∧ q.own ∧ q.st = .out then { q with rivals := q.rivals ++ [(w.ctx, w.base + p.off, n)] } else q
      let s := onLink s (fun l => { l with packets := l.packets.map note })
      (.landed, mmCount (onWindow s w.ctx w.w (fun x => { x with land := (x.land + n) % 2 ^ 64, landTime := agentTime s (linkNo 0) })) flRxb n)

/-- A packet that a peer has sent, with its bytes cut at a 4 KiB boundary of the target offset: what a peer puts is its own (log entry
64). -/
def incoming (s : State) (n : Nat) : Packet :=
  let c := Config.peerPacket s.tick
  let off := c.2.2.1 % 2 ^ 32
  ⟨n, false, 0, 0, 0, 0, 0, 0, c.1 % 65536, c.2.1 % 64, off, (c.2.2.2.take (4096 - off % 4096)).map (fun b => ⟨b.1, b.2⟩), s.time, .out, false, []⟩

/-- PACKET_LANDING (R336 to R340): packet `n` reaches this device as its target; one that this device has not sent is a peer's put, and
none of those comes in while FLCTL.EN is 0. -/
def execPacketLanding (n : Nat) (s : State) : Host.Outcome State Fault Refusal :=
  event s (bounded (linkNo 0) (fun s =>
    match s.link.packets.find? (fun p => p.id == n) with
    | none => if mmField s flCtl 0 0 = 0 then s else (landPacket s (incoming s n)).2
    | some p =>
      if p.st ≠ .out ∨ (p.own ∧ p.peer ≠ ownId s) then s
      else
        let r := landPacket s p
        if p.own then prunePackets (onPacket r.2 n (fun p => { p with st := r.1 }))
        -- A peer's packet: its answer leaves this device.
        else onLink r.2 (fun l => { l with packets := l.packets.filter (fun x => x.id ≠ n) })))

/-- PACKET_ACK (R337): the target's answer to packet `n` reaches its origin. What another device answers, an acknowledgement or a
refusal, is its own: log entry 9. -/
def execPacketAck (n : Nat) (s : State) : Host.Outcome State Fault Refusal :=
  event s (fun s =>
    match s.link.packets.find? (fun p => p.id == n) with
    | none => s
    | some p =>
      if !unanswered p then s
      else match p.st with
        | .landed => ackPacket s p
        | .refused r => refusePacket s p r
        | .out =>
          if p.peer = ownId s then s
          else if Config.choice (2 * s.tick + 1) % 2 = 0 then ackPacket s p else refusePacket s p 1)

/-- FLCTL.PTMO in nanoseconds. -/
def packetLimit (s : State) : Nat := 1000 * Max.max 1 (mmField s flCtl 15 4)

/-- PACKET_TIMEOUT (R340): an unanswered packet counts as refused; it may still land. -/
def execPacketTimeout (n : Nat) (s : State) : Host.Outcome State Fault Refusal :=
  event s (fun s =>
    match s.link.packets.find? (fun p => p.id == n) with
    | none => s
    | some p => if unanswered p && decide (p.sent + packetLimit s ≤ s.time) then refusePacket s p 2 else s)

/-- PORT_FAILURE (R340): a port fails; packets that no live port can deliver count as refused. -/
def execPortFailure (port : Nat) (s : State) : Host.Outcome State Fault Refusal :=
  event s (fun s =>
    let s := onLink s (fun l => { l with downPorts := nsetInsert l.downPorts port })
    (s.link.packets.filter (fun p => unanswered p && p.st == .out && undeliverable s p.peer)).foldl (fun s p => refusePacket s p 2) s)

/-- LINK_FLIT_REPLAY (R337, R409): a link sends a flit again that arrived in error; it is not delivered twice, and is a corrected error. -/
def execLinkFlitReplay (port : Nat) (s : State) : Host.Outcome State Fault Refusal :=
  event s (fun s => if port < 96 then logError s ⟨0, noOwner, 6, port, 0, 1, 0⟩ else s)

/-! ### WCTR and WWAIT (R344, R345) -/

/-- A window's counter. -/
def windowCtr (land : Bool) (w : Window) : DWord := BitVec.ofNat 64 (if land then w.land else w.ack)

/-- The logical time of an arm's read of a window's counter: after the writes that a LAND counts (R339). -/
def counterTime (s : State) (land : Bool) (x : Window) : Nat :=
  let t := Max.max (agentTime s (armNo s)) s.time
  if land then timeAfter t (armNo s) x.landTime (linkNo 0) else t

/-- An access at a logical time would pass the bound of R333: the arm waits. -/
def pastTime (s : State) (t : Nat) : Bool := decide (timeBound s < t)

/-- WCTR (R344). Where its time would pass the bound of R333, the arm waits. -/
def execWctr (land : Bool) (d : Reg) (w : BitVec 6) (s : State) : Host.Outcome State Fault Refusal :=
  issue (.wctr land d w) false s (fun s =>
    match windowOf s s.gang.ctx w.toNat with
    | none => windowTrap s 3
    | some x =>
      if pastTime s (counterTime s land x) then .stall 14 s
      else .ok ((setAgentTime s (armNo s) (counterTime s land x)).onGang (fun g => writeS64 g d.toNat (windowCtr land x) Shadow.top Shadow.top)))

/-- WWAIT's counter has reached `k` (R345). -/
def windowReached (c k : DWord) : Bool := decide ((c - k).toNat < 2 ^ 63)

/-- WWAIT: done, or the arm stalls. -/
def wwaitBody (land : Bool) (w : Nat) (k : DWord) (s : State) : Exe :=
  match windowOf s s.gang.ctx w with
  | none => windowTrap s 3
  | some x =>
    if windowReached (windowCtr land x) k ∧ !pastTime s (counterTime s land x) then .ok (setAgentTime s (armNo s) (counterTime s land x))
    else .stall 13 (s.onArm (fun a => { a with stall := (match a.stall with
      | .wwait l v k' t => if l = land ∧ v = w ∧ k' = k then .wwait l v k' t else .wwait land w k s.time
      | _ => .wwait land w k s.time) }))

/-- WWAIT (R345). -/
def execWwait (land : Bool) (w : BitVec 6) (e : Reg) (s : State) : Host.Outcome State Fault Refusal :=
  issue (.wwait land w e) false s (fun s => wwaitBody land w.toNat (readS64 s.gang e.toNat) s)

/-- WWAIT_TIMEOUT (R345): an arm that has stalled for FLCTL.WTMO µs takes WindowFault 0x04. -/
def execWwaitTimeout (g slot : Nat) (s : State) : Host.Outcome State Fault Refusal :=
  event s (fun s0 =>
    let s := focusOn s0 g slot
    let lim := 1000 * mmField s flCtl 31 16
    if s.live ∧ s.gang.id = g ∧ s.gang.arm.slot = slot ∧ lim ≠ 0 then
      match s.gang.arm.stall with
      | .wwait land w k t =>
        let done := match windowOf s s.gang.ctx w with | some x => windowReached (windowCtr land x) k | none => true
        if t + lim ≤ s.time ∧ !done then trapEntry s (plainTrap s.gang causeWindow 4 0) s.gang.arm.pc else s
      | _ => s
    else s)

end Sys2Proof.Machine
end

