-- ==== Sys2Proof/Machine/Packets.lean ====
section
/-! DEFINITION. Launch packets and kernel parameter blocks, the reading of packets from queues, and FORK (R379 to R383,
R393). -/

namespace Sys2Proof.Machine

/-! ### Packet fields (R382) -/

/-- The lanes of a width code (R378). -/
def widthOf : Nat → Nat
  | 0 => 8 | 1 => 16 | 2 => 32 | 3 => 64 | _ => 96

/-- W, the declared width. -/
def pkW (p : List Byte) : Nat := widthOf (recNat p 18 1)
/-- Gangs per team. -/
def pkG (p : List Byte) : Nat := recNat p 19 1 + 1
/-- NV. -/
def pkNv (p : List Byte) : Nat := 8 * recNat p 20 1
/-- NS. -/
def pkNs (p : List Byte) : Nat := 8 * recNat p 21 1
/-- SCR. -/
def pkScr (p : List Byte) : Nat := recNat p 22 2
/-- FWf. -/
def pkFw (p : List Byte) (f : Nat) : Nat := recNat p (24 + f) 1
/-- Ef of fields 2 to 5. -/
def pkE (p : List Byte) (f : Nat) : Nat := recNat p (32 + 4 * (f - 2)) 4
/-- T. -/
def pkT (p : List Byte) : Nat := pkE p 2 * pkE p 3 * pkE p 4 * pkE p 5
/-- AFF.LV. -/
def pkLv (p : List Byte) : Nat := bitField (recNat p 30 1) 2 0
/-- AFF.SC. -/
def pkSc (p : List Byte) : Bool := (recNat p 30 1).testBit 3
/-- A MODE bit. -/
def pkMode (p : List Byte) (b : Nat) : Bool := (recNat p 31 1).testBit b
/-- LSN. -/
def pkLsn (p : List Byte) : Nat := recNat p 72 4
/-- The blocks of the launch's lane-stack pool (R384). -/
def pkPool (p : List Byte) : Nat := if pkLsn p = 0 then pkT p * pkG p else pkLsn p
/-- The vector-file bytes of a team at its minimum (R384): S slices a gang. -/
def pkVrf (p : List Byte) : Nat := pkNv p * 32 * (pkW p / 8) * pkG p
/-- The address of the completion record. -/
def pkDone (p : List Byte) : Nat := recNat p 64 8

/-- ⌈log2 n⌉. -/
def clog2 (n : Nat) : Nat := if n ≤ 1 then 0 else Nat.log2 (n - 1) + 1

/-- Every field lies in its stated range, and reserved bytes are zero (R382). -/
def pkRanges (p : List Byte) : Bool :=
  recNat p 0 8 % 4 == 0 && recNat p 8 8 % 64 == 0 && decide (recNat p 18 1 ≤ 4) && decide (pkG p ≤ 32) &&
  decide (1 ≤ recNat p 20 1) && decide (recNat p 20 1 ≤ 16) && decide (1 ≤ recNat p 21 1) && decide (recNat p 21 1 ≤ 8) &&
  decide (pkScr p ≤ 128) && (List.range 6).all (fun f => decide (pkFw p f ≤ 32)) && decide (recNat p 30 1 < 16) &&
  [0, 3, 4, 5].contains (pkLv p) && decide (recNat p 31 1 < 32) && decide (recNat p 48 4 < 2 ^ 20) &&
  recNat p 56 8 % 2 ^ 25 == 0 && pkDone p % 16 == 0 && (List.range 52).all (fun i => recNat p (76 + i) 1 == 0)

/-- The widths hold the extents, and an undeclared field has extent 1 (R382). -/
def pkFields (p : List Byte) : Bool :=
  (List.range 3).all (fun f => pkFw p f != 0) && decide (clog2 (pkW p) ≤ pkFw p 0) && decide (clog2 (pkG p) ≤ pkFw p 1) &&
  (natRange 2 4).all (fun f => if pkFw p f = 0 then pkE p f == 1 else decide (clog2 (pkE p f) ≤ pkFw p f)) &&
  decide ((List.range 6).foldl (fun n f => n + pkFw p f) 0 ≤ 64)

/-- The packet is well formed (R382). -/
def packetOk (p : List Byte) : Bool :=
  pkRanges p && pkFields p && decide (1 ≤ pkT p) && decide (pkT p ≤ 2 ^ 32 - 1) && decide (pkVrf p ≤ 1048576) &&
  decide (pkLsn p ≤ 65536) && (if pkLsn p = 0 then decide (pkT p * pkG p ≤ 65536) else decide (pkG p ≤ pkLsn p))

/-! ### Launches -/

/-- A new launch of a packet, whose accesses come after logical time `t`; a malformed one completes with status 6 and dispatches nothing. -/
def newLaunch (s : State) (q : Nat) (p : List Byte) (addr : Nat) (parent : Option (Nat × Nat)) (depth t : Nat) : Launch :=
  { id := s.serial, queue := q, ctx := recNat p 16 2, pkt := p, pktAddr := addr, parent := parent, depth := depth, nextTeam := 0,
    teams := if packetOk p then pkT p else 0, killed := if packetOk p then none else some 6, replays := 0, silent := false,
    replaying := false, snaps := [], noReplay := false, bankSnaps := [], captured := [], affWait := none, affPlace := [],
    draining := false, ltime := t, forkedAt := s.cc }

/-- Not every team of the launch has been dispatched. -/
def unfinished (l : Launch) : Bool := l.killed.isNone && decide (l.nextTeam < l.teams)

/-- Teams of the launch may be dispatched: some are left, and no replay is under way. -/
def undispatched (l : Launch) : Bool := unfinished l && !l.replaying

/-! ### Queues (R379, R380) -/

/-- The queue is enabled: EN, and a partition number of 0 to 8. -/
def queueOn (s : State) (q : Nat) : Bool := mmField s (qBlock q + 8) 0 0 == 1 && decide (mmField s (qBlock q + 8) 23 20 ≤ 8)
/-- PART. -/
def queuePart (s : State) (q : Nat) : Nat := mmField s (qBlock q + 8) 23 20
/-- PRIO. -/
def queuePrio (s : State) (q : Nat) : Nat := mmField s (qBlock q + 8) 19 17

/-- The command processor reads `n` bytes of device memory, as the host-link agent (log entry 66): the bytes, and whether one of them is
poisoned. -/
def cpMemRead (s : State) (pa n : Nat) : List Byte × Bool × State :=
  let s := homeRead s hostNo pa n true false
  (physBytes s pa n, physPoison s pa n, s)

/-- The queue has a packet that may be read: every team of the launch ahead has been dispatched (R379). -/
def packetWaits (s : State) (q : Nat) : Bool :=
  queueOn s q && mmField s (qBlock q + 16) 31 0 != mmField s (qBlock q + 24) 31 0 &&
  !(s.launches.any (fun l => l.queue == q && l.parent.isNone && unfinished l))

/-- Where the packet at QHEAD lies. -/
def packetAddr (s : State) (q : Nat) : Nat :=
  mmGet s (qBlock q) + 128 * (mmField s (qBlock q + 16) 31 0 % 2 ^ (mmField s (qBlock q + 8) 16 13 + 6))

/-- LAUNCH_PACKET_READ (R379, R382): the command processor reads the packet at QHEAD. A poisoned packet is malformed. -/
def execLaunchPacketRead (q : Nat) (s : State) : Host.Outcome State Fault Refusal :=
  event s (fun s =>
    if 64 ≤ q ∨ s.contained ∨ !packetWaits s q then s
    else
      let a := packetAddr s q
      let r : List Byte × Bool × State := if mmField s (qBlock q + 8) 1 1 = 0 then (hostRead s a 128, false, s) else cpMemRead s a 128
      let s := r.2.2
      let l := newLaunch s q (if r.2.1 then List.replicate 128 0 else r.1) a none 0 (agentTime s hostNo)
      mmPut { s with serial := s.serial + 1, launches := s.launches ++ [l] } (qBlock q + 16) ((mmField s (qBlock q + 16) 31 0 + 1) % 2 ^ 32))

/-! ### FORK (R393) -/

/-- The children outstanding in a context. -/
def childrenOf (s : State) (ctx : Nat) : Nat := (s.launches.filter (fun l => l.parent.isSome && l.ctx == ctx)).length

/-- ForkFault of a packet at FORK: its reason. -/
def forkFault (s : State) (p : List Byte) : Option Nat :=
  let depth := match launchById s s.gang.launch with | some l => l.depth | none => 0
  if !packetOk p ∨ recNat p 16 2 ≠ s.gang.ctx then some 2
  else if 16 ≤ depth then some 3
  else if 1024 ≤ childrenOf s s.gang.ctx then some 4
  else none

/-- Submit a child at the head of its parent's queue's fork list; its accesses come after those that the forking gang has made. -/
def submitChild (s : State) (p : List Byte) (addr : Nat) (cn : CtrNo) : State :=
  let g := s.gang
  let par := launchById s g.launch
  let l := newLaunch s (match par with | some l => l.queue | none => 0) p addr (some (g.id, g.launch))
    (match par with | some l => l.depth + 1 | none => 1) (gangTime g)
  (startOp { s with serial := s.serial + 1, launches := l :: s.launches } cn (.fork l.id) [] [] false).2.2

/-- FORK: the packet is read at issue, and its child submitted. -/
def forkBody (e : Nat) (cn : CtrNo) (s : State) : Exe :=
  withCtr cn s (fun s =>
    let a := (readS64 s.gang e).toNat
    let els : List Elem := [⟨0, a, 128⟩]
    match checkAccess s (armAgent s) (apCtx s) 0 128 .read els with
    | .error t => .trap (wideTrap s.gang t) (faultMarks s (armAgent s) (apCtx s) 0 128 .read els)
    | .ok cs =>
      if pastBound s cs false then .stall 14 s else
      let r := readAll (noteWatch (creditAccess (commitXlat s (armAgent s) .read cs) false ⟨0, 0, 0⟩ cs) [(a, 128)] .read) cs (.cached .normal)
      let p := r.1.flatMap (fun x => x.2.1)
      match r.1.findSome? (fun x => x.2.2) with
      | some (va, pa) => .trap (plainTrap s.gang causePoison 5 (va / 64 * 64)) (consumePoison r.2 pa)
      | none =>
        match forkFault r.2 p with
        | some why => .trap (plainTrap s.gang causeFork why a) r.2
        | none => .ok (submitChild r.2 p a cn))

/-- FORK (R393). -/
def execFork (e : Reg) (cn : CtrNo) (s : State) : Host.Outcome State Fault Refusal :=
  issue (.fork e cn) false s (fun s => forkBody e.toNat cn s)

end Sys2Proof.Machine
end

