-- ==== Sys2Proof/Machine/Place.lean ====
section
/-! DEFINITION. Where a team goes: cores, partitions, what fits, affinity, and which queue is served next (R379, R384 to
R387). -/

namespace Sys2Proof.Machine

/-! ### Cores and partitions (R386, R436) -/

/-- The core is enabled by both parts of the configuration record. -/
def coreEnabled (s : State) (core : Nat) : Bool :=
  decide (core < 768) && (s.cfg.cores.getD (s.cfg.dieMap.getD (core / 96) 9) 0).testBit (core % 96) &&
    !(s.cfg.retired.getD (core / 96) 0).testBit (core % 96)

/-- PARTMAP of a partition holds the core. -/
def mapHolds (s : State) (core p : Nat) : Bool :=
  (mmGet s (partMap p (core / 96)) + 2 ^ 64 * (mmGet s (partMap p (core / 96) + 8) % 2 ^ 32)).testBit (core % 96)

/-- The partition that holds a core: the lowest that names it. -/
def corePart (s : State) (core : Nat) : Option Nat := (natRange 1 8).find? (mapHolds s core)

/-- The teams resident on a core. -/
def residents (s : State) (core : Nat) : List Team := s.teams.filter (fun t => t.core == core)

/-- A queue may use a core; `idle` where the core counts as idle for a loan. -/
def corePermits (s : State) (q core : Nat) (idle : Bool) : Bool :=
  match corePart s core with
  | none => queuePart s q == 0
  | some p => if queuePart s q = 0 then mmField s (partCtl p) 0 0 == 1 && idle else queuePart s q == p

/-! ### What fits (R384) -/

/-- What a core holds: team slots, gang slots, vector-file bytes, scratchpad granules (first, count) and lanes. -/
structure CoreLoad where
  teamSlots : List Nat
  gangSlots : List Nat
  vrf : Nat
  scr : List (Nat × Nat)
  lanes : Nat
  deriving DecidableEq, Repr

/-- What a team asks of a core: gangs, vector-file bytes, granules and lanes. -/
structure Need where
  gangs : Nat
  vrf : Nat
  scr : Nat
  lanes : Nat
  deriving DecidableEq, Repr

/-- An empty core. -/
def CoreLoad.blank : CoreLoad := ⟨[], [], 0, [], 0⟩

/-- What a core holds now. -/
def coreLoad (s : State) (core : Nat) : CoreLoad :=
  let ts := residents s core
  let gs := (gangsOf s).filter (fun g => g.core == core)
  ⟨ts.map (fun t => t.slot), gs.map (fun g => g.gslot), vrfUsed s core, ts.map (fun t => (t.scrBase, t.scrGranules)),
   gs.foldl (fun n g => n + g.declared) 0⟩

/-- The granules in use. -/
def granulesUsed (l : CoreLoad) : Nat := l.scr.foldl (fun n x => n + x.2) 0

/-- The team fits. -/
def loadFits (l : CoreLoad) (n : Need) : Bool :=
  decide (l.teamSlots.length < 16) && decide (l.gangSlots.length + n.gangs ≤ 48) && decide (l.vrf + n.vrf ≤ 1048576) &&
    decide (granulesUsed l + n.scr ≤ 128)

/-- A core once it holds another team. -/
def loadAdd (l : CoreLoad) (n : Need) : CoreLoad :=
  ⟨l.teamSlots.length :: l.teamSlots, List.range n.gangs ++ l.gangSlots, l.vrf + n.vrf, (0, n.scr) :: l.scr, l.lanes + n.lanes⟩

/-- What a launch's team asks. -/
def launchNeed (l : Launch) : Need := ⟨pkG l.pkt, pkVrf l.pkt, pkScr l.pkt, pkW l.pkt * pkG l.pkt⟩

/-- What a saved team asks: it keeps the allocation it held. -/
def teamNeed (t : Team) : Need :=
  ⟨t.savedGangs.length, t.savedGangs.foldl (fun n g => n + g.nv * 32 * (g.declared / 8)) 0, t.scrGranules,
   t.savedGangs.foldl (fun n g => n + g.declared) 0⟩

/-- The lowest start of a free run of `n` in `[0, limit)` beside the used (start, count) runs. -/
def lowRun (used : List (Nat × Nat)) (limit n : Nat) : Option Nat :=
  let starts := (0 :: used.map (fun u => u.1 + u.2)).filter (fun a =>
    decide (a + n ≤ limit) && used.all (fun u => decide (u.1 + u.2 ≤ a) || decide (a + n ≤ u.1)))
  match starts with
  | [] => none
  | a :: t => some (t.foldl Min.min a)

/-- The lowest-numbered free run of blocks of the launch's pool for a team (R384). -/
def poolRun (s : State) (l : Launch) : Option Nat :=
  lowRun ((s.teams.filter (fun t => t.launch == l.id)).map (fun t => (t.block, t.gangs))) (pkPool l.pkt) (pkG l.pkt)

/-- The context's save area can reserve a team's space. -/
def saveRoom (s : State) (ctx : Nat) : Bool := decide (saveUsed s ctx + 4194304 ≤ (ctxSave s ctx).2)

/-! ### Affinity (R385) -/

/-- The affinity group of team `t`. -/
def affGroup (p : List Byte) (t : Nat) : Option Nat :=
  match pkLv p with
  | 3 => some (t / pkE p 2)
  | 4 => some (t / (pkE p 2 * pkE p 3))
  | 5 => some (t / (pkE p 2 * pkE p 3 * pkE p 4))
  | _ => none

/-- The die or core group of a core, as the launch groups. -/
def affOf (p : List Byte) (core : Nat) : Nat := if pkSc p then core / 8 else core / 96

/-- The die index of a place. -/
def affDie (p : List Byte) (pl : Nat) : Nat := if pkSc p then pl / 12 else pl

/-- Of the cores that satisfy `ok`, the one with the fewest lanes, the lowest on ties. -/
def fewest (ok : Nat → Bool) (lanes : Nat → Nat) (cores : List Nat) : Option Nat :=
  (cores.foldl (fun (best : Option (Nat × Nat)) c =>
    if ok c then
      (match best with
       | some (b, n) => if lanes c < n then some (c, lanes c) else some (b, n)
       | none => some (c, lanes c))
    else best) none).map (fun b => b.1)

/-- The core of team `t` of a launch, and whether it lies outside the team's group. -/
def pickCore (p : List Byte) (places : List (Nat × Nat)) (t : Nat) (ok : Nat → Bool) (lanes : Nat → Nat) : Option (Nat × Bool) :=
  let all := List.range 768
  let home := match affGroup p t with
    | none => none
    | some g => (places.find? (fun x => x.1 == g)).map (fun x => x.2)
  match home with
  | none => (fewest ok lanes all).map (fun c => (c, false))
  | some pl =>
    match fewest ok lanes (all.filter (fun c => affOf p c == pl)) with
    | some c => some (c, false)
    | none =>
      ((List.range 8).findSome? (fun i =>
        fewest ok lanes (all.filter (fun c => c / 96 == (affDie p pl + i) % 8)))).map (fun c => (c, true))

/-- The places once team `t` has gone to a core: the first of a group chooses for it. -/
def notePlace (p : List Byte) (places : List (Nat × Nat)) (t core : Nat) : List (Nat × Nat) :=
  match affGroup p t with
  | none => places
  | some g => if places.any (fun x => x.1 == g) then places else places ++ [(g, affOf p core)]

/-! ### Co-resident launches (R387) -/

/-- Plan `k` teams from team `t` on, given the loads of the cores used so far. -/
def planTeams (ok : Nat → Bool) (l : Launch) : Nat → Nat → List (Nat × CoreLoad) → List (Nat × Nat) → List (Nat × Bool) →
    Option (List (Nat × Bool))
  | 0, _, _, _, acc => some acc.reverse
  | k + 1, t, loads, places, acc =>
    let n := launchNeed l
    let load (c : Nat) : CoreLoad := (match loads.find? (fun x => x.1 == c) with | some x => x.2 | none => CoreLoad.blank)
    match pickCore l.pkt places t (fun c => ok c && loadFits (load c) n) (fun c => (load c).lanes) with
    | none => none
    | some (c, far) =>
      planTeams ok l k (t + 1) ((c, loadAdd (load c) n) :: loads.filter (fun x => x.1 != c)) (notePlace l.pkt places t c) ((c, far) :: acc)

/-- The placement of a co-resident launch on the cores its queue may use, all of them empty: no more than 16 teams a core. -/
def coPlan (s : State) (l : Launch) : Option (List (Nat × Bool)) :=
  if 12288 < l.teams then none
  else planTeams (fun c => coreEnabled s c && corePermits s l.queue c true) l l.teams 0 [] [] []

/-- The cores that other co-resident launches drain. -/
def drained (s : State) (except : Nat) : List Nat :=
  (s.launches.filter (fun l => l.draining && undispatched l && l.id != except)).flatMap (fun l =>
    match coPlan s l with | some ps => ps.map (fun x => x.1) | none => [])

/-- Dispatch onto a core goes on: it is enabled, its die is not under substitution, no team there has been told to give way. -/
def coreOpen (s : State) (held : List Nat) (core : Nat) : Bool :=
  coreEnabled s core && (match s.cp.sub with | some d => core / 96 != d | none => true) &&
    (residents s core).all (fun t => t.target.isNone) && !held.contains core

/-! ### What a queue would do next (R379, R390, R394) -/

/-- The next dispatch of a queue: a saved team, or the next team of a launch. -/
inductive Item where
  | saved (t : Team)
  | launch (l : Launch)
  deriving DecidableEq, Repr

/-- A team swapped out for its forks returns once every WAIT of its arms would complete (R394). -/
def forksBack (t : Team) : Bool :=
  t.savedGangs.all (fun g => (armsOf g).all (fun a => match a.stall with
    | .wait c k _ => reached (readC g c) (BitVec.ofNat 16 k)
    | _ => true))

/-- What heads a queue: a saved team, the oldest first; then the fork list; then the ring. A launch that is to be replayed holds back
those behind it until each of its teams has been dispatched. -/
def queueItem (s : State) (q : Nat) : Option Item :=
  let ts := s.teams.filter (fun t => t.saved && t.queue == q && !t.endNow && (!t.forkSwap || forksBack t))
  match ts with
  | t :: rest => some (.saved (rest.foldl (fun (b t : Team) => if t.age < b.age then t else b) t))
  | [] =>
    let ls := s.launches.filter (fun l => l.queue == q && unfinished l)
    match ls.filter (fun l => l.parent.isSome) ++ ls.filter (fun l => l.parent.isNone) with
    | l :: _ => if l.replaying then none else some (.launch l)
    | [] => none

/-- What the command processor does for a queue. -/
inductive Act where
  /-- The launch ends with a status: its resources cannot be met. -/
  | doom (l : Launch) (status : Nat)
  | place (l : Launch) (core : Nat)
  /-- A team that has waited 100 µs goes outside its affinity group. -/
  | spill (l : Launch) (core : Nat)
  | together (l : Launch) (cores : List (Nat × Bool))
  | restore (t : Team) (core : Nat)
  deriving DecidableEq, Repr

/-- The status of a launch whose resources can never be met (R384, R387). -/
def launchDoom (s : State) (l : Launch) : Option Nat :=
  let size := (ctxSave s l.ctx).2
  if size < 4194304 then some 5
  else if launchMode l 4 ∧ (size < 4194304 * l.teams ∨ pkPool l.pkt < l.teams * pkG l.pkt ∨ (coPlan s l).isNone) then some 5
  else none

/-- A core may take a dispatch of the queue. -/
def coreTakes (s : State) (q : Nat) (held : List Nat) (core : Nat) : Bool :=
  coreOpen s held core && corePermits s q core (residents s core).isEmpty

/-- The core for the next team of a launch, and whether it lies outside the team's group. -/
def launchCore (s : State) (l : Launch) : Option (Nat × Bool) :=
  if !saveRoom s l.ctx || (poolRun s l).isNone then none
  else
    let held := drained s l.id
    pickCore l.pkt l.affPlace l.nextTeam (fun c => coreTakes s l.queue held c && loadFits (coreLoad s c) (launchNeed l))
      (fun c => (coreLoad s c).lanes)

/-- Every team of a planned placement fits now, the save area and the pool included. -/
def planFits (s : State) (l : Launch) (ps : List (Nat × Bool)) : Bool :=
  let held := drained s l.id
  let n := launchNeed l
  let mine (c : Nat) : Nat := (ps.filter (fun x => x.1 == c)).length
  decide (saveUsed s l.ctx + 4194304 * l.teams ≤ (ctxSave s l.ctx).2) &&
  ps.all (fun x =>
    let o := coreLoad s x.1
    let k := mine x.1
    coreTakes s l.queue held x.1 && decide (o.teamSlots.length + k ≤ 16) && decide (o.gangSlots.length + k * n.gangs ≤ 48) &&
      decide (o.vrf + k * n.vrf ≤ 1048576) && decide (granulesUsed o + k * n.scr ≤ 128))

/-- The core for a saved team, and whether it lies outside the team's group: one that fits it and, R326, its engine state. Any such core
will do (R390), but a team that a spare-die substitution drained goes by its launch's affinity (R385, R395). -/
def teamCore (s : State) (t : Team) : Option (Nat × Bool) :=
  let held := drained s t.launch
  let ok (c : Nat) : Bool := coreTakes s t.queue held c && loadFits (coreLoad s c) (teamNeed t) && (mxPlace s t.id c).isSome
  let lanes (c : Nat) : Nat := (coreLoad s c).lanes
  match launchById s t.launch with
  | some l => if t.back then pickCore l.pkt l.affPlace t.no ok lanes else (fewest ok lanes (List.range 768)).map (fun c => (c, false))
  | none => (fewest ok lanes (List.range 768)).map (fun c => (c, false))

/-- A wait for an affinity group has lasted 100 µs. -/
def waitOver (s : State) (since : Option Nat) : Bool := match since with | some t => decide (t + 100000 ≤ s.time) | none => false

/-- A launch's next team has waited for its affinity group for 100 µs. -/
def affOver (s : State) (l : Launch) : Bool := waitOver s l.affWait

/-- What a queue would do now. -/
def queueAct (s : State) (q : Nat) : Option Act :=
  if !queueOn s q then none
  else match queueItem s q with
  | none => none
  | some (.saved t) =>
    (match teamCore s t with
     | some (c, far) => if far ∧ !waitOver s t.affWait then none else some (.restore t c)
     | none => none)
  | some (.launch l) =>
    if (ctxRoot s l.ctx).isNone then none
    else match launchDoom s l with
    | some st => some (.doom l st)
    | none =>
      if launchMode l 4 then
        (match coPlan s l with
         | some ps => if planFits s l ps then some (.together l ps) else none
         | none => none)
      else match launchCore s l with
      | some (c, false) => some (.place l c)
      | some (c, true) => if affOver s l then some (.spill l c) else none
      | none => none

/-- The rotation pointer of a priority level (R379). -/
def turnOf (s : State) (p : Nat) : Nat := smapGet 0 s.cp.turn p

/-- The queues of a priority level, from its pointer on. -/
def levelQueues (s : State) (p : Nat) : List Nat :=
  ((List.range 64).map (fun i => (turnOf s p + i) % 64)).filter (fun q => queuePrio s q == p)

/-- The queue that is served next, and what is done for it: the highest priority first. -/
def nextAct (s : State) : Option (Nat × Act) :=
  if s.contained then none
  else (List.range 8).findSome? (fun i => (levelQueues s (7 - i)).findSome? (fun q => (queueAct s q).map (fun a => (q, a))))

/-- A queue has had its turn. -/
def turnTaken (s : State) (q : Nat) : State :=
  { s with cp := { s.cp with turn := smapSet 0 s.cp.turn (queuePrio s q) ((q + 1) % 64) } }

end Sys2Proof.Machine
end

