-- ==== Sys2Proof/Machine/Launch.lean ====
section
/-! DEFINITION. The dispatch of teams: parameter blocks, CSRs, registers, barriers, code lines, affinity waits and co-resident
launches (R92, R188, R231, R350, R378, R383 to R388, R404, R417). -/

namespace Sys2Proof.Machine

/-! ### The command processor's reads and writes in a context -/

/-- The address lies in the context's aperture area, which is never translated (R86, R92). -/
def ctxArea (s : State) (ctx va : Nat) : Bool := va % 2 ^ 57 / 2 ^ 40 == ctxAp s ctx % 2 ^ 17

/-- Read `n` bytes at a global address of a context: `none` where it faults, or lies in the aperture area, or a byte is poisoned. -/
def cpRead (s : State) (die ctx va n : Nat) : Option (List Byte) × State :=
  (spanChunks 0 ⟨1, va, n⟩).foldl (fun (acc : Option (List Byte) × State) c => match acc.1 with
    | none => acc
    | some bs =>
      let s := acc.2
      let x : Xagent := ⟨none, die, ctx, true⟩
      let t := xlate s x c.a .read (pickCached s 126)
      if !canonical c.a ∨ ctxArea s ctx c.a ∨ t.fault.isSome then (none, xlFaulted s die t)
      else
        let r := cpMemRead (xlCommit s x c.a .read t) t.pa c.n
        (if r.2.1 then none else some (bs ++ r.1), r.2.2)) (some [], s)

/-! ### Parameter blocks (R383) -/

/-- The header of a parameter block is well formed for a launch. -/
def paramOk (l : Launch) (h : List Byte) : Bool :=
  decide (recNat h 0 1 ≤ 8) && decide (recNat h 1 1 ≤ 16) && decide (recNat h 2 1 ≤ 48) && decide (recNat h 2 1 ≤ pkNs l.pkt) &&
  recNat h 3 5 == 0 && recNat h 8 8 % 256 == 0 && (List.range 48).all (fun i => recNat h (16 + i) 1 == 0)

/-- The bytes of the launch's parameter block: header, descriptor images, scalars. -/
def readParams (s : State) (die : Nat) (l : Launch) : Option (List Byte) × State :=
  let kpb := recNat l.pkt 8 8
  match cpRead s die l.ctx kpb 64 with
  | (none, s) => (none, s)
  | (some h, s) =>
    if !paramOk l h then (none, s)
    else
      match cpRead s die l.ctx (kpb + 64) (16 * recNat h 1 1 + 4 * recNat h 2 1) with
      | (none, s) => (none, s)
      | (some b, s) => (some (h ++ b), s)

/-- The addresses of the code lines that a block pushes (R388). -/
def paramLines (b : List Byte) : List DWord :=
  (List.range (recNat b 0 1)).map (fun i => BitVec.ofNat 64 (recNat b 8 8 + 256 * i))

/-- A gang with the block's descriptors and scalars, each scalar's shadow exact. -/
def loadParams (b : List Byte) (g : Gang) : Gang :=
  let nd := recNat b 1 1
  let g := (List.range nd).foldl (fun g i => writeA g i (BitVec.ofNat 128 (recNat b (64 + 16 * i) 16))) g
  (List.range (recNat b 2 1)).foldl (fun g i =>
    let v : Word := BitVec.ofNat 32 (recNat b (64 + 16 * nd + 4 * i) 4)
    writeS g i v (shExact v)) g

/-! ### Gangs of a team -/

/-- The values of work-identifier fields 0 to 5 of gang `g` of team `t` (R350, R385): field 0 is the lane's. -/
def fieldValues (p : List Byte) (t g : Nat) : List Nat :=
  [0, g, t % pkE p 2, t / pkE p 2 % pkE p 3, t / (pkE p 2 * pkE p 3) % pkE p 4, t / (pkE p 2 * pkE p 3 * pkE p 4) % pkE p 5]

/-- The visible width: half the declared one in protected mode (R418). -/
def visibleWidth (p : List Byte) : Nat := if pkMode p 1 then pkW p / 2 else pkW p

/-- GMODE at dispatch, but for SUP (R378). -/
def gmodeOf (p : List Byte) : Word :=
  BitVec.ofNat 32 (recNat p 18 1 * 256 + (if pkMode p 4 then 16 else 0) + (if pkMode p 3 then 8 else 0) + (if pkMode p 2 then 4 else 0) +
    (if pkMode p 1 then 2 else 0) + (if pkMode p 0 then 1 else 0))

/-- LSCFG from the packet (R92, R382). -/
def lscfgOf (p : List Byte) : Word := BitVec.ofNat 32 (recNat p 52 1 * 2 ^ 24 + recNat p 48 4 % 2 ^ 20)

/-- Debug HALT holds for the context: teams dispatched or restored start halted (R425). -/
def startsHalted (s : State) (ctx : Nat) : Bool :=
  match debugBlock s ctx with | some k => s.dbg.halting.contains k | none => false

/-- Gang `g` of a team as dispatch leaves it (R92, R231, R350, R361, R378, R404), its parameters still to load. -/
def freshGang (s : State) (l : Launch) (t : Team) (g gslot pipe : Nat) : Gang :=
  let p := l.pkt
  let w := visibleWidth p
  { Gang.blank with
    id := t.id + 1 + g, core := t.core, gslot := gslot, pipe := pipe, team := t.id, launch := l.id, ctx := l.ctx, gangNo := g
    width := w, declared := pkW p, entry := BitVec.ofNat 64 (recNat p 0 8)
    wval := fieldValues p t.no g, wwid := (List.range 6).map (pkFw p)
    wext := [w, pkG p, pkE p 2, pkE p 3, pkE p 4, pkE p 5]
    nv := pkNv p, ns := pkNs p, nvDecl := pkNv p, nsDecl := pkNs p
    gmode := gmodeOf p
    apbase := BitVec.ofNat 32 (ctxAp s l.ctx % 2 ^ 17), bkwin := BitVec.ofNat 32 (ctxBkw s l.ctx) &&& 0x03FF03FF
    lsbase := BitVec.ofNat 32 (bitField (recNat p 56 8) 56 25), lscfg := lscfgOf p, lsblk := BitVec.ofNat 32 ((t.block + g) % 2 ^ 16)
    trapv := BitVec.ofNat 64 (mmField s trapDef 56 12 * 4096)
    arm := { Arm.blank with pc := BitVec.ofNat 64 (recNat p 0 8), members := laneBelow w, mask := laneBelow w, sup := ctxSup s l.ctx,
                            halted := startsHalted s l.ctx, ltime := l.ltime } }

/-- The lowest `n` gang slots that are free (R384). -/
def freeGangSlots (used : List Nat) (n : Nat) : List Nat := ((List.range 48).filter (fun k => !used.contains k)).take n

/-- The pipe that holds the fewest lanes, the lowest on ties (R384). -/
def lightPipe (gs : List (Nat × Nat)) : Nat :=
  let lanes (p : Nat) : Nat := gs.foldl (fun n g => if g.1 = p then n + g.2 else n) 0
  (fewest (fun _ => true) lanes (List.range 4)).getD 0

/-- The pipes of gangs of the given lanes, in order, beside those that a core holds as (pipe, lanes). -/
def givePipes : List (Nat × Nat) → List Nat → List Nat
  | _, [] => []
  | held, w :: rest => let p := lightPipe held; p :: givePipes (held ++ [(p, w)]) rest

/-- (pipe, lanes) of a core's gangs. -/
def pipeLoad (s : State) (core : Nat) : List (Nat × Nat) :=
  ((gangsOf s).filter (fun g => g.core == core)).map (fun g => (g.pipe, g.declared))

/-! ### The scratchpad of a core (R183, R384) -/

/-- Move the cells of `[src, src + n)` over those of `[dst, dst + n)`. -/
def moveCells {α : Type} [DecidableEq α] (dflt : α) (m : List (Nat × α)) (src dst n : Nat) : List (Nat × α) :=
  let within (a k : Nat) : Bool := decide (a ≤ k) && decide (k < a + n)
  (m.filter (fun c => within src c.1)).foldl (fun m c => smapSet dflt m (dst + (c.1 - src)) c.2)
    (smapFilter (fun k => !within src k && !within dst k) m)

/-- Move the members of `[src, src + n)` of a set over those of `[dst, dst + n)`. -/
def moveMarks (m : List Nat) (src dst n : Nat) : List Nat :=
  let within (a k : Nat) : Bool := decide (a ≤ k) && decide (k < a + n)
  (m.filter (within src)).foldl (fun m k => nsetInsert m (dst + (k - src))) (m.filter (fun k => !within src k && !within dst k))

/-- Every word of a team's scratchpad is read: its quarters wake and its errors are corrected or marked (R184, R189). -/
def touchGranules (s : State) (core base n : Nat) : State :=
  (List.range n).foldl (fun s i => touchUnit s true (scrKey core ((base + i) * 4096)) 4096) s

/-- Move a team's scratchpad image: `n` granules from one core and granule to another. -/
def moveScratch (s : State) (core base core' base' n : Nat) : State :=
  let src := scrKey core (base * 4096)
  let dst := scrKey core' (base' * 4096)
  let s := if core < 768 then touchGranules s core base n else s
  { s with mem := { s.mem with scratch := moveCells 0 s.mem.scratch src dst (4096 * n)
                               scratchPoison := moveMarks s.mem.scratchPoison (src / 8) (dst / 8) (512 * n) } }

/-- Pack the scratchpads of a core's teams to its lowest granules. The spec asks only that enough granules are free: log
entry 30. -/
def packScratch (s : State) (core : Nat) : State :=
  let ts := sortBy (fun (a b : Team) => decide (a.scrBase ≤ b.scrBase)) (residents s core)
  (ts.foldl (fun (acc : Nat × State) t =>
    let s := moveScratch acc.2 core t.scrBase core acc.1 t.scrGranules
    (acc.1 + t.scrGranules,
     { s with teams := s.teams.map (fun x => if x.id = t.id then { x with scrBase := acc.1 } else x) })) (0, s)).2

/-- Room for `n` granules on a core that has them free: the first granule. -/
def scrPlace (s : State) (core n : Nat) : Nat × State :=
  match lowRun (coreLoad s core).scr 128 n with
  | some b => (b, s)
  | none =>
    let s := packScratch s core
    ((lowRun (coreLoad s core).scr 128 n).getD 0, s)

/-- A team's new scratchpad holds what the spec leaves open (log entry 31): free bytes of the team's number. -/
def scrFresh (s : State) (core base n team : Nat) : State :=
  scrWrite s core (base * 4096) ((List.range (4096 * n)).map (Config.freeByte team))

/-! ### Dispatch (R384) -/

/-- The 16 team barriers of a new team: EXPECT := G (R188, R384). -/
def initBarriers (s : State) (t : Team) (n : Nat) : State :=
  (List.range 16).foldl (fun s i => barxInit s (teamBarObj t i) n) (touchUnit s false (teamBarObj t 0) 256)

/-- Put gangs on the machine. -/
def addGangs (s : State) (gs : List Gang) : State := { s with others := s.others ++ gs }

/-- The lowest free team slot of a core (R384). -/
def freeTeamSlot (s : State) (core : Nat) : Nat :=
  ((List.range 16).find? (fun k => !((residents s core).any (fun t => t.slot == k)))).getD 0

/-- The capture records of a launch's first dispatch (R417). -/
def captureLaunch (s : State) (l : Launch) (b : List Byte) : State :=
  if launchMode l 3 ∧ l.replays = 0 ∧ l.nextTeam = 0 then
    captureRecord (captureRecord s l l.pktAddr 1 l.pkt) l (recNat l.pkt 8 8) 2 b
  else s

/-- The next team of a launch, as it stands on a core. -/
def nextTeamOf (s : State) (l : Launch) (core scr : Nat) (b : List Byte) : Team :=
  let lines := paramLines b
  { id := s.serial, launch := l.id, ctx := l.ctx, queue := l.queue, no := l.nextTeam, core := core, slot := freeTeamSlot s core,
    lastCore := core, gangs := pkG l.pkt, scrBase := scr, scrGranules := pkScr l.pkt, block := (poolRun s l).getD 0,
    barwd := recNat l.pkt 54 2, saves := 0, tFirst := s.time, age := s.cp.age, pushed := lines.isEmpty, push := lines, target := none, reclaim := none,
    saved := false, savedGangs := [], endNow := false, forkSwap := false, back := false, affWait := none, stallSum := [] }

/-- Place the next team of a launch on a core that fits it. -/
def putTeam (s : State) (l : Launch) (core : Nat) (b : List Byte) : State :=
  let sp := scrPlace s core (pkScr l.pkt)
  let s := sp.2
  let t := nextTeamOf s l core sp.1 b
  let slots := freeGangSlots ((coreLoad s core).gangSlots) (pkG l.pkt)
  let pipes := givePipes (pipeLoad s core) (List.replicate (pkG l.pkt) (pkW l.pkt))
  let gs := (List.range (pkG l.pkt)).map (fun g =>
    loadParams b (freshGang s l t g (slots.getD g 0) (pipes.getD g 0)))
  let s := { s with serial := s.serial + 1 + pkG l.pkt, teams := s.teams ++ [t], cp := { s.cp with age := s.cp.age + 1 } }
  let s := scrFresh (initBarriers s t (pkG l.pkt)) core sp.1 (pkScr l.pkt) t.id
  onLaunch (addGangs s gs) l.id (fun l =>
    { l with nextTeam := l.nextTeam + 1, affWait := none, affPlace := notePlace l.pkt l.affPlace t.no core, draining := false })

/-- Dispatch the next team of a launch to a core. The context descriptor is read (R381); a parameter block that faults or is malformed
ends the launch with status 6 (R383). -/
def dispatchTeam (s : State) (id core : Nat) : State :=
  match launchById s id with
  | none => s
  | some l =>
    if !undispatched l then s
    else match readParams (cpMemRead s (ctxAddr s l.ctx) 64).2.2 (core / 96) l with
    | (none, s) => killLaunch s id 6
    | (some b, s) => putTeam (captureLaunch s l b) l core b

/-- The team goes outside its affinity group (R385). -/
def countSpill (s : State) (far : Bool) : State := if far then mmCount s plSpill 1 else s

/-- The affinity group of a launch's next team has its place (R385). -/
def groupPlaced (l : Launch) : Bool :=
  match affGroup l.pkt l.nextTeam with
  | some g => l.affPlace.any (fun x => x.1 == g)
  | none => false

/-- The next team of a launch begins to wait for its affinity group: it heads its queue and no core of the group fits (R385). -/
def startAffWait (s : State) (id : Nat) : State :=
  match launchById s id with
  | none => s
  | some l =>
    if l.affWait.isNone && undispatched l && !launchMode l 4 && queueOn s l.queue && queueItem s l.queue == some (.launch l) then
      (match launchCore s l with
       | some (_, false) => s
       | _ => if groupPlaced l then onLaunch s id (fun l => { l with affWait := some s.time }) else s)
    else s

/-- TEAM_DISPATCH (R379, R384): the next turn falls to this launch, and its next team is placed. -/
def execTeamDispatch (launch : Nat) (s : State) : Host.Outcome State Fault Refusal :=
  event s (fun s =>
    match nextAct s with
    | some (q, .place l c) => if l.id = launch then turnTaken (dispatchTeam s launch c) q else startAffWait s launch
    | some (_, .doom l st) => if l.id = launch then killLaunch s launch st else startAffWait s launch
    | some (_, .spill l _) => if l.id = launch then s else startAffWait s launch
    | _ => if s.contained then s else startAffWait s launch)

/-- AFFINITY_TIMEOUT (R385): a team that has waited 100 µs goes to the nearest die index that fits, and PLSPILL counts. -/
def execAffinityTimeout (launch : Nat) (s : State) : Host.Outcome State Fault Refusal :=
  event s (fun s =>
    match nextAct s with
    | some (q, .spill l c) => if l.id = launch then turnTaken (dispatchTeam (countSpill s true) launch c) q else s
    | _ => s)

/-- CO_RESIDENT_DISPATCH (R387): all teams of the launch at once, and one turn of its queue. -/
def execCoResidentDispatch (launch : Nat) (s : State) : Host.Outcome State Fault Refusal :=
  event s (fun s =>
    match nextAct s with
    | some (q, .together l ps) =>
      if l.id = launch then turnTaken (ps.foldl (fun s x => dispatchTeam (countSpill s x.2) launch x.1) s) q else s
    | some (_, .doom l st) => if l.id = launch ∧ launchMode l 4 then killLaunch s launch st else s
    | _ => s)

/-! ### Code lines (R388) -/

/-- Prefetch one code line for a team into the core's instruction cache: dropped, and counted, where a fetch would meet a cause of R104
steps 2 to 4, an address of the aperture area among them (R86, R113). -/
def pushLine (s : State) (t : Team) (va : Nat) : State :=
  let x : Xagent := ⟨some t.core, t.core / 96, t.ctx, ctxSup s t.ctx⟩
  let y := xlate s x va .fetch (pickCached s 127)
  if !canonical va ∨ ctxArea s t.ctx va ∨ y.fault.isSome then mmCount s pfDrop 1
  else
    let s := xlPrefetch s x va y
    if unbacked s (portRoute s y.pa) ∨ (icFind s t.core y.pa).isSome then s
    else icFill (homeLine (l1Recall s 768 y.pa) (y.pa / 256 * 256) 256 false true true) t.core y.pa

/-- CODE_LINES_PUSHED (R388): the push lands, and the team's gangs become eligible. -/
def execCodeLinesPushed (team : Nat) (s : State) : Host.Outcome State Fault Refusal :=
  event s (fun s =>
    match teamById s team with
    | none => s
    | some t =>
      if t.pushed ∨ t.saved then s
      else
        let s := t.push.foldl (fun s a => pushLine s t a.toNat) s
        { s with teams := s.teams.map (fun x => if x.id = team then { x with pushed := true, push := [] } else x) })

end Sys2Proof.Machine
end

