-- ==== Sys2Proof/Machine/Saves.lean ====
section
/-! DEFINITION. Pre-emption, forced saves and restores, stuck cores and fork swap-outs (R222, R326, R375, R384, R386, R387,
R390, R392, R394). -/

namespace Sys2Proof.Machine

/-! ### The forced save (R375, R390) -/

/-- The resident gangs of a team. -/
def teamGangs (s : State) (id : Nat) : List Gang := (gangsOf s).filter (fun g => g.team == id)

/-- An operation that must have landed and arrived before a save, and has not finished: page motion, sweeps, and a TLBINV that still waits
for accesses. -/
def opHoldsSave (s : State) (o : Op) : Bool :=
  match o.kind with
  | .move _ | .sweep | .pin => !o.done
  | .tlbinv _ => !o.landed && !opReady s o
  | _ => false

/-- Land what may land in a gang, and arrive what may arrive. -/
def landAll (s : State) (g : Gang) : Gang :=
  let g := (g.ops.filter (opReady s)).foldl landOp g
  (List.range 16).foldl (fun g c => (outstanding g c).foldl (fun g _ => arriveOn g c) g) g

/-- An arm as a save keeps it: a VGROW issues again, and no stall retry stands. -/
def savedArm (a : Arm) : Arm :=
  { a with stall := (match a.stall with
      | .vgrow _ _ | .retry _ => .none
      | st => st) }

/-- A gang as a save keeps it: run-ahead is discarded (R222); what its core held stands under core number 768 + team. -/
def savedGang (g : Gang) : Gang :=
  onArms { g with core := 768 + g.team, streams := g.streams.map (fun q => { q with ahead := [] }), urgent := false } savedArm

/-- Write both arms' on-chip stack entries of a gang to memory (R356). -/
def storeStacks (s : State) (g : Gang) : Except (Trap × State) State :=
  (armsOf g).foldl (fun acc a => match acc with
    | .ok s => storeStack (focusOn s g.id a.slot)
    | e => e) (.ok s)

/-- Move a team's barrier block between two cores and slots (R188). -/
def moveBlock (s : State) (src dst : Nat) : State :=
  let s := if src < 67108864 then touchUnit s false src 256 else s
  let s := if dst < 67108864 then touchUnit s false dst 256 else s
  { s with mem := { s.mem with
      bank := moveCells 0 s.mem.bank src dst 256
      bankPoison := moveMarks s.mem.bankPoison (src / 8) (dst / 8) 32 } }

/-- Update a team. -/
def onTeam (s : State) (id : Nat) (f : Team → Team) : State := { s with teams := listUpdate (fun t => t.id == id) f s.teams }

/-- The lines that the gangs' operations reserve are reserved no longer (R182). -/
def unreserveAll (s : State) (gs : List Gang) : State := gs.foldl (fun s g => g.ops.foldl (fun s o => unreserve s o.id) s) s

/-- The team's gangs leave the core, saved as they are. -/
def unloadTeam (s : State) (t : Team) (swap : Bool) : State :=
  let s := mxSave (unreserveAll s (teamGangs s t.id)) t.id t.core
  let s := (teamGangs s t.id).foldl (fun s g => (g.ops.filter (opReady s)).foldl (fun s o => (landOutside s g o true).1) s) s
  let s := mapGangs s (fun g => if g.team = t.id then landAll s g else g)
  let gs := (teamGangs s t.id).map savedGang
  let s := { s with live := s.live && s.gang.team != t.id, others := s.others.filter (fun g => g.team != t.id) }
  let t' := { t with core := 768 + t.id, slot := 0, lastCore := t.core, scrBase := 0, saves := t.saves + 1, target := none, reclaim := none, saved := true,
                     savedGangs := gs, forkSwap := swap }
  let s := moveScratch s t.core t.scrBase t'.core 0 t.scrGranules
  let s := moveBlock s (teamBarObj t 0) (teamBarObj t' 0)
  onTeam s t.id (fun _ => t')

/-- Save a team at instruction boundaries. Nothing happens while an operation that lands first has not finished; a stack entry
that cannot be written ends the launch with status 3 (R356). -/
def saveTeam (s : State) (id : Nat) (swap : Bool) : State :=
  match teamById s id with
  | none => s
  | some t =>
    if t.saved ∨ t.endNow ∨ (teamGangs s id).any (fun g => g.ops.any (opHoldsSave s)) then s
    else
      let r := (teamGangs s id).foldl (fun (acc : Except (Trap × State) State) g => match acc with
        | .ok s => storeStacks s g
        | e => e) (.ok s)
      match r with
      | .error (_, s) => killLaunch s t.launch 3
      | .ok s => unloadTeam s t swap

/-- FORCED_SAVE (R390): a team that gives way has not ended within the drain limit. -/
def execForcedSave (team : Nat) (s : State) : Host.Outcome State Fault Refusal :=
  event s (fun s =>
    match teamById s team with
    | some t => (match t.target with | some d => if d ≤ s.time then saveTeam s team false else s | none => s)
    | none => s)

/-! ### Restore (R384, R390) -/

/-- An arm as a restore re-arms it: its waits begin their timers anew, a WWAIT's in TIME and the others in clocks (R175, R345, R373); a HALT
that holds for the context stops it. -/
def restoredArm (cc time : Nat) (halt : Bool) (a : Arm) : Arm :=
  { a with halted := a.halted || halt
           stall := (match a.stall with
             | .wait c k _ => .wait c k cc
             | .bar n _ => .bar n cc
             | .wwait l w k _ => .wwait l w k time
             | st => st) }

/-- Put a saved team on a core that fits it. -/
def loadTeam (s : State) (t : Team) (core : Nat) : State :=
  match mxPlace s t.id core with
  | none => s
  | some s =>
    let sp := scrPlace s core t.scrGranules
    let s := moveScratch sp.2 t.core 0 core sp.1 t.scrGranules
    let t' := { t with core := core, lastCore := core, slot := freeTeamSlot s core, scrBase := sp.1, saved := false, savedGangs := [],
                       forkSwap := false, back := false, affWait := none }
    let s := moveBlock s (teamBarObj t 0) (teamBarObj t' 0)
    let slots := freeGangSlots ((coreLoad s core).gangSlots) t.savedGangs.length
    let pipes := givePipes (pipeLoad s core) (t.savedGangs.map (fun g => g.declared))
    let halt := startsHalted s t.ctx
    let gs := (t.savedGangs.zip (List.range t.savedGangs.length)).map (fun x =>
      onArms { x.1 with core := core, gslot := slots.getD x.2 0, pipe := pipes.getD x.2 0 } (restoredArm s.cc s.time halt))
    (gs.map (fun g => g.id)).foldl reRegister (addGangs (onTeam s t.id (fun _ => t')) gs)

/-- A saved team that goes back by R385 begins to wait for its affinity group: it heads its queue and no core of the group fits it
(R395). -/
def startTeamWait (s : State) (id : Nat) : State :=
  match teamById s id with
  | none => s
  | some t =>
    if t.saved && t.back && t.affWait.isNone && queueOn s t.queue && queueItem s t.queue == some (.saved t) &&
        (match teamCore s t, launchById s t.launch with
         | some (_, false), _ => false
         | _, some l => (match affGroup l.pkt t.no with | some g => l.affPlace.any (fun x => x.1 == g) | none => false)
         | _, none => false) then
      onTeam s id (fun t => { t with affWait := some s.time })
    else s

/-- TEAM_RESTORE (R390): the next turn falls to this saved team; PLSPILL counts where it goes outside its affinity group (R385, R395). -/
def execTeamRestore (team : Nat) (s : State) : Host.Outcome State Fault Refusal :=
  event s (fun s =>
    match nextAct s with
    | some (q, .restore t c) =>
      if t.id = team then
        turnTaken (loadTeam (countSpill s (match teamCore s t with | some (_, far) => far | none => false)) t c) q
      else startTeamWait s team
    | _ => if s.contained then s else startTeamWait s team)

/-! ### Who gives way (R386, R387, R390) -/

/-- The TIME at which a team told now to give way is saved. -/
def drainTime (s : State) : Nat := s.time + 1000 * mmField s preCtl 31 0

/-- A team's launch is co-resident. -/
def coResident (s : State) (t : Team) : Bool := match launchById s t.launch with | some l => launchMode l 4 | none => false

/-- Tell resident teams to give way; co-resident ones are not told (R387). -/
def giveWay (s : State) (p : Team → Bool) : State :=
  let d := drainTime s
  { s with teams := s.teams.map (fun t => if !t.saved && t.target.isNone && !coResident s t && p t then { t with target := some d } else t) }

/-- PRECMD (R390, R398): every resident team of a queue. -/
def execPrecmd (q : Nat) (s : State) : Host.Outcome State Fault Refusal :=
  event s (fun s => if s.contained then s else giveWay s (fun t => t.queue == q))

/-- What the head of a queue asks, with its launch. -/
def itemNeed : Item → Need × Nat
  | .saved t => (teamNeed t, t.launch)
  | .launch l => (launchNeed l, l.id)

/-- The resident teams of a core that may have to give way to a queue of priority `p`: lowest priority first, youngest first. -/
def yielders (s : State) (p core : Nat) : List Team :=
  sortBy (fun (a b : Team) =>
    decide (queuePrio s a.queue < queuePrio s b.queue) || (queuePrio s a.queue == queuePrio s b.queue && decide (b.age ≤ a.age)))
    ((residents s core).filter (fun t => decide (queuePrio s t.queue < p) && !coResident s t && !t.endNow))

/-- A core's load without some teams. -/
def loadWithout (s : State) (core : Nat) (out : List Nat) : CoreLoad :=
  let ts := (residents s core).filter (fun t => !out.contains t.id)
  let gs := (gangsOf s).filter (fun g => g.core == core && !out.contains g.team)
  ⟨ts.map (fun t => t.slot), gs.map (fun g => g.gslot), gs.foldl (fun n g => n + g.nv * 32 * (g.declared / 8)) 0,
   ts.map (fun t => (t.scrBase, t.scrGranules)), gs.foldl (fun n g => n + g.declared) 0⟩

/-- The fewest teams of a core that must give way for a need, if that helps. -/
def coreYield (s : State) (p core : Nat) (n : Need) : Option (List Nat) :=
  let ys := (yielders s p core).map (fun t => t.id)
  (natRange 1 ys.length).findSome? (fun k => if loadFits (loadWithout s core (ys.take k)) n then some (ys.take k) else none)

/-- The core on which the fewest teams give way, the lowest on ties. -/
def bestYield (s : State) (q : Nat) (n : Need) : Option (List Nat) :=
  (List.range 768).foldl (fun (best : Option (List Nat)) c =>
    if coreEnabled s c && corePermits s q c (residents s c).isEmpty && (match s.cp.sub with | some d => c / 96 != d | none => true) then
      (match coreYield s (queuePrio s q) c n, best with
       | some ids, some b => if ids.length < b.length then some ids else some b
       | some ids, none => some ids
       | none, b => b)
    else best) none

/-- Teams told to give way to the queue's waiting team have not left yet. -/
def yieldPending (s : State) (q : Nat) : Bool := s.teams.any (fun t => t.target.isSome && t.reclaim == some q)

/-- Teams give way to the waiting team of a queue, those that another cause has already told to among them. -/
def yieldTo (s : State) (q : Nat) (ids : List Nat) : State :=
  let s := giveWay s (fun t => ids.contains t.id)
  { s with teams := s.teams.map (fun t => if ids.contains t.id ∧ t.target.isSome ∧ t.reclaim.isNone then { t with reclaim := some q } else t) }

/-- Lent teams on a partition's cores (R386). -/
def lentOn (s : State) (p : Nat) (t : Team) : Bool := corePart s t.core == some p && queuePart s t.queue != p

/-- The head of a queue does not fit, its launch's save room and blocks counted (R384, R386). -/
def headStuck (s : State) (q : Nat) : Bool :=
  (queueAct s q).isNone && (match queueItem s q with
    | some (.saved t) => (teamCore s t).isNone
    | some (.launch l) => (ctxRoot s l.ctx).isSome && !launchMode l 4 && (launchCore s l).isNone
    | none => false)

/-- The head of a queue finds no core although its launch has blocks and save room (R390). -/
def headWaits (s : State) (q : Nat) : Bool :=
  headStuck s q && (match queueItem s q with
    | some (.launch l) => saveRoom s l.ctx && (poolRun s l).isSome
    | _ => true)

/-- A co-resident launch at the head of its queue begins to drain the cores of its placement, unless another that drains holds one
of them: teams of queues of lower priority give way (R387). -/
def startDrain (s : State) (l : Launch) : State :=
  match coPlan s l with
  | none => s
  | some ps =>
    if l.draining ∨ ps.any (fun x => (drained s l.id).contains x.1) then s
    else
      giveWay (onLaunch s l.id (fun l => { l with draining := true }))
        (fun t => ps.any (fun x => x.1 == t.core) && decide (queuePrio s t.queue < queuePrio s l.queue))

/-- PRE_EMPTION (R386, R387, R390): the launch heads its queue, itself or with a saved team, and does not fit. Teams that a partition has
lent give way in each case. -/
def execPreEmption (launch : Nat) (s : State) : Host.Outcome State Fault Refusal :=
  event s (fun s =>
    match launchById s launch with
    | none => s
    | some l =>
      let q := l.queue
      match queueItem s q with
      | none => s
      | some it =>
        let together := launchMode l 4 ∧ it = .launch l
        if s.contained ∨ !queueOn s q ∨ (itemNeed it).2 ≠ launch then s
        else if (if together then (queueAct s q).isSome ∨ (ctxRoot s l.ctx).isNone else !headStuck s q) then s
        else
          let s' := if queuePart s q = 0 then s else giveWay s (lentOn s (queuePart s q))
          if together then startDrain s' l
          else if !headWaits s q ∨ yieldPending s' q then s'
          else match bestYield s' q (itemNeed it).1 with
          | some ids => yieldTo s' q ids
          | none => s')

/-! ### Stuck cores (R392) -/

/-- The arm would issue if its pipe gave it the beat: it waits for nothing. -/
def armReady (s : State) (g : Gang) (a : Arm) : Bool :=
  !g.exited && !a.halted && !a.parked && (match a.stall with
    | .none => true
    | .wait c k _ => reached (readC g c) (BitVec.ofNat 16 k)
    | .bar n _ => (match teamById s g.team with
        | some t => a.barWaits.any (fun w => w.1 == n && (match w.2.2 with
            | some ph => phasePassed s (teamBarObj t n) ph
            | none => false))
        | none => false)
    | .wwait land w k _ => (match windowOf s g.ctx w with | some x => windowReached (windowCtr land x) k | none => true)
    | _ => false)

/-- An operation that keeps a core from being stuck: an access, a job, an engine command, a put or a landing is outstanding. -/
def opKeeps (o : Op) : Bool :=
  match o.kind with
  | .barx _ _ | .brdo _ _ _ _ | .held _ _ _ _ _ _ | .fork _ => false
  | _ => true

/-- The core is stuck, 1,024 cc having passed since an arm was eligible. -/
def coreStuck (s : State) (core : Nat) : Bool :=
  let gs := (gangsOf s).filter (fun g => g.core == core)
  decide (smapGet 0 s.cp.idleSince core + 1024 ≤ s.cc) && gs.all (fun g => (armsOf g).all (fun a => !armReady s g a)) &&
  gs.all (fun g => !g.ops.any opKeeps) && s.jobs.list.all (fun j => j.st == .complete || !((residents s core).any (fun t => t.id == j.team))) &&
  (match vgrowQueue s core with
   | [] => false
   | (_, _, g, a) :: _ => (match a.stall with
       | .vgrow nv _ => !vrfRoom s core ((nv - g.nv) * 32 * (g.declared / 8))
       | _ => false))

/-- The youngest team of a core. -/
def youngest (s : State) (core : Nat) : Option Team :=
  match residents s core with
  | [] => none
  | t :: rest => some (rest.foldl (fun (b t : Team) => if b.age < t.age then t else b) t)

/-- STUCK_CORE (R392): the core saves its youngest team; a team that is alone, or of a co-resident launch, ends its launch with
status 5. -/
def execStuckCore (core : Nat) (s : State) : Host.Outcome State Fault Refusal :=
  event s (fun s =>
    if !coreStuck s core then s
    else match youngest s core with
    | none => s
    | some t =>
      if (residents s core).length = 1 ∨ coResident s t then killLaunch s t.launch 5 else saveTeam s t.id false)

/-! ### Fork swap-outs (R394) -/

/-- The arm waits for a child on a counter that a FORK owes. -/
def forkWait (g : Gang) (a : Arm) : Bool :=
  match a.stall with
  | .wait c k _ => !reached (readC g c) (BitVec.ofNat 16 k) &&
      g.ops.any (fun o => o.ctr == c && (match o.kind with | .fork _ => true | _ => false))
  | _ => false

/-- The arm is in a state that allows the swap-out. -/
def swapReady (g : Gang) (a : Arm) : Bool :=
  a.parked || forkWait g a || (match a.stall with | .bar _ _ => true | _ => false)

/-- PARENT_SWAP_OUT (R394): every live arm of the team waits for a fork, is parked or waits at a barrier. -/
def execParentSwapOut (team : Nat) (s : State) : Host.Outcome State Fault Refusal :=
  event s (fun s =>
    match teamById s team with
    | none => s
    | some t =>
      let gs := (teamGangs s team).filter (fun g => !g.exited)
      if !t.saved && !coResident s t && gs.any (fun g => (armsOf g).any (forkWait g)) &&
          gs.all (fun g => (armsOf g).all (swapReady g)) then saveTeam s team true
      else s)

end Sys2Proof.Machine
end

