-- ==== Sys2Proof/Machine/Debug.lean ====
section
/-! DEFINITION. Trace samples, debug commands and their rights (R422 to R426, R430). -/

namespace Sys2Proof.Machine

/-! ### Trace samples (R422) -/

/-- TRACE_SAMPLE (R422): PERIOD cc have passed since the traced arm's last sample. -/
def execTraceSample (g slot : Nat) (s : State) : Host.Outcome State Fault Refusal :=
  event s (fun s0 =>
    let s := focusOn s0 g slot
    let key := 2 * g + slot
    let period := mmField s trcCtl 63 32
    if s.live ∧ s.gang.id = g ∧ s.gang.arm.slot = slot ∧ period ≠ 0 ∧ mmField s trcCtl 0 0 = 1 ∧ mmField s trcCtl 31 16 = s.gang.ctx ∧
        smapGet 0 s.cp.sampled key + period ≤ s.cc then
      { trace s 1 none with cp := { s.cp with sampled := smapSet 0 s.cp.sampled key s.cc } }
    else s)

/-! ### A debug block's registers (R430) -/

/-- DBGSTAT. -/
def dbgStat (k : Nat) : Nat := dbgBlock k + 0x10
/-- The context of a debug block. -/
def dbgCtx (s : State) (k : Nat) : Nat := mmField s (dbgBlock k) 15 0
/-- RIGHT. -/
def dbgRight (s : State) (k : Nat) : Bool := mmField s (dbgBlock k) 16 16 == 1
/-- A field of DBGSEL. -/
def dbgSel (s : State) (k hi lo : Nat) : Nat := mmField s (dbgBlock k + 0x18) hi lo

/-- A command is refused: REFUSED is set (R424). -/
def dbgRefuse (s : State) (k : Nat) : State := mmPutField s (dbgStat k) 2 2 1

/-- A command has finished: DONE is set. -/
def dbgDone (s : State) (k : Nat) : State := mmPutField s (dbgStat k) 0 0 1

/-- A command of block `k`: the first after a revocation is refused with REVOKED, and every one without the right is refused
(R424, R426). -/
def dbgCommand (s : State) (k : Nat) (f : State → State) : State :=
  if s.contained ∨ 4 ≤ k then s
  else if s.dbg.revoked.contains k then
    mmPutField (dbgRefuse { s with dbg := { s.dbg with revoked := nsetErase s.dbg.revoked k } } k) (dbgStat k) 3 3 1
  else if !dbgRight s k then dbgRefuse s k
  else f s

/-- HALTED and BUSY follow the arms: every resident arm of the context is halted; a single step is under way (R430). -/
def syncDebug (s : State) : State :=
  (List.range 4).foldl (fun s k =>
    if !dbgRight s k then s
    else
      let arms := ((gangsOf s).filter (fun g => g.ctx == dbgCtx s k && !g.exited)).flatMap armsOf
      let halted := arms.all (fun a => a.halted) && (!arms.isEmpty || s.dbg.halting.contains k)
      mmPutField (mmPutField s (dbgStat k) 1 1 (if halted then 1 else 0)) (dbgStat k) 5 5 (if arms.any (fun a => a.stepOne) then 1 else 0)) s

/-! ### HALT, RESUME, STEP and CLEAR (R425) -/

/-- Halt an arm by a precise stop of a HALT command, which is traced (R422, R423). -/
def haltArm (s : State) (g slot : Nat) : State :=
  let s := focusOn s g slot
  if s.live ∧ s.gang.id = g ∧ s.gang.arm.slot = slot ∧ !s.gang.arm.halted then
    trace (s.onArm (fun a => { a with halted := true, stepOne := false })) 6 (some 3)
  else s

/-- DBGCMD HALT (R425): every resident arm of the context stops, and teams dispatched later start halted. -/
def execDbgcmdHalt (blk : Nat) (s : State) : Host.Outcome State Fault Refusal :=
  event s (fun s => dbgCommand s blk (fun s =>
    let gs := (gangsOf s).filter (fun g => g.ctx == dbgCtx s blk && !g.exited)
    let s := gs.foldl (fun s g => (armsOf g).foldl (fun s a => haltArm s g.id a.slot) s) s
    dbgDone { s with dbg := { s.dbg with halting := nsetInsert s.dbg.halting blk } } blk))

/-- Every halted arm of a context resumes, saved ones too. -/
def resumeArms (s : State) (ctx : Nat) : State :=
  mapGangs s (fun g => if g.ctx = ctx then onArms g (fun a => { a with halted := false }) else g)

/-- No HALT of a block holds any more, and STOPPED is clear. -/
def dbgRelease (s : State) (k : Nat) : State :=
  mmPutField (mmPutField { resumeArms s (dbgCtx s k) with dbg := { s.dbg with halting := nsetErase s.dbg.halting k } } (dbgStat k) 4 4 0)
    (dbgStat k) 1 1 0

/-- DBGCMD RESUME (R425). -/
def execDbgcmdResume (blk : Nat) (s : State) : Host.Outcome State Fault Refusal :=
  event s (fun s => dbgCommand s blk (fun s => dbgDone (dbgRelease s blk) blk))

/-- Every breakpoint and watchpoint of a block is disabled. -/
def dbgClear (s : State) (k : Nat) : State :=
  let s := (List.range 4).foldl (fun s i => mmPutField s (dbgBlock k + 0x28 + 8 * i) 0 0 0) s
  (List.range 2).foldl (fun s i => mmPutField s (dbgBlock k + 0x48 + 8 * i) 5 4 0) s

/-- DBGCMD CLEAR (R425). -/
def execDbgcmdClear (blk : Nat) (s : State) : Host.Outcome State Fault Refusal :=
  event s (fun s => dbgCommand s blk (fun s => dbgDone (dbgClear s blk) blk))

/-- The gang that DBGSEL selects: of the first team with that number in the context. -/
def dbgGang (s : State) (k : Nat) : Option Gang :=
  (s.teams.find? (fun t => t.ctx == dbgCtx s k && t.no == dbgSel s k 63 32 && !t.endNow)).bind (fun t =>
    (gangsOf s ++ t.savedGangs).find? (fun g => g.team == t.id && g.gangNo == dbgSel s k 31 27 && !g.exited))

/-- The gang with the selected arm at hand. -/
def dbgArm (s : State) (k : Nat) : Option Gang :=
  (dbgGang s k).bind (fun g =>
    let slot := dbgSel s k 26 26
    if g.arm.slot = slot then some g
    else match g.partner with
      | some p => if p.slot = slot then some { g with arm := p, partner := some g.arm } else none
      | none => none)

/-- DBGCMD STEP (R425): the selected halted arm issues one instruction or group, then stops. -/
def execDbgcmdStep (blk : Nat) (s : State) : Host.Outcome State Fault Refusal :=
  event s (fun s => dbgCommand s blk (fun s =>
    match dbgArm s blk with
    | some g =>
      if g.arm.halted && g.core < 768 then
        onGangId s g.id (fun g => onArms g (fun a =>
          if a.slot = dbgSel s blk 26 26 then { a with halted := false, stepOne := true, skipStop := true } else a))
      else dbgRefuse s blk
    | none => dbgRefuse s blk))

/-! ### READ and WRITE (R425) -/

/-- A shadow as DBGDATA shows it. -/
def shadowData (x : Shadow) : DWord := pairOf (BitVec.ofInt 32 x.lo) (BitVec.ofInt 32 x.hi)

/-- The item that a register file, lane and number name, for a gang with the arm at hand; `none` where there is none. -/
def dbgItem (s : State) (g : Gang) (file lane reg : Nat) : Option DWord :=
  match file with
  | 0 => if reg < g.ns ∨ (61 ≤ reg ∧ reg < 64) then some ((readS g reg).setWidth 64) else none
  | 1 => if reg < g.nv ∧ lane < g.width then some ((readV g reg lane).setWidth 64) else none
  | 2 => if reg < 16 then some ((readA g reg).extractLsb' (if lane % 2 = 0 then 0 else 64) 64) else none
  | 3 => if reg < 16 then some ((readC g reg).setWidth 64) else none
  | 4 => if csrListed (BitVec.ofNat 12 reg) then some ((csrRead { s with gang := g } reg).setWidth 64) else none
  | 5 => if reg < g.ns ∨ (61 ≤ reg ∧ reg < 64) then some (shadowData (shadowS g reg)) else none
  | 6 => if reg < g.nv then some (shadowData (shadowV g reg)) else none
  | 7 => some g.arm.pc
  | _ => none

/-- A shadow bounds a value. -/
def shBounds (x : Shadow) (v : Word) : Bool := decide (x.lo ≤ v.toInt) && decide (v.toInt ≤ x.hi)

/-- A register's shadow grows in both arms to hold a value that a debugger wrote: DESIGN CHOICE, log entry 33. -/
def widenShadow (vec : Bool) (reg : Nat) (v : Word) (g : Gang) : Gang :=
  let grow (m : List (Nat × Shadow)) : List (Nat × Shadow) := smapSet Shadow.zero m reg (shHull (smapGet Shadow.zero m reg) (shExact v))
  onArms g (fun a => if vec then { a with shV := grow a.shV } else { a with shS := grow a.shS })

/-- The lanes of an arm that hold a register's value soundly: its members, and those its stack entries hold. -/
def armLanes (g : Gang) : List Nat := laneList (g.arm.stack.foldl (fun m e => m ||| e.mask) g.arm.members)

/-- Write an item: the gang, or `none` where the write is refused. CSRs go through `dbgWriteCsr`. -/
def dbgPut (g : Gang) (file lane reg : Nat) (v : DWord) : Option Gang :=
  let w := loWord v
  let sh : Shadow := ⟨(loWord v).toInt, (hiWord v).toInt⟩
  match file with
  | 0 =>
    if 61 ≤ reg ∧ reg < 64 then some (writeMask g (reg - 61) w)
    else if reg < g.ns then some (widenShadow false reg w { g with s := smapSet 0 g.s reg w }) else none
  | 1 => if reg < g.nv ∧ lane < g.width then some (widenShadow true reg w (putV g reg lane w)) else none
  | 2 =>
    if reg < 16 then
      let x := readA g reg
      some (writeA g reg (if lane % 2 = 0 then x.extractLsb' 64 64 ++ v else v ++ x.extractLsb' 0 64))
    else none
  | 3 => if reg < 16 then some { g with c := smapSet 0 g.c reg (v.extractLsb' 0 16) } else none
  | 5 => if (reg < g.ns ∨ (61 ≤ reg ∧ reg < 64)) ∧ shBounds sh (readS g reg) then some (setShadowS g reg sh) else none
  | 6 => if reg < g.nv ∧ (armLanes g).all (fun l => shBounds sh (readV g reg l)) then some (setShadowV g reg sh) else none
  | 7 => if v.toNat % 4 = 0 then some { g with arm := { g.arm with pc := v, rep := 0 } } else none
  | _ => none

/-- Write a CSR of the arm, as CSRW does (R408). -/
def dbgWriteCsr (s : State) (g : Gang) (reg : Nat) (v : DWord) : Option Gang :=
  if csrListed (BitVec.ofNat 12 reg) then some (csrPut (csrClear { s with gang := g } reg (loWord v)) reg (loWord v)).gang else none

/-- Act on the selected arm, halted or saved; anything else is refused. -/
def withDbgArm (s : State) (k : Nat) (f : Gang → Option State) : State :=
  match dbgArm s k with
  | none => dbgRefuse s k
  | some g =>
    if g.arm.halted || 768 ≤ g.core then
      (match f g with
       | some s => dbgDone s k
       | none => dbgRefuse s k)
    else dbgRefuse s k

/-- DBGCMD READ (R425). -/
def execDbgcmdRead (blk : Nat) (s : State) : Host.Outcome State Fault Refusal :=
  event s (fun s => dbgCommand s blk (fun s => withDbgArm s blk (fun g =>
    (dbgItem s g (dbgSel s blk 25 22) (dbgSel s blk 21 15) (dbgSel s blk 11 0)).map (fun v => mmPut s (dbgBlock blk + 0x20) v.toNat))))

/-- Put a gang back whose arms may stand in either order. -/
def restoreGang (s : State) (g : Gang) : State :=
  onGangId s g.id (fun old =>
    if old.arm.slot = g.arm.slot then g
    else match g.partner with
      | some p => { g with arm := p, partner := some g.arm }
      | none => g)

/-- DBGCMD WRITE (R425). -/
def execDbgcmdWrite (blk : Nat) (s : State) : Host.Outcome State Fault Refusal :=
  event s (fun s => dbgCommand s blk (fun s => withDbgArm s blk (fun g =>
    let file := dbgSel s blk 25 22
    let reg := dbgSel s blk 11 0
    let v : DWord := BitVec.ofNat 64 (mmGet s (dbgBlock blk + 0x20))
    (if file = 4 then dbgWriteCsr s g reg v else dbgPut g file (dbgSel s blk 21 15) reg v).map (restoreGang s))))

/-! ### Revocation (R426) -/

/-- The right of a block for a context ends, as one step. -/
def revokeBlock (s : State) (k : Nat) : State :=
  let s := mmPutField (dbgRelease (dbgClear s k) k) (dbgBlock k) 16 16 0
  { s with dbg := { s.dbg with revoked := nsetInsert s.dbg.revoked k } }

/-- REVOCATION (R426): system software clears RIGHT. -/
def execRevocation (blk : Nat) (s : State) : Host.Outcome State Fault Refusal :=
  event s (fun s => if s.contained ∨ 4 ≤ blk ∨ !dbgRight s blk then s else revokeBlock s blk)

end Sys2Proof.Machine
end

