-- ==== Sys2Proof/Machine/Ends.lean ====
section
/-! DEFINITION. The ends of gangs, teams and launches; replay, teardown, spare-die substitution, containment and urgency (R188,
R209, R370, R389, R394 to R397, R412, R416, R421). -/

namespace Sys2Proof.Machine

/-! ### The end of a team (R384, R421) -/

/-- The 128 bytes of a team's record. -/
def teamRecord (s : State) (t : Team) : List Byte :=
  let done := match launchById s t.launch with | some l => pkDone l.pkt | none => 0
  leBytes 2 t.ctx ++ leBytes 1 t.queue ++ leBytes 1 (Min.min t.saves 255) ++ leBytes 4 t.no ++ leBytes 8 t.tFirst ++ leBytes 8 s.time ++
    leBytes 2 t.lastCore ++ leBytes 6 0 ++ (List.range 16).flatMap (fun i => leBytes 4 (smapGet 0 t.stallSum i)) ++ leBytes 8 done ++ leBytes 24 0

/-- A team ends: its record is written, and what it holds is free again. -/
def endTeam (s : State) (t : Team) : State :=
  let s := ringPost s teamRing (teamRing + 32) 3 (teamRecord s t)
  let s := mxFree s t.id
  { s with teams := s.teams.filter (fun x => x.id ≠ t.id) }

/-- Teams that their launch has ended leave. -/
def sweepTeams (s : State) : State := (s.teams.filter (fun t => t.endNow)).foldl endTeam s

/-! ### The end of a gang (R370) -/

/-- At a gang's end one barrier of its team expects an arrival less; a phase that this completes releases its waiters (R188). -/
def lowerExpect (s : State) (obj : Nat) : State :=
  let e := bkNat s (obj + 6) 2
  if e = 0 then s else barxCheck (bkPut s (obj + 6) 2 (e - 1)) obj

/-- The team's 16 barriers are touched at a gang's end, at a logical time after its accesses and those of the operations that arrived for
it (R332, R370, R415, R417): its launch has reached that time. -/
def touchBarriers (s : State) (g : Gang) (t : Team) : State :=
  let obj := teamBarObj t 0
  let ag := g.core * 2 ^ 20 + g.gslot * 2
  let tm := writeAfter s (gangLast g) ag (bankLine obj)
  raiseLaunch (stampWrite (objAccess s g.launch obj 256) ag tm (bankLine obj)) g.launch tm

/-- A gang ends: barriers, counters and, with the last gang, the team. -/
def endGang (s : State) (g : Gang) : State :=
  match teamById s g.team with
  | none => s
  | some t =>
    let s := (List.range 16).foldl (fun s n => lowerExpect s (teamBarObj t n)) (touchBarriers s g t)
    let s := { s with live := s.live && s.gang.id != g.id, others := s.others.filter (fun x => x.id != g.id) }
    let t' := { t with stallSum := stallAdd t.stallSum g }
    let s := onTeam s t.id (fun _ => t')
    if (teamGangs s t.id).isEmpty then endTeam s t' else s

/-- GANG_END (R370): every lane has exited and every operation has arrived. -/
def execGangEnd (g : Nat) (s : State) : Host.Outcome State Fault Refusal :=
  event s (fun s =>
    match gangById s g with
    | some x => if x.exited && x.ops.isEmpty then endGang s x else s
    | none => s)

/-! ### Completion (R396) -/

/-- The command processor writes bytes within a sector at a global address of a context, as the host-link agent (log entry 66); `none`
where it faults, or lies in the aperture area (R86). At the latest time that any agent may reach, the write comes after every access before it (R330, R333, R396). -/
def cpWrite (s0 : State) (ctx va : Nat) (bs : List Byte) : Option State :=
  let s := setAgentTime s0 hostNo (Max.max (agentTime s0 hostNo) (timeBound s0))
  let x : Xagent := ⟨none, 0, ctx, true⟩
  let t := xlate s x va .write (pickCached s 126)
  if !canonical va ∨ ctxArea s ctx va ∨ (ctxRoot s ctx).isNone ∨ t.fault.isSome then none
  else some (homeWrite (xlCommit s x va .write t) hostNo t.pa bs)

/-- The completion record. -/
def doneBytes (s : State) (l : Launch) (st : Nat) : List Byte := leBytes 4 st ++ leBytes 2 l.replays ++ leBytes 2 0 ++ leBytes 8 s.time

/-- Write a launch's completion record, and signal its queue (R396, R444). -/
def writeDone (s : State) (l : Launch) (st : Nat) : State :=
  match cpWrite s l.ctx (pkDone l.pkt) (doneBytes s l st) with
  | none => mmCount s cpDonef 1
  | some s => if mmField s (qBlock l.queue + 8) 2 2 = 1 then msixSignal s (8 + l.queue) else s

/-- The FORK that submitted a child has finished, after every access of the child (R332, R393). -/
def answerFork (s : State) (l : Launch) (st : Nat) : State :=
  match l.parent with
  | none => s
  | some (gang, _) =>
    match (gangsOf s ++ s.teams.flatMap (fun t => t.savedGangs)).find? (fun g => g.id == gang) with
    | none => s
    | some g =>
      match g.ops.find? (fun o => o.kind == .fork l.id) with
      | none => s
      | some o =>
        let s := if st = 0 then s
          else onGangId s gang (fun g => addPend g ⟨o.ctr, o.ticket, causeFork, 5, BitVec.ofNat 64 l.pktAddr, 0, 0⟩)
        finishOp s gang o.id l.ltime

/-- A launch completes with a status. -/
def closeLaunch (s : State) (l : Launch) (st : Nat) : State :=
  let s := if l.silent then s else writeDone s l st
  let s := answerFork s l st
  { s with launches := s.launches.filter (fun x => x.id ≠ l.id) }

/-- Jobs, puts and children of a launch that have not arrived. -/
def launchBusy (s : State) (id : Nat) : Bool :=
  s.jobs.list.any (fun j => j.launch == id && j.st != .complete) || s.link.packets.any (fun p => unanswered p && p.launch == id) ||
    s.launches.any (fun l => match l.parent with | some (_, p) => p == id | none => false)

/-- LAUNCH_COMPLETION (R396): every team has ended and everything the launch submitted has arrived. -/
def execLaunchCompletion (launch : Nat) (s : State) : Host.Outcome State Fault Refusal :=
  event s (fun s =>
    let s := sweepTeams s
    match launchById s launch with
    | none => s
    | some l =>
      if l.replaying ∨ undispatched l ∨ s.teams.any (fun t => t.launch == launch) ∨ launchBusy s launch then s
      else closeLaunch s l (l.killed.getD 0))

/-! ### Replay (R416) -/

/-- Complete every incomplete job that satisfies `p` with status 4 (R209). -/
def stopJobs (s : State) (p : Job → Bool) : State :=
  (s.jobs.list.filter (fun j => j.st != .complete && p j)).foldl (fun s j => completeJob s j.serial 4 0 0) s

/-- Write a snapshot back: a page line by line as the host-link agent writes, or a unit of bank memory. -/
def restorePage (s : State) (x : Snapshot) : State :=
  (List.range 16).foldl (fun s i => homeWrite s hostNo (x.pa + 256 * i) ((x.bytes.drop (256 * i)).take 256)) s

/-- A launch back at the head of its queue, as at first dispatch. -/
def requeue (s : State) (l : Launch) : State :=
  let l' := { l with replays := l.replays + 1, replaying := false, nextTeam := 0, affWait := none, affPlace := [], draining := false,
                     snaps := [], bankSnaps := [] }
  { s with launches := l' :: s.launches.filter (fun x => x.id ≠ l.id) }

/-- REPLAY (R416): once nothing of the launch is outstanding, the pre-images go back, and the launch runs again or completes with
status 4. -/
def execReplay (launch : Nat) (s : State) : Host.Outcome State Fault Refusal :=
  event s (fun s =>
    match launchById s launch with
    | none => s
    | some l =>
      if !l.replaying then s
      else
        let ids := launchTree s forkFuel launch
        let s := stopJobs (sweepTeams s) (fun j => ids.contains j.launch)
        if s.teams.any (fun t => t.launch == launch) ∨ launchBusy s launch ∨ s.cp.sub.isSome then s
        else
          let s := l.snaps.foldl restorePage s
          let s := l.bankSnaps.foldl (fun s x => bankWrite s x.pa x.bytes) s
          if l.replays < recNat l.pkt 53 1 then requeue s l
          else onLaunch s launch (fun l => { l with replaying := false, killed := some 4, snaps := [], bankSnaps := [] }))

/-! ### Teardown (R397) and containment (R412) -/

/-- Registered tensor ids of a context retire as by TINV.wb (R167). -/
def retireTensors (s : State) (ctx : Nat) : State :=
  if (ctxRoot s ctx).isNone then s
  else (natRange 1 4095).foldl (fun s i =>
    if idState s ctx i = 1 then
      let s := setIdState s hostNo ctx i 2
      sweepBusy { s with serial := s.serial + 1
                         caches := { s.caches with sweeps := s.caches.sweeps ++ [⟨s.serial, ctx, i, false, false, 0, 0⟩] } }
    else s) s

/-- End launches at once, with a status in their records. -/
def endLaunches (s : State) (p : Launch → Bool) (st : Nat) : State :=
  let ids := (s.launches.filter p).map (fun l => l.id)
  let s := sweepTeams (dropTeams s ids)
  let s := stopJobs s (fun j => ids.contains j.launch)
  (s.launches.filter p).foldl (fun s l => closeLaunch s l st) s

/-- FORKs of a context that issued in the cycle at hand are discarded: no record, no arrival and no trap (R397). -/
def dropForks (s : State) (ctx : Nat) : State :=
  { s with launches := s.launches.filter (fun l => !(l.ctx == ctx && l.parent.isSome && l.forkedAt == s.cc)) }

/-- CONTEXT_TEARDOWN (R397): launches, teams, jobs, windows, moves and tensors of a context end, and its debug right (R426). -/
def execContextTeardown (ctx : Nat) (s : State) : Host.Outcome State Fault Refusal :=
  event s (fun s =>
    if s.contained then s
    else
      let s := dropForks s ctx
      let ids := (s.launches.filter (fun l => l.ctx == ctx)).map (fun l => l.id)
      let s := sweepTeams (dropTeams s ids)
      let s := stopJobs s (fun j => j.ctx == ctx)
      let s := onLink s (fun k => { k with windows := k.windows.filter (fun w => w.ctx ≠ ctx) })
      let s := cancelMoves s (fun m => m.ctx == ctx) 5
      let s := retireTensors s ctx
      let s := endLaunches s (fun l => l.ctx == ctx) 2
      (List.range 4).foldl (fun s k => if dbgRight s k && dbgCtx s k == ctx then revokeBlock s k else s) s)

/-- After a fatal error every launch has ended, with status 4 where a record can be written (R412). -/
def containLaunches (s : State) : State := if s.contained then endLaunches s (fun _ => true) 4 else s

/-! ### Spare-die substitution (R395) -/

/-- SPARE_DIE_SUBSTITUTION (R395): the die's teams give way and dispatch to it stops; refused while one runs, or once the spare is
used. -/
def execSpareDieSubstitution (die : Nat) (s : State) : Host.Outcome State Fault Refusal :=
  event s (fun s =>
    if s.contained ∨ 8 ≤ die then s
    else if s.cp.sub.isSome ∨ s.cfg.spareUsed then mmPutField s spareCtl 4 4 1
    else
      let d := drainTime s
      let s := { s with cp := { s.cp with sub := some die }
                        teams := s.teams.map (fun t =>
                          if !t.saved ∧ t.core / 96 = die ∧ t.core < 768 then
                            { t with back := true, target := some (match t.target with | some e => e | none => d) }
                          else t) }
      mmPutField s spareCtl 7 7 1)

/-- The caches of a die's cores, instruction caches among them, and its hot-page table are empty. R395 names the slice and the hot-page
table only: that the spare's other caches and TLBs hold nothing is the model's choice (R6 keeps each die's own), log entry 71. -/
def clearDie (s : State) (die : Nat) : State :=
  { s with
    caches := { s.caches with l1 := s.caches.l1.filter (fun l => l.core / 96 ≠ die)
                              icache := s.caches.icache.filter (fun l => l.core / 96 ≠ die) }
    tlb := s.tlb.filter (fun t => if t.l2 then t.place ≠ die else t.place / 96 ≠ die)
    walk := s.walk.filter (fun w => w.die ≠ die)
    yo := { s.yo with heat := s.yo.heat.filter (fun h => h.die ≠ die), sample := s.yo.sample.filter (fun x => x.1 / 96 ≠ die) } }

/-- SPARE_REMAP (R395): the die's teams are saved and its running jobs done; its slice is written back and emptied, and the index
names the spare. Queued jobs and bank memory go by the index. -/
def execSpareRemap (s : State) : Host.Outcome State Fault Refusal :=
  event s (fun s =>
    match s.cp.sub with
    | none => s
    | some die =>
      if s.teams.any (fun t => decide (t.core < 768) && t.core / 96 == die) ∨ !(runningJobs s die).isEmpty then s
      else
        let s := (s.caches.jigsaw.filter (fun l => l.home == die)).foldl jgEvict s
        let s := clearDie s die
        let s := { s with cp := { s.cp with sub := none }
                          cfg := { s.cfg with dieMap := s.cfg.dieMap.set die s.cfg.spare, spareUsed := true
                                              retired := s.cfg.retired.set die 0 } }
        let s := mmPut (mmPut s (retiredReg die) 0) (retiredReg die + 8) 0
        mmPutField (mmPutField (mmPutField s spareCtl 7 7 0) spareCtl 6 6 1) spareCtl 5 5 1)

/-! ### Urgency (R389) -/

/-- The slowest gang of a team on a pipe: the fewest issues since the last barrier phase, the lowest number on ties. -/
def slowest (gs : List Gang) : Option Gang :=
  match gs with
  | [] => none
  | g :: rest => some (rest.foldl (fun (b g : Gang) =>
      if g.issued < b.issued ∨ (g.issued = b.issued ∧ g.gangNo < b.gangNo) then g else b) g)

/-- The gangs of a core that its pipes mark. -/
def urgentGangs (s : State) (core : Nat) : List Nat :=
  let gs := (gangsOf s).filter (fun g => g.core == core && !g.exited)
  (List.range 4).flatMap (fun p => (residents s core).filterMap (fun t =>
    (slowest (gs.filter (fun g => g.pipe == p && g.team == t.id))).map (fun g => g.id)))

/-- URGENCY_MARK (R389): 256 cc have passed since a core's last marks. It changes timing only. -/
def execUrgencyMark (core : Nat) (s : State) : Host.Outcome State Fault Refusal :=
  event s (fun s =>
    if s.cc < smapGet 0 s.cp.marked core + 256 then s
    else
      let ids := urgentGangs s core
      let s := mapGangs s (fun g => if g.core = core then { g with urgent := ids.contains g.id } else g)
      { s with cp := { s.cp with marked := smapSet 0 s.cp.marked core s.cc } })

end Sys2Proof.Machine
end

