-- ==== Sys2Proof/Machine/Fetch.lean ====
section
/-! DEFINITION. Fetching a group and its checks before its instruction issues (R16, R33, R40 to R42, R47, R104 to R107,
R414, R423). -/

namespace Sys2Proof.Machine

/-! ### Reading instruction words -/

/-- The translation of a fetch: canonical form and the aperture area first (R85, R86, R104), then the tables. -/
def fetchXlat (s : State) (va : Nat) : Xlat :=
  if !canonical va then ⟨some (causeProtection, 0x0B), 0, 0, 0, none⟩
  else if inArea (apCtx s) va then ⟨some (causeProtection, 0x0D), 0, 0, 0, none⟩
  else xlate s (armAgent s) va .fetch (pickCached s 125)

/-- One word of instruction memory as the executing arm fetches it, or the fault, raised with the arm's whole mask (R107,
R414, R417). A miss of the instruction cache is a demand access that the core sends to global memory (R119). -/
def fetchWord (s : State) (va : DWord) : Except (Trap × State) (Word × State) :=
  let a := va.toNat
  let x := fetchXlat s a
  match x.fault with
  | some (c, r) => .error (armTrap s.gang c r a .fetch, xlFaulted s (s.gang.core / 96) x)
  | none =>
    let s := captureTouch (xlCommit s (armAgent s) a .fetch x) s.gang.launch false x.pa a
    let s := if icMisses s s.gang.core x.pa then sampleHeat s s.gang.core s.gang.ctx a 1 else s
    let s := icacheFetch s s.gang.core x.pa
    let w := icacheBytes s s.gang.core x.pa 4
    if w.2 then .error (plainTrap s.gang causePoison 4 a, consumePoison s (portRoute s x.pa / 64 * 64))
    else .ok (BitVec.ofNat 32 (leNat w.1), s)

/-- A prefix group, or one instruction (R33): its prefix words with their addresses, and its instruction. -/
structure Group where
  prefixes : List (DWord × Word)
  at_ : DWord
  w0 : Word
  w1 : Word
  deriving DecidableEq, Repr

/-- Fetch a group's words from an address (R16, R33). The fuel exceeds the words of the address space. -/
def fetchGroup : Nat → State → DWord → List (DWord × Word) → Except (Trap × State) (Group × State)
  | 0, s, va, ps => .ok (⟨ps, va, 0, 0⟩, s)
  | n + 1, s, va, ps =>
    match fetchWord s va with
    | .error e => .error e
    | .ok (w, s) =>
      if wordKind w = 2 then fetchGroup n s (va + 4) (ps ++ [(va, w)])
      else if wordCount w = 1 then .ok (⟨ps, va, w, 0⟩, s)
      else
        match fetchWord s (va + 4) with
        | .error e => .error e
        | .ok (w1, s) => .ok (⟨ps, va, w, w1⟩, s)

/-- Fuel for any group. -/
def groupFuel : Nat := 2 ^ 60

/-! ### The checks of R42 before the instruction -/

/-- The first word that item 2 of R42 refuses: a prefix whose own fields are wrong, or an unassigned instruction. -/
def offendingWord (p : Group) : Option DWord :=
  match p.prefixes.find? (fun e => match decodePre e.2 with | .ok i => !instrWf i | .error _ => true) with
  | some e => some e.1
  | none =>
    match decodeFields p.w0 p.w1 with
    | .error e => if unassignedError e then some p.at_ else none
    | .ok _ => none

/-- The instructions of a group's prefixes. -/
def prefixInstrs (p : Group) : List Instr :=
  p.prefixes.filterMap (fun e => match decodePre e.2 with | .ok i => some i | .error _ => none)

/-- Whether the group's instruction takes a prefix (R35, R37, R39). -/
def takesPrefix (p : Group) (i : Instr) : Bool :=
  let x : BitVec 64 := p.w1 ++ p.w0
  match i with
  | .pr _ xo fzr fzo sat rm => prLegal x xo fzr fzo sat rm
  | .pn sc sb sa sd cnt => pnTaker x && pnLegal x sc sb sa sd cnt
  | _ => false

/-- How many PR words a group has. -/
def prCount (is : List Instr) : Nat := (is.filter (fun i => match i with | .pr _ _ _ _ _ _ => true | _ => false)).length

/-- IllegalPrefix (R33, R40): two prefixes of a kind, more than two, or one that the instruction does not take. -/
def prefixIllegal (p : Group) : Bool :=
  let is := prefixInstrs p
  decide (1 < prCount is) || decide (1 < is.length - prCount is) || is.any (fun i => !takesPrefix p i)

/-- What a fetched group comes to before its instruction issues: a trap of items 2 to 4 of R42, or the instruction. -/
def groupInstr (s : State) (p : Group) : Except Trap Instr :=
  match offendingWord p with
  | some a => .error (plainTrap s.gang causeIllegal 0 a.toNat)
  | none =>
    if prefixIllegal p then .error (plainTrap s.gang causePrefix 0 s.gang.arm.pc.toNat)
    else match decodeWords p.w0 p.w1 with
      | .ok i => .ok i
      | .error _ => .error (plainTrap s.gang causeIllegal 0 p.at_.toNat)

/-! ### Breakpoints (R423) -/

/-- An enabled breakpoint at the executing arm's group. -/
def atBreakpoint (s : State) : Bool :=
  match debugBlock s s.gang.ctx with
  | none => false
  | some k => (List.range 4).any (fun n =>
      let r := mmGet s (dbgBlock k + 0x28 + 8 * n)
      bitField r 0 0 == 1 && bitField r 56 2 == s.gang.arm.pc.toNat % 2 ^ 57 / 4)

/-- The arm stops before its group: at a breakpoint, unless it resumes from a stop or is between repetitions. -/
def stopsBefore (s : State) : Bool := !s.gang.arm.skipStop && s.gang.arm.rep == 0 && atBreakpoint s

/-- BREAKPOINT_STOP (R423): arm `slot` of gang `g` stands at an enabled breakpoint and halts there. -/
def execBreakpointStop (g slot : Nat) (s : State) : Host.Outcome State Fault Refusal :=
  event s (fun s0 =>
    let s := focusOn s0 g slot
    if s.live ∧ s.gang.id = g ∧ s.gang.arm.slot = slot ∧ !s.gang.arm.halted ∧ stopsBefore s then preciseStop s true else s)

/-- UNASSIGNED_ENCODING (R47): the executing arm has reached a word that no instruction has. -/
def execUnassignedEncoding (at_ : BitVec 64) (s : State) : Host.Outcome State Fault Refusal :=
  if !s.live then .next s else .next (stepDone (trapEntry s (plainTrap s.gang causeIllegal 0 at_.toNat) s.gang.arm.pc))

end Sys2Proof.Machine
end

