-- ==== Sys2Proof/Machine/Mgmt.lean ====
section
/-! DEFINITION. The management controller and the host's accesses: resets, the configuration record, ageing, attestation, time,
power, and BAR0 and BAR2 accesses (R10, R75, R77, R335, R431 to R444). -/

namespace Sys2Proof.Machine

/-! ### The configuration record (R436, R437) -/

/-- A vendor part that waits takes effect: every field is read from its bytes, its last 2,820 being the signature over the others (log
entry 6), and the ageing part is reset (R437, R438, R440). -/
def vendorTaken (c : Cfg) (bs : List Byte) : Cfg :=
  let f := Config.vendorField bs
  let map := (List.range 8).map (fun d => f (32 + d) % 9)
  { version := f 0 % 2 ^ 32
    minVersion := c.minVersion
    vendorOk := Config.xmssVerify (bs.take (bs.length - 2820)) (bs.drop (bs.length - 2820))
    ageOk := true
    cores := (List.range 9).map (fun d => f (16 + d) % 2 ^ 96)
    dieMap := map
    spare := f 13 % 9
    spareUsed := f 12 % 2 == 1
    failed := ((List.range 256).filter (fun n => f (64 + n) % 2 == 1)).map (fun n => (n / 32, n % 32))
    lpddr := f 2 % 2 == 1
    lpddrSub := 13 + f 14 % 16
    lpddrBank := 13 + f 15 % 16
    ckptPort := if f 3 % 2 = 1 then some (f 4 % 8) else none
    ckptBase := f 5
    ckptSize := f 6
    flDevId := f 7 % 2 ^ 12
    flEn := f 8 % 2 == 1
    auto := f 9 % 2 == 1
    partMap := (List.range 64).map (fun n => ((n / 8 + 1, n % 8), f (512 + n) % 2 ^ 96))
    rev := f 10 % 256
    pwrMax := Min.min 3000 (f 11)
    voltMin := Max.max 360 (f 26)
    voltMax := Min.min 520 (f 27)
    volt := (List.range 8).map (fun d => f (40 + d) % 33)
    retired := List.replicate 8 0
    ageSeq := c.lastSeq
    lastSeq := c.lastSeq
    flashVolt := (List.range 8).map (fun d => f (40 + d) % 33)
    flashRetired := List.replicate 8 0
    flashMap := map
    flashSpareUsed := f 12 % 2 == 1
    leaf := c.leaf
    ageSig := []
    pendingVendor := none }

/-- The record at cold reset: a waiting vendor part first, and both parts as the flash holds them. -/
def loadRecord (c : Cfg) : Cfg :=
  match c.pendingVendor with
  | some bs => vendorTaken c bs
  | none => { c with volt := c.flashVolt, retired := c.flashRetired, dieMap := c.flashMap, spareUsed := c.flashSpareUsed }

/-- The vendor part verifies (R437). -/
def vendorGood (c : Cfg) : Bool := c.vendorOk && decide (c.minVersion ≤ c.version)

/-- The ageing part verifies (R437). -/
def ageingGood (c : Cfg) : Bool := c.ageOk && decide (c.lastSeq ≤ c.ageSeq)

/-- The checks of the record: the minimum version rises, and a bad ageing part is discarded: until one is signed anew the flash holds none
that verifies. -/
def checkRecord (c : Cfg) : Cfg :=
  let c := if vendorGood c then { c with minVersion := c.version } else c
  if ageingGood c then { c with lastSeq := c.ageSeq }
  else { c with volt := List.replicate 8 32, retired := List.replicate 8 0, flashVolt := List.replicate 8 32,
                flashRetired := List.replicate 8 0, ageOk := false, ageSeq := c.lastSeq, ageSig := [] }

/-- DEGR of the channels of failed channels' groups, and FAILED (R82). -/
def failedRegs (failed : List (Nat × Nat)) (m : List (Nat × DWord)) : List (Nat × DWord) :=
  failed.foldl (fun m (kc : Nat × Nat) =>
    (List.range 8).foldl (fun m i =>
      let ch := 8 * (kc.2 / 8) + i
      let off := mcChStat kc.1 ch
      smapSet (regReset off) m off (smapGet (regReset off) m off ||| (if ch = kc.2 then 3 else 2))) m) m

/-- The registers that reset to a value of the record (R436); every other register stands at its own reset value. -/
def recordRegs (c : Cfg) : List (Nat × DWord) :=
  let put (m : List (Nat × DWord)) (off v : Nat) : List (Nat × DWord) := smapSet (regReset off) m off (BitVec.ofNat 64 v)
  let flag (b : Bool) : Nat := if b then 1 else 0
  let m := put [] 0 ((regReset 0).toNat + c.rev * 2 ^ 24)
  let m := put m yoCtl ((regReset yoCtl).toNat + flag c.auto)
  let m := put m flCtl ((regReset flCtl).toNat + flag c.flEn)
  let m := put m flDevId c.flDevId
  let m := put m spareCtl (64 * flag c.spareUsed)
  let m := put m cfgVer (c.version % 2 ^ 32 + c.ageSeq % 2 ^ 32 * 2 ^ 32)
  let m := put m pwrLim c.pwrMax
  let m := (List.range 8).foldl (fun m d =>
    let r := c.retired.getD d 0
    put (put (put m (vDie d) (c.volt.getD d 0)) (retiredReg d) (r % 2 ^ 64)) (retiredReg d + 8) (r / 2 ^ 64)) m
  c.partMap.foldl (fun m (e : (Nat × Nat) × Nat) =>
    put (put m (partMap e.1.1 e.1.2) (e.2 % 2 ^ 64)) (partMap e.1.1 e.1.2 + 8) (e.2 / 2 ^ 64)) m

/-! ### Resets -/

/-- Cold reset: the record is read and verified, everything but the record, the outside world and what non-volatile memory holds
starts anew; the fill of R77 starts unless the device is held. -/
def coldReset (s : State) : State :=
  let c0 := loadRecord s.cfg
  let c := checkRecord c0
  let held := !vendorGood c0
  let z := State.reset
  let t :=
    { z with
      tick := s.tick, inputs := s.inputs, serial := s.serial, msix := s.msix, errMsgs := s.errMsgs
      mem := { z.mem with main := s.mem.main, poison := s.mem.poison, host := s.mem.host }
      cfg := c
      mmio := failedRegs c.failed (recordRegs c)
      dram := { z.dram with failed := c.failed }
      mgmt := { z.mgmt with held := held } }
  mmPutField (mmPutField t mgmtStat 0 0 (if held then 1 else 0)) ageStat 0 0 (if ageingGood c0 then 0 else 1)

/-- COLD_RESET (R437). -/
def execColdReset (s : State) : Host.Outcome State Fault Refusal := event s coldReset

/-- The fill of R77 has finished. -/
def memoryReady (s : State) : State :=
  if s.mgmt.held ∨ s.dram.ready ∨ s.yo.ckpt.isSome then s
  else reportReady (zeroFill s)

/-- MEMORY_READY (R77). -/
def execMemoryReady (s : State) : Host.Outcome State Fault Refusal := event s memoryReady

/-- What a warm reset keeps of the registers (R82, R412, R443): the first fatal error, the failed channels, the ports' state, the units
in retention and whether memory is ready, beside the record's values. -/
def warmRegs (s : State) : List (Nat × DWord) :=
  let keep (m : List (Nat × DWord)) (off mask : Nat) : List (Nat × DWord) :=
    let v := smapGet (regReset off) m off
    smapSet (regReset off) m off (v ||| (BitVec.ofNat 64 (mmGet s off) &&& BitVec.ofNat 64 mask))
  let m := recordRegs s.cfg
  let m := (List.range 4).foldl (fun m i => keep m (errFatal + 8 * i) (2 ^ 64 - 1)) m
  let m := (List.range 256).foldl (fun m n => keep m (mcChStat (n / 32) (n % 32)) 3) m
  let m := (List.range 8).foldl (fun m p => keep m (cxlpStat p) 15) m
  let m := (List.range 8).foldl (fun m d => keep (keep m (bkBlock d + 8) (2 ^ 64 - 1)) (bkBlock d + 0x10) (2 ^ 64 - 1)) m
  keep m mgmtStat 3

/-- Warm reset: memory, TIME, the refresh epochs, the sample counters and the heat tables stay; every dirty and parity line is
written back first, and the next epoch ends at a multiple of the period that the reset leaves (R68, R72, R77, R119, R120, R441). -/
def warmReset (s : State) : State :=
  let s := flushParity (jgFlush s)
  let z := State.reset
  let t : State := { z with
    tick := s.tick, cc := s.cc, time := s.time, inputs := s.inputs, serial := s.serial, msix := s.msix, errMsgs := s.errMsgs
    mem := s.mem
    cfg := s.cfg
    mmio := warmRegs s
    dram := { s.dram with reserves := [], parityQ := [], writeQ := [], draining := [] }
    tagNext := s.tagNext
    yo := { s.yo with plcQ := [], ckpt := none, moves := s.yo.moves.map (fun m => { m with pinWait := [] }) }
    caches := { z.caches with stamps := s.caches.stamps }
    banks := { s.banks with waits := [] }
    jobs := { z.jobs with next := s.jobs.next }
    cp := { z.cp with turn := s.cp.turn }
    mgmt := { s.mgmt with nonce := none } }
  onYo t (fun y => { y with nextEpoch := epochAfter t })

/-- WARM_RESET (R72, R77, R437). -/
def execWarmReset (s : State) : Host.Outcome State Fault Refusal := event s warmReset

/-- VENDOR_PART_WRITE (R437): a new vendor part waits for the next cold reset. -/
def execVendorPartWrite (data : List Byte) (s : State) : Host.Outcome State Fault Refusal :=
  event s (fun s => { s with cfg := { s.cfg with pendingVendor := some data } })

/-! ### Ageing (R440) -/

/-- MV of the highest voltage of a die: 520 mV, or the record's limit where that is lower (R436, R440; log entry 6). -/
def mvTop (c : Cfg) : Nat := (Min.min 520 c.voltMax - 360) / 5

/-- Raise a die's voltage while a core fails and the limit is not met: the MV in the end, and the cores that still fail. -/
def raiseVolt (tick d enabled top : Nat) : Nat → Nat → Nat × Nat
  | 0, v => (v, Config.marginFails tick d v &&& enabled)
  | n + 1, v =>
    let f := Config.marginFails tick d v &&& enabled
    if f = 0 ∨ top ≤ v then (v, f) else raiseVolt tick d enabled top n (v + 1)

/-- Cores of a die index in service, a bit a core. -/
def inService (c : Cfg) (d : Nat) : Nat :=
  let r := c.retired.getD d 0
  c.cores.getD (c.dieMap.getD d 9) 0 &&& (2 ^ 96 - 1 - r % 2 ^ 96)

/-- How many of a die's cores are retired. -/
def retiredCount (r : Nat) : Nat := ((List.range 96).filter (fun i => r.testBit i)).length

/-- The bytes of the ageing part, in the model's own layout (R436; log entry 6). -/
def ageBytes (volt retired : List Nat) (seq : Nat) : List Byte :=
  volt.flatMap (leBytes 1) ++ retired.flatMap (leBytes 12) ++ leBytes 8 seq

/-- A signature of 2,820 bytes under a leaf (R438). -/
def signature (leaf : Nat) (m : List Byte) : List Byte := (List.range 2820).map (Config.xmssSign leaf m)

/-- The ageing part is written with sequence + 1 and signed under the next leaf, which is spent first, while leaves remain (R438). -/
def signAgeing (c : Cfg) : Cfg :=
  if 2 ^ 20 ≤ c.leaf then c
  else { c with ageSeq := c.ageSeq + 1, lastSeq := c.ageSeq + 1, leaf := c.leaf + 1, flashVolt := c.volt, flashRetired := c.retired,
                ageOk := true, ageSig := signature c.leaf (ageBytes c.volt c.retired (c.ageSeq + 1)) }

/-- The plan of one die: where anything of it changed, the ageing part is written and signed (R440). -/
def planDie (s : State) (d : Nat) : State :=
  let v0 := s.cfg.volt.getD d 0
  let (v, f) := raiseVolt s.tick d (inService s.cfg d) (mvTop s.cfg) 32 v0
  let r := s.cfg.retired.getD d 0 ||| f
  let s := giveWay s (fun t => t.core / 96 == d && decide (t.core < 768) && f.testBit (t.core % 96))
  let c : Cfg := { s.cfg with volt := s.cfg.volt.set d v, retired := s.cfg.retired.set d r }
  let s := { s with cfg := if c.volt = s.cfg.volt ∧ c.retired = s.cfg.retired then c else signAgeing c }
  let s := mmPut (mmPut (mmPut s (vDie d) v) (retiredReg d) (r % 2 ^ 64)) (retiredReg d + 8) (r / 2 ^ 64)
  if 8 ≤ retiredCount r ∧ !s.cfg.spareUsed then mmPutField s mgmtStat 2 2 1 else s

/-- 24 hours of TIME. -/
def planPeriod : Nat := 86400000000000

/-- The margin plan, once due. -/
def marginPlan (s : State) : State :=
  if s.mgmt.held ∨ s.time < s.mgmt.nextPlan then s
  else
    let s := (List.range 8).foldl planDie s
    let s := mmPutField s cfgVer 63 32 s.cfg.ageSeq
    { s with mgmt := { s.mgmt with nextPlan := (s.time / planPeriod + 1) * planPeriod } }

/-- MARGIN_PLAN (R440). -/
def execMarginPlan (s : State) : Host.Outcome State Fault Refusal := event s marginPlan

/-! ### Attestation (R439) -/

/-- GO: the nonce is read from the buffer that ATTBASE names, to which the report goes; ignored while a report is under way. -/
def attestStart (s : State) : State :=
  if s.mgmt.nonce.isSome then s
  else mmPutField { s with mgmt := { s.mgmt with nonce := some (hostRead s (mmGet s attBase) 32), attBuf := mmGet s attBase } } attReq 0 0 1

/-- ATTESTATION (R439): system software writes GO. -/
def execAttestation (s : State) : Host.Outcome State Fault Refusal :=
  event s (fun s => if s.contained ∨ s.mgmt.held then s else attestStart s)

/-- The vendor part, in the model's own layout (R436; log entry 6). -/
def vendorBytes (c : Cfg) : List Byte :=
  let b (x : Bool) : Nat := if x then 1 else 0
  leBytes 4 c.version ++ c.cores.flatMap (leBytes 12) ++ c.dieMap.flatMap (leBytes 1) ++ leBytes 1 c.spare ++ leBytes 1 (b c.spareUsed) ++
    c.failed.flatMap (fun f => leBytes 1 f.1 ++ leBytes 1 f.2) ++ leBytes 1 (b c.lpddr) ++ leBytes 1 c.lpddrSub ++ leBytes 1 c.lpddrBank ++
    (match c.ckptPort with | some p => leBytes 1 (p + 1) | none => leBytes 1 0) ++ leBytes 8 c.ckptBase ++ leBytes 8 c.ckptSize ++
    leBytes 2 c.flDevId ++ leBytes 1 (b c.flEn) ++ leBytes 1 (b c.auto) ++ c.partMap.flatMap (fun e => leBytes 1 e.1.1 ++ leBytes 1 e.1.2 ++ leBytes 12 e.2) ++
    leBytes 1 c.rev ++ leBytes 2 c.pwrMax ++ leBytes 2 c.voltMin ++ leBytes 2 c.voltMax

/-- A SHAKE256 digest of 32 bytes. -/
def digest32 (m : List Byte) : List Byte := (List.range 32).map (Config.digest m)

/-- Bytes 0 to 115 of the report. -/
def attestBody (s : State) (nonce : List Byte) : List Byte :=
  nonce ++ digest32 Config.firmware ++
    digest32 (vendorBytes s.cfg ++ ageBytes s.cfg.flashVolt s.cfg.flashRetired s.cfg.ageSeq ++ s.cfg.ageSig) ++
    leBytes 4 s.cfg.version ++ leBytes 4 s.cfg.ageSeq ++ leBytes 8 s.time ++ leBytes 4 s.cfg.leaf

/-- The report: its bytes 0 to 115, and the signature over them under the leaf that it names (R438). -/
def attestBytes (s : State) (nonce : List Byte) : List Byte := attestBody s nonce ++ signature s.cfg.leaf (attestBody s nonce)

/-- The report of a nonce is written, and its status. -/
def attestEnd (s : State) (nonce : List Byte) : State :=
  let done (s : State) (st : Nat) : State :=
    let s := { s with mgmt := { s.mgmt with nonce := none } }
    mmPutField (mmPutField (mmPutField s attReq 0 0 0) attReq 1 1 1) attReq 3 2 st
  if 2 ^ 20 ≤ s.cfg.leaf then done s 3
  else
    let bs := attestBytes s nonce
    let t := { s with cfg := { s.cfg with leaf := s.cfg.leaf + 1 } }
    if s.contained then done t 2 else done (hostWrite t t.mgmt.attBuf bs) 0

/-- ATTESTATION_REPORT (R438, R439). -/
def execAttestationReport (s : State) : Host.Outcome State Fault Refusal :=
  event s (fun s => match s.mgmt.nonce with | some n => attestEnd s n | none => s)

/-! ### Time, power and temperature (R441, R442) -/

/-- TIME takes a greater value only. -/
def adjustTime (s : State) (v : Nat) : State := if s.time < v then { s with time := v } else s

/-- TIMEADJ (R441). -/
def execTimeadj (v : BitVec 64) (s : State) : Host.Outcome State Fault Refusal :=
  event s (fun s => if s.contained ∨ s.mgmt.held then s else adjustTime s v.toNat)

/-- POWER_THROTTLE (R442): a new 1 ms average of the power, a free value; throttling changes timing only. -/
def execPowerThrottle (s : State) : Host.Outcome State Fault Refusal :=
  event s (fun s => mmPutField { s with serial := s.serial + 1 } pwrNow 11 0 (Config.freeWord s.serial).toNat)

/-- THERMAL_TRIP (R442): fatal. -/
def execThermalTrip (s : State) : Host.Outcome State Fault Refusal :=
  event s (fun s => fatalError s ⟨0, noOwner, 8, 0, 2, 9, 0⟩)

/-! ### Host accesses (R431) -/

/-- An access that completes as Unsupported Request: logged as class 1, kind 4. -/
def unsupported (s : State) (a : Nat) : State := logError s ⟨a, noOwner, 8, 0, 1, 4, 0⟩

/-- UNSUPPORTED_REQUEST (R431). -/
def execUnsupportedRequest (addr : BitVec 64) (s : State) : Host.Outcome State Fault Refusal :=
  event s (fun s => unsupported s addr.toNat)

/-- Bytes written through BAR2, line by line, as the host-link agent writes them (R335). -/
def bar2Write (s : State) (pa : Nat) (data : List Byte) : State :=
  (spanChunks 0 ⟨0, pa, data.length⟩).foldl (fun s c => homeWrite s hostNo c.a ((data.drop c.off).take c.n)) s

/-- The host reads some bytes. -/
def hostTakes (s : State) (bs : List Byte) : State := { s with mgmt := { s.mgmt with hostData := bs } }

/-- Lines read through BAR2, by the same agent; their bytes go to the host. -/
def bar2Read (s : State) (pa n : Nat) : State :=
  (spanChunks 0 ⟨0, pa, n⟩).foldl (fun s c =>
    let s := homeRead s hostNo c.a c.n true false
    hostTakes s (s.mgmt.hostData ++ physBytes s c.a c.n)) (hostTakes s [])

/-- Where BAR2 leads (R431, R443). -/
def bar2Pa (s : State) (addr : Nat) : Nat := mmField s hostWin 51 36 * 2 ^ 36 + addr % 2 ^ 36

/-- BAR2_ACCESS (R335, R431): `data` gives the bytes written, or the size of a read. -/
def execBar2Access (write : Bool) (addr : BitVec 64) (data : List Byte) (s : State) : Host.Outcome State Fault Refusal :=
  event s (bounded hostNo (fun s =>
    let pa := bar2Pa s addr.toNat
    if s.contained ∨ s.mgmt.held then s
    else if write then bar2Write s pa data else bar2Read s pa data.length))

/-! ### Register writes (R10, R431, R432) -/

/-- The written value of a field that a masked write covers, 0 elsewhere (R431). -/
def regArg (v m : Nat) (hi lo : Nat) : Nat := bitField (v &&& m) hi lo

/-- FQREPLY (R110, R112). -/
def writeFqreply (s : State) (v m : Nat) : State :=
  if m % 2 = 0 then s
  else match regArg v m 1 0 with
    | 0 => replyRetry s (regArg v m 63 32)
    | 1 => replyKill s (regArg v m 63 32)
    | _ => s

/-- TLBICMD (R117): the other fields stand in the register. -/
def writeTlbicmd (s : State) (v m : Nat) : State :=
  if regArg v m 0 0 = 0 ∨ s.inval.isSome then s
  else
    let ctx := mmField s tlbiCmd 63 48
    match mmField s tlbiCmd 2 1 with
    | 0 => tlbiStart s (.pages ctx (mmField s tlbiVa 56 12) (mmField s tlbiCmd 27 8 + 1))
    | 1 => tlbiStart s (.context ctx)
    | 2 => tlbiStart s .all
    | _ => mmPutField (mmPutField s tlbiCmd 0 0 0) tlbiStat 0 0 1

/-- A decoder's register (R80): while it is committed, only COMMIT := 0 acts. -/
def writeHdm (s : State) (off : Nat) (v m : Nat) : State :=
  let k := (off - hdmBlock 0) / 0x20
  let ctl := hdmBlock k + 16
  if mmField s ctl 0 0 = 1 then
    (if off = ctl ∧ m % 2 = 1 ∧ v % 2 = 0 then mmPutField s ctl 0 0 0 else s)
  else
    let s := mmPut s off (regWritten off (BitVec.ofNat 64 (mmGet s off)) (BitVec.ofNat 64 v) (BitVec.ofNat 64 m)).toNat
    if off = ctl ∧ regArg v m 0 0 = 1 then hdmCommit (mmPutField s ctl 0 0 0) k else s

/-- DBGCMD (R425, R430): the commands go on in the debugger's own events; another value is refused. -/
def writeDbgcmd (s : State) (k : Nat) (v m : Nat) : Host.Outcome State Fault Refusal :=
  if m % 2 = 0 then .next s
  else match regArg v m 3 0 with
    | 1 => execDbgcmdHalt k s
    | 2 => execDbgcmdResume k s
    | 3 => execDbgcmdRead k s
    | 4 => execDbgcmdWrite k s
    | 5 => execDbgcmdStep k s
    | 6 => execDbgcmdClear k s
    | _ => .next (dbgCommand s k (fun s => dbgRefuse s k))

/-- A vector that is unmasked sends its pending message (R444). -/
def sendPending (s : State) (v : Nat) : State :=
  if mmField s (msixTable + 16 * v + 8) 32 32 = 0 ∧ mmField s msixPba v v = 1 then
    mmPutField { s with msix := s.msix ++ [v] } msixPba v v 0
  else s

/-- Go on from an event's state. -/
def nextOf (x : Host.Outcome State Fault Refusal) (s : State) : State := match x with | .next t => t | _ => s

/-- What a write starts beside what it stores (R431); `old` is the state before the write. -/
def writeAction (old s : State) (off v m : Nat) : State :=
  if 0x10000 ≤ off ∧ off < 0x18000 ∧ off % 0x1000 < 0x100 then
    (if regArg v m 0 0 = 1 then nextOf (execFailed ((off - 0x10000) / 0x1000) (off % 0x1000 / 8) s) s else s)
  else if off = fqReply then writeFqreply s v m
  else if off = tlbiCmd then writeTlbicmd (mmPutField s tlbiCmd 0 0 (mmField old tlbiCmd 0 0)) v m
  else if off = yoCtl then
    (let s := mmPutField s yoCtl 2 2 0
     let s := if mmField s yoCtl 39 32 = mmField old yoCtl 39 32 then s else onYo s (fun y => { y with nextEpoch := epochAfter s })
     if regArg v m 2 2 = 1 then cancelMoves s (fun _ => true) 5 else s)
  else if off = yoCkpt then
    (match regArg v m 1 0 with
     | 1 => nextOf (execCheckpoint s) s
     | 2 => nextOf (execRestore s) s
     | _ => s)
  else if 0x50000 ≤ off ∧ off < 0x50800 ∧ off % 0x100 = 0 then nextOf (execBkret ((off - 0x50000) / 0x100) s) s
  else if 0x70000 ≤ off ∧ off < 0x70800 ∧ off % 0x100 = 8 then
    (if m % 2 = 1 ∧ regArg v m 6 0 < 96 then mxReset s ((off - 0x70000) / 0x100 * 96 + regArg v m 6 0) 2 else s)
  else if off = preCmd then
    (if regArg v m 6 6 = 1 then giveWay s (fun t => t.queue == regArg v m 5 0) else s)
  else if off = spareCtl then
    (if regArg v m 3 3 = 1 then nextOf (execSpareDieSubstitution (mmField s spareCtl 2 0) (mmPutField s spareCtl 3 3 0)) s else s)
  else if off = tdCmd then
    (if regArg v m 16 16 = 1 then nextOf (execContextTeardown (regArg v m 15 0) s) s else s)
  else if 0x110400 ≤ off ∧ off < 0x110600 ∧ off % 0x80 = 8 then
    nextOf (writeDbgcmd s ((off - 0x110400) / 0x80) v m) s
  else if off = timeAdj then adjustTime s (v &&& m)
  else if off = attReq then
    (if regArg v m 0 0 = 1 then attestStart (mmPutField s attReq 0 0 (mmField old attReq 0 0)) else s)
  else if 0x140000 ≤ off ∧ off < 0x140400 ∧ off % 16 = 8 then sendPending s ((off - 0x140000) / 16)
  else s

/-- The right that a write of DBGCTL takes away ends first (R426). -/
def revokeFirst (s : State) (off v m : Nat) : State :=
  if 0x110400 ≤ off ∧ off < 0x110600 ∧ off % 0x80 = 0 then
    let k := (off - 0x110400) / 0x80
    let new := (regWritten off (BitVec.ofNat 64 (mmGet s off)) (BitVec.ofNat 64 v) (BitVec.ofNat 64 m)).toNat
    if dbgRight s k && (bitField new 16 16 == 0 || bitField new 15 0 != dbgCtx s k) then revokeBlock s k else s
  else s

/-- A write of the bits `m` of the register at `off` (R10, R431). -/
def regWrite (s : State) (off v m : Nat) : State :=
  if !(regInfo off).present then s
  else if hdmBlock 0 ≤ off ∧ off < hdmBlock 8 then writeHdm s off v m
  else
    let s := revokeFirst s off v m
    let t := mmPut s off (regWritten off (BitVec.ofNat 64 (mmGet s off)) (BitVec.ofNat 64 v) (BitVec.ofNat 64 m)).toNat
    writeAction s t off v m

/-- REGISTER_WRITE (R10, R431): 8 bytes, or 4 bytes that act on the half they cover; another alignment is an Unsupported Request. -/
def execRegisterWrite (wide : Bool) (off : Nat) (v : BitVec 64) (s : State) : Host.Outcome State Fault Refusal :=
  event s (fun s =>
    if s.contained then s
    else if off % (if wide then 8 else 4) ≠ 0 then unsupported s off
    else if s.mgmt.held then s
    else if wide then regWrite s off v.toNat (2 ^ 64 - 1)
    else if off % 8 = 0 then regWrite s off (v.toNat % 2 ^ 32) (2 ^ 32 - 1)
    else regWrite s (off - 4) (v.toNat % 2 ^ 32 * 2 ^ 32) ((2 ^ 32 - 1) * 2 ^ 32))

/-! ### Register reads (R431 to R433) -/

/-- The debts of the banks of a pseudo-channel (R84). -/
def debtWord (s : State) (pcn : Nat) : Nat :=
  (List.range 16).foldl (fun n b => n + smapGet 0 s.dram.debt (16 * pcn + b) % 16 * 16 ^ b) 0

/-- What a read of the 64-bit register at `off` returns: registers that show a unit's state are computed, write-only bits read
zero, and a held device answers in the identity area only (R10, R432, R437). -/
def regRead (s : State) (off : Nat) : Nat :=
  if s.mgmt.held ∧ 0x10000 ≤ off then 0
  else if 0x10000 ≤ off ∧ off < 0x19000 ∧ 0x300 ≤ off % 0x1000 ∧ off % 0x1000 < 0x500 then
    debtWord s (64 * ((off - 0x10000) / 0x1000) + (off % 0x1000 - 0x300) / 8)
  else if 0x60000 ≤ off ∧ off < 0x60800 ∧ off % 0x100 = 8 then
    (s.jobs.list.filter (fun j => j.die == (off - 0x60000) / 0x100 && j.st != .complete)).length
  else mmGet s off

/-- What a read through BAR0 returns: 8 bytes, or with 4 the half that they cover (R431). -/
def barRead (s : State) (wide : Bool) (off : Nat) : Nat :=
  if wide then regRead s off
  else if off % 8 = 0 then regRead s off % 2 ^ 32 else regRead s (off - 4) / 2 ^ 32

/-- A fatal error that a unit meets in its own state: the command processor's, the Yo-yo's or a job scheduler's (R411); the record's unit is
the hub, which the spec does not fix (log entry 106). -/
def meetBad (s : State) : State :=
  match s.mgmt.unitBad with
  | [] => s
  | u :: rest => fatalError { s with mgmt := { s.mgmt with unitBad := rest } } ⟨0, noOwner, 8, u, 2, 3, 0⟩

end Sys2Proof.Machine
end

