-- ==== Sys2Proof/Machine/Pair.lean ====
section
/-! DEFINITION. Pair words: two compact operations in one issue (R43 to R46). -/

namespace Sys2Proof.Machine

/-- A compact operation's result in one lane (R44), with rounding, flush and trap enables from FPC. -/
def copVal (c : FCtl) (o : Cop) (x y : Nat) : Nat × Flags :=
  match o with
  | .fadd => floatVal .fadd c .f32 x y
  | .fsub => floatVal .fsub c .f32 x y
  | .fmul => floatVal .fmul c .f32 x y
  | .fmin => floatVal .fmin c .f32 x y
  | .fmax => floatVal .fmax c .f32 x y
  | .paddF16x2 => paddVal c .f16x2 x y
  | .pmulF16x2 => pmulVal c .f16x2 x y
  | .paddBf16x2 => paddVal c .bf16x2 x y
  | .pmulBf16x2 => pmulVal c .bf16x2 x y
  | .add => (intVal .add .i32 false x y, 0)
  | .sub => (intVal .sub .i32 false x y, 0)
  | .mul => (intVal .mul .i32 false x y, 0)
  | .minI => (intVal .min .i32 false x y, 0)
  | .maxI => (intVal .max .i32 false x y, 0)
  | .minN => (intVal .min .n32 false x y, 0)
  | .maxN => (intVal .max .n32 false x y, 0)
  | .shl => (intVal .shl .b32 false x y, 0)
  | .shr => (intVal .shr .b32 false x y, 0)
  | .sra => (intVal .sra .i32 false x y, 0)
  | .and => (intVal .and .b32 false x y, 0)
  | .or => (intVal .or .b32 false x y, 0)
  | .xor => (intVal .xor .b32 false x y, 0)
  | .andn => (intVal .andn .b32 false x y, 0)
  | .mov => (x, 0)

/-- A compact operation's interval rule (R46). -/
def copShadow (o : Cop) (a b : Shadow) : Shadow :=
  match o with
  | .add => shAdd false a b
  | .sub => shSub false a b
  | .mul => shMul false a b
  | .minI => shMinI a b
  | .maxI => shMaxI a b
  | .minN => shMinN a b
  | .maxN => shMaxN a b
  | .shl => shShl a b
  | .shr => shShr a b
  | .sra => shSra a b
  | .and => shAnd a b
  | .mov => a
  | _ => Shadow.top

/-- The kind of a compact operation's B. -/
def copKindB (o : Compact) : Kind := if o.bs then .scal else .vec

/-- A compact operation's results from the registers as they stand. -/
def copResults (g : Gang) (o : Compact) : List LaneRes :=
  laneResults g .vec (fun l =>
    copVal (effCtl g) o.cop (srcNat g .vec false o.a.toNat l) (srcNat g (copKindB o) false o.b.toNat l))

/-- A compact operation's result shadow, from the shadows as they stand. -/
def copSh (g : Gang) (o : Compact) : Shadow :=
  copShadow o.cop (srcShadow g .vec o.a.toNat) (srcShadow g (copKindB o) o.b.toNat)

/-- Both operations: sources first, then FPTrap, op0's before op1's, then both writes (R46). -/
def pairBody (x y : Compact) (s : State) : Exe :=
  let g := s.gang
  let te := effTrapEn g
  let rx := copResults g x
  let ry := copResults g y
  match faulting te rx, faulting te ry with
  | [], [] =>
    .ok (s.onGang (fun h => putResults .vec false y.d.toNat ry (copSh g y) (putResults .vec false x.d.toNat rx (copSh g x) h)))
  | [], bad => .trap (fpTrapOf g .vec te bad) s
  | bad, _ => .trap (fpTrapOf g .vec te bad) s

/-- PAIR_WORD (R46). -/
def execPairWord (op0 op1 : Compact) (s : State) : Host.Outcome State Fault Refusal :=
  issue (.pairWord op0 op1) false s (fun s => pairBody op0 op1 s)

end Sys2Proof.Machine
end

