-- ==== Sys2Proof/Machine/Dispatch.lean ====
section
/-! DEFINITION. What every instruction and event does: one arm for each, calling its meaning. -/

namespace Sys2Proof.Machine

def exec (i : Instr) (s : State) : Host.Outcome State Fault Refusal :=
  match i with
  | .pr xe xo fzr fzo sat rm => Sys2Proof.Machine.execPr xe xo fzr fzo sat rm s
  | .pn sc sb sa sd cnt => Sys2Proof.Machine.execPn sc sb sa sd cnt s
  | .pairWord op0 op1 => Sys2Proof.Machine.execPairWord op0 op1 s
  | .brk n => Sys2Proof.Machine.execBrk n s
  | .trap n => Sys2Proof.Machine.execTrap n s
  | .csrr d csr => Sys2Proof.Machine.execCsrr d csr s
  | .csrw csr r => Sys2Proof.Machine.execCsrw csr r s
  | .csrs csr r => Sys2Proof.Machine.execCsrs csr r s
  | .csrc csr r => Sys2Proof.Machine.execCsrc csr r s
  | .rdtime d => Sys2Proof.Machine.execRdtime d s
  | .gwidPack d => Sys2Proof.Machine.execGwidPack d s
  | .gwidWidth d => Sys2Proof.Machine.execGwidWidth d s
  | .gwidLive d => Sys2Proof.Machine.execGwidLive d s
  | .gwidSlices d => Sys2Proof.Machine.execGwidSlices d s
  | .gwidSlot d => Sys2Proof.Machine.execGwidSlot d s
  | .vgrow nvq nsq => Sys2Proof.Machine.execVgrow nvq nsq s
  | .vshrink nvq nsq => Sys2Proof.Machine.execVshrink nvq nsq s
  | .b off => Sys2Proof.Machine.execB off s
  | .call off => Sys2Proof.Machine.execCall off s
  | .jr e => Sys2Proof.Machine.execJr e s
  | .jrL e => Sys2Proof.Machine.execJrL e s
  | .wait c k => Sys2Proof.Machine.execWait c k s
  | .waitReg c r => Sys2Proof.Machine.execWaitReg c r s
  | .cset c k => Sys2Proof.Machine.execCset c k s
  | .csetReg c r => Sys2Proof.Machine.execCsetReg c r s
  | .cget d c => Sys2Proof.Machine.execCget d c s
  | .bar n => Sys2Proof.Machine.execBar n s
  | .barTx n k => Sys2Proof.Machine.execBarTx n k s
  | .barTxReg n r => Sys2Proof.Machine.execBarTxReg n r s
  | .add sh d a b => Sys2Proof.Machine.execAdd sh d a b s
  | .sub sh d a b => Sys2Proof.Machine.execSub sh d a b s
  | .mul sh d a b => Sys2Proof.Machine.execMul sh d a b s
  | .mulh sh d a b => Sys2Proof.Machine.execMulh sh d a b s
  | .div sh d a b => Sys2Proof.Machine.execDiv sh d a b s
  | .rem sh d a b => Sys2Proof.Machine.execRem sh d a b s
  | .min sh d a b => Sys2Proof.Machine.execMin sh d a b s
  | .max sh d a b => Sys2Proof.Machine.execMax sh d a b s
  | .and sh d a b => Sys2Proof.Machine.execAnd sh d a b s
  | .or sh d a b => Sys2Proof.Machine.execOr sh d a b s
  | .xor sh d a b => Sys2Proof.Machine.execXor sh d a b s
  | .andn sh d a b => Sys2Proof.Machine.execAndn sh d a b s
  | .shl sh d a b => Sys2Proof.Machine.execShl sh d a b s
  | .shr sh d a b => Sys2Proof.Machine.execShr sh d a b s
  | .sra sh d a b => Sys2Proof.Machine.execSra sh d a b s
  | .rot sh d a b => Sys2Proof.Machine.execRot sh d a b s
  | .abs k d a => Sys2Proof.Machine.execAbs k d a s
  | .neg k d a => Sys2Proof.Machine.execNeg k d a s
  | .clz k d a => Sys2Proof.Machine.execClz k d a s
  | .ctz k d a => Sys2Proof.Machine.execCtz k d a s
  | .popc k d a => Sys2Proof.Machine.execPopc k d a s
  | .brev k d a => Sys2Proof.Machine.execBrev k d a s
  | .mov k d a => Sys2Proof.Machine.execMov k d a s
  | .movs d b => Sys2Proof.Machine.execMovs d b s
  | .extGet d a b => Sys2Proof.Machine.execExtGet d a b s
  | .extPut d a b => Sys2Proof.Machine.execExtPut d a b s
  | .iget k d a => Sys2Proof.Machine.execIget k d a s
  | .itop k d => Sys2Proof.Machine.execItop k d s
  | .vote f d a => Sys2Proof.Machine.execVote f d a s
  | .shfl f d a b => Sys2Proof.Machine.execShfl f d a b s
  | .red f d a => Sys2Proof.Machine.execRed f d a s
  | .scan f d a => Sys2Proof.Machine.execScan f d a s
  | .addImm8 k d a imm => Sys2Proof.Machine.execAddImm8 k d a imm s
  | .andImm8 k d a imm => Sys2Proof.Machine.execAndImm8 k d a imm s
  | .orImm8 k d a imm => Sys2Proof.Machine.execOrImm8 k d a imm s
  | .xorImm8 k d a imm => Sys2Proof.Machine.execXorImm8 k d a imm s
  | .shlImm k d a imm => Sys2Proof.Machine.execShlImm k d a imm s
  | .shrImm k d a imm => Sys2Proof.Machine.execShrImm k d a imm s
  | .sraImm k d a imm => Sys2Proof.Machine.execSraImm k d a imm s
  | .rotImm k d a imm => Sys2Proof.Machine.execRotImm k d a imm s
  | .minImm k d a imm => Sys2Proof.Machine.execMinImm k d a imm s
  | .maxImm k d a imm => Sys2Proof.Machine.execMaxImm k d a imm s
  | .li k d imm => Sys2Proof.Machine.execLi k d imm s
  | .shflImm d a imm => Sys2Proof.Machine.execShflImm d a imm s
  | .shflXorImm d a m => Sys2Proof.Machine.execShflXorImm d a m s
  | .widr k d imm => Sys2Proof.Machine.execWidr k d imm s
  | .rdflg k d mask => Sys2Proof.Machine.execRdflg k d mask s
  | .clflg k mask => Sys2Proof.Machine.execClflg k mask s
  | .fadd sh d a b => Sys2Proof.Machine.execFadd sh d a b s
  | .fsub sh d a b => Sys2Proof.Machine.execFsub sh d a b s
  | .fmul sh d a b => Sys2Proof.Machine.execFmul sh d a b s
  | .fmin sh d a b => Sys2Proof.Machine.execFmin sh d a b s
  | .fmax sh d a b => Sys2Proof.Machine.execFmax sh d a b s
  | .fdiv sh d a b => Sys2Proof.Machine.execFdiv sh d a b s
  | .fsqrt k d a => Sys2Proof.Machine.execFsqrt k d a s
  | .frcp k d a => Sys2Proof.Machine.execFrcp k d a s
  | .frsq k d a => Sys2Proof.Machine.execFrsq k d a s
  | .fexp2 k d a => Sys2Proof.Machine.execFexp2 k d a s
  | .flog2 k d a => Sys2Proof.Machine.execFlog2 k d a s
  | .fsin k d a => Sys2Proof.Machine.execFsin k d a s
  | .fcos k d a => Sys2Proof.Machine.execFcos k d a s
  | .ftanh k d a => Sys2Proof.Machine.execFtanh k d a s
  | .frnd k d a => Sys2Proof.Machine.execFrnd k d a s
  | .fclass k d a => Sys2Proof.Machine.execFclass k d a s
  | .ld md d ad ix dsp cn => Sys2Proof.Machine.execLd md d ad ix dsp cn s
  | .st md d ad ix dsp cn => Sys2Proof.Machine.execSt md d ad ix dsp cn s
  | .ldg md d ad ix dsp cn => Sys2Proof.Machine.execLdg md d ad ix dsp cn s
  | .stg md d ad ix dsp cn => Sys2Proof.Machine.execStg md d ad ix dsp cn s
  | .pf md ad ix dsp cn => Sys2Proof.Machine.execPf md ad ix dsp cn s
  | .liImm32 t k d imm => Sys2Proof.Machine.execLiImm32 t k d imm s
  | .addImm32 t k d a imm => Sys2Proof.Machine.execAddImm32 t k d a imm s
  | .andImm32 t k d a imm => Sys2Proof.Machine.execAndImm32 t k d a imm s
  | .orImm32 t k d a imm => Sys2Proof.Machine.execOrImm32 t k d a imm s
  | .xorImm32 t k d a imm => Sys2Proof.Machine.execXorImm32 t k d a imm s
  | .cmp c t sh d a b => Sys2Proof.Machine.execCmp c t sh d a b s
  | .fcmp c t sh d a b => Sys2Proof.Machine.execFcmp c t sh d a b s
  | .integerGroup f t sh d a b => Sys2Proof.Machine.execIntegerGroup f t sh d a b s
  | .bfx t sh d a b => Sys2Proof.Machine.execBfx t sh d a b s
  | .floatingGroup f t sh d a b => Sys2Proof.Machine.execFloatingGroup f t sh d a b s
  | .specialFunctionGroup f t k d a => Sys2Proof.Machine.execSpecialFunctionGroup f t k d a s
  | .padd t sh d a b => Sys2Proof.Machine.execPadd t sh d a b s
  | .pmul t sh d a b => Sys2Proof.Machine.execPmul t sh d a b s
  | .pfma t sh d a b c => Sys2Proof.Machine.execPfma t sh d a b c s
  | .pdot t sh d a b c => Sys2Proof.Machine.execPdot t sh d a b c s
  | .qcvt t sh d a b c => Sys2Proof.Machine.execQcvt t sh d a b c s
  | .dqcvt t sh d a b c => Sys2Proof.Machine.execDqcvt t sh d a b c s
  | .fcvt dst src sh d a c => Sys2Proof.Machine.execFcvt dst src sh d a c s
  | .fcvti dst src k d a => Sys2Proof.Machine.execFcvti dst src k d a s
  | .icvtf dst src k d a => Sys2Proof.Machine.execIcvtf dst src k d a s
  | .cvt dst src k d a => Sys2Proof.Machine.execCvt dst src k d a s
  | .ffma t sh d a b c => Sys2Proof.Machine.execFfma t sh d a b c s
  | .mad t sh d a b c => Sys2Proof.Machine.execMad t sh d a b c s
  | .clamp t sh d a b c => Sys2Proof.Machine.execClamp t sh d a b c s
  | .sel t sh d a b c => Sys2Proof.Machine.execSel t sh d a b c s
  | .bfi t sh d a b c => Sys2Proof.Machine.execBfi t sh d a b c s
  | .bc c bi a b off => Sys2Proof.Machine.execBc c bi a b off s
  | .loop c bi a b off => Sys2Proof.Machine.execLoop c bi a b off s
  | .vb c bi a b off jn => Sys2Proof.Machine.execVb c bi a b off jn s
  | .ldLong sx hn md d ad ix disp cn => Sys2Proof.Machine.execLdLong sx hn md d ad ix disp cn s
  | .stLong hn md d ad ix disp cn => Sys2Proof.Machine.execStLong hn md d ad ix disp cn s
  | .ldgLong sx hn md d ad ix disp cn => Sys2Proof.Machine.execLdgLong sx hn md d ad ix disp cn s
  | .stgLong hn md d ad ix disp cn => Sys2Proof.Machine.execStgLong hn md d ad ix disp cn s
  | .pfLong hn md ad ix disp cn => Sys2Proof.Machine.execPfLong hn md ad ix disp cn s
  | .atom f hn md d ad ix disp cn => Sys2Proof.Machine.execAtom f hn md d ad ix disp cn s
  | .batom f hn md d ad ix disp cn => Sys2Proof.Machine.execBatom f hn md d ad ix disp cn s
  | .ldSh hn md d ad ix disp cn => Sys2Proof.Machine.execLdSh hn md d ad ix disp cn s
  | .stSh hn md d ad ix disp cn => Sys2Proof.Machine.execStSh hn md d ad ix disp cn s
  | .adld hn d ad ix disp cn => Sys2Proof.Machine.execAdld hn d ad ix disp cn s
  | .adst hn d ad ix disp cn => Sys2Proof.Machine.execAdst hn d ad ix disp cn s
  | .brdoInit e ty n cn => Sys2Proof.Machine.execBrdoInit e ty n cn s
  | .brdoAdd v e k cn => Sys2Proof.Machine.execBrdoAdd v e k cn s
  | .brdoAddv v e k cn => Sys2Proof.Machine.execBrdoAddv v e k cn s
  | .brdoRd d e st cn => Sys2Proof.Machine.execBrdoRd d e st cn s
  | .barxInit e n cn => Sys2Proof.Machine.execBarxInit e n cn s
  | .barxArr d e cn => Sys2Proof.Machine.execBarxArr d e cn s
  | .barxTx e b cn => Sys2Proof.Machine.execBarxTx e b cn s
  | .barxDone e b cn => Sys2Proof.Machine.execBarxDone e b cn s
  | .barxArrtx d e b cn => Sys2Proof.Machine.execBarxArrtx d e b cn s
  | .barxRd d e cn => Sys2Proof.Machine.execBarxRd d e cn s
  | .adset aa e attr => Sys2Proof.Machine.execAdset aa e attr s
  | .adsetR aa e => Sys2Proof.Machine.execAdsetR aa e s
  | .adget f d aa => Sys2Proof.Machine.execAdget f d aa s
  | .iwdn k d b c => Sys2Proof.Machine.execIwdn k d b c s
  | .iset k d b c => Sys2Proof.Machine.execIset k d b c s
  | .tlbinvPage e n cn => Sys2Proof.Machine.execTlbinvPage e n cn s
  | .tlbinvCtx cn => Sys2Proof.Machine.execTlbinvCtx cn s
  | .tlbinvAsid e cn => Sys2Proof.Machine.execTlbinvAsid e cn s
  | .tlbinvAll cn => Sys2Proof.Machine.execTlbinvAll cn s
  | .pgmapFt e cn => Sys2Proof.Machine.execPgmapFt e cn s
  | .pgmapVa e k cn => Sys2Proof.Machine.execPgmapVa e k cn s
  | .pgqry k d e cn => Sys2Proof.Machine.execPgqry k d e cn s
  | .migTo t tier stk d e cn => Sys2Proof.Machine.execMigTo t tier stk d e cn s
  | .migFrame t f d e cn => Sys2Proof.Machine.execMigFrame t f d e cn s
  | .migCancel d e cn => Sys2Proof.Machine.execMigCancel d e cn s
  | .pin d e n cn => Sys2Proof.Machine.execPin d e n cn s
  | .unpin d e n cn => Sys2Proof.Machine.execUnpin d e n cn s
  | .hotRd d e cn => Sys2Proof.Machine.execHotRd d e cn s
  | .hotClr e cn => Sys2Proof.Machine.execHotClr e cn s
  | .plc tier stk e n cn => Sys2Proof.Machine.execPlc tier stk e n cn s
  | .plcMove tier stk e n cn => Sys2Proof.Machine.execPlcMove tier stk e n cn s
  | .treg d e id cn => Sys2Proof.Machine.execTreg d e id cn s
  | .tunreg e aa cn => Sys2Proof.Machine.execTunreg e aa cn s
  | .tld na o aa e pitch cn => Sys2Proof.Machine.execTld na o aa e pitch cn s
  | .tst wt o aa e pitch cn => Sys2Proof.Machine.execTst wt o aa e pitch cn s
  | .tpf c aa e dist mask cn => Sys2Proof.Machine.execTpf c aa e dist mask cn s
  | .thalo clamp pf o aa e hr hc pitch cn => Sys2Proof.Machine.execThalo clamp pf o aa e hr hc pitch cn s
  | .tinv discard e aa cn => Sys2Proof.Machine.execTinv discard e aa cn s
  | .tqry d aa e cn => Sys2Proof.Machine.execTqry d aa e cn s
  | .cpy bt hv d aa ab e cn => Sys2Proof.Machine.execCpy bt hv d aa ab e cn s
  | .cpyb bt hv d aa ab e cn => Sys2Proof.Machine.execCpyb bt hv d aa ab e cn s
  | .close e cn => Sys2Proof.Machine.execClose e cn s
  | .job hv d e cn => Sys2Proof.Machine.execJob hv d e cn s
  | .jst d e cn => Sys2Proof.Machine.execJst d e cn s
  | .mvn fmt fb bt hv d aa ab e cn => Sys2Proof.Machine.execMvn fmt fb bt hv d aa ab e cn s
  | .strm q aa e sx hn depth cn => Sys2Proof.Machine.execStrm q aa e sx hn depth cn s
  | .sclose q cn => Sys2Proof.Machine.execSclose q cn s
  | .obres fmt gc h d e => Sys2Proof.Machine.execObres fmt gc h d e s
  | .obrel h cn => Sys2Proof.Machine.execObrel h cn s
  | .obld len h aa e cn => Sys2Proof.Machine.execObld len h aa e cn s
  | .obldRec len h aa e cn => Sys2Proof.Machine.execObldRec len h aa e cn s
  | .mma ua ub tile hb ha e cn => Sys2Proof.Machine.execMma ua ub tile hb ha e cn s
  | .mloop ua ub tile hb ha e cn => Sys2Proof.Machine.execMloop ua ub tile hb ha e cn s
  | .acz kind tile cn => Sys2Proof.Machine.execAcz kind tile cn s
  | .aczRel tile cn => Sys2Proof.Machine.execAczRel tile cn s
  | .acld form tile e cn => Sys2Proof.Machine.execAcld form tile e cn s
  | .acst form tile e cn => Sys2Proof.Machine.execAcst form tile e cn s
  | .mstat f d cn => Sys2Proof.Machine.execMstat f d cn s
  | .put w tw aa e cn => Sys2Proof.Machine.execPut w tw aa e cn s
  | .wreg d w e cn => Sys2Proof.Machine.execWreg d w e cn s
  | .wregRel d w cn => Sys2Proof.Machine.execWregRel d w cn s
  | .wctr land d w => Sys2Proof.Machine.execWctr land d w s
  | .wwait land w e => Sys2Proof.Machine.execWwait land w e s
  | .fork e cn => Sys2Proof.Machine.execFork e cn s
  | .waitComplete g slot => Sys2Proof.Machine.execWaitComplete g slot s
  | .waiterPlaceFreed n => Sys2Proof.Machine.execWaiterPlaceFreed n s
  | .sweepComplete n => Sys2Proof.Machine.execSweepComplete n s
  | .streamRunAhead g q => Sys2Proof.Machine.execStreamRunAhead g q s
  | .jobDispatch die => Sys2Proof.Machine.execJobDispatch die s
  | .jobComplete die entry => Sys2Proof.Machine.execJobComplete die entry s
  | .hintServed die => Sys2Proof.Machine.execHintServed die s
  | .reservationGranted n => Sys2Proof.Machine.execReservationGranted n s
  | .reservationTimeout n => Sys2Proof.Machine.execReservationTimeout n s
  | .deferredMoveStart n => Sys2Proof.Machine.execDeferredMoveStart n s
  | .matrixCommand core => Sys2Proof.Machine.execMatrixCommand core s
  | .matrixWatchdog core => Sys2Proof.Machine.execMatrixWatchdog core s
  | .wwaitTimeout g slot => Sys2Proof.Machine.execWwaitTimeout g slot s
  | .packetLanding n => Sys2Proof.Machine.execPacketLanding n s
  | .packetTimeout n => Sys2Proof.Machine.execPacketTimeout n s
  | .dataLanding g n => Sys2Proof.Machine.execDataLanding g n s
  | .arrive g ctr => Sys2Proof.Machine.execArrive g ctr s
  | .barrierTimeout g slot => Sys2Proof.Machine.execBarrierTimeout g slot s
  | .gangEnd g => Sys2Proof.Machine.execGangEnd g s
  | .recallComplete r => Sys2Proof.Machine.execRecallComplete r s
  | .copyReadData r => Sys2Proof.Machine.execCopyReadData r s
  | .lineAccepted r => Sys2Proof.Machine.execLineAccepted r s
  | .portClose r => Sys2Proof.Machine.execPortClose r s
  | .sourceFrameRelease r => Sys2Proof.Machine.execSourceFrameRelease r s
  | .reverseLineAccepted r => Sys2Proof.Machine.execReverseLineAccepted r s
  | .refreshDue stack pc bank => Sys2Proof.Machine.execRefreshDue stack pc bank s
  | .refpbIssue stack pc => Sys2Proof.Machine.execRefpbIssue stack pc s
  | .refreshBurstEnd stack pc => Sys2Proof.Machine.execRefreshBurstEnd stack pc s
  | .writeQueueDrain block pc => Sys2Proof.Machine.execWriteQueueDrain block pc s
  | .retentionEntry unit => Sys2Proof.Machine.execRetentionEntry unit s
  | .teamDispatch launch => Sys2Proof.Machine.execTeamDispatch launch s
  | .launchPacketRead q => Sys2Proof.Machine.execLaunchPacketRead q s
  | .codeLinesPushed team => Sys2Proof.Machine.execCodeLinesPushed team s
  | .coResidentDispatch launch => Sys2Proof.Machine.execCoResidentDispatch launch s
  | .affinityTimeout launch => Sys2Proof.Machine.execAffinityTimeout launch s
  | .preEmption launch => Sys2Proof.Machine.execPreEmption launch s
  | .forcedSave team => Sys2Proof.Machine.execForcedSave team s
  | .teamRestore team => Sys2Proof.Machine.execTeamRestore team s
  | .vgrowGrant core => Sys2Proof.Machine.execVgrowGrant core s
  | .stuckCore core => Sys2Proof.Machine.execStuckCore core s
  | .parentSwapOut team => Sys2Proof.Machine.execParentSwapOut team s
  | .launchCompletion launch => Sys2Proof.Machine.execLaunchCompletion launch s
  | .replay launch => Sys2Proof.Machine.execReplay launch s
  | .nop => Sys2Proof.Machine.execNop s
  | .exit => Sys2Proof.Machine.execExit s
  | .yield => Sys2Proof.Machine.execYield s
  | .halt => Sys2Proof.Machine.execHalt s
  | .rfe => Sys2Proof.Machine.execRfe s
  | .ret => Sys2Proof.Machine.execRet s
  | .join => Sys2Proof.Machine.execJoin s
  | .pgmapPost => Sys2Proof.Machine.execPgmapPost s
  | .faultPostWrite => Sys2Proof.Machine.execFaultPostWrite s
  | .tlbiAll => Sys2Proof.Machine.execTlbiAll s
  | .tlbiNone => Sys2Proof.Machine.execTlbiNone s
  | .tlbiDone => Sys2Proof.Machine.execTlbiDone s
  | .epochEnd => Sys2Proof.Machine.execEpochEnd s
  | .heldFrameRelease => Sys2Proof.Machine.execHeldFrameRelease s
  | .cancel => Sys2Proof.Machine.execCancel s
  | .checkpoint => Sys2Proof.Machine.execCheckpoint s
  | .checkpointDone => Sys2Proof.Machine.execCheckpointDone s
  | .restore => Sys2Proof.Machine.execRestore s
  | .restoreDone => Sys2Proof.Machine.execRestoreDone s
  | .patrolScrub => Sys2Proof.Machine.execPatrolScrub s
  | .spareRemap => Sys2Proof.Machine.execSpareRemap s
  | .coldReset => Sys2Proof.Machine.execColdReset s
  | .memoryReady => Sys2Proof.Machine.execMemoryReady s
  | .warmReset => Sys2Proof.Machine.execWarmReset s
  | .marginPlan => Sys2Proof.Machine.execMarginPlan s
  | .attestation => Sys2Proof.Machine.execAttestation s
  | .attestationReport => Sys2Proof.Machine.execAttestationReport s
  | .powerThrottle => Sys2Proof.Machine.execPowerThrottle s
  | .thermalTrip => Sys2Proof.Machine.execThermalTrip s
  | .urgencyMark core => Sys2Proof.Machine.execUrgencyMark core s
  | .breakpointStop g slot => Sys2Proof.Machine.execBreakpointStop g slot s
  | .traceSample g slot => Sys2Proof.Machine.execTraceSample g slot s
  | .mxrst core => Sys2Proof.Machine.execMxrst core s
  | .packetAck n => Sys2Proof.Machine.execPacketAck n s
  | .portFailure port => Sys2Proof.Machine.execPortFailure port s
  | .pageTableWalk die ctx va => Sys2Proof.Machine.execPageTableWalk die ctx va s
  | .fqreplyRetry tag => Sys2Proof.Machine.execFqreplyRetry tag s
  | .fqreplyKill tag => Sys2Proof.Machine.execFqreplyKill tag s
  | .tlbiPages ctx va n => Sys2Proof.Machine.execTlbiPages ctx va n s
  | .tlbiContext ctx => Sys2Proof.Machine.execTlbiContext ctx s
  | .lineRead pa => Sys2Proof.Machine.execLineRead pa s
  | .lineWrite pa data => Sys2Proof.Machine.execLineWrite pa data s
  | .channelFailed block ch => Sys2Proof.Machine.execChannelFailed block ch s
  | .failed block ch => Sys2Proof.Machine.execFailed block ch s
  | .hdmCommit k => Sys2Proof.Machine.execHdmCommit k s
  | .hdmUncommit k => Sys2Proof.Machine.execHdmUncommit k s
  | .viralIndication port => Sys2Proof.Machine.execViralIndication port s
  | .cxlLinkTrained port => Sys2Proof.Machine.execCxlLinkTrained port s
  | .retentionExit unit => Sys2Proof.Machine.execRetentionExit unit s
  | .bkret die => Sys2Proof.Machine.execBkret die s
  | .precmd q => Sys2Proof.Machine.execPrecmd q s
  | .spareDieSubstitution die => Sys2Proof.Machine.execSpareDieSubstitution die s
  | .contextTeardown ctx => Sys2Proof.Machine.execContextTeardown ctx s
  | .dbgcmdHalt blk => Sys2Proof.Machine.execDbgcmdHalt blk s
  | .dbgcmdResume blk => Sys2Proof.Machine.execDbgcmdResume blk s
  | .dbgcmdRead blk => Sys2Proof.Machine.execDbgcmdRead blk s
  | .dbgcmdWrite blk => Sys2Proof.Machine.execDbgcmdWrite blk s
  | .dbgcmdStep blk => Sys2Proof.Machine.execDbgcmdStep blk s
  | .dbgcmdClear blk => Sys2Proof.Machine.execDbgcmdClear blk s
  | .revocation blk => Sys2Proof.Machine.execRevocation blk s
  | .vendorPartWrite data => Sys2Proof.Machine.execVendorPartWrite data s
  | .timeadj v => Sys2Proof.Machine.execTimeadj v s
  | .unsupportedRequest addr => Sys2Proof.Machine.execUnsupportedRequest addr s
  | .bar2Access write addr data => Sys2Proof.Machine.execBar2Access write addr data s
  | .registerWrite wide off v => Sys2Proof.Machine.execRegisterWrite wide off v s
  | .unassignedEncoding at_ => Sys2Proof.Machine.execUnassignedEncoding at_ s
  | .linkFlitReplay port => Sys2Proof.Machine.execLinkFlitReplay port s
  | .failedCxlPort port => Sys2Proof.Machine.execFailedCxlPort port s

end Sys2Proof.Machine
end

