-- ==== Sys2Proof/Machine/Turns.lean ====
section
/-! DEFINITION. What happens next: eligible arms (R353, R389, R391), the events that the part's units can take, the passing
of time (R8, R420, R441), and the choice of the next step. -/

namespace Sys2Proof.Machine

/-! ### Eligible arms -/

/-- The arm may issue, its pipe's order apart: resident, not halted or parked, and in no wait that only an event ends
(R112, R353, R388, R392, R423). -/
def mayIssue (s : State) (g : Gang) (a : Arm) : Bool :=
  !g.exited && !a.halted && !a.parked &&
    (match a.stall with | .vgrow _ _ | .posted _ => false | _ => true) &&
    (match teamById s g.team with | some t => t.pushed && !t.endNow | none => true)

/-- The arms of a core's pipe that may issue. -/
def pipeArms (s : State) (core pipe : Nat) : List (Gang × Arm) :=
  (gangsOf s).flatMap (fun g =>
    if g.core = core ∧ g.pipe = pipe then ((armsOf g).filter (mayIssue s g)).map (fun a => (g, a)) else [])

/-- YIELD is over: 64 cc have passed, or the pipe's other eligible arms have issued since (R391). -/
def yieldOver (s : State) (g : Gang) (a : Arm) : Bool :=
  decide (a.yieldTo ≤ s.cc) ||
    (pipeArms s g.core g.pipe).all (fun e =>
      (e.1.id == g.id && e.2.slot == a.slot) || !armReady s e.1 e.2 || decide (a.lastIssue < e.2.lastIssue))

/-- The arm is eligible (R353): it may issue, and waits for nothing. -/
def eligible (s : State) (g : Gang) (a : Arm) : Bool := mayIssue s g a && armReady s g a && yieldOver s g a

/-- An arm's outstanding memory operations (R353). -/
def memOps (g : Gang) (a : Arm) : Nat :=
  (g.ops.filter (fun o => o.slot == a.slot && (match o.kind with | .mem | .image _ _ | .fill => true | _ => false))).length

/-- The arm has issued in the beat at hand (R352, R389). -/
def inBeat (s : State) (a : Arm) : Bool := a.issuedAt == s.cc + 1

/-- Which of a gang's two arms issues next where both may (R353): the one that issued last, until it stalls or has issued 16 times in
succession beside the other; a fresh choice falls to the one with fewer outstanding memory operations, slot 0 on ties. -/
def gangChoice (g : Gang) (a b : Arm) : Arm :=
  match g.run with
  | some (k, n) => if (a.slot = k) = (n < 16) then a else b
  | none =>
    if memOps g a < memOps g b then a
    else if memOps g b < memOps g a then b
    else if a.slot < b.slot then a else b

/-- A gang's next arm for the beat at hand. -/
def gangNext (s : State) (g : Gang) : Option Arm :=
  match (armsOf g).filter (fun a => eligible s g a && !inBeat s a) with
  | [] => none
  | [a] => some a
  | a :: b :: _ => some (gangChoice g a b)

/-- One arm goes before another in a pipe (R389): an urgent gang's, then the one that issued least recently. -/
def goesBefore (x y : Gang × Arm) : Bool :=
  (x.1.urgent && !y.1.urgent) || (x.1.urgent == y.1.urgent && decide (x.2.lastIssue < y.2.lastIssue))

/-- The arms that may issue next (R389): in each pipe those before which no other goes. Which of the arms that follow share a beat changes
timing only (R352). -/
def pipeNext (s : State) : List (Gang × Arm) :=
  let es := (gangsOf s).filterMap (fun g => (gangNext s g).map (fun a => (g, a)))
  es.filter (fun e => es.all (fun x => !(x.1.core == e.1.core && x.1.pipe == e.1.pipe && goesBefore x e)))

/-- The arms that have been eligible for 1,024 cc: they issue before anything else happens (R353). -/
def overdue (s : State) : List Turn :=
  (gangsOf s).flatMap (fun g =>
    ((armsOf g).filter (fun a => eligible s g a && decide (a.readyAt + 1024 ≤ s.cc))).map (fun a => Turn.arm g.id a.slot))

/-- The arms that may take a turn. One whose instruction stalled is among them again once it would issue (`freeRetries`). -/
def armTurns (s : State) : List Turn := (pipeNext s).map (fun e => Turn.arm e.1.id e.2.slot)

/-- The record of who is eligible, after a step: an arm that is not begins its wait anew, and the gang's choice is made afresh once the arm
that issued last has stalled (R353). -/
def noteEligible (s : State) : State :=
  let e (g : Gang) (a : Arm) : Bool := eligible s g a
  let note (g : Gang) : Gang :=
    onArms { g with run := match g.run with
        | some (k, n) =>
          if (armsOf g).any (fun a => a.slot == k && e g a) then
            (if (armsOf g).any (fun a => a.slot != k && e g a) then some (k, n) else some (k, 0))
          else none
        | none => none }
      (fun a => if e g a && a.issuedAt ≤ a.readyAt then a else { a with readyAt := Max.max s.cc a.issuedAt })
  { s with gang := if s.live then note s.gang else s.gang, others := s.others.map note }

/-! ### Events of the units -/

/-- Resident gangs, and those of saved teams. -/
def everyGang (s : State) : List Gang := gangsOf s ++ s.teams.flatMap (fun t => t.savedGangs)

/-- Operations that land or arrive, also for gangs that are saved (R171, R209, R347). -/
def opEvents (s : State) : List Instr :=
  (everyGang s).flatMap (fun g =>
    (g.ops.filter (opReady s)).map (fun o => Instr.dataLanding g.id o.id) ++
      ((List.range 16).filter (fun c => (arrivable g c).isSome)).map (fun c => Instr.arrive g.id c))

/-- What an arm's wait may end in. -/
def waitEvents (s : State) (g : Gang) (a : Arm) : List Instr :=
  match a.stall with
  | .wait c k t =>
    (if reached (readC g c) (BitVec.ofNat 16 k) then [Instr.waitComplete g.id a.slot] else []) ++
      (if t < s.cc then [Instr.barrierTimeout g.id a.slot] else [])
  | .bar _ _ => [Instr.barrierTimeout g.id a.slot]
  | .wwait _ _ _ _ => [Instr.wwaitTimeout g.id a.slot]
  | _ => []

/-- Events of resident gangs: waits, the run-ahead of streams, and a gang's end. -/
def gangEvents (s : State) : List Instr :=
  (gangsOf s).flatMap (fun g =>
    (armsOf g).flatMap (waitEvents s g) ++
    ((List.range 4).filter (fun q => match g.streams[q]? with | some x => (aheadNext g x).isSome | none => false)).map
      (fun q => Instr.streamRunAhead g.id q) ++
    (if g.exited && g.ops.isEmpty then [Instr.gangEnd g.id] else []))

/-- The command processors' next act (R379, R383 to R385). -/
def placeEvents (s : State) : List Instr :=
  (match nextAct s with
   | some (_, .place l _) => [Instr.teamDispatch l.id]
   | some (_, .doom l _) => [Instr.teamDispatch l.id]
   | some (_, .spill l _) => [Instr.affinityTimeout l.id]
   | some (_, .together l _) => [Instr.coResidentDispatch l.id]
   | some (_, .restore t _) => [Instr.teamRestore t.id]
   | none => []) ++
  (s.launches.filter (fun l => undispatched l && l.affWait.isNone)).map (fun l => Instr.teamDispatch l.id) ++
  (s.teams.filter (fun t => t.saved && t.back && t.affWait.isNone)).map (fun t => Instr.teamRestore t.id)

/-- Queues whose next packet may be read, and queues whose head may ask others to give way (R380, R390). -/
def queueEvents (s : State) : List Instr :=
  (List.range 64).flatMap (fun q =>
    (if packetWaits s q then [Instr.launchPacketRead q] else []) ++
    (if s.launches.isEmpty then [] else match queueItem s q with
     | some it => if (queueAct s q).isNone then [Instr.preEmption (itemNeed it).2] else []
     | none => []))

/-- Events of teams: code lines, saves, swap-outs (R388, R390, R394). -/
def teamEvents (s : State) : List Instr :=
  (s.teams.filter (fun t => !t.saved)).flatMap (fun t =>
    (if t.pushed then [] else [Instr.codeLinesPushed t.id]) ++
    (match t.target with | some d => if d ≤ s.time then [Instr.forcedSave t.id] else [] | none => []) ++
    (if (teamGangs s t.id).any (fun g => (armsOf g).any (forkWait g)) then [Instr.parentSwapOut t.id] else []))

/-- Launches that may complete (R396). -/
def launchEvents (s : State) : List Instr :=
  s.launches.flatMap (fun l =>
    if l.replaying || undispatched l || s.teams.any (fun t => t.launch == l.id && !t.endNow) || launchBusy s l.id then []
    else [Instr.launchCompletion l.id])

/-- Events of cores: register growth, a stuck core, the matrix engine (R302, R325, R391, R392). -/
def coreEvents (s : State) : List Instr :=
  let cores := ((gangsOf s).map (fun g => g.core)).foldl nsetInsert []
  let mxs := (s.mx.queue.map (fun c => c.core)).foldl nsetInsert []
  cores.flatMap (fun c =>
    (if (vgrowQueue s c).isEmpty then [] else [Instr.vgrowGrant c]) ++ (if coreStuck s c then [Instr.stuckCore c] else [])) ++
  mxs.flatMap (fun c => if c < 768 then [Instr.matrixCommand c, Instr.matrixWatchdog c] else [])

/-- Events of the job schedulers and copy engines (R66, R203, R207, R225). -/
def jobEvents (s : State) : List Instr :=
  (List.range 8).flatMap (fun d =>
    (if (readyJob s d).isSome then [Instr.jobDispatch d] else []) ++
    (runningJobs s d).map (fun j => Instr.jobComplete d j.entry) ++
    (if s.hints.any (fun h => h.die == d) then [Instr.hintServed d] else [])) ++
  ((s.dram.reserves.zip (List.range s.dram.reserves.length)).map (fun r =>
    if r.1.held then Instr.reservationTimeout r.2 else Instr.reservationGranted r.2)) ++
  s.deferred.map (fun d => Instr.deferredMoveStart d.id)

/-- Events of moves, of sweeps and of requests that wait at a bank unit (R124 to R134, R165, R188). -/
def moveEvents (s : State) : List Instr :=
  s.yo.moves.flatMap (fun m =>
    (match m.st with
     | .recall => [Instr.recallComplete m.no]
     | .forward => if m.hold = .copyRead then [Instr.copyReadData m.no] else [Instr.lineAccepted m.no]
     | .reverse => if m.hold = .copyRead then [Instr.copyReadData m.no] else [Instr.reverseLineAccepted m.no]
     | .closing => [Instr.portClose m.no]
     | .releasing => if m.leaseEnd < s.time then [Instr.sourceFrameRelease m.no] else []
     | .released => [])) ++
  (if s.yo.held.isEmpty then [] else [Instr.heldFrameRelease]) ++
  (match s.yo.ckpt with | some (false, _, _) => [Instr.checkpointDone] | some (true, _, _) => [Instr.restoreDone] | none => []) ++
  s.caches.sweeps.map (fun w => Instr.sweepComplete w.id) ++
  s.banks.waits.map (fun w => Instr.waiterPlaceFreed w.id)

/-- The refreshes that fall due next: of each block in service its time and its event (R68). -/
def nextRefreshes (s : State) : List (Nat × Instr) :=
  (List.range 9).filterMap (fun b => match nextDue s b with
    | some (t, p, k) => if b < 8 ∨ s.cfg.lpddr then some (t, Instr.refreshDue b p k) else none
    | none => none)

/-- The bulk streams whose next row or closing has a time: that time, and the event of the job (R458). A job that waits for the bound of R333
is none of them. -/
def nextRows (s : State) : List (Nat × Instr) :=
  s.dram.reserves.filterMap (fun r =>
    if r.held ∧ r.susp.isNone then
      (match jobAtEntry s r.die r.job with
       | some j => if j.st = .running ∧ !s.caches.waiting.contains (jobAg j) then some (r.next, Instr.jobComplete r.die r.job) else none
       | none => none)
    else none)

/-- Events of the memory controllers, the scrubber and the retention of a unit (R62, R68 to R70, R76, R189). -/
def dramEvents (s : State) : List Instr :=
  let pcs := ((s.dram.queued.map (fun k => k / 16)) ++ (s.dram.debt.map (fun (e : Nat × Nat) => e.1 / 16))).foldl nsetInsert []
  let wqs := (s.dram.writeQ.map (fun w => w.1) ++ s.dram.draining).foldl nsetInsert []
  (pcs.filter (fun n => !inRefpb s n && !inBurst s n && (nextRefresh s n).isSome)).map (fun n => Instr.refpbIssue (n / 64) (n % 64)) ++
  (s.dram.burst.filter (fun b => decide (b.2.2 ≤ s.cc))).map (fun b => Instr.refreshBurstEnd (b.1 / 64) (b.1 % 64)) ++
  wqs.map (fun n => Instr.writeQueueDrain (n / 64) (n % 64)) ++
  (let n := Config.choice (2 * s.tick + 1) % 256
   if !s.dram.ready && Config.trainFails s.tick n then [Instr.channelFailed (n / 32) (n % 32)] else []) ++
  (if s.dram.ready ∧ scrubDue s ≤ s.time then [Instr.patrolScrub] else []) ++
  (let u := Config.choice (2 * s.tick + 1) % 4096
   if mayRetain s u then [Instr.retentionEntry u] else [])

/-- Events of the hub, the link agent and the management controller (R111, R117, R337, R340, R395, R437 to R440). -/
def hubEvents (s : State) : List Instr :=
  (if s.posts.any (fun p => !p.records.isEmpty) && ringOn s fqBase && !ringFull s fqBase then [Instr.faultPostWrite] else []) ++
  (if s.inval.isSome then [Instr.tlbiDone] else []) ++
  (s.link.packets.filter (fun p => p.st == .out && (!p.own || p.peer == ownId s))).map (fun p => Instr.packetLanding p.id) ++
  (if mmField s flCtl 0 0 = 1 ∧ !s.mgmt.held then [Instr.packetLanding s.serial] else []) ++
  (s.link.packets.filter (fun p => unanswered p && decide (p.sent + packetLimit s ≤ s.time))).map (fun p => Instr.packetTimeout p.id) ++
  (if s.cp.sub.isSome then [Instr.spareRemap] else []) ++
  (if !s.mgmt.held && !s.dram.ready && s.yo.ckpt.isNone then [Instr.memoryReady] else []) ++
  (if !s.mgmt.held && decide (s.mgmt.nextPlan ≤ s.time) then [Instr.marginPlan] else []) ++
  (if s.mgmt.nonce.isSome then [Instr.attestationReport] else [])

/-- The events that may come next of their own accord. -/
def unitEvents (s : State) : List Instr :=
  opEvents s ++ gangEvents s ++ placeEvents s ++ queueEvents s ++ teamEvents s ++ launchEvents s ++ coreEvents s ++ jobEvents s ++
    moveEvents s ++ dramEvents s ++ hubEvents s

/-- Trace samples, urgency marks, answers to packets and replays that are due (R337, R389, R416, R422). -/
def dueTurns (s : State) : List Turn :=
  (if mmField s trcCtl 0 0 = 1 then
    (gangsOf s).flatMap (fun g => (armsOf g).map (fun a => Turn.sample g.id a.slot)) else []) ++
  ((((gangsOf s).map (fun g => g.core)).foldl nsetInsert []).filter (fun c => decide (smapGet 0 s.cp.marked c + 256 ≤ s.cc))).map
    Turn.urgent ++
  (s.link.packets.filter (fun p => unanswered p && p.st != .out)).map (fun p => Turn.ack p.id) ++
  (s.launches.filter (fun l => l.replaying)).map (fun l => Turn.replay l.id)

/-! ### Time -/

/-- The lowest-numbered reason for which an arm does not issue (R420); the code lines of its team come under instruction fetch, and a
YIELD under any other. Which of the timing reasons keeps an eligible arm from its pipe is open: log entry 1. -/
def stallReason (s : State) (g : Gang) (a : Arm) : Nat :=
  let pushed : Bool := match teamById s g.team with | some t => t.pushed | none => true
  let r := match a.stall with
    | .none => if !pushed then 5 else if a.halted then 12 else if yieldOver s g a then [4, 5, 6, 7].getD (Config.stallPick s.tick (2 * g.id + a.slot) % 4) 7 else 15
    | .retry r => r
    | .wait _ _ _ => 1
    | .bar _ _ => 2
    | .wwait _ _ _ _ => 13
    | .vgrow _ _ => 10
    | .posted _ => 11
  Min.min r (if a.parked then 3 else if a.halted then 12 else 15)

/-- `n` clocks pass for a gang: where neither arm has issued in this step, the lowest-numbered reason of its live arms counts them,
saturating (R420). A gang whose lanes have all exited has none. -/
def gangClock (s : State) (n : Nat) (g : Gang) : Gang :=
  if g.exited ∨ (armsOf g).any (fun a => a.lastIssue == s.tick) then g
  else
    let r := (armsOf g).foldl (fun m a => Min.min m (stallReason s g a)) 15
    { g with stallCnt := smapSet 0 g.stallCnt r (BitVec.ofNat 32 (Min.min ((smapGet 0 g.stallCnt r).toNat + n) (2 ^ 32 - 1))) }

/-- The bank units at which a gang's arrival at a team barrier waits: every arm has arrived, and the object has no room for it (R188,
R372). -/
def barUnits (s : State) (g : Gang) : List Nat :=
  match teamById s g.team with
  | none => []
  | some t => (g.bars.filter (fun b => !b.slots.isEmpty && (armsOf g).all (fun a => b.slots.contains a.slot) &&
      !barxRoom s (teamBarObj t b.n) b.bytes)).map (fun b => teamBarObj t b.n / 65536)

/-- Counters of cycles that something waited: posts on a full or disabled queue, requests and arrivals on a waiter place or on ARRIVED,
agents on the lease bound (R110, R199, R348). -/
def waitClocks (s : State) (n : Nat) : State :=
  let s := if s.posts.any (fun p => !p.records.isEmpty) && (!ringOn s fqBase || ringFull s fqBase) then mmCount s fqOvf n else s
  let dies := ((s.banks.waits.map (fun w => w.unit) ++ (gangsOf s).flatMap (barUnits s)).map unitDie).foldl nsetInsert []
  let s := dies.foldl (fun s d => mmCount s (bkBlock d + 0x28) n) s
  let bound := ((gangsOf s).flatMap armsOf).filter (fun a => a.stall == .retry 14)
  let k := bound.length + s.caches.waiting.length
  if k = 0 then s else mmCount s lsWait (n * k)

/-- Cores with an arm that waits for nothing count as idle from now on (R392). -/
def idleClocks (s : State) : State :=
  let busy := (((gangsOf s).filter (fun g => (armsOf g).any (armReady s g))).map (fun g => g.core)).foldl nsetInsert []
  { s with cp := { s.cp with idleSince := busy.foldl (fun m c => smapSet 0 m c s.cc) s.cp.idleSince } }

/-- An arm's instruction has stalled. -/
def stalled (a : Arm) : Bool := match a.stall with | .retry _ => true | _ => false

/-- The clocks after which something must come: an eligible arm's issue, and so the check of an arm that stalls (R353); a refresh that falls due
(R68); a stream's next row, or the end of its suspension (R69, R458). -/
def clockLimits (s : State) : List Nat :=
  (gangsOf s).flatMap (fun g =>
    ((armsOf g).filter (eligible s g)).map (fun a => a.readyAt + 1024 - s.cc) ++ ((armsOf g).filter stalled).map (fun _ => 1024)) ++
  (nextRefreshes s ++ nextRows s).map (fun e => e.1 - s.cc) ++
  s.dram.reserves.filterMap (fun r => r.susp.map (fun x => x.2 - s.cc))

/-- How many clocks pass. -/
def clocksPass (s : State) : Nat := (clockLimits s).foldl Min.min (Config.elapsedCc s.tick)

/-- TIME after a step: it does not pass the end of an epoch, which is taken first (R120). -/
def timePass (s : State) : Nat :=
  let t := s.time + Config.elapsedNs s.tick
  if s.time < s.yo.nextEpoch then Min.min t s.yo.nextEpoch else s.time

/-- Time passes in a step: clocks and TIME advance by an amount that the spec does not give (log entry 2). -/
def passTime (s : State) : State :=
  let s := noteEligible s
  let n := clocksPass s
  let s := waitClocks s n
  let lo := s.cc
  let s := { s with tick := s.tick + 1, cc := s.cc + n, time := timePass s,
                    gang := if s.live then gangClock s n s.gang else s.gang, others := s.others.map (gangClock s n) }
  idleClocks (resumeStreams (refreshStalls s lo))

/-! ### The choice -/

/-- The turns of which one comes next, where one must: an epoch's end at its instant; then refreshes that are due, rows of streams whose time
has come, and arms that have waited their 1,024 cc (R68, R120, R353, R458). -/
def dueNow (s : State) : List Turn :=
  if s.yo.nextEpoch ≤ s.time then [.event .epochEnd]
  else ((nextRefreshes s ++ nextRows s).filter (fun e => decide (e.1 ≤ s.cc))).map (fun e => Turn.event e.2) ++ overdue s

/-- A host access that waits for the bound of R333 stays at the head of the inputs (R335). -/
def keepInput (s : State) : State :=
  match s.turn with
  | .event (.bar2Access w a d) => if s.caches.waiting.contains hostNo then { s with inputs := .bar2Access w a d :: s.inputs } else s
  | _ => s

/-- Which step comes next: what is due, or an event of a unit, an issue, the next action of the outside world or the passing of time alone;
which of them is open (log entry 1). -/
def nextTurn (s : State) : State :=
  let own := if (dueNow s).isEmpty then (unitEvents s).map Turn.event ++ dueTurns s ++ armTurns s else dueNow s
  let k := Config.choice s.tick % (if (dueNow s).isEmpty then own.length + 1 else own.length)
  match own[k]? with
  | some t => { s with turn := t }
  | none => match s.inputs with
    | i :: rest => { s with turn := .event i, inputs := rest }
    | [] => { s with turn := .idle }

/-! ### A program's first fetch -/

/-- A gang that runs as an arm of a supervisor context at address 0 with every register it may name. The model's own: what a
launch, a context and a dispatch would set up. -/
def fetchGang (g : Gang) : Gang :=
  { Gang.blank with
    id := g.id, nv := 128, ns := 64, nvDecl := 128, nsDecl := 64, apbase := 1
    arm := { Arm.blank with members := 255, mask := 255, sup := true, skipStop := true } }

/-- The bytes of the context descriptor, the page tables and the code page that map virtual address 0, from physical address 0:
ROOT in frame 0, a table of each level in frames 1 to 5, and frame 6 with W, X, A and D. -/
def fetchImage (w : Nat) : List (Nat × List Byte) :=
  [(0, leBytes 8 0x1001), (0x1000, leBytes 8 0x2021), (0x2000, leBytes 8 0x3021), (0x3000, leBytes 8 0x4021),
   (0x4000, leBytes 8 0x5021), (0x5000, leBytes 8 0x606D), (0x6000, leBytes 16 w)]

/-- The machine with an instruction where its next step fetches. -/
def placeCode (s : State) (w : Nat) : State :=
  { s with
    turn := .arm s.gang.id 0
    gang := fetchGang s.gang
    live := true
    mmio := smapSet 0 s.mmio ctxBase 0
    tlb := [], walk := []
    caches := { s.caches with icache := [] }
    dram := { s.dram with ready := true, bad := [], failed := [] }
    yo := { s.yo with moves := [] }
    mem := { s.mem with main := (fetchImage w).foldl (fun m e => cellsWrite m e.1 e.2) s.mem.main
                        poison := s.mem.poison.filter (fun k => decide (448 ≤ k)) } }

end Sys2Proof.Machine
end

