-- ==== Sys2Proof/Machine/Group.lean ====
section
/-! DEFINITION. What an arm's turn runs, which stalled arms would issue, and what follows each step (R33, R41, R42, R353, R357,
R412, R423, R430). -/

namespace Sys2Proof.Machine

/-- Go on from a next state. -/
def andThen (x : Host.Outcome State Fault Refusal) (f : State → Host.Outcome State Fault Refusal) :
    Host.Outcome State Fault Refusal :=
  match x with
  | .next s => f s
  | .fault r => .fault r
  | .refused r => .refused r

/-- Execute instructions one after another: a group's prefixes and its instruction (R33, R41). -/
def execAll : List Instr → State → Host.Outcome State Fault Refusal
  | [], s => .next s
  | i :: is, s => andThen (exec i s) (execAll is)

/-- The executing arm fetches the group at its PC and runs it, or takes the trap of R42 items 1 to 4. -/
def runGroup (s : State) : Host.Outcome State Fault Refusal :=
  match fetchGroup groupFuel s s.gang.arm.pc [] with
  | .error (t, s') => .next (stepDone (trapEntry s' t s.gang.arm.pc))
  | .ok (p, s') =>
    match groupInstr s' p with
    | .error t => .next (stepDone (trapEntry s' t s.gang.arm.pc))
    | .ok i => execAll (prefixInstrs p ++ [i]) s'

/-- The turn of an arm: it arrives at a join where it stands at one (R357), stops at a breakpoint, or runs its group. -/
def armStep (g slot : Nat) (s : State) : Host.Outcome State Fault Refusal :=
  let s := focusOn s g slot
  if s.live ∧ s.gang.id = g ∧ s.gang.arm.slot = slot ∧ mayIssue s s.gang s.gang.arm then
    (if atJoin s.gang then .next (boundary s) else if stopsBefore s then execBreakpointStop g slot s else runGroup s)
  else .next s

/-- The instruction at a stalled arm's PC would issue now: what it stalled on has come (R353). -/
def wouldIssue (s : State) (g slot : Nat) : Bool :=
  match runGroup (focusOn s g slot) with
  | .next t => (match gangById t g with
      | some x => !(armsOf x).any (fun a => a.slot == slot && stalled a)
      | none => true)
  | _ => true

/-- Stalled arms that would issue now are eligible, since cycle `lo` (R353). -/
def freeRetries (lo : Nat) (s : State) : State :=
  let free (g : Gang) : Gang := onArms g (fun a =>
    if stalled a && mayIssue s g a && wouldIssue s g.id a.slot then { a with stall := .none, readyAt := Max.max lo a.issuedAt } else a)
  { s with gang := if s.live then free s.gang else s.gang, others := s.others.map free }

/-- What follows the step itself: units meet fatal errors of their own, and after one the launches end; the debuggers' status follows the
arms; time passes, and the next turn is chosen (R411, R412, R430). -/
def endStep (s : State) : State :=
  let s := onDram (keepInput s) (fun d => { d with reading := (0, []) })
  let s := freeRetries s.cc (syncDebug (containLaunches (meetBad s)))
  nextTurn (freeRetries s.cc (passTime s))

end Sys2Proof.Machine
end

