-- ==== Sys2Proof/Machine/Step.lean ====
section
/-! DEFINITION. One step of the part: the turn at hand, then the passing of time and the choice of the next turn. -/

namespace Sys2Proof.Machine

/-- The turn at hand. -/
def turnStep (s : State) : Host.Outcome State Fault Refusal :=
  match s.turn with
  | .idle => .next s
  | .arm g slot => armStep g slot s
  | .event i => exec i s
  | .sample g slot => execTraceSample g slot s
  | .urgent core => execUrgencyMark core s
  | .ack n => execPacketAck n s
  | .replay launch => execReplay launch s

/-- One step. -/
def step (s : State) : Host.Outcome State Fault Refusal := andThen (turnStep s) (fun s' => .next (endStep s'))

/-- `s` with the instruction `w` of `nbits` bits where the next step fetches. -/
def State.withFetchWord (s : State) (nbits w : Nat) : State := placeCode s (w % 2 ^ nbits)

end Sys2Proof.Machine
end

