-- ==== Sys2Proof/Safety.lean ====
section
/-! DEFINITION. The terms that statements use: what a state keeps, when an instruction issues, what completing is, and how two
states differ. -/

namespace Sys2Proof.Machine

/-- Every memory is in its canonical form. -/
def Mem.wf (m : Mem) : Bool :=
  smapWf 0 m.main && smapWf 0 m.bank && smapWf 0 m.scratch && smapWf 0 m.host

/-- Instruction `i` issues at `s`: a gang is at hand; `i` is legal (R42 item 4), its registers are allocated or open streams
(R219, R231), the mode allows it (R42 item 5, R406: `sup` marks a supervisor-only instruction); its stream operands pop (R221),
which gives `s1`; no read is a hazard and no register to write is owed (R173). With no stream operand `s1` is `s`. -/
structure Issues (i : Instr) (sup : Bool) (s s1 : State) : Prop where
  live : s.live = true
  legal : instrWf i = true
  named : usesOk s.gang i = true
  mode : sup = true → s.gang.arm.sup = true
  pops : popAll s i = .ok s1
  ready : hazardReg s.gang (usesNow s.gang.arm i) = none
  landed : owedWrite s.gang (usesNow s.gang.arm i) = false

/-- `i` completes at `s`: its own effect gives `t`, and the next state is `t` past the instruction (R37, R357). -/
def Completes (i : Instr) (s t : State) : Prop := exec i s = .next (afterIssue (advance t i))

/-- `i`, which sets the PC itself, completes at `s` with its effect `t`. -/
def Jumps (i : Instr) (s t : State) : Prop := exec i s = .next (afterIssue (retire t))

/-- Nothing happens at an instruction boundary of the executing arm: it stands at no join (R357) and no debugger waits for it
(R423, R425). -/
structure Undisturbed (s : State) : Prop where
  noJoin : currentJoin s.gang ≠ some s.gang.arm.pc
  noMove : s.gang.partner.isSome = true ∨ s.gang.arm.slot = 0
  noWatch : s.gang.arm.watchHit = false
  noStep : s.gang.arm.stepOne = false

/-- A register of a source field: lane `l` of a vector or of an open stream, or a scalar, 32 bits wide. -/
def operand (s : State) (k : Kind) (r l : Nat) : Word :=
  match k with
  | .vec => srcV s.gang r l
  | .scal => readS s.gang r

/-- The same, 64 bits wide (R11). -/
def operand64 (s : State) (k : Kind) (r l : Nat) : DWord :=
  match k with
  | .vec => srcV64 s.gang r l
  | .scal => readS64 s.gang r

/-- Lane `l` is active in the executing arm. -/
def active (s : State) (l : Nat) : Bool := s.gang.arm.mask.getLsbD l

/-- Between `s` and `t` the active lanes of vector register `r` take `f`; every other lane of every vector register, every scalar
and the mask stay. -/
def WroteV (s t : State) (r : Nat) (f : Nat → Word) : Prop :=
  (∀ r' l, l < 96 → readV t.gang r' l = if r' = r ∧ active s l = true then f l else readV s.gang r' l) ∧
  t.gang.s = s.gang.s ∧ t.gang.arm.mask = s.gang.arm.mask

/-- Between `s` and `t` scalar register `r` takes `x`; s61 to s63 set the mask bits of members alone (R361); every other scalar and
every vector stay. -/
def WroteS (s t : State) (r : Nat) (x : Word) : Prop :=
  (∀ r', r' < 61 → readS t.gang r' = if r' = r then x else readS s.gang r') ∧ t.gang.v = s.gang.v ∧
  t.gang.arm.mask = if 61 ≤ r then setMaskWord s.gang.arm.mask (r - 61) x &&& s.gang.arm.members else s.gang.arm.mask

/-- A 32-bit result in register `r` of kind `k`. -/
def Wrote (s t : State) (k : Kind) (r : Nat) (f : Nat → Word) : Prop :=
  match k with
  | .vec => WroteV s t r f
  | .scal => WroteS s t r (f 0)

/-- A 64-bit result in registers `r` and `r + 1` of kind `k` (R11). -/
def Wrote64 (s t : State) (k : Kind) (r : Nat) (f : Nat → DWord) : Prop :=
  ∃ u, Wrote s u k r (fun l => loWord (f l)) ∧ Wrote u t k (r + 1) (fun l => hiWord (f l))

/-- A result of either width. -/
def WroteW (wide : Bool) (s t : State) (k : Kind) (r : Nat) (f : Nat → DWord) : Prop :=
  if wide then Wrote64 s t k r f else Wrote s t k r (fun l => loWord (f l))

/-- What a register write leaves of an arm: all but its mask, its shadows and its scoreboard's marks. -/
def Arm.bare (a : Arm) : Arm :=
  { a with mask := 0, shS := [], shV := [], owed := a.owed.map (fun o => { o with clean := false }) }

/-- What a scalar write leaves of the other arm: all but its scalar shadows and its scoreboard's marks. -/
def Arm.bareOther (a : Arm) : Arm := { a with shS := [], owed := a.owed.map (fun o => { o with clean := false }) }

/-- The same of a gang: all but the registers and what both arms keep of them. -/
def Gang.bare (g : Gang) : Gang :=
  { g with v := [], s := [], arm := g.arm.bare,
           partner := g.partner.map Arm.bareOther }

/-- The state but for the registers and shadows of the gang at hand: memory, flags, CSRs, counters, descriptors, operations and
every other unit. -/
def State.bare (s : State) : State := { s with gang := s.gang.bare }

/-- `bare`, and but for the sticky flags. -/
def State.bareF (s : State) : State := { s with gang := { s.gang.bare with vflags := [], sflags := 0 } }

/-- The sticky flags of `t` are those of `s` with `fl` ORed in: each active lane's, or the scalar flag set (R271). -/
def Raised (s t : State) (k : Kind) (fl : Nat → Flags) : Prop :=
  match k with
  | .vec =>
    (∀ l, l < 96 → smapGet 0 t.gang.vflags l = if active s l = true then smapGet 0 s.gang.vflags l ||| fl l else smapGet 0 s.gang.vflags l) ∧
      t.gang.sflags = s.gang.sflags
  | .scal => t.gang.vflags = s.gang.vflags ∧ t.gang.sflags = s.gang.sflags ||| fl 0

end Sys2Proof.Machine
end

