-- ==== Sys2Proof/Certificates/Slice0/Obligations.lean ====
section
/-! DEFINITION. The statements for the provers, and the spec's own tables and formulas that they name. -/

open Sys2Proof Sys2Proof.Machine


/-! ### Integer arithmetic (R278 to R287) -/

/-- An integer operation on values of `w` bits, read as signed or not, under EffSat() or not (R279, R281). -/
def Claims.intOp (w : Nat) (signed : Bool) (f : IntFn) (sat : Bool) (x y : BitVec w) : BitVec w :=
  let v (z : BitVec w) : Int := if signed then z.toInt else z.toNat
  let least : Int := if signed then -(2 ^ (w - 1)) else 0
  let most : Int := if signed then 2 ^ (w - 1) - 1 else 2 ^ w - 1
  let fit (wrapped : BitVec w) (exact : Int) : BitVec w :=
    if sat then BitVec.ofInt w (Max.max least (Min.min most exact)) else wrapped
  let k := y.toNat % w
  match f with
  | .add => fit (x + y) (v x + v y)
  | .sub => fit (x - y) (v x - v y)
  | .mul => fit (x * y) (v x * v y)
  | .mulh => BitVec.ofInt w (v x * v y / 2 ^ w)
  | .div => if y = 0 then BitVec.allOnes w else BitVec.ofInt w (Int.tdiv (v x) (v y))
  | .rem => if y = 0 then x else BitVec.ofInt w (Int.tmod (v x) (v y))
  | .min => if v x ≤ v y then x else y
  | .max => if v x ≤ v y then y else x
  | .and => x &&& y
  | .or => x ||| y
  | .xor => x ^^^ y
  | .andn => x &&& ~~~y
  | .shl => x <<< k
  | .shr => x >>> k
  | .sra => x.sshiftRight k
  | .rot => x.rotateLeft k
  | .abs => if x.toInt < 0 then -x else x
  | .neg => -x
  | .clz => BitVec.ofNat w ((List.range w).takeWhile (fun i => !x.getLsbD (w - 1 - i))).length
  | .ctz => BitVec.ofNat w ((List.range w).takeWhile (fun i => !x.getLsbD i)).length
  | .popc => BitVec.ofNat w ((List.range w).filter (fun i => x.getLsbD i)).length
  | .brev => x.reverse

/-- A source register of a field, zero-extended to 64 bits, or its pair. -/
def Claims.source (wide : Bool) (s : State) (k : Kind) (r l : Nat) : DWord :=
  if wide then operand64 s k r l else (operand s k r l).setWidth 64

/-- A result of `w` bits as its register holds it: an 8-bit or 16-bit one is sign-extended to 32 bits for .i types and zero-extended for
the others (R259). -/
def Claims.extend (w : Nat) (signed : Bool) (r : BitVec w) : DWord :=
  if signed && decide (w < 32) then (r.signExtend 32).setWidth 64 else r.setWidth 64

/-- BFX of a value of `w` bits (R282). -/
def Claims.bfx (w : Nat) (signed : Bool) (x : BitVec w) (ctl : Nat) : BitVec w :=
  let pos := ctl % 64
  let len := Min.min (ctl / 256 % 128) w
  let f := x.extractLsb' pos (Min.min (pos + len) w - pos)
  if len = 0 ∨ w ≤ pos then 0 else if signed then f.signExtend w else f.setWidth w

/-- BFI of values of `w` bits (R282). -/
def Claims.bfi (w : Nat) (x y : BitVec w) (ctl : Nat) : BitVec w :=
  let mask := BitVec.ofNat w (2 ^ Min.min (ctl / 256 % 128) w - 1) <<< (ctl % 64)
  (y &&& ~~~mask) ||| (x <<< (ctl % 64) &&& mask)

/-- A condition on two values of one width (R31). -/
def Claims.holds (c : Cond) {w : Nat} (x y : BitVec w) : Bool :=
  match c with
  | .eq => x == y
  | .ne => x != y
  | .lt => x.slt y
  | .ge => y.sle x
  | .le => x.sle y
  | .gt => y.slt x
  | .ltn => x.ult y
  | .gen => y.ule x
  | .len => x.ule y
  | .gtn => y.ult x

/-- The two-source instructions of majors 0x20 to 0x2F. -/
def Claims.shortBinary : List (IntFn × (ShA → Reg → Reg → Reg → Instr)) :=
  [(.add, .add), (.sub, .sub), (.mul, .mul), (.mulh, .mulh), (.div, .div), (.rem, .rem), (.min, .min), (.max, .max),
   (.and, .and), (.or, .or), (.xor, .xor), (.andn, .andn), (.shl, .shl), (.shr, .shr), (.sra, .sra), (.rot, .rot)]

/-- The one-source instructions of majors 0x30 to 0x35. -/
def Claims.shortUnary : List (IntFn × (Kind → Reg → Reg → Instr)) :=
  [(.abs, .abs), (.neg, .neg), (.clz, .clz), (.ctz, .ctz), (.popc, .popc), (.brev, .brev)]

/-- The instructions of majors 0x40 to 0x49 that take Imm8. -/
def Claims.immediate8 : List (IntFn × (Kind → Reg → Reg → BitVec 8 → Instr)) :=
  [(.add, .addImm8), (.and, .andImm8), (.or, .orImm8), (.xor, .xorImm8), (.min, .minImm), (.max, .maxImm)]

/-- The shifts of majors 0x44 to 0x47, by Imm8[4:0]. -/
def Claims.immediateShift : List (IntFn × (Kind → Reg → Reg → BitVec 5 → Instr)) :=
  [(.shl, .shlImm), (.shr, .shrImm), (.sra, .sraImm), (.rot, .rotImm)]

/-- The arithmetic instructions of format L. -/
def Claims.immediate32 : List (IntFn × (Ty → Kind → Reg → Reg → BitVec 32 → Instr)) :=
  [(.add, .addImm32), (.and, .andImm32), (.or, .orImm32), (.xor, .xorImm32)]

/-- R279, R281: the two-source 32-bit majors write the operation's result in register D, over the active lanes or once for the
scalar, and change nothing else. -/
def Claims.ShortIntegerResults : Prop :=
  ∀ p ∈ Claims.shortBinary, ∀ sh d a b s s1, Issues (p.2 sh d a b) false s s1 →
    ∃ t, Completes (p.2 sh d a b) s t ∧ t.bare = s1.bare ∧
      Wrote s1 t (shaKind sh) (regD s1 d) (fun l => Claims.intOp 32 true p.1 (effSat s1.gang)
        (operand s1 (shaKind sh) (regA s1 a) l) (operand s1 (shaKindB sh) (regB s1 b) l))

/-- R279: the one-source 32-bit majors. -/
def Claims.ShortUnaryResults : Prop :=
  ∀ p ∈ Claims.shortUnary, ∀ k d a s s1, Issues (p.2 k d a) false s s1 →
    ∃ t, Completes (p.2 k d a) s t ∧ t.bare = s1.bare ∧
      Wrote s1 t k (regD s1 d) (fun l => Claims.intOp 32 true p.1 false (operand s1 k (regA s1 a) l) 0)

/-- R21, R279, R283: the immediate forms. ADD, MIN and MAX take Imm8 sign-extended, AND, OR and XOR zero-extended, the shifts
Imm8[4:0]; format L's ADD takes Imm32 sign-extended at 64 bits, AND, OR and XOR zero-extended. -/
def Claims.ImmediateResults : Prop :=
  (∀ p ∈ Claims.immediate8, ∀ k d a imm s s1, Issues (p.2 k d a imm) false s s1 →
    ∃ t, Completes (p.2 k d a imm) s t ∧ t.bare = s1.bare ∧
      Wrote s1 t k (regD s1 d) (fun l => Claims.intOp 32 true p.1 (effSat s1.gang) (operand s1 k (regA s1 a) l)
        (if p.1 = .and ∨ p.1 = .or ∨ p.1 = .xor then imm.setWidth 32 else imm.signExtend 32))) ∧
  (∀ p ∈ Claims.immediateShift, ∀ k d a imm s s1, Issues (p.2 k d a imm) false s s1 →
    ∃ t, Completes (p.2 k d a imm) s t ∧ t.bare = s1.bare ∧
      Wrote s1 t k (regD s1 d) (fun l => Claims.intOp 32 true p.1 false (operand s1 k (regA s1 a) l) (imm.setWidth 32))) ∧
  (∀ p ∈ Claims.immediate32, ∀ ty k d a imm s s1, Issues (p.2 ty k d a imm) false s s1 →
    ∃ t, Completes (p.2 ty k d a imm) s t ∧ t.bare = s1.bare ∧
      WroteW (tyWide ty) s1 t k (regD s1 d) (fun l =>
        (Claims.intOp (tyWidth ty) (tyIsI ty) p.1 (effSat s1.gang) ((Claims.source (tyWide ty) s1 k (regA s1 a) l).setWidth _)
          (if p.1 = .add then imm.signExtend _ else imm.setWidth _)).setWidth 64))

/-- R283: LI writes its immediate in every active lane, or in the scalar: Imm8 sign-extended; Imm32 as written at 32 bits,
sign-extended for .i64, widened for .f64, zero-extended for .n64 and .b64. -/
def Claims.LoadImmediateResults : Prop :=
  (∀ k d imm s s1, Issues (.li k d imm) false s s1 →
    ∃ t, Completes (.li k d imm) s t ∧ t.bare = s1.bare ∧ Wrote s1 t k (regD s1 d) (fun _ => imm.signExtend 32)) ∧
  (∀ ty k d imm s s1, Issues (.liImm32 ty k d imm) false s s1 →
    ∃ t, Completes (.liImm32 ty k d imm) s t ∧ t.bare = s1.bare ∧
      WroteW (tyWide ty) s1 t k (regD s1 d) (fun _ =>
        if ty = .i64 then imm.signExtend 64 else if ty = .f64 then BitVec.ofNat 64 (widenF32 imm) else imm.setWidth 64))

/-- R279, R281, R282: the 64-bit integer group in every type its member has, and BFX. -/
def Claims.IntegerGroupResults : Prop :=
  (∀ f ty sh d a b s s1, Issues (.integerGroup f ty sh d a b) false s s1 →
    ∃ t, Completes (.integerGroup f ty sh d a b) s t ∧ t.bare = s1.bare ∧
      WroteW (tyWide ty && !intFnNarrowD f) s1 t (shwKind sh) (regD s1 d) (fun l =>
        Claims.extend (tyWidth ty) (tyIsI ty) (Claims.intOp (tyWidth ty) (tyIsI ty) f (effSat s1.gang)
          ((Claims.source (tyWide ty) s1 (shwKind sh) (regA s1 a) l).setWidth _)
          ((Claims.source (tyWide ty && !intFnNarrowB f) s1 (shwKindB sh) (regB s1 b) l).setWidth _)))) ∧
  (∀ ty sh d a b s s1, Issues (.bfx ty sh d a b) false s s1 →
    ∃ t, Completes (.bfx ty sh d a b) s t ∧ t.bare = s1.bare ∧
      WroteW (tyWide ty) s1 t (shwKind sh) (regD s1 d) (fun l =>
        Claims.extend (tyWidth ty) (tyIsI ty) (Claims.bfx (tyWidth ty) (tyIsI ty)
          ((Claims.source (tyWide ty) s1 (shwKind sh) (regA s1 a) l).setWidth _) (operand s1 (shwKindB sh) (regB s1 b) l).toNat)))

/-- R286, R287: MAD, CLAMP, SEL, BFI and CMP. Under Sat MAD clamps a raw type as signed, which is the model's reading (log
entry 10). -/
def Claims.ThreeSourceIntegerResults : Prop :=
  (∀ ty sh d a b c s s1, Issues (.mad ty sh d a b c) false s s1 →
    ∃ t, Completes (.mad ty sh d a b c) s t ∧ t.bare = s1.bare ∧
      WroteW (tyWide ty) s1 t (shwKind sh) (regD s1 d) (fun l =>
        let w := tyWidth ty
        let x := (Claims.source (tyWide ty) s1 (shwKind sh) (regA s1 a) l).setWidth w
        let y := (Claims.source (tyWide ty) s1 (shwKindB sh) (regB s1 b) l).setWidth w
        let z := (Claims.source (tyWide ty) s1 (shwKindC sh) (regC s1 c) l).setWidth w
        Claims.extend w (tyIsI ty)
          (if !effSat s1.gang then x * y + z
           else if tyIsN ty then BitVec.ofNat w (Min.min (2 ^ w - 1) (x.toNat * y.toNat + z.toNat))
           else BitVec.ofInt w (Max.max (-(2 ^ (w - 1))) (Min.min (2 ^ (w - 1) - 1) (x.toInt * y.toInt + z.toInt)))))) ∧
  (∀ ty sh d a b c s s1, Issues (.clamp ty sh d a b c) false s s1 →
    ∃ t, Completes (.clamp ty sh d a b c) s t ∧ t.bare = s1.bare ∧
      WroteW (tyWide ty) s1 t (shwKind sh) (regD s1 d) (fun l =>
        let op (f : IntFn) := Claims.intOp (tyWidth ty) (tyIsI ty) f false
        Claims.extend (tyWidth ty) (tyIsI ty)
          (op .min (op .max ((Claims.source (tyWide ty) s1 (shwKind sh) (regA s1 a) l).setWidth _)
            ((Claims.source (tyWide ty) s1 (shwKindB sh) (regB s1 b) l).setWidth _))
            ((Claims.source (tyWide ty) s1 (shwKindC sh) (regC s1 c) l).setWidth _)))) ∧
  (∀ ty sh d a b c s s1, Issues (.sel ty sh d a b c) false s s1 →
    ∃ t, Completes (.sel ty sh d a b c) s t ∧ t.bare = s1.bare ∧
      WroteW (tyWide ty) s1 t (shwKind sh) (regD s1 d) (fun l =>
        if operand s1 (shwKindC sh) (regC s1 c) l = 0 then Claims.source (tyWide ty) s1 (shwKindB sh) (regB s1 b) l
        else Claims.source (tyWide ty) s1 (shwKind sh) (regA s1 a) l)) ∧
  (∀ ty sh d a b c s s1, Issues (.bfi ty sh d a b c) false s s1 →
    ∃ t, Completes (.bfi ty sh d a b c) s t ∧ t.bare = s1.bare ∧
      WroteW (tyWide ty) s1 t (shwKind sh) (regD s1 d) (fun l =>
        Claims.extend (tyWidth ty) (tyIsI ty) (Claims.bfi (tyWidth ty)
          ((Claims.source (tyWide ty) s1 (shwKind sh) (regA s1 a) l).setWidth _)
          ((Claims.source (tyWide ty) s1 (shwKindB sh) (regB s1 b) l).setWidth _)
          (operand s1 (shwKindC sh) (regC s1 c) l).toNat))) ∧
  (∀ c ty sh d a b s s1, Issues (.cmp c ty sh d a b) false s s1 →
    ∃ t, Completes (.cmp c ty sh d a b) s t ∧ t.bare = s1.bare ∧
      Wrote s1 t (shwKind sh) (regD s1 d) (fun l =>
        if tyWide ty then
          (if Claims.holds c (operand64 s1 (shwKind sh) (regA s1 a) l) (operand64 s1 (shwKindB sh) (regB s1 b) l) then 1 else 0)
        else (if Claims.holds c (operand s1 (shwKind sh) (regA s1 a) l) (operand s1 (shwKindB sh) (regB s1 b) l) then 1 else 0)))

/-! ### Floating arithmetic, conversions and flags (R264 to R275, R286 to R298) -/

/-- What a floating instruction computes: the kind and width of D, whether a flag may trap, and each lane's result with the flags it
raises, under the effective controls. -/
structure Claims.Arith where
  k : Kind
  wide : Bool
  d : Reg
  traps : Bool
  val : FCtl → State → Nat → Nat × Flags

/-- A source register of a field as a number. -/
def Claims.num (wide : Bool) (s : State) (k : Kind) (r l : Nat) : Nat := (Claims.source wide s k r l).toNat

/-- A two-source .f32 instruction of format A. -/
def Claims.float2 (sh : ShA) (d a b : Reg) (f : FCtl → Nat → Nat → Nat × Flags) : Claims.Arith :=
  ⟨shaKind sh, false, d, true, fun c s l =>
    f c (Claims.num false s (shaKind sh) (regA s a) l) (Claims.num false s (shaKindB sh) (regB s b) l)⟩

/-- A two-source instruction of format W. -/
def Claims.float2w (t : Ty) (sh : ShW) (d a b : Reg) (wide : Bool) (f : FCtl → Nat → Nat → Nat × Flags) : Claims.Arith :=
  ⟨shwKind sh, wide, d, true, fun c s l =>
    f c (Claims.num (tyWide t) s (shwKind sh) (regA s a) l) (Claims.num (tyWide t) s (shwKindB sh) (regB s b) l)⟩

/-- A three-source instruction of format W; C may be a single register of its own. -/
def Claims.float3w (t : Ty) (sh : ShW) (d a b c : Reg) (f : FCtl → Nat → Nat → Nat → Nat × Flags) : Claims.Arith :=
  ⟨shwKind sh, tyWide t, d, true, fun m s l =>
    f m (Claims.num (tyWide t) s (shwKind sh) (regA s a) l) (Claims.num (tyWide t) s (shwKindB sh) (regB s b) l)
      (Claims.num (tyWide t) s (shwKindC sh) (regC s c) l)⟩

/-- A one-source instruction, with the types of its result and of its source. -/
def Claims.float1 (wD wA : Bool) (k : Kind) (d a : Reg) (traps : Bool) (f : FCtl → Nat → Nat × Flags) : Claims.Arith :=
  ⟨k, wD, d, traps, fun c s l => f c (Claims.num wA s k (regA s a) l)⟩

/-- The operands of an operation pass EffFlushIn first (R275). -/
def Claims.flushed (m : Fmt) (f : FCtl → Fmt → FVal → FVal → Nat × Flags) (c : FCtl) (x y : Nat) : Nat × Flags :=
  f c m (fpOperand c m x) (fpOperand c m y)

/-- The members of the floating group, by format (R289, R290). -/
def Claims.floatOp (f : FloatFn) (m : Fmt) (c : FCtl) (x y : Nat) : Nat × Flags :=
  match f with
  | .fadd => Claims.flushed m fpAddV c x y
  | .fsub => Claims.flushed m (fun c m a b => fpAddV c m a (fvNegate b)) c x y
  | .fmul => Claims.flushed m fpMulV c x y
  | .fdiv => Claims.flushed m fpDivV c x y
  | .fmin => fpMinMax c m false x y
  | .fmax => fpMinMax c m true x y
  | .fsqrt => fpSqrtV c m (fpOperand c m x)
  | .frnd => fpRnd c m x
  | .fclass => (fpClass m x, 0)

/-- The special functions, by format (R291). -/
def Claims.specOp (f : SpecFn) (m : Fmt) (c : FCtl) (x : Nat) : Nat × Flags :=
  let a := fpOperand c m x
  match f with
  | .frcp => fpRcpV c m a
  | .frsq => fpRsqV c m a
  | .fexp2 => fpExp2V c m a
  | .flog2 => fpLog2V c m a
  | .fsin => fpSinV c m a
  | .fcos => fpCosV c m a
  | .ftanh => fpTanhV c m a

/-- Every floating instruction. D's old value is read by QCVT and by FCVT to a packed type. -/
def Claims.arithOf : Instr → Option Claims.Arith
  | .fadd sh d a b => some (Claims.float2 sh d a b (Claims.floatOp .fadd .f32))
  | .fsub sh d a b => some (Claims.float2 sh d a b (Claims.floatOp .fsub .f32))
  | .fmul sh d a b => some (Claims.float2 sh d a b (Claims.floatOp .fmul .f32))
  | .fmin sh d a b => some (Claims.float2 sh d a b (Claims.floatOp .fmin .f32))
  | .fmax sh d a b => some (Claims.float2 sh d a b (Claims.floatOp .fmax .f32))
  | .fdiv sh d a b => some (Claims.float2 sh d a b (Claims.floatOp .fdiv .f32))
  | .fsqrt k d a => some (Claims.float1 false false k d a true (fun c x => Claims.floatOp .fsqrt .f32 c x 0))
  | .frnd k d a => some (Claims.float1 false false k d a true (fun c x => Claims.floatOp .frnd .f32 c x 0))
  | .fclass k d a => some (Claims.float1 false false k d a false (fun c x => Claims.floatOp .fclass .f32 c x 0))
  | .frcp k d a => some (Claims.float1 false false k d a true (Claims.specOp .frcp .f32))
  | .frsq k d a => some (Claims.float1 false false k d a true (Claims.specOp .frsq .f32))
  | .fexp2 k d a => some (Claims.float1 false false k d a true (Claims.specOp .fexp2 .f32))
  | .flog2 k d a => some (Claims.float1 false false k d a true (Claims.specOp .flog2 .f32))
  | .fsin k d a => some (Claims.float1 false false k d a true (Claims.specOp .fsin .f32))
  | .fcos k d a => some (Claims.float1 false false k d a true (Claims.specOp .fcos .f32))
  | .ftanh k d a => some (Claims.float1 false false k d a true (Claims.specOp .ftanh .f32))
  | .floatingGroup f t sh d a b =>
    some (if floatFnUnary f then
        Claims.float1 (tyWide t && f != .fclass) (tyWide t) (shwKind sh) d a (f != .fclass) (fun c x => Claims.floatOp f (fmtOf t) c x 0)
      else Claims.float2w t sh d a b (tyWide t) (Claims.floatOp f (fmtOf t)))
  | .specialFunctionGroup f t k d a => some (Claims.float1 (tyWide t) (tyWide t) k d a true (Claims.specOp f (fmtOf t)))
  | .fcmp c t sh d a b => some (Claims.float2w t sh d a b false (fun m x y => fcmpVal m c (fmtOf t) x y))
  | .ffma t sh d a b c => some (Claims.float3w t sh d a b c (fun m x y z =>
      fpFmaV m (fmtOf t) (fpOperand m (fmtOf t) x) (fpOperand m (fmtOf t) y) (fpOperand m (fmtOf t) z)))
  | .padd t sh d a b => some (Claims.float2w .f32 sh d a b false (fun m x y => paddVal m t x y))
  | .pmul t sh d a b => some (Claims.float2w .f32 sh d a b false (fun m x y => pmulVal m t x y))
  | .pfma t sh d a b c => some (Claims.float3w .f32 sh d a b c (fun m x y z => pfmaVal m t x y z))
  | .pdot t sh d a b c => some (Claims.float3w .f32 sh d a b c (fun m x y z => pdotVal m t x y z))
  | .dqcvt t sh d a b c => some (Claims.float3w .f32 sh d a b c (fun m x y z => dqcvtVal m t x y z))
  | .qcvt t sh d a b c => some
      ⟨shwKind sh, false, d, true, fun m s l =>
        qcvtVal m t (Claims.num false s (shwKind sh) (regA s a) l) (Claims.num false s (shwKindB sh) (regB s b) l)
          (Claims.num false s (shwKindC sh) (regC s c) l)
          ((match shwKind sh with | .vec => readV s.gang (regD s d) l | .scal => readS s.gang (regD s d)).toNat)⟩
  | .fcvt dst src sh d a c => some
      ⟨shwKind sh, tyWide dst, d, true, fun m s l =>
        fcvtVal m dst src (Claims.num (tyWide src) s (shwKind sh) (regA s a) l) (Claims.num false s (shwKindC sh) (regC s c) l)
          ((match shwKind sh with | .vec => readV s.gang (regD s d) l | .scal => readS s.gang (regD s d)).toNat)⟩
  | .fcvti dst src k d a => some (Claims.float1 (tyWide dst) (tyWide src) k d a true (fun m x => fcvtiVal m dst src x))
  | .icvtf dst src k d a =>
    some (Claims.float1 (tyWide dst) (tyWide src) k d a true (fun m x => fpOfInt m (fmtOf dst) (intRead src x)))
  | .cvt dst src k d a => some (Claims.float1 (tyWide dst) (tyWide src) k d a false (fun m x => (cvtVal m.sat dst src x, 0)))
  | _ => none

/-- The lanes an instruction computes: each active lane, or the scalar as lane 0. -/
def Claims.lane (s : State) (k : Kind) (l : Nat) : Prop := match k with | .vec => l < 96 ∧ active s l = true | .scal => l = 0

/-- R275: where no computed lane raises a flag whose trap is enabled, a floating instruction writes every lane's result, ORs its flags
into the sticky flags, and changes nothing else. -/
def Obligations.FloatingResults : Prop :=
  ∀ i o, Claims.arithOf i = some o → ∀ s s1, Issues i false s s1 →
    (o.traps = true → ∀ l, Claims.lane s1 o.k l → (o.val (effCtl s1.gang) s1 l).2 &&& (effCtl s1.gang).te = 0) →
    ∃ t, Completes i s t ∧ t.bareF = s1.bareF ∧
      WroteW o.wide s1 t o.k (regD s1 o.d) (fun l => BitVec.ofNat 64 (o.val (effCtl s1.gang) s1 l).1) ∧
      Raised s1 t o.k (fun l => (o.val (effCtl s1.gang) s1 l).2)

/-- R272: where a lane raises a flag whose trap is enabled, FPTrap is taken at the instruction with nothing written: its lanes are
those with an enabled flag raised, its reason the union of their enabled flags, and FADDR the lowest of them, or 0 for a scalar. -/
def Obligations.FloatingTraps : Prop :=
  ∀ i o, Claims.arithOf i = some o → o.traps = true → ∀ s s1, Issues i false s s1 → ∀ l, Claims.lane s1 o.k l →
    (o.val (effCtl s1.gang) s1 l).2 &&& (effCtl s1.gang).te ≠ 0 →
    ∃ x : Trap, exec i s = .next (stepDone (trapEntry (unpop s s1) x s.gang.arm.pc)) ∧ x.cause = 13 ∧ x.recs = [] ∧
      (∀ b, x.reason.testBit b = true ↔
        ∃ l, Claims.lane s1 o.k l ∧ ((o.val (effCtl s1.gang) s1 l).2 &&& (effCtl s1.gang).te).getLsbD b = true) ∧
      (match o.k with
       | .vec => (∀ l, l < 96 → (x.lanes.getLsbD l = true ↔
             active s1 l = true ∧ (o.val (effCtl s1.gang) s1 l).2 &&& (effCtl s1.gang).te ≠ 0)) ∧
           x.lanes.getLsbD x.faddr = true ∧ ∀ l, l < x.faddr → x.lanes.getLsbD l = false
       | .scal => x.faddr = 0 ∧ x.lanes = s1.gang.arm.mask)

/-- R35, R264, R273: the effective controls. PR replaces the rounding mode, unless its Rm is 0, the flush bits of every format, the trap
enables and saturation; FPC gives the rest. -/
def Claims.EffectiveControls : Prop :=
  ∀ g : Gang,
    (g.arm.pr = none → (effCtl g).sat = false ∧ (effCtl g).te = g.fpc.extractLsb' 24 5 ∧ (effCtl g).fout = g.fpc.extractLsb' 18 6 ∧
      (effCtl g).fin = g.fpc.extractLsb' 12 6 ∧
      (effCtl g).rm = (if g.fpc.extractLsb' 0 2 = 0 then .rne else if g.fpc.extractLsb' 0 2 = 1 then .rtz
        else if g.fpc.extractLsb' 0 2 = 2 then .rdn else .rup)) ∧
    (∀ p, g.arm.pr = some p →
      (effCtl g).sat = p.sat ∧
      (effCtl g).te = (if p.xo = true then p.xe else g.fpc.extractLsb' 24 5) ∧
      (effCtl g).fin = (match p.fzo with | .on => 63 | .off => 0 | _ => g.fpc.extractLsb' 12 6) ∧
      (effCtl g).fout = (match p.fzr with | .on => 63 | .off => 0 | _ => g.fpc.extractLsb' 18 6) ∧
      (effCtl g).rm = (match p.rm with
        | .rne => .rne
        | .rtz => .rtz
        | .rdn => .rdn
        | .rup => .rup
        | .asFpc => if g.fpc.extractLsb' 0 2 = 0 then .rne else if g.fpc.extractLsb' 0 2 = 1 then .rtz
            else if g.fpc.extractLsb' 0 2 = 2 then .rdn else .rup))

/-- The rational value of a finite operand. -/
def Claims.value (neg : Bool) (m : Nat) (e : Int) : ℚ := (if neg then -1 else 1) * (m : ℚ) * (2 : ℚ) ^ e

/-- The values that a format holds. -/
def Claims.holdsValue (f : Fmt) (v : ℚ) : Prop := ∃ bits neg m e, fpDecode f bits = .fin neg m e ∧ v = Claims.value neg m e

/-- A magnitude rounded to an integer by a mode, below a sign (R264). -/
noncomputable def Claims.roundInt (rm : RMode) (neg : Bool) (k : ℝ) : ℕ :=
  let n := ⌊k⌋₊
  let up : Prop := match rm with
    | .rne => k - n > 1 / 2 ∨ (k - n = 1 / 2 ∧ n % 2 = 1)
    | .rtz => False
    | .rdn => neg = true ∧ k ≠ n
    | .rup => neg = false ∧ k ≠ n
  haveI : Decidable up := Classical.propDecidable _
  if up then n + 1 else n

/-- `bits` encodes the value of magnitude `y` and sign `neg`. -/
def Claims.encodes (f : Fmt) (neg : Bool) (y : ℝ) (bits : Nat) : Prop :=
  bits < 2 ^ fmtWidth f ∧ ∃ m e, fpDecode f bits = .fin neg m e ∧ (m : ℝ) * (2 : ℝ) ^ e = y

/-- Round(x, f, m) of R265 with its flags; `zneg` is the sign of an exact zero. -/
def Claims.Rounds (c : FCtl) (f : Fmt) (zneg : Bool) (x : ℝ) (r : Nat × Flags) : Prop :=
  (x = 0 → r = (signBits f zneg, 0)) ∧
  ∀ neg : Bool, (if neg = true then x < 0 else 0 < x) →
    let grid : ℝ := (2 : ℝ) ^ (Int.log 2 |x| - (fmtFrac f : ℤ))
    let y : ℝ := Claims.roundInt c.rm neg (|x| / grid) * grid
    let maxf : ℝ := (maxfMant f).1 * (2 : ℝ) ^ (maxfMant f).2
    let minn : ℝ := (2 : ℝ) ^ (1 - (fmtBias f : ℤ))
    let sub : ℝ := (2 : ℝ) ^ (1 - (fmtBias f : ℤ) - (fmtFrac f : ℤ))
    let z : ℝ := Claims.roundInt c.rm neg (|x| / sub) * sub
    (maxf < y → r.2 = flagOF ||| flagNX ∧
      r.1 = if (c.rm = .rne ∨ (c.rm = .rdn ∧ neg = true) ∨ (c.rm = .rup ∧ neg = false)) ∧ c.sat = false then infBits f neg else maxfBits f neg) ∧
    (y < minn → flushOut c f = true → r = (signBits f neg, flagUF ||| flagNX)) ∧
    (y < minn → flushOut c f = false → Claims.encodes f neg z r.1 ∧ (z = |x| → r.2 = 0) ∧ (z ≠ |x| → r.2 = flagUF ||| flagNX)) ∧
    (minn ≤ y → y ≤ maxf → Claims.encodes f neg y r.1 ∧ (y = |x| → r.2 = 0) ∧ (y ≠ |x| → r.2 = flagNX))

/-- The real value of a finite operand. -/
noncomputable def Claims.real (neg : Bool) (m : Nat) (e : Int) : ℝ := (if neg then -1 else 1) * (m : ℝ) * (2 : ℝ) ^ e

/-- R264, R265: rounding an exact value gives Round's result and flags. One no greater in magnitude than the format's greatest gives a value of
the format: nearest with ties to the even code; the nearest between it and 0; not greater; not less. -/
def Claims.RoundingModes : Prop :=
  (∀ (c : FCtl) (f : Fmt) (neg : Bool) (m : Nat) (e : Int), Claims.Rounds c f neg (Claims.real neg m e) (fpRound c f ⟨neg, m, e, false⟩)) ∧
  (∀ (c : FCtl) (f : Fmt) (neg : Bool) (m : Nat) (e : Int), flushOut c f = false →
    (m : ℚ) * (2 : ℚ) ^ e ≤ ((maxfMant f).1 : ℚ) * (2 : ℚ) ^ (maxfMant f).2 →
    ∃ n' m' e', fpDecode f (fpRound c f ⟨neg, m, e, false⟩).1 = .fin n' m' e' ∧
      let x := Claims.value neg m e
      let r := Claims.value n' m' e'
      ((fpRound c f ⟨neg, m, e, false⟩).2 &&& flagNX = 0 ↔ r = x) ∧
      (∀ v, Claims.holdsValue f v → match c.rm with
        | .rne => |x - r| ≤ |x - v| ∧ (|x - r| = |x - v| → v ≠ r → (fpRound c f ⟨neg, m, e, false⟩).1 % 2 = 0)
        | .rtz => (0 ≤ x → 0 ≤ r ∧ r ≤ x ∧ (v ≤ x → v ≤ r)) ∧ (x ≤ 0 → r ≤ 0 ∧ x ≤ r ∧ (x ≤ v → r ≤ v))
        | .rdn => r ≤ x ∧ (v ≤ x → v ≤ r)
        | .rup => x ≤ r ∧ (x ≤ v → r ≤ v)))

/-- The sign of an exact zero sum: its terms' where both are zeros of one sign, else − toward −∞ alone (R265). -/
def Claims.zeroSign (rm : RMode) (a b both : Bool) : Bool := if both && a == b then a else decide (rm = .rdn)

/-- R286, R289, R291: on finite operands FADD, FSUB, FMUL, FDIV, FSQRT, FFMA, FRCP and FRSQ round the exact result, once. -/
def Claims.FiniteArithmetic : Prop :=
  ∀ (c : FCtl) (f : Fmt) (n1 n2 n3 : Bool) (m1 m2 m3 : Nat) (e1 e2 e3 : Int),
    let x := Claims.real n1 m1 e1
    let y := Claims.real n2 m2 e2
    let w := Claims.real n3 m3 e3
    Claims.Rounds c f (Claims.zeroSign c.rm n1 n2 (m1 == 0 && m2 == 0)) (x + y) (fpAddV c f (.fin n1 m1 e1) (.fin n2 m2 e2)) ∧
    Claims.Rounds c f (Claims.zeroSign c.rm n1 (!n2) (m1 == 0 && m2 == 0)) (x - y)
      (fpAddV c f (.fin n1 m1 e1) (fvNegate (.fin n2 m2 e2))) ∧
    Claims.Rounds c f (n1 != n2) (x * y) (fpMulV c f (.fin n1 m1 e1) (.fin n2 m2 e2)) ∧
    (m2 ≠ 0 → Claims.Rounds c f (n1 != n2) (x / y) (fpDivV c f (.fin n1 m1 e1) (.fin n2 m2 e2))) ∧
    (n1 = false → m1 ≠ 0 → Claims.Rounds c f false (Real.sqrt x) (fpSqrtV c f (.fin n1 m1 e1))) ∧
    Claims.Rounds c f (Claims.zeroSign c.rm (n1 != n2) n3 ((m1 == 0 || m2 == 0) && m3 == 0)) (x * y + w)
      (fpFmaV c f (.fin n1 m1 e1) (.fin n2 m2 e2) (.fin n3 m3 e3)) ∧
    (m1 ≠ 0 → Claims.Rounds c f n1 (1 / x) (fpRcpV c f (.fin n1 m1 e1))) ∧
    (n1 = false → m1 ≠ 0 → Claims.Rounds c f false (1 / Real.sqrt x) (fpRsqV c f (.fin n1 m1 e1)))

/-- A finite value rounded to an integer by a mode. -/
noncomputable def Claims.integer (rm : RMode) (neg : Bool) (x : ℝ) : ℤ :=
  if neg then -(Claims.roundInt rm neg |x| : ℤ) else (Claims.roundInt rm neg |x| : ℤ)

/-- R267, R290: conversions of finite values: between formats and from integers with one rounding; to integers by the mode, or to the nearest end
of the range with invalid; FRND to an integral value without a flag. -/
def Claims.FiniteConversions : Prop :=
  (∀ c src dst x n m e, fpOperand c src x = .fin n m e → Claims.Rounds c dst n (Claims.real n m e) (fpConvert c src dst x)) ∧
  (∀ c f (v : Int), Claims.Rounds c f false (v : ℝ) (fpOfInt c f v)) ∧
  (∀ c f lo hi x n m e, fpOperand c f x = .fin n m e → lo ≤ hi →
    let k := Claims.integer c.rm n (Claims.real n m e)
    (k < lo → fpToInt c f lo hi x = (lo, flagNV)) ∧ (hi < k → fpToInt c f lo hi x = (hi, flagNV)) ∧
    (lo ≤ k → k ≤ hi → (fpToInt c f lo hi x).1 = k ∧ ((k : ℝ) = Claims.real n m e → (fpToInt c f lo hi x).2 = 0) ∧
      ((k : ℝ) ≠ Claims.real n m e → (fpToInt c f lo hi x).2 = flagNX))) ∧
  (∀ c f lo hi x, (isNaN (fpOperand c f x) = true → fpToInt c f lo hi x = (0, flagNV)) ∧
    ∀ n, fpOperand c f x = .inf n → fpToInt c f lo hi x = (if n then lo else hi, flagNV)) ∧
  (∀ c f x n m e, fpOperand c f x = .fin n m e → (fpRnd c f x).2 = 0 ∧
    ∃ fl, Claims.Rounds { c with rm := .rtz } f n (Claims.integer c.rm n (Claims.real n m e) : ℝ) ((fpRnd c f x).1, fl))

/-- Every element of a packed result is `op`'s, and the flags are those of all (R270). -/
def Claims.elementwise (t : Ty) (r : Nat × Flags) (op : Nat → Nat × Flags) : Prop :=
  let n := fmtWidth (fmtOf t)
  r.1 < 2 ^ 32 ∧ (∀ j, j < 32 / n → elemGet n r.1 j = (op j).1 % 2 ^ n) ∧
  ∀ b, r.2.getLsbD b = true ↔ ∃ j, j < 32 / n ∧ (op j).2.getLsbD b = true

/-- The same for elements of .i8x4: no flag, and each wrapped, or clamped under Sat (R294). -/
def Claims.bytewise (sat : Bool) (r : Nat × Flags) (op : Nat → Int) : Prop :=
  r.2 = 0 ∧ r.1 < 2 ^ 32 ∧ ∀ j, j < 4 → elemGet 8 r.1 j = ((if sat then Max.max (-128) (Min.min 127 (op j)) else op j) % 256).toNat

/-- R294, R295: PADD, PMUL and PFMA work element by element; PDOT rounds the exact sum of C and the products once, and is exact in .i8x4. -/
def Claims.PackedResults : Prop :=
  (∀ c t x y z, tyIsPackedFloat t = true →
    let m := fmtOf t
    let el (v j : Nat) : FVal := fpOperand c m (elemGet (fmtWidth m) v j)
    Claims.elementwise t (paddVal c t x y) (fun j => fpAddV c m (el x j) (el y j)) ∧
    Claims.elementwise t (pmulVal c t x y) (fun j => fpMulV c m (el x j) (el y j)) ∧
    Claims.elementwise t (pfmaVal c t x y z) (fun j => fpFmaV c m (el x j) (el y j) (el z j)) ∧
    ∀ (n k : Nat → Bool) (a b : Nat → Nat) (d e : Nat → Int) (n3 : Bool) (m3 : Nat) (e3 : Int),
      (∀ j, j < 32 / fmtWidth m → el x j = .fin (n j) (a j) (d j) ∧ el y j = .fin (k j) (b j) (e j)) →
      fpOperand c .f32 z = .fin n3 m3 e3 →
      let sum := Claims.real n3 m3 e3 +
        ((List.range (32 / fmtWidth m)).map (fun j => Claims.real (n j) (a j) (d j) * Claims.real (k j) (b j) (e j))).sum
      sum ≠ 0 → Claims.Rounds c .f32 false sum (pdotVal c t x y z)) ∧
  (∀ c x y z,
    let el (v j : Nat) : Int := (BitVec.ofNat 8 (v / 2 ^ (8 * j))).toInt
    Claims.bytewise c.sat (paddVal c .i8x4 x y) (fun j => el x j + el y j) ∧
    Claims.bytewise c.sat (pmulVal c .i8x4 x y) (fun j => el x j * el y j) ∧
    let sum := (BitVec.ofNat 32 z).toInt + el x 0 * el y 0 + el x 1 * el y 1 + el x 2 * el y 2 + el x 3 * el y 3
    pdotVal c .i8x4 x y z = ((BitVec.ofInt 32 (if c.sat then Max.max (-(2 ^ 31)) (Min.min (2 ^ 31 - 1) sum) else sum)).toNat, 0))

/-- R296, R297: QCVT and DQCVT of finite operands under a header of their type. QCVT rounds A / H to an integer, adds Z, and goes to the nearest
end of the range with invalid; other fields of D stay. DQCVT rounds (q − Z) × H; the sign of its zero is the model's (log entry 19). -/
def Claims.QuantizedResults : Prop :=
  (∀ c t x hdr z old n1 m1 e1 n2 m2 e2, tyIsRecord t = true → recBad t hdr = false → fpOperand c .f32 x = .fin n1 m1 e1 →
    fpDecode .f16 (hdr % 2 ^ 16) = .fin n2 m2 e2 → m2 ≠ 0 →
    let v := Claims.real n1 m1 e1 / Claims.real n2 m2 e2
    let k := Claims.integer c.rm (n1 != n2) v
    let q := k + recZ hdr
    let lo := codeMin t (recSg hdr)
    let hi := codeMax t (recSg hdr)
    let r := qcvtVal c t x hdr z old
    elemGet (recBits t) r.1 (codePick t z) = (Max.max lo (Min.min hi q) % 2 ^ recBits t).toNat ∧
    (∀ j, j ≠ codePick t z → elemGet (recBits t) r.1 j = elemGet (recBits t) old j) ∧
    (q < lo ∨ hi < q → r.2 = flagNV) ∧ (lo ≤ q → q ≤ hi → ((k : ℝ) = v → r.2 = 0) ∧ ((k : ℝ) ≠ v → r.2 = flagNX))) ∧
  (∀ c t x hdr z n m e, tyIsRecord t = true → recBad t hdr = false → fpDecode .f16 (hdr % 2 ^ 16) = .fin n m e →
    let u := elemGet (recBits t) x (codePick t z)
    let q : Int := if recSg hdr = true ∧ 2 ^ (recBits t - 1) ≤ u then (u : Int) - 2 ^ recBits t else u
    Claims.Rounds c .f32 (n != decide (q < recZ hdr)) (((q - recZ hdr : Int) : ℝ) * Claims.real n m e) (dqcvtVal c t x hdr z))

/-- R269, R289 to R291: operands out of the ordinary, in every format. A NaN operand gives a quiet NaN; ∞ − ∞, 0 × ∞, 0 / 0, ∞ / ∞ and
the root of a negative value are invalid and give the canonical NaN; x / 0 is an infinity of the quotient's sign with divide-by-zero.
Under saturation an infinite result is the greatest finite value of its sign (R266); E4M3 has its NaN for infinity (R257). -/
def Claims.SpecialOperands : Prop :=
  ∀ (c : FCtl) (f : Fmt),
    let inf (n : Bool) : Nat := if c.sat = true then maxfBits f n else infBits f n
    (∀ n1 n2, fpAddV c f (.inf n1) (.inf n2) = if n1 = n2 then (inf n1, 0) else (canonNaN f, flagNV)) ∧
    (∀ n1 n2 e, fpMulV c f (.fin n1 0 e) (.inf n2) = (canonNaN f, flagNV) ∧ fpMulV c f (.inf n2) (.fin n1 0 e) = (canonNaN f, flagNV)) ∧
    (∀ n1 n2 m e, m ≠ 0 → fpMulV c f (.fin n1 m e) (.inf n2) = (inf (n1 != n2), 0)) ∧
    (∀ n1 n2 e e', fpDivV c f (.fin n1 0 e) (.fin n2 0 e') = (canonNaN f, flagNV)) ∧
    (∀ n1 n2, fpDivV c f (.inf n1) (.inf n2) = (canonNaN f, flagNV)) ∧
    (∀ n1 n2 m e e', m ≠ 0 → fpDivV c f (.fin n1 m e) (.fin n2 0 e') = (inf (n1 != n2), flagDZ)) ∧
    (∀ n1 n2 m e, fpDivV c f (.fin n1 m e) (.inf n2) = (signBits f (n1 != n2), 0)) ∧
    (∀ m e, m ≠ 0 → fpSqrtV c f (.fin true m e) = (canonNaN f, flagNV)) ∧
    (∀ n e, fpSqrtV c f (.fin n 0 e) = (signBits f n, 0) ∧ fpRcpV c f (.fin n 0 e) = (inf n, flagDZ) ∧
      fpRsqV c f (.fin n 0 e) = (inf n, flagDZ)) ∧
    (∀ n, fpRcpV c f (.inf n) = (signBits f n, 0)) ∧
    (∀ n q fr v, (fpAddV c f (.nan n q fr) v).1 = nanResult f f n fr) ∧
    (∀ n q fr v, isNaN v = false → fpAddV c f v (.nan n q fr) = (nanResult f f n fr, if q = true then 0 else flagNV))

/-- R298: RDFLG writes the masked sticky flags of each active lane, or of the scalar set; CLFLG clears them. -/
def Obligations.FlagInstructions : Prop :=
  (∀ k d mask s s1, Issues (.rdflg k d mask) false s s1 →
    ∃ t, Completes (.rdflg k d mask) s t ∧ t.bare = s1.bare ∧ Wrote s1 t k d.toNat (fun l =>
      ((match k with | .vec => smapGet 0 s1.gang.vflags l | .scal => s1.gang.sflags) &&& mask).setWidth 32)) ∧
  (∀ k mask s s1, Issues (.clflg k mask) false s s1 →
    ∃ t, Completes (.clflg k mask) s t ∧ t.bareF = s1.bareF ∧ t.gang.v = s1.gang.v ∧ t.gang.s = s1.gang.s ∧ t.gang.arm = s1.gang.arm ∧
      (match k with
       | .vec => t.gang.sflags = s1.gang.sflags ∧ ∀ l, l < 96 → smapGet 0 t.gang.vflags l =
           if active s1 l = true then smapGet 0 s1.gang.vflags l &&& ~~~mask else smapGet 0 s1.gang.vflags l
       | .scal => t.gang.vflags = s1.gang.vflags ∧ t.gang.sflags = s1.gang.sflags &&& ~~~mask))

/-! ### Moves, lane operations, the work identifier, counters, descriptors and intervals -/

/-- Two scalar results in turn. -/
def Claims.wroteS2 (s t : State) (d : Nat) (x y : Word) : Prop := ∃ u, WroteS s u d x ∧ WroteS u t (d + 1) y

/-- The active lanes, ascending. -/
def Claims.lanes (s : State) : List Nat := (List.range 96).filter (fun l => active s l)

/-- The operation of RED and SCAN on two values, and its identity (R368). -/
def Claims.laneOp (f : LaneOp) (x y : Word) : Word :=
  match f with
  | .add => x + y
  | .min => if x.slt y then x else y
  | .max => if x.slt y then y else x

/-- The identity of an operation (R368). -/
def Claims.laneIdentity : LaneOp → Word
  | .add => 0
  | .min => BitVec.ofNat 32 (2 ^ 31 - 1)
  | .max => BitVec.ofNat 32 (2 ^ 31)

/-- R285: MOV and MOVS, and the lane moves. EXT.get takes a lane of a vector, 0 past the width; EXT.put sets one active lane. -/
def Claims.MoveResults : Prop :=
  (∀ k d a s s1, Issues (.mov k d a) false s s1 →
    ∃ t, Completes (.mov k d a) s t ∧ t.bare = s1.bare ∧ Wrote s1 t k (regD s1 d) (fun l => operand s1 k (regA s1 a) l)) ∧
  (∀ d b s s1, Issues (.movs d b) false s s1 →
    ∃ t, Completes (.movs d b) s t ∧ t.bare = s1.bare ∧ WroteV s1 t (regD s1 d) (fun _ => readS s1.gang (regB s1 b))) ∧
  (∀ d a b s s1, Issues (.extGet d a b) false s s1 →
    ∃ t, Completes (.extGet d a b) s t ∧ t.bare = s1.bare ∧
      let n := (readS s1.gang b.toNat).toNat % 128
      WroteS s1 t d.toNat (if s1.gang.declared ≤ n then 0 else operand s1 .vec a.toNat n)) ∧
  (∀ d a b s s1, Issues (.extPut d a b) false s s1 →
    ∃ t, Completes (.extPut d a b) s t ∧ t.bare = s1.bare ∧ t.gang.s = s1.gang.s ∧ t.gang.arm.mask = s1.gang.arm.mask ∧
      ∀ r l, l < 96 → readV t.gang r l =
        if r = d.toNat ∧ l = (readS s1.gang b.toNat).toNat % 128 ∧ active s1 l = true then readS s1.gang a.toNat
        else readV s1.gang r l)

/-- R367, R368: VOTE and RED combine the active lanes into a scalar; VOTE.ballot writes the three words of the lanes that vote true.
SCAN gives each active lane the operation over the active lanes up to it. -/
def Claims.LaneReductions : Prop :=
  (∀ d a s s1, Issues (.vote .any d a) false s s1 →
    ∃ t, Completes (.vote .any d a) s t ∧ t.bare = s1.bare ∧
      WroteS s1 t d.toNat (if (Claims.lanes s1).any (fun l => operand s1 .vec a.toNat l != 0) then 1 else 0)) ∧
  (∀ d a s s1, Issues (.vote .all d a) false s s1 →
    ∃ t, Completes (.vote .all d a) s t ∧ t.bare = s1.bare ∧
      WroteS s1 t d.toNat 
        (if s1.gang.arm.mask != 0 && (Claims.lanes s1).all (fun l => operand s1 .vec a.toNat l != 0) then 1 else 0)) ∧
  (∀ d a s s1, Issues (.vote .ballot d a) false s s1 →
    ∃ t m, Completes (.vote .ballot d a) s t ∧ t.bare = s1.bare ∧
      (∀ l, l < 96 → (m : LaneMask).getLsbD l = (active s1 l && operand s1 .vec a.toNat l != 0)) ∧
      ∃ u v, WroteS s1 u d.toNat (m.extractLsb' 0 32) ∧ WroteS u v (d.toNat + 1) (m.extractLsb' 32 32) ∧
        WroteS v t (d.toNat + 2) (m.extractLsb' 64 32)) ∧
  (∀ f d a s s1, Issues (.red f d a) false s s1 →
    ∃ t, Completes (.red f d a) s t ∧ t.bare = s1.bare ∧
      WroteS s1 t d.toNat ((Claims.lanes s1).foldl (fun x l => Claims.laneOp f x (operand s1 .vec a.toNat l)) (Claims.laneIdentity f))) ∧
  (∀ f d a s s1, Issues (.scan f d a) false s s1 →
    ∃ t, Completes (.scan f d a) s t ∧ t.bare = s1.bare ∧
      WroteV s1 t d.toNat (fun l => ((Claims.lanes s1).filter (fun j => decide (j ≤ l))).foldl
        (fun x j => Claims.laneOp f x (operand s1 .vec a.toNat j)) (Claims.laneIdentity f)))

/-- The effect of a shuffle from the lanes `src`: a lane whose source is no active lane of the arm takes 0 and GSTAT.SHX is set (R369). -/
def Claims.shuffled (s t : State) (d a : Nat) (src : Nat → Int) : Prop :=
  let good (l : Nat) : Bool := decide (0 ≤ src l) && decide (src l < s.gang.width) && active s (src l).toNat
  t.bare = { s.bare with gang := { s.bare.gang with shx := s.gang.shx || (Claims.lanes s).any (fun l => !good l) } } ∧
    WroteV s t d (fun l => if good l then operand s .vec a (src l).toNat else 0)

/-- R369: SHFL from lane B, from lanes a number below or above, and from the lane whose number differs by an XOR; immediate forms alike. -/
def Claims.ShuffleResults : Prop :=
  (∀ d a b s s1, Issues (.shfl .idx d a b) false s s1 →
    ∃ t, Completes (.shfl .idx d a b) s t ∧ Claims.shuffled s1 t d.toNat a.toNat (fun l => (operand s1 .vec b.toNat l).toInt)) ∧
  (∀ d a b s s1, Issues (.shfl .up d a b) false s s1 →
    ∃ t, Completes (.shfl .up d a b) s t ∧
      Claims.shuffled s1 t d.toNat a.toNat (fun l => (l : Int) - (readS s1.gang b.toNat).toNat)) ∧
  (∀ d a b s s1, Issues (.shfl .down d a b) false s s1 →
    ∃ t, Completes (.shfl .down d a b) s t ∧
      Claims.shuffled s1 t d.toNat a.toNat (fun l => (l : Int) + (readS s1.gang b.toNat).toNat)) ∧
  (∀ d a b s s1, Issues (.shfl .xor d a b) false s s1 →
    ∃ t, Completes (.shfl .xor d a b) s t ∧
      Claims.shuffled s1 t d.toNat a.toNat (fun l => ((l ^^^ (readS s1.gang b.toNat).toNat : Nat) : Int))) ∧
  (∀ d a imm s s1, Issues (.shflImm d a imm) false s s1 →
    ∃ t, Completes (.shflImm d a imm) s t ∧ Claims.shuffled s1 t d.toNat a.toNat (fun l => (l : Int) + imm.toInt)) ∧
  (∀ d a m s s1, Issues (.shflXorImm d a m) false s s1 →
    ∃ t, Completes (.shflXorImm d a m) s t ∧ Claims.shuffled s1 t d.toNat a.toNat (fun l => ((l ^^^ m.toNat : Nat) : Int)))

/-- The value of work-identifier field `f` of lane `l`: field 0 is the lane, the others are the gang's (R350). -/
def Claims.field (g : Gang) (f l : Nat) : Nat := if f = 0 then l else g.wval.getD f 0

/-- R350, R370, R371: WIDR of a field and GWID's numbers of the gang. R408: RDTIME. -/
def Claims.IdentityResults : Prop :=
  (∀ k d imm s s1, imm.toNat < 6 → Issues (.widr k d imm) false s s1 →
    ∃ t, Completes (.widr k d imm) s t ∧ t.bare = s1.bare ∧
      Wrote s1 t k d.toNat (fun l => BitVec.ofNat 32 (Claims.field s1.gang imm.toNat l))) ∧
  (∀ k d (imm : BitVec 8) s s1, imm = 6 ∨ imm = 7 → Issues (.widr k d imm) false s s1 →
    ∃ t, Completes (.widr k d imm) s t ∧ t.bare = s1.bare ∧
      Wrote s1 t k d.toNat (fun l => BitVec.ofNat 32 (widBits s1.gang l / (if imm = 6 then 1 else 2 ^ 32)))) ∧
  (∀ d s s1, Issues (.gwidWidth d) false s s1 →
    ∃ t, Completes (.gwidWidth d) s t ∧ t.bare = s1.bare ∧ WroteS s1 t d.toNat (BitVec.ofNat 32 s1.gang.width)) ∧
  (∀ d s s1, Issues (.gwidLive d) false s s1 →
    ∃ t, Completes (.gwidLive d) s t ∧ t.bare = s1.bare ∧ WroteS s1 t d.toNat (BitVec.ofNat 32 (Claims.lanes s1).length)) ∧
  (∀ d s s1, Issues (.gwidSlices d) false s s1 →
    ∃ t, Completes (.gwidSlices d) s t ∧ t.bare = s1.bare ∧ WroteS s1 t d.toNat
      (BitVec.ofNat 32 ((List.range 12).filter (fun k => (List.range 8).any (fun j => active s1 (8 * k + j)))).length)) ∧
  (∀ d s s1, Issues (.gwidSlot d) false s s1 →
    ∃ t, Completes (.gwidSlot d) s t ∧ t.bare = s1.bare ∧ WroteS s1 t d.toNat (BitVec.ofNat 32 s1.gang.arm.slot)) ∧
  (∀ d s s1, Issues (.gwidPack d) false s s1 →
    ∃ t, Completes (.gwidPack d) s t ∧ t.bare = s1.bare ∧ WroteS s1 t d.toNat
      (BitVec.ofNat 32 (s1.gang.width + 2 ^ 8 * (Claims.lanes s1).length +
        2 ^ 16 * ((List.range 12).filter (fun k => (List.range 8).any (fun j => active s1 (8 * k + j)))).length +
        2 ^ 20 * s1.gang.arm.slot + (if s1.gang.partner.isSome = true then 2 ^ 21 else 0)))) ∧
  (∀ d s s1, Issues (.rdtime d) false s s1 →
    ∃ t, Completes (.rdtime d) s t ∧ t.bare = s1.bare ∧
      Claims.wroteS2 s1 t d.toNat (BitVec.ofNat 32 s1.time) (BitVec.ofNat 32 (s1.time / 2 ^ 32)))

/-- R175: CSET sets a counter and its issue count, and traps Hazard in debug-hazard mode while an operation is outstanding on it; CGET
reads a counter. -/
def Claims.CounterMoves : Prop :=
  (∀ i (c : CtrNo) (k : State → BitVec 16),
    ((∃ v, i = .cset c v ∧ k = fun _ => v) ∨ (∃ r, i = .csetReg c r ∧ k = fun s => (readS s.gang r.toNat).extractLsb' 0 16)) →
    ∀ s s1, Issues i false s s1 →
      ((s1.gang.gmode.getLsbD 0 = true ∧ ∃ o ∈ s1.gang.ops, o.ctr = c.toNat) →
        exec i s = .next (stepDone (trapEntry (unpop s s1) ⟨12, 0, c.toNat, s1.gang.arm.mask, []⟩ s.gang.arm.pc))) ∧
      (¬(s1.gang.gmode.getLsbD 0 = true ∧ ∃ o ∈ s1.gang.ops, o.ctr = c.toNat) →
        ∃ t, Completes i s t ∧ t = { s1 with gang := { s1.gang with c := t.gang.c, issueCnt := t.gang.issueCnt } } ∧
          ∀ n, smapGet 0 t.gang.c n = (if n = c.toNat then k s1 else smapGet 0 s1.gang.c n) ∧
            smapGet 0 t.gang.issueCnt n = (if n = c.toNat then k s1 else smapGet 0 s1.gang.issueCnt n))) ∧
  (∀ d c s s1, Issues (.cget d c) false s s1 →
    ∃ t, Completes (.cget d c) s t ∧ t.bare = s1.bare ∧ WroteS s1 t d.toNat ((smapGet 0 s1.gang.c c.toNat).setWidth 32))

/-- The descriptor that ADSET makes of a base, an extent and an attribute word (R232, R248): its reserved bits are 0. -/
def Claims.descriptor (base : DWord) (ext attr : Word) : BitVec 128 :=
  base.setWidth 128 ||| (ext.setWidth 128 <<< 64) ||| ((attr.setWidth 22).setWidth 128 <<< 96)

/-- R248, R249: ADSET writes a descriptor register, ADGET reads a field of one; both stall while an ADLD owes the register. -/
def Claims.DescriptorMoves : Prop :=
  (∀ i (n : DescNo) (e : Reg) (attr : State → Word),
    ((∃ w, i = .adset n e w ∧ attr = fun _ => w) ∨ (i = .adsetR n e ∧ attr = fun s => readS s.gang (e.toNat + 3))) →
    ∀ s s1, Issues i false s s1 → owedDesc s1.gang n.toNat = false →
      ∃ t, Completes i s t ∧ t = { s1 with gang := { s1.gang with a := t.gang.a } } ∧
        ∀ m, readA t.gang m = if m = n.toNat then
          Claims.descriptor (readS64 s1.gang e.toNat) (readS s1.gang (e.toNat + 2)) (attr s1) else readA s1.gang m) ∧
  (∀ d n s s1, Issues (.adget .base d n) false s s1 → owedDesc s1.gang n.toNat = false →
    ∃ t, Completes (.adget .base d n) s t ∧ t.bare = s1.bare ∧
      Claims.wroteS2 s1 t d.toNat ((readA s1.gang n.toNat).extractLsb' 0 32) ((readA s1.gang n.toNat).extractLsb' 32 32)) ∧
  (∀ d n s s1, Issues (.adget .ext d n) false s s1 → owedDesc s1.gang n.toNat = false →
    ∃ t, Completes (.adget .ext d n) s t ∧ t.bare = s1.bare ∧ WroteS s1 t d.toNat ((readA s1.gang n.toNat).extractLsb' 64 32)) ∧
  (∀ d n s s1, Issues (.adget .attr d n) false s s1 → owedDesc s1.gang n.toNat = false →
    ∃ t, Completes (.adget .attr d n) s t ∧ t.bare = s1.bare ∧ WroteS s1 t d.toNat ((readA s1.gang n.toNat).extractLsb' 96 32))

/-- R251, R252: the interval instructions. IWDN widens or sets a shadow; ISET narrows it where every value lies inside and traps
IntervalAssert otherwise; IGET reads both bounds; ITOP forgets. None writes its register; the mask words s61 to s63 are registers like any. -/
def Obligations.IntervalInstructions : Prop :=
  (∀ k d b c s s1, Issues (.iwdn k d b c) false s s1 →
    ∃ t, Completes (.iwdn k d b c) s t ∧ t.bare = s1.bare ∧ t.gang.v = s1.gang.v ∧ t.gang.s = s1.gang.s ∧ t.gang.arm.mask = s1.gang.arm.mask ∧
      let lo := (readS s1.gang b.toNat).toInt
      let hi := (readS s1.gang c.toNat).toInt
      let old := shadowOf s1.gang k d.toNat
      (¬(k = .vec ∧ s1.gang.arm.mask = 0) → lo ≤ hi →
        shadowOf t.gang k d.toNat = if lo ≤ old.lo ∧ old.hi ≤ hi then ⟨lo, hi⟩ else ⟨Min.min old.lo lo, Max.max old.hi hi⟩) ∧
      (hi < lo ∨ (k = .vec ∧ s1.gang.arm.mask = 0) → shadowOf t.gang k d.toNat = old)) ∧
  (∀ d b c s s1, Issues (.iset .vec d b c) false s s1 → s1.gang.arm.mask = 0 → Completes (.iset .vec d b c) s s1) ∧
  (∀ k d b c s s1, Issues (.iset k d b c) false s s1 → ¬(k = .vec ∧ s1.gang.arm.mask = 0) →
    let lo := (readS s1.gang b.toNat).toInt
    let hi := (readS s1.gang c.toNat).toInt
    let old := shadowOf s1.gang k d.toNat
    let val (l : Nat) : Int := match k with | .vec => (readV s1.gang d.toNat l).toInt | .scal => (readS s1.gang d.toNat).toInt
    (hi < lo → exec (.iset k d b c) s = .next (stepDone (trapEntry (unpop s s1) ⟨6, 2, 0, s1.gang.arm.mask, []⟩ s.gang.arm.pc))) ∧
    (lo ≤ hi → (∀ l, Claims.lane s1 k l → lo ≤ val l ∧ val l ≤ hi) →
      ∃ t, Completes (.iset k d b c) s t ∧ t.bare = s1.bare ∧ t.gang.v = s1.gang.v ∧ t.gang.s = s1.gang.s ∧
        shadowOf t.gang k d.toNat = ⟨Max.max old.lo lo, Min.min old.hi hi⟩) ∧
    (lo ≤ hi → ¬(lo ≤ old.lo ∧ old.hi ≤ hi) → ∀ l, Claims.lane s1 k l → ¬(lo ≤ val l ∧ val l ≤ hi) →
      ∃ x : Trap, exec (.iset k d b c) s = .next (stepDone (trapEntry (unpop s s1) x s.gang.arm.pc)) ∧ x.cause = 6 ∧ x.reason = 1)) ∧
  (∀ k d a s s1, Issues (.iget k d a) false s s1 →
    ∃ t, Completes (.iget k d a) s t ∧ t.bare = s1.bare ∧
      Claims.wroteS2 s1 t d.toNat (BitVec.ofInt 32 (shadowOf s1.gang k a.toNat).lo) (BitVec.ofInt 32 (shadowOf s1.gang k a.toNat).hi)) ∧
  (∀ k d s s1, Issues (.itop k d) false s s1 →
    ∃ t, Completes (.itop k d) s t ∧ t.bare = s1.bare ∧ t.gang.v = s1.gang.v ∧ t.gang.s = s1.gang.s ∧
      shadowOf t.gang k d.toNat = ⟨-(2 ^ 31), 2 ^ 31 - 1⟩)

/-- The number that a 32-bit register value is read as lies in an interval (R234). -/
def Claims.within (sh : Shadow) (x : Nat) : Prop := sh.lo ≤ (BitVec.ofNat 32 x).toInt ∧ (BitVec.ofNat 32 x).toInt ≤ sh.hi

/-- R234 to R236, R238, R284: the interval rules are sound. Where the operands lie in their shadows, the result of an integer operation, of MAD,
CLAMP, SEL and BFX lies in the shadow that its rule gives, and a comparand lies in the shadow that a compare-and-branch leaves it on the side
taken. -/
def Claims.IntervalRulesSound : Prop :=
  (∀ (f : IntFn) (t : Ty) (sat : Bool) (x y : Nat) (a b : Shadow), tyWidth t ≤ 32 → intFnTy f t = true → x < 2 ^ 32 → y < 2 ^ 32 →
    Claims.within a x → Claims.within b y → Claims.within (intShadow f t sat a b) (intVal f t sat x y)) ∧
  (∀ (t : Ty) (sat : Bool) (x y z : Nat) (a b c : Shadow), tyWidth t ≤ 32 → tyIsAnyInt t = true → x < 2 ^ 32 → y < 2 ^ 32 → z < 2 ^ 32 →
    Claims.within a x → Claims.within b y → Claims.within c z → Claims.within (shMad t sat a b c) (madVal t sat x y z)) ∧
  (∀ (x y z : Word) (a b c : Shadow), Claims.within a x.toNat → Claims.within b y.toNat → Claims.within c z.toNat →
    Claims.within (shClampOp a b c) (BitVec.ofInt 32 (Min.min (Max.max x.toInt y.toInt) z.toInt)).toNat) ∧
  (∀ (t : Ty) (x y : Nat) (a b : Shadow), tyWidth t ≤ 32 → tyIsAnyInt t = true → x < 2 ^ 32 → y < 2 ^ 32 → Claims.within a x →
    Claims.within b y → Claims.within (shBfx t a b) (bfxVal t x y) ∧ Claims.within (shHull a b) x ∧ Claims.within (shHull a b) y) ∧
  (∀ (c : Cond) (x y : Word) (a b : Shadow), Claims.within a x.toNat → Claims.within b y.toNat → condHolds c x y = true →
    Claims.within (shNarrow c a b).1 x.toNat ∧ Claims.within (shNarrow c a b).2 y.toNat)

/-- The instructions whose every result has a rule of R235, R236 or R284. -/
def Claims.shadowRule : Instr → Bool
  | .add _ _ _ _ | .sub _ _ _ _ | .mul _ _ _ _ | .mulh _ _ _ _ | .div _ _ _ _ | .rem _ _ _ _ | .min _ _ _ _ | .max _ _ _ _
  | .and _ _ _ _ | .or _ _ _ _ | .xor _ _ _ _ | .andn _ _ _ _ | .shl _ _ _ _ | .shr _ _ _ _ | .sra _ _ _ _ | .rot _ _ _ _
  | .abs _ _ _ | .neg _ _ _ | .clz _ _ _ | .ctz _ _ _ | .popc _ _ _ | .brev _ _ _
  | .addImm8 _ _ _ _ | .andImm8 _ _ _ _ | .orImm8 _ _ _ _ | .xorImm8 _ _ _ _ | .minImm _ _ _ _ | .maxImm _ _ _ _
  | .shlImm _ _ _ _ | .shrImm _ _ _ _ | .sraImm _ _ _ _ | .rotImm _ _ _ _
  | .addImm32 _ _ _ _ _ | .andImm32 _ _ _ _ _ | .orImm32 _ _ _ _ _ | .xorImm32 _ _ _ _ _ | .li _ _ _ | .liImm32 _ _ _ _
  | .integerGroup _ _ _ _ _ _ | .bfx _ _ _ _ _ | .mad _ _ _ _ _ _ | .clamp _ _ _ _ _ _ | .sel _ _ _ _ _ _ | .bfi _ _ _ _ _ _
  | .cmp _ _ _ _ _ _ | .mov _ _ _ | .movs _ _ => true
  | _ => false

/-- R234's invariant of a gang: in both arms' copies every scalar, and every active lane of every vector register, lies in its shadow. The
arms' masks are of their own lanes (R354). -/
structure Claims.ShadowsTrue (g : Gang) : Prop where
  scalars : ∀ r, r < 64 → Claims.within (shadowS g r) (readS g r).toNat
  vectors : ∀ r l, r < g.nv → l < 96 → g.arm.mask.getLsbD l = true → Claims.within (shadowV g r) (readV g r l).toNat
  own : g.arm.mask &&& ~~~g.arm.members = 0
  partner : ∀ p, g.partner = some p → p.mask &&& ~~~p.members = 0 ∧ p.members &&& g.arm.members = 0 ∧
    (∀ r, r < 61 → Claims.within (smapGet Shadow.zero p.shS r) (readS g r).toNat) ∧
    ∀ r l, r < g.nv → l < 96 → p.mask.getLsbD l = true → Claims.within (smapGet Shadow.zero p.shV r) (readV g r l).toNat

/-- The values that open streams have popped for the instruction at hand lie in their landed intervals (R221). -/
def Claims.popsTrue (g : Gang) : Prop :=
  ∀ r q l, openQueue g r = some q → l < 96 → g.arm.mask.getLsbD l = true →
    Claims.within (smapGet Shadow.zero g.popSh q) (loWord (smapGet 0 g.popv (vKey q l))).toNat

/-- R234 to R237: an integer instruction, LI, MOV or MOVS keeps every register of both arms in its shadow, a write of the mask words
s61 to s63 included. -/
def Claims.ShadowsStayTrue : Prop :=
  ∀ i, Claims.shadowRule i = true → ∀ s s1, Issues i false s s1 → Claims.ShadowsTrue s1.gang → Claims.popsTrue s1.gang →
    ∃ t, Completes i s t ∧ Claims.ShadowsTrue t.gang

/-! ### Control flow, divergence and barriers (R354 to R365, R370 to R374) -/

/-- Between `s` and `t` the executing arm's PC, LINK and scalar shadows alone may have changed, and a trace record may have been written
where tracing is on (R422): registers, masks, flags, CSRs and operations stay, and with tracing off every other part of the state. -/
def Claims.moved (s t : State) (pc link : DWord) : Prop :=
  t.gang.bare = { s.gang.bare with arm := { s.gang.bare.arm with pc := pc, link := link } } ∧ t.gang.v = s.gang.v ∧
    t.gang.s = s.gang.s ∧ t.gang.arm.mask = s.gang.arm.mask ∧
    (bitField (mmGet s trcCtl) 0 0 = 0 → t = { s with gang := t.gang })

/-- R363: B, CALL, JR, JR.l, RET and JOIN set the PC; CALL and JR.l set LINK to the address after them. -/
def Claims.JumpResults : Prop :=
  (∀ (off : BitVec 22) s s1, Issues (.b off) false s s1 →
    ∃ t, Jumps (.b off) s t ∧ Claims.moved s1 t (s1.gang.arm.pc + BitVec.ofInt 64 (4 * off.toInt)) s1.gang.arm.link) ∧
  (∀ (off : BitVec 22) s s1, Issues (.call off) false s s1 →
    ∃ t, Jumps (.call off) s t ∧
      Claims.moved s1 t (s1.gang.arm.pc + BitVec.ofInt 64 (4 * off.toInt)) (s1.gang.arm.pc + 4)) ∧
  (∀ e s s1, Issues (.jr e) false s s1 → (readS64 s1.gang e.toNat).toNat % 4 = 0 →
    ∃ t, Jumps (.jr e) s t ∧ Claims.moved s1 t (readS64 s1.gang e.toNat) s1.gang.arm.link) ∧
  (∀ e s s1, Issues (.jrL e) false s s1 → (readS64 s1.gang e.toNat).toNat % 4 = 0 →
    ∃ t, Jumps (.jrL e) s t ∧ Claims.moved s1 t (readS64 s1.gang e.toNat) (s1.gang.arm.pc + 4)) ∧
  (∀ s s1, Issues .ret false s s1 → s1.gang.arm.link.toNat % 4 = 0 →
    ∃ t, Jumps .ret s t ∧ Claims.moved s1 t s1.gang.arm.link s1.gang.arm.link) ∧
  (∀ s s1, Issues .join false s s1 →
    ∃ t, Jumps .join s t ∧ Claims.moved s1 t ((currentJoin s1.gang).getD (s1.gang.arm.pc + 4)) s1.gang.arm.link)

/-- R363: a JR, JR.l or RET to an address that is no multiple of 4 raises Misaligned at it, with the target in FADDR and no effect. -/
def Claims.MisalignedJumps : Prop :=
  ∀ i (target : State → DWord), (∃ e, (i = .jr e ∨ i = .jrL e) ∧ target = fun s => readS64 s.gang e.toNat) ∨
      (i = .ret ∧ target = fun s => s.gang.arm.link) →
    ∀ s s1, Issues i false s s1 → (target s1).toNat % 4 ≠ 0 →
      exec i s = .next (stepDone (trapEntry (unpop s s1) ⟨7, 0, (target s1).toNat, s1.gang.arm.mask, []⟩ s.gang.arm.pc))

/-- The second comparand of BC, LOOP and VB: a register, or the field as a signed immediate of 7 bits (R364). -/
def Claims.comparand (s : State) (bi : Bool) (b : Reg) : Word := if bi then b.signExtend 32 else readS s.gang b.toNat

/-- R364: BC goes to its target where the condition holds of its comparands and on to the next instruction otherwise; LOOP adds 1 to
its register first. -/
def Claims.CompareBranches : Prop :=
  (∀ c bi a b (off : BitVec 20) s s1, Issues (.bc c bi a b off) false s s1 →
    ∃ t, Jumps (.bc c bi a b off) s t ∧
      Claims.moved s1 t (if Claims.holds c (readS s1.gang a.toNat) (Claims.comparand s1 bi b)
        then s1.gang.arm.pc + BitVec.ofInt 64 (4 * off.toInt) else s1.gang.arm.pc + 8) s1.gang.arm.link) ∧
  (∀ c bi a b (off : BitVec 20) s s1, Issues (.loop c bi a b off) false s s1 →
    ∃ t u, Jumps (.loop c bi a b off) s t ∧ u.bare = s1.bare ∧ WroteS s1 u a.toNat (readS s1.gang a.toNat + 1) ∧
      Claims.moved u t (if Claims.holds c (readS u.gang a.toNat) (Claims.comparand u bi b)
        then s1.gang.arm.pc + BitVec.ofInt 64 (4 * off.toInt) else s1.gang.arm.pc + 8) s1.gang.arm.link)

/-- The active lanes of which a VB's condition holds (R365). -/
def Claims.takes (s : State) (c : Cond) (bi : Bool) (a b : Reg) (l : Nat) : Bool :=
  active s l && Claims.holds c (readV s.gang a.toNat l) (if bi then b.signExtend 32 else readV s.gang b.toNat l)

/-- `i` leaves the state `t` at a boundary of both arms. -/
def Claims.Diverges (i : Instr) (s t : State) : Prop := exec i s = .next (boundaryOther (afterIssue (retire t)))

/-- R355, R356, R362, R365: VB. With no active lane, or none that takes the branch, it falls through; with every active lane taking it,
it goes to the target. Otherwise an undivided gang whose stack part is empty splits, and any other arm pushes the lanes that fall
through, onto a stack with room. -/
def Claims.VectorBranch : Prop :=
  ∀ c bi a b (off : BitVec 20) (jn : BitVec 12) s s1, Issues (.vb c bi a b off jn) false s s1 →
    let i := Instr.vb c bi a b off jn
    let target := s1.gang.arm.pc + BitVec.ofInt 64 (4 * off.toInt)
    let takes := Claims.takes s1 c bi a b
    ((∀ l, l < 96 → takes l = false) →
      ∃ t, Claims.Diverges i s t ∧ Claims.moved s1 t (s1.gang.arm.pc + 8) s1.gang.arm.link) ∧
    (s1.gang.arm.mask ≠ 0 → (∀ l, l < 96 → takes l = active s1 l) →
      ∃ t, Claims.Diverges i s t ∧ Claims.moved s1 t target s1.gang.arm.link) ∧
    (∀ l m, l < 96 → takes l = true → m < 96 → active s1 m = true → takes m = false →
      ((s1.gang.partner = none ∧ s1.gang.arm.stack = [] ∧ s1.gang.arm.spilled = 0) →
        ∃ t p, Claims.Diverges i s t ∧ t.gang.partner = some p ∧ t.gang.gj = some (s1.gang.arm.pc + BitVec.ofNat 64 (4 * jn.toNat)) ∧
          t.gang.arm.pc = s1.gang.arm.pc + 8 ∧ p.pc = target ∧ p.slot = 1 - s1.gang.arm.slot ∧ p.link = s1.gang.arm.link ∧
          t.gang.v = s1.gang.v ∧ t.gang.s = s1.gang.s ∧
          ∀ j, j < 96 → p.mask.getLsbD j = takes j ∧ p.members.getLsbD j = takes j ∧
            t.gang.arm.mask.getLsbD j = (active s1 j && !takes j) ∧
            t.gang.arm.members.getLsbD j = (s1.gang.arm.members.getLsbD j && !takes j)) ∧
      (¬(s1.gang.partner = none ∧ s1.gang.arm.stack = [] ∧ s1.gang.arm.spilled = 0) →
        (s1.gang.arm.pc - s1.gang.entry).toNat < 2 ^ 21 → s1.gang.arm.stack.length < 4 →
        stackTotal s1.gang < dsDepth (apCtx s1) →
        (∀ e rest, s1.gang.arm.stack = e :: rest →
          ¬(e.vbw = BitVec.ofNat 19 ((s1.gang.arm.pc - s1.gang.entry).toNat / 4) ∧ e.jn = jn ∧ e.parked = false)) →
        ∃ t n, Claims.Diverges i s t ∧ t.gang.arm.pc = target ∧
          t.gang.arm.stack = ⟨n, false, jn, BitVec.ofNat 19 ((s1.gang.arm.pc - s1.gang.entry).toNat / 4)⟩ :: s1.gang.arm.stack ∧
          t.gang.v = s1.gang.v ∧ t.gang.s = s1.gang.s ∧
          ∀ j, j < 96 → n.getLsbD j = (active s1 j && !takes j) ∧ t.gang.arm.mask.getLsbD j = takes j ∧
            t.gang.arm.members.getLsbD j = (s1.gang.arm.members.getLsbD j && !(active s1 j && !takes j))))

/-- What a VB whose lanes `takes` leave for its target makes of the arm, beside its stack part: `n` holds the lanes that fall through. -/
def Claims.pushed (s t : State) (target : DWord) (takes : Nat → Bool) (n : LaneMask) : Prop :=
  t.gang.arm.pc = target ∧ t.gang.v = s.gang.v ∧ t.gang.s = s.gang.s ∧
    ∀ j, j < 96 → n.getLsbD j = (active s j && !takes j) ∧ t.gang.arm.mask.getLsbD j = takes j ∧
      t.gang.arm.members.getLsbD j = (s.gang.arm.members.getLsbD j && !(active s j && !takes j))

/-- R333, R356: a push of the same VB and Jn as a top entry whose lanes wait ORs its lanes into that entry. A fifth entry goes above the
three newest, the oldest being stored as the next entry of the lane-stack block; a fault of that store is raised at the VB. Entry k of
slot 0 lies at byte 16k of the block and of slot 1 at byte 16 × (DSDEPTH − 1 − k); its 16 bytes hold MASK, S, JN and VBW. -/
def Claims.VectorPushes : Prop :=
  (∀ c bi a b (off : BitVec 20) (jn : BitVec 12) s s1 l m, Issues (.vb c bi a b off jn) false s s1 →
    let target := s1.gang.arm.pc + BitVec.ofInt 64 (4 * off.toInt)
    let takes := Claims.takes s1 c bi a b
    let vbw := BitVec.ofNat 19 ((s1.gang.arm.pc - s1.gang.entry).toNat / 4)
    l < 96 → takes l = true → m < 96 → active s1 m = true → takes m = false →
    (s1.gang.arm.pc - s1.gang.entry).toNat < 2 ^ 21 →
    (∀ e rest, s1.gang.arm.stack = e :: rest → e.vbw = vbw → e.jn = jn → e.parked = false →
      ∃ t n, Claims.Diverges (.vb c bi a b off jn) s t ∧ Claims.pushed s1 t target takes n ∧
        t.gang.arm.stack = { e with mask := e.mask ||| n } :: rest ∧ t.gang.arm.spilled = s1.gang.arm.spilled ∧ t.mem = s1.mem) ∧
    (∀ e0 e1 e2 e3, s1.gang.arm.stack = [e0, e1, e2, e3] → stackTotal s1.gang < dsDepth (apCtx s1) →
      ¬(e0.vbw = vbw ∧ e0.jn = jn ∧ e0.parked = false) →
      (∀ u, storeEntry s1 s1.gang.arm.spilled e3 = .ok u → u.gang.arm.ltime ≤ timeBound u →
        u.gang = { s1.gang with arm := { s1.gang.arm with ltime := u.gang.arm.ltime } } →
        ∃ t n, Claims.Diverges (.vb c bi a b off jn) s t ∧ Claims.pushed s1 t target takes n ∧
          t.gang.arm.stack = [⟨n, false, jn, vbw⟩, e0, e1, e2] ∧ t.gang.arm.spilled = s1.gang.arm.spilled + 1 ∧ t.mem = u.mem) ∧
      (∀ x u, storeEntry s1 s1.gang.arm.spilled e3 = .error (x, u) →
        exec (.vb c bi a b off jn) s = .next (stepDone (trapEntry (unpop s u) x s.gang.arm.pc))))) ∧
  (∀ s k, entryVa s k = lsBlock (apCtx s) + 16 * (if s.gang.arm.slot = 0 then k else 16 * bitField s.gang.lscfg.toNat 31 24 - 1 - k)) ∧
  (∀ e, (entryBytes e).length = 16 ∧ leNat ((entryBytes e).take 12) = e.mask.toNat ∧
    leNat ((entryBytes e).drop 12) = (if e.parked = true then 2 ^ 31 else 0) + e.jn.toNat * 2 ^ 19 + e.vbw.toNat ∧
    entryOf (entryBytes e) = e)

/-- R360: a push onto a full divergence stack raises DivergenceStack with reason 1 at the VB, and one from outside the kernel's first
2 MiB with reason 2. Where both hold the model raises reason 2, which is its choice (log entry 37). FADDR is 0. -/
def Claims.DivergenceStackTraps : Prop :=
  ∀ c bi a b off jn s s1 l m, Issues (.vb c bi a b off jn) false s s1 → l < 96 → Claims.takes s1 c bi a b l = true →
    m < 96 → active s1 m = true → Claims.takes s1 c bi a b m = false →
    ¬(s1.gang.partner = none ∧ s1.gang.arm.stack = [] ∧ s1.gang.arm.spilled = 0) →
    (2 ^ 21 ≤ (s1.gang.arm.pc - s1.gang.entry).toNat →
      exec (.vb c bi a b off jn) s = .next (stepDone (trapEntry (unpop s s1) ⟨0x11, 2, 0, s1.gang.arm.mask, []⟩ s.gang.arm.pc))) ∧
    ((s1.gang.arm.pc - s1.gang.entry).toNat < 2 ^ 21 → dsDepth (apCtx s1) ≤ stackTotal s1.gang →
      (∀ e rest, s1.gang.arm.stack = e :: rest →
        ¬(e.vbw = BitVec.ofNat 19 ((s1.gang.arm.pc - s1.gang.entry).toNat / 4) ∧ e.jn = jn ∧ e.parked = false)) →
      exec (.vb c bi a b off jn) s = .next (stepDone (trapEntry (unpop s s1) ⟨0x11, 1, 0, s1.gang.arm.mask, []⟩ s.gang.arm.pc)))

/-- R357, R358: arrival at a join. An entry whose lanes wait is exchanged for the arm's; an entry whose lanes are parked is popped, where
none is spilled; an arm of a split gang with an empty stack part parks, and both parked re-gang into slot 0 at the split join. An arm
suspended on the host's reply is at no boundary (R112). -/
def Claims.JoinArrival : Prop :=
  ∀ s, s.gang.arm.parked = false → (∀ k, s.gang.arm.stall ≠ .posted k) → currentJoin s.gang = some s.gang.arm.pc →
    (∀ e rest, s.gang.arm.stack = e :: rest → e.parked = false →
      ∃ t, arriveOnce s = some (.ok t) ∧ t.gang.arm.stack = { e with mask := s.gang.arm.mask, parked := true } :: rest ∧
        t.gang.arm.mask = e.mask ∧ t.gang.arm.members = e.mask ||| (s.gang.arm.members &&& ~~~s.gang.arm.mask) ∧
        t.gang.arm.pc = s.gang.entry + BitVec.ofNat 64 (4 * e.vbw.toNat + 8) ∧ t.gang.v = s.gang.v ∧ t.gang.s = s.gang.s) ∧
    (∀ e rest, s.gang.arm.stack = e :: rest → e.parked = true → s.gang.arm.spilled = 0 →
      ∃ t, arriveOnce s = some (.ok t) ∧ t.gang.arm.stack = rest ∧ t.gang.arm.mask = s.gang.arm.mask ||| e.mask ∧
        t.gang.arm.members = s.gang.arm.members ||| e.mask ∧ t.gang.arm.pc = s.gang.arm.pc ∧ t.gang.v = s.gang.v ∧ t.gang.s = s.gang.s) ∧
    (∀ p j, s.gang.arm.stack = [] → s.gang.partner = some p → s.gang.gj = some j →
      (p.parked = false → arriveOnce s = some (.ok (s.onArm (fun a => { a with parked := true })))) ∧
      (p.parked = true →
        ∃ t, arriveOnce s = some (.ok t) ∧ t.gang.partner = none ∧ t.gang.gj = none ∧ t.gang.arm.slot = 0 ∧ t.gang.arm.pc = j ∧
          t.gang.arm.mask = s.gang.arm.mask ||| p.mask ∧ t.gang.arm.members = s.gang.arm.members ||| p.members ∧
          t.gang.arm.parked = false ∧ t.gang.arm.link = (if s.gang.arm.slot = 0 then s.gang.arm.link else p.link) ∧
          t.gang.v = s.gang.v ∧ t.gang.s = s.gang.s))

/-- R359, R370: EXIT. An entry's waiting lanes take over the arm at their fall-through address; a parked entry's lanes go on at its join;
an arm of a split gang ends and its partner goes on alone; the last arm's end leaves the gang with no member. -/
def Claims.ExitPaths : Prop :=
  ∀ s s1, Issues .exit false s s1 →
    (∀ e rest, s1.gang.arm.stack = e :: rest → e.parked = false →
      ∃ t, exec .exit s = .next (afterIssue t) ∧ t.gang.arm.mask = e.mask ∧ t.gang.arm.members = e.mask ∧
        t.gang.arm.pc = s1.gang.entry + BitVec.ofNat 64 (4 * e.vbw.toNat + 8) ∧
        t.gang.arm.stack = { e with mask := 0, parked := true } :: rest ∧ t.gang.v = s1.gang.v ∧ t.gang.s = s1.gang.s) ∧
    (∀ e rest, s1.gang.arm.stack = e :: rest → e.parked = true → s1.gang.arm.spilled = 0 →
      ∃ t, exec .exit s = .next (afterIssue t) ∧ t.gang.arm.mask = e.mask ∧ t.gang.arm.members = e.mask ∧
        t.gang.arm.pc = s1.gang.entry + BitVec.ofNat 64 (4 * e.vbw.toNat + 4 * e.jn.toNat) ∧
        t.gang.arm.stack = rest ∧ t.gang.v = s1.gang.v ∧ t.gang.s = s1.gang.s) ∧
    (∀ p, s1.gang.arm.stack = [] → s1.gang.partner = some p → s1.gang.exited = false →
      ∃ t, exec .exit s = .next (gangArriveAll t) ∧ t.gang.partner = none ∧ t.gang.gj = none ∧
        t.gang.arm = { p with parked := false, slot := if p.stack = [] ∧ p.spilled = 0 then 0 else p.slot } ∧
        t.gang.v = s1.gang.v ∧ t.gang.s = s1.gang.s) ∧
    (s1.gang.arm.stack = [] → s1.gang.partner = none →
      ∃ t, exec .exit s = .next t ∧ t.gang.exited = true ∧ t.gang.arm.members = 0 ∧ t.gang.arm.mask = 0 ∧
        t.gang.v = s1.gang.v ∧ t.gang.s = s1.gang.s ∧ t = { s1 with gang := t.gang })

/-- R332, R372: BAR and BAR.TX. An arm whose recorded phase has completed goes on, at a logical time after what completed it; an arm that comes to a barrier while another arm of its gang
is still to arrive records its arrival and its bytes, and waits. -/
def Obligations.TeamBarriers : Prop :=
  ∀ i (n : BitVec 4) (bytes : State → Int),
    ((i = .bar n ∧ bytes = fun _ => 0) ∨ (∃ k : BitVec 16, i = .barTx n k ∧ bytes = fun _ => (k.toNat : Int)) ∨
      (∃ r : SReg, i = .barTxReg n r ∧ bytes = fun s => (readS s.gang r.toNat).toInt)) →
    ∀ s s1, Issues i false s s1 →
    (∀ ph, s1.gang.arm.barWaits.find? (fun w => w.1 == n.toNat && w.2.1 == inHandler s1.gang.arm) =
        some (n.toNat, inHandler s1.gang.arm, some ph) →
      (barArr s1.gang n.toNat).slots = [] → phasePassed s1 (gangBarObj s1 n.toNat) ph = true →
      ∃ t, Completes i s t ∧ t = { s1 with gang := { s1.gang with arm :=
          { s1.gang.arm with ltime := Max.max s1.gang.arm.ltime (objTime s1 (gangBarObj s1 n.toNat)), barWaits := t.gang.arm.barWaits } } } ∧
        t.gang.arm.barWaits = s1.gang.arm.barWaits.filter (fun w => !(w.1 == n.toNat && w.2.1 == inHandler s1.gang.arm))) ∧
    (∀ p, s1.gang.partner = some p → p.slot ≠ s1.gang.arm.slot → (barArr s1.gang n.toNat).slots = [] →
      s1.gang.arm.barWaits.find? (fun w => w.1 == n.toNat && w.2.1 == inHandler s1.gang.arm) = none →
      ∃ t, exec i s = .next t ∧ (barArr t.gang n.toNat).slots = [s1.gang.arm.slot] ∧
        (barArr t.gang n.toNat).bytes = (barArr s1.gang n.toNat).bytes + bytes s1 ∧
        t.gang.arm.barWaits = (n.toNat, inHandler s1.gang.arm, none) :: s1.gang.arm.barWaits ∧ t.gang.arm.pc = s1.gang.arm.pc ∧
        t.gang.v = s1.gang.v ∧ t.gang.s = s1.gang.s ∧ t.gang.arm.mask = s1.gang.arm.mask)

/-- R374, R391: NOP changes nothing; YIELD makes the arm ineligible for 64 clocks. -/
def Claims.NopAndYield : Prop :=
  (∀ s s1, Issues .nop false s s1 → Completes .nop s s1) ∧
  (∀ s s1, Issues .yield false s s1 →
    Completes .yield s { s1 with gang := { s1.gang with arm := { s1.gang.arm with yieldTo := s1.cc + 64 } } })

/-! ### Traps, modes, control registers, WAIT and register growth -/

/-- R402, R403 (R356, R400): trap entry outside a handler, of a cause for which the launch does not replay. Every on-chip stack entry is
stored first. The frame takes the resume address, repeat index, mask, mode and shadows; FSTAT, FADDR, the mode,
the mask and the PC follow. -/
def Claims.TrapEntry : Prop :=
  ∀ s0 s (x : Trap) resume, storeStack s0 = .ok s → s0.gang.arm.fstat.getLsbD 30 = false →
    (x.cause ∉ [0x0B, 0x0E, 0x12] ∨ s0.gang.gmode.getLsbD 2 = false) →
    x.cause < 256 → x.reason < 256 → s.gang.arm.rep < 64 →
    ∃ t, trapEntry s0 x resume = t ∧ t.mem = s.mem ∧
      t.gang.arm.frame = ⟨resume, s.gang.arm.rep, s.gang.arm.mask, s.gang.arm.sup, s.gang.arm.shS, s.gang.arm.shV⟩ ∧
      t.gang.arm.fstat.getLsbD 31 = s.gang.arm.sup ∧ t.gang.arm.fstat.getLsbD 30 = true ∧
      t.gang.arm.fstat.extractLsb' 24 6 = BitVec.ofNat 6 s.gang.arm.rep ∧
      t.gang.arm.fstat.extractLsb' 16 8 = BitVec.ofNat 8 x.reason ∧ t.gang.arm.fstat.extractLsb' 8 8 = 0 ∧
      t.gang.arm.fstat.extractLsb' 0 8 = BitVec.ofNat 8 x.cause ∧
      t.gang.arm.faddr = BitVec.ofNat 64 x.faddr ∧ t.gang.arm.sup = true ∧ t.gang.arm.mask = x.lanes &&& s.gang.arm.members ∧
      t.gang.arm.pc = s.gang.trapv + BitVec.ofNat 64 (64 * x.cause) ∧ t.gang.arm.rep = 0 ∧
      t.gang.v = s.gang.v ∧ t.gang.s = s.gang.s ∧ t.gang.c = s.gang.c ∧ t.gang.ops = s.gang.ops ∧ t.gang.partner = s.gang.partner ∧
      t.gang.arm.members = s.gang.arm.members ∧ t.gang.arm.link = s.gang.arm.link ∧ t.gang.arm.owed = s.gang.arm.owed ∧
      (bitField (mmGet s trcCtl) 0 0 = 0 → t = { s with gang := t.gang })

/-- R356, R402: at trap entry every on-chip stack entry is stored above those that memory holds, the oldest lowest; one that faults ends the
launch with status 3 and no vector is taken. -/
def Claims.StackAtEntry : Prop :=
  (∀ s, s.gang.arm.stack = [] → storeStack s = .ok s) ∧
  (∀ s e, s.gang.arm.stack = [e] → storeStack s = storeEntry s s.gang.arm.spilled e) ∧
  (∀ s e f u, s.gang.arm.stack = [e, f] → storeEntry s (s.gang.arm.spilled + 1) e = .ok u →
    storeStack s = storeEntry u s.gang.arm.spilled f) ∧
  (∀ s (x : Trap) resume y u, s.gang.arm.fstat.getLsbD 30 = false → (x.cause ∉ [0x0B, 0x0E, 0x12] ∨ s.gang.gmode.getLsbD 2 = false) →
    storeStack s = .error (y, u) → trapEntry s x resume = killLaunch u s.gang.launch 3)

/-- R402: a trap in a handler ends the launch with status 3; its gangs leave and nothing of memory changes. The launch keeps the latest
logical time of its gangs (R332). -/
def Claims.DoubleFault : Prop :=
  ∀ s (x : Trap) resume, s.gang.arm.fstat.getLsbD 30 = true →
    (∀ l ∈ (trapEntry s x resume).launches, l.id = s.gang.launch → ∃ k, l.killed = some k) ∧
    (∀ l ∈ s.launches, l.id = s.gang.launch → l.killed = none →
      ∃ n, l.ltime ≤ n ∧ { l with killed := some 3, ltime := n } ∈ (trapEntry s x resume).launches) ∧
    (∀ g ∈ gangsOf (trapEntry s x resume), g.launch ≠ s.gang.launch) ∧ (trapEntry s x resume).mem = s.mem

/-- R242, R400, R403, R406: RFE in a handler restores the mask, mode, PC and repeat index of the frame, hulls each register's shadow with the
frame's and clears FSTAT.INH; of the frame's mask the arm's members alone return, as log entry 38 reads it. Outside a handler it raises
IllegalInstruction at execution, with the instruction's address in FADDR (log entry 18). -/
def Obligations.ReturnFromTrap : Prop :=
  ∀ s s1, Issues .rfe true s s1 →
    (s1.gang.arm.fstat.getLsbD 30 = true →
      ∃ t, Jumps .rfe s t ∧ t = { s1 with gang := { s1.gang with arm := t.gang.arm } } ∧
        t.gang.arm.mask = s1.gang.arm.frame.mask &&& s1.gang.arm.members ∧ t.gang.arm.sup = s1.gang.arm.fstat.getLsbD 31 ∧
        t.gang.arm.pc = s1.gang.arm.frame.pc ∧ t.gang.arm.rep = s1.gang.arm.frame.rep ∧ t.gang.arm.fstat.getLsbD 30 = false ∧
        (∀ b, b ≠ 30 → t.gang.arm.fstat.getLsbD b = s1.gang.arm.fstat.getLsbD b) ∧
        t.gang.arm.faddr = s1.gang.arm.faddr ∧ t.gang.arm.link = s1.gang.arm.link ∧ t.gang.arm.members = s1.gang.arm.members ∧
        ∀ r, smapGet Shadow.zero t.gang.arm.shS r =
            shHull (smapGet Shadow.zero s1.gang.arm.frame.shS r) (smapGet Shadow.zero s1.gang.arm.shS r) ∧
          smapGet Shadow.zero t.gang.arm.shV r =
            shHull (smapGet Shadow.zero s1.gang.arm.frame.shV r) (smapGet Shadow.zero s1.gang.arm.shV r)) ∧
    (s1.gang.arm.fstat.getLsbD 30 = false →
      exec .rfe s = .next (stepDone (trapEntry (unpop s s1)
        ⟨1, 0, (instrAddr s1.gang.arm).toNat, s1.gang.arm.mask, []⟩ s.gang.arm.pc)))

/-- The supervisor-only instructions: HALT, RFE, a write of a supervisor CSR (R406, R408), TLBINV (R114), PGMAP (R115), MIG.frame (R141),
PIN and UNPIN (R143) and HOT.clr (R145). -/
def Claims.supervisorOnly (i : Instr) : Prop :=
  i = .halt ∨ i = .rfe ∨ (∃ c r, (i = .csrw c r ∨ i = .csrs c r ∨ i = .csrc c r) ∧ c.toNat ∉ [0, 2, 6, 7, 8, 9, 10]) ∨
    (∃ e n c, i = .tlbinvPage e n c) ∨ (∃ c, i = .tlbinvCtx c ∨ i = .tlbinvAll c) ∨ (∃ e c, i = .tlbinvAsid e c) ∨
    (∃ e c, i = .pgmapFt e c) ∨ (∃ e k c, i = .pgmapVa e k c) ∨ i = .pgmapPost ∨ (∃ t f d e c, i = .migFrame t f d e c) ∨
    (∃ d e n c, i = .pin d e n c ∨ i = .unpin d e n c) ∨ ∃ e c, i = .hotClr e c

/-- R114, R115, R141, R143, R145, R406, R408 (R400): every supervisor-only instruction raises Privilege at the group in user code, with no
effect of its own. -/
def Claims.PrivilegeTraps : Prop :=
  ∀ i s, Claims.supervisorOnly i →
    s.live = true → instrWf i = true → usesOk s.gang i = true → s.gang.arm.sup = false →
    exec i s = .next (stepDone (trapEntry (unpop s s) ⟨4, 0, s.gang.arm.pc.toNat, s.gang.arm.mask, []⟩ s.gang.arm.pc))

/-- R400, R407: TRAP raises Software and BRK Breakpoint, with the operand in FADDR, resuming at the next instruction; where the debugger
of the context has BRKH set, BRK stops the arm before it. -/
def Claims.SoftwareTraps : Prop :=
  (∀ n s s1, Issues (.trap n) false s s1 →
    exec (.trap n) s = .next (stepDone (trapEntry (retire s1) ⟨3, 0, n.toNat, s.gang.arm.mask, []⟩ (instrAddr s.gang.arm + 4)))) ∧
  (∀ n s s1, Issues (.brk n) false s s1 → brkStops s = false →
    exec (.brk n) s = .next (stepDone (trapEntry (retire s1) ⟨0x13, 0, n.toNat, s.gang.arm.mask, []⟩ (instrAddr s.gang.arm + 4)))) ∧
  (∀ n s s1, Issues (.brk n) false s s1 → brkStops s = true →
    (s.gang.arm.skipStop = false → exec (.brk n) s = .next (preciseStop s true)) ∧
    (s.gang.arm.skipStop = true → Completes (.brk n) s s1))

/-- R396, R407: HALT ends the launch of the executing gang, as a kill does: status 4 in a Poison or MatrixEngineReset handler, 7 otherwise. -/
def Claims.HaltEndsLaunch : Prop :=
  ∀ s s1, Issues .halt true s s1 →
    ∃ t, exec .halt s = .next t ∧ (∀ g ∈ gangsOf t, g.launch ≠ s1.gang.launch) ∧ t.mem = s1.mem ∧
      ∀ l ∈ s1.launches, l.id = s1.gang.launch → l.killed = none →
        ∃ n, l.ltime ≤ n ∧ { l with ltime := n, killed := some (if s1.gang.arm.fstat.getLsbD 30 = true ∧
          (s1.gang.arm.fstat.extractLsb' 0 8 = 0x0B ∨ s1.gang.arm.fstat.extractLsb' 0 8 = 0x0E) then 4 else 7) } ∈ t.launches

/-- R34, R36: a prefix installs its settings for the group's instruction. -/
def Claims.PrefixesInstall : Prop :=
  (∀ xe xo fzr fzo sat rm s, s.live = true → instrWf (.pr xe xo fzr fzo sat rm) = true →
    exec (.pr xe xo fzr fzo sat rm) s =
      .next { s with gang := { s.gang with arm := { s.gang.arm with pr := some ⟨xe, xo, fzr, fzo, sat, rm⟩ } } }) ∧
  (∀ sc sb sa sd cnt s, s.live = true →
    exec (.pn sc sb sa sd cnt) s =
      .next { s with gang := { s.gang with arm := { s.gang.arm with pn := some ⟨sc, sb, sa, sd, cnt⟩ } } })

/-- R33, R37, R400: a sequential instruction leaves the arm at the address after its group, or at its next repetition under PN; the
group's prefixes are spent and only the arm's bookkeeping and the popped values change. -/
def Claims.SequentialAdvance : Prop :=
  ∀ s i, ∃ t, advance s i = t ∧ t.gang.arm.pr = none ∧ t.gang.arm.pn = none ∧
    ((∀ p, s.gang.arm.pn = some p → s.gang.arm.rep + 1 ≤ p.cnt.toNat →
        t.gang.arm.rep = s.gang.arm.rep + 1 ∧ t.gang.arm.pc = s.gang.arm.pc) ∧
     (∀ n, (∀ p, s.gang.arm.pn = some p → p.cnt.toNat < s.gang.arm.rep + 1) → instrBytes i = n →
        t.gang.arm.rep = 0 ∧ t.gang.arm.pc = s.gang.arm.pc + (if s.gang.arm.pr.isSome = true then 4 else 0) +
          (if s.gang.arm.pn.isSome = true then 4 else 0) + BitVec.ofNat 64 n)) ∧
    t = { s with gang := { s.gang with popv := [], popSh := [], issued := s.gang.issued + 1, run := runAfter s.gang, arm :=
      { s.gang.arm with pc := t.gang.arm.pc, rep := t.gang.arm.rep, pr := none, pn := none, stall := t.gang.arm.stall, lastIssue := s.tick,
                        issuedAt := s.cc + 1, skipStop := false } } }

/-- An arm that stands at no join, that no debugger watches, and that need not change its slot is left as it is after an instruction
(R357, R359, R423, R425). -/
def Claims.QuietBoundary : Prop := ∀ s, Undisturbed s → afterIssue s = s

/-- The bits of a CSR that CSRW, CSRS and CSRC write (R273, R377, R378, R405). -/
def Claims.csrBits (n : Nat) : Word :=
  if n = 0 then 0x1FFFF003
  else if n = 0x20 then 0xFFFFF000
  else if n = 0x21 ∨ n = 6 ∨ n = 7 ∨ n = 8 ∨ n = 9 ∨ n = 10 ∨ (0x40 ≤ n ∧ n ≤ 0x4F) then 0xFFFFFFFF else 0

/-- R408: CSRR reads a CSR. CSRW writes sS, CSRS the old value with sS's bits set, CSRC with them clear, into the RW bits of that CSR;
GSTAT.SHX is cleared by a one under CSRW and CSRS; every other CSR, register and unit stays. -/
def Claims.ControlRegisters : Prop :=
  (∀ d c s s1, Issues (.csrr d c) false s s1 →
    ∃ t, Completes (.csrr d c) s t ∧ t.bare = s1.bare ∧ WroteS s1 t d.toNat (csrRead s1 c.toNat)) ∧
  (∀ i (c : BitVec 12) (r : SReg) (f : Word → Word → Word) (clears : Bool),
    ((i = .csrw c r ∧ f = (fun _ x => x) ∧ clears = true) ∨ (i = .csrs c r ∧ f = (fun o x => o ||| x) ∧ clears = true) ∨
      (i = .csrc c r ∧ f = (fun o x => o &&& ~~~x) ∧ clears = false)) →
    ∀ s s1, Issues i (!([0, 2, 6, 7, 8, 9, 10].contains c.toNat)) s s1 →
      ∃ t, Completes i s t ∧
        t = { s1 with gang := { s1.gang with
          fpc := t.gang.fpc, shx := t.gang.shx, bmiss := t.gang.bmiss, trapv := t.gang.trapv, stallCnt := t.gang.stallCnt, arm := { s1.gang.arm with link := t.gang.arm.link } } } ∧
        (Claims.csrBits c.toNat ≠ 0 →
          csrRead t c.toNat = f (csrRead s1 c.toNat) (readS s1.gang r.toNat) &&& Claims.csrBits c.toNat) ∧
        (c.toNat = 2 → csrRead t 2 = if clears = true ∧ (readS s1.gang r.toNat).getLsbD 0 = true then 0 else csrRead s1 2) ∧
        (Claims.csrBits c.toNat = 0 → c.toNat ≠ 2 → csrRead t c.toNat = csrRead s1 c.toNat) ∧
        ∀ m, m ≠ c.toNat → csrRead t m = csrRead s1 m)

/-- R377, R378, R405, R408: what the CSRs read as. -/
def Claims.ControlRegisterValues : Prop :=
  ∀ s, csrRead s 0 = s.gang.fpc ∧ csrRead s 1 = (s.gang.gmode ||| if s.gang.arm.sup = true then 0x20 else 0) ∧
    csrRead s 2 = (if s.gang.shx = true then 1 else 0) ∧ csrRead s 6 = s.gang.arm.link.extractLsb' 0 32 ∧
    csrRead s 7 = s.gang.arm.link.extractLsb' 32 32 ∧ csrRead s 8 = s.gang.bmiss.extractLsb' 0 32 ∧
    csrRead s 9 = s.gang.bmiss.extractLsb' 32 32 ∧ csrRead s 10 = s.gang.bmiss.extractLsb' 64 32 ∧
    csrRead s 0x10 = s.gang.apbase ∧ csrRead s 0x11 = s.gang.lsbase ∧ csrRead s 0x12 = s.gang.lscfg ∧
    csrRead s 0x13 = s.gang.lsblk ∧ csrRead s 0x14 = s.gang.bkwin ∧
    csrRead s 0x20 = s.gang.trapv.extractLsb' 0 32 ∧ csrRead s 0x21 = s.gang.trapv.extractLsb' 32 32 ∧
    csrRead s 0x22 = s.gang.arm.fstat ∧ csrRead s 0x23 = s.gang.arm.faddr.extractLsb' 0 32 ∧
    csrRead s 0x24 = s.gang.arm.faddr.extractLsb' 32 32 ∧ csrRead s 0x60 = BitVec.ofNat 32 s.time ∧
    csrRead s 0x61 = BitVec.ofNat 32 (s.time / 2 ^ 32) ∧
    ∀ n, n < 16 → csrRead s (0x40 + n) = smapGet 0 s.gang.stallCnt n

/-- Between `s` and `t` a gang's registers become `nv` vectors and `ns` scalars, of which those below `kv` and `ks` are kept with their
shadows in both arms; every other one holds zero with the shadow [0, 0] (R231). Nothing else changes but what scoreboards hold of the rest. -/
def Claims.resized (s t : State) (nv ns kv ks : Nat) : Prop :=
  t = { s with gang := { s.gang with
    nv := nv, ns := ns, v := t.gang.v, s := t.gang.s, partner := t.gang.partner
    arm := { s.gang.arm with shV := t.gang.arm.shV, shS := t.gang.arm.shS, frame := t.gang.arm.frame, owed := t.gang.arm.owed } } } ∧
  (∀ r l, l < 96 → readV t.gang r l = if r < kv then readV s.gang r l else 0) ∧
  (∀ r, r < 61 → readS t.gang r = if r < ks then readS s.gang r else 0) ∧
  (∀ r, shadowV t.gang r = if r < kv then shadowV s.gang r else ⟨0, 0⟩) ∧
  (∀ r, shadowS t.gang r = if r < ks ∨ 61 ≤ r then shadowS s.gang r else ⟨0, 0⟩) ∧
  (∀ r, smapGet Shadow.zero t.gang.arm.frame.shV r = if r < kv then smapGet Shadow.zero s.gang.arm.frame.shV r else ⟨0, 0⟩) ∧
  (∀ o ∈ t.gang.arm.owed, o ∈ s.gang.arm.owed ∧ (o.vec = true → o.reg < kv)) ∧
  (∀ o ∈ s.gang.arm.owed, o.vec = true → o.reg < kv → o ∈ t.gang.arm.owed)

/-- R391, R392: VGROW takes its scalar registers at once and goes on where it needs no more vector registers; otherwise it waits, and the
head of its core's queue is granted whole where the file has room. VSHRINK releases registers, never below the declared number. A
register that is gained holds zero with the shadow [0, 0] (R231). -/
def Obligations.RegisterGrowth : Prop :=
  (∀ (nvq : BitVec 5) (nsq : BitVec 4) s s1, Issues (.vgrow nvq nsq) false s s1 → 8 * nvq.toNat ≤ s1.gang.nv →
    ∃ t, Completes (.vgrow nvq nsq) s t ∧
      Claims.resized s1 t s1.gang.nv (Max.max s1.gang.ns (8 * nsq.toNat)) s1.gang.nv s1.gang.ns) ∧
  (∀ (nvq : BitVec 5) (nsq : BitVec 4) s s1, Issues (.vgrow nvq nsq) false s s1 → s1.gang.nv < 8 * nvq.toNat →
    ∃ t, exec (.vgrow nvq nsq) s = .next t ∧ t.gang.ns = Max.max s1.gang.ns (8 * nsq.toNat) ∧ t.gang.nv = s1.gang.nv ∧
      t.gang.arm.stall = .vgrow (8 * nvq.toNat) (Max.max s1.gang.ns (8 * nsq.toNat)) ∧ t.gang.arm.pc = s1.gang.arm.pc ∧
      (∀ r l, l < 96 → readV t.gang r l = if r < s1.gang.nv then readV s1.gang r l else 0) ∧
      (∀ r, r < 61 → readS t.gang r = if r < s1.gang.ns then readS s1.gang r else 0) ∧ t.mem = s1.mem) ∧
  (∀ core s k n g a rest nv ns, s.live = true → s.gang = g → s.gang.arm = a → a.stall = .vgrow nv ns →
    vgrowQueue s core = (k, n, g, a) :: rest → vrfRoom s core ((nv - g.nv) * 32 * (g.declared / 8)) = true →
    ∃ t, exec (.vgrowGrant core) s = .next (afterIssue (advance t (.vgrow 0 0))) ∧
      Claims.resized s t (Max.max g.nv nv) (Max.max g.ns ns) g.nv g.ns) ∧
  (∀ (nvq : BitVec 5) (nsq : BitVec 4) s s1, Issues (.vshrink nvq nsq) false s s1 →
    let nv := if nvq = 0 then s1.gang.nv else Max.max s1.gang.nvDecl (Min.min s1.gang.nv (8 * nvq.toNat))
    let ns := if nsq = 0 then s1.gang.ns else Max.max s1.gang.nsDecl (Min.min s1.gang.ns (8 * nsq.toNat))
    (∀ a ∈ armsOf s1.gang, ∀ o ∈ a.owed, o.landed = true ∨ (if o.vec then o.reg < nv else o.reg < ns ∨ 61 ≤ o.reg)) →
    ∃ t, Completes (.vshrink nvq nsq) s t ∧ Claims.resized s1 t nv ns nv ns)

/-- The entries that a WAIT for counter `c` to reach `k` considers (R401). -/
def Claims.considered (c : Nat) (k : BitVec 16) (p : Pend) : Bool :=
  p.ctr == c && decide ((k - BitVec.ofNat 16 p.ticket).toNat < 2 ^ 15)

/-- The three instructions that wait for a counter to reach a value. -/
def Claims.waits (i : Instr) (c : CtrNo) (k : State → BitVec 16) : Prop :=
  (∃ v, i = .wait c v ∧ k = fun _ => v) ∨ (∃ r : SReg, i = .waitReg c r ∧ k = fun s => (readS s.gang r.toNat).extractLsb' 0 16)

/-- R157, R332: the place that a WAIT takes in the memory order. The arm comes after the units whose operations have arrived on the counter;
the image of a tile load that it covers is written then, and the arm goes on without it. A byte that another agent has written since the
load issued may keep that value (log entry 54); nothing else of memory changes. -/
def Claims.WaitPlaces : Prop :=
  (∀ s c k, (∀ im ∈ s.gang.images, imagesOf s.gang c k im = false) →
    waitPlaced c k s = { s with gang := { s.gang with arm := { s.gang.arm with
      ltime := Max.max s.gang.arm.ltime (smapGet 0 s.gang.ctimes c) } } }) ∧
  (∀ s c k im m, s.gang.images.filter (imagesOf s.gang c k) = [im] → (im.bytes.map Prod.fst).Nodup →
    s.teams.find? (fun m => m.id == s.gang.team) = some m →
    let u := waitPlaced c k s
    let key (o : Nat) := scrKey s.gang.core (m.scrBase * 4096 + o)
    s.gang.arm.ltime ≤ u.gang.arm.ltime ∧ smapGet 0 s.gang.ctimes c ≤ u.gang.arm.ltime ∧
      u.gang.images = s.gang.images.filter (fun x => !imagesOf s.gang c k x) ∧ u.gang.v = s.gang.v ∧ u.gang.s = s.gang.s ∧
      u.mem = { s.mem with scratch := u.mem.scratch } ∧
      (∀ o b, (o, b) ∈ im.bytes → (stampOf s (scrLine (key o))).wby = armNo s ∨ (stampOf s (scrLine (key o))).wts < im.since →
        smapGet 0 u.mem.scratch (key o) = b) ∧
      ∀ x, (∀ o b, (o, b) ∈ im.bytes → x ≠ key o) → smapGet 0 u.mem.scratch x = smapGet 0 s.mem.scratch x)

/-- R172 to R175, R332, R333, R401: a WAIT whose counter has reached its value, with no cause pending among the operations it considers and a
place within the bound on logical time, completes: it takes its place, the registers they owe are owed no longer and their matrix flags are
merged. Registers and counters stay. -/
def Claims.WaitCompletes : Prop :=
  ∀ i c k, Claims.waits i c k → ∀ s s1, Issues i false s s1 →
    (smapGet 0 s1.gang.c c.toNat - k s1).toNat < 2 ^ 15 →
    (∀ p ∈ s1.gang.pend, Claims.considered c.toNat (k s1) p = true → p.cause = 0) →
    let u := waitPlaced c.toNat (k s1) s1
    u.gang.arm.ltime ≤ timeBound s1 →
    ∃ t, Completes i s t ∧ t = { u with gang := { u.gang with
        vflags := t.gang.vflags, pend := t.gang.pend, arm := { u.gang.arm with owed := t.gang.arm.owed, shS := t.gang.arm.shS, shV := t.gang.arm.shV } } } ∧
      t.gang.arm.owed = s1.gang.arm.owed.filter (fun o =>
        !(o.ctr == c.toNat && o.landed && decide ((k s1 - BitVec.ofNat 16 o.ticket).toNat < 2 ^ 15))) ∧
      t.gang.pend = s1.gang.pend.filter (fun p => !Claims.considered c.toNat (k s1) p) ∧
      ∀ l, l < 96 → smapGet 0 t.gang.vflags l = if active s1 l = true then
          (s1.gang.pend.filter (Claims.considered c.toNat (k s1))).foldl (fun m p => m ||| p.flags) (smapGet 0 s1.gang.vflags l)
        else smapGet 0 s1.gang.vflags l

/-- R175, R401: a WAIT whose counter has not reached its value does not issue; one that considers a pending cause takes it as a trap, with
the reason and address of its entry, and clears that cause's entries. -/
def Claims.WaitStallsAndTraps : Prop :=
  ∀ i c k, Claims.waits i c k → ∀ s s1, Issues i false s s1 →
    (2 ^ 15 ≤ (smapGet 0 s1.gang.c c.toNat - k s1).toNat → (∀ c' k' t0, s1.gang.arm.stall ≠ .wait c' k' t0) →
      ∃ t, exec i s = .next t ∧ t.gang.arm.stall = .wait c.toNat (k s1).toNat s1.cc ∧ t.gang.arm.pc = s1.gang.arm.pc ∧
        t.gang.v = s1.gang.v ∧ t.gang.s = s1.gang.s ∧ t.mem = s1.mem) ∧
    (∀ p, (smapGet 0 s1.gang.c c.toNat - k s1).toNat < 2 ^ 15 → p ∈ s1.gang.pend →
      Claims.considered c.toNat (k s1) p = true → p.cause ∈ [0x0A, 0x0E, 0x0F, 0x14, 0x15, 0x16] →
      (∀ q ∈ s1.gang.pend, Claims.considered c.toNat (k s1) q = true → q.cause = 0 ∨ q = p) →
      ∃ u, exec i s = .next (stepDone (trapEntry (unpop s u) ⟨p.cause, p.reason, p.faddr.toNat, s1.gang.arm.mask, []⟩ s.gang.arm.pc)) ∧
        u = { s1 with gang := { s1.gang with pend := u.gang.pend } } ∧
        ∀ q ∈ u.gang.pend, Claims.considered c.toNat (k s1) q = true → q.cause ≠ p.cause)

/-- R171, R172, R175: the events of counters. Data lands in the registers it is owed to, where its reads wait for no refresh and no bank; a counter takes the arrival of its oldest
operation, which leaves; a stalled WAIT whose counter has reached its value ends. R373: a wait beyond the watchdog's limit raises
BarrierTimeout. -/
def Claims.CounterEvents : Prop :=
  (∀ g n s o, s.live = true → s.gang.id = g → s.gang.ops.find? (fun x => x.id == n) = some o → o.kind = .mem → o.landed = false →
    o.after ≤ s.cc → o.banks = [] → o.desc = none → (∀ w ∈ o.lands, w.lane < 96 ∧ (w.vec = false → w.reg < 61)) →
    ∃ t, exec (.dataLanding g n) s = .next t ∧ t.mem = s.mem ∧ t.gang.c = s.gang.c ∧ t.gang.arm.pc = s.gang.arm.pc ∧
      t.gang.arm.mask = s.gang.arm.mask ∧
      (∀ r l, l < 96 → readV t.gang r l =
        ((o.lands.filter (fun w => w.vec && w.reg == r && w.lane == l)).map (fun w => w.val)).getLastD (readV s.gang r l)) ∧
      (∀ r, r < 61 → readS t.gang r = ((o.lands.filter (fun w => !w.vec && w.reg == r)).map (fun w => w.val)).getLastD (readS s.gang r)) ∧
      ∀ w ∈ t.gang.arm.owed, w.op = o.id → w.landed = true) ∧
  (∀ g c s o rest, s.live = true → s.gang.id = g → outstanding s.gang c = o :: rest → o.landed = true → o.done = true →
    ∃ t, exec (.arrive g c) s = .next t ∧ t.mem = s.mem ∧
      t.gang = { s.gang with ops := s.gang.ops.filter (fun x => decide (x.id ≠ o.id)), c := t.gang.c, ctimes := t.gang.ctimes } ∧
      ∀ m, smapGet 0 t.gang.c m = (if m = c then smapGet 0 s.gang.c c + 1 else smapGet 0 s.gang.c m) ∧
        smapGet 0 t.gang.ctimes m = if m = c then Max.max (smapGet 0 s.gang.ctimes c) o.time else smapGet 0 s.gang.ctimes m) ∧
  (∀ g slot c k t0 s, s.live = true → s.gang.id = g → s.gang.arm.slot = slot → s.gang.arm.stall = .wait c k t0 → c < 16 → k < 2 ^ 16 →
    (smapGet 0 s.gang.c c - BitVec.ofNat 16 k).toNat < 2 ^ 15 → (∀ p ∈ s.gang.pend, p.ctr ≠ c) → (∀ o ∈ s.gang.arm.owed, o.ctr ≠ c) →
    (waitPlaced c (BitVec.ofNat 16 k) s).gang.arm.ltime ≤ timeBound s →
    ∃ t, exec (.waitComplete g slot) s = .next (afterIssue (advance t (.wait (BitVec.ofNat 4 c) (BitVec.ofNat 16 k)))) ∧
      t = { waitPlaced c (BitVec.ofNat 16 k) s with
        gang := { (waitPlaced c (BitVec.ofNat 16 k) s).gang with vflags := t.gang.vflags } } ∧ ∀ l, l < 96 → smapGet 0 t.gang.vflags l = smapGet 0 s.gang.vflags l) ∧
  (∀ g slot n t0 s, s.live = true → s.gang.id = g → s.gang.arm.slot = slot → s.gang.arm.stall = .bar n t0 → watchdog s ≠ 0 →
    t0 + watchdog s ≤ s.cc → (∀ w ∈ s.gang.arm.barWaits, w.2.2 = none) →
    exec (.barrierTimeout g slot) s = .next (trapEntry s ⟨0x10, 1, n, s.gang.arm.mask, []⟩ s.gang.arm.pc))

/-- R173: in debug-hazard mode an instruction that would read an owed register raises Hazard at the group, with the register's number in
FADDR; an instruction that would write a register whose data has not landed does not issue. -/
def Claims.Hazards : Prop :=
  ∀ sh d a b s s1 f i, (f, i) ∈ Claims.shortBinary.map (fun p => (p.1, p.2 sh d a b)) →
    s.live = true → instrWf i = true → usesOk s.gang i = true → popAll s i = .ok s1 →
    (∀ r, hazardReg s.gang (usesNow s.gang.arm i) = some r →
      exec i s = .next (stepDone (trapEntry (unpop s s) ⟨0x0C, 0, r, s.gang.arm.mask, []⟩ s.gang.arm.pc))) ∧
    (hazardReg s.gang (usesNow s.gang.arm i) = none → owedWrite s.gang (usesNow s.gang.arm i) = true →
      ∃ t, exec i s = .next t ∧ t.gang.v = s.gang.v ∧ t.gang.s = s.gang.s ∧ t.gang.arm.pc = s.gang.arm.pc ∧
        t.gang.arm.rep = s.gang.arm.rep ∧ t.mem = s.mem ∧ t.gang.arm.stall = (match s.gang.arm.stall with | .none | .retry _ => .retry 0 | w => w))

/-! ### Memory instructions (R170 to R174, R190 to R194, R243 to R250, R253) -/

/-- Between `s` and `t` one operation `o` was issued on counter `c`, with the ticket that follows (R170); registers, masks and counters
stay. -/
def Claims.issuedOn (s t : State) (c : Nat) (o : Op) : Prop :=
  t.gang.ops = s.gang.ops ++ [o] ∧ o.ctr = c ∧ o.ticket = (smapGet 0 s.gang.issueCnt c + 1).toNat ∧
    (∀ m, smapGet 0 t.gang.issueCnt m = if m = c then smapGet 0 s.gang.issueCnt c + 1 else smapGet 0 s.gang.issueCnt m) ∧
    t.gang.c = s.gang.c ∧ t.gang.v = s.gang.v ∧ t.gang.s = s.gang.s ∧ t.gang.arm.mask = s.gang.arm.mask ∧
    t.gang.arm.pc = s.gang.arm.pc ∧ t.gang.vflags = s.gang.vflags ∧ t.gang.sflags = s.gang.sflags ∧ t.gang.fpc = s.gang.fpc

/-- An operation that its issue performs whole: it owes nothing and may arrive. -/
def Claims.performed (o : Op) : Prop := o.lands = [] ∧ o.desc = none ∧ o.landed = true ∧ o.done = true

/-- Every access of the executing arm keeps within the bound on logical time (R333). -/
def Claims.inTime (s : State) : Prop := ∀ k, writeTime s (armNo s) k ≤ timeBound s

/-- The operands of a memory instruction: sign extension, mode, data register, descriptor, index, displacement, counter. -/
structure Claims.Access where
  sx : Bool
  md : Md
  d : Nat
  ad : DescNo
  ix : Nat
  disp : Int
  c : CtrNo

/-- LD and LDG, short and long. -/
def Claims.loadOf : Instr → Option Claims.Access
  | .ld md d ad ix dsp cn | .ldg md d ad ix dsp cn => some ⟨false, md, d.toNat, ad, ix.toNat, dsp.toNat, cn.setWidth 4⟩
  | .ldLong sx _ md d ad ix disp cn | .ldgLong sx _ md d ad ix disp cn => some ⟨sx, md, d.toNat, ad, ix.toNat, disp.toInt, cn⟩
  | _ => none

/-- ST and STG, short and long. -/
def Claims.storeOf : Instr → Option Claims.Access
  | .st md d ad ix dsp cn | .stg md d ad ix dsp cn => some ⟨false, md, d.toNat, ad, ix.toNat, dsp.toNat, cn.setWidth 4⟩
  | .stLong _ md d ad ix disp cn | .stgLong _ md d ad ix disp cn => some ⟨false, md, d.toNat, ad, ix.toNat, disp.toInt, cn⟩
  | _ => none

/-- PF, short and long. -/
def Claims.prefetchOf : Instr → Option Claims.Access
  | .pf md ad ix dsp cn => some ⟨false, md, 0, ad, ix.toNat, dsp.toNat, cn.setWidth 4⟩
  | .pfLong _ md ad ix disp cn => some ⟨false, md, 0, ad, ix.toNat, disp.toInt, cn⟩
  | _ => none

/-- The vector forms. -/
def Claims.Access.vec (o : Claims.Access) : Bool := decide (o.md ≠ .ss)

/-- The descriptor of an access. -/
def Claims.Access.desc (o : Claims.Access) (s : State) : BitVec 128 := readA s.gang o.ad.toNat

/-- Its lanes: the active ones, or lane 0 of a scalar form. -/
def Claims.Access.lanes (o : Claims.Access) (s : State) : List Nat := if o.vec then Claims.lanes s else [0]

/-- The index of a lane (R190). -/
def Claims.Access.idx (o : Claims.Access) (s : State) (l : Nat) : Int :=
  match o.md with
  | .vv => (readV s.gang o.ix l).toInt + o.disp
  | .vs => (readS s.gang o.ix).toInt + l + o.disp
  | .ss => (readS s.gang o.ix).toInt + o.disp

/-- A lane passes the bounds decision: the interval of the indices shows it, or its own index lies in the extent (R243). -/
def Claims.Access.inRange (o : Claims.Access) (s : State) (l : Nat) : Bool :=
  discharged (o.desc s) (accInterval s.gang o.md o.ix o.disp) ||
    (decide (0 ≤ o.idx s l) && decide (o.idx s l < descExtent (o.desc s)))

/-- The elements that pass it. -/
def Claims.Access.elems (o : Claims.Access) (s : State) (n : Nat) : List Elem :=
  ((o.lanes s).filter (o.inRange s)).map (fun l => ⟨l, elemAddr (o.desc s) (o.idx s l), n⟩)

/-- What every memory instruction needs to issue on its counter: no ADLD owes its descriptor (R250), and the counter has room (R171). -/
def Claims.Access.ready (o : Claims.Access) (s : State) : Prop :=
  owedDesc s.gang o.ad.toNat = false ∧ (outstanding s.gang o.c.toNat).length < 32767

/-- The registers that an access names beyond D are legal, free of hazards and not owed (R173, R190, R231). -/
def Claims.extraOk (s : State) (us : List Use) : Prop :=
  us.all (useOk s.gang) = true ∧ hazardReg s.gang us = none ∧ owedWrite s.gang us = false

/-- The element size is one the instruction takes, and a pair's second register is as it should be. -/
def Claims.Access.sized (o : Claims.Access) (s : State) (es : Nat) (rd wr : Bool) : Prop :=
  descBytes (o.desc s) = es ∧ es ≠ 0 ∧ (es = 8 → o.d % 2 = 0 ∧ Claims.extraOk s (extraUses o.md o.d 1 rd wr))

/-- No lane out of range meets a descriptor in trap mode. -/
def Claims.Access.bounded (o : Claims.Access) (s : State) : Prop :=
  descTrap (o.desc s) = false ∨ ∀ l ∈ o.lanes s, o.inRange s l = true

/-- Nothing is known to be wrong with memory or a cache, every cached line is backed and no copy is out of date, no page moves, and no
launch keeps snapshots or captures (R60, R73, R74, R128, R146, R178, R333, R415, R417). -/
def Claims.sound (s : State) : Prop :=
  (∀ l ∈ s.caches.jigsaw, l.errs = [] ∧ unbacked s l.pa = false) ∧
    (∀ l ∈ s.caches.l1, l.errs = [] ∧ l.data = [] ∧ unbacked s (l.pa * 256) = false) ∧
    s.yo.moves = [] ∧ s.mem.poison = [] ∧ s.dram.bad = [] ∧ s.dram.parityErr = [] ∧ s.dram.failed = [] ∧ s.banks.errors = [] ∧ s.mem.scratchPoison = [] ∧
    s.mem.bankPoison = [] ∧ ∀ l ∈ s.launches, launchMode l 2 = false ∧ launchMode l 3 = false

/-- A translation changes no entry of a page table (R99): it comes from a TLB, or every entry that its walk read has A set, and the leaf
D too. -/
def Claims.settled (x : Xlat) : Prop :=
  ∀ w, x.walk = some w → w.entry.testBit 5 = true ∧ w.entry.testBit 6 = true ∧ ∀ e ∈ w.path, e.2.2.testBit 5 = true

/-- No entry of a page table changes by the translations of checked elements. -/
def Claims.held (cs : List Checked) : Prop := ∀ k ∈ cs, ∀ q ∈ k.pieces, Claims.settled q.x

/-- R170, R174, R190: a load whose elements pass the checks of R104 completes on its counter: its data register is owed from then on, its
landing will write that register, and a pair's second, in every lane of the access, and nothing is written before. Where no
page-table entry changes, no byte does, and a lone element of global memory gives the little-endian number of its bytes. -/
def Claims.LoadsIssue : Prop :=
  ∀ i o, Claims.loadOf i = some o → ∀ s s1 es cs, Issues i false s s1 → o.ready s1 → ¬(o.vec = true ∧ s1.gang.arm.mask = 0) →
    o.sized s1 es false true → o.bounded s1 →
    checkAccess s1 (armAgent s1) (apCtx s1) (descOvr (o.desc s1)) es .read (o.elems s1 es) = .ok cs → pastBound s1 cs false = false →
    ∃ t p, Completes i s t ∧ Claims.issuedOn s1 t o.c.toNat p ∧ p.kind = .mem ∧ p.done = true ∧ p.landed = false ∧ p.desc = none ∧
      (∀ l ∈ o.lanes s1, ∃ w ∈ p.lands, w.vec = o.vec ∧ w.reg = o.d ∧ w.lane = l) ∧
      (∀ w ∈ p.lands, w.vec = o.vec ∧ w.lane ∈ o.lanes s1 ∧ (w.reg = o.d ∨ (es = 8 ∧ w.reg = o.d + 1))) ∧
      (∀ l ∈ o.lanes s1, o.inRange s1 l = false → ∀ w ∈ p.lands, w.lane = l → w.val = 0) ∧
      (∃ x ∈ t.gang.arm.owed, x.vec = o.vec ∧ x.reg = o.d ∧ x.op = p.id ∧ x.landed = false) ∧
      (∀ l, l < 96 → t.gang.bmiss.getLsbD l = (s1.gang.bmiss.getLsbD l || ((o.lanes s1).contains l && !o.inRange s1 l))) ∧
      (Claims.sound s1 → Claims.held cs →
        t.mem = { s1.mem with host := t.mem.host } ∧
        ∀ l q, (o.lanes s1).filter (o.inRange s1) = [l] → cs.flatMap (fun k => k.pieces) = [q] →
          (∀ j, j < es → cacheable s1 (q.x.pa + j) = true) → q.x.pa % 256 + es ≤ 256 →
          let bytes := leNat ((List.range es).map (fun j => smapGet 0 s1.mem.main (q.x.pa + j)))
          let value : DWord := if o.sx = true ∧ es < 8 then BitVec.ofInt 64 (BitVec.ofNat (8 * es) bytes).toInt else BitVec.ofNat 64 bytes
          (⟨o.vec, o.d, l, value.setWidth 32⟩ : RegWrite) ∈ p.lands ∧
            (es = 8 → (⟨o.vec, o.d + 1, l, value.extractLsb' 32 32⟩ : RegWrite) ∈ p.lands))

/-- The scratchpad byte of a core that offset `k` of its team's scratchpad names. -/
def Claims.scratchKey (s : State) (k : Nat) : Nat := scrKey s.gang.core ((apCtx s).scrBase + k)

/-- The elements of an access that pass its checks lie in the scratchpad, at the offsets `off` by lane, and aligned; nothing is known to
be wrong with the scratchpad's words. -/
def Claims.Access.inScratch (o : Claims.Access) (s : State) (es : Nat) (off : Nat → Nat) : Prop :=
  (∀ l ∈ o.lanes s, o.inRange s l = true →
    resolve (apCtx s) (descOvr (o.desc s)) (elemAddr (o.desc s) (o.idx s l)) es l = .ok (.scratch (off l)) ∧
      elemAddr (o.desc s) (o.idx s l) % es = 0) ∧
    s.banks.errors = [] ∧ s.mem.scratchPoison = [] ∧ Claims.inTime s

/-- R190: a load from the scratchpad will write, in each lane in range, the little-endian number of the element's bytes, zero-extended or,
under .sx, sign-extended, and 0 in a masked lane; where its footprint names no global line (R181), no byte of memory changes. -/
def Claims.ScratchpadLoads : Prop :=
  ∀ i o, Claims.loadOf i = some o → ∀ s s1 es off, Issues i false s s1 → o.ready s1 → ¬(o.vec = true ∧ s1.gang.arm.mask = 0) →
    o.sized s1 es false true → o.bounded s1 → o.inScratch s1 es off →
    ∃ t p, Completes i s t ∧ Claims.issuedOn s1 t o.c.toNat p ∧
      (o.vec = false ∨ footprintGlobal (apCtx s1) (descOvr (o.desc s1))
        (footprintOf (o.desc s1) (accInterval s1.gang o.md o.ix o.disp)) = false → t.mem = s1.mem) ∧
      let bytes (l : Nat) : Nat := leNat ((List.range es).map (fun j => smapGet 0 s1.mem.scratch (Claims.scratchKey s1 (off l) + j)))
      let value (l : Nat) : DWord :=
        if o.inRange s1 l = true then
          (if o.sx = true ∧ es < 8 then (BitVec.ofInt 64 (BitVec.ofNat (8 * es) (bytes l)).toInt) else BitVec.ofNat 64 (bytes l))
        else 0
      ∀ l ∈ o.lanes s1, (⟨o.vec, o.d, l, (value l).setWidth 32⟩ : RegWrite) ∈ p.lands ∧
        (es = 8 → (⟨o.vec, o.d + 1, l, (value l).extractLsb' 32 32⟩ : RegWrite) ∈ p.lands)

/-- The low bytes of a lane of a data register, or of its pair. -/
def Claims.Access.byte (o : Claims.Access) (s : State) (es l j : Nat) : Byte :=
  let x : DWord :=
    if o.vec then (if es = 8 then pairOf (readV s.gang o.d l) (readV s.gang (o.d + 1) l) else (readV s.gang o.d l).setWidth 64)
    else (if es = 8 then readS64 s.gang o.d else (readS s.gang o.d).setWidth 64)
  BitVec.ofNat 8 (x.toNat / 2 ^ (8 * j))

/-- R190: a store whose elements pass the checks of R104, with no twin lane at odds (R419), completes; it owes nothing. Where no page-table
entry changes, the bytes outside its elements stay, and a lone element takes the low bytes of its lane. -/
def Claims.StoresIssue : Prop :=
  ∀ i o, Claims.storeOf i = some o → ∀ s s1 es cs, Issues i false s s1 → o.ready s1 → ¬(o.vec = true ∧ s1.gang.arm.mask = 0) →
    o.sized s1 es true false → o.bounded s1 → (o.vec = true → twinTrap s1.gang = none) →
    checkAccess s1 (armAgent s1) (apCtx s1) (descOvr (o.desc s1)) es .write (o.elems s1 es) = .ok cs → pastBound s1 cs true = false →
    ∃ t p, Completes i s t ∧ Claims.issuedOn s1 t o.c.toNat p ∧ p.kind = .mem ∧ Claims.performed p ∧
      (∀ l, l < 96 → t.gang.bmiss.getLsbD l = (s1.gang.bmiss.getLsbD l || ((o.lanes s1).contains l && !o.inRange s1 l))) ∧
      (Claims.sound s1 → Claims.held cs →
        (∀ k, (∀ c ∈ cs, ∀ q ∈ c.pieces, k < q.x.pa ∨ q.x.pa + q.n ≤ k) → smapGet 0 t.mem.main k = smapGet 0 s1.mem.main k) ∧
        ∀ l q, (o.lanes s1).filter (o.inRange s1) = [l] → cs.flatMap (fun k => k.pieces) = [q] → cacheable s1 q.x.pa = true →
          q.x.pa % 256 + es ≤ 256 → ∀ j, j < es → smapGet 0 t.mem.main (q.x.pa + j) = o.byte s1 es l j)

/-- R190: a store to the scratchpad writes the low bytes of each lane in range at its element, the last lane's where two name a byte; every
other byte of the scratchpads and every byte of the other memories stays. -/
def Claims.ScratchpadStores : Prop :=
  ∀ i o, Claims.storeOf i = some o → ∀ s s1 es off, Issues i false s s1 → o.ready s1 → ¬(o.vec = true ∧ s1.gang.arm.mask = 0) →
    o.sized s1 es true false → o.bounded s1 → (o.vec = true → twinTrap s1.gang = none) → o.inScratch s1 es off →
    ∃ t p, Completes i s t ∧ Claims.issuedOn s1 t o.c.toNat p ∧ Claims.performed p ∧
      t.mem = { s1.mem with scratch := t.mem.scratch } ∧
      let covers (k l : Nat) : Bool :=
        o.inRange s1 l && decide (Claims.scratchKey s1 (off l) ≤ k) && decide (k < Claims.scratchKey s1 (off l) + es)
      ∀ k, smapGet 0 t.mem.scratch k = match ((o.lanes s1).filter (covers k)).getLast? with
        | some l => o.byte s1 es l (k - Claims.scratchKey s1 (off l))
        | none => smapGet 0 s1.mem.scratch k

/-- R190, R243: PF completes on its counter whatever its lanes meet: it never traps and writes no register. -/
def Claims.PrefetchesIssue : Prop :=
  ∀ i o, Claims.prefetchOf i = some o → ∀ s s1, Issues i false s s1 → o.ready s1 → descBytes (o.desc s1) ≠ 0 →
    ∃ t p, Completes i s t ∧ Claims.issuedOn s1 t o.c.toNat p ∧ p.kind = .mem ∧ Claims.performed p

/-- R190, R362: under a zero mask the vector form of a load, store, prefetch or atomic performs nothing and still arrives. -/
def Claims.ZeroMaskAccess : Prop :=
  ∀ i o, (Claims.loadOf i = some o ∨ Claims.storeOf i = some o ∨ Claims.prefetchOf i = some o ∨
      ∃ f hn md d ad ix disp cn, (i = .atom f hn md d ad ix disp cn ∨ i = .batom f hn md d ad ix disp cn) ∧
        o = ⟨false, md, d.toNat, ad, ix.toNat, disp.toInt, cn⟩) →
    ∀ s s1, Issues i false s s1 → o.ready s1 → o.vec = true → s1.gang.arm.mask = 0 →
    ∃ t p, Completes i s t ∧ Claims.issuedOn s1 t o.c.toNat p ∧ Claims.performed p ∧
      t = { s1 with serial := s1.serial + 1, gang := { s1.gang with issueCnt := t.gang.issueCnt, ops := t.gang.ops, arm := t.gang.arm } }

/-- R243, R247: under a descriptor in trap mode an access with a lane out of range raises BoundsTrap: its lanes are those out of range;
the reason is 1 for a negative index and 2 otherwise, and FADDR the index, of the lowest of them. -/
def Claims.BoundsTraps : Prop :=
  ∀ i o, (Claims.loadOf i = some o ∨ Claims.storeOf i = some o) → ∀ s s1 es rd wr, Issues i false s s1 → o.ready s1 →
    (Claims.loadOf i = some o → rd = false ∧ wr = true) → (Claims.storeOf i = some o → rd = true ∧ wr = false) →
    o.sized s1 es rd wr → descTrap (o.desc s1) = true →
    ∀ l, (o.lanes s1).find? (fun l => !o.inRange s1 l) = some l →
    ∃ x : Trap, exec i s = .next (stepDone (trapEntry (unpop s s1) x s.gang.arm.pc)) ∧ x.cause = 5 ∧
      x.reason = (if o.idx s1 l < 0 then 1 else 2) ∧ BitVec.ofNat 64 x.faddr = BitVec.ofInt 64 (o.idx s1 l) ∧
      ∀ m, m < 96 → x.lanes.getLsbD m = ((o.lanes s1).contains m && !o.inRange s1 m)

/-- R104, R190: an element that is not aligned to its size, with every element's place in order, raises Misaligned, with the lowest such
lane's address in FADDR. -/
def Claims.MisalignedElements : Prop :=
  ∀ i o, (Claims.loadOf i = some o ∨ Claims.storeOf i = some o) → ∀ s s1 es rd wr, Issues i false s s1 → o.ready s1 →
    (Claims.loadOf i = some o → rd = false ∧ wr = true) → (Claims.storeOf i = some o → rd = true ∧ wr = false) →
    o.sized s1 es rd wr → o.bounded s1 →
    (∀ e ∈ o.elems s1 es, ∃ t, resolve (apCtx s1) (descOvr (o.desc s1)) e.addr e.n e.lane = .ok t) →
    ∀ e, (o.elems s1 es).find? (fun e => decide (e.addr % es ≠ 0)) = some e →
    ∃ x u, exec i s = .next (stepDone (trapEntry (unpop s u) x s.gang.arm.pc)) ∧ (x : Trap).cause = 7 ∧ x.reason = 0 ∧
      x.faddr = e.addr ∧ u = s1

/-- Atomic elements in the scratchpad or in bank memory, one lane after another (R191, R192): the old values, and the memory after. -/
def Claims.atomRun (f : AtomFn) (es : Nat) : List (Nat × Nat × Nat × Nat) → List Host.Cell → List (Nat × Nat) × List Host.Cell
  | [], m => ([], m)
  | (l, k, x, y) :: rest, m =>
    let old := leNat (cellsRead m k es)
    let r := Claims.atomRun f es rest (cellsWrite m k (leBytes es (atomVal f es old x y)))
    ((l, old) :: r.1, r.2)

/-- A data operand of an atomic: register `r`, or the pair from it, in lane `l`. -/
def Claims.Access.data (o : Claims.Access) (s : State) (es r l : Nat) : Nat :=
  if o.vec then (if es = 8 then (pairOf (readV s.gang r l) (readV s.gang (r + 1) l)).toNat else (readV s.gang r l).toNat)
  else (if es = 8 then (readS64 s.gang r).toNat else (readS s.gang r).toNat)

/-- R191, R192: ATOM on the scratchpad updates its elements in ascending lane order and will write each lane's old value to D. -/
def Claims.AtomicsInScratchpad : Prop :=
  ∀ f hn md d ad ix disp cn s s1 es off,
    let i := Instr.atom f hn md d ad ix disp cn
    let o : Claims.Access := ⟨false, md, d.toNat, ad, ix.toNat, disp.toInt, cn⟩
    let two : Bool := decide (f = .cas)
    Issues i false s s1 → o.ready s1 → ¬(o.vec = true ∧ s1.gang.arm.mask = 0) →
    descBytes (o.desc s1) = es → (es = 4 ∨ es = 8) → d.toNat % ((if es = 8 then 2 else 1) * (if two then 2 else 1)) = 0 →
    Claims.extraOk s1 (extraUses md d.toNat ((if es = 8 then 2 else 1) * (if two then 2 else 1) - 1) true false ++
      (if es = 8 then extraUses md d.toNat 1 true true else [])) →
    o.bounded s1 → (o.vec = true → twinTrap s1.gang = none) → o.inScratch s1 es off →
    ∃ t p, Completes i s t ∧ Claims.issuedOn s1 t cn.toNat p ∧ t.mem = { s1.mem with scratch := t.mem.scratch } ∧
      let run := Claims.atomRun f es (((o.lanes s1).filter (o.inRange s1)).map (fun l =>
        (l, Claims.scratchKey s1 (off l), o.data s1 es d.toNat l, o.data s1 es (d.toNat + (if es = 8 then 2 else 1)) l))) s1.mem.scratch
      t.mem.scratch = run.2 ∧
        (∀ e ∈ run.1, (⟨o.vec, d.toNat, e.1, BitVec.ofNat 32 e.2⟩ : RegWrite) ∈ p.lands ∧
          (es = 8 → (⟨o.vec, d.toNat + 1, e.1, BitVec.ofNat 32 (e.2 / 2 ^ 32)⟩ : RegWrite) ∈ p.lands)) ∧
        ∀ l ∈ o.lanes s1, o.inRange s1 l = false → (⟨o.vec, d.toNat, l, 0⟩ : RegWrite) ∈ p.lands

/-- R193: BATOM on bank memory updates its elements in ascending lane order and returns nothing. -/
def Claims.AtomicsInBanks : Prop :=
  ∀ f hn md d ad ix disp cn s s1 es (off : Nat → Nat),
    let i := Instr.batom f hn md d ad ix disp cn
    let o : Claims.Access := ⟨false, md, d.toNat, ad, ix.toNat, disp.toInt, cn⟩
    let two : Bool := decide (f = .fma)
    Issues i false s s1 → o.ready s1 → ¬(o.vec = true ∧ s1.gang.arm.mask = 0) →
    descBytes (o.desc s1) = es → (es = 4 ∨ es = 8) → d.toNat % ((if es = 8 then 2 else 1) * (if two then 2 else 1)) = 0 →
    Claims.extraOk s1 (extraUses md d.toNat ((if es = 8 then 2 else 1) * (if two then 2 else 1) - 1) true false) →
    o.bounded s1 → (o.vec = true → twinTrap s1.gang = none) →
    (∀ l ∈ o.lanes s1, o.inRange s1 l = true →
      resolve (apCtx s1) (descOvr (o.desc s1)) (elemAddr (o.desc s1) (o.idx s1 l)) es l = .ok (.bank (off l)) ∧
        elemAddr (o.desc s1) (o.idx s1 l) % es = 0) →
    s1.banks.errors = [] → s1.mem.bankPoison = [] → Claims.inTime s1 →
    (∀ l ∈ s1.launches, launchMode l 2 = false ∧ launchMode l 3 = false) →
    ∃ t p, Completes i s t ∧ Claims.issuedOn s1 t cn.toNat p ∧ Claims.performed p ∧ t.mem = { s1.mem with bank := t.mem.bank } ∧
      t.mem.bank = (Claims.atomRun f es (((o.lanes s1).filter (o.inRange s1)).map (fun l =>
        (l, off l, o.data s1 es d.toNat l, o.data s1 es (d.toNat + (if es = 8 then 2 else 1)) l))) s1.mem.bank).2

/-- R104, R191, R192: ATOM whose elements pass the checks completes wherever they lie, and will write D. On global memory, where no
page-table entry changes, it updates its elements in ascending lane order and gives each lane's old value; no other byte changes. -/
def Claims.AtomicsInMemory : Prop :=
  ∀ f hn md d ad ix disp cn s s1 es cs,
    let i := Instr.atom f hn md d ad ix disp cn
    let o : Claims.Access := ⟨false, md, d.toNat, ad, ix.toNat, disp.toInt, cn⟩
    let n := (if es = 8 then 2 else 1) * (if f = .cas then 2 else 1)
    Issues i false s s1 → o.ready s1 → ¬(o.vec = true ∧ s1.gang.arm.mask = 0) →
    descBytes (o.desc s1) = es → (es = 4 ∨ es = 8) → d.toNat % n = 0 →
    Claims.extraOk s1 (extraUses md d.toNat (n - 1) true false ++ (if es = 8 then extraUses md d.toNat 1 true true else [])) →
    o.bounded s1 → (o.vec = true → twinTrap s1.gang = none) →
    checkAccess s1 (armAgent s1) (apCtx s1) (descOvr (o.desc s1)) es .atomic (o.elems s1 es) = .ok cs → pastBound s1 cs true = false →
    ∃ t p, Completes i s t ∧ Claims.issuedOn s1 t cn.toNat p ∧ p.kind = .mem ∧ p.done = true ∧ p.landed = false ∧
      (∀ l ∈ o.lanes s1, ∃ w ∈ p.lands, w.vec = o.vec ∧ w.reg = d.toNat ∧ w.lane = l) ∧
      (∃ x ∈ t.gang.arm.owed, x.vec = o.vec ∧ x.reg = d.toNat ∧ x.op = p.id ∧ x.landed = false) ∧
      (Claims.sound s1 → Claims.held cs → ∀ pa : Nat → Nat,
        (∀ c ∈ cs, ∃ q, c.pieces = [q] ∧ q.n = es ∧ q.x.pa = pa c.el.lane ∧ ∀ j, j < es → cacheable s1 (q.x.pa + j) = true) →
        let run := Claims.atomRun f es (((o.lanes s1).filter (o.inRange s1)).map (fun l =>
          (l, pa l, o.data s1 es d.toNat l, o.data s1 es (d.toNat + (if es = 8 then 2 else 1)) l))) s1.mem.main
        t.mem = { s1.mem with main := run.2, host := t.mem.host } ∧
          ∀ e ∈ run.1, (⟨o.vec, d.toNat, e.1, BitVec.ofNat 32 e.2⟩ : RegWrite) ∈ p.lands ∧
            (es = 8 → (⟨o.vec, d.toNat + 1, e.1, BitVec.ofNat 32 (e.2 / 2 ^ 32)⟩ : RegWrite) ∈ p.lands))

/-- R191: the floating operations of atomics, on f32 or f64: .fadd and .fma round the exact result once, to nearest even; .fmin and .fmax
order −0 below +0, take the other operand of a NaN, and m of two. -/
def Claims.FloatingAtomics : Prop :=
  ∀ es f, (es = 4 ∧ f = Fmt.f32) ∨ (es = 8 ∧ f = Fmt.f64) → ∀ m x y : Nat, m < 2 ^ (8 * es) → x < 2 ^ (8 * es) → y < 2 ^ (8 * es) →
    (∀ n1 m1 e1 n2 m2 e2, fpDecode f m = .fin n1 m1 e1 → fpDecode f x = .fin n2 m2 e2 →
      let a := Claims.real n1 m1 e1
      let b := Claims.real n2 m2 e2
      (∃ fl, Claims.Rounds FCtl.plain f (Claims.zeroSign .rne n1 n2 (m1 == 0 && m2 == 0)) (a + b) (atomVal .fadd es m x y, fl)) ∧
      (a < b → atomVal .fmin es m x y = m ∧ atomVal .fmax es m x y = x) ∧
      (b < a → atomVal .fmin es m x y = x ∧ atomVal .fmax es m x y = m) ∧
      (a = b → a ≠ 0 → atomVal .fmin es m x y = m ∧ atomVal .fmax es m x y = m) ∧
      (a = 0 → b = 0 → atomVal .fmin es m x y = (if n1 = true ∨ n2 = true then 2 ^ (8 * es - 1) else 0) ∧
        atomVal .fmax es m x y = (if n1 = true ∧ n2 = true then 2 ^ (8 * es - 1) else 0)) ∧
      ∀ n3 m3 e3, fpDecode f y = .fin n3 m3 e3 →
        ∃ fl, Claims.Rounds FCtl.plain f (Claims.zeroSign .rne (n3 != n2) n1 ((m3 == 0 || m2 == 0) && m1 == 0))
          (Claims.real n3 m3 e3 * b + a) (atomVal .fma es m x y, fl)) ∧
    (isNaN (fpDecode f x) = true → atomVal .fmin es m x y = m ∧ atomVal .fmax es m x y = m) ∧
    (isNaN (fpDecode f x) = false → isNaN (fpDecode f m) = true → atomVal .fmin es m x y = x ∧ atomVal .fmax es m x y = x)

/-- R191: the integer operations of atomics on elements of 32 and 64 bits. -/
def Claims.AtomicOperations : Prop :=
  ∀ es, es = 4 ∨ es = 8 → ∀ m x y : BitVec (8 * es),
    BitVec.ofNat (8 * es) (atomVal .add es m.toNat x.toNat y.toNat) = m + x ∧
    BitVec.ofNat (8 * es) (atomVal .min es m.toNat x.toNat y.toNat) = (if x.slt m then x else m) ∧
    BitVec.ofNat (8 * es) (atomVal .max es m.toNat x.toNat y.toNat) = (if m.slt x then x else m) ∧
    BitVec.ofNat (8 * es) (atomVal .minn es m.toNat x.toNat y.toNat) = (if x.ult m then x else m) ∧
    BitVec.ofNat (8 * es) (atomVal .maxn es m.toNat x.toNat y.toNat) = (if m.ult x then x else m) ∧
    BitVec.ofNat (8 * es) (atomVal .and es m.toNat x.toNat y.toNat) = m &&& x ∧
    BitVec.ofNat (8 * es) (atomVal .or es m.toNat x.toNat y.toNat) = m ||| x ∧
    BitVec.ofNat (8 * es) (atomVal .xor es m.toNat x.toNat y.toNat) = m ^^^ x ∧
    BitVec.ofNat (8 * es) (atomVal .exch es m.toNat x.toNat y.toNat) = x ∧
    BitVec.ofNat (8 * es) (atomVal .cas es m.toNat x.toNat y.toNat) = (if m = y then x else m)

/-- The elements of a spill block with the lanes that access them (R253): lane 0's value, the two shadow words, which are lane 0's, and the
other lanes' values. -/
def Claims.spillPlaces (lanes : List Nat) (base w : Int) : List (Nat × Int) :=
  (lanes.filter (fun l => l == 0)).map (fun (l : Nat) => ((l, base + l) : Nat × Int)) ++ [(0, base + w), (0, base + w + 1)] ++
    (lanes.filter (fun l => l != 0)).map (fun (l : Nat) => ((l, base + l) : Nat × Int))

/-- The little-endian 32-bit word at an offset of the team's scratchpad. -/
def Claims.scratchWord (s : State) (off : Nat) : Word :=
  BitVec.ofNat 32 (leNat ((List.range 4).map (fun j => smapGet 0 s.mem.scratch (Claims.scratchKey s off + j))))

/-- R234, R253: what a spill block in the scratchpad holds. ST.SH writes each active lane's value and the two bounds of D's shadow, and no other
byte; LD.SH sets D's shadow to Top() and will write the values; its landed interval is the block's where that is one and holds them all. -/
def Claims.SpillBytes : Prop :=
  ∀ hn md d ad ix disp cn s s1 (off : Int → Nat),
    let o : Claims.Access := ⟨false, md, d.toNat, ad, ix.toNat, disp.toInt, cn⟩
    let base := (readS s1.gang ix.toNat).toInt + disp.toInt
    let w : Int := if o.vec then s1.gang.declared else 1
    let places := Claims.spillPlaces (o.lanes s1) base w
    let sh := if o.vec then shadowV s1.gang d.toNat else shadowS s1.gang d.toNat
    o.ready s1 → ¬(o.vec = true ∧ s1.gang.arm.mask = 0) → descEs (o.desc s1) = 2 →
    (∀ p ∈ places, 0 ≤ p.2 ∧ p.2 < descExtent (o.desc s1) ∧ elemAddr (o.desc s1) p.2 % 4 = 0 ∧
      resolve (apCtx s1) (descOvr (o.desc s1)) (elemAddr (o.desc s1) p.2) 4 p.1 = .ok (.scratch (off p.2))) →
    (∀ p ∈ places, ∀ q ∈ places, p.2 ≠ q.2 → off p.2 + 4 ≤ off q.2 ∨ off q.2 + 4 ≤ off p.2) →
    s1.banks.errors = [] → s1.mem.scratchPoison = [] → Claims.inTime s1 →
    (Issues (.stSh hn md d ad ix disp cn) false s s1 → (o.vec = true → twinTrap s1.gang = none) →
      ∃ t p, Completes (.stSh hn md d ad ix disp cn) s t ∧ Claims.issuedOn s1 t cn.toNat p ∧ Claims.performed p ∧
        t.mem = { s1.mem with scratch := t.mem.scratch } ∧
        (∀ l ∈ o.lanes s1, Claims.scratchWord t (off (base + l)) = if o.vec then readV s1.gang d.toNat l else readS s1.gang d.toNat) ∧
        Claims.scratchWord t (off (base + w)) = BitVec.ofInt 32 sh.lo ∧ Claims.scratchWord t (off (base + w + 1)) = BitVec.ofInt 32 sh.hi ∧
        ∀ k, (∀ q ∈ places, k < Claims.scratchKey s1 (off q.2) ∨ Claims.scratchKey s1 (off q.2) + 4 ≤ k) →
          smapGet 0 t.mem.scratch k = smapGet 0 s1.mem.scratch k) ∧
    (Issues (.ldSh hn md d ad ix disp cn) false s s1 → (o.vec = false → d.toNat < 61) →
      let lo := (Claims.scratchWord s1 (off (base + w))).toInt
      let hi := (Claims.scratchWord s1 (off (base + w + 1))).toInt
      ∃ t p, Completes (.ldSh hn md d ad ix disp cn) s t ∧ Claims.issuedOn s1 t cn.toNat p ∧ t.mem = s1.mem ∧
        (∀ l ∈ o.lanes s1, (⟨o.vec, d.toNat, l, Claims.scratchWord s1 (off (base + l))⟩ : RegWrite) ∈ p.lands) ∧
        (if o.vec then shadowV t.gang d.toNat else shadowS t.gang d.toNat) = ⟨-(2 ^ 31), 2 ^ 31 - 1⟩ ∧
        ∃ x ∈ t.gang.arm.owed, x.vec = o.vec ∧ x.reg = d.toNat ∧ x.op = p.id ∧ x.landed = false ∧
          (((∀ l ∈ o.lanes s1, lo ≤ (Claims.scratchWord s1 (off (base + l))).toInt ∧ (Claims.scratchWord s1 (off (base + l))).toInt ≤ hi) ∧ lo ≤ hi →
              x.ival = ⟨lo, hi⟩) ∧
            (¬((∀ l ∈ o.lanes s1, lo ≤ (Claims.scratchWord s1 (off (base + l))).toInt ∧ (Claims.scratchWord s1 (off (base + l))).toInt ≤ hi) ∧
                lo ≤ hi) → x.ival = ⟨-(2 ^ 31), 2 ^ 31 - 1⟩)))

/-- R253: ST.SH and LD.SH whose block lies in the extent and passes the checks of R104 complete on their counter; ST.SH owes nothing, LD.SH
owes its register. -/
def Claims.ShadowSpills : Prop :=
  ∀ i hn md d ad ix disp cn load, (i = .ldSh hn md d ad ix disp cn ∧ load = true) ∨ (i = .stSh hn md d ad ix disp cn ∧ load = false) →
    ∀ s s1 cs,
    let o : Claims.Access := ⟨false, md, d.toNat, ad, ix.toNat, disp.toInt, cn⟩
    let base := (readS s1.gang ix.toNat).toInt + disp.toInt
    let w : Int := if o.vec then s1.gang.declared else 1
    let places := Claims.spillPlaces (o.lanes s1) base w
    Issues i false s s1 → o.ready s1 → ¬(o.vec = true ∧ s1.gang.arm.mask = 0) → descEs (o.desc s1) = 2 →
    (∀ p ∈ places, 0 ≤ p.2 ∧ p.2 < descExtent (o.desc s1)) → (o.vec = true → load = false → twinTrap s1.gang = none) →
    checkAccess s1 (armAgent s1) (apCtx s1) (descOvr (o.desc s1)) 4 (if load then .read else .write)
      (places.map (fun p => ⟨p.1, elemAddr (o.desc s1) p.2, 4⟩)) = .ok cs →
    pastBound s1 cs (!load) = false →
    ∃ t p, Completes i s t ∧ Claims.issuedOn s1 t cn.toNat p ∧ p.kind = .mem ∧ p.done = true ∧
      (load = false → Claims.performed p) ∧
      (load = true → (∀ x ∈ p.lands, x.vec = o.vec ∧ x.reg = d.toNat) ∧
        ∃ x ∈ t.gang.arm.owed, x.vec = o.vec ∧ x.reg = d.toNat ∧ x.op = p.id ∧ x.landed = false)

/-- R250: ADST stores a descriptor's 16 bytes at a scratchpad element, ADLD owes the descriptor register those bytes; an index out of range
of a descriptor in mask mode loads zero, or stores nothing, and sets its lane's BMISS bit. -/
def Claims.DescriptorTransfers : Prop :=
  (∀ hn n ad ix disp cn s s1 off,
    let a := readA s1.gang (ad : DescNo).toNat
    let j := (readS s1.gang (ix : Reg).toNat).toInt + (disp : BitVec 20).toInt
    Issues (.adld hn n ad ix disp cn) false s s1 → owedDesc s1.gang n.toNat = false → owedDesc s1.gang ad.toNat = false →
    (outstanding s1.gang cn.toNat).length < 32767 → descEs a = 3 → 0 ≤ j → j < descExtent a →
    resolve (apCtx s1) (descOvr a) (elemAddr a j) 16 0 = .ok (.scratch off) → elemAddr a j % 16 = 0 →
    s1.banks.errors = [] → s1.mem.scratchPoison = [] → Claims.inTime s1 →
    ∃ t p, Completes (.adld hn n ad ix disp cn) s t ∧ Claims.issuedOn s1 t cn.toNat p ∧ p.landed = false ∧ p.lands = [] ∧ t.mem = s1.mem ∧
      p.desc = some (n.toNat, BitVec.ofNat 128 (leNat (cellsRead s1.mem.scratch (Claims.scratchKey s1 off) 16)))) ∧
  (∀ hn n ad ix disp cn s s1 off,
    let a := readA s1.gang (ad : DescNo).toNat
    let j := (readS s1.gang (ix : Reg).toNat).toInt + (disp : BitVec 20).toInt
    Issues (.adst hn n ad ix disp cn) false s s1 → owedDesc s1.gang n.toNat = false → owedDesc s1.gang ad.toNat = false →
    (outstanding s1.gang cn.toNat).length < 32767 → descEs a = 3 → 0 ≤ j → j < descExtent a →
    resolve (apCtx s1) (descOvr a) (elemAddr a j) 16 0 = .ok (.scratch off) → elemAddr a j % 16 = 0 →
    s1.banks.errors = [] → s1.mem.scratchPoison = [] → Claims.inTime s1 →
    ∃ t p, Completes (.adst hn n ad ix disp cn) s t ∧ Claims.issuedOn s1 t cn.toNat p ∧ Claims.performed p ∧
      t.mem = { s1.mem with scratch := t.mem.scratch } ∧
      ∀ k, smapGet 0 t.mem.scratch k =
        if Claims.scratchKey s1 off ≤ k ∧ k < Claims.scratchKey s1 off + 16 then
          BitVec.ofNat 8 ((readA s1.gang n.toNat).toNat / 2 ^ (8 * (k - Claims.scratchKey s1 off)))
        else smapGet 0 s1.mem.scratch k) ∧
  (∀ i hn n ad ix disp cn s s1,
    let a := readA s1.gang (ad : DescNo).toNat
    let j := (readS s1.gang (ix : Reg).toNat).toInt + (disp : BitVec 20).toInt
    i = .adld hn n ad ix disp cn ∨ i = .adst hn n ad ix disp cn →
    Issues i false s s1 → owedDesc s1.gang n.toNat = false → owedDesc s1.gang ad.toNat = false →
    (outstanding s1.gang cn.toNat).length < 32767 → descEs a = 3 → descTrap a = false →
    discharged a ⟨(shadowS s1.gang ix.toNat).lo + disp.toInt, (shadowS s1.gang ix.toNat).hi + disp.toInt + 1⟩ = false →
    ¬(0 ≤ j ∧ j < descExtent a) →
    ∃ t p, Completes i s t ∧ Claims.issuedOn s1 t cn.toNat p ∧ t.mem = s1.mem ∧ t.gang.bmiss = s1.gang.bmiss ||| 1 ∧
      (i = .adld hn n ad ix disp cn → p.desc = some (n.toNat, 0)))

/-! ### Ordered reductions and barriers in bank memory (R186 to R189, R195 to R199) -/

/-- Nothing is known to be wrong with bank memory, and no launch keeps snapshots or captures (R184, R415, R417). -/
def Claims.banksSound (s : State) : Prop :=
  s.banks.errors = [] ∧ s.mem.bankPoison = [] ∧ ∀ l ∈ s.launches, launchMode l 2 = false ∧ launchMode l 3 = false

/-- An operation on the object at `obj` that a register pair names may be performed: the address reaches it, the counter has room, bank memory
is sound, and the access keeps within the bound on logical time (R333). -/
def Claims.atObject (s : State) (e : Reg) (c : CtrNo) (obj : Nat) : Prop :=
  bankObject s e.toNat = .ok obj ∧ (outstanding s.gang c.toNat).length < 32767 ∧ Claims.banksSound s ∧ Claims.inTime s

/-- What BRDO.rd writes: RESULT, a pair for a 64-bit TYPE, and ST (R196). -/
def Claims.readerGets (d st : Nat) (wide : Bool) (result status : Nat) : List RegWrite :=
  if wide then [⟨false, d, 0, BitVec.ofNat 32 result⟩, ⟨false, d + 1, 0, BitVec.ofNat 32 (result / 2 ^ 32)⟩, ⟨false, st, 0, BitVec.ofNat 32 status⟩]
  else [⟨false, d, 0, BitVec.ofNat 32 result⟩, ⟨false, st, 0, BitVec.ofNat 32 status⟩]

/-- Memory but for `n` bytes of bank memory from `obj` is the same. -/
def Claims.onlyObject (s t : State) (obj n : Nat) : Prop :=
  t.mem = { s.mem with bank := t.mem.bank } ∧ ∀ k, k < obj ∨ obj + n ≤ k → smapGet 0 t.mem.bank k = smapGet 0 s.mem.bank k

/-- R195: a BRDO or BARX object is 16 bytes at a generic address that reaches bank memory, aligned to 16; any other address raises
Protection. -/
def Claims.BankObjects : Prop :=
  ∀ s e,
    (∀ obj, bankObject s e = .ok obj → obj % 16 = 0 ∧ resolve (apCtx s) 0 (readS64 s.gang e).toNat 16 0 = .ok (.bank obj)) ∧
    (∀ x : Trap, bankObject s e = .error x → x.cause = 9 ∧ (x.reason = 0x11 ∨ x.reason = 0x0C) ∧ x.faddr = (readS64 s.gang e).toNat)

/-- R197: BARX.init sets EXPECT and clears ARRIVED, PEND and ST, with ST bit 1 where arms wait; PHASE stays. -/
def Claims.BarrierInit : Prop :=
  ∀ e (n : BitVec 16) cn s s1 obj, Issues (.barxInit e n cn) false s s1 → Claims.atObject s1 e cn obj →
    ∃ t p, Completes (.barxInit e n cn) s t ∧ Claims.onlyObject s1 t obj 16 ∧ t.gang.v = s1.gang.v ∧ t.gang.s = s1.gang.s ∧
      p ∈ t.gang.ops ∧ p.ctr = cn.toNat ∧ Claims.performed p ∧ bkNat t (obj + 6) 2 = n.toNat ∧ bkNat t (obj + 4) 2 = 0 ∧ bkNat t obj 4 = 0 ∧
      bkNat t (obj + 8) 4 = bkNat s1 (obj + 8) 4 ∧ bkNat t (obj + 12) 1 = (if (gangsOf s1 ++ s1.teams.flatMap (fun x => x.savedGangs)).any (fun g => g.ops.any (fun o =>
        match o.kind with | .barx ob _ => ob == obj && !o.done | _ => false)) then 2 else 0) ∧
      ∀ g ∈ gangsOf t, ∀ o ∈ g.ops, ∀ ph, o.kind = .barx obj ph → o.done = true

/-- The object's fields after PEND has become `pend` with `arrived` arrivals (R188): every phase that is complete is counted. -/
def Claims.phases (t : State) (obj pend arrived expect phase : Nat) : Prop :=
  bkNat t obj 4 = pend ∧ bkNat t (obj + 6) 2 = expect ∧
    if 1 ≤ expect ∧ expect ≤ arrived ∧ pend = 0 then
      bkNat t (obj + 4) 2 = arrived % expect ∧ bkNat t (obj + 8) 4 = (phase + arrived / expect) % 2 ^ 32
    else bkNat t (obj + 4) 2 = arrived ∧ bkNat t (obj + 8) 4 = phase

/-- R188, R197: BARX.tx adds to PEND and BARX.done subtracts, modulo 2^32, and the completion check follows. -/
def Claims.BarrierBytes : Prop :=
  ∀ i (sign : Int), ∀ e b cn s s1 obj, (i = .barxTx e b cn ∧ sign = 1) ∨ (i = .barxDone e b cn ∧ sign = -1) →
    Issues i false s s1 → Claims.atObject s1 e cn obj →
    ∃ t p, Completes i s t ∧ Claims.onlyObject s1 t obj 16 ∧ t.gang.v = s1.gang.v ∧ t.gang.s = s1.gang.s ∧ p ∈ t.gang.ops ∧
      p.ctr = cn.toNat ∧ Claims.performed p ∧
      Claims.phases t obj ((((bkNat s1 obj 4 : Nat) : Int) + sign * (readS s1.gang b.toNat).toInt) % 2 ^ 32).toNat (bkNat s1 (obj + 4) 2)
        (bkNat s1 (obj + 6) 2) (bkNat s1 (obj + 8) 4)

/-- R188, R197: BARX.arr and BARX.arrtx, where ARRIVED and the waiters have room, count an arrival, announce its bytes, and will write the
phase joined to sD; the operation is done once that phase has passed. -/
def Claims.BarrierArrivals : Prop :=
  ∀ i (bytes : State → Int), ∀ d e b cn s s1 obj,
    (i = .barxArr d e cn ∧ bytes = fun _ => 0) ∨ (i = .barxArrtx d e b cn ∧ bytes = fun s => (readS s.gang b.toNat).toInt) →
    Issues i false s s1 → Claims.atObject s1 e cn obj → bkNat s1 (obj + 4) 2 < 65535 → placesUsed s1 (obj / 65536) < 64 →
    let expect := bkNat s1 (obj + 6) 2
    let joined := if expect = 0 then bkNat s1 (obj + 8) 4 else (bkNat s1 (obj + 8) 4 + bkNat s1 (obj + 4) 2 / expect) % 2 ^ 32
    let pend := (((bkNat s1 obj 4 : Nat) : Int) + bytes s1) % 2 ^ 32
    ∃ t p, Completes i s t ∧ Claims.onlyObject s1 t obj 16 ∧ t.gang.v = s1.gang.v ∧ t.gang.s = s1.gang.s ∧ p ∈ t.gang.ops ∧
      p.ctr = cn.toNat ∧ p.kind = .barx obj joined ∧ p.lands = [⟨false, d.toNat, 0, BitVec.ofNat 32 joined⟩] ∧ p.landed = false ∧
      (p.done = true ↔ 1 ≤ expect ∧ expect ≤ bkNat s1 (obj + 4) 2 + 1 ∧ pend = 0 ∧
        bkNat s1 (obj + 4) 2 / expect < (bkNat s1 (obj + 4) 2 + 1) / expect) ∧
      Claims.phases t obj pend.toNat (bkNat s1 (obj + 4) 2 + 1) expect (bkNat s1 (obj + 8) 4)

/-- R197: BARX.rd writes PHASE and PEND and arrives at once where nothing earlier is outstanding on its counter. -/
def Claims.BarrierReads : Prop :=
  ∀ d e cn s s1 obj, Issues (.barxRd d e cn) false s s1 → Claims.atObject s1 e cn obj → outstanding s1.gang cn.toNat = [] → d.toNat < 60 →
    (∀ o ∈ s1.gang.ops, o.id ≠ s1.serial) →
    ∃ t, Completes (.barxRd d e cn) s t ∧ t.mem = s1.mem ∧ t.gang.v = s1.gang.v ∧ t.gang.arm.mask = s1.gang.arm.mask ∧
      (∀ r, r < 61 → readS t.gang r = if r = d.toNat then BitVec.ofNat 32 (bkNat s1 (obj + 8) 4)
        else if r = d.toNat + 1 then BitVec.ofNat 32 (bkNat s1 obj 4) else readS s1.gang r) ∧
      smapGet 0 t.gang.c cn.toNat = smapGet 0 s1.gang.c cn.toNat + 1 ∧ t.gang.ops = s1.gang.ops

/-- R186, R196: BRDO.init makes an object of N slots, none filled. ST is 0, or has bit 4 where a reader waits on the object; every reader that
waits gets the RESULT that stands there and ST with bit 4, and is done. -/
def Claims.ReductionInit : Prop :=
  ∀ e (ty : BitVec 2) (n : BitVec 12) cn s s1 obj, Issues (.brdoInit e ty n cn) false s s1 → Claims.atObject s1 e cn obj →
    obj / 65536 = (obj + brdoSize (n.toNat + 1) - 1) / 65536 →
    ∃ t p, Completes (.brdoInit e ty n cn) s t ∧ Claims.onlyObject s1 t obj (brdoSize (n.toNat + 1)) ∧ t.gang.v = s1.gang.v ∧
      t.gang.s = s1.gang.s ∧ p ∈ t.gang.ops ∧ p.ctr = cn.toNat ∧ Claims.performed p ∧
      bkNat t obj 4 = n.toNat + 1 ∧ bkNat t (obj + 4) 2 = 0 ∧ bkNat t (obj + 6) 1 = ty.toNat ∧
      bkNat t (obj + 7) 1 = (if (gangsOf s1 ++ s1.teams.flatMap (fun x => x.savedGangs)).any (fun g => g.ops.any (fun o =>
        match o.kind with | .brdo ob _ _ _ => ob == obj && !o.done | _ => false)) then 16 else 0) ∧
      (∀ k, k < n.toNat + 1 → (bkNat t (obj + 16 + 8 * (n.toNat + 1) + k / 8) 1).testBit (k % 8) = false) ∧
      ∀ g ∈ gangsOf s1, ∀ o ∈ g.ops, ∀ d st w, o.kind = .brdo obj d st w → o.done = false →
        ∃ g' ∈ gangsOf t, g'.id = g.id ∧ ∃ o' ∈ g'.ops, o'.id = o.id ∧ o'.done = true ∧
          o'.lands = Claims.readerGets d st w (bkNat s1 (obj + 8) 8) 16

/-- The sum of slot values in slot order (R187). -/
def Claims.slotSum (ty : Nat) (slot : Nat → Nat) : Nat → Nat
  | 0 => slot 0
  | n + 1 => brdoAdd ty (Claims.slotSum ty slot n) (slot (n + 1))

/-- R187, R196: a contribution to an object. An empty slot takes it, and the last one to be filled sums the slots in slot order; a
contribution to a complete object, past its slots, or to a filled slot is discarded with its ST bit. -/
def Claims.ReductionContributions : Prop :=
  ∀ (s : State) (obj k v : Nat), Claims.banksSound s → bkNat s (obj + 6) 1 ≤ 3 → 1 ≤ bkNat s obj 4 → bkNat s obj 4 ≤ 4096 →
    let n := bkNat s obj 4
    let ty := bkNat s (obj + 6) 1
    let wide : Bool := decide (ty = 1 ∨ ty = 3)
    let st := bkNat s (obj + 7) 1
    let bit := obj + 16 + 8 * n + k / 8
    (st % 2 = 1 → bkNat (brdoPut s obj k v) (obj + 7) 1 = st ||| 8 ∧ Claims.onlyObject s (brdoPut s obj k v) (obj + 7) 1) ∧
    (st % 2 = 0 → n ≤ k → bkNat (brdoPut s obj k v) (obj + 7) 1 = st ||| 4 ∧ Claims.onlyObject s (brdoPut s obj k v) (obj + 7) 1) ∧
    (st % 2 = 0 → k < n → (bkNat s bit 1).testBit (k % 8) = true →
      bkNat (brdoPut s obj k v) (obj + 7) 1 = st ||| 2 ∧ Claims.onlyObject s (brdoPut s obj k v) (obj + 7) 1) ∧
    (st % 2 = 0 → k < n → (bkNat s bit 1).testBit (k % 8) = false → bkNat s (obj + 4) 2 + 1 < n →
      Claims.onlyObject s (brdoPut s obj k v) obj (brdoSize n) ∧ bkNat (brdoPut s obj k v) (obj + 4) 2 = bkNat s (obj + 4) 2 + 1 ∧
        bkNat (brdoPut s obj k v) (obj + 16 + 8 * k) (if wide then 8 else 4) = v % 2 ^ (if wide then 64 else 32) ∧
        (bkNat (brdoPut s obj k v) bit 1).testBit (k % 8) = true ∧ bkNat (brdoPut s obj k v) (obj + 7) 1 = st) ∧
    (st % 2 = 0 → k < n → (bkNat s bit 1).testBit (k % 8) = false → bkNat s (obj + 4) 2 + 1 = n →
      bkNat (brdoPut s obj k v) (obj + 7) 1 = st ||| 1 ∧
        bkNat (brdoPut s obj k v) (obj + 8) (if wide then 8 else 4) =
          Claims.slotSum ty (fun j => if j = k then v % 2 ^ (if wide then 64 else 32)
            else bkNat s (obj + 16 + 8 * j) (if wide then 8 else 4)) (n - 1) % 2 ^ (if wide then 64 else 32))

/-- R186, R196: BRDO.add contributes sV to slot sK; BRDO.addv contributes each active lane's value to slot sK plus its lane, in lane order, the
sum not wrapped (log entry 90). A value is a pair of registers where the object is well formed and its TYPE 64-bit. Both complete, without
effect on the registers. -/
def Claims.ReductionAdds : Prop :=
  (∀ v e k cn s s1 obj, Issues (.brdoAdd v e k cn) false s s1 → Claims.atObject s1 e cn obj →
    (brdoBad s1 obj = true ∨ brdoFits obj (bkNat s1 obj 4) = true) →
    let wide := brdoBad s1 obj = false ∧ (bkNat s1 (obj + 6) 1 = 1 ∨ bkNat s1 (obj + 6) 1 = 3)
    (wide → v.toNat % 2 = 0 ∧ allocated s1.gang .scal (v.toNat + 1) = true ∧
      hazardReg s1.gang [⟨.scal, v.toNat + 1, .x, true, false, false, false⟩] = none) →
    ∃ t p u x, Completes (.brdoAdd v e k cn) s t ∧ u.mem = s1.mem ∧ Claims.issuedOn s1 u cn.toNat p ∧ Claims.performed p ∧
      (wide → x = (readS64 s1.gang v.toNat).toNat) ∧ (¬wide → x = (readS s1.gang v.toNat).toNat) ∧
      t = brdoPut u obj (readS s1.gang k.toNat).toNat x) ∧
  (∀ v e k cn s s1 obj, Issues (.brdoAddv v e k cn) false s s1 → Claims.atObject s1 e cn obj → s1.gang.arm.mask ≠ 0 →
    (brdoBad s1 obj = true ∨ brdoFits obj (bkNat s1 obj 4) = true) → twinTrap s1.gang = none →
    let wide := brdoBad s1 obj = false ∧ (bkNat s1 (obj + 6) 1 = 1 ∨ bkNat s1 (obj + 6) 1 = 3)
    (wide → v.toNat % 2 = 0 ∧ allocated s1.gang .vec (v.toNat + 1) = true ∧
      hazardReg s1.gang [⟨.vec, v.toNat + 1, .x, true, false, false, false⟩] = none) →
    ∃ t p u, ∃ x : Nat → Nat, Completes (.brdoAddv v e k cn) s t ∧ u.mem = s1.mem ∧ Claims.issuedOn s1 u cn.toNat p ∧ Claims.performed p ∧
      (∀ l, (wide → x l = (pairOf (readV s1.gang v.toNat l) (readV s1.gang (v.toNat + 1) l)).toNat) ∧
        (¬wide → x l = (readV s1.gang v.toNat l).toNat)) ∧
      t = (Claims.lanes s1).foldl (fun s l => brdoPut s obj ((readS s1.gang k.toNat).toNat + l) (x l)) u)

/-- R186, R196: BRDO.rd of a complete object will write RESULT, a pair for a 64-bit TYPE, and ST; of a malformed one, zero and ST with bit 5
set; otherwise it waits for the object. -/
def Claims.ReductionReads : Prop :=
  ∀ d e st cn s s1 obj, Issues (.brdoRd d e st cn) false s s1 → Claims.atObject s1 e cn obj →
    (brdoBad s1 obj = true ∨ brdoFits obj (bkNat s1 obj 4) = true) →
    let wide : Bool := decide (bkNat s1 (obj + 6) 1 = 1 ∨ bkNat s1 (obj + 6) 1 = 3)
    (wide = true → d.toNat % 2 = 0 ∧ allocated s1.gang .scal (d.toNat + 1) = true ∧
      owedWrite s1.gang [⟨.scal, d.toNat + 1, .x, false, true, false, false⟩] = false) →
    ∃ t p, Completes (.brdoRd d e st cn) s t ∧ Claims.issuedOn s1 t cn.toNat p ∧ p.landed = false ∧
      (brdoBad s1 obj = true → p.done = true ∧ Claims.onlyObject s1 t (obj + 7) 1 ∧
        p.lands = Claims.readerGets d.toNat st.toNat wide 0 (bkNat s1 (obj + 7) 1 ||| 0x20)) ∧
      (brdoBad s1 obj = false → bkNat s1 (obj + 7) 1 % 2 = 1 → p.done = true ∧ t.mem = s1.mem ∧
        p.lands = Claims.readerGets d.toNat st.toNat wide (bkNat s1 (obj + 8) 8) (bkNat s1 (obj + 7) 1)) ∧
      (brdoBad s1 obj = false → bkNat s1 (obj + 7) 1 % 2 = 0 → p.done = false ∧ p.lands = [] ∧ t.mem = s1.mem ∧
        (placesUsed s1 (obj / 65536) < 64 → p.kind = .brdo obj d.toNat st.toNat wide))

/-- R188, R197: an arrival that waited for a place at its unit is performed on its object once the unit and ARRIVED have room: it counts,
announces its bytes, joins its phase and will write it. -/
def Claims.WaitingArrivals : Prop :=
  ∀ s n w g o obj (bytes : Int) d st wide, s.banks.waits.find? (fun x => x.id == n) = some w → findOp s w.gang w.op = some (g, o) →
    g ∈ gangsOf s → o.kind = .held false obj bytes d st wide → Claims.banksSound s →
    bkNat s (obj + 4) 2 < 65535 → placesUsed s (obj / 65536) < 64 →
    writeAfter s o.time (armNoOf g o.slot) (bankLine obj) ≤ timeBound s →
    let expect := bkNat s (obj + 6) 2
    let joined := if expect = 0 then bkNat s (obj + 8) 4 else (bkNat s (obj + 8) 4 + bkNat s (obj + 4) 2 / expect) % 2 ^ 32
    let pend := (((bkNat s obj 4 : Nat) : Int) + bytes) % 2 ^ 32
    ∃ t g' o', exec (.waiterPlaceFreed n) s = .next t ∧ Claims.onlyObject s t obj 16 ∧
      t.banks.waits = s.banks.waits.filter (fun x => decide (x.id ≠ n)) ∧ findOp t w.gang w.op = some (g', o') ∧
      o'.kind = .barx obj joined ∧ o'.lands = [⟨false, d, 0, BitVec.ofNat 32 joined⟩] ∧
      Claims.phases t obj pend.toNat (bkNat s (obj + 4) 2 + 1) expect (bkNat s (obj + 8) 4)

/-- R186, R188, R196: a BRDO.rd that waited for a place is performed once its unit has one, or at once where its object is complete or
malformed: it waits for the object, or gets RESULT and ST. -/
def Claims.WaitingReaders : Prop :=
  ∀ s n w g o obj (bytes : Int) d st wide, s.banks.waits.find? (fun x => x.id == n) = some w → findOp s w.gang w.op = some (g, o) →
    g ∈ gangsOf s → o.kind = .held true obj bytes d st wide → Claims.banksSound s →
    writeAfter s o.time (armNoOf g o.slot) (bankLine obj) ≤ timeBound s →
    ∃ t, exec (.waiterPlaceFreed n) s = .next t ∧
      (bkNat s (obj + 7) 1 % 2 = 0 → brdoBad s obj = false → placesUsed s w.unit < 64 →
        t.mem = s.mem ∧ t.banks.waits = s.banks.waits.filter (fun x => decide (x.id ≠ n)) ∧
        ∃ g' o', findOp t w.gang w.op = some (g', o') ∧ o'.kind = .brdo obj d st wide ∧ o'.done = o.done ∧ o'.lands = o.lands) ∧
      (bkNat s (obj + 7) 1 % 2 = 1 → brdoBad s obj = false →
        t.mem = s.mem ∧ t.banks.waits = s.banks.waits.filter (fun x => decide (x.id ≠ n)) ∧
        ∃ g' o', findOp t w.gang w.op = some (g', o') ∧ o'.done = true ∧
          o'.lands = Claims.readerGets d st wide (bkNat s (obj + 8) 8) (bkNat s (obj + 7) 1)) ∧
      (brdoBad s obj = true → Claims.onlyObject s t (obj + 7) 1 ∧ t.banks.waits = s.banks.waits.filter (fun x => decide (x.id ≠ n)) ∧
        ∃ g' o', findOp t w.gang w.op = some (g', o') ∧ o'.done = true ∧
          o'.lands = Claims.readerGets d st wide 0 (bkNat s (obj + 7) 1 ||| 0x20))

/-- R189, R199: a unit that may enter retention does, and leaves it again, on an exit event or when BKCTL.BKRET, for a scratchpad quarter
BKCTL.SPRET, is cleared while the device is not contained (R412); none changes a byte. -/
def Claims.BankRetention : Prop :=
  (∀ s u, mayRetain s u = true → s.banks.errors = [] →
    ∃ t, exec (.retentionEntry u) s = .next t ∧ t.mem = s.mem ∧ u ∈ t.banks.retained) ∧
  (∀ s u, s.banks.errors = [] → s.banks.retained.contains u = true →
    ∃ t, exec (.retentionExit u) s = .next t ∧ t.mem = s.mem ∧ u ∉ t.banks.retained) ∧
  (∀ s die, die < 8 → s.banks.errors = [] → s.contained = false →
    ∃ t, exec (.bkret die) s = .next t ∧ t.mem = s.mem ∧
      (mmField s (bkBlock die) 0 0 = 0 → ∀ b, b < 128 → t.banks.retained.contains (128 * die + b) = false) ∧
      (mmField s (bkBlock die) 1 1 = 0 → ∀ q, q < 384 → t.banks.retained.contains (1024 + 384 * die + q) = false))

/-! ### Translation as instructions and the host manage it (R100, R109 to R117) -/

/-- Between `s` and `t` the TLBs have dropped the leaves of the contexts and pages named, and the walk caches every entry of those
contexts. -/
def Claims.dropped (s t : State) (ctx : Nat → Bool) (page : Nat → Nat → Bool) : Prop :=
  t.tlb = s.tlb.filter (fun e => !(ctx e.ctx && page e.page (2 ^ e.bits))) ∧ t.walk = s.walk.filter (fun w => !ctx w.ctx)

/-- The contexts and the spans of pages (first page and number of pages) that a TLBINV names (R114). -/
def Claims.tlbinv (i : Instr) (cn : CtrNo) (s : State) (ctx : Nat → Bool) (page : Nat → Nat → Bool) : Prop :=
  (∃ e n, i = .tlbinvPage e n cn ∧ ctx = (fun c => s.gang.ctx == c) ∧
    page = fun p k => decide (p < (readS64 s.gang e.toNat).toNat % 2 ^ 57 / 4096 + n.toNat + 1) &&
      decide ((readS64 s.gang e.toNat).toNat % 2 ^ 57 / 4096 < p + k)) ∨
  (i = .tlbinvCtx cn ∧ ctx = (fun c => s.gang.ctx == c) ∧ page = fun _ _ => true) ∨
  (∃ e, i = .tlbinvAsid e cn ∧ ctx = (fun c => ((readS s.gang e.toNat).extractLsb' 0 16).toNat == c) ∧ page = fun _ _ => true) ∨
  (i = .tlbinvAll cn ∧ ctx = (fun _ => true) ∧ page = fun _ _ => true)

/-- R103, R114: TLBINV completes on its counter. The TLBs still hold what they held until its operation lands, as log entry 44 has it, and then
they have dropped the leaves that its form names and every walk-cache entry of the contexts it names. Registers and memory stay. It does
not land while a queued matrix command is still to make an access that it translated through such a leaf (R312). -/
def Claims.TlbInvalidations : Prop :=
  ∀ i cn s s1 ctx page, Claims.tlbinv i cn s1 ctx page → Issues i true s s1 → (outstanding s1.gang cn.toNat).length < 32767 →
    ∃ t p, Completes i s t ∧ Claims.issuedOn s1 t cn.toNat p ∧ p.landed = false ∧ p.done = true ∧ t.tlb = s1.tlb ∧ t.walk = s1.walk ∧
      t.mem = s1.mem ∧ t.mmio = s1.mmio ∧
      ∀ u, u.live = true → u.gang.id = s1.gang.id → u.gang.ops.find? (fun x => x.id == p.id) = some p →
        ∃ v, p.kind = .tlbinv v ∧ (stillUsed u v p.id = true → exec (.dataLanding s1.gang.id p.id) u = .next u) ∧
          (stillUsed u v p.id = false → p.after ≤ u.cc → (∀ b ∈ p.banks, bankReserved u b = false) →
            ∃ w, exec (.dataLanding s1.gang.id p.id) u = .next w ∧ Claims.dropped u w ctx page ∧ { p with landed := true } ∈ w.gang.ops ∧
              w.mem = u.mem ∧ w.mmio = u.mmio ∧ w.gang.v = u.gang.v ∧ w.gang.s = u.gang.s)

/-- R115, R333: PGMAP.ft and PGMAP.va, whose writes keep within the bound on logical time, complete on their counter. Each active lane is owed
a status of at most 3: 3 for a lane without an address, and, among the lanes of one page, the lowest lane's status, or 1 where that is 0;
a lone lane's is that of mapping its page. Addresses count modulo 2^57 (log entry 43). Under a zero mask nothing is written. -/
def Claims.PageMaps : Prop :=
  ∀ i (e : Reg) cn (addr : State → Nat → Option Nat),
    (i = .pgmapFt e cn ∧ addr = fun s l => (s.gang.arm.lfault.find? (fun f => f.lane == l)).map (fun f => f.addr.toNat)) ∨
    (∃ k : Reg, i = .pgmapVa e k cn ∧ addr = fun s l => some (pairOf (readV s.gang k.toNat l) (readV s.gang (k.toNat + 1) l)).toNat) →
    ∀ s s1, Issues i true s s1 → (outstanding s1.gang cn.toNat).length < 32767 →
      (mapPages s1 ((Claims.lanes s1).filterMap (fun l => (addr s1 l).map (fun a => (l, a))))).2.gang.arm.ltime ≤ timeBound s1 →
      ∃ t p, Completes i s t ∧ Claims.issuedOn s1 t cn.toNat p ∧ p.kind = .mem ∧ p.done = true ∧ p.desc = none ∧
        (s1.gang.arm.mask = 0 → Claims.performed p ∧ t.mem = s1.mem ∧ t.mmio = s1.mmio) ∧
        (s1.gang.arm.mask ≠ 0 → p.landed = false ∧ ∃ st : Nat → Nat,
          p.lands = (Claims.lanes s1).map (fun l => ⟨true, e.toNat, l, BitVec.ofNat 32 (st l)⟩) ∧
          (∀ l ∈ Claims.lanes s1, st l ≤ 3 ∧ (addr s1 l = none → st l = 3)) ∧
          (∀ l a, Claims.lanes s1 = [l] → addr s1 l = some a →
            let r := mapTouch s1 (armNo s1) (s1.gang.core / 96) s1.gang.ctx (canonVa (a % 2 ^ 57 / 4096 * 4096))
            st l = r.1 ∧ t.mem = r.2.mem ∧ t.mmio = r.2.mmio) ∧
          ∀ l ∈ Claims.lanes s1, ∀ m ∈ Claims.lanes s1, ∀ a b, l < m → addr s1 l = some a → addr s1 m = some b →
            a % 2 ^ 57 / 4096 = b % 2 ^ 57 / 4096 →
            (∀ k ∈ Claims.lanes s1, ∀ c, k < l → addr s1 k = some c → c % 2 ^ 57 / 4096 ≠ a % 2 ^ 57 / 4096) →
            st m = if st l = 0 then 1 else st l)

/-- R116: PGQRY never faults and sets no A or D bit. It will write, to its pair, 2 for an address that is not global, and otherwise the last
entry that the walk reads with the level in bits 11 to 9 and bit 1 clear. Under a zero mask the vector form only arrives. Where nothing is
known to be wrong with memory and no page moves, no byte of memory changes. -/
def Claims.PageQueries : Prop :=
  (∀ d e cn s s1, Issues (.pgqry .scal d e cn) false s s1 → (outstanding s1.gang cn.toNat).length < 32767 →
    let va := (readS64 s1.gang e.toNat).toNat
    ∃ t p v, Completes (.pgqry .scal d e cn) s t ∧ Claims.issuedOn s1 t cn.toNat p ∧ p.done = true ∧ p.landed = false ∧
      (Claims.sound s1 → t.mem.main = s1.mem.main) ∧
      p.lands = [⟨false, d.toNat, 0, BitVec.ofNat 32 v⟩, ⟨false, d.toNat + 1, 0, BitVec.ofNat 32 (v / 2 ^ 32)⟩] ∧
      (canonical va = false ∨ inArea (apCtx s1) va = true → v = 2 ∧ t.mem = s1.mem) ∧
      (canonical va = true → inArea (apCtx s1) va = false →
        let x := xlateAs false s1 { armAgent s1 with sup := true } va .read (pickCached s1 0)
        ∀ b, b < 64 → v.testBit b = if b = 1 then false else if 9 ≤ b ∧ b ≤ 11 then x.level.testBit (b - 9) else x.leaf.testBit b)) ∧
  (∀ d e cn s s1, Issues (.pgqry .vec d e cn) false s s1 → (outstanding s1.gang cn.toNat).length < 32767 →
    ∃ t p, Completes (.pgqry .vec d e cn) s t ∧ Claims.issuedOn s1 t cn.toNat p ∧ p.done = true ∧ (Claims.sound s1 → t.mem.main = s1.mem.main) ∧
      (s1.gang.arm.mask = 0 → Claims.performed p) ∧
      ∀ l ∈ Claims.lanes s1, ∃ v, (⟨true, d.toNat, l, BitVec.ofNat 32 v⟩ : RegWrite) ∈ p.lands ∧
        (⟨true, d.toNat + 1, l, BitVec.ofNat 32 (v / 2 ^ 32)⟩ : RegWrite) ∈ p.lands ∧
        (canonical (pairOf (readV s1.gang e.toNat l) (readV s1.gang (e.toNat + 1) l)).toNat = false → v = 2))

/-- R96, R109, R115: mapping one page. Status 1 where the entry is valid, 3 where the walk stops early or the entry is no placeholder, 2 where the
pool that it chooses is empty, and 0 where the frame at that pool's head is taken, and the head moves on. The frame's 4 KiB are zero then, and
the leaf has V set, keeps W, X, S, TH and STK, names the frame, and is zero elsewhere; no other byte changes. -/
def Claims.FirstTouch : Prop :=
  ∀ s ag die ctx va, die < 8 →
    let w := walkTables s ctx va
    let pool := poolOf (pteTh w.entry) (pteStk w.entry) die
    let dry := mmField s (fpCtl pool) 0 0 = 0 ∨ mmField s (fpHead pool) 31 0 = mmField s (fpTail pool) 31 0
    (w.level ≠ 1 ∨ pteHolder w.entry = false →
      (mapTouch s ag die ctx va).1 = if w.entry.testBit 0 = true then 1 else 3) ∧
    (w.level = 1 → pteHolder w.entry = true → dry → (mapTouch s ag die ctx va).1 = 2) ∧
    (w.level = 1 → pteHolder w.entry = true → ¬dry → (mapTouch s ag die ctx va).1 = 0 ∧
      mmField (mapTouch s ag die ctx va).2 (fpHead pool) 31 0 = (mmField s (fpHead pool) 31 0 + 1) % 2 ^ 32 ∧
      (∀ n, n < 10 → n ≠ pool → mmGet (mapTouch s ag die ctx va).2 (fpHead n) = mmGet s (fpHead n)) ∧
      let ring := 2 ^ (mmField s (fpCtl pool) 4 1 + 9)
      let slot := mmField s (fpBase pool) 51 12 * 4096 + mmField s (fpHead pool) 31 0 % ring * 8
      let f := physQuad s slot % 2 ^ 40
      let m := (mapTouch s ag die ctx va).2.mem.main
      Claims.sound s → cacheable s slot = true → (∀ j, j < 4096 → cacheable s (f * 4096 + j) = true) →
        (∀ j, j < 8 → cacheable s (w.ea + j) = true) → w.ea % 8 = 0 → w.ea / 4096 ≠ f →
        leNat ((List.range 8).map (fun j => smapGet 0 m (w.ea + j))) =
          1 + w.entry / 4 % 8 * 4 + f * 4096 + bitField w.entry 61 59 * 2 ^ 59 + bitField w.entry 63 62 * 2 ^ 62 ∧
        (∀ j, j < 4096 → smapGet 0 m (f * 4096 + j) = 0) ∧
        ∀ k, k / 4096 ≠ f → (k < w.ea ∨ w.ea + 8 ≤ k) → smapGet 0 m k = smapGet 0 s.mem.main k) ∧
    (mapTouch s ag die ctx va).2.gang = { s.gang with arm := { s.gang.arm with ltime := (mapTouch s ag die ctx va).2.gang.arm.ltime } }

/-- R111, R115: PGMAP.post in a PageFault or Protection handler leaves it as RFE does; where an active lane holds fault state it posts records
under a fresh tag and the arm stays suspended. Elsewhere it raises IllegalInstruction. -/
def Claims.FaultPosts : Prop :=
  ∀ s s1, Issues .pgmapPost true s s1 → s1.posts.length < 2 ^ 31 →
    let handler : Bool := s1.gang.arm.fstat.getLsbD 30 &&
      (s1.gang.arm.fstat.extractLsb' 0 8 == 8 || s1.gang.arm.fstat.extractLsb' 0 8 == 9)
    let faults : Bool := (Claims.lanes s1).any (fun l => s1.gang.arm.lfault.any (fun f => f.lane == l))
    (handler = false → exec .pgmapPost s = .next (stepDone (trapEntry (unpop s s1)
      ⟨1, 0, (instrAddr s1.gang.arm).toNat, s1.gang.arm.mask, []⟩ s.gang.arm.pc))) ∧
    (handler = true → faults = false → Jumps .pgmapPost s (trapReturn s1)) ∧
    (handler = true → faults = true → ∃ t tag recs, Jumps .pgmapPost s t ∧ tag ≠ 0 ∧ (∀ p ∈ s1.posts, p.tag ≠ tag) ∧
      t.posts = s1.posts ++ [⟨tag, s1.gang.id, s1.gang.arm.slot, recs⟩] ∧ recs ≠ [] ∧ (∀ r ∈ recs, r.length = 32) ∧
      t.gang.arm = { (trapReturn s1).gang.arm with stall := .posted tag } ∧ t.gang.v = s1.gang.v ∧ t.gang.s = s1.gang.s ∧ t.mem = s1.mem)

/-- R111, R112, R396: the host fault queue takes the oldest record, with room for it. A reply of a pending post drops the post, with the records
that the queue has not taken (log entry 91): retry lets its arm execute again, kill ends the launch with status 1. A reply of no pending post
only counts. A contained device takes none (R412). -/
def Claims.FaultReplies : Prop :=
  (∀ s p r rest, s.posts.find? (fun p => !p.records.isEmpty) = some p → p.records = r :: rest → ringOn s fqBase = true →
    ringFull s fqBase = false → s.contained = false →
    ∃ t, exec .faultPostWrite s = .next t ∧
      t.posts = s.posts.map (fun q => if q.tag = p.tag then { q with records := rest } else q) ∧
      mmField t (fqBase + 16) 31 0 = (mmField s (fqBase + 16) 31 0 + 1) % 2 ^ 32 ∧
      t.mem = { s.mem with host := t.mem.host } ∧ t.mem.host = cellsWrite s.mem.host
        (mmGet s fqBase + mmField s (fqBase + 16) 31 0 % 2 ^ (mmField s (fqBase + 8) 5 2 + 6) * r.length) r) ∧
  (∀ s (tag : BitVec 32) p, s.posts.find? (fun q => q.tag == tag.toNat) = some p → s.contained = false →
    (∃ t, exec (.fqreplyRetry tag) s = .next t ∧ t = { s with posts := t.posts, gang := t.gang, others := t.others, teams := t.teams } ∧
      t.posts = s.posts.filter (fun q => decide (q.tag ≠ tag.toNat)) ∧
      (∀ g ∈ gangsOf t, g.id = p.gang → ∀ a ∈ armsOf g, a.stall ≠ .posted tag.toNat) ∧
      (s.live = true → t.gang.v = s.gang.v ∧ t.gang.s = s.gang.s ∧ t.gang.arm.pc = s.gang.arm.pc ∧ t.gang.arm.mask = s.gang.arm.mask)) ∧
    (∀ g, (gangsOf s).find? (fun g => g.id == p.gang) = some g →
      ∃ t, exec (.fqreplyKill tag) s = .next t ∧ t.mem = s.mem ∧ (∀ x ∈ gangsOf t, x.launch ≠ g.launch) ∧
        ∀ l ∈ s.launches, l.id = g.launch → l.killed = none → ∃ n, l.ltime ≤ n ∧ { l with killed := some 1, ltime := n } ∈ t.launches)) ∧
  (∀ s (tag : BitVec 32) i, (i = .fqreplyRetry tag ∨ i = .fqreplyKill tag) → s.contained = false → (∀ p ∈ s.posts, p.tag ≠ tag.toNat) →
    exec i s = .next { s with mmio := (mmCount s fqStray 1).mmio })

/-- R100, R117: a walk that finds a leaf installs it in its die's L2 TLB. The host's invalidation drops what its form names and is done later;
another one while it runs is ignored, and it is not done while an access that used what it drops is still to be made (R114); the form without
a scope is done at once. -/
def Claims.WalksAndHostInvalidation : Prop :=
  (∀ s die ctx (va : BitVec 64), canonical va.toNat = true → s.walk = [] → (walkTables s ctx va.toNat).bad = none →
    ∃ t, exec (.pageTableWalk die ctx va) s = .next t ∧ t.gang = s.gang ∧
      ∃ e ∈ t.tlb, e.l2 = true ∧ e.place = die ∧ e.ctx = ctx ∧ e.page ≤ va.toNat % 2 ^ 57 / 4096 ∧
        va.toNat % 2 ^ 57 / 4096 < e.page + 2 ^ e.bits ∧
        e.level = (walkTables s ctx va.toNat).level) ∧
  (∀ i s (v : InvScope) (ctx : Nat → Bool) (page : Nat → Nat → Bool),
    (∃ c va n, i = .tlbiPages c va n ∧ v = .pages c (va.toNat % 2 ^ 57 / 4096) n ∧ ctx = (fun x => c == x) ∧
      page = fun p k => decide (p < va.toNat % 2 ^ 57 / 4096 + n) && decide (va.toNat % 2 ^ 57 / 4096 < p + k)) ∨
    (∃ c, i = .tlbiContext c ∧ v = .context c ∧ ctx = (fun x => c == x) ∧ page = fun _ _ => true) ∨
    (i = .tlbiAll ∧ v = .all ∧ ctx = (fun _ => true) ∧ page = fun _ _ => true) →
    (s.inval = none → s.contained = false → ∃ t, exec i s = .next t ∧ t = { s with tlb := t.tlb, walk := t.walk, inval := some (v, s.serial), mmio := t.mmio } ∧
      Claims.dropped s t ctx page ∧ mmField t tlbiStat 1 1 = 1 ∧
      (stillUsed s v s.serial = true → exec .tlbiDone t = .next t) ∧
      (stillUsed s v s.serial = false → ∃ u, exec .tlbiDone t = .next u ∧ u = { t with inval := none, mmio := u.mmio } ∧
        mmField u tlbiStat 0 0 = 1 ∧ mmField u tlbiStat 1 1 = 0)) ∧
    (s.inval ≠ none → exec i s = .next s)) ∧
  (∀ s, s.inval = none → s.contained = false → ∃ t, exec .tlbiNone s = .next t ∧ t = { s with mmio := t.mmio } ∧ mmField t tlbiStat 0 0 = 1)

/-! ### Page motion (R118 to R145) -/

/-- An operation that its issue answers with a status: register `d` will take `st`. -/
def Claims.answered (s t : State) (c d st : Nat) : Prop :=
  ∃ p, Claims.issuedOn s t c p ∧ p.done = true ∧ p.landed = false ∧ p.desc = none ∧ p.lands = [⟨false, d, 0, BitVec.ofNat 32 st⟩] ∧
    ∃ x ∈ t.gang.arm.owed, x.vec = false ∧ x.reg = d ∧ x.op = p.id ∧ x.landed = false

/-- The two forms of MIG that move a page, with the frame that MIG.frame names, the pool that MIG.to names, and `t`. -/
def Claims.migOf (i : Instr) (s : State) (va : Nat) (t : Bool) (d e : Reg) (cn : CtrNo) (frame pool : Option Nat) (sup : Bool) : Prop :=
  (∃ tier stk, i = .migTo t tier stk d e cn ∧ frame = none ∧ sup = false ∧
    pool = match tier with
      | .auto => hotDie s.yo.heat s.gang.ctx (va % 2 ^ 57 / 65536)
      | .hbm => some stk.toNat
      | .lpddr => some 8
      | .cxl => some 9) ∨
  (∃ f : Reg, i = .migFrame t f d e cn ∧ frame = some ((readS64 s.gang f.toNat).toNat % 2 ^ 40) ∧ sup = true ∧
    pool = frame.map (fun f => poolOfFrame s f))

/-- R121, R125, R141, R142: MIG.to and MIG.frame. Status 9 where the page is not global or has no present leaf; 10 where it moves; 6 for a page
that may not move; 1 where it is there already, or no die is hot; 8 without a release ring; 7 for an empty pool. Otherwise, of a 4 KiB page
with no move or engine job about and memory sound, the move starts: a record in Recall from the page's frame to the frame, and the leaf shows MV and the
record. -/
def Claims.MigStarts : Prop :=
  ∀ i t (d e : Reg) cn frame pool sup s s1,
    let va := (readS64 s1.gang e.toNat).toNat
    Claims.migOf i s1 va t d e cn frame pool sup → Issues i sup s s1 → (outstanding s1.gang cn.toNat).length < 32767 →
    (globalVa s1 va = false ∨ leafOf s1 s1.gang.ctx va = none →
      ∃ u, Completes i s u ∧ Claims.answered s1 u cn.toNat d.toNat 9 ∧ u.mem = s1.mem) ∧
    (∀ w, globalVa s1 va = true → leafOf s1 s1.gang.ctx va = some w →
      (w.entry.testBit 54 = true → ∃ u, Completes i s u ∧ Claims.answered s1 u cn.toNat d.toNat 10 ∧ u.mem = s1.mem) ∧
      (w.entry.testBit 54 = false →
        (w.level ≠ 1 ∨ w.entry.testBit 52 = true ∨ (w.entry.testBit 4 = true ∧ s1.gang.arm.sup = false) →
          ∃ u, Completes i s u ∧ Claims.answered s1 u cn.toNat d.toNat 6 ∧ u.mem = s1.mem) ∧
        (movable s1 s1.gang.arm.sup w va = true → pteC64 w.entry = false → (∀ f, frame = some f → frameBacked s1 f = true) →
          (pool = none ∨ frame = some (ptePfn w.entry) ∨ (frame = none ∧ pool = some (poolOfFrame s1 (ptePfn w.entry))) →
            ∃ u, Completes i s u ∧ Claims.answered s1 u cn.toNat d.toNat 1 ∧ u.mem = s1.mem) ∧
          (∀ p, pool = some p → frame ≠ some (ptePfn w.entry) → (frame = none → p ≠ poolOfFrame s1 (ptePfn w.entry)) →
            s1.yo.moves = [] → s1.deferred = [] → s1.jobs.list = [] →
            (mmField s1 (yoRlBase + 8) 0 0 = 0 ∨ s1.yo.ckpt ≠ none →
              ∃ u, Completes i s u ∧ Claims.answered s1 u cn.toNat d.toNat 8 ∧ u.mem = s1.mem) ∧
            (mmField s1 (yoRlBase + 8) 0 0 = 1 → s1.yo.ckpt = none →
              (frame = none → poolEmpty s1 p = true →
                ∃ u, Completes i s u ∧ Claims.answered s1 u cn.toNat d.toNat 7 ∧ u.mem = s1.mem) ∧
              (frame ≠ none ∨ poolEmpty s1 p = false → Claims.sound s1 →
                ∃ u o m, Completes i s u ∧ Claims.issuedOn s1 u cn.toNat o ∧ o.kind = .move 0 ∧ o.done = false ∧ o.landed = false ∧
                  u.yo.moves = [m] ∧ m.no = 0 ∧ m.st = .recall ∧ m.ctx = s1.gang.ctx ∧ m.va = va / 4096 * 4096 ∧ m.src = ptePfn w.entry ∧
                  (∀ f, frame = some f → m.dst = f) ∧ m.pool = p ∧ m.lines = 16 ∧ m.cursor = 0 ∧ m.hold = .none ∧ m.trap = t ∧
                  m.th = pteTh w.entry ∧ m.stk = pteStk w.entry ∧ m.want = none ∧ m.abort = none ∧
                  (∃ r, m.req = some r ∧ r.op = o.id ∧ r.gang = s1.gang.id ∧ r.status = d.toNat) ∧
                  (physQuad u w.ea).testBit 54 = true ∧ bitField (physQuad u w.ea) 63 55 = 0 ∧
                  bitField (physQuad u w.ea) 51 0 = bitField w.entry 51 0))))))

/-- A move that a cancel still reaches (R132): in Recall, or in Forward with a line yet to be accepted. -/
def Claims.underway (m : Move) : Prop := m.st = .recall ∨ (m.st = .forward ∧ m.cursor < m.lines)

/-- R132, R141, R143, R144, R145: MIG.cancel, PIN, UNPIN, HOT and PLC complete on their counter. A cancel answers 0 and asks the page's move to
abort with status 5, where none is asked yet, while it is in Recall or has a line still to be accepted (log entry 47), and answers 1
otherwise. With no move about, PIN sets PN of every present leaf named and UNPIN clears it, with the number of absent pages as status.
HOT.rd gives the heat of each die, 0 for an address that is not global (log entry 48), HOT.clr clears it; PLC writes a page's hint into its
leaf and PLC.move also queues the page. Writes of leaves keep within the bound on logical time (R333). -/
def Claims.PlacementInstructions : Prop :=
  (∀ (d e : Reg) cn s s1, Issues (.migCancel d e cn) false s s1 → (outstanding s1.gang cn.toNat).length < 32767 →
    let va := (readS64 s1.gang e.toNat).toNat
    (∀ m, globalVa s1 va = true → moveOfPage s1 s1.gang.ctx va = some m →
      ∃ u, Completes (.migCancel d e cn) s u ∧ Claims.answered s1 u cn.toNat d.toNat 0 ∧ u.mem = s1.mem ∧
        m ∈ s1.yo.moves ∧ m.ctx = s1.gang.ctx ∧ m.va % 2 ^ 57 / 4096 ≤ va % 2 ^ 57 / 4096 ∧
        va % 2 ^ 57 / 4096 < m.va % 2 ^ 57 / 4096 + m.lines / 16 ∧
        u.yo = { s1.yo with moves := s1.yo.moves.map (fun x =>
          if x.no = m.no ∧ (x.st = .recall ∨ (x.st = .forward ∧ x.cursor < x.lines)) ∧ x.want = none then { x with want := some 5 } else x) }) ∧
    (globalVa s1 va = true → moveOfPage s1 s1.gang.ctx va = none → ∀ m ∈ s1.yo.moves, m.ctx = s1.gang.ctx → Claims.underway m →
      ¬(m.va % 2 ^ 57 / 4096 ≤ va % 2 ^ 57 / 4096 ∧ va % 2 ^ 57 / 4096 < m.va % 2 ^ 57 / 4096 + m.lines / 16)) ∧
    (globalVa s1 va = false ∨ moveOfPage s1 s1.gang.ctx va = none →
      ∃ u, Completes (.migCancel d e cn) s u ∧ Claims.answered s1 u cn.toNat d.toNat 1 ∧ u.mem = s1.mem ∧ u.yo = s1.yo)) ∧
  (∀ i set (d e : Reg) (n : BitVec 20) cn s s1, (i = .pin d e n cn ∧ set = true) ∨ (i = .unpin d e n cn ∧ set = false) →
    Issues i true s s1 → (outstanding s1.gang cn.toNat).length < 32767 → s1.yo.moves = [] → Claims.inTime s1 → (∀ o ∈ s1.gang.ops, o.id ≠ s1.serial) →
    let page (j : Nat) : Nat := (readS64 s1.gang e.toNat).toNat / 4096 * 4096 + 4096 * j
    let leaf (j : Nat) : Option Walk := if globalVa s1 (page j) = true then leafOf s1 s1.gang.ctx (page j) else none
    ∃ u p, Completes i s u ∧ Claims.issuedOn s1 u cn.toNat p ∧ p.done = true ∧ p.landed = false ∧ u.yo.moves = [] ∧
      p.lands = [⟨false, d.toNat, 0, BitVec.ofNat 32 ((List.range (n.toNat + 1)).filter (fun j => (leaf j).isNone)).length⟩] ∧
      ∀ j w, j ≤ n.toNat → leaf j = some w → (physQuad u w.ea).testBit 52 = set) ∧
  (∀ (d e : Reg) cn s s1, Issues (.hotRd d e cn) false s s1 → (outstanding s1.gang cn.toNat).length < 32767 →
    let va := (readS64 s1.gang e.toNat).toNat
    ∃ u p x y, Completes (.hotRd d e cn) s u ∧ Claims.issuedOn s1 u cn.toNat p ∧ p.done = true ∧ p.landed = false ∧ u.mem = s1.mem ∧
      p.lands = [⟨false, d.toNat, 0, x⟩, ⟨false, d.toNat + 1, 0, y⟩] ∧
      ∀ k, k < 8 → (pairOf x y).extractLsb' (8 * k) 8 =
        BitVec.ofNat 8 (if globalVa s1 va = true then heatAt s1.yo.heat s1.gang.ctx (va % 2 ^ 57 / 65536) k else 0)) ∧
  (∀ (e : Reg) cn s s1, Issues (.hotClr e cn) true s s1 → (outstanding s1.gang cn.toNat).length < 32767 →
    let va := (readS64 s1.gang e.toNat).toNat
    ∃ u p, Completes (.hotClr e cn) s u ∧ Claims.issuedOn s1 u cn.toNat p ∧ Claims.performed p ∧ u.mem = s1.mem ∧
      (globalVa s1 va = true → ∀ x ∈ u.yo.heat, x.ctx = s1.gang.ctx → x.region = va % 2 ^ 57 / 65536 → x.heat = 0) ∧
      ∀ c r k, (c ≠ s1.gang.ctx ∨ r ≠ va % 2 ^ 57 / 65536 ∨ globalVa s1 va = false) → heatAt u.yo.heat c r k = heatAt s1.yo.heat c r k) ∧
  (∀ i move tier (stk : BitVec 3) (e : Reg) (n : BitVec 20) cn s s1,
    (i = .plc tier stk e n cn ∧ move = false) ∨ (i = .plcMove tier stk e n cn ∧ move = true) →
    Issues i false s s1 → (outstanding s1.gang cn.toNat).length < 32767 → Claims.inTime s1 →
    let page := (readS64 s1.gang e.toNat).toNat / 4096 * 4096
    let code := match tier with | .hbm => 1 | .lpddr => 2 | .cxl => 3 | .auto => 0
    ∃ u p, Completes i s u ∧ Claims.issuedOn s1 u cn.toNat p ∧ Claims.performed p ∧ (move = false → u.yo.plcQ = s1.yo.plcQ) ∧
      (n = 0 → s1.yo.moves = [] → globalVa s1 page = true → ∀ w, leafOf s1 s1.gang.ctx page = some w →
        (w.entry.testBit 4 = false ∨ s1.gang.arm.sup = true) → bitField w.entry 54 54 = 0 →
        bitField (physQuad u w.ea) 63 62 = code ∧ bitField (physQuad u w.ea) 61 59 = stk.toNat ∧
          bitField (physQuad u w.ea) 58 0 = bitField w.entry 58 0 ∧
          (move = true → ∃ r, u.yo.plcQ = s1.yo.plcQ ++ [(s1.gang.ctx, page % 2 ^ 57 / 4096, r)] ∧ r.gang = s1.gang.id ∧ r.op = p.id)))

/-- The 256 bytes of the line at an address, as they stand at its home. -/
def Claims.homeLine (s : State) (a : Nat) : List Byte := (List.range 256).map (fun i => rawByte s (a + i))

/-- R125, R128, R130: the forward path of a move. The recall ends with the first line in copy-read; read data begins the hold; an accepted line
reaches its destination and the next is read; after the last, the leaf names the destination frame, the TLBs drop the page, the port closes,
once no access that used what was dropped is still to be made, and once TIME has passed every lease the requester is answered with 0 and the move is counted. -/
def Claims.MoveForward : Prop :=
  (∀ s r m, s.yo.moves.find? (fun m => m.no == r) = some m → m.st = .recall → m.want = none → m.cursor = 0 → 0 < m.lines →
    ∃ t m', exec (.recallComplete r) s = .next t ∧ t.yo.moves.find? (fun m => m.no == r) = some m' ∧ m'.st = .forward ∧ m'.hold = .copyRead ∧
      m'.cursor = 0 ∧ m'.src = m.src ∧ m'.dst = m.dst ∧ m'.buf = Claims.homeLine t (m.src * 4096)) ∧
  (∀ s r m, s.yo.moves.find? (fun m => m.no == r) = some m → m.hold = .copyRead → m.st = .forward → m.bufPoison = [] →
    dstRefuses s m = false → readWaits s (m.src * 4096 + 256 * m.cursor) = false →
    ∃ t, exec (.copyReadData r) s = .next t ∧ t = { s with yo := t.yo } ∧
      t.yo.moves.find? (fun m => m.no == r) = some { m with hold := .held }) ∧
  (∀ s r m, s.yo.moves.find? (fun m => m.no == r) = some m → m.hold = .held → m.st = .forward → m.want = none → m.cursor + 1 < m.lines →
    m.buf.length = 256 → inTier s (m.dst * 4096 + 256 * m.cursor) = true →
    ∃ t m', exec (.lineAccepted r) s = .next t ∧ t.yo.moves.find? (fun m => m.no == r) = some m' ∧ m'.st = .forward ∧ m'.hold = .copyRead ∧
      m'.cursor = m.cursor + 1 ∧ cellsRead t.mem.main (m.dst * 4096 + 256 * m.cursor) 256 = m.buf ∧
      m'.buf = Claims.homeLine t (m.src * 4096 + 256 * (m.cursor + 1)) ∧ t.gang = s.gang) ∧
  (∀ s r m, s.yo.moves = [m] → m.no = r → m.hold = .none → m.st = .forward → m.want = none → m.cursor = 16 → m.lines = 16 → m.dst < 2 ^ 40 →
    let w := walkTables s m.ctx m.va
    w.level = 1 → pteV w.entry = true → w.entry.testBit 54 = true → bitField w.entry 63 55 = r → ptePfn w.entry = m.src → w.ea / 4096 ≠ m.src → m.th < 4 → m.stk < 8 →
    ∃ t m', exec (.lineAccepted r) s = .next t ∧ t.yo.moves = [m'] ∧ m'.st = .closing ∧
      bitField (physQuad t w.ea) 51 12 = m.dst ∧ (physQuad t w.ea).testBit 54 = false ∧ bitField (physQuad t w.ea) 63 62 = m.th ∧
      bitField (physQuad t w.ea) 61 59 = m.stk ∧ bitField (physQuad t w.ea) 11 0 = bitField w.entry 11 0 ∧
      t.tlb = s.tlb.filter (fun e => !(e.ctx == m.ctx && decide (e.page < m.va % 2 ^ 57 / 4096 + 1) &&
        decide (m.va % 2 ^ 57 / 4096 < e.page + 2 ^ e.bits)))) ∧
  (∀ s r m, s.yo.moves.find? (fun m => m.no == r) = some m → m.st = .closing →
    (stillUsed s (.pages m.ctx (m.va % 2 ^ 57 / 4096) (m.lines / 16)) m.closedAt = true → exec (.portClose r) s = .next s) ∧
    (stillUsed s (.pages m.ctx (m.va % 2 ^ 57 / 4096) (m.lines / 16)) m.closedAt = false →
      ∃ t, exec (.portClose r) s = .next t ∧ t = { s with yo := t.yo } ∧
        t.yo.moves.find? (fun m => m.no == r) = some { m with st := .releasing })) ∧
  (∀ s r m q o, s.live = true → s.yo.moves.find? (fun m => m.no == r) = some m → m.st = .releasing → m.leaseEnd < s.time → m.pinWait = [] →
    m.req = some q → q.gang = s.gang.id → o ∈ s.gang.ops → o.id = q.op → (m.trap = false ∨ m.abort = none) →
    ∃ t, exec (.sourceFrameRelease r) s = .next t ∧
      (∃ p ∈ t.gang.ops, p = { o with done := true, lands := [⟨false, q.status, 0, 0⟩], time := p.time } ∧ o.time ≤ p.time) ∧
      (mmGet t yoMoves) = (mmGet s yoMoves + 1) % 2 ^ 64 ∧ t.gang.v = s.gang.v ∧ t.gang.s = s.gang.s ∧
      ∀ x ∈ t.yo.moves, x.no = r → x.st = .released) ∧
  (∀ s, rlRoom s = true → s.yo.held ≠ [] →
    ∃ t k, exec .heldFrameRelease s = .next t ∧ 0 < k ∧ k ≤ s.yo.held.length ∧ t.yo.held = s.yo.held.drop k ∧
      mmField t (yoRlBase + 16) 31 0 = (mmField s (yoRlBase + 16) 31 0 + k) % 2 ^ 32)

/-- R132 to R134: aborts. Poison in the read data reverses the move with status 4; CANCEL asks every move in Recall or copying forward to abort
with status 5, at its next line boundary; a failed CXL port marks its link down. Each line of the reverse path returns to its source; at
cursor 0 the leaf has its hint back with MV clear, the requester takes the status, and the abort is counted. -/
def Claims.MoveAborts : Prop :=
  (∀ s r m, s.yo.moves.find? (fun m => m.no == r) = some m → m.hold = .copyRead → m.st = .forward → m.bufPoison ≠ [] → 0 < m.cursor →
    readWaits s (m.src * 4096 + 256 * m.cursor) = false →
    ∃ t m', exec (.copyReadData r) s = .next t ∧ t.yo.moves.find? (fun m => m.no == r) = some m' ∧ m'.st = .reverse ∧ m'.abort = some 4 ∧
      m'.atCursor = m.cursor ∧ m'.cursor = m.cursor ∧ m'.hold = .copyRead) ∧
  (∀ s, s.contained = false → ∃ t, exec .cancel s = .next t ∧ t = { s with yo := { s.yo with moves := t.yo.moves } } ∧
    t.yo.moves = s.yo.moves.map (fun m =>
      if (m.st = .recall ∨ (m.st = .forward ∧ m.cursor < m.lines)) ∧ m.want = none then { m with want := some 5 } else m)) ∧
  (∀ s r m, s.yo.moves.find? (fun m => m.no == r) = some m → m.hold = .held → m.st = .forward → m.want = some 5 → m.cursor + 1 < m.lines →
    inTier s (m.dst * 4096 + 256 * m.cursor) = true →
    ∃ t m', exec (.lineAccepted r) s = .next t ∧ t.yo.moves.find? (fun m => m.no == r) = some m' ∧ m'.st = .reverse ∧ m'.abort = some 5 ∧
      m'.atCursor = m.cursor + 1) ∧
  (∀ s r m, s.yo.moves.find? (fun m => m.no == r) = some m → m.hold = .held → m.st = .reverse → 2 ≤ m.cursor → m.buf.length = 256 →
    inTier s (m.src * 4096 + 256 * (m.cursor - 1)) = true →
    ∃ t m', exec (.reverseLineAccepted r) s = .next t ∧ t.yo.moves.find? (fun m => m.no == r) = some m' ∧ m'.st = .reverse ∧
      m'.cursor = m.cursor - 1 ∧ cellsRead t.mem.main (m.src * 4096 + 256 * (m.cursor - 1)) 256 = m.buf) ∧
  (∀ s r m q o, s.live = true → s.yo.moves = [m] → m.no = r → m.hold = .held → m.st = .reverse → m.cursor = 1 → m.pinWait = [] →
    m.req = some q → q.gang = s.gang.id → o ∈ s.gang.ops → o.id = q.op →
    ∃ t, exec (.reverseLineAccepted r) s = .next t ∧
      (∃ p ∈ t.gang.ops, p = { o with done := true, lands := [⟨false, q.status, 0, BitVec.ofNat 32 (m.abort.getD 5)⟩], time := p.time } ∧
        o.time ≤ p.time) ∧
      mmGet t yoAborts = (mmGet s yoAborts + 1) % 2 ^ 64 ∧ t.gang.v = s.gang.v ∧ t.gang.s = s.gang.s ∧
      ∀ x ∈ t.yo.moves, x.no = r → x.st = .released) ∧
  (∀ s r m, s.yo.moves = [m] → m.no = r → m.hold = .held → m.st = .reverse → m.cursor = 1 → m.lines = 16 → m.leafLost = false →
    m.th < 4 → m.stk < 8 →
    let u := endHold s m
    let w := walkTables u m.ctx m.va
    w.level = 1 → (physQuad u w.ea).testBit 54 = true → bitField (physQuad u w.ea) 63 55 = r → inTier u w.ea = true → w.ea % 8 = 0 →
    (∀ k, k < 2 ^ (mmField s (yoRlBase + 8) 4 1 + 9) → mmField s yoRlBase 51 12 * 4096 + 8 * k ≠ w.ea) →
    ∃ t, exec (.reverseLineAccepted r) s = .next t ∧ (physQuad t w.ea).testBit 54 = false ∧ bitField (physQuad t w.ea) 63 62 = m.th ∧
      bitField (physQuad t w.ea) 61 59 = m.stk ∧ bitField (physQuad t w.ea) 58 55 = 0 ∧
      bitField (physQuad t w.ea) 53 0 = bitField (physQuad u w.ea) 53 0) ∧
  (∀ s port, ∃ t, exec (.failedCxlPort port) s = .next t ∧ t = { s with yo := t.yo, mmio := t.mmio } ∧ mmField t (cxlpStat port) 0 0 = 0)

/-- R120, R137, R138, R412: the end of an epoch halves every heat, and with AUTO clear and no PLC.move waiting nothing moves. A checkpoint that may run
sets BUSY, and its header stands in the region with a zero end from then on; with no move left it writes the image of HBM4E and LPDDR 6 into
its region; a restore brings that image back before memory is ready. The image is taken in one step, as log entry 50 has it. One that may not run ends at
once with DONE and ERR. -/
def Claims.EpochsAndCheckpoints : Prop :=
  (∀ s, s.yo.nextEpoch ≤ s.time → s.yo.ckpt = none → mmField s yoCtl 0 0 = 0 → s.yo.plcQ = [] →
    ∃ t, exec .epochEnd s = .next t ∧ t = { s with yo := t.yo } ∧ t.yo.epochs = s.yo.epochs + 1 ∧ s.time < t.yo.nextEpoch ∧
      t.yo.heat = s.yo.heat.map (fun e => { e with heat := e.heat / 2 }) ∧ t.yo.moves = s.yo.moves) ∧
  (∀ s i, (i = .checkpoint ∨ (i = .restore ∧ s.dram.ready = false)) → s.yo.ckpt = none → ckptOk s = false → s.contained = false →
    ∃ t, exec i s = .next t ∧ t.mem = s.mem ∧ t.yo = s.yo ∧ mmField t yoCkpt 2 2 = 1 ∧ mmField t yoCkpt 3 3 = 1) ∧
  (∀ s, s.yo.ckpt = none → ckptOk s = true → s.contained = false →
    ∃ t, exec .checkpoint s = .next t ∧ t.mem = { s.mem with main := t.mem.main, poison := t.mem.poison, host := t.mem.host } ∧
      (∀ a, a < s.cfg.ckptBase ∨ s.cfg.ckptBase + 4096 ≤ a → smapGet 0 t.mem.main a = smapGet 0 s.mem.main a) ∧
      (regionDown s = [] → leNat (cellsRead t.mem.main (s.cfg.ckptBase + 16) 8) = 0) ∧ t.yo = { s.yo with ckpt := some (false, s.time, false) } ∧ mmField t yoCkpt 4 4 = 1) ∧
  (∀ s start b, s.yo.ckpt = some (false, start, b) → s.yo.moves = [] → regionDown s = [] → s.caches.jigsaw = [] → s.mem.wf = true →
    ∃ t, exec .checkpointDone s = .next t ∧ t.yo.ckpt = none ∧ mmField t yoCkpt 2 2 = 1 ∧ mmField t yoCkpt 4 4 = 0 ∧
      ∀ a p, imagePos a = some p → p < imageBytes s → smapGet 0 t.mem.main (s.cfg.ckptBase + 4096 + p) = smapGet 0 s.mem.main a) ∧
  (∀ s, s.yo.ckpt = none → s.dram.ready = false → ckptOk s = true → headerOk s = true → s.contained = false →
    ∃ t, exec .restore s = .next t ∧ t.mem = s.mem ∧ t.yo = { s.yo with ckpt := some (true, s.time, false) } ∧ mmField t yoCkpt 4 4 = 1) ∧
  (∀ s start b, s.yo.ckpt = some (true, start, b) → regionDown s = [] → s.mem.wf = true →
    ∃ t, exec .restoreDone s = .next t ∧ t.dram.ready = true ∧ t.yo.ckpt = none ∧ mmField t yoCkpt 2 2 = 1 ∧
      ∀ a p, imagePos a = some p → p < imageBytes s → smapGet 0 t.mem.main a = smapGet 0 s.mem.main (s.cfg.ckptBase + 4096 + p))

/-! ### The memory controllers and the CXL ports (R60 to R80) -/

/-- R68 to R70: a refresh that falls due is postponed for a busy bank, queued for a ready one, and forced at debt 8: the burst starts then, or
in the next cycle where a stream holds a bank, and suspends every such stream; a burst in progress meets it too (log entry 8). A pseudo-channel without a
refresh in progress issues the earliest queued one, or that of the bank with the highest debt, which drops by 1. A burst ends with every
debt of its banks less by 9. -/
def Claims.RefreshSteps : Prop :=
  (∀ s stack pc bank due, nextDue s stack = some (due, pc, bank) → due ≤ s.cc → pc < 64 →
    let n := 64 * stack + pc
    let k := 16 * n + bank
    let debt := smapGet 0 s.dram.debt k
    ∃ t, exec (.refreshDue stack pc bank) s = .next t ∧ t.mem = s.mem ∧ t.gang = s.gang ∧
      (debt < 8 → bankBusy s k = true → t.dram.queued = s.dram.queued ∧
        ∀ j, smapGet 0 t.dram.debt j = if j = k then debt + 1 else smapGet 0 s.dram.debt j) ∧
      (debt < 8 → bankBusy s k = false → t.dram.debt = s.dram.debt ∧ t.dram.queued = s.dram.queued ++ [k]) ∧
      (debt = 8 → inBurst s n = true → t.dram.debt = s.dram.debt ∧ t.dram.burst = s.dram.burst ∧ t.dram.queued = s.dram.queued) ∧
      (debt = 8 → inBurst s n = false → t.dram.debt = s.dram.debt ∧
        t.dram.burst = s.dram.burst ++ [(n, s.cc, s.cc + (if (pcStreams s n).isEmpty then 12 else 13) + 9 * rfcAb stack)] ∧
        (∀ r ∈ t.dram.reserves, r.held = true → pcNumber r.stack r.ch r.pc = n → r.susp ≠ none) ∧
        mmField t (mcPcStat stack (pc / 2) (pc % 2)) 31 16 = (mmField s (mcPcStat stack (pc / 2) (pc % 2)) 31 16 + 1) % 65536)) ∧
  (∀ s stack pc k, let n := 64 * stack + pc
    inRefpb s n = false → inBurst s n = false →
    (s.dram.queued.find? (fun k => k / 16 == n && !bankBusy s k) = some k →
      ∃ t, exec (.refpbIssue stack pc) s = .next t ∧ t.mem = s.mem ∧ t.dram.debt = s.dram.debt ∧ t.dram.queued = s.dram.queued.erase k ∧
        (k, s.cc + rfcPb stack) ∈ t.dram.refpb) ∧
    (s.dram.queued.find? (fun k => k / 16 == n && !bankBusy s k) = none → k / 16 = n → bankBusy s k = false →
      0 < smapGet 0 s.dram.debt k →
      (∀ j, j / 16 = n → bankBusy s j = false → smapGet 0 s.dram.debt j < smapGet 0 s.dram.debt k ∨
        (smapGet 0 s.dram.debt j = smapGet 0 s.dram.debt k ∧ k ≤ j)) →
      ∃ t, exec (.refpbIssue stack pc) s = .next t ∧ t.mem = s.mem ∧ t.dram.queued = s.dram.queued ∧ (k, s.cc + rfcPb stack) ∈ t.dram.refpb ∧
        ∀ j, smapGet 0 t.dram.debt j = if j = k then smapGet 0 s.dram.debt k - 1 else smapGet 0 s.dram.debt j)) ∧
  (∀ s stack pc start fin, let n := 64 * stack + pc
    s.dram.burst.find? (fun b => b.1 == n) = some (n, start, fin) → fin ≤ s.cc →
    ∃ t, exec (.refreshBurstEnd stack pc) s = .next t ∧ t.mem = s.mem ∧ inBurst t n = false ∧
      ∀ j, smapGet 0 t.dram.debt j = if j / 16 = n then smapGet 0 s.dram.debt j - 9 else smapGet 0 s.dram.debt j)

/-- R60, R62, R73, R74, R76: a clean line is read without effect; a corrected sector is counted and mended, an uncorrectable one is rebuilt in
HBM4E and poisoned in LPDDR 6, and no byte changes; a read stops its queue's drain below 48 entries. A line's write stores its bytes. A
write queue starts to drain; a draining one performs its oldest write that need not wait, and stops at sixteen entries or none. The
scrubber reads its next line. -/
def Claims.LineSteps : Prop :=
  (∀ s pa, s.yo.moves = [] → s.mem.poison = [] → s.dram.failed = [] → unbacked s (pa / 256 * 256) = false →
    (s.dram.bad = [] → ∃ t, exec (.lineRead pa) s = .next t ∧
      t = { s with dram := { s.dram with draining := t.dram.draining, refWait := t.dram.refWait, reading := t.dram.reading } } ∧
      ∀ b, bankNumber s (pa / 256 * 256) = some b → (s.dram.writeQ.filter (fun w => w.1 == b / 16)).length < 48 →
        t.dram.draining.contains (b / 16) = false) ∧
    (∀ k off, physPlace s pa = .hbm k off → s.dram.bad = [(pa / 64, false)] →
      ∃ t, exec (.lineRead pa) s = .next t ∧ t.mem = { s.mem with host := t.mem.host } ∧ t.dram.bad = [] ∧
        mmField t (mcChStat k (hbmDecode off).ch) 63 32 = (mmField s (mcChStat k (hbmDecode off).ch) 63 32 + 1) % 2 ^ 32) ∧
    (∀ k off, physPlace s pa = .hbm k off → s.dram.bad = [(pa / 64, true)] →
      smapGet 0 s.dram.rbPass (32 * k + (hbmDecode off).ch) < 255 → parityState s k (hbmDecode off).stripe (off % 256 / 64) ≤ 1 →
      ∃ t, exec (.lineRead pa) s = .next t ∧ t.mem = { s.mem with host := t.mem.host } ∧ t.dram.bad = [] ∧ t.dram.failed = [] ∧
        mmField t (mcChStat k (hbmDecode off).ch) 31 16 = Min.min 65535 (mmField s (mcChStat k (hbmDecode off).ch) 31 16 + 1)) ∧
    (∀ off, physPlace s pa = .lpddr off → s.dram.bad = [(pa / 64, true)] →
      ∃ t, exec (.lineRead pa) s = .next t ∧ t.mem.main = s.mem.main ∧ t.mem.poison = [pa / 64] ∧ t.dram.bad = [])) ∧
  (∀ s pa data, s.yo.moves = [] → unbacked s pa = false → (∀ off, physPlace s pa ≠ .bank off) → pa % 256 + data.length ≤ 256 →
    ∃ t, exec (.lineWrite pa data) s = .next t ∧ t.gang = s.gang ∧ t.mem.bank = s.mem.bank ∧ t.mem.scratch = s.mem.scratch ∧
      ∀ k, smapGet 0 t.mem.main k = if pa ≤ k ∧ k < pa + data.length then data.getD (k - pa) 0 else smapGet 0 s.mem.main k) ∧
  (∀ s block pc, let n := 64 * block + pc
    let own := s.dram.writeQ.filter (fun w => w.1 == n)
    ∃ t, exec (.writeQueueDrain block pc) s = .next t ∧ t.mem = s.mem ∧ t.gang = s.gang ∧
      (own ≠ [] → s.dram.draining.contains n = false → t.dram.draining.contains n = true ∧ t.dram.writeQ = s.dram.writeQ) ∧
      (s.dram.draining.contains n = true → own.find? (fun w => !writeBlocked s w) = none → own ≠ [] → t = s) ∧
      ∀ w, s.dram.draining.contains n = true → own.find? (fun w => !writeBlocked s w) = some w →
        t.dram.writeQ = s.dram.writeQ.erase w ∧ t.dram.draining.contains n = !(own.length == 17 || own.length == 1)) ∧
  (∀ s, scrubDue s ≤ s.time → s.dram.ready = true → s.dram.bad = [] → s.dram.parityBad = [] → s.dram.parityErr = [] → s.dram.failed = [] →
    s.mem.poison = [] → ∃ t, exec .patrolScrub s = .next t ∧ t.mem = s.mem ∧
      t.dram.scrubPos = if s.dram.scrubPos + 1 < scrubLines s then s.dram.scrubPos + 1 else 0)

/-- R75, R79, R80, R132, R412: a channel that reaches 256 rebuilds in a pass, that fails link training, or that software fails, is failed:
FAILED, and DEGR of its group, are set, and a move with a destination line there is to abort with status 2. A decoder commits where its range is legal and otherwise sets ERR, and uncommits at once. A viral indication is fatal; a trained link
shows LINKUP, T3 where a Type 3 device is enumerated on the port, and PMEM where that one exposes a persistent region. -/
def Claims.ChannelsAndPorts : Prop :=
  (∀ i s block ch, ((i = .failed block ch ∧ s.contained = false) ∨ (i = .channelFailed block ch ∧ (256 ≤ smapGet 0 s.dram.rbPass (32 * block + ch) ∨
      (s.dram.ready = false ∧ Config.trainFails s.tick (32 * block + ch) = true)))) →
    block < 8 → ch < 32 → s.dram.failed.contains (block, ch) = false →
    ∃ t, exec i s = .next t ∧ (block, ch) ∈ t.dram.failed ∧ t.dram.parityQ = [] ∧ t.mem.main = s.mem.main ∧ t.mem.poison = s.mem.poison ∧
      (∀ m ∈ s.yo.moves, channelMoves s block ch m = true → Claims.underway m → m.want = none → { m with want := some 2 } ∈ t.yo.moves) ∧
      mmField t (mcChStat block ch) 0 0 = 1 ∧ ∀ j, j < 8 → mmField t (mcChStat block (8 * (ch / 8) + j)) 1 1 = 1) ∧
  (∀ s k, k < 8 → s.contained = false → mmField s (hdmBlock k + 16) 0 0 = 0 →
    let base := mmField s (hdmBlock k) 51 28
    let size := mmField s (hdmBlock k + 8) 51 28
    let legal : Prop := size ≠ 0 ∧ size % 2 ^ mmField s (hdmBlock k + 16) 4 3 = 0 ∧ 0x10000 ≤ base ∧ base + size ≤ 0x20000
    ∃ t, exec (.hdmCommit k) s = .next t ∧ t = { s with mmio := t.mmio } ∧
      (legal → mmField t (hdmBlock k + 16) 0 0 = 1 ∧ mmField t (hdmBlock k + 16) 63 1 = mmField s (hdmBlock k + 16) 63 1) ∧
      (¬legal → mmField t (hdmBlock k + 16) 0 0 = 0 ∧ mmField t (hdmBlock k + 16) 1 1 = 1)) ∧
  (∀ s k, k < 8 → s.contained = false → ∃ t, exec (.hdmUncommit k) s = .next t ∧ t = { s with mmio := t.mmio } ∧ mmField t (hdmBlock k + 16) 0 0 = 0 ∧
    mmField t (hdmBlock k + 16) 63 1 = mmField s (hdmBlock k + 16) 63 1) ∧
  (∀ s port, port < 8 → ∃ t, exec (.viralIndication port) s = .next t ∧ t.contained = true ∧ (∀ l ∈ t.launches, l.killed = some 4) ∧
    mmField t (cxlpStat port) 3 3 = 1 ∧ t.mem.main = s.mem.main) ∧
  (∀ s port, ∃ t, exec (.cxlLinkTrained port) s = .next t ∧ t = { s with mmio := t.mmio } ∧ mmField t (cxlpStat port) 0 0 = 1 ∧
    let device := Config.cxlDevice s.tick port
    mmField t (cxlpStat port) 1 1 = device % 2 ∧ mmField t (cxlpStat port) 2 2 = if device % 2 = 1 then device / 2 % 2 else 0)

/-! ### Tensors and tile instructions (R147 to R166) -/

/-- The descriptor of a tile instruction names the Registered id of a tensor, its counter has room, no ADLD owes the descriptor, and the arm's
accesses keep within the bound of R333. -/
def Claims.tile (s : State) (aa : DescNo) (cn : CtrNo) (id : Nat) (t : Tensor) : Prop :=
  owedDesc s.gang aa.toNat = false ∧ (outstanding s.gang cn.toNat).length < 32767 ∧ descTid (readA s.gang aa.toNat) = id ∧
    idState s s.gang.ctx id = 1 ∧ tensorAt s s.gang.ctx id = t ∧ Claims.inTime s

/-- The translations of a tile instruction's lines, made together after it has read its tensor's entry, keep the walkers and the arm within the
bound of R333. -/
def Claims.walksInTime (s : State) (id : Nat) (kind : AccKindF) (ls : List (Nat × Nat)) : Prop :=
  let s0 := entryRead s s.gang.ctx id
  let w := xlCommits s0 (armAgent s0) kind (ls.map (fun l => (l.1, lineXlat s0 l.1 l.2 kind)))
  walkersPast s0 w = false ∧ Claims.inTime w

/-- A line of global memory passes its checks at physical address `pa`, changing no page-table entry, and lies in a memory. -/
def Claims.lineAt (s : State) (va n : Nat) (kind : AccKindF) (pa : Nat) : Prop :=
  ∃ q, lineCheck s va n kind = .ok q ∧ q.x.pa = pa ∧ Claims.settled q.x ∧ pa % 256 = 0 ∧ (∀ b, b < 256 → cacheable s (pa + b) = true)

/-- R161: how TREG answers a record whose bytes are `bs`: −5 for a malformed record, −1 for a Registered id and −2 for a Retiring one, −3 where
no id is Free, −4 for a span that overlaps a tensor's, and otherwise the id, whose entry then holds the record in state 1. -/
def Claims.tregAnswers (d : Reg) (id : BitVec 12) (e : Reg) (cn : CtrNo) (s s1 : State) (bs : List Byte) : Prop :=
  let i := Instr.treg d e id cn
  let ctx := s1.gang.ctx
  let ok := tensorOk (apCtx s1) bs
  let target : Option Nat := if id = 0 then (natRange 1 4095).find? (fun n => idState s1 ctx n == 0) else some id.toNat
  let answers (st : Int) : Prop := ∃ u p, Completes i s u ∧ Claims.issuedOn s1 u cn.toNat p ∧ p.done = true ∧ p.landed = false ∧
    p.lands = [⟨false, d.toNat, 0, BitVec.ofInt 32 st⟩] ∧ u.mem = s1.mem
  (ok = false → answers (-5)) ∧
  (ok = true → id ≠ 0 → idState s1 ctx id.toNat = 1 → answers (-1)) ∧
  (ok = true → id ≠ 0 → idState s1 ctx id.toNat ≠ 0 → idState s1 ctx id.toNat ≠ 1 → answers (-2)) ∧
  (ok = true → target = none → answers (-3)) ∧
  (∀ n, ok = true → target = some n → idState s1 ctx n = 0 →
    (spanTaken s1 ctx (tensorOf bs) = true → answers (-4)) ∧
    (spanTaken s1 ctx (tensorOf bs) = false → s1.yo.moves = [] →
      (∀ j, j < 64 → unbacked s1 (ctxTtab s1 ctx * 4096 + 64 * n + j) = false) →
      ∃ u p, Completes i s u ∧ Claims.issuedOn s1 u cn.toNat p ∧ p.done = true ∧ p.landed = false ∧
        p.lands = [⟨false, d.toNat, 0, BitVec.ofNat 32 n⟩] ∧ u.mem.scratch = s1.mem.scratch ∧
        physBytes u (ctxTtab s1 ctx * 4096 + 64 * n) 64 = bs.take 51 ++ [1] ++ List.replicate 12 0))

/-- R148, R161: TREG of a 64-aligned record in global memory, which its walk finds without a change to a page table, answers it. -/
def Claims.TensorRegistration : Prop :=
  ∀ (d e : Reg) (id : BitVec 12) cn s s1 cs q,
    let a := (readS64 s1.gang e.toNat).toNat
    Issues (.treg d e id cn) false s s1 → (outstanding s1.gang cn.toNat).length < 32767 →
    checkAccess s1 (armAgent s1) (apCtx s1) 0 64 .read [⟨0, a, 64⟩] = .ok cs → pastBound s1 cs false = false →
    Claims.inTime s1 → Claims.inTime (commitXlat s1 (armAgent s1) .read cs) → Claims.sound s1 → Claims.held cs →
    cs.flatMap (fun k => k.pieces) = [q] → (∀ j, j < 64 → cacheable s1 (q.x.pa + j) = true) → q.x.pa % 64 = 0 →
    Claims.tregAnswers d id e cn s s1 ((List.range 64).map (fun j => smapGet 0 s1.mem.main (q.x.pa + j)))

/-- Log entry 53: a record that the scratchpad holds is answered in the same way, though R148 puts a record in global memory. The model's
choice. -/
def Claims.ScratchpadRecords : Prop :=
  ∀ (d e : Reg) (id : BitVec 12) cn s s1 off,
    let a := (readS64 s1.gang e.toNat).toNat
    Issues (.treg d e id cn) false s s1 → (outstanding s1.gang cn.toNat).length < 32767 →
    resolve (apCtx s1) 0 a 64 0 = .ok (.scratch off) → a % 64 = 0 → s1.banks.errors = [] → s1.mem.scratchPoison = [] → Claims.inTime s1 →
    Claims.tregAnswers d id e cn s s1 (cellsRead s1.mem.scratch (Claims.scratchKey s1 off) 64)

/-- R165: TUNREG and TINV of an id that is not in use answer 1, and of a Retiring one 2. A Registered id starts to retire at once, and its
completion, wherever no discarded line holds the context's descriptor, frees it: no line stays under a key of it. -/
def Claims.TensorRetirement : Prop :=
  (∀ i unreg discard (e : Reg) aa cn s s1,
    (i = .tunreg e aa cn ∧ unreg = true ∧ discard = false) ∨ (i = .tinv discard e aa cn ∧ unreg = false) →
    Issues i false s s1 → owedDesc s1.gang aa.toNat = false → (outstanding s1.gang cn.toNat).length < 32767 → Claims.inTime s1 →
    let id := descTid (readA s1.gang aa.toNat)
    let ctx := s1.gang.ctx
    (idState s1 ctx id = 0 → ∃ u, Completes i s u ∧ Claims.answered s1 u cn.toNat e.toNat 1 ∧ u.mem = s1.mem) ∧
    (2 ≤ idState s1 ctx id → ∃ u, Completes i s u ∧ Claims.answered s1 u cn.toNat e.toNat 2 ∧ u.mem = s1.mem) ∧
    (idState s1 ctx id = 1 → s1.yo.moves = [] → unbacked s1 (ctxTtab s1 ctx * 4096 + 64 * id + 51) = false →
      ∃ u p w, Completes i s u ∧ Claims.issuedOn s1 u cn.toNat p ∧ p.kind = .sweep ∧ p.done = false ∧ p.landed = false ∧
        p.lands = [⟨false, e.toNat, 0, 0⟩] ∧
        physBytes u (ctxTtab s1 ctx * 4096 + 64 * id + 51) 1 = [if unreg then 3 else 2] ∧ u.caches.sweeps = s1.caches.sweeps ++ [w] ∧
        w.ctx = ctx ∧ w.tid = id ∧ w.unreg = unreg ∧ w.discard = discard ∧ w.gang = s1.gang.id ∧ w.op = p.id)) ∧
  (∀ s n w o, s.live = true → s.yo.moves = [] → s.caches.sweeps.find? (fun w => w.id == n) = some w → w.gang = s.gang.id →
    o ∈ s.gang.ops → o.id = w.op → unbacked s (ctxTtab s w.ctx * 4096 + 64 * w.tid + 51) = false →
    (∀ k, writeTime s (walkerNo 0) k ≤ timeBound s) → (∀ l ∈ s.caches.jigsaw, unbacked s l.pa = false ∧
      (w.discard = true → ∀ r c k, l.key = .tile w.ctx w.tid r c k → l.pa ≠ ctxAddr s w.ctx / 256 * 256)) →
    ∃ t, exec (.sweepComplete n) s = .next t ∧ (∃ p ∈ t.gang.ops, p = { o with done := true, time := p.time }) ∧
      physBytes t (ctxTtab s w.ctx * 4096 + 64 * w.tid + 51) 1 = [0] ∧
      (∀ l ∈ t.caches.jigsaw, ∀ r c k, l.key ≠ .tile w.ctx w.tid r c k) ∧
      t.caches.sweeps = s.caches.sweeps.filter (fun x => decide (x.id ≠ n)) ∧ t.gang.v = s.gang.v ∧ t.gang.s = s.gang.s)

/-- The operation of an image whose bytes, by offset in the team's scratchpad, are `left` (R157). -/
def Claims.imageOp (o : Op) (left : List (Nat × Byte)) : Prop :=
  (∃ spans, o.kind = .image left spans) ∧ o.lands = [] ∧ o.desc = none ∧ o.landed = false ∧ o.done = true

/-- R152, R157, R160, R162: TLD of a tile, whose image fits the team's scratchpad, reads every line in extent at its issue; the image, zero outside
the extent, lands later and covers no other byte; the arm keeps it until its WAIT places it. A landing writes some of the bytes that are left, or all; no other byte of a scratchpad or
of memory changes. -/
def Claims.TileLoads : Prop :=
  (∀ na (o : Reg) aa (e : Reg) (pitch : BitVec 16) cn s s1 id t,
    let i := Instr.tld na o aa e pitch cn
    let off := (readS s1.gang o.toNat).toNat
    let row := 256 * tileW t
    let p := if pitch = 0 then row else 4 * pitch.toNat
    let fr (j : Nat) : Nat := (readS s1.gang e.toNat).toNat * tileH t + j
    let cl (c : Nat) : Nat := (readS s1.gang (e.toNat + 1)).toNat * tileW t + c
    Issues i false s s1 → Claims.tile s1 aa cn id t → Claims.sound s1 → off % 4 = 0 → row ≤ p →
    off + (tileH t - 1) * p + row ≤ (apCtx s1).scrSize →
    (∀ j c, j < tileH t → c < tileW t → lineIn t (fr j) (cl c) = true →
      ∃ pa, Claims.lineAt s1 (lineVa t (fr j) (cl c)) 256 .read pa) →
    Claims.walksInTime s1 id .read (((tileLines t (readS s1.gang e.toNat).toNat (readS s1.gang (e.toNat + 1)).toNat).filter
      (fun l => lineIn t l.2.2.1 l.2.2.2)).map (fun l => (lineVa t l.2.2.1 l.2.2.2, 256))) →
    ∃ u x left, Completes i s u ∧ Claims.issuedOn s1 u cn.toNat x ∧ Claims.imageOp x left ∧ u.mem = s1.mem ∧
      (∃ im ∈ u.gang.images, im.slot = s1.gang.arm.slot ∧ im.ctr = cn.toNat ∧ im.ticket = x.ticket ∧ im.bytes = left) ∧
      (∀ j c b, j < tileH t → c < tileW t → b < 256 →
        (lineIn t (fr j) (cl c) = true → b < lineBytes t (cl c) → ∀ pa, Claims.lineAt s1 (lineVa t (fr j) (cl c)) 256 .read pa →
          (off + j * p + 256 * c + b, smapGet 0 s1.mem.main (pa + b)) ∈ left) ∧
        (lineIn t (fr j) (cl c) = false ∨ lineBytes t (cl c) ≤ b → (off + j * p + 256 * c + b, (0 : Byte)) ∈ left)) ∧
      (∀ x ∈ left, ∃ j b, j < tileH t ∧ b < row ∧ x.1 = off + j * p + b) ∧ ∀ x ∈ left, ∀ y ∈ left, x.1 = y.1 → x = y) ∧
  (∀ g n s o left, s.live = true → s.gang.id = g → s.gang.ops.find? (fun x => x.id == n) = some o → Claims.imageOp o left →
    (∀ x ∈ left, ∀ y ∈ left, x.1 = y.1 → x = y) → o.after ≤ s.cc → o.banks = [] →
    ∃ t, exec (.dataLanding g n) s = .next t ∧ t.mem.main = s.mem.main ∧ t.mem.bank = s.mem.bank ∧ t.gang.v = s.gang.v ∧ t.gang.s = s.gang.s ∧
      (∀ k, smapGet 0 t.mem.scratch k = smapGet 0 s.mem.scratch k ∨
        ∃ x ∈ left, k = Claims.scratchKey s x.1 ∧ smapGet 0 t.mem.scratch k = x.2) ∧
      ∃ o' ∈ t.gang.ops, o'.id = n ∧
        ((o'.landed = true ∧ ∀ x ∈ left, smapGet 0 t.mem.scratch (Claims.scratchKey s x.1) = x.2) ∨
          ∃ rest, Claims.imageOp o' rest ∧ List.Sublist rest left ∧
            ∀ x ∈ left, x ∉ rest → smapGet 0 t.mem.scratch (Claims.scratchKey s x.1) = x.2))

/-- R160, R162: TST of a tile, whose image fits the team's scratchpad, copies the bytes in extent of every line in extent to memory; every other
byte of memory and of the scratchpads stays. -/
def Claims.TileStores : Prop :=
  ∀ wt (o : Reg) aa (e : Reg) (pitch : BitVec 16) cn s s1 id t (pa : Nat → Nat → Nat),
    let i := Instr.tst wt o aa e pitch cn
    let off := (readS s1.gang o.toNat).toNat
    let row := 256 * tileW t
    let p := if pitch = 0 then row else 4 * pitch.toNat
    let fr (j : Nat) : Nat := (readS s1.gang e.toNat).toNat * tileH t + j
    let cl (c : Nat) : Nat := (readS s1.gang (e.toNat + 1)).toNat * tileW t + c
    let inn (j c : Nat) : Prop := j < tileH t ∧ c < tileW t ∧ lineIn t (fr j) (cl c) = true
    Issues i false s s1 → Claims.tile s1 aa cn id t → Claims.sound s1 → off % 4 = 0 → row ≤ p →
    off + (tileH t - 1) * p + row ≤ (apCtx s1).scrSize →
    (∀ j c, inn j c → Claims.lineAt s1 (lineVa t (fr j) (cl c)) (lineBytes t (cl c)) .write (pa j c)) →
    (∀ j c j' c', inn j c → inn j' c' → pa j c = pa j' c' → j = j' ∧ c = c') →
    Claims.walksInTime s1 id .write (((tileLines t (readS s1.gang e.toNat).toNat (readS s1.gang (e.toNat + 1)).toNat).filter
      (fun l => lineIn t l.2.2.1 l.2.2.2)).map (fun l => (lineVa t l.2.2.1 l.2.2.2, lineBytes t l.2.2.2))) →
    ∃ u x, Completes i s u ∧ Claims.issuedOn s1 u cn.toNat x ∧ Claims.performed x ∧ u.mem.scratch = s1.mem.scratch ∧
      u.mem.bank = s1.mem.bank ∧
      (∀ j c b, inn j c → b < lineBytes t (cl c) →
        smapGet 0 u.mem.main (pa j c + b) = smapGet 0 s1.mem.scratch (Claims.scratchKey s1 (off + j * p + 256 * c + b))) ∧
      ∀ k, (∀ j c, inn j c → k < pa j c ∨ pa j c + lineBytes t (cl c) ≤ k) → smapGet 0 u.mem.main k = smapGet 0 s1.mem.main k

/-- R163: THALO fills an image of the tile with HR rows and HC elements around it: each element in extent is copied, one outside is zero, or,
under clamp, the nearest in extent. The image lands later and covers no other byte. -/
def Claims.TileHalos : Prop :=
  ∀ clamp pf (o : Reg) aa (e : Reg) (hr hc : BitVec 4) (pitch : BitVec 16) cn s s1 id t,
    let i := Instr.thalo clamp pf o aa e hr hc pitch cn
    let off := (readS s1.gang o.toNat).toNat
    let row := 256 * tileW t + 2 * hc.toNat * t.es
    let p := if pitch = 0 then row else 4 * pitch.toNat
    let y (k : Nat) : Int := ((readS s1.gang e.toNat).toNat * tileH t : Nat) - (hr.toNat : Int) + k
    let x (k : Nat) : Int := ((readS s1.gang (e.toNat + 1)).toNat * tileW t * (256 / t.es) : Nat) - (hc.toNat : Int) + k
    let near (v : Int) (n : Nat) : Nat := (Max.max 0 (Min.min v (n - 1 : Nat))).toNat
    let inn (v : Int) (n : Nat) : Bool := clamp || (decide (0 ≤ v) && decide (v < n))
    Issues i false s s1 → Claims.tile s1 aa cn id t → Claims.sound s1 → off % 4 = 0 → row ≤ p →
    t.es ∈ [1, 2, 4, 8] → 1 ≤ t.e0 → 1 ≤ foldedRows t → off + (tileH t + 2 * hr.toNat - 1) * p + row ≤ (apCtx s1).scrSize →
    (∀ j c, j < foldedRows t → c * 256 < t.e0 * t.es → ∃ pa, Claims.lineAt s1 (lineVa t j c) 256 .read pa) →
    (∀ ls : List (Nat × Nat), ls.Nodup → (∀ l ∈ ls, l.1 < foldedRows t ∧ l.2 * 256 < t.e0 * t.es) →
      Claims.walksInTime s1 id .read (ls.map (fun l => (lineVa t l.1 l.2, 256)))) →
    ∃ u z left, Completes i s u ∧ Claims.issuedOn s1 u cn.toNat z ∧ Claims.imageOp z left ∧ u.mem.main = s1.mem.main ∧
      (∃ im ∈ u.gang.images, im.slot = s1.gang.arm.slot ∧ im.ctr = cn.toNat ∧ im.ticket = z.ticket ∧ im.bytes = left) ∧
      u.mem.bank = s1.mem.bank ∧ u.mem.scratch = s1.mem.scratch ∧
      (∀ j k b, j < tileH t + 2 * hr.toNat → k < row / t.es → b < t.es →
        (inn (y j) (foldedRows t) = true → inn (x k) t.e0 = true →
          ∀ pa, Claims.lineAt s1 (lineVa t (near (y j) (foldedRows t)) (near (x k) t.e0 * t.es / 256)) 256 .read pa →
          (off + j * p + k * t.es + b, smapGet 0 s1.mem.main (pa + near (x k) t.e0 * t.es % 256 + b)) ∈ left) ∧
        (inn (y j) (foldedRows t) = false ∨ inn (x k) t.e0 = false → (off + j * p + k * t.es + b, (0 : Byte)) ∈ left)) ∧
      (∀ v ∈ left, ∃ j b, j < tileH t + 2 * hr.toNat ∧ b < row ∧ v.1 = off + j * p + b) ∧ ∀ v ∈ left, ∀ w ∈ left, v.1 = w.1 → v = w

/-- R164, R166: TPF completes whatever its tiles meet and, where nothing is known to be wrong with memory, changes no byte. TQRY writes the state of the id, whether the tile lies outside the
grid, its home, and the lines of a Registered tile that are held and that are dirty, once an L1's own copy of the tensor's entry has gone home. -/
def Claims.TilePrefetchAndQuery : Prop :=
  (∀ c aa (e : Reg) dist mask cn s s1, Issues (.tpf c aa e dist mask cn) false s s1 → owedDesc s1.gang aa.toNat = false →
    (outstanding s1.gang cn.toNat).length < 32767 → Claims.inTime s1 →
    ∃ u p, Completes (.tpf c aa e dist mask cn) s u ∧ Claims.issuedOn s1 u cn.toNat p ∧ Claims.performed p ∧
      (Claims.sound s1 → u.mem.main = s1.mem.main ∧ u.mem.bank = s1.mem.bank ∧ u.mem.scratch = s1.mem.scratch)) ∧
  (∀ (d : Reg) aa (e : Reg) cn s s1, Issues (.tqry d aa e cn) false s s1 → owedDesc s1.gang aa.toNat = false →
    (outstanding s1.gang cn.toNat).length < 32767 → Claims.inTime s1 →
    let ctx := s1.gang.ctx
    let id := descTid (readA s1.gang aa.toNat)
    let st := idState s1 ctx id
    let t := tensorAt s1 ctx id
    let tr := (readS s1.gang e.toNat).toNat
    let tc := (readS s1.gang (e.toNat + 1)).toNat
    let out : Bool := decide (st ≠ 0 ∧ ¬(tr < tileRows t ∧ tc < tileCols t))
    ∃ u p lo hi, Completes (.tqry d aa e cn) s u ∧ Claims.issuedOn s1 u cn.toNat p ∧ p.done = true ∧ p.landed = false ∧
      p.lands = [⟨false, d.toNat, 0, lo⟩, ⟨false, d.toNat + 1, 0, hi⟩] ∧ u.mem.main = s1.mem.main ∧
      ((∀ l ∈ s1.caches.l1, l.owned = false) → u.mem = s1.mem ∧ u.caches.jigsaw = s1.caches.jigsaw) ∧
      (st < 4 → (hi.extractLsb' 0 2).toNat = st) ∧ hi.getLsbD 2 = out ∧ (hi.extractLsb' 8 3).toNat = (id + 3 * tr + tc) % 8 ∧
      ∀ n, n < 16 →
        (lo.getLsbD n = (decide (st = 1) && !out && decide (n < tileH t * tileW t) &&
          u.caches.jigsaw.any (fun l => l.key == .tile ctx id tr tc n && l.valid != 0))) ∧
        (lo.getLsbD (16 + n) = (decide (st = 1) && !out && decide (n < tileH t * tileW t) &&
          u.caches.jigsaw.any (fun l => l.key == .tile ctx id tr tc n && l.dirty != 0))))

/-! ### Jobs, bulk streams and element streams (R66, R200 to R228) -/

/-- Between `s` and `t` the executing arm submitted a job (R201, R203): an operation on its counter, and in the first free entry of its die a
queued job with an edge to every earlier incomplete one of its context that it meets; with `hv` the handle is written. -/
def Claims.submitted (s t : State) (cn : CtrNo) (hv : Bool) (d : Nat) (x : JobSpec) : Prop :=
  let die := s.gang.core / 96
  ∃ u o j, Claims.issuedOn s u cn.toNat o ∧ u.mem = s.mem ∧ o.kind = .job die j.entry ∧ o.done = false ∧ o.lands = [] ∧ u.gang.bare = t.gang.bare ∧
    freeEntry s die = some j.entry ∧ j ∈ u.jobs.list ∧ j.die = die ∧ j.st = .queued ∧ j.ctx = s.gang.ctx ∧ j.launch = s.gang.launch ∧
    j.team = s.gang.team ∧ j.gang = s.gang.id ∧ j.op = o.id ∧ j.sup = s.gang.arm.sup ∧ j.work = x.work ∧ j.reads = x.reads ∧ j.writes = x.writes ∧
    j.barrier = x.barrier ∧ j.res = x.res ∧
    j.deps = ((liveJobs s die).filter (fun k => k.ctx == s.gang.ctx && jobEdge j k)).map (fun k => k.serial) ∧
    (∀ k ∈ s.jobs.list, ¬(k.die = die ∧ k.entry = j.entry) → k ∈ u.jobs.list) ∧ t.jobs = u.jobs ∧ t.mem = u.mem ∧
    (hv = false → t = u) ∧
    (hv = true → WroteS u t d (BitVec.ofNat 32 (die * 8192 + j.gen * 256 + j.entry)) ∧ t.bare = u.bare)

/-- What an instruction that submits a job needs: room on its counter and in its die's scheduler. -/
def Claims.jobRoom (s : State) (cn : CtrNo) : Prop :=
  (outstanding s.gang cn.toNat).length < 32767 ∧ (liveJobs s (s.gang.core / 96)).length < 256

/-- R207, R213 to R215, R247: CPY and CPYB submit the copy of N elements between two ranges that lie in their descriptors' extents; a
range outside them raises BoundsTrap, the destination's before the source's, with the range's first index where that is negative, and
else with the first index past the extent (log entry 42: R247 speaks of a lane's index). -/
def Claims.CopySubmission : Prop :=
  ∀ i bulk bt hv (d : Reg) (aa ab : DescNo) (e : Reg) cn s s1,
    (i = .cpy bt hv d aa ab e cn ∧ bulk = false) ∨ (i = .cpyb bt hv d aa ab e cn ∧ bulk = true) →
    Issues i false s s1 → Claims.jobRoom s1 cn → owedDesc s1.gang aa.toNat = false → owedDesc s1.gang ab.toNat = false →
    let a := readA s1.gang aa.toNat
    let b := readA s1.gang ab.toNat
    let es := descBytes a
    let di := (readS s1.gang e.toNat).toInt
    let si := (readS s1.gang (e.toNat + 1)).toInt
    let n := (readS s1.gang (e.toNat + 2)).toNat
    let dst : Span := ⟨descOvr a, elemAddr a di, n * es⟩
    let src : Span := ⟨descOvr b, elemAddr b si, n * es⟩
    es ≠ 0 → descEs a = descEs b →
    (1 ≤ n → 0 ≤ di → di + n ≤ descExtent a → 0 ≤ si → si + n ≤ descExtent b →
      spanStack (apCtx s1) dst = none → spanStack (apCtx s1) src = none →
      ∃ t, Completes i s t ∧ Claims.submitted s1 t cn hv d.toNat
        ⟨.copy bulk [src] [dst], spanRegions (apCtx s1) [src], spanRegions (apCtx s1) [dst], if bt = 0 then none else some (bt.toNat - 1), none⟩) ∧
    (n = 0 → (∀ k ∈ s1.jobs.list, k.serial < s1.serial) →
      ∃ u t k, Completes i s t ∧ Claims.submitted s1 u cn hv d.toNat ⟨.none, [], [], if bt = 0 then none else some (bt.toNat - 1), some (0, 0, 0)⟩ ∧
        t.mem = u.mem ∧ t.gang.v = u.gang.v ∧ t.gang.s = u.gang.s ∧ t.jobs.list.find? (fun k => k.serial == t.serial - 1) = some k ∧
        k.st = .complete ∧ k.res = some (0, 0, 0) ∧ (∀ o ∈ t.gang.ops, o.id = k.op → o.done = true) ∧ ∃ o ∈ t.gang.ops, o.id = k.op ∧ o.ctr = cn.toNat) ∧
    (1 ≤ n → (di < 0 → ∃ x : Trap, exec i s = .next (stepDone (trapEntry (unpop s s1) x s.gang.arm.pc)) ∧ x.cause = 5 ∧ x.reason = 1 ∧
        BitVec.ofNat 64 x.faddr = BitVec.ofInt 64 di ∧ x.lanes = s1.gang.arm.mask) ∧
      (0 ≤ di → (descExtent a : Int) < di + n → ∃ x : Trap, exec i s = .next (stepDone (trapEntry (unpop s s1) x s.gang.arm.pc)) ∧
        x.cause = 5 ∧ x.reason = 2 ∧ BitVec.ofNat 64 x.faddr = BitVec.ofInt 64 (Max.max di (descExtent a)) ∧ x.lanes = s1.gang.arm.mask) ∧
      (0 ≤ di → di + n ≤ descExtent a → si < 0 → ∃ x : Trap, exec i s = .next (stepDone (trapEntry (unpop s s1) x s.gang.arm.pc)) ∧
        x.cause = 5 ∧ x.reason = 1 ∧ BitVec.ofNat 64 x.faddr = BitVec.ofInt 64 si ∧ x.lanes = s1.gang.arm.mask) ∧
      (0 ≤ di → di + n ≤ descExtent a → 0 ≤ si → (descExtent b : Int) < si + n →
        ∃ x : Trap, exec i s = .next (stepDone (trapEntry (unpop s s1) x s.gang.arm.pc)) ∧ x.cause = 5 ∧ x.reason = 2 ∧
          BitVec.ofNat 64 x.faddr = BitVec.ofInt 64 (Max.max si (descExtent b)) ∧ x.lanes = s1.gang.arm.mask))

/-- R210, R211, R216 to R218, R224: JOB submits what its card asks for, and a card that is misaligned or malformed as a job that fails. MVN
submits its product, with status 5 for dimensions out of range. CLOSE of no bulk copy only arrives. JST answers the state of a job of
its context. -/
def Claims.JobInstructions : Prop :=
  (∀ hv (d e : Reg) cn s s1, Issues (.job hv d e cn) false s s1 → Claims.jobRoom s1 cn →
    let a := (readS64 s1.gang e.toNat).toNat
    let p := jobAp s1 (cardAgent s1)
    (a % 128 ≠ 0 → ∃ t, Completes (.job hv d e cn) s t ∧ Claims.submitted s1 t cn hv d.toNat ⟨.none, [], [], none, some (2, 0x13, a)⟩) ∧
    (∀ off, a % 128 = 0 → resolve p 0 a 128 0 = .ok (.scratch off) → s1.banks.errors = [] → s1.mem.scratchPoison = [] →
      let bs := cellsRead s1.mem.scratch (scrKey p.core (p.scrBase + off)) 128
      ∃ t u, Completes (.job hv d e cn) s t ∧ u = { s1 with banks := u.banks, mmio := u.mmio, caches := u.caches, gang := u.gang } ∧
        u.gang = { s1.gang with arm := { s1.gang.arm with ltime := u.gang.arm.ltime } } ∧
        Claims.submitted u t cn hv d.toNat (cardJob (apCtx s1) bs) ∧
        (cardOk bs = false → (cardJob (apCtx s1) bs).res = some (5, 0, 0)))) ∧
  (∀ fmt fb bt hv (d : Reg) (aa ab : DescNo) (e : Reg) cn s s1, Issues (.mvn fmt fb bt hv d aa ab e cn) false s s1 →
    Claims.jobRoom s1 cn → owedDesc s1.gang aa.toNat = false → owedDesc s1.gang ab.toNat = false →
    let a := readA s1.gang aa.toNat
    let b := readA s1.gang ab.toNat
    let off := (readS s1.gang e.toNat).toNat
    let n := (readS s1.gang (e.toNat + 1)).toNat
    let k := (readS s1.gang (e.toNat + 2)).toNat
    let y := (readS s1.gang (e.toNat + 3)).toInt
    let bx : Span := ⟨descOvr b, descBase b, n * mvnRb fmt.toNat k⟩
    let out : Span := ⟨descOvr a, elemAddr a y, 4 * n⟩
    descEs a = 2 → descEs b = 0 → n * mvnRb fmt.toNat k ≤ descExtent b → 0 ≤ y → y + n ≤ descExtent a →
    apKind (apCtx s1) (descOvr b) (descBase b) = .glob → spanMeets (apCtx s1) bx 0 (2 ^ 40) = false →
    apKind (apCtx s1) (descOvr a) (elemAddr a y) = .scratch ∨ apKind (apCtx s1) (descOvr a) (elemAddr a y) = .bank →
    off + k * mvnEs fmt.toNat ≤ (apCtx s1).scrSize → off % 4 = 0 →
    ∃ t, Completes (.mvn fmt fb bt hv d aa ab e cn) s t ∧ Claims.submitted s1 t cn hv d.toNat
      ⟨.mvn fmt.toNat fb bx off n k out (readS s1.gang (e.toNat + 4)).toNat,
        spanRegions (apCtx s1) [bx, ⟨2, off, k * mvnEs fmt.toNat⟩], spanRegions (apCtx s1) [out], if bt = 0 then none else some (bt.toNat - 1),
        if 1 ≤ n ∧ n ≤ 2 ^ 20 ∧ 32 ≤ k ∧ k ≤ 2 ^ 16 ∧ k % 32 = 0 ∧ k % mvnG fmt.toNat = 0 then none else some (5, 0, 0)⟩) ∧
  (∀ (e : Reg) cn s s1, Issues (.close e cn) false s s1 → (outstanding s1.gang cn.toNat).length < 32767 →
    (∀ j, jobOfHandle s1 (readS s1.gang e.toNat).toNat = some j → j.ctx ≠ s1.gang.ctx ∨ j.st = .complete ∨ isBulk j = false) →
    ∃ t p, Completes (.close e cn) s t ∧ Claims.issuedOn s1 t cn.toNat p ∧ Claims.performed p ∧ t.jobs = s1.jobs ∧ t.mem = s1.mem) ∧
  (∀ (e : Reg) cn s s1 j, Issues (.close e cn) false s s1 → (outstanding s1.gang cn.toNat).length < 32767 →
    jobOfHandle s1 (readS s1.gang e.toNat).toNat = some j → j.ctx = s1.gang.ctx → j.st = .queued → isBulk j = true →
    s1.jobs.list.find? (fun k => k.serial == j.serial) = some j →
    ∃ t p k, Completes (.close e cn) s t ∧ p ∈ t.gang.ops ∧ p.ctr = cn.toNat ∧ Claims.performed p ∧ t.mem = s1.mem ∧
      t.gang.v = s1.gang.v ∧ t.gang.s = s1.gang.s ∧
      t.jobs.list.find? (fun k => k.serial == j.serial) = some k ∧ k.st = .complete ∧ k.res = some (1, 0, 0)) ∧
  (∀ (d e : Reg) cn s s1, Issues (.jst d e cn) false s s1 → (outstanding s1.gang cn.toNat).length < 32767 →
    ∃ t p x y, Completes (.jst d e cn) s t ∧ Claims.issuedOn s1 t cn.toNat p ∧ p.done = true ∧ p.landed = false ∧
      p.lands = [⟨false, d.toNat, 0, x⟩, ⟨false, d.toNat + 1, 0, y⟩] ∧ t.mem = s1.mem ∧ t.jobs = s1.jobs ∧
      (jobOfHandle s1 (readS s1.gang e.toNat).toNat = none → x = 0xC0000000 ∧ y = 0) ∧
      ∀ j, jobOfHandle s1 (readS s1.gang e.toNat).toNat = some j →
        (j.ctx ≠ s1.gang.ctx → x = 0xC0000000 ∧ y = 0) ∧
        (j.ctx = s1.gang.ctx → y = BitVec.ofNat 32 j.latency ∧ (j.st = .queued → x = 0) ∧ (j.st = .running → x = 0x40000000) ∧
          ∀ st why fa, j.st = .complete → j.res = some (st, why, fa) → st < 8 → why < 256 →
            x.extractLsb' 30 2 = 2 ∧ (x.extractLsb' 16 14).toNat = st ∧ (st = 2 → (x.extractLsb' 8 8).toNat = why)))

/-- R203, R205, R206, R211: the scheduler dispatches the oldest ready job. A fill writes its pattern and a copy its source's bytes, here
within a line of the scratchpad. A running job with its result known completes: its operation is done and its dependants lose their edge
to it, failing with it. That the work of a fill and of such a copy is done in the step of the dispatch is the model's reading: log entry 59. -/
def Claims.JobEvents : Prop :=
  (∀ s die j, s.cp.sub ≠ some die → enginesTaken s die < 4 → readyJob s die = some j →
    s.jobs.list.find? (fun k => k.serial == j.serial) = some j →
    ∃ t, exec (.jobDispatch die) s = .next t ∧
      ((t.jobs = s.jobs ∧ t.mem = s.mem ∧ ∃ ws, t.caches = { s.caches with waiting := ws }) ∨
        ∃ k, t.jobs.list.find? (fun k => k.serial == j.serial) = some k ∧ k.st = .running ∧ k.work = j.work) ∧
      (j.res ≠ none ∨ j.work = .fence ∨ j.work = .none → ∃ k, t.jobs.list.find? (fun k => k.serial == j.serial) = some k ∧ k.st = .running ∧
        (j.res = none → k.res = some (0, 0, 0)) ∧ (j.res ≠ none → k.res = j.res) ∧ t.mem = s.mem) ∧
      ∀ off n, 1 ≤ n → s.banks.errors = [] → s.mem.scratchPoison = [] → j.res = none → j.barrier = none →
        (∀ k, writeTime s (jobAg j) k ≤ timeBound s) →
        (∀ pat dst, j.work = .fill pat [dst] → dst.len = n → dst.first < 2 ^ 64 → dst.first % 256 + n ≤ 256 → spanStack (jobAp s j) dst = none →
          resolve (jobAp s j) dst.ovr dst.first n 0 = .ok (.scratch off) →
          (∃ k, t.jobs.list.find? (fun k => k.serial == j.serial) = some k ∧ k.st = .running ∧ k.res = some (0, 0, 0)) ∧ t.mem = { s.mem with scratch := t.mem.scratch } ∧
          ∀ a, smapGet 0 t.mem.scratch a =
            if scrKey (jobAp s j).core ((jobAp s j).scrBase + off) ≤ a ∧ a < scrKey (jobAp s j).core ((jobAp s j).scrBase + off) + n then
              BitVec.ofNat 8 (pat / 2 ^ (8 * ((a - scrKey (jobAp s j).core ((jobAp s j).scrBase + off)) % 8)))
            else smapGet 0 s.mem.scratch a) ∧
        (∀ src dst from_, j.work = .copy false [src] [dst] → dst.len = n → src.len = n → dst.first < 2 ^ 64 → src.first < 2 ^ 64 →
          dst.first % 256 + n ≤ 256 → src.first % 256 + n ≤ 256 → spanStack (jobAp s j) dst = none → spanStack (jobAp s j) src = none →
          resolve (jobAp s j) dst.ovr dst.first n 0 = .ok (.scratch off) → resolve (jobAp s j) src.ovr src.first n 0 = .ok (.scratch from_) →
          j.buf = [] →
          (∃ k, t.jobs.list.find? (fun k => k.serial == j.serial) = some k ∧ k.st = .running ∧ k.res = some (0, 0, 0)) ∧ t.mem = { s.mem with scratch := t.mem.scratch } ∧
          ∀ a, smapGet 0 t.mem.scratch a =
            if scrKey (jobAp s j).core ((jobAp s j).scrBase + off) ≤ a ∧ a < scrKey (jobAp s j).core ((jobAp s j).scrBase + off) + n then
              smapGet 0 s.mem.scratch (a - scrKey (jobAp s j).core ((jobAp s j).scrBase + off) +
                scrKey (jobAp s j).core ((jobAp s j).scrBase + from_))
            else smapGet 0 s.mem.scratch a)) ∧
  (∀ s die entry j st why fa o, s.live = true → jobAtEntry s die entry = some j → j.st = .running → j.left = [] → j.res = some (st, why, fa) →
    s.jobs.list.find? (fun k => k.serial == j.serial) = some j → j.gang = s.gang.id → o ∈ s.gang.ops → o.id = j.op →
    (∀ r ∈ s.dram.reserves, ownsReserve j r = false) →
    ∃ t k, exec (.jobComplete die entry) s = .next t ∧ t.mem = s.mem ∧ t.jobs.list.find? (fun k => k.serial == j.serial) = some k ∧
      k.st = .complete ∧ k.res = some (st, why, fa) ∧ (∃ p ∈ t.gang.ops, p = { o with done := true, time := p.time }) ∧ t.gang.v = s.gang.v ∧ t.gang.s = s.gang.s ∧
      (∀ x ∈ t.jobs.list, x.st ≠ .complete → j.serial ∉ x.deps) ∧
      ∀ x ∈ s.jobs.list, x.serial ≠ j.serial → x.st ≠ .complete → j.serial ∈ x.deps → (st = 2 ∨ st = 3 ∨ st = 5) →
        ∃ y ∈ t.jobs.list, y.serial = x.serial ∧ y.res = some (3, 0, 0)) ∧
  (∀ s die h, readyJob s die = none → enginesTaken s die < 4 → s.hints.find? (fun h => h.die == die) = some h → Claims.sound s →
    ∃ t, exec (.hintServed die) s = .next t ∧ t.hints = s.hints.erase h ∧ t.mem.main = s.mem.main ∧ t.gang = s.gang)

/-- R66, R213, R225: a reservation is granted where no other holds its bank group and its bank is in no refresh; its stream then reads the lines
of its next row, and goes on a while later (R458; when, and that it goes on in steps of the job, is the model's: log entry 2). A held one is
closed 4,096 cc after its last transfer, which RSVTO counts, and its engine asks again; a suspended one is not. A move that waited for a near-memory job starts, or its requester takes the
status of a page that is gone. -/
def Claims.ReservationEvents : Prop :=
  (∀ s n r, s.dram.reserves[n]? = some r → r.held = false →
    let pcn := pcNumber r.stack r.ch r.pc
    (∀ x ∈ s.dram.reserves, x.held = true → pcNumber x.stack x.ch x.pc = pcn → x.bank / 4 ≠ r.bank / 4) →
    bankRefreshing s (16 * pcn + r.bank) = false → inBurst s pcn = false →
    ∃ t, exec (.reservationGranted n) s = .next t ∧ t.dram.reserves = s.dram.reserves.set n { r with held := true, last := s.cc, next := s.cc } ∧
      t.jobs = s.jobs ∧ t.mem = s.mem ∧ t.gang = s.gang) ∧
  (∀ s die entry r j, Claims.sound s → jobAtEntry s die entry = some j → j.st = .running → s.jobs.list.find? (fun k => k.serial == j.serial) = some j →
    s.dram.reserves = [r] → ownsReserve j r = true → r.held = true → r.susp = none → r.next ≤ s.cc → nextRow j (bankOf r) ≠ [] →
    ∃ t, exec (.jobComplete die entry) s = .next t ∧
      ((∃ ws, t = { s with caches := { s.caches with waiting := ws } }) ∨
        (∃ k, t.jobs.list.find? (fun k => k.serial == j.serial) = some k ∧ k.st = .running ∧
          k.left = j.left.filter (fun e => !(nextRow j (bankOf r)).contains e)) ∧
        ∃ x ∈ t.dram.reserves, x = { r with last := x.last, next := x.next } ∧ s.cc < x.next)) ∧
  (∀ s n r, s.dram.reserves[n]? = some r → r.held = true → r.susp = none → r.last + 4096 ≤ s.cc →
    let at_ := pcStatOf (pcNumber r.stack r.ch r.pc)
    ∃ t, exec (.reservationTimeout n) s = .next t ∧ t.mem = s.mem ∧ t.gang = s.gang ∧ t.jobs = s.jobs ∧ (∀ x ∈ t.dram.reserves, x ≠ r) ∧
      (∀ x ∈ s.dram.reserves, x ≠ r → x ∈ t.dram.reserves) ∧ mmField t at_ 15 8 = Min.min 255 (mmField s at_ 15 8 + 1) ∧
      ∀ j e, jobAtEntry s r.die r.job = some j → s.jobs.list.find? (fun k => k.serial == j.serial) = some j → s.dram.reserves = [r] →
        j.left = [e] → e.1 = bankOf r →
        ∃ x ∈ t.dram.reserves, bankOf x = bankOf r ∧ x.held = false ∧ ownsReserve j x = true) ∧
  (∀ s n r, s.dram.reserves[n]? = some r → r.susp ≠ none ∨ s.cc < r.last + 4096 → exec (.reservationTimeout n) s = .next s) ∧
  (∀ s n d q o, s.live = true → s.deferred.find? (fun d => d.id == n) = some d → s.jobs.list = [] → s.yo.moves = [] →
    mmField s (yoRlBase + 8) 0 0 = 1 → d.req = some q →
    q.gang = s.gang.id → o ∈ s.gang.ops → o.id = q.op →
    ∃ t, exec (.deferredMoveStart n) s = .next t ∧ t.deferred = s.deferred.filter (fun x => decide (x.id ≠ n)) ∧
      (leafOf s d.ctx d.va = none → ∃ p ∈ t.gang.ops, p = { o with done := true, lands := [⟨false, q.status, 0, 9⟩], time := p.time }) ∧
      ∀ w, leafOf s d.ctx d.va = some w → w.level = 1 → d.lines = 16 → pteMv w.entry = false → ptePn w.entry = false → pteC64 w.entry = false →
        ptePfn w.entry = d.pfn → t.gang = s.gang ∧ ∃ m, t.yo.moves = [m] ∧ m.no = d.no ∧ m.st = .recall ∧ m.src = d.pfn ∧ m.dst = d.dst ∧ m.req = some q ∧
          m.cursor = 0)

/-- R219 to R223: STRM opens its queue over a descriptor, checked where its range leaves the extent; SCLOSE closes a queue or all; run-ahead
fetches the next position of an open queue as a prefetch. -/
def Claims.ElementStreams : Prop :=
  (∀ (q : BitVec 2) (aa : DescNo) (e : Reg) sx hn (depth : BitVec 2) cn s s1, Issues (.strm q aa e sx hn depth cn) false s s1 →
    (outstanding s1.gang cn.toNat).length < 32767 → owedDesc s1.gang aa.toNat = false → q.toNat < s1.gang.streams.length →
    let a := readA s1.gang aa.toNat
    let off := (readS s1.gang e.toNat).toInt
    let ls : List (Nat × Int) := (List.range (depth.toNat + 1)).map (fun k =>
      ((readS s1.gang (e.toNat + 1 + 2 * k)).toNat, (readS s1.gang (e.toNat + 2 + 2 * k)).toInt))
    let lo := ls.foldl (fun x l => x + Min.min 0 (((l.1 : Int) - 1) * l.2)) off
    let hi := ls.foldl (fun x l => x + Max.max 0 (((l.1 : Int) - 1) * l.2)) off
    let empty : Bool := ls.any (fun l => l.1 == 0)
    let out : Bool := !empty && (decide (lo < 0) || decide ((descExtent a : Int) ≤ hi))
    let first : Int := Max.max lo 0
    let last : Int := Min.min hi ((descExtent a : Int) - 1)
    let els : Span := ⟨descOvr a, elemAddr a first, if !empty && decide (first ≤ last) then (last + 1 - first).toNat * descBytes a else 0⟩
    descBytes a ≠ 0 → apKind (apCtx s1) (descOvr a) (descBase a) ≠ .bank → apKind (apCtx s1) (descOvr a) (descBase a) ≠ .stack →
    spanMeets (apCtx s1) els (2 ^ 32) (2 ^ 32 + 2 ^ 26) = false → spanMeets (apCtx s1) els (2 ^ 39) (2 ^ 40) = false →
    (out = true → descTrap a = false) →
    ∃ t p, Completes (.strm q aa e sx hn depth cn) s t ∧ Claims.issuedOn s1 t cn.toNat p ∧ Claims.performed p ∧ t.mem = s1.mem ∧
      t.gang.streams = s1.gang.streams.set q.toNat
        { isOpen := true, desc := a, off := off, levels := ls, sx := sx, hn := hn, checked := out, cursor := 0, ahead := [],
          ctr := cn.toNat, ticket := p.ticket }) ∧
  (∀ (q : StreamSel) cn s s1, Issues (.sclose q cn) false s s1 → (outstanding s1.gang cn.toNat).length < 32767 →
    ∃ t p, Completes (.sclose q cn) s t ∧ Claims.issuedOn s1 t cn.toNat p ∧ Claims.performed p ∧ t.mem = s1.mem ∧
      t.gang.streams.length = s1.gang.streams.length ∧
      ∀ n, n < 4 → n < s1.gang.streams.length → t.gang.streams[n]? =
        if (match q with | .one k => decide (k.toNat = n) | .all => true) then some Stream.closed else s1.gang.streams[n]?) ∧
  (∀ g q s x p, s.live = true → s.gang.id = g → s.gang.arm.slot = 0 → s.gang.streams[q]? = some x → x.isOpen = true → x.checked = false →
    x.cursor ≤ p → p < x.cursor + 4 * s.gang.declared → p < streamTotal x → (∀ e ∈ x.ahead, e.1 ≠ p) →
    (∀ k, x.cursor ≤ k → k < p → streamTotal x ≤ k ∨ ∃ e ∈ x.ahead, e.1 = k) →
    ∃ t, exec (.streamRunAhead g q) s = .next t ∧
      ((∃ ws, t = { s with caches := { s.caches with waiting := ws } }) ∨ ∃ v, t.gang.streams[q]? = some { x with ahead := x.ahead ++ [(p, v)] }) ∧
      t.gang.v = s.gang.v ∧ t.gang.s = s.gang.s ∧ t.gang.arm.pc = s.gang.arm.pc ∧ t.gang.ops = s.gang.ops)


/-- R219, R221: an issue that names an open stream pops it once: lane `l` of the operand takes the element of position cursor + `l`, 0 past the
end or where the bounds check masks it, which BMISS then shows; the cursor moves by the declared width, whatever the mask; the operand's shadow is
the landed interval. Here every element has been fetched, none of them poisoned. Where a dropped one fails as a demand read, the issue traps and
no stream has moved. -/
def Claims.StreamPops : Prop :=
  ∀ i s (n : Nat) q, popsOf s.gang i = [n] → n < 4 → s.gang.streams[n]? = some q → q.isOpen = true →
    let lanes := laneList s.gang.arm.mask
    let es := descBytes q.desc
    let out (p : Nat) : Bool := q.checked && (decide (streamIndex q p < 0) || decide ((descExtent q.desc : Int) ≤ streamIndex q p))
    (∀ x : Nat → DWord, agentTime s (streamAg s) ≤ timeBound s →
      (∀ l ∈ lanes, aheadAt q (q.cursor + l) =
        if q.cursor + l < streamTotal q ∧ out (q.cursor + l) = false then some (some (x l, none)) else none) →
      ∃ s1, popAll s i = .ok s1 ∧ openQueue s1.gang (124 + n) = some n ∧
        (∀ l ∈ lanes, srcV64 s1.gang (124 + n) l =
            (if q.cursor + l < streamTotal q ∧ out (q.cursor + l) = false then x l else 0) ∧
          srcV s1.gang (124 + n) l = (srcV64 s1.gang (124 + n) l).setWidth 32) ∧
        srcShadowV s1.gang (124 + n) =
          (if es = 1 then (if q.sx then ⟨-128, 127⟩ else ⟨0, 255⟩)
           else if es = 2 then (if q.sx then ⟨-32768, 32767⟩ else ⟨0, 65535⟩) else Shadow.top) ∧
        s1.gang.streams = s.gang.streams.set n { q with cursor := q.cursor + s.gang.declared,
                                                        ahead := q.ahead.filter (fun e => decide (q.cursor + s.gang.declared ≤ e.1)) } ∧
        (∀ l, l < 96 → s1.gang.bmiss.getLsbD l =
          (s.gang.bmiss.getLsbD l || (active s l && decide (q.cursor + l < streamTotal q) && out (q.cursor + l)))) ∧
        s1.gang.v = s.gang.v ∧ s1.gang.s = s.gang.s ∧ s1.gang.arm.pc = s.gang.arm.pc ∧ s1.gang.arm.mask = s.gang.arm.mask ∧ s1.gang.ops = s.gang.ops) ∧
    (∀ l tr, lanes = [l] → q.cursor + l < streamTotal q → out (q.cursor + l) = false → aheadAt q (q.cursor + l) = some none →
      checkAccess s (armAgent s) (apCtx s) (descOvr q.desc) es .read [⟨l, elemAddr q.desc (streamIndex q (q.cursor + l)), es⟩] = .error tr →
      ∃ u, popAll s i = .trap tr u ∧ (unpop s u).gang.streams = s.gang.streams)

/-! ### Matrix engines (R300 to R328) -/

/-- A matrix instruction issues: nothing of R42 stands against it, the gang has no reset mark (R325), and its counter and its core's queue
have room (R171, R300). -/
def Claims.mxIssues (i : Instr) (cn : CtrNo) (s s1 : State) : Prop :=
  Issues i false s s1 ∧ s.gang.resetMark = none ∧ (outstanding s1.gang cn.toNat).length < 32767 ∧ (coreQueue s1 s1.gang.core).length < 64

/-- Between `s` and `t` the executing arm queued a command on its core's engine (R302), owing the registers `owed`. -/
def Claims.queued (s t : State) (cn : CtrNo) (owed : List Nat) (vec : Bool) (w : MxWork) : Prop :=
  ∃ o c, Claims.issuedOn s t cn.toNat o ∧ o.kind = .matrix s.gang.core ∧ o.done = false ∧ o.lands = [] ∧ (o.landed = true ↔ owed = []) ∧
    (∀ r ∈ owed, ∃ x ∈ t.gang.arm.owed, x.vec = vec ∧ x.reg = r ∧ x.op = o.id ∧ x.landed = false) ∧
    t.mx.queue = s.mx.queue ++ [c] ∧ c.core = s.gang.core ∧ c.team = s.gang.team ∧ c.launch = s.gang.launch ∧ c.ctx = s.gang.ctx ∧
    c.sup = s.gang.arm.sup ∧ c.gang = s.gang.id ∧ c.op = o.id ∧ c.work = w

/-- R305, R316, R317: OBRES answers −1 for a held handle, −4 for a size, pitch or scale offset out of range, −2 with 64 reservations on the core,
−3 without a run of granules, and otherwise 0 with the reservation held; only its register is written. OBREL gives its handle up at once
and queues the release; a handle that is not held raises OperandBuffer 1. -/
def Claims.MatrixReservations : Prop :=
  (∀ (fmt : BitVec 4) (gc : BitVec 2) (h : BitVec 4) (d e : Reg) s s1, Issues (.obres fmt gc h d e) false s s1 → s.gang.resetMark = none →
    let size := (readS s1.gang e.toNat).toNat
    let pitch := (readS s1.gang (e.toNat + 1)).toNat
    let soff := (readS s1.gang (e.toNat + 2)).toNat
    let group := 32 * 2 ^ (gc.toNat - 1) * mxBits fmt.toNat / 8
    let held := s1.mx.res.any (fun r => r.team == s1.gang.team && r.core == s1.gang.core && r.h == h.toNat && r.held)
    let good := 1 ≤ size ∧ size ≤ 524288 ∧ 16 ≤ pitch ∧ pitch ≤ 65520 ∧ pitch % 16 = 0 ∧
      (gc ≠ 0 → pitch % group = 0 ∧ soff % 4 = 0 ∧ soff < size)
    let mine := (s1.mx.res.filter (fun r => r.core == s1.gang.core)).length
    let answers (st : Int) : Prop := ∃ t, Completes (.obres fmt gc h d e) s t ∧ WroteS s1 t d.toNat (BitVec.ofInt 32 st) ∧ t.bare = s1.bare
    (held = true → answers (-1)) ∧ (held = false → ¬good → answers (-4)) ∧ (held = false → good → 64 ≤ mine → answers (-2)) ∧
    (held = false → good → mine < 64 → freeRun s1 s1.gang.core ((size + 1023) / 1024) = none → answers (-3)) ∧
    (held = false → good → mine < 64 → ∀ a, freeRun s1 s1.gang.core ((size + 1023) / 1024) = some a →
      ∃ t r, Completes (.obres fmt gc h d e) s t ∧ WroteS s1 t d.toNat 0 ∧ t.mx = { s1.mx with res := s1.mx.res ++ [r] } ∧ t.mem = s1.mem ∧
        r.core = s1.gang.core ∧ r.team = s1.gang.team ∧ r.h = h.toNat ∧ r.held = true ∧ r.fmt = fmt.toNat ∧ r.gc = gc.toNat ∧ r.size = size ∧
        r.pitch = pitch ∧ (gc ≠ 0 → r.soff = soff) ∧ r.start = a)) ∧
  (∀ (h : BitVec 4) cn s s1, Claims.mxIssues (.obrel h cn) cn s s1 →
    (∀ r, heldRes s1 h.toNat = some r → ∃ t, Completes (.obrel h cn) s t ∧ Claims.queued s1 t cn [] false (.obrel r.id) ∧ t.mem = s1.mem ∧
      t.mx.res = s1.mx.res.map (fun x => if x.id = r.id then { r with held := false } else x) ∧ t.mx.tiles = s1.mx.tiles) ∧
    (heldRes s1 h.toNat = none → exec (.obrel h cn) s = .next (stepDone (trapEntry (unpop s s1) ⟨0x0F, 1, 0, s1.gang.arm.mask, []⟩ s.gang.arm.pc))))

/-- The transfers of a matrix operand's rows, by line (R206, R314), and that they pass its checks. -/
def Claims.mxOperand (s : State) (a : BitVec 128) (kind : AccKindF) (rows : List Chunk) (ks : List Checked) : Prop :=
  let cs := rows.flatMap (fun r => spanChunks r.off ⟨descOvr a, r.a, r.n⟩)
  (∀ c ∈ cs, apKind (apCtx s) (descOvr a) c.a ≠ .bank ∧ apKind (apCtx s) (descOvr a) c.a ≠ .stack) ∧
    checkAccess s (armAgent s) (apCtx s) (descOvr a) (descBytes a) kind ((sortChunks cs).map (fun c => ⟨0, c.a, c.n⟩)) = .ok ks

/-- Pieces of rows, in order. -/
def Claims.piecesOf (a : BitVec 128) (rows : List Chunk) (ps : List MxPiece) : Prop :=
  ps.map (fun p => (p.idx, p.va, p.n)) = (rows.flatMap (fun r => spanChunks r.off ⟨descOvr a, r.a, r.n⟩)).map (fun c => (c.off, c.a, c.n))

/-- R314, R315, R318, R322: OBLD, OBLD.rec and the memory forms of ACLD and ACST, whose operands pass their checks, queue their commands. -/
def Claims.MatrixTransfersIssue : Prop :=
  (∀ (len : BitVec 16) (h : BitVec 4) (aa : DescNo) (e : Reg) cn s s1 r ks, Claims.mxIssues (.obld len h aa e cn) cn s s1 →
    owedDesc s1.gang aa.toNat = false → heldRes s1 h.toNat = some r →
    let a := readA s1.gang aa.toNat
    let i := (readS s1.gang e.toNat).toInt
    let str := (readS s1.gang (e.toNat + 1)).toInt
    let o := (readS s1.gang (e.toNat + 2)).toNat
    let n := (readS s1.gang (e.toNat + 3)).toNat
    let rows := rowChunks a i str n len.toNat o r.pitch
    1 ≤ n → n ≤ 4096 → len ≠ 0 → o % 16 = 0 → o + (n - 1) * r.pitch + len.toNat * descBytes a ≤ r.size → descBytes a ≠ 0 →
    (∀ k, k < n → 0 ≤ i + k * str ∧ i + k * str + len.toNat ≤ descExtent a) → Claims.mxOperand s1 a .read rows ks →
    ∃ t ps, Completes (.obld len h aa e cn) s t ∧ Claims.queued s1 t cn [] false (.obld r.id (ps.map (fun p => (p, p.idx)))) ∧
      Claims.piecesOf a rows ps ∧ t.mx.res = s1.mx.res ∧ t.mx.tiles = s1.mx.tiles) ∧
  (∀ (len : BitVec 16) (h : BitVec 4) (aa : DescNo) (e : Reg) cn s s1 r ks, Claims.mxIssues (.obldRec len h aa e cn) cn s s1 →
    owedDesc s1.gang aa.toNat = false → heldRes s1 h.toNat = some r → r.gc ≠ 0 →
    let a := readA s1.gang aa.toNat
    let i := (readS s1.gang e.toNat).toInt
    let str := (readS s1.gang (e.toNat + 1)).toInt
    let c0 := (readS s1.gang (e.toNat + 2)).toNat % 65536
    let g0 := (readS s1.gang (e.toNat + 2)).toNat / 65536
    let n := (readS s1.gang (e.toNat + 3)).toNat
    let ge := mxGe r
    let w := 4 + ge
    let rows := (List.range n).flatMap (fun (k : Nat) => (List.range len.toNat).map (fun (j : Nat) =>
      (⟨(k * len.toNat + j) * w, descOvr a, elemAddr a (i + k * str + j * (w / 4 : Nat)), w⟩ : Chunk)))
    1 ≤ n → n ≤ 4096 → len ≠ 0 → (g0 + len.toNat) * ge ≤ r.pitch → (c0 + n - 1) * r.pitch + (g0 + len.toNat) * ge ≤ r.size →
    scaleOff r (c0 + n - 1) (g0 + len.toNat - 1) + 4 ≤ r.size → descEs a = 2 →
    (∀ k, k < n → 0 ≤ i + k * str ∧ i + k * str + (len.toNat * w / 4 : Nat) ≤ descExtent a) → Claims.mxOperand s1 a .read rows ks →
    ∃ t ps, Completes (.obldRec len h aa e cn) s t ∧
      Claims.queued s1 t cn [] false (.obldRec r.id (ps.map (fun p => (p, c0 + p.idx / w / len.toNat, g0 + p.idx / w % len.toNat)))) ∧
      Claims.piecesOf a rows ps ∧ t.mx.res = s1.mx.res ∧ t.mx.tiles = s1.mx.tiles) ∧
  (∀ i store tile (aa : DescNo) (e : Reg) cn s s1 x ks,
    (i = .acld (.mem aa) tile e cn ∧ store = false) ∨ (i = .acst (.mem aa) tile e cn ∧ store = true) →
    Claims.mxIssues i cn s s1 → owedDesc s1.gang aa.toNat = false → boundTile s1 tile.toNat = some x →
    let a := readA s1.gang aa.toNat
    let j := (readS s1.gang e.toNat).toInt
    let str := (readS s1.gang (e.toNat + 1)).toInt
    let es := if x.kind = .f64 then 8 else 4
    let rows := rowChunks a j str 32 32 0 (32 * es)
    descBytes a = es → (∀ k, k < 32 → 0 ≤ j + k * str ∧ j + k * str + 32 ≤ descExtent a) →
    Claims.mxOperand s1 a (if store then .write else .read) rows ks →
    ∃ t ps, Completes i s t ∧ Claims.queued s1 t cn [] false (if store then .acstMem x.id x.kind ps else .acldMem x.id x.kind ps) ∧
      Claims.piecesOf a rows ps ∧ t.mx.res = s1.mx.res ∧ t.mx.tiles = s1.mx.tiles)

/-- R307, R319, R321 to R323: MMA and MLOOP of a pairing that suits the tile, with every fragment in place, and ACZ, ACZ.rel, the register forms
of ACLD and ACST, and MSTAT queue their commands; ACZ binds its tile at once and ACZ.rel gives it up. Registers and memory stay. -/
def Claims.MatrixCommandsIssue : Prop :=
  (∀ i ua ub tile hb ha (e : Reg) cn oa ob da db n s s1 a b x k rule,
    (i = .mma ua ub tile hb ha e cn ∧ oa = ((readS s1.gang e.toNat).toNat : Int) ∧ ob = ((readS s1.gang (e.toNat + 1)).toNat : Int) ∧
      da = 0 ∧ db = 0 ∧ n = 1) ∨
    (i = .mloop ua ub tile hb ha e cn ∧ oa = ((readS s1.gang e.toNat).toNat : Int) ∧ ob = ((readS s1.gang (e.toNat + 1)).toNat : Int) ∧
      n = (readS s1.gang (e.toNat + 2)).toNat ∧ da = (readS s1.gang (e.toNat + 3)).toInt ∧ db = (readS s1.gang (e.toNat + 4)).toInt) →
    Claims.mxIssues i cn s s1 → heldRes s1 (ha : BitVec 4).toNat = some a → heldRes s1 (hb : BitVec 4).toNat = some b →
    boundTile s1 (tile : BitVec 6).toNat = some x → mxPair a.fmt b.fmt = some (k, rule) → k = x.kind →
    (∀ (j : Nat), j < n → fragBad a (oa + j * da) = none ∧ (if rule = .group then groupBad b (ob + j * db) else fragBad b (ob + j * db)) = none) →
    ∃ t, Completes i s t ∧ Claims.queued s1 t cn [] false (.mma x.id k a.id b.id oa ob da db n ua ub) ∧ t.mem = s1.mem ∧ t.mx.res = s1.mx.res ∧
      t.mx.tiles = s1.mx.tiles) ∧
  (∀ (r : MxRes) (o : Int), fragBad r o = none ↔ o % 16 = 0 ∧ 0 ≤ o ∧ o + 31 * r.pitch + 4 * mxBits r.fmt ≤ r.size) ∧
  (∀ k (tile : BitVec 6) cn s s1, Claims.mxIssues (.acz k tile cn) cn s s1 → (k = .f64 → tile.toNat % 2 = 0) → oddHalf s1 tile.toNat = false →
    let slots := if k = .f64 then 2 else 1
    (boundTile s1 tile.toNat = none → (k = .f64 → boundTile s1 (tile.toNat + 1) = none) → slots ≤ freeSlots s1 s1.gang.core →
      ∃ t x, Completes (.acz k tile cn) s t ∧ Claims.queued s1 t cn [] false (.acz x.id k none) ∧ t.mem = s1.mem ∧
        t.mx.tiles = s1.mx.tiles ++ [x] ∧ x.core = s1.gang.core ∧ x.team = s1.gang.team ∧ x.no = tile.toNat ∧ x.bound = true ∧ x.kind = k ∧
        x.slots = slots) ∧
    (∀ x, boundTile s1 tile.toNat = some x → (k = .f64 → boundTile s1 (tile.toNat + 1) = none) → slots ≤ freeSlots s1 s1.gang.core + x.slots →
      ∃ t, Completes (.acz k tile cn) s t ∧ Claims.queued s1 t cn [] false (.acz x.id k none) ∧ t.mem = s1.mem ∧
        t.mx.tiles = s1.mx.tiles.map (fun y => if y.id = x.id then { x with kind := k, slots := slots } else y))) ∧
  (∀ (tile : BitVec 6) cn s s1 x, Claims.mxIssues (.aczRel tile cn) cn s s1 → boundTile s1 tile.toNat = some x →
    ∃ t, Completes (.aczRel tile cn) s t ∧ Claims.queued s1 t cn [] false (.aczRel x.id) ∧ t.mem = s1.mem ∧
      t.mx.tiles = s1.mx.tiles.map (fun y => if y.id = x.id then { x with bound := false } else y)) ∧
  (∀ (tile : BitVec 6) (e : Reg) cn s s1 x, boundTile s1 tile.toNat = some x → x.kind ≠ .f64 →
    let low := (Claims.lanes s1).filter (fun l => decide (l < 32))
    (Claims.mxIssues (.acld .regs tile e cn) cn s s1 → ∃ t vs, Completes (.acld .regs tile e cn) s t ∧
      Claims.queued s1 t cn [] false (.acldRegs x.id vs) ∧ t.mem = s1.mem ∧ t.mx.tiles = s1.mx.tiles ∧
      ∀ m l v, (32 * m + l, v) ∈ vs ∧ l < 32 ↔ m < 32 ∧ l ∈ low ∧ v = (readV s1.gang (e.toNat + m) l).toNat) ∧
    (Claims.mxIssues (.acst .regs tile e cn) cn s s1 → twinTrap s1.gang = none → ∃ t, Completes (.acst .regs tile e cn) s t ∧
      Claims.queued s1 t cn (if Claims.lanes s1 = [] then [] else (List.range 32).map (fun m => e.toNat + m)) true (.acstRegs x.id e.toNat low) ∧
      t.mem = s1.mem ∧ t.mx.tiles = s1.mx.tiles)) ∧
  (∀ f (d : Reg) cn s s1, Claims.mxIssues (.mstat f d cn) cn s s1 → (∀ n, f = .acc n → oddHalf s1 n.toNat = false) →
    ∃ t, Completes (.mstat f d cn) s t ∧ t.mem = s1.mem ∧ Claims.queued s1 t cn [d.toNat, d.toNat + 1] false
      (.mstat (match f with
        | .acc n => .acc ((boundTile s1 n.toNat).map (fun t => (t.id, t.kind)))
        | .ob h => .ob ((heldRes s1 h.toNat).map (fun r => r.id))
        | .eng => .eng) d.toNat))

/-- R302, R308, R316 to R323: the oldest command of a core takes effect and its operation is done: a release frees its reservation or tile, a load
fills the reservation from the scratchpad, a product of signed bytes adds to every element of its tile modulo 2^32, ACZ clears a tile,
ACLD sets it and ACST gives it, and MSTAT answers. -/
def Claims.MatrixCommandEffects : Prop :=
  ∀ s core c rest o, s.live = true → core < 768 → coreQueue s core = c :: rest → c.gang = s.gang.id → s.gang.ops = [o] → o.id = c.op →
    s.banks.errors = [] → s.mem.scratchPoison = [] → (∀ t ∈ s.mx.tiles, t.tag = none) →
    c.time ≤ timeBound s → (∀ k, writeTime s (mxNo core) k ≤ timeBound s) →
    let key (k : Nat) : Nat := scrKey (jobAp s (mxAgent s c)).core ((jobAp s (mxAgent s c)).scrBase + k)
    ∃ t, exec (.matrixCommand core) s = .next t ∧ t.mx.queue = s.mx.queue.filter (fun x => decide (x.id ≠ c.id)) ∧ t.gang.v = s.gang.v ∧
      t.gang.s = s.gang.s ∧ (∃ p, t.gang.ops = [p] ∧ p = { o with done := true, lands := p.lands, time := p.time }) ∧
      (∀ id, c.work = .obrel id → t.mx.res = s.mx.res.filter (fun r => decide (r.id ≠ id)) ∧ t.mem = s.mem) ∧
      (∀ id p off r, c.work = .obld id [(p, off)] → p.scratch = true → mxRes s id = some r → t.mem = s.mem ∧
        ∃ r', mxRes t id = some r' ∧ ∀ k, resByte r' k =
          if off ≤ k ∧ k < off + p.n then (smapGet 0 s.mem.scratch (key (p.pa + (k - off)))).toNat else resByte r k) ∧
      (∀ id k ra rb oa ob da db ua ub a b x, c.work = .mma id k ra rb oa ob da db 1 ua ub → mxTile s id = some x → mxRes s ra = some a → mxRes s rb = some b →
        a.fmt = 6 → b.fmt = 6 → smapWf 0 x.vals = true → t.mem = s.mem ∧
        ∃ y, mxTile t id = some y ∧ y.steps = Min.min (x.steps + 1) (2 ^ 32 - 1) ∧ ∀ m n, m < 32 → n < 32 →
          ((smapGet 0 y.vals (32 * m + n) : Nat) : Int) = (((smapGet 0 x.vals (32 * m + n) : Nat) : Int) + ((List.range 32).map (fun j =>
            (BitVec.ofNat 8 (resByte a (oa.toNat + m * a.pitch + j))).toInt * (BitVec.ofNat 8 (resByte b (ob.toNat + n * b.pitch + j))).toInt)).sum)
              % 2 ^ 32) ∧
      (∀ id k x, c.work = .acz id k none → mxTile s id = some x → t.mem = s.mem ∧
        mxTile t id = some { x with vals := [], part := [], tag := none, flags := 0, steps := 0 }) ∧
      (∀ id, c.work = .aczRel id → t.mem = s.mem ∧ t.mx.tiles = s.mx.tiles.filter (fun x => decide (x.id ≠ id))) ∧
      (∀ id vs x, c.work = .acldRegs id vs → mxTile s id = some x → t.mem = s.mem ∧ ∃ y, mxTile t id = some y ∧ y.flags = 0 ∧ y.steps = 0 ∧
        ∀ k, smapGet 0 y.vals k = ((vs.filter (fun e => e.1 == k)).map (fun e => e.2)).getLastD (smapGet 0 x.vals k)) ∧
      (∀ id k p x, c.work = .acldMem id k [p] → p.scratch = true → mxTile s id = some x →
        let es := if k = .f64 then 8 else 4
        p.n = 1024 * es → t.mem = s.mem ∧ ∃ y, mxTile t id = some y ∧ ∀ j, j < 1024 →
          smapGet 0 y.vals j = leNat ((List.range es).map (fun b => smapGet 0 s.mem.scratch (key (p.pa + j * es + b))))) ∧
      (∀ id k p x, c.work = .acstMem id k [p] → p.scratch = true → mxTile s id = some x → smapWf 0 x.vals = true →
        let es := if k = .f64 then 8 else 4
        p.idx + p.n ≤ 1024 * es → t.mem = { s.mem with scratch := t.mem.scratch } ∧ ∀ a, smapGet 0 t.mem.scratch a =
          if key p.pa ≤ a ∧ a < key p.pa + p.n then
            BitVec.ofNat 8 (smapGet 0 x.vals ((p.idx + (a - key p.pa)) / es) / 2 ^ (8 * ((p.idx + (a - key p.pa)) % es)))
          else smapGet 0 s.mem.scratch a) ∧
      (∀ id d low x, c.work = .acstRegs id d low → mxTile s id = some x → t.mem = s.mem ∧ ∃ p, t.gang.ops = [p] ∧
        ∀ w, w ∈ p.lands ↔ ∃ m n, m < 32 ∧ n ∈ low ∧ w = ⟨true, d + m, n, BitVec.ofNat 32 (smapGet 0 x.vals (32 * m + n))⟩) ∧
      (∀ v d, c.work = .mstat v d → t.mem = s.mem ∧ ∃ p, t.gang.ops = [p] ∧
        (v = .acc none ∨ v = .ob none → p.lands = [⟨false, d, 0, 0⟩, ⟨false, d + 1, 0, 0⟩]) ∧
        (∀ id k x, v = .acc (some (id, k)) → mxTile s id = some x → x.steps < 2 ^ 32 → ∃ y, p.lands = [⟨false, d, 0, y⟩, ⟨false, d + 1, 0, BitVec.ofNat 32 x.steps⟩] ∧
          y.getLsbD 31 = true ∧ (y.extractLsb' 29 2).toNat = (match k with | .f32 => 0 | .i32 => 1 | .f64 => 2) ∧ y.getLsbD 28 = false ∧
          y.extractLsb' 0 5 = x.flags) ∧
        (v = .eng → ∃ y z, p.lands = [⟨false, d, 0, y⟩, ⟨false, d + 1, 0, z⟩] ∧ z = BitVec.ofNat 32 (freeGranules s core)))

/-- R325, R328: the watchdog, with commands queued and nothing done for its limit, and MXRST reset a core's engine: its reservations and tiles
are lost, each command of the teams that held some leaves, its operation done and MatrixEngineReset pending on its counter, every gang of those
teams is marked, resident or saved, and the reset counts. A marked gang's next matrix instruction takes the trap and the mark is gone. -/
def Claims.MatrixResets : Prop :=
  (∀ i s core why, core < 768 →
    ((i = .mxrst core ∧ why = 2 ∧ s.contained = false) ∨ (i = .matrixWatchdog core ∧ why = 1 ∧ mmField s (mxBlock (core / 96)) 15 0 ≠ 0 ∧ coreQueue s core ≠ [] ∧
      smapGet 0 s.mx.last core + mmField s (mxBlock (core / 96)) 15 0 * 1024 ≤ s.cc)) →
    let holds (team : Nat) : Bool := s.mx.res.any (fun r => r.core == core && r.team == team) || s.mx.tiles.any (fun t => t.core == core && t.team == team)
    ∃ t, exec i s = .next t ∧ t.mem = s.mem ∧ (∀ r ∈ t.mx.res, r.core ≠ core) ∧ (∀ x ∈ t.mx.tiles, x.core ≠ core) ∧
      (∀ r ∈ s.mx.res, r.core ≠ core → r ∈ t.mx.res) ∧ (∀ x ∈ s.mx.tiles, x.core ≠ core → x ∈ t.mx.tiles) ∧
      t.mx.queue = s.mx.queue.filter (fun c => !(c.core == core && holds c.team)) ∧
      (∀ c ∈ coreQueue s core, holds c.team = true → ∀ g o, findOp s c.gang c.op = some (g, o) →
        ∃ h p, findOp t c.gang c.op = some (h, p) ∧ p = { o with done := true, time := p.time } ∧
          (⟨o.ctr, o.ticket, 0x0E, why, 0, 0, 0⟩ : Pend) ∈ h.pend) ∧
      (∀ g, g ∈ gangsOf t ∨ (∃ x ∈ t.teams, g ∈ x.savedGangs) → holds g.team = true → g.resetMark = some why) ∧
      (s.live = true → holds s.gang.team = false → t.gang.resetMark = s.gang.resetMark) ∧
      mmGet t (mxBlock (core / 96) + 0x10) = (mmGet s (mxBlock (core / 96) + 0x10) + 1) % 2 ^ 64) ∧
  (∀ (h : BitVec 4) cn s r, s.live = true → instrWf (.obrel h cn) = true → usesOk s.gang (.obrel h cn) = true → s.gang.resetMark = some r →
    ∃ u, u = { s with gang := { s.gang with resetMark := none } } ∧
      exec (.obrel h cn) s = .next (stepDone (trapEntry (unpop s u) ⟨0x0E, r, 0, s.gang.arm.mask, []⟩ s.gang.arm.pc)))

/-! ### Fenien Link and FORK (R336 to R346, R393) -/

/-- R336, R342, R344, R345: WREG answers −1 for a registered window, −3 for a base or length that is no multiple of 64 or a length of 0, −4 for a
range outside the global space, −2 for a page that is not present, writable and pinned, and otherwise registers the window with its
counters at 0. WREG.rel drops it. Where the bound of R333 allows its read, WCTR writes a counter's pair, and WWAIT goes on once its counter has reached
the value; it stalls before that, and takes WindowFault 4 when its limit is over. No window raises WindowFault 3. -/
def Claims.WindowInstructions : Prop :=
  (∀ (d : Reg) (w : BitVec 6) (e : Reg) cn s s1, Issues (.wreg d w e cn) false s s1 → (outstanding s1.gang cn.toNat).length < 32767 →
    let base := (readS64 s1.gang e.toNat).toNat
    let len := (readS s1.gang (e.toNat + 2)).toNat
    let known := s1.link.windows.any (fun x => x.ctx == s1.gang.ctx && x.w == w.toNat)
    let sound := base % 64 = 0 ∧ len % 64 = 0 ∧ len ≠ 0
    let answers (st : Int) (ws : List Window) : Prop := ∃ t p, Completes (.wreg d w e cn) s t ∧ Claims.issuedOn s1 t cn.toNat p ∧
      p.done = true ∧ p.landed = false ∧ p.lands = [⟨false, d.toNat, 0, BitVec.ofInt 32 st⟩] ∧ t.mem = s1.mem ∧ t.link.windows = ws
    (known = true → answers (-1) s1.link.windows) ∧
    (known = false → ¬sound → answers (-3) s1.link.windows) ∧
    (known = false → sound → spanOk (apCtx s1) base (base + len - 1) = false → answers (-4) s1.link.windows) ∧
    (known = false → sound → spanOk (apCtx s1) base (base + len - 1) = true →
      (rangeReady s1 s1.gang.ctx base len = false → answers (-2) s1.link.windows) ∧
      (rangeReady s1 s1.gang.ctx base len = true →
        answers 0 (s1.link.windows ++ [⟨s1.gang.ctx, w.toNat, base, len, 0, 0, 0⟩])))) ∧
  (∀ (d : Reg) (w : BitVec 6) cn s s1, Issues (.wregRel d w cn) false s s1 → (outstanding s1.gang cn.toNat).length < 32767 →
    ∃ t p, Completes (.wregRel d w cn) s t ∧ Claims.issuedOn s1 t cn.toNat p ∧ p.done = true ∧ p.landed = false ∧ t.mem = s1.mem ∧
      (windowOf s1 s1.gang.ctx w.toNat = none → p.lands = [⟨false, d.toNat, 0, BitVec.ofInt 32 (-1)⟩] ∧ t.link = s1.link) ∧
      ∀ x, windowOf s1 s1.gang.ctx w.toNat = some x → p.lands = [⟨false, d.toNat, 0, 0⟩] ∧
        t.link.windows = s1.link.windows.filter (fun y => decide (y ≠ x))) ∧
  (∀ land (d : Reg) (w : BitVec 6) s s1 x, Issues (.wctr land d w) false s s1 → windowOf s1 s1.gang.ctx w.toNat = some x →
    counterTime s1 land x ≤ timeBound s1 → ∃ t, Completes (.wctr land d w) s t ∧
      t.bare = (s1.onArm (fun a => { a with ltime := counterTime s1 land x })).bare ∧ Wrote64 s1 t .scal d.toNat (fun _ => BitVec.ofNat 64 (if land then x.land else x.ack))) ∧
  (∀ land (w : BitVec 6) (e : Reg) s s1 x, Issues (.wwait land w e) false s s1 → windowOf s1 s1.gang.ctx w.toNat = some x →
    let reached := (BitVec.ofNat 64 (if land then x.land else x.ack) - readS64 s1.gang e.toNat).toNat < 2 ^ 63
    (reached → counterTime s1 land x ≤ timeBound s1 →
      Completes (.wwait land w e) s (s1.onArm (fun a => { a with ltime := counterTime s1 land x }))) ∧
    (¬reached → (∀ l v k u, s1.gang.arm.stall ≠ .wwait l v k u) → ∃ t, exec (.wwait land w e) s = .next t ∧
      t.gang.arm.stall = .wwait land w.toNat (readS64 s1.gang e.toNat) s1.time ∧ t.gang.arm.pc = s1.gang.arm.pc ∧ t.gang.v = s1.gang.v ∧
      t.gang.s = s1.gang.s ∧ t.mem = s1.mem)) ∧
  (∀ i (w : BitVec 6) s s1, ((∃ land d, i = .wctr land d w) ∨ ∃ land e, i = .wwait land w e) → Issues i false s s1 →
    windowOf s1 s1.gang.ctx w.toNat = none →
    exec i s = .next (stepDone (trapEntry (unpop s s1) ⟨0x15, 3, 0, s1.gang.arm.mask, []⟩ s.gang.arm.pc))) ∧
  (∀ g slot s land w k u, s.live = true → s.gang.id = g → s.gang.arm.slot = slot → s.gang.arm.stall = .wwait land w k u →
    mmField s flCtl 31 16 ≠ 0 → u + 1000 * mmField s flCtl 31 16 ≤ s.time →
    (∃ x, windowOf s s.gang.ctx w = some x ∧ 2 ^ 63 ≤ (BitVec.ofNat 64 (if land then x.land else x.ack) - k).toNat) →
    exec (.wwaitTimeout g slot) s = .next (trapEntry s ⟨0x15, 4, 0, s.gang.arm.mask, []⟩ s.gang.arm.pc))

/-- R337, R343: PUT of no element arrives at once; of a source within a line of the scratchpad and a 4 KiB page of its target it sends one packet with
the source's bytes, where the link is up and a port is alive; with the link down the packet counts as refused, and WindowFault 2 with the
target's offset stays pending. -/
def Claims.PutInstruction : Prop :=
  ∀ (w tw : BitVec 6) (aa : DescNo) (e : Reg) cn s s1 x, Issues (.put w tw aa e cn) false s s1 → (outstanding s1.gang cn.toNat).length < 32767 →
    owedDesc s1.gang aa.toNat = false → windowOf s1 s1.gang.ctx w.toNat = some x →
    let a := readA s1.gang aa.toNat
    let peer := (readS s1.gang e.toNat).toNat % 4096
    let off := (readS s1.gang (e.toNat + 1)).toNat
    let i := (readS s1.gang (e.toNat + 2)).toInt
    let n := (readS s1.gang (e.toNat + 3)).toNat
    let first := elemAddr a i
    let len := n * descBytes a
    descBytes a ≠ 0 →
    (n = 0 → ∃ u t p, Completes (.put w tw aa e cn) s t ∧ Claims.issuedOn s1 u cn.toNat p ∧ Claims.performed p ∧ u.mem = s1.mem ∧ u.link = s1.link ∧
      t = { u with gang := t.gang } ∧ (outstanding s1.gang cn.toNat ≠ [] → t = u) ∧
      (outstanding s1.gang cn.toNat = [] → (∀ y ∈ s1.gang.ops, y.id ≠ s1.serial) →
        t.gang.ops = s1.gang.ops ∧ smapGet 0 t.gang.c cn.toNat = smapGet 0 s1.gang.c cn.toNat + 1)) ∧
    (∀ o, 1 ≤ n → 0 ≤ i → i + n ≤ descExtent a → first % 256 + len ≤ 256 → first % descBytes a = 0 → off % 4096 + len ≤ 4096 →
      apKind (apCtx s1) (descOvr a) first = .scratch → resolve (apCtx s1) (descOvr a) first len 0 = .ok (.scratch o) →
      s1.banks.errors = [] → s1.mem.scratchPoison = [] → Claims.inTime s1 →
      let p := jobAp s1 (cardAgent s1)
      p.core = s1.gang.core → p.scrBase = (apCtx s1).scrBase →
      (mmField s1 flCtl 0 0 = 1 → undeliverable s1 peer = false →
        ∃ t q k, Completes (.put w tw aa e cn) s t ∧ Claims.issuedOn s1 t cn.toNat q ∧ q.kind = .put ∧ q.done = false ∧ t.mem = s1.mem ∧
          t.link.packets = s1.link.packets ++ [k] ∧ k.own = true ∧ k.ctx = s1.gang.ctx ∧ k.w = w.toNat ∧ k.tw = tw.toNat ∧ k.gang = s1.gang.id ∧
          k.op = q.id ∧ k.peer = peer ∧ k.fjob = ctxFjob s1 s1.gang.ctx ∧ k.off = off ∧ k.st = .out ∧ k.answered = false ∧ k.sent = s1.time ∧
          k.bytes.map (fun b => b.val) = (List.range len).map (fun j => smapGet 0 s1.mem.scratch (Claims.scratchKey s1 (o + j)))) ∧
      (mmField s1 flCtl 0 0 = 0 → peer ≠ mmField s1 flDevId 11 0 → s1.link.packets = [] → s1.link.puts = [] → (∀ y ∈ s1.gang.ops, y.id ≠ s1.serial) →
        ∃ t q, Completes (.put w tw aa e cn) s t ∧ Claims.issuedOn s1 t cn.toNat q ∧ q.done = true ∧ t.mem = s1.mem ∧ t.link.puts = [] ∧
          t.gang.pend = s1.gang.pend ++ [⟨cn.toNat, q.ticket, 0x15, 2, BitVec.ofNat 64 off, 0, 0⟩] ∧
          mmGet t flNack = (mmGet s1 flNack + 1) % 2 ^ 64))

/-- R337 to R340, R343, R346: a packet lands whole in its window and counts, or is refused; an acknowledgement counts at the origin's window, and the
last answer of a put ends it, with its fault pending where one was refused. A packet that is not answered in time counts as refused with
reason 2. While FLCTL.EN is 0 no peer's packet comes in (log entry 64). A replayed flit is delivered once, and is a corrected error of R409. -/
def Obligations.PacketEvents : Prop :=
  (∀ s n p, s.link.packets.find? (fun p => p.id == n) = some p → p.st = .out → p.own = false →
    ((∀ x ∈ s.link.windows, x.w = p.tw → ctxFjob s x.ctx ≠ p.fjob) →
      ∃ t, exec (.packetLanding n) s = .next t ∧
        t = { s with link := { s.link with packets := s.link.packets.filter (fun x => decide (x.id ≠ n)) }, caches := t.caches } ∧
        t.caches = { s.caches with waiting := t.caches.waiting }) ∧
    (∀ x w, s.link.windows.find? (fun x => x.w == p.tw && ctxFjob s x.ctx == p.fjob) = some x → p.off + p.bytes.length ≤ x.len →
      rangeReady s x.ctx (x.base + p.off) p.bytes.length = true → 1 ≤ p.bytes.length → (∀ b ∈ p.bytes, b.bad = false) →
      Claims.sound s → p.rivals = [] → w.entry.testBit 5 = true → w.entry.testBit 6 = true →
      x.base + p.off < 2 ^ 64 → (x.base + p.off) % 256 + p.bytes.length ≤ 256 → leafOf s x.ctx (x.base + p.off) = some w →
      let pa := leafPa w.level w.entry (x.base + p.off)
      (∀ j, j < p.bytes.length → cacheable s (pa + j) = true) → writeTime s (linkNo 0) pa ≤ timeBound s →
      ∃ t, exec (.packetLanding n) s = .next t ∧ t.gang = s.gang ∧
        (∀ j, j < p.bytes.length → smapGet 0 t.mem.main (pa + j) = (p.bytes.getD j ⟨0, false⟩).val) ∧
        t.link.packets.map (fun y => y.id) = (s.link.packets.filter (fun y => decide (y.id ≠ n))).map (fun y => y.id) ∧
        (∃ y, windowOf t x.ctx x.w = some y ∧ ∃ z, windowOf s x.ctx x.w = some z ∧ y.ack = z.ack ∧
          y.land = (z.land + p.bytes.length) % 2 ^ 64 ∧ y.landTime = smapGet 0 t.caches.times (linkNo 0)) ∧
        mmGet t flRxb = (mmGet s flRxb + p.bytes.length) % 2 ^ 64)) ∧
  (∀ s n, s.link.packets.find? (fun p => p.id == n) = none → mmField s flCtl 0 0 = 0 →
    ∃ t, exec (.packetLanding n) s = .next t ∧ t = { s with caches := { s.caches with waiting := t.caches.waiting } }) ∧
  (∀ s p r o, s.live = true → s.link.packets = [p] → s.link.puts = [r] → p.own = true → p.answered = false → r.gang = p.gang → r.op = p.op →
    r.refused = [] → p.gang = s.gang.id → s.gang.ops = [o] → o.id = p.op →
    (p.st = .landed → ∃ t, exec (.packetAck p.id) s = .next t ∧ (∃ q, t.gang.ops = [q] ∧ q = { o with done := true, time := q.time }) ∧ t.gang.pend = s.gang.pend ∧ t.mem = s.mem ∧
      t.link.puts = [] ∧ mmGet t flTxb = (mmGet s flTxb + p.bytes.length) % 2 ^ 64 ∧
      ∀ x, windowOf s p.ctx p.w = some x → windowOf t p.ctx p.w = some { x with ack := (x.ack + p.bytes.length) % 2 ^ 64 }) ∧
    (∀ i why, ((i = .packetAck p.id ∧ p.st = .refused why) ∨ (i = .packetTimeout p.id ∧ why = 2 ∧ p.sent + packetLimit s ≤ s.time)) →
      ∃ t, exec i s = .next t ∧ (∃ q, t.gang.ops = [q] ∧ q = { o with done := true, time := q.time }) ∧ (p.peer ≠ mmField s flDevId 11 0 → t.mem = s.mem) ∧ t.link.puts = [] ∧
        t.gang.pend = s.gang.pend ++ [⟨o.ctr, o.ticket, 0x15, why, BitVec.ofNat 64 p.off, 0, 0⟩] ∧
        mmGet t flNack = (mmGet s flNack + 1) % 2 ^ 64)) ∧
  (∀ s port, ∃ t, exec (.portFailure port) s = .next t ∧ t.mem = s.mem ∧ port ∈ t.link.downPorts ∧ (∀ q ∈ s.link.downPorts, q ∈ t.link.downPorts) ∧
    ((∀ p ∈ s.link.packets, unanswered p = false) → t = { s with link := t.link } ∧ t.link.packets = s.link.packets)) ∧
  (∀ s port, ∃ t, exec (.linkFlitReplay port) s = .next t ∧ t = (if port < 96 then logError s ⟨0, noOwner, 6, port, 0, 1, 0⟩ else s) ∧
    t.gang = s.gang ∧ t.link = s.link ∧ t.mem = { s.mem with host := t.mem.host })

/-- R379, R393: FORK of a packet in the scratchpad submits a child ahead of every launch, which its operation waits for; a malformed packet, or one of
another context, raises ForkFault 2 with the packet's address. -/
def Claims.ForkInstruction : Prop :=
  ∀ (e : Reg) cn s s1 o, Issues (.fork e cn) false s s1 → (outstanding s1.gang cn.toNat).length < 32767 →
    let a := (readS64 s1.gang e.toNat).toNat
    let bs := cellsRead s1.mem.scratch (Claims.scratchKey s1 o) 128
    let par := s1.launches.find? (fun l => l.id == s1.gang.launch)
    let depth := match par with | some l => l.depth | none => 0
    a % 128 = 0 → resolve (apCtx s1) 0 a 128 0 = .ok (.scratch o) → s1.banks.errors = [] → s1.mem.scratchPoison = [] →
    Claims.inTime s1 →
    (packetOk bs = true → recNat bs 16 2 = s1.gang.ctx → depth < 16 → childrenOf s1 s1.gang.ctx < 1024 →
      ∃ t p l, Completes (.fork e cn) s t ∧ Claims.issuedOn s1 t cn.toNat p ∧ p.kind = .fork l.id ∧ p.done = false ∧ t.mem = s1.mem ∧
        t.launches = l :: s1.launches ∧ l.ctx = s1.gang.ctx ∧ l.pkt = bs ∧ l.pktAddr = a ∧ l.parent = some (s1.gang.id, s1.gang.launch) ∧
        l.teams = pkT bs ∧ l.nextTeam = 0 ∧ l.killed = none ∧ ∀ x, par = some x → l.depth = x.depth + 1 ∧ l.queue = x.queue) ∧
    ((packetOk bs = false ∨ recNat bs 16 2 ≠ s1.gang.ctx) →
      ∃ u, exec (.fork e cn) s = .next (stepDone (trapEntry (unpop s u) ⟨0x16, 2, a, s1.gang.arm.mask, []⟩ s.gang.arm.pc)) ∧
        u = { s1 with banks := u.banks, mmio := u.mmio, caches := u.caches, gang := u.gang } ∧
        u.gang = { s1.gang with arm := { s1.gang.arm with ltime := u.gang.arm.ltime } })

/-! ### Pair words (R43 to R46) -/

/-- A compact operation on one lane's values: its result and the flags it raises (R44). -/
def Claims.compact (o : Cop) (c : FCtl) (x y : Nat) : Nat × Flags :=
  let whole (f : IntFn) (signed : Bool) : Nat × Flags :=
    ((Claims.intOp 32 signed f false (BitVec.ofNat 32 x) (BitVec.ofNat 32 y)).toNat, 0)
  match o with
  | .fadd => Claims.floatOp .fadd .f32 c x y
  | .fsub => Claims.floatOp .fsub .f32 c x y
  | .fmul => Claims.floatOp .fmul .f32 c x y
  | .fmin => Claims.floatOp .fmin .f32 c x y
  | .fmax => Claims.floatOp .fmax .f32 c x y
  | .paddF16x2 => paddVal c .f16x2 x y
  | .pmulF16x2 => pmulVal c .f16x2 x y
  | .paddBf16x2 => paddVal c .bf16x2 x y
  | .pmulBf16x2 => pmulVal c .bf16x2 x y
  | .add => whole .add true
  | .sub => whole .sub true
  | .mul => whole .mul true
  | .minI => whole .min true
  | .maxI => whole .max true
  | .minN => whole .min false
  | .maxN => whole .max false
  | .shl => whole .shl false
  | .shr => whole .shr false
  | .sra => whole .sra true
  | .and => whole .and false
  | .or => whole .or false
  | .xor => whole .xor false
  | .andn => whole .andn false
  | .mov => (x, 0)

/-- A compact operation's result in lane `l`, from the registers of `s` (R43, R46). -/
def Claims.compactAt (s : State) (o : Compact) (l : Nat) : Nat × Flags :=
  Claims.compact o.cop (effCtl s.gang) (operand s .vec o.a.toNat l).toNat (operand s (if o.bs then .scal else .vec) o.b.toNat l).toNat

/-- A compact operation raises an enabled flag in lane `l`. -/
def Claims.compactTraps (s : State) (o : Compact) (l : Nat) : Prop :=
  active s l = true ∧ (Claims.compactAt s o l).2 &&& (effCtl s.gang).te ≠ 0

/-- The interval rule of the 32-bit form of a compact operation (R235, R236). -/
def Claims.compactRule (o : Cop) (a b : Shadow) : Shadow :=
  match o with
  | .add => shAdd false a b
  | .sub => shSub false a b
  | .mul => shMul false a b
  | .minI => shMinI a b
  | .maxI => shMaxI a b
  | .minN => shMinN a b
  | .maxN => shMaxN a b
  | .shl => shShl a b
  | .shr => shShr a b
  | .sra => shSra a b
  | .and => shAnd a b
  | .mov => a
  | _ => ⟨-(2 ^ 31), 2 ^ 31 - 1⟩

/-- The interval that a compact operation gives its D, from the shadows of `g` (R236). -/
def Claims.compactSh (g : Gang) (o : Compact) : Shadow :=
  Claims.compactRule o.cop (srcShadow g .vec o.a.toNat) (srcShadow g (if o.bs then .scal else .vec) o.b.toNat)

/-- R46: both operations of a pair word read their sources before either writes. Each writes its D in every active lane, raises its flags
and gives D the interval of its 32-bit form, with rounding, flushes and trap enables of FPC, for a pair word has no prefix (R39). FPTrap of
op0 comes before that of op1, and nothing is written then. -/
def Obligations.PairWords : Prop :=
  (∀ g : Gang, g.arm.pr = none → (effCtl g).sat = false ∧ (effCtl g).te = g.fpc.extractLsb' 24 5 ∧
    (effCtl g).fout = g.fpc.extractLsb' 18 6 ∧ (effCtl g).fin = g.fpc.extractLsb' 12 6 ∧
    (effCtl g).rm = (if g.fpc.extractLsb' 0 2 = 0 then .rne else if g.fpc.extractLsb' 0 2 = 1 then .rtz
      else if g.fpc.extractLsb' 0 2 = 2 then .rdn else .rup)) ∧
  ∀ x y s s1, Issues (.pairWord x y) false s s1 →
    ((∀ l, l < 96 → ¬Claims.compactTraps s1 x l ∧ ¬Claims.compactTraps s1 y l) →
      ∃ t, Completes (.pairWord x y) s t ∧ t.bareF = s1.bareF ∧ t.gang.s = s1.gang.s ∧ t.gang.arm.mask = s1.gang.arm.mask ∧
        Raised s1 t .vec (fun l => (Claims.compactAt s1 x l).2 ||| (Claims.compactAt s1 y l).2) ∧
        (∀ r, shadowV t.gang r = if s1.gang.arm.mask ≠ 0 ∧ r = x.d.toNat then Claims.compactSh s1.gang x
          else if s1.gang.arm.mask ≠ 0 ∧ r = y.d.toNat then Claims.compactSh s1.gang y else shadowV s1.gang r) ∧
        (∀ r, shadowS t.gang r = shadowS s1.gang r) ∧
        ∀ r l, l < 96 → readV t.gang r l =
          if active s1 l = true ∧ r = x.d.toNat then BitVec.ofNat 32 (Claims.compactAt s1 x l).1
          else if active s1 l = true ∧ r = y.d.toNat then BitVec.ofNat 32 (Claims.compactAt s1 y l).1
          else readV s1.gang r l) ∧
    ∀ o, (o = x ∨ (o = y ∧ ∀ l, l < 96 → ¬Claims.compactTraps s1 x l)) → (∃ l, l < 96 ∧ Claims.compactTraps s1 o l) →
      ∃ z : Trap, exec (.pairWord x y) s = .next (stepDone (trapEntry (unpop s s1) z s.gang.arm.pc)) ∧ z.cause = 13 ∧
        (∀ b, z.reason.testBit b = true ↔
          ∃ l, l < 96 ∧ active s1 l = true ∧ ((Claims.compactAt s1 o l).2 &&& (effCtl s1.gang).te).getLsbD b = true) ∧
        z.lanes.getLsbD z.faddr = true ∧ (∀ l, l < z.faddr → z.lanes.getLsbD l = false) ∧
        ∀ l, l < 96 → (z.lanes.getLsbD l = true ↔ Claims.compactTraps s1 o l)

/-! ### Scheduling (R379 to R397) -/

/-- R379: the command processor serves, of the queues that can act, one of the highest priority, and of those the first at or after the
pointer of their level in ascending number modulo 64. -/
def Claims.ServedQueue : Prop :=
  ∀ s q a, nextAct s = some (q, a) → q < 64 ∧ s.contained = false ∧ queueAct s q = some a ∧
    ∀ q', q' < 64 → queuePrio s q < queuePrio s q' ∨
        (queuePrio s q' = queuePrio s q ∧ (q' + 64 - turnOf s (queuePrio s q) % 64) % 64 < (q + 64 - turnOf s (queuePrio s q) % 64) % 64) →
      queueAct s q' = none

/-- R379, R380, R382: LAUNCH_PACKET_READ takes the packet at QHEAD of an enabled queue's host ring, advances HEAD, and opens a launch of T teams,
or one that ends with status 6 where the packet is not well formed. -/
def Claims.LaunchPackets : Prop :=
  ∀ s q, q < 64 → s.contained = false → queueOn s q = true → mmField s (qBlock q + 8) 1 1 = 0 →
    mmField s (qBlock q + 16) 31 0 ≠ mmField s (qBlock q + 24) 31 0 →
    (∀ l ∈ s.launches, l.queue = q → l.parent = none → unfinished l = false) →
    let head := mmField s (qBlock q + 16) 31 0
    let bs := cellsRead s.mem.host (mmGet s (qBlock q) + 128 * (head % 2 ^ (mmField s (qBlock q + 8) 16 13 + 6))) 128
    ∃ t l, exec (.launchPacketRead q) s = .next t ∧ t = { s with serial := t.serial, mmio := t.mmio, launches := s.launches ++ [l] } ∧
      mmField t (qBlock q + 16) 31 0 = (head + 1) % 2 ^ 32 ∧ l.queue = q ∧ l.ctx = recNat bs 16 2 ∧ l.pkt = bs ∧ l.parent = none ∧
      l.nextTeam = 0 ∧ l.replays = 0 ∧
      (packetOk bs = true → l.killed = none ∧ l.teams = recNat bs 32 4 * recNat bs 36 4 * recNat bs 40 4 * recNat bs 44 4) ∧
      (packetOk bs = false → l.killed = some 6)

/-- `t` is `s` with the next team of launch `l` on core `c`, in granules from `base`, started from the parameter block `b` (R231, R350, R378,
R383, R384, R404). -/
def Claims.placed (s t : State) (l : Launch) (c base : Nat) (b : List Byte) : Prop :=
  ∃ m, m ∈ t.teams ∧ (∀ x ∈ s.teams, ∃ y ∈ t.teams, y.id = x.id ∧ y.core = x.core ∧ y.saved = x.saved) ∧ m.launch = l.id ∧ m.ctx = l.ctx ∧ m.queue = l.queue ∧ m.no = l.nextTeam ∧ m.core = c ∧
    m.gangs = recNat l.pkt 19 1 + 1 ∧ m.scrBase = base ∧ m.scrGranules = recNat l.pkt 22 2 ∧ m.barwd = recNat l.pkt 54 2 ∧ m.tFirst = s.time ∧
    m.saved = false ∧ m.target = none ∧
    (∀ k, k < 16 → bkNat t (teamBarObj m k + 6) 2 = recNat l.pkt 19 1 + 1) ∧
    (∀ x, launchById s l.id = some x → ∃ y, launchById t l.id = some y ∧ y.nextTeam = x.nextTeam + 1 ∧ y.pkt = x.pkt) ∧
    ∀ n, n < recNat l.pkt 19 1 + 1 → ∃ g ∈ gangsOf t, g.team = m.id ∧ g.gangNo = n ∧ g.launch = l.id ∧ g.ctx = l.ctx ∧ g.core = c ∧
      g.width = visibleWidth l.pkt ∧ g.nv = 8 * recNat l.pkt 20 1 ∧ g.ns = 8 * recNat l.pkt 21 1 ∧ g.v = [] ∧ g.c = [] ∧ g.ops = [] ∧
      g.arm.pc = BitVec.ofNat 64 (recNat l.pkt 0 8) ∧ g.arm.sup = ctxSup s l.ctx ∧ g.partner = none ∧ g.exited = false ∧
      (∀ k, k < 96 → g.arm.members.getLsbD k = decide (k < visibleWidth l.pkt)) ∧
      g.wval = [0, n, l.nextTeam % pkE l.pkt 2, l.nextTeam / pkE l.pkt 2 % pkE l.pkt 3, l.nextTeam / (pkE l.pkt 2 * pkE l.pkt 3) % pkE l.pkt 4,
        l.nextTeam / (pkE l.pkt 2 * pkE l.pkt 3 * pkE l.pkt 4) % pkE l.pkt 5] ∧
      (∀ k, k < recNat b 1 1 → k < 16 → readA g k = BitVec.ofNat 128 (recNat b (64 + 16 * k) 16)) ∧
      ∀ k, k < 48 → readS g k = if k < recNat b 2 1 then BitVec.ofNat 32 (recNat b (64 + 16 * recNat b 1 1 + 4 * k) 4) else 0

/-- What a dispatch of the next team of `l` onto core `c` needs, beside the choice: the launch stands as it was after its context descriptor (R381) and
its parameter block have been read, granules are free in one run, and nothing is captured. -/
def Claims.placing (s s' : State) (l : Launch) (c base : Nat) (b : List Byte) : Prop :=
  launchById s l.id = some l ∧ undispatched l = true ∧ readParams (cpMemRead s (ctxAddr s l.ctx) 64).2.2 (c / 96) l = (some b, s') ∧ launchById s' l.id = some l ∧
    launchMode l 3 = false ∧ lowRun (coreLoad s' c).scr 128 (recNat l.pkt 22 2) = some base

/-- R379, R383 to R385, R387: TEAM_DISPATCH places the next team of the launch whose turn it is; AFFINITY_TIMEOUT does so outside the team's group, and
PLSPILL counts; CO_RESIDENT_DISPATCH places a launch's one team. The queue has had its turn. A launch that cannot be met, or whose
parameter block is bad, ends with its status. -/
def Claims.TeamDispatch : Prop :=
  (∀ s q l c base b s', nextAct s = some (q, .place l c) → Claims.placing s s' l c base b →
    ∃ t, exec (.teamDispatch l.id) s = .next t ∧ Claims.placed s' t l c base b ∧
      smapGet 0 t.cp.turn (queuePrio t q) = (q + 1) % 64 ∧ t.mem.main = s'.mem.main ∧ t.mem.host = s'.mem.host) ∧
  (∀ s q l c base b s', nextAct s = some (q, .spill l c) → Claims.placing (mmCount s plSpill 1) s' l c base b →
    ∃ t, exec (.affinityTimeout l.id) s = .next t ∧ Claims.placed s' t l c base b ∧
      smapGet 0 t.cp.turn (queuePrio t q) = (q + 1) % 64 ∧ mmGet t plSpill = mmGet s' plSpill ∧
      mmGet (mmCount s plSpill 1) plSpill = (mmGet s plSpill + 1) % 2 ^ 64) ∧
  (∀ s q l c base b s', nextAct s = some (q, .together l [(c, false)]) → Claims.placing s s' l c base b →
    ∃ t, exec (.coResidentDispatch l.id) s = .next t ∧ Claims.placed s' t l c base b ∧ smapGet 0 t.cp.turn (queuePrio t q) = (q + 1) % 64) ∧
  (∀ s q l c s', nextAct s = some (q, .place l c) → launchById s l.id = some l → undispatched l = true →
    readParams (cpMemRead s (ctxAddr s l.ctx) 64).2.2 (c / 96) l = (none, s') → launchById s' l.id = some l →
    ∃ t y, exec (.teamDispatch l.id) s = .next t ∧ t.mem = s'.mem ∧ launchById t l.id = some y ∧ y.killed = some 6) ∧
  (∀ s q l st, nextAct s = some (q, .doom l st) → launchById s l.id = some l →
    ∃ t y, exec (.teamDispatch l.id) s = .next t ∧ t.mem = s.mem ∧ launchById t l.id = some y ∧ y.killed = some st)

/-- R388: a team's gangs become eligible once its code lines have been pushed; a line that cannot be translated counts in PFDROP. -/
def Claims.CodePush : Prop :=
  ∀ s n m, teamById s n = some m → m.pushed = false → m.saved = false →
    ∃ t, exec (.codeLinesPushed n) s = .next t ∧ t.gang = s.gang ∧ t.others = s.others ∧
      t.teams = s.teams.map (fun x => if x.id = n then { x with pushed := true, push := [] } else x) ∧
      ∀ va, m.push = [va] → canonical va.toNat = false → t.mem = s.mem ∧ mmGet t pfDrop = (mmGet s pfDrop + 1) % 2 ^ 64

/-- A team that is told to give way: it has `DRAIN` µs. -/
def Claims.told (s : State) (p : Team → Bool) (m : Team) : Team :=
  if p m = true ∧ m.saved = false ∧ m.target = none ∧ coResident s m = false
    then { m with target := some (s.time + 1000 * mmField s preCtl 31 0) } else m

/-- R386, R387, R390: PRECMD tells every resident team of a queue to give way, but for those of co-resident launches (log entry 67: the model reads
R387 so). PRE_EMPTION tells the fewest teams of lower priority that make room for the head of a queue, and they give way to that queue; teams lent
on a partition's cores are told in each case, if the head waits for blocks or save room alone too; a co-resident launch begins to drain its cores. -/
def Claims.PreEmption : Prop :=
  (∀ s q, s.contained = false → exec (.precmd q) s = .next { s with teams := s.teams.map (Claims.told s (fun m => m.queue == q)) }) ∧
  (∀ s n l ids, launchById s n = some l → queueItem s l.queue = some (.launch l) → l.id = n → s.contained = false → queueOn s l.queue = true →
    launchMode l 4 = false → headWaits s l.queue = true → queuePart s l.queue = 0 → yieldPending s l.queue = false →
    bestYield s l.queue (launchNeed l) = some ids →
    exec (.preEmption n) s = .next { s with teams := (s.teams.map (Claims.told s (fun m => ids.contains m.id))).map (fun m =>
      if ids.contains m.id = true ∧ m.target.isSome = true ∧ m.reclaim = none then { m with reclaim := some l.queue } else m) } ∧
    (∀ i ∈ ids, ∃ m ∈ s.teams, m.id = i ∧ queuePrio s m.queue < queuePrio s l.queue)) ∧
  (∀ s n l, launchById s n = some l → queueItem s l.queue = some (.launch l) → l.id = n → s.contained = false → queueOn s l.queue = true →
    launchMode l 4 = false → headStuck s l.queue = true → queuePart s l.queue ≠ 0 →
    headWaits s l.queue = false ∨ (∃ m ∈ s.teams, m.target.isSome = true ∧ m.reclaim = some l.queue) →
    exec (.preEmption n) s = .next { s with teams := s.teams.map (Claims.told s (fun m =>
      corePart s m.core == some (queuePart s l.queue) && queuePart s m.queue != queuePart s l.queue)) }) ∧
  (∀ s n l ps, launchById s n = some l → queueItem s l.queue = some (.launch l) → l.id = n → s.contained = false → queueOn s l.queue = true →
    launchMode l 4 = true → queueAct s l.queue = none → (ctxRoot s l.ctx).isSome = true → coPlan s l = some ps → l.draining = false →
    drained s n = [] → ∃ t y, exec (.preEmption n) s = .next t ∧ launchById t n = some y ∧ y.draining = true ∧ t.mem = s.mem ∧ t.gang = s.gang ∧
      (queuePart s l.queue ≠ 0 → ∀ m ∈ s.teams, m.saved = false → m.target = none → coResident s m = false → lentOn s (queuePart s l.queue) m = true →
        ∃ x ∈ t.teams, x.id = m.id ∧ x.target.isSome) ∧
      ∀ m ∈ s.teams, m.saved = false → m.target = none → coResident s m = false → (∃ far, (m.core, far) ∈ ps) →
        queuePrio s m.queue < queuePrio s l.queue → ∃ x ∈ t.teams, x.id = m.id ∧ x.target.isSome)

/-- A team that a save may take at once: resident, with nothing outstanding and no stack entries to store (R390). -/
def Claims.savable (s : State) (m : Team) : Prop :=
  Mem.wf s.mem = true ∧ s.mx.queue = [] ∧ (∀ g ∈ gangsOf s, ∀ h ∈ gangsOf s, g.id = h.id → g = h) ∧ teamById s m.id = some m ∧ m.saved = false ∧ m.endNow = false ∧ m.core < 768 ∧ s.banks.errors = [] ∧
    ∀ g ∈ gangsOf s, g.team = m.id → g.ops = [] ∧ g.partner = none ∧ g.arm.stack = []

/-- `t` is `s` with team `m` saved: its gangs have left, and their registers, counters and PCs and its scratchpad image are kept as they
were (R390). -/
def Claims.savedAs (s t : State) (m : Team) (swap : Bool) : Prop :=
  ∃ x, teamById t m.id = some x ∧ x.saved = true ∧ x.saves = m.saves + 1 ∧ x.target = none ∧ x.forkSwap = swap ∧ x.no = m.no ∧
    x.block = m.block ∧ (∀ g ∈ gangsOf t, g.team ≠ m.id) ∧
    (∀ g ∈ gangsOf s, g.team = m.id → ∃ h ∈ x.savedGangs, h.id = g.id ∧ h.v = g.v ∧ h.s = g.s ∧ h.a = g.a ∧ h.c = g.c ∧ h.nv = g.nv ∧
      h.ns = g.ns ∧ h.arm.pc = g.arm.pc ∧ h.arm.mask = g.arm.mask ∧ h.arm.shS = g.arm.shS ∧ h.arm.shV = g.arm.shV) ∧
    ∀ k, k < 4096 * m.scrGranules →
      smapGet 0 t.mem.scratch (scrKey x.core k) = smapGet 0 s.mem.scratch (scrKey m.core (4096 * m.scrBase + k))

/-- R390, R392, R394: a team whose drain limit is over is saved, with every value; so is the youngest team of a stuck core, and a parent whose
arms wait for forks. A stuck core that holds one team ends its launch with status 5. -/
def Claims.ForcedSaves : Prop :=
  (∀ s m d, Claims.savable s m → m.target = some d → d ≤ s.time →
    ∃ t, exec (.forcedSave m.id) s = .next t ∧ Claims.savedAs s t m false) ∧
  (∀ s c m, coreStuck s c = true → youngest s c = some m → 1 < (residents s c).length → coResident s m = false → Claims.savable s m →
    ∃ t, exec (.stuckCore c) s = .next t ∧ Claims.savedAs s t m false) ∧
  (∀ s c m l, coreStuck s c = true → residents s c = [m] → launchById s m.launch = some l → l.killed = none →
    ∃ t y, exec (.stuckCore c) s = .next t ∧ t.mem = s.mem ∧ launchById t m.launch = some y ∧ y.killed = some 5) ∧
  (∀ s m g o k u, teamById s m.id = some m → m.saved = false → m.endNow = false → m.core < 768 → s.banks.errors = [] → coResident s m = false →
    s.live = true → s.others = [] → s.gang.team = m.id → s.gang.exited = false → s.gang.partner = none → s.gang.arm.stack = [] →
    s.mx.queue = [] → s.gang.ops = [o] → o.kind = .fork k → o.lands = [] → o.done = false → s.gang.arm.stall = .wait o.ctr u g → reached (readC s.gang o.ctr) (BitVec.ofNat 16 u) = false →
    ∃ t x, exec (.parentSwapOut m.id) s = .next t ∧ teamById t m.id = some x ∧ x.saved = true ∧ x.forkSwap = true ∧ t.live = false ∧
      ∃ h ∈ x.savedGangs, h.id = s.gang.id ∧ h.v = s.gang.v ∧ h.s = s.gang.s ∧ h.arm.pc = s.gang.arm.pc ∧
        h.ops.map (fun p => (p.id, p.done)) = [(o.id, false)])

/-- R384, R390: TEAM_RESTORE puts the saved team whose turn it is back on a core, with every register and its scratchpad image as they were. -/
def Claims.TeamRestores : Prop :=
  ∀ s q m c base, nextAct s = some (q, .restore m c) → teamById s m.id = some m → lowRun (coreLoad s c).scr 128 m.scrGranules = some base → c < 768 →
    768 ≤ m.core → s.banks.errors = [] → Mem.wf s.mem = true →
    ∃ t x, exec (.teamRestore m.id) s = .next t ∧ teamById t m.id = some x ∧ x.saved = false ∧ x.core = c ∧ x.scrBase = base ∧ x.savedGangs = [] ∧
      smapGet 0 t.cp.turn (queuePrio t q) = (q + 1) % 64 ∧ t.mem.main = s.mem.main ∧
      (∀ g ∈ m.savedGangs, ∃ h ∈ gangsOf t, h.id = g.id ∧ h.core = c ∧ h.v = g.v ∧ h.s = g.s ∧ h.a = g.a ∧ h.c = g.c ∧ h.nv = g.nv ∧ h.ns = g.ns ∧
        h.trapv = g.trapv ∧ h.arm.pc = g.arm.pc ∧ h.arm.mask = g.arm.mask ∧ h.arm.shS = g.arm.shS ∧ h.arm.shV = g.arm.shV) ∧
      ∀ k, k < 4096 * m.scrGranules →
        smapGet 0 t.mem.scratch (scrKey c (4096 * base + k)) = smapGet 0 s.mem.scratch (scrKey m.core k)

/-- R370, R384, R421: a gang whose every lane has exited and whose operations have arrived leaves, and lowers EXPECT of its team's 16
barriers by 1. With the last gang the team ends, and its record goes to the team-record ring. -/
def Claims.GangEnds : Prop :=
  ∀ s x m, gangById s x.id = some x → x.exited = true → x.ops = [] → teamById s x.team = some m → m.core < 768 → s.banks.errors = [] →
    (∀ l ∈ s.launches, launchMode l 3 = false) →
    ((∃ y ∈ gangsOf s, y.id ≠ x.id ∧ y.team = m.id) →
      ∃ t, exec (.gangEnd x.id) s = .next t ∧ gangById t x.id = none ∧ (teamById t m.id).isSome = true ∧ t.mem.main = s.mem.main ∧
        t.mem.scratch = s.mem.scratch ∧ ∀ k, k < 16 → bkNat t (teamBarObj m k + 6) 2 = bkNat s (teamBarObj m k + 6) 2 - 1) ∧
    ((∀ y ∈ gangsOf s, y.team = m.id → y.id = x.id) →
      ∃ t, exec (.gangEnd x.id) s = .next t ∧ gangById t x.id = none ∧ teamById t m.id = none ∧ t.mem.main = s.mem.main ∧
        (s.contained = false → ringOn s teamRing = true → ringFull s teamRing = false → m.stallSum = [] →
          cellsRead t.mem.host (mmGet s teamRing + mmField s (teamRing + 16) 31 0 % 2 ^ (mmField s (teamRing + 8) 5 2 + 6) * 128) 128 =
            leBytes 2 m.ctx ++ leBytes 1 m.queue ++ leBytes 1 (Min.min m.saves 255) ++ leBytes 4 m.no ++ leBytes 8 m.tFirst ++
              leBytes 8 s.time ++ leBytes 2 m.lastCore ++ List.replicate 6 (0 : Byte) ++
              (List.range 16).flatMap (fun n => leBytes 4 (smapGet 0 x.stallCnt n).toNat) ++
              leBytes 8 (match launchById s m.launch with | some l => recNat l.pkt 64 8 | none => 0) ++ List.replicate 24 (0 : Byte)))

/-- No page moves, and every cached line is one that memory backs (R60, R128). -/
def Claims.backed (s : State) : Prop :=
  s.yo.moves = [] ∧ (∀ l ∈ s.caches.jigsaw, unbacked s l.pa = false) ∧ ∀ l ∈ s.caches.l1, unbacked s (l.pa * 256) = false

/-- Nothing of launch `l` is left to wait for (R396, R416). -/
def Claims.atRest (s : State) (l : Launch) : Prop :=
  launchById s l.id = some l ∧ (∀ m ∈ s.teams, m.launch ≠ l.id ∧ m.endNow = false) ∧ (∀ j ∈ s.jobs.list, j.st = .complete) ∧
    s.link.packets = [] ∧ ∀ k ∈ s.launches, k.parent = none

/-- R396: a launch with every team ended and nothing outstanding completes: its record of status, replays and TIME goes to DONE, or is dropped
and counts in CPDONEF where the write faults or lies in the context's aperture area (R86). -/
def Claims.LaunchCompletion : Prop :=
  ∀ s l, Claims.atRest s l → l.replaying = false → undispatched l = false → l.silent = false →
    let va := recNat l.pkt 64 8
    let x := xlate s ⟨none, 0, l.ctx, true⟩ va .write (pickCached s 126)
    ((canonical va = false ∨ ctxArea s l.ctx va = true ∨ (ctxRoot s l.ctx).isNone = true ∨ x.fault.isSome = true) →
      ∃ t, exec (.launchCompletion l.id) s = .next t ∧ t.mem = s.mem ∧ mmGet t cpDonef = (mmGet s cpDonef + 1) % 2 ^ 64 ∧
        t.launches = s.launches.filter (fun y => decide (y.id ≠ l.id))) ∧
    (canonical va = true → ctxArea s l.ctx va = false → (ctxRoot s l.ctx).isSome = true → x.fault = none → Claims.backed s →
      (∀ k, k < 16 → cacheable s (x.pa + k) = true) → x.pa % 16 = 0 →
      ∃ t, exec (.launchCompletion l.id) s = .next t ∧ t.gang = s.gang ∧ launchById t l.id = none ∧
        ∀ k, k < 16 → smapGet 0 t.mem.main (x.pa + k) =
          (leBytes 4 (l.killed.getD 0) ++ leBytes 2 l.replays ++ leBytes 2 0 ++ leBytes 8 s.time).getD k 0)

/-- R416: a replay, once nothing of the launch is outstanding, writes the pre-images back and starts the launch again at the head of its queue,
or, with its replays spent, completes it with status 4. -/
def Claims.Replays : Prop :=
  ∀ s l, Claims.atRest s l → l.replaying = true → s.cp.sub = none → l.bankSnaps = [] →
    (∀ x ∈ l.snaps, x.bytes.length = 4096 ∧ x.pa % 4096 = 0 ∧ ∀ k, k < 4096 → cacheable s (x.pa + k) = true) → Claims.backed s →
    (∀ x ∈ l.snaps, ∀ y ∈ l.snaps, x.pa = y.pa → x = y) →
    ∃ t y, exec (.replay l.id) s = .next t ∧ launchById t l.id = some y ∧ y.replaying = false ∧ y.snaps = [] ∧ y.pkt = l.pkt ∧ t.gang = s.gang ∧
      (∀ x ∈ l.snaps, ∀ k, k < 4096 → smapGet 0 t.mem.main (x.pa + k) = x.bytes.getD k 0) ∧
      (l.replays < recNat l.pkt 53 1 → y.replays = l.replays + 1 ∧ y.nextTeam = 0 ∧ t.launches.head? = some y) ∧
      (recNat l.pkt 53 1 ≤ l.replays → y.killed = some 4)

/-- R397, R426: teardown of a context ends its launches and teams, completes its jobs with status 4, releases its windows, cancels its moves that
are not Closing yet, writes status 2 to an open launch's record, and revokes the debug right for it. A FORK of the cycle at hand leaves nothing. -/
def Claims.Teardown : Prop :=
  ∀ s ctx, s.contained = false → (∀ j ∈ s.jobs.list, ∀ k ∈ s.jobs.list, j.serial = k.serial → j = k) →
    ∃ t, exec (.contextTeardown ctx) s = .next t ∧ (∀ l ∈ t.launches, l.ctx ≠ ctx) ∧ (∀ w ∈ t.link.windows, w.ctx ≠ ctx) ∧
      (∀ j ∈ t.jobs.list, j.ctx = ctx → j.st = .complete) ∧ (∀ k, k < 4 → dbgCtx s k = ctx → dbgRight t k = false) ∧
      (∀ g ∈ gangsOf t, ∀ l ∈ s.launches, l.ctx = ctx → g.launch ≠ l.id) ∧
      (∀ j ∈ s.jobs.list, j.ctx = ctx → j.st ≠ .complete → ∃ k ∈ t.jobs.list, k.serial = j.serial ∧ k.st = .complete ∧ k.res = some (4, 0, 0)) ∧
      (s.yo.moves = [] → t.yo.moves = []) ∧
      (∀ m ∈ s.yo.moves, m.ctx = ctx → cancellable m = true → m.want = none → (∀ k ∈ s.yo.moves, k.hold = .none) →
        ∃ k ∈ t.yo.moves, k.no = m.no ∧ k.want = some 5) ∧
      (∀ l, s.launches = [l] → l.ctx = ctx → l.parent = none → l.silent = false → s.teams = [] → s.jobs.list = [] → Claims.backed s →
        (∀ n, idState s ctx n ≠ 1) →
        let va := recNat l.pkt 64 8
        let x := xlate s ⟨none, 0, ctx, true⟩ va .write (pickCached s 126)
        canonical va = true → ctxArea s ctx va = false → (ctxRoot s ctx).isSome = true → x.fault = none →
        (∀ k, k < 16 → cacheable s (x.pa + k) = true) → x.pa % 16 = 0 → ∀ k, k < 16 → smapGet 0 t.mem.main (x.pa + k) =
          (leBytes 4 2 ++ leBytes 2 l.replays ++ leBytes 2 0 ++ leBytes 8 s.time).getD k 0) ∧
      (∀ l ∈ s.launches, s.launches = [l] → l.ctx = ctx → l.parent.isSome = true → l.forkedAt = s.cc → s.teams = [] → s.jobs.list = [] → s.yo.moves = [] →
        (∀ n, idState s ctx n ≠ 1) → t.launches = [] ∧ t.mem = s.mem)

/-- R395: a write of GO starts the spare's substitution for a die, whose teams are told to give way, or sets ERR while one runs or once the
spare is used. Once the die's teams are saved and its jobs done, the index names the spare. -/
def Claims.SpareSubstitution : Prop :=
  (∀ s die, s.contained = false → die < 8 → s.cp.sub = none → s.cfg.spareUsed = false →
    ∃ t, exec (.spareDieSubstitution die) s = .next t ∧ t = { s with cp := t.cp, teams := t.teams, mmio := t.mmio } ∧ t.cp.sub = some die ∧
      mmField t spareCtl 7 7 = 1 ∧ t.teams = s.teams.map (fun m =>
        if m.saved = false ∧ m.core / 96 = die ∧ m.core < 768 then
          { m with back := true, target := some (m.target.getD (s.time + 1000 * mmField s preCtl 31 0)) } else m)) ∧
  (∀ s die, s.contained = false → die < 8 → s.cp.sub.isSome = true ∨ s.cfg.spareUsed = true →
    ∃ t, exec (.spareDieSubstitution die) s = .next t ∧ t = { s with mmio := t.mmio } ∧ mmField t spareCtl 4 4 = 1) ∧
  (∀ s die, s.cp.sub = some die → (∀ m ∈ s.teams, m.core < 768 → m.core / 96 ≠ die) → runningJobs s die = [] →
    ∃ t, exec .spareRemap s = .next t ∧ t.gang = s.gang ∧ t.mem.bank = s.mem.bank ∧ t.mem.scratch = s.mem.scratch ∧ t.cp.sub = none ∧
      t.cfg.dieMap = s.cfg.dieMap.set die s.cfg.spare ∧ t.cfg.spareUsed = true ∧ mmField t spareCtl 7 5 = 3)

/-- Of the live gangs of its team on its pipe, `h` has issued the fewest instructions since the team's last barrier phase completed; ties go to the
lowest gang number (R389). -/
def Claims.fewestIssues (s : State) (core : Nat) (h : Gang) : Prop :=
  h.exited = false ∧ h.pipe < 4 ∧ (∃ m ∈ residents s core, m.id = h.team) ∧
    ∀ k ∈ gangsOf s, k.core = core → k.exited = false → k.pipe = h.pipe → k.team = h.team →
      h.issued < k.issued ∨ (h.issued = k.issued ∧ h.gangNo ≤ k.gangNo)

/-- R389: every 256 cc the gang of each team with the fewest issues since its last barrier phase is marked urgent on its pipe, and no other gang of
the core is; nothing else changes. -/
def Claims.UrgencyMarks : Prop :=
  ∀ s core, smapGet 0 s.cp.marked core + 256 ≤ s.cc → (∀ g ∈ gangsOf s, ∀ h ∈ gangsOf s, g.id = h.id → g = h) →
    (∀ g ∈ gangsOf s, ∀ h ∈ gangsOf s, g.team = h.team → g.gangNo = h.gangNo → g = h) →
    ∃ t, exec (.urgencyMark core) s = .next t ∧ t.mem = s.mem ∧ smapGet 0 t.cp.marked core = s.cc ∧
      (∀ g ∈ gangsOf t, ∃ h ∈ gangsOf s, g = { h with urgent := g.urgent }) ∧
      ∀ h ∈ gangsOf s, ∃ g ∈ gangsOf t, g = { h with urgent := g.urgent } ∧
        (h.core ≠ core → g.urgent = h.urgent) ∧ (h.core = core → (g.urgent = true ↔ Claims.fewestIssues s core h))

/-! ### Debugging and tracing (R422 to R426, R430) -/

/-- Tracing is off (R422). -/
def Claims.untraced (s : State) : Prop := mmField s trcCtl 0 0 = 0

/-- R423: an arm stops before the group at an enabled breakpoint of its context's debug block; STOPPED is set, and nothing else changes. -/
def Claims.Breakpoints : Prop :=
  ∀ s k n, s.live = true → debugBlock s s.gang.ctx = some k → n < 4 → bitField (mmGet s (dbgBlock k + 0x28 + 8 * n)) 0 0 = 1 →
    bitField (mmGet s (dbgBlock k + 0x28 + 8 * n)) 56 2 = s.gang.arm.pc.toNat % 2 ^ 57 / 4 → s.gang.arm.skipStop = false → s.gang.arm.rep = 0 →
    s.gang.arm.halted = false → Claims.untraced s →
    ∃ t, exec (.breakpointStop s.gang.id s.gang.arm.slot) s = .next t ∧ mmField t (dbgStat k) 4 4 = 1 ∧
      t = { s with mmio := t.mmio, gang := { s.gang with arm := { s.gang.arm with halted := true, watchHit := false, stepOne := false, skipStop := true } } }

/-- R422: a sample of a traced arm goes to the trace ring: TIME, PC, mask, core, gang slot, and arm slot with kind 1. -/
def Claims.TraceSamples : Prop :=
  ∀ s, s.live = true → mmField s trcCtl 0 0 = 1 → mmField s trcCtl 31 16 = s.gang.ctx → mmField s trcCtl 63 32 ≠ 0 →
    smapGet 0 s.cp.sampled (2 * s.gang.id + s.gang.arm.slot) + mmField s trcCtl 63 32 ≤ s.cc → ringOn s traceRing = true → ringFull s traceRing = false →
    s.gang.arm.slot < 2 → s.contained = false →
    ∃ t, exec (.traceSample s.gang.id s.gang.arm.slot) s = .next t ∧ t.gang = s.gang ∧ t.mem.main = s.mem.main ∧
      mmField t (traceRing + 16) 31 0 = (mmField s (traceRing + 16) 31 0 + 1) % 2 ^ 32 ∧
      cellsRead t.mem.host (mmGet s traceRing + mmField s (traceRing + 16) 31 0 % 2 ^ (mmField s (traceRing + 8) 5 2 + 6) * 32) 32 =
        leBytes 8 s.time ++ leBytes 8 s.gang.arm.pc.toNat ++ leBytes 12 s.gang.arm.mask.toNat ++ leBytes 2 s.gang.core ++ leBytes 1 s.gang.gslot ++
          leBytes 1 (s.gang.arm.slot * 128 + 1)

/-- A debug block that may act: its right stands, and no revocation is to be told (R424, R426). -/
def Claims.mayDebug (s : State) (k : Nat) : Prop := s.contained = false ∧ k < 4 ∧ dbgRight s k = true ∧ s.dbg.revoked = []

/-- R424, R426: every debug command is refused without the right, and the first after a revocation tells of it; nothing else changes. -/
def Claims.DebugRights : Prop :=
  ∀ i s k, i ∈ [Instr.dbgcmdHalt k, .dbgcmdResume k, .dbgcmdRead k, .dbgcmdWrite k, .dbgcmdStep k, .dbgcmdClear k] → s.contained = false → k < 4 →
    (dbgRight s k = false → k ∉ s.dbg.revoked → ∃ t, exec i s = .next t ∧ t = { s with mmio := t.mmio } ∧ mmField t (dbgStat k) 2 2 = 1) ∧
    (k ∈ s.dbg.revoked → ∃ t, exec i s = .next t ∧ t = { s with mmio := t.mmio, dbg := { s.dbg with revoked := nsetErase s.dbg.revoked k } } ∧
      mmField t (dbgStat k) 3 2 = 3)

/-- R425: HALT stops every resident arm of the context and holds for teams dispatched later; RESUME lets every halted arm go on; STEP lets the
selected arm issue once; CLEAR disables every breakpoint and watchpoint. -/
def Claims.DebugCommands : Prop :=
  ∀ s k, Claims.mayDebug s k →
    ((∀ g ∈ gangsOf s, ∀ h ∈ gangsOf s, g.id = h.id → g = h) → (∀ g ∈ gangsOf s, ∀ p, g.partner = some p → p.slot ≠ g.arm.slot) →
      ∃ t, exec (.dbgcmdHalt k) s = .next t ∧ mmField t (dbgStat k) 0 0 = 1 ∧ k ∈ t.dbg.halting ∧ t.mem.main = s.mem.main ∧
        (∀ g ∈ gangsOf t, g.ctx = dbgCtx s k → g.exited = false → ∀ a ∈ armsOf g, a.halted = true) ∧
        ∀ h ∈ gangsOf s, ∃ g ∈ gangsOf t, g.id = h.id ∧ g.v = h.v ∧ g.s = h.s) ∧
    (∃ t, exec (.dbgcmdResume k) s = .next t ∧ t.mem = s.mem ∧ mmField t (dbgStat k) 0 0 = 1 ∧ mmField t (dbgStat k) 4 4 = 0 ∧ k ∉ t.dbg.halting ∧
      gangsOf t = (gangsOf s).map (fun g => if g.ctx = dbgCtx s k then onArms g (fun a => { a with halted := false }) else g)) ∧
    (∃ t, exec (.dbgcmdClear k) s = .next t ∧ t = { s with mmio := t.mmio } ∧ mmField t (dbgStat k) 0 0 = 1 ∧
      (∀ n, n < 4 → bitField (mmGet t (dbgBlock k + 0x28 + 8 * n)) 0 0 = 0) ∧ ∀ n, n < 2 → mmField t (dbgBlock k + 0x48 + 8 * n) 5 4 = 0) ∧
    (∀ g, dbgArm s k = some g → g.arm.halted = true → g.core < 768 → s.live = true → s.gang = g → (∀ p, g.partner = some p → p.slot ≠ g.arm.slot) →
      ∃ t, exec (.dbgcmdStep k) s = .next t ∧ t.mmio = s.mmio ∧
        t.gang = { g with arm := { g.arm with halted := false, stepOne := true, skipStop := true } }) ∧
    (∀ g, dbgArm s k = some g → g.arm.halted = false →
      ∃ t, exec (.dbgcmdStep k) s = .next t ∧ t = { s with mmio := t.mmio } ∧ mmField t (dbgStat k) 2 2 = 1)

/-- R425: READ of a halted arm puts the item that DBGSEL names in DBGDATA, WRITE puts DBGDATA in the item; a running arm, an item that is not
there, and a shadow that does not bound its value are refused. -/
def Claims.DebugItems : Prop :=
  ∀ s k g, Claims.mayDebug s k → dbgArm s k = some g →
    let reg := dbgSel s k 11 0
    let lane := dbgSel s k 21 15
    let data := mmGet s (dbgBlock k + 0x20)
    (g.arm.halted = false → g.core < 768 → ∀ i, i = .dbgcmdRead k ∨ i = .dbgcmdWrite k →
      ∃ t, exec i s = .next t ∧ t = { s with mmio := t.mmio } ∧ mmField t (dbgStat k) 2 2 = 1) ∧
    (g.arm.halted = true →
      (∀ v, ((dbgSel s k 25 22 = 0 ∧ reg < g.ns ∧ v = (readS g reg).toNat) ∨
          (dbgSel s k 25 22 = 1 ∧ reg < g.nv ∧ lane < g.width ∧ v = (readV g reg lane).toNat) ∨
          (dbgSel s k 25 22 = 2 ∧ reg < 16 ∧ v = (readA g reg).toNat / (if lane % 2 = 0 then 1 else 2 ^ 64) % 2 ^ 64) ∨
          (dbgSel s k 25 22 = 3 ∧ reg < 16 ∧ v = (readC g reg).toNat) ∨
          (dbgSel s k 25 22 = 5 ∧ reg < g.ns ∧
            v = (BitVec.ofInt 32 (shadowS g reg).lo).toNat + 2 ^ 32 * (BitVec.ofInt 32 (shadowS g reg).hi).toNat) ∨
          (dbgSel s k 25 22 = 7 ∧ v = g.arm.pc.toNat)) →
        ∃ t, exec (.dbgcmdRead k) s = .next t ∧ t = { s with mmio := t.mmio } ∧ mmGet t (dbgBlock k + 0x20) = v ∧ mmField t (dbgStat k) 0 0 = 1) ∧
      (8 ≤ dbgSel s k 25 22 → ∀ i, i = .dbgcmdRead k ∨ i = .dbgcmdWrite k →
        ∃ t, exec i s = .next t ∧ t = { s with mmio := t.mmio } ∧ mmField t (dbgStat k) 2 2 = 1) ∧
      (s.live = true → s.gang = g →
        (dbgSel s k 25 22 = 0 → reg < g.ns → reg < 61 →
          ∃ t, exec (.dbgcmdWrite k) s = .next t ∧ mmField t (dbgStat k) 0 0 = 1 ∧ t.mem = s.mem ∧ t.gang.v = g.v ∧
            ∀ r, r < 61 → readS t.gang r = if r = reg then BitVec.ofNat 32 data else readS g r) ∧
        (dbgSel s k 25 22 = 1 → reg < g.nv → lane < g.width → lane < 96 →
          ∃ t, exec (.dbgcmdWrite k) s = .next t ∧ mmField t (dbgStat k) 0 0 = 1 ∧ t.mem = s.mem ∧ t.gang.s = g.s ∧
            ∀ r l, l < 96 → readV t.gang r l = if r = reg ∧ l = lane then BitVec.ofNat 32 data else readV g r l) ∧
        (dbgSel s k 25 22 = 7 → data % 4 = 0 →
          ∃ t, exec (.dbgcmdWrite k) s = .next t ∧ mmField t (dbgStat k) 0 0 = 1 ∧ t.mem = s.mem ∧ t.gang.v = g.v ∧ t.gang.s = g.s ∧
            t.gang.arm.pc = BitVec.ofNat 64 data)) ∧
      (dbgSel s k 25 22 = 5 → reg < 61 →
        ¬((BitVec.ofNat 32 data).toInt ≤ (readS g reg).toInt ∧ (readS g reg).toInt ≤ (BitVec.ofNat 32 (data / 2 ^ 32)).toInt) →
        ∃ t, exec (.dbgcmdWrite k) s = .next t ∧ t = { s with mmio := t.mmio } ∧ mmField t (dbgStat k) 2 2 = 1))

/-- R426: revocation is one step: the right ends, the block's breakpoints and watchpoints are off, every halted arm of the context resumes, and
the debugger's next command will be told. -/
def Claims.Revocation : Prop :=
  ∀ s k, s.contained = false → k < 4 → dbgRight s k = true →
    ∃ t, exec (.revocation k) s = .next t ∧ t.mem = s.mem ∧ dbgRight t k = false ∧ k ∈ t.dbg.revoked ∧ k ∉ t.dbg.halting ∧
      (∀ n, n < 4 → bitField (mmGet t (dbgBlock k + 0x28 + 8 * n)) 0 0 = 0) ∧ (∀ n, n < 2 → mmField t (dbgBlock k + 0x48 + 8 * n) 5 4 = 0) ∧
      gangsOf t = (gangsOf s).map (fun g => if g.ctx = dbgCtx s k then onArms g (fun a => { a with halted := false }) else g)

/-! ### Resets and the configuration record (R74, R77, R436, R437) -/

/-- R77, R437, R441: cold reset ends everything that runs, sets TIME to 0 and leaves memory to be filled; a vendor part that does not verify holds the
device, with CFGERR; an ageing part that does not verify is discarded: 520 mV and no core retired, with AGESTAT.RESET. A waiting vendor
part takes effect. Warm reset keeps memory, TIME and the record, and ends what runs. What else a reset keeps or clears is the model's (log entry 13),
as is the sequence number of a discarded part (log entry 74). -/
def Claims.Resets : Prop :=
  (∀ s, ∃ t, exec .coldReset s = .next t ∧ t.time = 0 ∧ t.live = false ∧ t.others = [] ∧ t.teams = [] ∧ t.launches = [] ∧ t.jobs.list = [] ∧
    t.yo.moves = [] ∧ t.yo.heat = [] ∧ t.contained = false ∧ t.tlb = [] ∧ t.caches.jigsaw = [] ∧ t.link.windows = [] ∧
    mmField t mgmtStat 1 1 = 0 ∧
    (s.cfg.pendingVendor = none →
      (t.mgmt.held = true ↔ ¬(s.cfg.vendorOk = true ∧ s.cfg.minVersion ≤ s.cfg.version)) ∧
      mmField t mgmtStat 0 0 = (if s.cfg.vendorOk = true ∧ s.cfg.minVersion ≤ s.cfg.version then 0 else 1) ∧
      (s.cfg.ageOk = true ∧ s.cfg.lastSeq ≤ s.cfg.ageSeq → mmField t ageStat 0 0 = 0 ∧ t.cfg.volt = s.cfg.flashVolt ∧ t.cfg.retired = s.cfg.flashRetired ∧
        t.cfg.lastSeq = s.cfg.ageSeq) ∧
      (¬(s.cfg.ageOk = true ∧ s.cfg.lastSeq ≤ s.cfg.ageSeq) → mmField t ageStat 0 0 = 1 ∧ t.cfg.volt = List.replicate 8 32 ∧
        t.cfg.retired = List.replicate 8 0 ∧ t.cfg.flashVolt = List.replicate 8 32 ∧ t.cfg.flashRetired = List.replicate 8 0)) ∧
    (∀ bs, s.cfg.pendingVendor = some bs → t.cfg.pendingVendor = none ∧ t.cfg.version = Config.vendorField bs 0 % 2 ^ 32)) ∧
  (∀ s, ∃ t, exec .warmReset s = .next t ∧ (Claims.backed s → t.mem.main = s.mem.main) ∧ t.mem.bank = s.mem.bank ∧ t.mem.scratch = s.mem.scratch ∧ t.time = s.time ∧
    t.cfg = s.cfg ∧ t.live = false ∧ t.others = [] ∧ t.teams = [] ∧ t.launches = [] ∧ t.jobs.list = [] ∧ t.link.windows = [] ∧
    t.contained = false ∧ t.caches.jigsaw = [] ∧ t.yo.heat = s.yo.heat ∧ t.dram.ready = s.dram.ready)

/-- R77: once the fill of memory has finished, every byte of installed memory reads zero and none is poisoned, and MEMRDY is set; a held device is never
reported ready. -/
def Claims.MemoryReady : Prop :=
  (∀ s, s.mgmt.held = true → exec .memoryReady s = .next s) ∧
  (∀ s, s.mgmt.held = false → s.dram.ready = false → s.yo.ckpt = none → s.cfg.failed = [] →
    ∃ t, exec .memoryReady s = .next t ∧ t.gang = s.gang ∧ t.dram.ready = true ∧ mmField t mgmtStat 1 1 = 1 ∧
      (∀ a, (imagePos a).isSome = true → smapGet 0 t.mem.main a = 0) ∧ ∀ k ∈ t.mem.poison, imagePos (64 * k) = none)

/-- R437: a new vendor part waits for the next cold reset. -/
def Claims.VendorPart : Prop :=
  ∀ s bs, exec (.vendorPartWrite bs) s = .next { s with cfg := { s.cfg with pendingVendor := some bs } }

/-! ### Ageing, attestation, time, power (R438 to R442) -/

/-- R438, R440: before its time, and on a held device, no margin plan runs. One that runs lowers no voltage, passes no die beyond 520 mV (MV 32) where it was
below, gives no retired core back, puts what it finds in VDIE, and plans the next at the next multiple of 24 h; where it changes nothing the
ageing part stays, and each die of which anything changed spends a leaf and a sequence number on it, while leaves remain (its bytes are in the
model's own layout: log entry 6). -/
def Claims.MarginPlans : Prop :=
  (∀ s, s.mgmt.held = true ∨ s.time < s.mgmt.nextPlan → exec .marginPlan s = .next s) ∧
  (∀ s, s.mgmt.held = false → s.mgmt.nextPlan ≤ s.time → s.cfg.volt.length = 8 → s.cfg.retired.length = 8 →
    ∃ t, exec .marginPlan s = .next t ∧ t.gang = s.gang ∧ t.mem = s.mem ∧ t.cfg.volt.length = 8 ∧
      (∀ d, d < 8 → s.cfg.volt.getD d 0 ≤ t.cfg.volt.getD d 0 ∧ (s.cfg.volt.getD d 0 ≤ 32 → t.cfg.volt.getD d 0 ≤ 32) ∧
        mmGet t (vDie d) = t.cfg.volt.getD d 0 % 2 ^ 64 ∧
        ∀ c, (s.cfg.retired.getD d 0).testBit c = true → (t.cfg.retired.getD d 0).testBit c = true) ∧
      t.mgmt.nextPlan = (s.time / 86400000000000 + 1) * 86400000000000 ∧
      (t.cfg.volt = s.cfg.volt → t.cfg.retired = s.cfg.retired → t.cfg.ageSeq = s.cfg.ageSeq ∧ t.cfg.leaf = s.cfg.leaf) ∧
      let n := ((List.range 8).filter (fun d => decide (t.cfg.volt.getD d 0 ≠ s.cfg.volt.getD d 0 ∨ t.cfg.retired.getD d 0 ≠ s.cfg.retired.getD d 0))).length
      (s.cfg.leaf + n ≤ 2 ^ 20 → t.cfg.ageSeq = s.cfg.ageSeq + n ∧ t.cfg.leaf = s.cfg.leaf + n ∧ (n ≠ 0 → t.cfg.flashVolt = t.cfg.volt ∧
        t.cfg.flashRetired = t.cfg.retired ∧ t.cfg.lastSeq = t.cfg.ageSeq ∧ t.cfg.ageOk = true ∧
        t.cfg.ageSig = (List.range 2820).map (Config.xmssSign (t.cfg.leaf - 1) (ageBytes t.cfg.volt t.cfg.retired t.cfg.ageSeq)))))

/-- R438, R439: GO reads the 32-byte nonce at ATTBASE. The report of 2,936 bytes overwrites it, wherever ATTBASE has moved since: the nonce, the digests
of the firmware and of the record (in the model's own layout: log entry 6), the record's version, the ageing sequence number, TIME and the leaf used
at their places, then the signature of all that under the leaf; the leaf is spent, DONE is set with status 0. With every leaf spent the status is 3 and
nothing is written. -/
def Claims.Attestation : Prop :=
  (∀ s, s.contained = false → s.mgmt.held = false → s.mgmt.nonce = none →
    ∃ t, exec .attestation s = .next t ∧ t = { s with mmio := t.mmio, mgmt := { s.mgmt with nonce := t.mgmt.nonce, attBuf := mmGet s attBase } } ∧
      t.mgmt.nonce = some (cellsRead s.mem.host (mmGet s attBase) 32) ∧ mmField t attReq 0 0 = 1) ∧
  (∀ s, s.mgmt.nonce.isSome = true → exec .attestation s = .next s) ∧
  (∀ s n, s.contained = false → s.mgmt.nonce = some n → n.length = 32 → s.cfg.leaf < 2 ^ 20 →
    ∃ t, exec .attestationReport s = .next t ∧ t.cfg.leaf = s.cfg.leaf + 1 ∧ t.mgmt.nonce = none ∧ mmField t attReq 0 0 = 0 ∧
      mmField t attReq 1 1 = 1 ∧ mmField t attReq 3 2 = 0 ∧ t.mem = { s.mem with host := t.mem.host } ∧
      let a := s.mgmt.attBuf
      let at_ (o n : Nat) : List Byte := cellsRead t.mem.host (a + o) n
      at_ 0 32 = n ∧ at_ 32 32 = (List.range 32).map (Config.digest Config.firmware) ∧
      at_ 64 32 = (List.range 32).map (Config.digest (vendorBytes s.cfg ++ ageBytes s.cfg.flashVolt s.cfg.flashRetired s.cfg.ageSeq ++ s.cfg.ageSig)) ∧
      at_ 96 4 = leBytes 4 s.cfg.version ∧ at_ 100 4 = leBytes 4 s.cfg.ageSeq ∧ at_ 104 8 = leBytes 8 s.time ∧ at_ 112 4 = leBytes 4 s.cfg.leaf ∧
      at_ 116 2820 = (List.range 2820).map (Config.xmssSign s.cfg.leaf (at_ 0 116)) ∧
      ∀ b, b < a ∨ a + 2936 ≤ b → smapGet 0 t.mem.host b = smapGet 0 s.mem.host b) ∧
  (∀ s n, s.mgmt.nonce = some n → 2 ^ 20 ≤ s.cfg.leaf →
    ∃ t, exec .attestationReport s = .next t ∧ t.cfg = s.cfg ∧ t.mem = s.mem ∧ t.mgmt.nonce = none ∧ mmField t attReq 1 1 = 1 ∧
      mmField t attReq 3 2 = 3)

/-- R441: TIMEADJ sets TIME to a greater value, and ignores any other. -/
def Claims.TimeAdjust : Prop :=
  ∀ s v, s.contained = false → s.mgmt.held = false →
    exec (.timeadj v) s = .next (if s.time < v.toNat then { s with time := v.toNat } else s)

/-- R409 to R412, R442: a new average of the power changes PWRNOW alone. A thermal trip is fatal: its record is kept in ERRFATAL, FLCTL.EN is cleared,
every launch is to end with status 4, and the part is contained. -/
def Claims.PowerAndHeat : Prop :=
  (∀ s, ∃ t, exec .powerThrottle s = .next t ∧ t = { s with serial := t.serial, mmio := t.mmio } ∧
    ∀ off, off ≠ pwrNow → mmGet t off = mmGet s off) ∧
  (∀ s, (∀ n, n < 4 → mmGet s (errFatal + 8 * n) = 0) →
    ∃ t, exec .thermalTrip s = .next t ∧ t.contained = true ∧ t.gang = s.gang ∧ t.mem.main = s.mem.main ∧ mmField t flCtl 0 0 = 0 ∧
      t.errMsgs = s.errMsgs ++ [2] ∧ (∀ l ∈ t.launches, l.killed = some 4 ∧ l.replaying = false) ∧ mmGet t errFatal = 0 ∧
      mmGet t (errFatal + 8) = s.time % 2 ^ 64 ∧
      mmGet t (errFatal + 16) = 0xFFFF + 8 * 2 ^ 16 + 0 * 2 ^ 24 + 2 * 2 ^ 32 + 9 * 2 ^ 40 ∧ mmGet t (errFatal + 24) = 0)

/-! ### Host accesses (R10, R431, R432, R335) -/

/-- A register whose write starts nothing: in the translation, page-motion, ordering or command-processor area, none of the action registers
that R431 lists, and no decoder. -/
def Claims.plainRegister (off : Nat) : Prop :=
  off % 8 = 0 ∧ (regInfo off).present = true ∧ (regInfo off).w1c = 0 ∧ (regInfo off).w1s = 0 ∧ (regInfo off).wo = 0 ∧
    (0x80000 ≤ off ∧ off < 0x90000 ∨ 0x100000 ≤ off ∧ off < 0x103000)

/-- R10, R431: a register write through BAR0 changes its RW bits alone: all 64, or those of the half that 4 bytes cover. One that is not naturally
aligned is an Unsupported Request; a contained part takes none. -/
def Claims.RegisterWrites : Prop :=
  (∀ s off v, s.contained = false → s.mgmt.held = false → Claims.plainRegister off →
    (∃ t, exec (.registerWrite true off v) s = .next t ∧ t = { s with mmio := t.mmio } ∧ (∀ o, o ≠ off → mmGet t o = mmGet s o) ∧
      ∀ b, b < 64 → (mmGet t off).testBit b = if (regInfo off).rw.testBit b then v.toNat.testBit b else (mmGet s off).testBit b) ∧
    (∃ t, exec (.registerWrite false off v) s = .next t ∧ t = { s with mmio := t.mmio } ∧
      ∀ b, b < 64 → (mmGet t off).testBit b =
        if (regInfo off).rw.testBit b ∧ b < 32 then v.toNat.testBit b else (mmGet s off).testBit b) ∧
    (∃ t, exec (.registerWrite false (off + 4) v) s = .next t ∧ t = { s with mmio := t.mmio } ∧
      ∀ b, b < 64 → (mmGet t off).testBit b =
        if (regInfo off).rw.testBit b ∧ 32 ≤ b then v.toNat.testBit (b - 32) else (mmGet s off).testBit b)) ∧
  (∀ s wide off v, s.contained = false → s.mgmt.held = false → (regInfo (off / 8 * 8)).present = false →
    off % (if wide = true then 8 else 4) = 0 → exec (.registerWrite wide off v) s = .next s) ∧
  (∀ s wide off v, s.contained = true → exec (.registerWrite wide off v) s = .next s)

/-- R431: an access that is no aligned one of 4 or 8 bytes is logged as class 1, kind 4; where the error ring is off it leaves a message alone. -/
def Claims.UnsupportedRequests : Prop :=
  ∀ i s a, s.contained = false → (i = .unsupportedRequest a ∨ ∃ wide v, i = .registerWrite wide a.toNat v ∧ a.toNat % (if wide = true then 8 else 4) ≠ 0) →
    (ringOn s errRing = false → exec i s = .next { s with errMsgs := s.errMsgs ++ [1] }) ∧
    (ringOn s errRing = true → ringFull s errRing = false → ∃ t, exec i s = .next t ∧ t.gang = s.gang ∧ t.mem = { s.mem with host := t.mem.host } ∧
      cellsRead t.mem.host (mmGet s errRing + mmField s (errRing + 16) 31 0 % 2 ^ (mmField s (errRing + 8) 5 2 + 6) * 32) 32 =
        leBytes 8 a.toNat ++ leBytes 8 s.time ++ leBytes 2 0xFFFF ++ [8, 0, 1, 4, 0, 0] ++ leBytes 8 0)

/-- R335, R431, R443: a write through BAR2 of bytes within a line, whose time R333 allows, lands at HOSTWIN's base plus the offset; a read gives the host
the bytes there and changes none. A write whose time R333 does not allow waits. A read through BAR0 of 4 bytes gives the half that they cover. -/
def Claims.Bar2Accesses : Prop :=
  (∀ s off, off % 8 = 0 → barRead s false off = barRead s true off % 2 ^ 32 ∧ barRead s false (off + 4) = barRead s true off / 2 ^ 32 ∧
    (s.mgmt.held = true → 0x10000 ≤ off → barRead s true off = 0) ∧
    (s.mgmt.held = false → off < 0x10000 ∨ 0x19000 ≤ off → off < 0x60000 ∨ 0x60800 ≤ off → barRead s true off = mmGet s off)) ∧
  ∀ s (a : BitVec 64) bs, s.contained = false → s.mgmt.held = false →
    let pa := mmField s hostWin 51 36 * 2 ^ 36 + a.toNat % 2 ^ 36
    Claims.backed s → bs ≠ [] → pa % 256 + bs.length ≤ 256 → (∀ k, k < bs.length → cacheable s (pa + k) = true) →
    (agentTime s hostNo < writeTime s hostNo pa → timeBound s < writeTime s hostNo pa →
      exec (.bar2Access true a bs) s = .next { s with caches := { s.caches with waiting := nsetInsert s.caches.waiting hostNo } }) ∧
    (writeTime s hostNo pa ≤ timeBound s → ∃ t, exec (.bar2Access true a bs) s = .next t ∧ t.gang = s.gang ∧ t.mem.bank = s.mem.bank ∧
      ∀ k, smapGet 0 t.mem.main k = if pa ≤ k ∧ k < pa + bs.length then bs.getD (k - pa) 0 else smapGet 0 s.mem.main k) ∧
    (readTime s hostNo pa ≤ timeBound s → ∃ t, exec (.bar2Access false a bs) s = .next t ∧ t.gang = s.gang ∧ t.mem.main = s.mem.main ∧
      t.mem.bank = s.mem.bank ∧ t.mgmt.hostData = (List.range bs.length).map (fun k => smapGet 0 s.mem.main (pa + k)))

/-- R42, R47: the event of an arm's meeting an unassigned word takes IllegalInstruction with the word's address in FADDR and resumes at the group. -/
def Claims.UnassignedEncodings : Prop :=
  ∀ s a, s.live = true →
    exec (.unassignedEncoding a) s = .next (stepDone (trapEntry s ⟨1, 0, a.toNat, s.gang.arm.mask, []⟩ s.gang.arm.pc))

/-! ### The step, decoding, and what holds in every state -/

/-- A step of an arm's turn runs its group (R33, R41, R42, R47): with the arm at hand, eligible and at no breakpoint, the words at its PC are
fetched, and the prefixes and the instruction that they decode to are executed in order; a trap of the fetch or of the decoder is taken in their
place. An arm that stands at its current join arrives there instead. Then time passes and the next turn is chosen. A unit's turn executes its
event. -/
def Claims.StepRunsDecoded : Prop :=
  (∀ s, s.live = true → s.turn = .arm s.gang.id s.gang.arm.slot → mayIssue s s.gang s.gang.arm = true → atJoin s.gang = false → stopsBefore s = false →
    (∀ p s' i, fetchGroup groupFuel s s.gang.arm.pc [] = .ok (p, s') → groupInstr s' p = .ok i → step s =
      andThen (execAll (prefixInstrs p ++ [i]) s') (fun t => .next (endStep t))) ∧
    (∀ w s' i, fetchWord s s.gang.arm.pc = .ok (w, s') → wordKind w ≠ 2 → wordCount w = 1 → decodeWords w 0 = .ok i → step s =
      andThen (exec i s') (fun t => .next (endStep t))) ∧
    (∀ w w' s' s'' i, fetchWord s s.gang.arm.pc = .ok (w, s') → wordKind w ≠ 2 → wordCount w ≠ 1 → fetchWord s' (s.gang.arm.pc + 4) = .ok (w', s'') →
      decodeWords w w' = .ok i → step s = andThen (exec i s'') (fun t => .next (endStep t))) ∧
    (∀ x s', fetchGroup groupFuel s s.gang.arm.pc [] = .error (x, s') → step s = .next (endStep (stepDone (trapEntry s' x s.gang.arm.pc)))) ∧
    ∀ p s' x, fetchGroup groupFuel s s.gang.arm.pc [] = .ok (p, s') → groupInstr s' p = .error x →
      step s = .next (endStep (stepDone (trapEntry s' x s.gang.arm.pc)))) ∧
  (∀ s, s.live = true → s.turn = .arm s.gang.id s.gang.arm.slot → mayIssue s s.gang s.gang.arm = true → atJoin s.gang = true →
    step s = .next (endStep (boundary s))) ∧
  ∀ s i, s.turn = .event i → step s = andThen (exec i s) (fun t => .next (endStep t))

/-- R7, R104, R107: a word is fetched from the four bytes, lowest first, that the executable page of its address maps, as memory or the core's
instruction cache holds them (log entry 17), with nothing of the arm changed; an address that is not canonical faults. -/
def Claims.FetchedWords : Prop :=
  (∀ s va x, va.toNat % 4 = 0 → canonical va.toNat = true → inArea (apCtx s) va.toNat = false → xlate s (armAgent s) va.toNat .fetch (pickCached s 125) = x →
    x.fault = none → ∀ w s', fetchWord s va = .ok (w, s') →
      (icFind s s.gang.core x.pa = none → w = BitVec.ofNat 32 (leNat (physBytes s' x.pa 4))) ∧
      (∀ l, icFind s s.gang.core x.pa = some l → w = BitVec.ofNat 32 (leNat (physBytes s' x.pa 4)) ∨
        w = BitVec.ofNat 32 (leNat ((l.bytes.drop (x.pa % 256)).take 4))) ∧ s'.gang = s.gang ∧ s'.mem.scratch = s.mem.scratch) ∧
  (∀ s va, canonical va.toNat = false → ∃ x s', fetchWord s va = .error (x, s') ∧ x.cause = 9 ∧ x.reason = 0x0B ∧ x.faddr = va.toNat ∧
    x.lanes = s.gang.arm.mask)

/-- R47 and the opcode tables: words written out from the encodings of the spec decode to the instructions they stand for. -/
def Obligations.DecodedWords : Prop :=
  decodeWords 0x0000004C 0 = .ok .ret ∧ decodeWords 0x00000050 0 = .ok .join ∧ decodeWords 0x01000048 0 = .ok (.jr 8) ∧
  decodeWords 0x00000A18 0 = .ok (.trap 5) ∧ decodeWords 0x0000000C 0 = .ok .yield ∧
  decodeWords 0x00804420 0 = .ok (.csrr 4 0x022) ∧ decodeWords 0x00A00024 0 = .ok (.csrw 0 5) ∧ decodeWords 0x00320660 0 = .ok (.wait 3 200) ∧
  decodeWords 0x00004460 0 = .ok (.wait 2 1) ∧ decodeWords 0x1024548C 0 = .ok (.mulh .sss 8 9 10)

/-- What reset leaves (R8, R57, R77, R110, R139, R379, R428 to R444): TIME and the clock at 0, nothing resident, empty queues, caches, windows and tables,
no memory listed (what an unlisted byte reads is log entry 12), and of the host window CTXBASE, QCTL, QHEAD, PRECTL.DRAIN, DEVIDENT, CAPPTR, ERRFATAL and MGMTSTAT at their reset values. -/
def Claims.ResetState : Prop :=
  State.reset.time = 0 ∧ State.reset.cc = 0 ∧ State.reset.live = false ∧ State.reset.others = [] ∧ State.reset.teams = [] ∧ State.reset.launches = [] ∧
  State.reset.jobs.list = [] ∧ State.reset.yo.moves = [] ∧ State.reset.yo.heat = [] ∧ State.reset.caches.jigsaw = [] ∧ State.reset.link.windows = [] ∧
  State.reset.mem.main = [] ∧ State.reset.mem.host = [] ∧ State.reset.contained = false ∧ Mem.wf State.reset.mem = true ∧
  mmGet State.reset ctxBase = 0 ∧ mmField State.reset preCtl 31 0 = 2000 ∧ mmField State.reset 0 63 48 = 0x1F3C ∧ mmField State.reset 0 47 32 = 0x0F09 ∧
  mmGet State.reset 8 = 0x100 ∧ mmGet State.reset (errFatal + 8) = 0 ∧ mmField State.reset mgmtStat 1 0 = 0 ∧
  (∀ q, q < 64 → mmGet State.reset (qBlock q + 8) = 0 ∧ mmGet State.reset (qBlock q + 16) = 0)

/-- The encoder and the decoder agree: every well-formed instruction that has words is what its words decode to. -/
def Obligations.EncodedInstructionsDecode : Prop :=
  ∀ i, instrWf i = true → encode i ≠ [] → decodeWords ((encode i).getD 0 0) ((encode i).getD 1 0) = .ok i

/-- What the order of steps keeps. A contained part has ended every launch and runs no team's gang (R412); a turn of an arm is of an arm that is resident
and may issue (R353); a replay is of a launch that replays (R416); an acknowledgement is of a packet that has not been answered (R337). -/
def Claims.consistent (s : State) : Prop :=
  (s.contained = true → s.launches = []) ∧
  match s.turn with
  | .arm g slot => ∃ x ∈ gangsOf s, x.id = g ∧ ∃ a ∈ armsOf x, a.slot = slot ∧ mayIssue s x a = true
  | .replay l => ∃ x ∈ s.launches, x.id = l ∧ x.replaying = true
  | .ack n => ∃ p ∈ s.link.packets, p.id = n ∧ unanswered p = true
  | _ => True

/-- R337, R353, R412, R416: after every step a contained part has no launch, and the turn that comes next is one that may be taken: of an arm that is
resident and may issue, of a launch that replays, of a packet without an answer. -/
def Obligations.StepKeepsConsistency : Prop := ∀ s t, Claims.consistent s → step s = .next t → Claims.consistent t

/-- R353, R389, R391: an arm that comes next may issue, waits for nothing, and its YIELD is over; it has waited 1,024 cc, or else no gang's next arm goes before it on its pipe: one of an urgent gang where its own is not, or one that issued less recently. -/
def Claims.IssueOrder : Prop :=
  ∀ s t g slot, step s = .next t → t.turn = .arm g slot →
    ∃ x ∈ gangsOf t, x.id = g ∧ ∃ a ∈ armsOf x, a.slot = slot ∧ mayIssue t x a = true ∧ yieldOver t x a = true ∧
      armReady t x a = true ∧ (a.readyAt + 1024 ≤ t.cc ∨
        ∀ y ∈ gangsOf t, y.core = x.core → y.pipe = x.pipe → ∀ b, gangNext t y = some b →
          ¬(y.urgent = true ∧ x.urgent = false) ∧ (y.urgent = x.urgent → a.lastIssue ≤ b.lastIssue))

/-- The state after reset is consistent. -/
def Claims.ResetIsConsistent : Prop := Claims.consistent State.reset

/-- No step stops the part: every step answers a next state (R47: every word has a fate). -/
def Obligations.EveryStepAnswers : Prop := ∀ s, ∃ t, step s = .next t

/-! ### The statements that have several parts -/

/-- The 32-bit integer majors, their immediate forms and LI write the result of their operation and nothing else (R279, R281, R21, R283). -/
def Obligations.IntegerArithmetic : Prop :=
  Claims.ShortIntegerResults ∧ Claims.ShortUnaryResults ∧ Claims.ImmediateResults ∧ Claims.LoadImmediateResults

/-- The integer group in every type, BFX, MAD, CLAMP, SEL, BFI and CMP write their results and nothing else (R279, R281, R282, R286, R287).
-/
def Obligations.IntegerGroups : Prop :=
  Claims.IntegerGroupResults ∧ Claims.ThreeSourceIntegerResults

/-- Effective controls, and the values and flags of arithmetic, conversions, packed and quantizing members by exact rounding (R35, R264,
R273, R265, R286, R289, R291, R267, R290, R294, R295, R296). -/
def Obligations.FloatingControls : Prop :=
  Claims.EffectiveControls ∧ Claims.RoundingModes ∧ Claims.FiniteArithmetic ∧ Claims.FiniteConversions ∧ Claims.PackedResults ∧
  Claims.QuantizedResults ∧ Claims.SpecialOperands

/-- MOV, MOVS, lane moves, WIDR, GWID and RDTIME write their results and nothing else (R285, R350, R370, R371, R408). -/
def Obligations.MovesAndIdentity : Prop :=
  Claims.MoveResults ∧ Claims.IdentityResults

/-- VOTE, RED, SCAN and SHFL combine and move the active lanes (R367, R368, R369). -/
def Obligations.CrossLaneResults : Prop :=
  Claims.LaneReductions ∧ Claims.ShuffleResults

/-- CSET, CGET, ADSET and ADGET: their results, their stalls and the Hazard of CSET (R175, R248, R249). -/
def Obligations.CountersAndDescriptors : Prop :=
  Claims.CounterMoves ∧ Claims.DescriptorMoves

/-- The interval rules are sound, and an integer instruction keeps every register of both arms inside its shadow (R234, R235, R236, R238,
R284, R237). -/
def Obligations.IntervalsSound : Prop :=
  Claims.IntervalRulesSound ∧ Claims.ShadowsStayTrue

/-- B, CALL, JR, JR.l, RET and JOIN set the PC and LINK, and a misaligned register target raises Misaligned (R363). -/
def Obligations.Jumps : Prop :=
  Claims.JumpResults ∧ Claims.MisalignedJumps

/-- BC, LOOP and VB take or leave their branch, split, push, merge or spill; a full stack or a far VB raises DivergenceStack (R364, R355,
R356, R362, R365, R333, R360). -/
def Obligations.Branches : Prop :=
  Claims.CompareBranches ∧ Claims.VectorBranch ∧ Claims.VectorPushes ∧ Claims.DivergenceStackTraps

/-- Arrival at a join exchanges, pops, parks or re-gangs; EXIT hands the arm to waiting lanes or ends it (R357, R358, R112, R359, R370). -/
def Obligations.JoinsAndExits : Prop :=
  Claims.JoinArrival ∧ Claims.ExitPaths

/-- NOP, YIELD, PR and PN, and the advance of the PC past a sequential instruction or to its next repetition (R374, R391, R34, R36, R33,
R37, R400, R357, R359, R423, R425). -/
def Obligations.PlainIssue : Prop :=
  Claims.NopAndYield ∧ Claims.PrefixesInstall ∧ Claims.SequentialAdvance ∧ Claims.QuietBoundary

/-- Trap entry stores the stack part and fills the frame, FSTAT, FADDR, mode, mask and PC; a double fault ends the launch with status 3
(R402, R403, R356, R400, R332). -/
def Obligations.TrapEntry : Prop :=
  Claims.TrapEntry ∧ Claims.StackAtEntry ∧ Claims.DoubleFault

/-- TRAP, BRK and HALT, and the Privilege trap of supervisor-only instructions in user code (R114, R115, R141, R143, R145, R406, R408, R400,
R407, R396). -/
def Obligations.SystemTraps : Prop :=
  Claims.PrivilegeTraps ∧ Claims.SoftwareTraps ∧ Claims.HaltEndsLaunch

/-- CSRR, CSRW, CSRS and CSRC act on the readable and writable bits of their CSR and on nothing else (R408, R377, R378, R405). -/
def Obligations.ControlRegisters : Prop :=
  Claims.ControlRegisters ∧ Claims.ControlRegisterValues

/-- WAIT completes, waits or takes a pending cause; data lands, operations arrive, and owed registers are hazards (R157, R332, R172, R173,
R174, R175, R333, R401, R171, R373). -/
def Obligations.WaitsAndCounters : Prop :=
  Claims.WaitPlaces ∧ Claims.WaitCompletes ∧ Claims.WaitStallsAndTraps ∧ Claims.CounterEvents ∧ Claims.Hazards

/-- A load owes its register on its counter and will write, per lane, the little-endian number of its element (R170, R174, R190, R104,
R181). -/
def Obligations.Loads : Prop :=
  Claims.LoadsIssue ∧ Claims.ScratchpadLoads

/-- A store writes the low bytes of each lane at its element and leaves every other byte (R190, R104, R419). -/
def Obligations.Stores : Prop :=
  Claims.StoresIssue ∧ Claims.ScratchpadStores

/-- Prefetches never trap, a zero mask accesses nothing, BoundsTrap and Misaligned name their lanes and lowest address (R190, R243, R362,
R247, R104). -/
def Obligations.AccessRules : Prop :=
  Claims.PrefetchesIssue ∧ Claims.ZeroMaskAccess ∧ Claims.BoundsTraps ∧ Claims.MisalignedElements

/-- ATOM and BATOM update their elements in lane order by the operation of their member, integer or floating (R191, R192, R104, R193). -/
def Obligations.Atomics : Prop :=
  Claims.AtomicsInScratchpad ∧ Claims.AtomicsInMemory ∧ Claims.AtomicsInBanks ∧ Claims.AtomicOperations ∧ Claims.FloatingAtomics

/-- ST.SH, LD.SH, ADLD and ADST move the values and shadows of their block, or their descriptor, and owe what they load (R253, R104, R234,
R250). -/
def Obligations.ShadowAndDescriptorTransfers : Prop :=
  Claims.ShadowSpills ∧ Claims.SpillBytes ∧ Claims.DescriptorTransfers

/-- BARX objects: initialisation, announced bytes, arrivals, phases and reads (R195, R197, R188). -/
def Obligations.BankBarriers : Prop :=
  Claims.BankObjects ∧ Claims.BarrierInit ∧ Claims.BarrierBytes ∧ Claims.BarrierArrivals ∧ Claims.BarrierReads

/-- BRDO objects: initialisation, contributions in slots, the sum in slot order, and reads (R186, R196, R187). -/
def Obligations.BankReductions : Prop :=
  Claims.ReductionInit ∧ Claims.ReductionContributions ∧ Claims.ReductionAdds ∧ Claims.ReductionReads

/-- A request that waited for a place at its bank unit is performed; units enter and leave retention without changing a byte (R188, R197,
R186, R196, R189, R199, R412). -/
def Obligations.BankEvents : Prop :=
  Claims.WaitingArrivals ∧ Claims.WaitingReaders ∧ Claims.BankRetention

/-- TLBINV and the host's invalidation drop what their form names when they complete; a walk installs its leaf (R103, R114, R312, R100,
R117). -/
def Obligations.Invalidations : Prop :=
  Claims.TlbInvalidations ∧ Claims.WalksAndHostInvalidation

/-- PGMAP gives each lane a status and maps a placeholder page to the head frame of its pool; PGQRY reads an entry (R115, R333, R116, R96,
R109). -/
def Obligations.PageMapping : Prop :=
  Claims.PageMaps ∧ Claims.PageQueries ∧ Claims.FirstTouch

/-- PGMAP.post hands fault state to the host queue, and the host's replies retry or end what waits (R111, R115, R112, R396, R412). -/
def Obligations.HostFaults : Prop :=
  Claims.FaultPosts ∧ Claims.FaultReplies

/-- MIG.to and MIG.frame answer a status or start a move; MIG.cancel, PIN, UNPIN, HOT and PLC complete (R121, R125, R141, R142, R132, R143,
R144, R145, R333). -/
def Obligations.MotionInstructions : Prop :=
  Claims.MigStarts ∧ Claims.PlacementInstructions

/-- A move copies its page line by line, closes, or aborts back; epochs halve the heat; checkpoints save and restore (R125, R128, R130,
R132, R133, R134, R120, R137, R138, R412). -/
def Obligations.Moves : Prop :=
  Claims.MoveForward ∧ Claims.MoveAborts ∧ Claims.EpochsAndCheckpoints

/-- Refresh, line reads and writes, correction, scrubbing, failed channels, decoders and ports (R68, R69, R70, R60, R62, R73, R74, R76, R75,
R79, R80, R132). -/
def Obligations.MemoryControllers : Prop :=
  Claims.RefreshSteps ∧ Claims.LineSteps ∧ Claims.ChannelsAndPorts

/-- TREG, TUNREG and TINV answer their status and change the state of the tensor id (R148, R161, R165). -/
def Obligations.Tensors : Prop :=
  Claims.TensorRegistration ∧ Claims.ScratchpadRecords ∧ Claims.TensorRetirement

/-- TLD, TST, THALO, TPF and TQRY move the lines and elements of a tile in extent and touch no other byte; the image of a load lands later
(R152, R157, R160, R162, R163, R164, R166). -/
def Obligations.TileTransfers : Prop :=
  Claims.TileLoads ∧ Claims.TileStores ∧ Claims.TileHalos ∧ Claims.TilePrefetchAndQuery

/-- CPY, CPYB, JOB, MVN, CLOSE and JST submit, close and query jobs (R207, R213, R214, R215, R247, R210, R211, R216, R217, R218, R224). -/
def Obligations.JobSubmission : Prop :=
  Claims.CopySubmission ∧ Claims.JobInstructions

/-- Jobs are dispatched, do their work and complete; reservations are granted and closed; waiting moves start (R203, R205, R206, R211, R66,
R213, R225, R458). -/
def Obligations.JobProgress : Prop :=
  Claims.JobEvents ∧ Claims.ReservationEvents

/-- STRM opens an element queue, SCLOSE closes it, run-ahead fetches its next position, and an issue pops it once (R219, R220, R221, R222,
R223). -/
def Obligations.ElementStreams : Prop :=
  Claims.ElementStreams ∧ Claims.StreamPops

/-- OBRES, OBREL, OBLD, MMA, MLOOP, ACZ, ACLD, ACST and MSTAT reserve and queue their commands (R305, R316, R317, R314, R315, R318, R322,
R307, R319, R321, R323). -/
def Obligations.MatrixInstructions : Prop :=
  Claims.MatrixReservations ∧ Claims.MatrixTransfersIssue ∧ Claims.MatrixCommandsIssue

/-- The oldest command of a core takes effect and finishes its operation; the watchdog and MXRST reset a core's engine (R302, R308, R316,
R317, R318, R319, R320, R321, R322, R323, R325, R328). -/
def Obligations.MatrixEngine : Prop :=
  Claims.MatrixCommandEffects ∧ Claims.MatrixResets

/-- WREG, WREG.rel, WCTR, WWAIT, PUT and FORK: windows, packets and children (R336, R342, R344, R345, R333, R337, R343, R379, R393). -/
def Obligations.LinkInstructions : Prop :=
  Claims.WindowInstructions ∧ Claims.PutInstruction ∧ Claims.ForkInstruction

/-- Queues are served by priority and rotation; packets become launches, and teams are placed with their parameters (R379, R380, R382, R383,
R384, R385, R387, R388). -/
def Obligations.Dispatch : Prop :=
  Claims.ServedQueue ∧ Claims.LaunchPackets ∧ Claims.TeamDispatch ∧ Claims.CodePush

/-- Teams are told to give way as PRECMD, partitions, priorities and co-resident launches ask; urgent gangs issue first (R386, R387, R390,
R389, R353, R391). -/
def Obligations.PreEmption : Prop :=
  Claims.PreEmption ∧ Claims.UrgencyMarks ∧ Claims.IssueOrder

/-- A saved team keeps every register and its scratchpad image, and a restore brings them back (R390, R392, R394, R384). -/
def Obligations.SavesAndRestores : Prop :=
  Claims.ForcedSaves ∧ Claims.TeamRestores

/-- A gang's end lowers its team's barriers, a team's end writes its record, a launch's end writes DONE (R370, R384, R421, R396, R86). -/
def Obligations.EndsOfWork : Prop :=
  Claims.GangEnds ∧ Claims.LaunchCompletion

/-- Replay restores and starts again, teardown ends a context, and the spare takes a die's index (R416, R397, R426, R395). -/
def Obligations.ReplayTeardownSpare : Prop :=
  Claims.Replays ∧ Claims.Teardown ∧ Claims.SpareSubstitution

/-- Breakpoints, trace samples, debug rights, the six commands of DBGCMD, and revocation (R423, R422, R424, R426, R425). -/
def Obligations.Debugging : Prop :=
  Claims.Breakpoints ∧ Claims.TraceSamples ∧ Claims.DebugRights ∧ Claims.DebugCommands ∧ Claims.DebugItems ∧ Claims.Revocation

/-- Resets, the configuration record, margin plans, attestation, TIMEADJ, power and the thermal trip (R77, R437, R441, R438, R440, R439,
R409, R410, R411, R412, R442). -/
def Obligations.Management : Prop :=
  Claims.Resets ∧ Claims.MemoryReady ∧ Claims.VendorPart ∧ Claims.MarginPlans ∧ Claims.Attestation ∧ Claims.TimeAdjust ∧
  Claims.PowerAndHeat

/-- Register accesses and BAR2 accesses of the host, unsupported requests, and the event of an unassigned word (R10, R431, R335, R443, R333,
R42, R47). -/
def Obligations.HostAccesses : Prop :=
  Claims.RegisterWrites ∧ Claims.UnsupportedRequests ∧ Claims.Bar2Accesses ∧ Claims.UnassignedEncodings

/-- A step fetches the words at the PC and executes the group they decode to, then passes time; a unit's turn is its event (R33, R41, R42,
R47, R7, R104, R107). -/
def Obligations.StepRunsDecoded : Prop :=
  Claims.StepRunsDecoded ∧ Claims.FetchedWords

/-- What cold reset leaves: the time, the units, the memories and registers of the host window (R8, R57, R77, R110, R139, R379, R428, R444).
-/
def Obligations.ResetState : Prop :=
  Claims.ResetState ∧ Claims.ResetIsConsistent
end

