-- ==== Sys2Proof/Laws/Encoding.lean ====
section
/-! SUPPORT. What the decoder's field extraction reads from the words that the encoder builds, format by format
(R19 to R31, R43). -/

namespace Sys2Proof

theorem extract_ofNat (n w s k : Nat) : (BitVec.ofNat n w).extractLsb' s k = BitVec.ofNat k (w % 2 ^ n / 2 ^ s) := by
  apply BitVec.eq_of_toNat_eq
  simp [Nat.shiftRight_eq_div_pow]

theorem bitAt_ofNat (n w k : Nat) (h : k < n) : bitAt (BitVec.ofNat n w) k = decide (w / 2 ^ k % 2 = 1) := by
  simp only [bitAt, BitVec.getLsbD_ofNat, h, decide_true, Bool.true_and, Nat.testBit_eq_decide_div_mod_eq]

theorem wordKind_ofNat (w : Nat) : wordKind (BitVec.ofNat 32 w) = w % 4 := by
  simp only [wordKind, extract_ofNat, BitVec.toNat_ofNat]; omega

theorem majorOf_ofNat (w : Nat) : majorOf (BitVec.ofNat 32 w) = BitVec.ofNat 7 (w / 4) := by
  apply BitVec.eq_of_toNat_eq
  simp only [majorOf, extract_ofNat, BitVec.toNat_ofNat]; omega

/-- The two words of a 64-bit number make it again. -/
theorem twoWords_append (n : Nat) (h : n < 2 ^ 64) :
    BitVec.ofNat 32 (n / 2 ^ 32) ++ BitVec.ofNat 32 n = BitVec.ofNat 64 n := by
  apply BitVec.eq_of_toNat_eq
  simp only [BitVec.toNat_append, BitVec.toNat_ofNat]
  rw [← Nat.shiftLeft_add_eq_or_of_lt (Nat.mod_lt _ (by decide)), Nat.shiftLeft_eq]
  omega

/-- R19. -/
theorem unpackA_enc (m d a b sh : Nat) (hm : m < 128) (ha : a < 128) (hb : b < 128) (hsh : sh < 4) :
    unpackA (BitVec.ofNat 32 (m * 2 ^ 2 + sh * 2 ^ 9 + b * 2 ^ 11 + a * 2 ^ 18 + d * 2 ^ 25)) =
      ⟨BitVec.ofNat 7 d, BitVec.ofNat 7 a, BitVec.ofNat 7 b, BitVec.ofNat 2 sh⟩ := by
  simp only [unpackA, extract_ofNat, FmtA.mk.injEq]
  refine ⟨?_, ?_, ?_, ?_⟩ <;>
    first
      | (apply BitVec.eq_of_toNat_eq; simp only [BitVec.toNat_ofNat]; omega)
      | (rw [bitAt_ofNat _ _ _ (by decide)]; apply decide_eq_decide.mpr; omega)

/-- R21. -/
theorem unpackB_enc (m d a imm k : Nat) (hm : m < 128) (ha : a < 128) (himm : imm < 256) (hk : k < 2) :
    unpackB (BitVec.ofNat 32 (m * 2 ^ 2 + k * 2 ^ 9 + imm * 2 ^ 10 + a * 2 ^ 18 + d * 2 ^ 25)) =
      ⟨BitVec.ofNat 7 d, BitVec.ofNat 7 a, BitVec.ofNat 8 imm, decide (k = 1)⟩ := by
  simp only [unpackB, extract_ofNat, FmtB.mk.injEq]
  refine ⟨?_, ?_, ?_, ?_⟩ <;>
    first
      | (apply BitVec.eq_of_toNat_eq; simp only [BitVec.toNat_ofNat]; omega)
      | (rw [bitAt_ofNat _ _ _ (by decide)]; apply decide_eq_decide.mpr; omega)

/-- R23. -/
theorem unpackD_enc (m d ad ix md dsp cn : Nat) (hm : m < 128) (had : ad < 16) (hix : ix < 64) (hmd : md < 4) (hdsp : dsp < 4) (hcn : cn < 4) :
    unpackD (BitVec.ofNat 32 (m * 2 ^ 2 + cn * 2 ^ 9 + dsp * 2 ^ 11 + md * 2 ^ 13 + ix * 2 ^ 15 + ad * 2 ^ 21 + d * 2 ^ 25)) =
      ⟨BitVec.ofNat 7 d, BitVec.ofNat 4 ad, BitVec.ofNat 6 ix, BitVec.ofNat 2 md, BitVec.ofNat 2 dsp, BitVec.ofNat 2 cn⟩ := by
  simp only [unpackD, extract_ofNat, FmtD.mk.injEq]
  refine ⟨?_, ?_, ?_, ?_, ?_, ?_⟩ <;>
    first
      | (apply BitVec.eq_of_toNat_eq; simp only [BitVec.toNat_ofNat]; omega)
      | (rw [bitAt_ofNat _ _ _ (by decide)]; apply decide_eq_decide.mpr; omega)

/-- R24. -/
theorem unpackE_enc (m k ks cn : Nat) (hm : m < 128) (hk : k < 65536) (hks : ks < 2) (hcn : cn < 16) :
    unpackE (BitVec.ofNat 32 (m * 2 ^ 2 + cn * 2 ^ 9 + ks * 2 ^ 13 + k * 2 ^ 14)) =
      ⟨BitVec.ofNat 2 0, BitVec.ofNat 16 k, decide (ks = 1), BitVec.ofNat 4 cn⟩ := by
  simp only [unpackE, extract_ofNat, FmtE.mk.injEq]
  refine ⟨?_, ?_, ?_, ?_⟩ <;>
    first
      | (apply BitVec.eq_of_toNat_eq; simp only [BitVec.toNat_ofNat]; omega)
      | (rw [bitAt_ofNat _ _ _ (by decide)]; apply decide_eq_decide.mpr; omega)

/-- R25. -/
theorem unpackF_enc (m fn s imm : Nat) (hm : m < 128) (hs : s < 64) (himm : imm < 4096) :
    unpackF (BitVec.ofNat 32 (m * 2 ^ 2 + imm * 2 ^ 9 + s * 2 ^ 21 + fn * 2 ^ 27)) =
      ⟨BitVec.ofNat 5 fn, BitVec.ofNat 6 s, BitVec.ofNat 12 imm⟩ := by
  simp only [unpackF, extract_ofNat, FmtF.mk.injEq]
  refine ⟨?_, ?_, ?_⟩ <;>
    first
      | (apply BitVec.eq_of_toNat_eq; simp only [BitVec.toNat_ofNat]; omega)
      | (rw [bitAt_ofNat _ _ _ (by decide)]; apply decide_eq_decide.mpr; omega)

/-- R26. -/
theorem unpackL_enc (m imm t sh a d : Nat) (hm : m < 128) (ht : t < 32) (hsh : sh < 4) (ha : a < 128) (hd : d < 128) :
    unpackL (BitVec.ofNat 64 (1 + m * 2 ^ 2 + d * 2 ^ 9 + a * 2 ^ 16 + sh * 2 ^ 23 + t * 2 ^ 25 + imm * 2 ^ 32)) =
      ⟨BitVec.ofNat 32 imm, BitVec.ofNat 2 0, BitVec.ofNat 5 t, BitVec.ofNat 2 sh, BitVec.ofNat 7 a, BitVec.ofNat 7 d⟩ := by
  simp only [unpackL, extract_ofNat, FmtL.mk.injEq]
  refine ⟨?_, ?_, ?_, ?_, ?_, ?_⟩ <;>
    first
      | (apply BitVec.eq_of_toNat_eq; simp only [BitVec.toNat_ofNat]; omega)
      | (rw [bitAt_ofNat _ _ _ (by decide)]; apply decide_eq_decide.mpr; omega)

/-- R27. -/
theorem unpackW_enc (m fn sh t c b a d : Nat) (hm : m < 128) (hfn : fn < 64) (hsh : sh < 8) (ht : t < 32) (hc : c < 128) (hb : b < 128) (ha : a < 128) (hd : d < 128) :
    unpackW (BitVec.ofNat 64 (1 + m * 2 ^ 2 + d * 2 ^ 9 + a * 2 ^ 16 + b * 2 ^ 23 + c * 2 ^ 30 + t * 2 ^ 37 + sh * 2 ^ 42 + fn * 2 ^ 45)) =
      ⟨BitVec.ofNat 13 0, BitVec.ofNat 6 fn, BitVec.ofNat 3 sh, BitVec.ofNat 5 t, BitVec.ofNat 7 c, BitVec.ofNat 7 b, BitVec.ofNat 7 a, BitVec.ofNat 7 d⟩ := by
  simp only [unpackW, extract_ofNat, FmtW.mk.injEq]
  refine ⟨?_, ?_, ?_, ?_, ?_, ?_, ?_, ?_⟩ <;>
    first
      | (apply BitVec.eq_of_toNat_eq; simp only [BitVec.toNat_ofNat]; omega)
      | (rw [bitAt_ofNat _ _ _ (by decide)]; apply decide_eq_decide.mpr; omega)

/-- R29. -/
theorem unpackM_enc (m fn hn disp cn md ix ad d : Nat) (hm : m < 128) (hfn : fn < 32) (hhn : hn < 4) (hdisp : disp < 1048576) (hcn : cn < 16) (hmd : md < 4) (hix : ix < 128) (had : ad < 16) (hd : d < 128) :
    unpackM (BitVec.ofNat 64 (1 + m * 2 ^ 2 + d * 2 ^ 9 + ad * 2 ^ 16 + ix * 2 ^ 20 + md * 2 ^ 27 + cn * 2 ^ 32 + disp * 2 ^ 36 +
      hn * 2 ^ 56 + fn * 2 ^ 58)) =
      ⟨BitVec.ofNat 1 0, BitVec.ofNat 5 fn, BitVec.ofNat 2 hn, BitVec.ofNat 20 disp, BitVec.ofNat 4 cn, BitVec.ofNat 3 0, BitVec.ofNat 2 md, BitVec.ofNat 7 ix, BitVec.ofNat 4 ad, BitVec.ofNat 7 d⟩ := by
  simp only [unpackM, extract_ofNat, FmtM.mk.injEq]
  refine ⟨?_, ?_, ?_, ?_, ?_, ?_, ?_, ?_, ?_, ?_⟩ <;>
    first
      | (apply BitVec.eq_of_toNat_eq; simp only [BitVec.toNat_ofNat]; omega)
      | (rw [bitAt_ofNat _ _ _ (by decide)]; apply decide_eq_decide.mpr; omega)

/-- R30. -/
theorem unpackX_enc (m imm fn e ab aa cn : Nat) (hm : m < 128) (hfn : fn < 16) (he : e < 128) (hab : ab < 16) (haa : aa < 16) (hcn : cn < 16) :
    unpackX (BitVec.ofNat 64 (1 + m * 2 ^ 2 + cn * 2 ^ 9 + aa * 2 ^ 13 + ab * 2 ^ 17 + e * 2 ^ 21 + fn * 2 ^ 28 + imm * 2 ^ 32)) =
      ⟨BitVec.ofNat 32 imm, BitVec.ofNat 4 fn, BitVec.ofNat 7 e, BitVec.ofNat 4 ab, BitVec.ofNat 4 aa, BitVec.ofNat 4 cn⟩ := by
  simp only [unpackX, extract_ofNat, FmtX.mk.injEq]
  refine ⟨?_, ?_, ?_, ?_, ?_, ?_⟩ <;>
    first
      | (apply BitVec.eq_of_toNat_eq; simp only [BitVec.toNat_ofNat]; omega)
      | (rw [bitAt_ofNat _ _ _ (by decide)]; apply decide_eq_decide.mpr; omega)

/-- R31. -/
theorem unpackJ_enc (m jn off sh b a cnd : Nat) (hm : m < 128) (hoff : off < 1048576) (hsh : sh < 4) (hb : b < 128) (ha : a < 128) (hcnd : cnd < 16) :
    unpackJ (BitVec.ofNat 64 (1 + m * 2 ^ 2 + cnd * 2 ^ 9 + a * 2 ^ 13 + b * 2 ^ 20 + sh * 2 ^ 27 + off * 2 ^ 32 + jn * 2 ^ 52)) =
      ⟨BitVec.ofNat 12 jn, BitVec.ofNat 20 off, BitVec.ofNat 3 0, BitVec.ofNat 2 sh, BitVec.ofNat 7 b, BitVec.ofNat 7 a, BitVec.ofNat 4 cnd⟩ := by
  simp only [unpackJ, extract_ofNat, FmtJ.mk.injEq]
  refine ⟨?_, ?_, ?_, ?_, ?_, ?_, ?_⟩ <;>
    first
      | (apply BitVec.eq_of_toNat_eq; simp only [BitVec.toNat_ofNat]; omega)
      | (rw [bitAt_ofNat _ _ _ (by decide)]; apply decide_eq_decide.mpr; omega)

end Sys2Proof
end

