-- ==== Sys2Proof/Laws/Sparse.lean ====
section
/-! SUPPORT. The laws of sparse maps: a read after a write, and that every write keeps the canonical form. -/

namespace Sys2Proof.Machine

variable {α : Type}

theorem smapGet_erase_self (dflt : α) (m : List (Nat × α)) (a : Nat) : smapGet dflt (smapErase m a) a = dflt := by
  induction m with
  | nil => rfl
  | cons e t ih =>
    by_cases h : e.1 = a
    · have : smapErase (e :: t) a = smapErase t a := by simp [smapErase, h]
      rw [this]; exact ih
    · have : smapErase (e :: t) a = e :: smapErase t a := by simp [smapErase, h]
      rw [this]; simp [smapGet, Ne.symm h, ih]

theorem smapGet_erase_ne (dflt : α) (m : List (Nat × α)) {a b : Nat} (hab : b ≠ a) :
    smapGet dflt (smapErase m a) b = smapGet dflt m b := by
  induction m with
  | nil => rfl
  | cons e t ih =>
    by_cases h : e.1 = a
    · have : smapErase (e :: t) a = smapErase t a := by simp [smapErase, h]
      rw [this, ih]; simp [smapGet, h, hab]
    · have : smapErase (e :: t) a = e :: smapErase t a := by simp [smapErase, h]
      rw [this]; simp [smapGet, ih]

theorem smapGet_insert_ne (dflt : α) (m : List (Nat × α)) {a b : Nat} (v : α) (hab : b ≠ a) :
    smapGet dflt (smapInsert m a v) b = smapGet dflt m b := by
  induction m with
  | nil => simp [smapInsert, smapGet, hab]
  | cons e t ih =>
    simp only [smapInsert]
    split
    · simp [smapGet, hab]
    · simp [smapGet, ih]

theorem smapGet_insert_self (dflt : α) (m : List (Nat × α)) (a : Nat) (v : α) (h : ∀ e ∈ m, e.1 ≠ a) :
    smapGet dflt (smapInsert m a v) a = v := by
  induction m with
  | nil => simp [smapInsert, smapGet]
  | cons e t ih =>
    simp only [smapInsert]
    have he : a ≠ e.1 := Ne.symm (h e (List.mem_cons_self ..))
    split
    · simp [smapGet]
    · simp [smapGet, he, ih (fun x hx => h x (List.mem_cons_of_mem _ hx))]

variable [DecidableEq α]

/-- A read after a write to the same key gives the value written. -/
@[simp] theorem smapGet_set_self (dflt : α) (m : List (Nat × α)) (a : Nat) (v : α) :
    smapGet dflt (smapSet dflt m a v) a = v := by
  unfold smapSet
  split
  · next h => rw [smapGet_erase_self, h]
  · exact smapGet_insert_self _ _ _ _ (by simp [smapErase])

/-- A write leaves every other key alone. -/
theorem smapGet_set_ne (dflt : α) (m : List (Nat × α)) {a b : Nat} (v : α) (hab : b ≠ a) :
    smapGet dflt (smapSet dflt m a v) b = smapGet dflt m b := by
  unfold smapSet
  split
  · exact smapGet_erase_ne _ _ hab
  · rw [smapGet_insert_ne _ _ _ hab, smapGet_erase_ne _ _ hab]

/-- A read after a write. -/
theorem smapGet_set (dflt : α) (m : List (Nat × α)) (a b : Nat) (v : α) :
    smapGet dflt (smapSet dflt m a v) b = if b = a then v else smapGet dflt m b := by
  split
  · next h => rw [h, smapGet_set_self]
  · next h => exact smapGet_set_ne _ _ _ h

theorem smapWfFrom_mono (dflt : α) {lo lo' : Nat} (h : lo' ≤ lo) (m : List (Nat × α)) (hm : smapWfFrom dflt lo m = true) :
    smapWfFrom dflt lo' m = true := by
  cases m with
  | nil => rfl
  | cons e t =>
    simp only [smapWfFrom, Bool.and_eq_true, decide_eq_true_eq] at hm ⊢
    exact ⟨⟨Nat.le_trans h hm.1.1, hm.1.2⟩, hm.2⟩

theorem smapWfFrom_filter (dflt : α) (p : Nat × α → Bool) (lo : Nat) (m : List (Nat × α)) (hm : smapWfFrom dflt lo m = true) :
    smapWfFrom dflt lo (m.filter p) = true := by
  induction m generalizing lo with
  | nil => rfl
  | cons e t ih =>
    simp only [smapWfFrom, Bool.and_eq_true, decide_eq_true_eq] at hm
    by_cases h : p e = true
    · simp [List.filter, h, smapWfFrom, hm.1.1, hm.1.2, ih _ hm.2]
    · simp only [List.filter, h]
      exact smapWfFrom_mono dflt (by omega) _ (ih _ hm.2)

theorem smapWfFrom_insert (dflt : α) (lo : Nat) (m : List (Nat × α)) (a : Nat) (v : α) (hm : smapWfFrom dflt lo m = true)
    (hlo : lo ≤ a) (hv : v ≠ dflt) (hne : ∀ e ∈ m, e.1 ≠ a) : smapWfFrom dflt lo (smapInsert m a v) = true := by
  induction m generalizing lo with
  | nil => simp [smapInsert, smapWfFrom, hlo, hv]
  | cons e t ih =>
    simp only [smapWfFrom, Bool.and_eq_true, decide_eq_true_eq] at hm
    simp only [smapInsert]
    have he : e.1 ≠ a := hne e (List.mem_cons_self ..)
    split
    · next h => simp [smapWfFrom, hlo, hv, hm.1.2, hm.2]; omega
    · next h =>
      simp [smapWfFrom, hm.1.1, hm.1.2, ih (e.1 + 1) hm.2 (by omega) (fun x hx => hne x (List.mem_cons_of_mem _ hx))]

/-- The empty map is canonical. -/
@[simp] theorem smapWf_nil (dflt : α) : smapWf dflt [] = true := rfl

/-- Leaving entries out keeps the canonical form. -/
theorem smapWf_filter (dflt : α) (p : Nat × α → Bool) (m : List (Nat × α)) (hm : smapWf dflt m = true) :
    smapWf dflt (m.filter p) = true := smapWfFrom_filter dflt p 0 m hm

/-- A write keeps the canonical form. -/
theorem smapWf_set (dflt : α) (m : List (Nat × α)) (a : Nat) (v : α) (hm : smapWf dflt m = true) :
    smapWf dflt (smapSet dflt m a v) = true := by
  unfold smapSet
  split
  · exact smapWf_filter _ _ _ hm
  · next h => exact smapWfFrom_insert _ _ _ _ _ (smapWf_filter _ _ _ hm) (Nat.zero_le _) h (by simp [smapErase])

theorem smapGet_lt (dflt : α) (m : List (Nat × α)) (lo a : Nat) (hm : smapWfFrom dflt lo m = true) (ha : a < lo) :
    smapGet dflt m a = dflt := by
  induction m generalizing lo with
  | nil => rfl
  | cons e t ih =>
    simp only [smapWfFrom, Bool.and_eq_true, decide_eq_true_eq] at hm
    have : a ≠ e.1 := by omega
    simp [smapGet, this, ih _ hm.2 (by omega)]

theorem smapWfFrom_ext (dflt : α) (lo : Nat) (m n : List (Nat × α)) (hm : smapWfFrom dflt lo m = true)
    (hn : smapWfFrom dflt lo n = true) (h : ∀ a, smapGet dflt m a = smapGet dflt n a) : m = n := by
  induction m generalizing lo n with
  | nil =>
    cases n with
    | nil => rfl
    | cons e t =>
      simp only [smapWfFrom, Bool.and_eq_true, decide_eq_true_eq] at hn
      have := h e.1
      simp [smapGet] at this
      exact absurd this.symm hn.1.2
  | cons e t ih =>
    have hm' := hm
    simp only [smapWfFrom, Bool.and_eq_true, decide_eq_true_eq] at hm
    cases n with
    | nil =>
      have := h e.1
      simp [smapGet] at this
      exact absurd this hm.1.2
    | cons f u =>
      have hn' := hn
      simp only [smapWfFrom, Bool.and_eq_true, decide_eq_true_eq] at hn
      have hk : e.1 = f.1 := by
        rcases Nat.lt_trichotomy e.1 f.1 with hlt | heq | hgt
        · have h1 := h e.1
          have h2 : smapGet dflt (f :: u) e.1 = dflt :=
            smapGet_lt dflt (f :: u) f.1 e.1 (by simp [smapWfFrom, hn.1.2, hn.2]) hlt
          rw [h2] at h1
          simp [smapGet] at h1
          exact absurd h1 hm.1.2
        · exact heq
        · have h1 := h f.1
          have h2 : smapGet dflt (e :: t) f.1 = dflt :=
            smapGet_lt dflt (e :: t) e.1 f.1 (by simp [smapWfFrom, hm.1.2, hm.2]) hgt
          rw [h2] at h1
          simp [smapGet] at h1
          exact absurd h1.symm hn.1.2
      have hv : e.2 = f.2 := by
        have h1 := h e.1
        simpa [smapGet, hk] using h1
      have ht : t = u := by
        refine ih (e.1 + 1) u hm.2 (by rw [hk]; exact hn.2) (fun a => ?_)
        by_cases ha : a = e.1
        · rw [smapGet_lt dflt t (e.1 + 1) a hm.2 (by omega), smapGet_lt dflt u (e.1 + 1) a (by rw [hk]; exact hn.2) (by omega)]
        · have h1 := h a
          have ha' : a ≠ f.1 := hk ▸ ha
          simpa [smapGet, ha, ha'] using h1
      rw [ht, Prod.ext hk hv]

/-- Canonical maps that read alike are equal. -/
theorem smapWf_ext (dflt : α) (m n : List (Nat × α)) (hm : smapWf dflt m = true) (hn : smapWf dflt n = true)
    (h : ∀ a, smapGet dflt m a = smapGet dflt n a) : m = n := smapWfFrom_ext dflt 0 m n hm hn h

end Sys2Proof.Machine
end

