-- ==== Sys2Proof/Laws/Registers.lean ====
section
/-! SUPPORT. What the shared operations on registers do: a read after a write, and what a write leaves alone. -/

namespace Sys2Proof.Machine

/-- Writing lanes changes the vector file alone. -/
theorem putLanes_v (g : Gang) (r : Nat) (xs : List (Nat × Word)) :
    putLanes g r xs = { g with v := xs.foldl (fun m e => smapSet 0 m (vKey r e.1) e.2) g.v } := by
  unfold putLanes
  induction xs generalizing g with
  | nil => rfl
  | cons e t ih => simp only [List.foldl_cons]; rw [ih]; rfl

/-- A read after a run of writes whose keys decide their values. -/
theorem smapGet_foldl {α β : Type} [DecidableEq β] (d : β) (key : α → Nat) (val : α → β) (xs : List α)
    (m : List (Nat × β)) (k : Nat) (hinj : ∀ x ∈ xs, ∀ y ∈ xs, key x = key y → val x = val y) :
    smapGet d (xs.foldl (fun m e => smapSet d m (key e) (val e)) m) k =
      match xs.find? (fun e => key e == k) with
      | some e => val e
      | none => smapGet d m k := by
  induction xs generalizing m with
  | nil => rfl
  | cons e t ih =>
    simp only [List.foldl_cons]
    rw [ih _ (fun x hx y hy => hinj x (List.mem_cons_of_mem _ hx) y (List.mem_cons_of_mem _ hy))]
    simp only [List.find?_cons]
    by_cases h : key e = k
    · simp only [h, beq_self_eq_true]
      cases hf : t.find? (fun e => key e == k) with
      | none => simp [← h]
      | some x =>
        have hx : key x = k := by simpa using List.find?_some hf
        exact hinj x (List.mem_cons_of_mem _ (List.mem_of_find?_eq_some hf)) e (List.mem_cons_self ..) (hx.trans h.symm)
    · simp only [beq_eq_false_iff_ne.mpr h]
      cases t.find? (fun e => key e == k) with
      | none => exact smapGet_set_ne _ _ _ (Ne.symm h)
      | some x => rfl

theorem mem_laneList (m : LaneMask) (l : Nat) : l ∈ laneList m ↔ l < 96 ∧ m.getLsbD l = true := by
  simp [laneList]

/-- A lane of a vector register after the active lanes of register `r` were written. -/
theorem readV_putLanes (g : Gang) (r r' l : Nat) (f : Nat → Word) (m : LaneMask) (hl : l < 96) :
    readV (putLanes g r ((laneList m).map (fun l => (l, f l)))) r' l =
      if r' = r ∧ m.getLsbD l = true then f l else readV g r' l := by
  rw [putLanes_v, List.foldl_map]
  unfold readV
  simp only
  rw [smapGet_foldl 0 (fun l => vKey r l) f]
  · have key : ∀ n ∈ laneList m, (vKey r n = vKey r' l ↔ n = l ∧ r' = r) := by
      intro n hn; have := ((mem_laneList m n).1 hn).1; simp only [vKey]; omega
    by_cases h : r' = r ∧ m.getLsbD l = true
    · have hm : l ∈ laneList m := (mem_laneList m l).2 ⟨hl, h.2⟩
      cases hf : (laneList m).find? (fun n => vKey r n == vKey r' l) with
      | none =>
        have := List.find?_eq_none.1 hf l hm
        simp [h.1] at this
      | some x =>
        have hx := List.find?_some hf
        simp at hx
        have := (key x (List.mem_of_find?_eq_some hf)).1 hx
        simp [h, this.1]
    · have hf : (laneList m).find? (fun n => vKey r n == vKey r' l) = none := by
        apply List.find?_eq_none.2
        intro n hn
        simp only [beq_iff_eq]
        intro he
        have hh := (key n hn).1 he
        exact h ⟨hh.2, hh.1 ▸ ((mem_laneList m n).1 hn).2⟩
      simp [hf, h]
  · intro x hx y hy hxy
    have := ((mem_laneList m x).1 hx).1; have := ((mem_laneList m y).1 hy).1
    simp only [vKey] at hxy
    have : x = y := by omega
    rw [this]

/-- Marking the scoreboard leaves everything of an arm that a register write leaves. -/
theorem bare_armTouched (vec : Bool) (r : Nat) (a : Arm) : (armTouched vec r a).bare = a.bare := by
  simp only [armTouched, Arm.bare, List.map_map, Arm.mk.injEq, true_and, and_true]
  apply List.map_congr_left
  intro o _
  simp only [Function.comp]
  split <;> rfl

/-- The same of the other arm. -/
theorem bareOther_armTouched (vec : Bool) (r : Nat) (a : Arm) : (armTouched vec r a).bareOther = a.bareOther := by
  simp only [armTouched, Arm.bareOther, List.map_map, Arm.mk.injEq, true_and, and_true]
  apply List.map_congr_left
  intro o _
  simp only [Function.comp]
  split <;> rfl

/-- An arm chosen between two that are the same but for what `bare` leaves out. -/
theorem bare_ite (c : Prop) [Decidable c] (a b x : Arm) (ha : a.bare = x.bare) (hb : b.bare = x.bare) : (if c then a else b).bare = x.bare := by
  split
  · exact ha
  · exact hb

/-- A 32-bit result lands in its register and changes nothing else. -/
theorem wrote_writeReg (s : State) (k : Kind) (r : Nat) (f : Nat → Word) (sh : Shadow) :
    Wrote s (s.onGang (fun g => writeReg g k r f sh)) k r f ∧
      (s.onGang (fun g => writeReg g k r f sh)).bare = s.bare := by
  cases k with
  | vec =>
    simp only [Wrote, WroteV, writeReg, State.onGang, writeV]
    by_cases hm : s.gang.arm.mask = 0
    · simp [hm, active, State.bare]
    · simp only [hm, if_false]
      refine ⟨⟨fun r' l hl => readV_putLanes s.gang r r' l f s.gang.arm.mask hl, ?_, ?_⟩, ?_⟩
      · rw [putLanes_v]; rfl
      · rw [putLanes_v]; rfl
      · rw [putLanes_v]
        have h := bare_armTouched true r s.gang.arm
        simp only [State.bare, Gang.bare, setShadowV, State.mk.injEq, Gang.mk.injEq, true_and, and_true]
        exact h
  | scal =>
    simp only [Wrote, WroteS, writeReg, State.onGang, writeS]
    by_cases hr : 61 ≤ r
    · have hb := bare_armTouched false r { s.gang.arm with shS := smapSet Shadow.zero s.gang.arm.shS r Shadow.zero }
      have hs : ∀ r', r' < 61 → readS (writeMask (armWrote s.gang r) (r - 61) (f 0)) r' = readS s.gang r' := by
        intro r' hr'
        have h1 : ¬ 61 ≤ r' := by omega
        simp only [readS, h1, if_false, writeMask]
        rfl
      simp only [hr, if_true]
      refine ⟨⟨?_, rfl, ?_⟩, ?_⟩
      · intro r' hr'
        have h2 : r' ≠ r := by omega
        simp only [h2, if_false]
        exact hs r' hr'
      · simp only [writeMask]
        split <;> rfl
      · simp only [State.bare, Gang.bare, State.mk.injEq, Gang.mk.injEq, true_and, and_true, writeMask, armWrote]
        exact bare_ite _ _ _ _ hb hb
    · simp only [hr, if_false]
      refine ⟨⟨?_, trivial, rfl⟩, ?_⟩
      · intro r' hr'
        have h1 : ¬ 61 ≤ r' := by omega
        simp [readS, h1, smapGet_set]
      · simp only [State.bare, Gang.bare, State.mk.injEq, Gang.mk.injEq, true_and, and_true]
        refine ⟨bare_armTouched false r _, ?_⟩
        cases s.gang.partner with
        | none => rfl
        | some p => exact congrArg some (bareOther_armTouched false r _)

end Sys2Proof.Machine
end

