-- ==== Sys2Proof/Laws/Issue.lean ====
section
/-! SUPPORT. What issuing an instruction does, once its checks pass, and what an arithmetic body does. -/

namespace Sys2Proof.Machine

theorem preIssue_of_issues {i : Instr} {sup : Bool} {s s1 : State} (h : Issues i sup s s1) : preIssue s i sup = .ok s1 := by
  unfold preIssue earlyTrap
  rcases h with ⟨_, hl, hn, hm, hp, hr, ho⟩
  cases sup
  · simp [hl, hn, hp, hr, ho, Exe.bind]
  · simp [hl, hn, hp, hr, ho, hm rfl, Exe.bind]

/-- A sequential instruction that issues runs its body and settles it. -/
theorem issue_of_issues {i : Instr} {sup : Bool} {s s1 : State} (h : Issues i sup s s1) (body : State → Exe) :
    issue i sup s body = .next (settle s (body s1) (fun s' => afterIssue (advance s' i))) := by
  simp [issue, h.live, preIssue_of_issues h, Exe.bind]

/-- A jump that issues runs its body and settles it. -/
theorem issueJump_of_issues {i : Instr} {sup : Bool} {s s1 : State} (h : Issues i sup s s1) (body : State → Exe) :
    issueJump i sup s body = .next (settle s (body s1) (fun s' => afterIssue (retire s'))) := by
  simp [issueJump, h.live, preIssue_of_issues h, Exe.bind]

/-- A body that is done completes its instruction. -/
theorem issue_ok {i : Instr} {sup : Bool} {s s1 t : State} (h : Issues i sup s s1) {body : State → Exe} (hb : body s1 = .ok t) :
    issue i sup s body = .next (afterIssue (advance t i)) := by
  rw [issue_of_issues h, hb]; rfl

/-- A jump's body that is done completes it. -/
theorem issueJump_ok {i : Instr} {sup : Bool} {s s1 t : State} (h : Issues i sup s s1) {body : State → Exe} (hb : body s1 = .ok t) :
    issueJump i sup s body = .next (afterIssue (retire t)) := by
  rw [issueJump_of_issues h, hb]; rfl

/-- A body that traps enters the trap at the group's address. -/
theorem issue_trap {i : Instr} {sup : Bool} {s s1 u : State} {tr : Trap} (h : Issues i sup s s1) {body : State → Exe}
    (hb : body s1 = .trap tr u) : issue i sup s body = .next (stepDone (trapEntry (unpop s u) tr s.gang.arm.pc)) := by
  rw [issue_of_issues h, hb]; rfl

/-- The value of a lane among the results. -/
theorem resAt_laneResults (g : Gang) (k : Kind) (f : Nat → Nat × Flags) {l : Nat} (hl : l ∈ opLanes g k) :
    resAt (laneResults g k f) l = (f l).1 := by
  unfold resAt laneResults
  rw [List.find?_map]
  cases hf : (opLanes g k).find? ((fun r => r.lane == l) ∘ fun l => (⟨l, (f l).1, (f l).2⟩ : LaneRes)) with
  | none =>
    have := List.find?_eq_none.1 hf l hl
    simp at this
  | some x =>
    have := List.find?_some hf
    simp at this
    simp [this]

/-- Results that raise no flag leave the sticky flags. -/
theorem orFlags_none (k : Kind) (rs : List LaneRes) (g : Gang) (h : ∀ r ∈ rs, r.fl = 0) : orFlags k rs g = g := by
  cases k with
  | vec =>
    have : ∀ m : List (Nat × BitVec 5), rs.foldl
        (fun m r => if r.fl = 0 then m else smapSet 0 m r.lane (smapGet 0 m r.lane ||| r.fl)) m = m := by
      induction rs with
      | nil => intro m; rfl
      | cons r t ih =>
        intro m
        simp only [List.foldl_cons, h r (List.mem_cons_self ..), if_true]
        exact ih (fun x hx => h x (List.mem_cons_of_mem _ hx)) m
    simp only [orFlags, this]
  | scal =>
    have : ∀ m : Flags, rs.foldl (fun m r => m ||| r.fl) m = m := by
      induction rs with
      | nil => intro m; rfl
      | cons r t ih =>
        intro m
        have e : m ||| r.fl = m := by rw [h r (List.mem_cons_self ..)]; simp
        simp only [List.foldl_cons, e]
        exact ih (fun x hx => h x (List.mem_cons_of_mem _ hx)) m
    simp only [orFlags, this]

/-- An operation that raises no flag writes its results. -/
theorem arith_quiet (s : State) (k : Kind) (wide : Bool) (d : Nat) (te : Flags) (f : Nat → Nat × Flags) (sh : Shadow)
    (h : ∀ l, (f l).2 = 0) :
    arith s k wide d te f sh = .ok (s.onGang (fun g => writeNat g k wide d (resAt (laneResults s.gang k f)) sh)) := by
  have h0 : ∀ r ∈ laneResults s.gang k f, r.fl = 0 := by
    intro r hr
    simp only [laneResults, List.mem_map] at hr
    obtain ⟨l, _, rfl⟩ := hr
    exact h l
  have hq : faulting te (laneResults s.gang k f) = [] := by
    simp only [faulting, List.filter_eq_nil_iff]
    intro r hr
    simp [h0 r hr]
  simp only [arith, hq]
  congr 1
  simp only [State.onGang, putResults, orFlags_none _ _ _ h0]

/-- The lanes a result is computed for are those it is written to. -/
theorem wrote_congr {s t : State} {k : Kind} {r : Nat} {f g : Nat → Word} (hw : Wrote s t k r f)
    (h : ∀ l ∈ opLanes s.gang k, f l = g l) : Wrote s t k r g := by
  cases k with
  | vec =>
    obtain ⟨h1, h2, h3⟩ := hw
    refine ⟨fun r' l hl => ?_, h2, h3⟩
    rw [h1 r' l hl]
    split
    · next hc => exact h l ((mem_laneList _ _).2 ⟨hl, hc.2⟩)
    · rfl
  | scal =>
    have h0 := h 0 (by simp [opLanes])
    simp only [Wrote] at hw ⊢
    rw [← h0]; exact hw

/-- A 32-bit operation that raises no flag: its result lands and nothing else changes. -/
theorem arith_wrote (s : State) (k : Kind) (d : Nat) (te : Flags) (f : Nat → Nat × Flags) (sh : Shadow) (v : Nat → Word)
    (h : ∀ l, (f l).2 = 0) (hv : ∀ l ∈ opLanes s.gang k, BitVec.ofNat 32 (f l).1 = v l) :
    ∃ t, arith s k false d te f sh = .ok t ∧ t.bare = s.bare ∧ Wrote s t k d v := by
  refine ⟨_, arith_quiet s k false d te f sh h, ?_, ?_⟩
  · exact (wrote_writeReg s k d _ sh).2
  · refine wrote_congr (wrote_writeReg s k d _ sh).1 (fun l hl => ?_)
    rw [resAt_laneResults _ _ _ hl, hv l hl]

end Sys2Proof.Machine
end

