-- ==== Sys2Proof/Laws/State.lean ====
section
/-! SUPPORT. One lemma per field and update of the state: an update changes its own field and no other. -/

namespace Sys2Proof.Machine

@[simp] theorem onGang_tick (s : State) (f : Gang → Gang) : (State.onGang s f).tick = s.tick := rfl
@[simp] theorem onGang_cc (s : State) (f : Gang → Gang) : (State.onGang s f).cc = s.cc := rfl
@[simp] theorem onGang_time (s : State) (f : Gang → Gang) : (State.onGang s f).time = s.time := rfl
@[simp] theorem onGang_turn (s : State) (f : Gang → Gang) : (State.onGang s f).turn = s.turn := rfl
@[simp] theorem onGang_inputs (s : State) (f : Gang → Gang) : (State.onGang s f).inputs = s.inputs := rfl
@[simp] theorem onGang_live (s : State) (f : Gang → Gang) : (State.onGang s f).live = s.live := rfl
@[simp] theorem onGang_others (s : State) (f : Gang → Gang) : (State.onGang s f).others = s.others := rfl
@[simp] theorem onGang_mem (s : State) (f : Gang → Gang) : (State.onGang s f).mem = s.mem := rfl
@[simp] theorem onGang_teams (s : State) (f : Gang → Gang) : (State.onGang s f).teams = s.teams := rfl
@[simp] theorem onGang_launches (s : State) (f : Gang → Gang) : (State.onGang s f).launches = s.launches := rfl
@[simp] theorem onGang_serial (s : State) (f : Gang → Gang) : (State.onGang s f).serial = s.serial := rfl
@[simp] theorem onGang_mmio (s : State) (f : Gang → Gang) : (State.onGang s f).mmio = s.mmio := rfl
@[simp] theorem onGang_cfg (s : State) (f : Gang → Gang) : (State.onGang s f).cfg = s.cfg := rfl
@[simp] theorem onGang_dram (s : State) (f : Gang → Gang) : (State.onGang s f).dram = s.dram := rfl
@[simp] theorem onGang_tlb (s : State) (f : Gang → Gang) : (State.onGang s f).tlb = s.tlb := rfl
@[simp] theorem onGang_walk (s : State) (f : Gang → Gang) : (State.onGang s f).walk = s.walk := rfl
@[simp] theorem onGang_posts (s : State) (f : Gang → Gang) : (State.onGang s f).posts = s.posts := rfl
@[simp] theorem onGang_tagNext (s : State) (f : Gang → Gang) : (State.onGang s f).tagNext = s.tagNext := rfl
@[simp] theorem onGang_inval (s : State) (f : Gang → Gang) : (State.onGang s f).inval = s.inval := rfl
@[simp] theorem onGang_yo (s : State) (f : Gang → Gang) : (State.onGang s f).yo = s.yo := rfl
@[simp] theorem onGang_caches (s : State) (f : Gang → Gang) : (State.onGang s f).caches = s.caches := rfl
@[simp] theorem onGang_banks (s : State) (f : Gang → Gang) : (State.onGang s f).banks = s.banks := rfl
@[simp] theorem onGang_hints (s : State) (f : Gang → Gang) : (State.onGang s f).hints = s.hints := rfl
@[simp] theorem onGang_jobs (s : State) (f : Gang → Gang) : (State.onGang s f).jobs = s.jobs := rfl
@[simp] theorem onGang_deferred (s : State) (f : Gang → Gang) : (State.onGang s f).deferred = s.deferred := rfl
@[simp] theorem onGang_mx (s : State) (f : Gang → Gang) : (State.onGang s f).mx = s.mx := rfl
@[simp] theorem onGang_link (s : State) (f : Gang → Gang) : (State.onGang s f).link = s.link := rfl
@[simp] theorem onGang_cp (s : State) (f : Gang → Gang) : (State.onGang s f).cp = s.cp := rfl
@[simp] theorem onGang_dbg (s : State) (f : Gang → Gang) : (State.onGang s f).dbg = s.dbg := rfl
@[simp] theorem onGang_mgmt (s : State) (f : Gang → Gang) : (State.onGang s f).mgmt = s.mgmt := rfl
@[simp] theorem onGang_contained (s : State) (f : Gang → Gang) : (State.onGang s f).contained = s.contained := rfl
@[simp] theorem onGang_msix (s : State) (f : Gang → Gang) : (State.onGang s f).msix = s.msix := rfl
@[simp] theorem onGang_errMsgs (s : State) (f : Gang → Gang) : (State.onGang s f).errMsgs = s.errMsgs := rfl

@[simp] theorem onArm_tick (s : State) (f : Arm → Arm) : (State.onArm s f).tick = s.tick := rfl
@[simp] theorem onArm_cc (s : State) (f : Arm → Arm) : (State.onArm s f).cc = s.cc := rfl
@[simp] theorem onArm_time (s : State) (f : Arm → Arm) : (State.onArm s f).time = s.time := rfl
@[simp] theorem onArm_turn (s : State) (f : Arm → Arm) : (State.onArm s f).turn = s.turn := rfl
@[simp] theorem onArm_inputs (s : State) (f : Arm → Arm) : (State.onArm s f).inputs = s.inputs := rfl
@[simp] theorem onArm_live (s : State) (f : Arm → Arm) : (State.onArm s f).live = s.live := rfl
@[simp] theorem onArm_others (s : State) (f : Arm → Arm) : (State.onArm s f).others = s.others := rfl
@[simp] theorem onArm_mem (s : State) (f : Arm → Arm) : (State.onArm s f).mem = s.mem := rfl
@[simp] theorem onArm_teams (s : State) (f : Arm → Arm) : (State.onArm s f).teams = s.teams := rfl
@[simp] theorem onArm_launches (s : State) (f : Arm → Arm) : (State.onArm s f).launches = s.launches := rfl
@[simp] theorem onArm_serial (s : State) (f : Arm → Arm) : (State.onArm s f).serial = s.serial := rfl
@[simp] theorem onArm_mmio (s : State) (f : Arm → Arm) : (State.onArm s f).mmio = s.mmio := rfl
@[simp] theorem onArm_cfg (s : State) (f : Arm → Arm) : (State.onArm s f).cfg = s.cfg := rfl
@[simp] theorem onArm_dram (s : State) (f : Arm → Arm) : (State.onArm s f).dram = s.dram := rfl
@[simp] theorem onArm_tlb (s : State) (f : Arm → Arm) : (State.onArm s f).tlb = s.tlb := rfl
@[simp] theorem onArm_walk (s : State) (f : Arm → Arm) : (State.onArm s f).walk = s.walk := rfl
@[simp] theorem onArm_posts (s : State) (f : Arm → Arm) : (State.onArm s f).posts = s.posts := rfl
@[simp] theorem onArm_tagNext (s : State) (f : Arm → Arm) : (State.onArm s f).tagNext = s.tagNext := rfl
@[simp] theorem onArm_inval (s : State) (f : Arm → Arm) : (State.onArm s f).inval = s.inval := rfl
@[simp] theorem onArm_yo (s : State) (f : Arm → Arm) : (State.onArm s f).yo = s.yo := rfl
@[simp] theorem onArm_caches (s : State) (f : Arm → Arm) : (State.onArm s f).caches = s.caches := rfl
@[simp] theorem onArm_banks (s : State) (f : Arm → Arm) : (State.onArm s f).banks = s.banks := rfl
@[simp] theorem onArm_hints (s : State) (f : Arm → Arm) : (State.onArm s f).hints = s.hints := rfl
@[simp] theorem onArm_jobs (s : State) (f : Arm → Arm) : (State.onArm s f).jobs = s.jobs := rfl
@[simp] theorem onArm_deferred (s : State) (f : Arm → Arm) : (State.onArm s f).deferred = s.deferred := rfl
@[simp] theorem onArm_mx (s : State) (f : Arm → Arm) : (State.onArm s f).mx = s.mx := rfl
@[simp] theorem onArm_link (s : State) (f : Arm → Arm) : (State.onArm s f).link = s.link := rfl
@[simp] theorem onArm_cp (s : State) (f : Arm → Arm) : (State.onArm s f).cp = s.cp := rfl
@[simp] theorem onArm_dbg (s : State) (f : Arm → Arm) : (State.onArm s f).dbg = s.dbg := rfl
@[simp] theorem onArm_mgmt (s : State) (f : Arm → Arm) : (State.onArm s f).mgmt = s.mgmt := rfl
@[simp] theorem onArm_contained (s : State) (f : Arm → Arm) : (State.onArm s f).contained = s.contained := rfl
@[simp] theorem onArm_msix (s : State) (f : Arm → Arm) : (State.onArm s f).msix = s.msix := rfl
@[simp] theorem onArm_errMsgs (s : State) (f : Arm → Arm) : (State.onArm s f).errMsgs = s.errMsgs := rfl

@[simp] theorem mmPut_tick (s : State) (off v : Nat) : (mmPut s off v).tick = s.tick := rfl
@[simp] theorem mmPut_cc (s : State) (off v : Nat) : (mmPut s off v).cc = s.cc := rfl
@[simp] theorem mmPut_time (s : State) (off v : Nat) : (mmPut s off v).time = s.time := rfl
@[simp] theorem mmPut_turn (s : State) (off v : Nat) : (mmPut s off v).turn = s.turn := rfl
@[simp] theorem mmPut_inputs (s : State) (off v : Nat) : (mmPut s off v).inputs = s.inputs := rfl
@[simp] theorem mmPut_gang (s : State) (off v : Nat) : (mmPut s off v).gang = s.gang := rfl
@[simp] theorem mmPut_live (s : State) (off v : Nat) : (mmPut s off v).live = s.live := rfl
@[simp] theorem mmPut_others (s : State) (off v : Nat) : (mmPut s off v).others = s.others := rfl
@[simp] theorem mmPut_mem (s : State) (off v : Nat) : (mmPut s off v).mem = s.mem := rfl
@[simp] theorem mmPut_teams (s : State) (off v : Nat) : (mmPut s off v).teams = s.teams := rfl
@[simp] theorem mmPut_launches (s : State) (off v : Nat) : (mmPut s off v).launches = s.launches := rfl
@[simp] theorem mmPut_serial (s : State) (off v : Nat) : (mmPut s off v).serial = s.serial := rfl
@[simp] theorem mmPut_cfg (s : State) (off v : Nat) : (mmPut s off v).cfg = s.cfg := rfl
@[simp] theorem mmPut_dram (s : State) (off v : Nat) : (mmPut s off v).dram = s.dram := rfl
@[simp] theorem mmPut_tlb (s : State) (off v : Nat) : (mmPut s off v).tlb = s.tlb := rfl
@[simp] theorem mmPut_walk (s : State) (off v : Nat) : (mmPut s off v).walk = s.walk := rfl
@[simp] theorem mmPut_posts (s : State) (off v : Nat) : (mmPut s off v).posts = s.posts := rfl
@[simp] theorem mmPut_tagNext (s : State) (off v : Nat) : (mmPut s off v).tagNext = s.tagNext := rfl
@[simp] theorem mmPut_inval (s : State) (off v : Nat) : (mmPut s off v).inval = s.inval := rfl
@[simp] theorem mmPut_yo (s : State) (off v : Nat) : (mmPut s off v).yo = s.yo := rfl
@[simp] theorem mmPut_caches (s : State) (off v : Nat) : (mmPut s off v).caches = s.caches := rfl
@[simp] theorem mmPut_banks (s : State) (off v : Nat) : (mmPut s off v).banks = s.banks := rfl
@[simp] theorem mmPut_hints (s : State) (off v : Nat) : (mmPut s off v).hints = s.hints := rfl
@[simp] theorem mmPut_jobs (s : State) (off v : Nat) : (mmPut s off v).jobs = s.jobs := rfl
@[simp] theorem mmPut_deferred (s : State) (off v : Nat) : (mmPut s off v).deferred = s.deferred := rfl
@[simp] theorem mmPut_mx (s : State) (off v : Nat) : (mmPut s off v).mx = s.mx := rfl
@[simp] theorem mmPut_link (s : State) (off v : Nat) : (mmPut s off v).link = s.link := rfl
@[simp] theorem mmPut_cp (s : State) (off v : Nat) : (mmPut s off v).cp = s.cp := rfl
@[simp] theorem mmPut_dbg (s : State) (off v : Nat) : (mmPut s off v).dbg = s.dbg := rfl
@[simp] theorem mmPut_mgmt (s : State) (off v : Nat) : (mmPut s off v).mgmt = s.mgmt := rfl
@[simp] theorem mmPut_contained (s : State) (off v : Nat) : (mmPut s off v).contained = s.contained := rfl
@[simp] theorem mmPut_msix (s : State) (off v : Nat) : (mmPut s off v).msix = s.msix := rfl
@[simp] theorem mmPut_errMsgs (s : State) (off v : Nat) : (mmPut s off v).errMsgs = s.errMsgs := rfl

@[simp] theorem mmPutField_tick (s : State) (off hi lo v : Nat) : (mmPutField s off hi lo v).tick = s.tick := rfl
@[simp] theorem mmPutField_cc (s : State) (off hi lo v : Nat) : (mmPutField s off hi lo v).cc = s.cc := rfl
@[simp] theorem mmPutField_time (s : State) (off hi lo v : Nat) : (mmPutField s off hi lo v).time = s.time := rfl
@[simp] theorem mmPutField_turn (s : State) (off hi lo v : Nat) : (mmPutField s off hi lo v).turn = s.turn := rfl
@[simp] theorem mmPutField_inputs (s : State) (off hi lo v : Nat) : (mmPutField s off hi lo v).inputs = s.inputs := rfl
@[simp] theorem mmPutField_gang (s : State) (off hi lo v : Nat) : (mmPutField s off hi lo v).gang = s.gang := rfl
@[simp] theorem mmPutField_live (s : State) (off hi lo v : Nat) : (mmPutField s off hi lo v).live = s.live := rfl
@[simp] theorem mmPutField_others (s : State) (off hi lo v : Nat) : (mmPutField s off hi lo v).others = s.others := rfl
@[simp] theorem mmPutField_mem (s : State) (off hi lo v : Nat) : (mmPutField s off hi lo v).mem = s.mem := rfl
@[simp] theorem mmPutField_teams (s : State) (off hi lo v : Nat) : (mmPutField s off hi lo v).teams = s.teams := rfl
@[simp] theorem mmPutField_launches (s : State) (off hi lo v : Nat) : (mmPutField s off hi lo v).launches = s.launches := rfl
@[simp] theorem mmPutField_serial (s : State) (off hi lo v : Nat) : (mmPutField s off hi lo v).serial = s.serial := rfl
@[simp] theorem mmPutField_cfg (s : State) (off hi lo v : Nat) : (mmPutField s off hi lo v).cfg = s.cfg := rfl
@[simp] theorem mmPutField_dram (s : State) (off hi lo v : Nat) : (mmPutField s off hi lo v).dram = s.dram := rfl
@[simp] theorem mmPutField_tlb (s : State) (off hi lo v : Nat) : (mmPutField s off hi lo v).tlb = s.tlb := rfl
@[simp] theorem mmPutField_walk (s : State) (off hi lo v : Nat) : (mmPutField s off hi lo v).walk = s.walk := rfl
@[simp] theorem mmPutField_posts (s : State) (off hi lo v : Nat) : (mmPutField s off hi lo v).posts = s.posts := rfl
@[simp] theorem mmPutField_tagNext (s : State) (off hi lo v : Nat) : (mmPutField s off hi lo v).tagNext = s.tagNext := rfl
@[simp] theorem mmPutField_inval (s : State) (off hi lo v : Nat) : (mmPutField s off hi lo v).inval = s.inval := rfl
@[simp] theorem mmPutField_yo (s : State) (off hi lo v : Nat) : (mmPutField s off hi lo v).yo = s.yo := rfl
@[simp] theorem mmPutField_caches (s : State) (off hi lo v : Nat) : (mmPutField s off hi lo v).caches = s.caches := rfl
@[simp] theorem mmPutField_banks (s : State) (off hi lo v : Nat) : (mmPutField s off hi lo v).banks = s.banks := rfl
@[simp] theorem mmPutField_hints (s : State) (off hi lo v : Nat) : (mmPutField s off hi lo v).hints = s.hints := rfl
@[simp] theorem mmPutField_jobs (s : State) (off hi lo v : Nat) : (mmPutField s off hi lo v).jobs = s.jobs := rfl
@[simp] theorem mmPutField_deferred (s : State) (off hi lo v : Nat) : (mmPutField s off hi lo v).deferred = s.deferred := rfl
@[simp] theorem mmPutField_mx (s : State) (off hi lo v : Nat) : (mmPutField s off hi lo v).mx = s.mx := rfl
@[simp] theorem mmPutField_link (s : State) (off hi lo v : Nat) : (mmPutField s off hi lo v).link = s.link := rfl
@[simp] theorem mmPutField_cp (s : State) (off hi lo v : Nat) : (mmPutField s off hi lo v).cp = s.cp := rfl
@[simp] theorem mmPutField_dbg (s : State) (off hi lo v : Nat) : (mmPutField s off hi lo v).dbg = s.dbg := rfl
@[simp] theorem mmPutField_mgmt (s : State) (off hi lo v : Nat) : (mmPutField s off hi lo v).mgmt = s.mgmt := rfl
@[simp] theorem mmPutField_contained (s : State) (off hi lo v : Nat) : (mmPutField s off hi lo v).contained = s.contained := rfl
@[simp] theorem mmPutField_msix (s : State) (off hi lo v : Nat) : (mmPutField s off hi lo v).msix = s.msix := rfl
@[simp] theorem mmPutField_errMsgs (s : State) (off hi lo v : Nat) : (mmPutField s off hi lo v).errMsgs = s.errMsgs := rfl

@[simp] theorem mmCount_tick (s : State) (off n : Nat) : (mmCount s off n).tick = s.tick := rfl
@[simp] theorem mmCount_cc (s : State) (off n : Nat) : (mmCount s off n).cc = s.cc := rfl
@[simp] theorem mmCount_time (s : State) (off n : Nat) : (mmCount s off n).time = s.time := rfl
@[simp] theorem mmCount_turn (s : State) (off n : Nat) : (mmCount s off n).turn = s.turn := rfl
@[simp] theorem mmCount_inputs (s : State) (off n : Nat) : (mmCount s off n).inputs = s.inputs := rfl
@[simp] theorem mmCount_gang (s : State) (off n : Nat) : (mmCount s off n).gang = s.gang := rfl
@[simp] theorem mmCount_live (s : State) (off n : Nat) : (mmCount s off n).live = s.live := rfl
@[simp] theorem mmCount_others (s : State) (off n : Nat) : (mmCount s off n).others = s.others := rfl
@[simp] theorem mmCount_mem (s : State) (off n : Nat) : (mmCount s off n).mem = s.mem := rfl
@[simp] theorem mmCount_teams (s : State) (off n : Nat) : (mmCount s off n).teams = s.teams := rfl
@[simp] theorem mmCount_launches (s : State) (off n : Nat) : (mmCount s off n).launches = s.launches := rfl
@[simp] theorem mmCount_serial (s : State) (off n : Nat) : (mmCount s off n).serial = s.serial := rfl
@[simp] theorem mmCount_cfg (s : State) (off n : Nat) : (mmCount s off n).cfg = s.cfg := rfl
@[simp] theorem mmCount_dram (s : State) (off n : Nat) : (mmCount s off n).dram = s.dram := rfl
@[simp] theorem mmCount_tlb (s : State) (off n : Nat) : (mmCount s off n).tlb = s.tlb := rfl
@[simp] theorem mmCount_walk (s : State) (off n : Nat) : (mmCount s off n).walk = s.walk := rfl
@[simp] theorem mmCount_posts (s : State) (off n : Nat) : (mmCount s off n).posts = s.posts := rfl
@[simp] theorem mmCount_tagNext (s : State) (off n : Nat) : (mmCount s off n).tagNext = s.tagNext := rfl
@[simp] theorem mmCount_inval (s : State) (off n : Nat) : (mmCount s off n).inval = s.inval := rfl
@[simp] theorem mmCount_yo (s : State) (off n : Nat) : (mmCount s off n).yo = s.yo := rfl
@[simp] theorem mmCount_caches (s : State) (off n : Nat) : (mmCount s off n).caches = s.caches := rfl
@[simp] theorem mmCount_banks (s : State) (off n : Nat) : (mmCount s off n).banks = s.banks := rfl
@[simp] theorem mmCount_hints (s : State) (off n : Nat) : (mmCount s off n).hints = s.hints := rfl
@[simp] theorem mmCount_jobs (s : State) (off n : Nat) : (mmCount s off n).jobs = s.jobs := rfl
@[simp] theorem mmCount_deferred (s : State) (off n : Nat) : (mmCount s off n).deferred = s.deferred := rfl
@[simp] theorem mmCount_mx (s : State) (off n : Nat) : (mmCount s off n).mx = s.mx := rfl
@[simp] theorem mmCount_link (s : State) (off n : Nat) : (mmCount s off n).link = s.link := rfl
@[simp] theorem mmCount_cp (s : State) (off n : Nat) : (mmCount s off n).cp = s.cp := rfl
@[simp] theorem mmCount_dbg (s : State) (off n : Nat) : (mmCount s off n).dbg = s.dbg := rfl
@[simp] theorem mmCount_mgmt (s : State) (off n : Nat) : (mmCount s off n).mgmt = s.mgmt := rfl
@[simp] theorem mmCount_contained (s : State) (off n : Nat) : (mmCount s off n).contained = s.contained := rfl
@[simp] theorem mmCount_msix (s : State) (off n : Nat) : (mmCount s off n).msix = s.msix := rfl
@[simp] theorem mmCount_errMsgs (s : State) (off n : Nat) : (mmCount s off n).errMsgs = s.errMsgs := rfl

@[simp] theorem onLaunch_tick (s : State) (id : Nat) (f : Launch → Launch) : (onLaunch s id f).tick = s.tick := rfl
@[simp] theorem onLaunch_cc (s : State) (id : Nat) (f : Launch → Launch) : (onLaunch s id f).cc = s.cc := rfl
@[simp] theorem onLaunch_time (s : State) (id : Nat) (f : Launch → Launch) : (onLaunch s id f).time = s.time := rfl
@[simp] theorem onLaunch_turn (s : State) (id : Nat) (f : Launch → Launch) : (onLaunch s id f).turn = s.turn := rfl
@[simp] theorem onLaunch_inputs (s : State) (id : Nat) (f : Launch → Launch) : (onLaunch s id f).inputs = s.inputs := rfl
@[simp] theorem onLaunch_gang (s : State) (id : Nat) (f : Launch → Launch) : (onLaunch s id f).gang = s.gang := rfl
@[simp] theorem onLaunch_live (s : State) (id : Nat) (f : Launch → Launch) : (onLaunch s id f).live = s.live := rfl
@[simp] theorem onLaunch_others (s : State) (id : Nat) (f : Launch → Launch) : (onLaunch s id f).others = s.others := rfl
@[simp] theorem onLaunch_mem (s : State) (id : Nat) (f : Launch → Launch) : (onLaunch s id f).mem = s.mem := rfl
@[simp] theorem onLaunch_teams (s : State) (id : Nat) (f : Launch → Launch) : (onLaunch s id f).teams = s.teams := rfl
@[simp] theorem onLaunch_serial (s : State) (id : Nat) (f : Launch → Launch) : (onLaunch s id f).serial = s.serial := rfl
@[simp] theorem onLaunch_mmio (s : State) (id : Nat) (f : Launch → Launch) : (onLaunch s id f).mmio = s.mmio := rfl
@[simp] theorem onLaunch_cfg (s : State) (id : Nat) (f : Launch → Launch) : (onLaunch s id f).cfg = s.cfg := rfl
@[simp] theorem onLaunch_dram (s : State) (id : Nat) (f : Launch → Launch) : (onLaunch s id f).dram = s.dram := rfl
@[simp] theorem onLaunch_tlb (s : State) (id : Nat) (f : Launch → Launch) : (onLaunch s id f).tlb = s.tlb := rfl
@[simp] theorem onLaunch_walk (s : State) (id : Nat) (f : Launch → Launch) : (onLaunch s id f).walk = s.walk := rfl
@[simp] theorem onLaunch_posts (s : State) (id : Nat) (f : Launch → Launch) : (onLaunch s id f).posts = s.posts := rfl
@[simp] theorem onLaunch_tagNext (s : State) (id : Nat) (f : Launch → Launch) : (onLaunch s id f).tagNext = s.tagNext := rfl
@[simp] theorem onLaunch_inval (s : State) (id : Nat) (f : Launch → Launch) : (onLaunch s id f).inval = s.inval := rfl
@[simp] theorem onLaunch_yo (s : State) (id : Nat) (f : Launch → Launch) : (onLaunch s id f).yo = s.yo := rfl
@[simp] theorem onLaunch_caches (s : State) (id : Nat) (f : Launch → Launch) : (onLaunch s id f).caches = s.caches := rfl
@[simp] theorem onLaunch_banks (s : State) (id : Nat) (f : Launch → Launch) : (onLaunch s id f).banks = s.banks := rfl
@[simp] theorem onLaunch_hints (s : State) (id : Nat) (f : Launch → Launch) : (onLaunch s id f).hints = s.hints := rfl
@[simp] theorem onLaunch_jobs (s : State) (id : Nat) (f : Launch → Launch) : (onLaunch s id f).jobs = s.jobs := rfl
@[simp] theorem onLaunch_deferred (s : State) (id : Nat) (f : Launch → Launch) : (onLaunch s id f).deferred = s.deferred := rfl
@[simp] theorem onLaunch_mx (s : State) (id : Nat) (f : Launch → Launch) : (onLaunch s id f).mx = s.mx := rfl
@[simp] theorem onLaunch_link (s : State) (id : Nat) (f : Launch → Launch) : (onLaunch s id f).link = s.link := rfl
@[simp] theorem onLaunch_cp (s : State) (id : Nat) (f : Launch → Launch) : (onLaunch s id f).cp = s.cp := rfl
@[simp] theorem onLaunch_dbg (s : State) (id : Nat) (f : Launch → Launch) : (onLaunch s id f).dbg = s.dbg := rfl
@[simp] theorem onLaunch_mgmt (s : State) (id : Nat) (f : Launch → Launch) : (onLaunch s id f).mgmt = s.mgmt := rfl
@[simp] theorem onLaunch_contained (s : State) (id : Nat) (f : Launch → Launch) : (onLaunch s id f).contained = s.contained := rfl
@[simp] theorem onLaunch_msix (s : State) (id : Nat) (f : Launch → Launch) : (onLaunch s id f).msix = s.msix := rfl
@[simp] theorem onLaunch_errMsgs (s : State) (id : Nat) (f : Launch → Launch) : (onLaunch s id f).errMsgs = s.errMsgs := rfl

@[simp] theorem onTeam_tick (s : State) (id : Nat) (f : Team → Team) : (onTeam s id f).tick = s.tick := rfl
@[simp] theorem onTeam_cc (s : State) (id : Nat) (f : Team → Team) : (onTeam s id f).cc = s.cc := rfl
@[simp] theorem onTeam_time (s : State) (id : Nat) (f : Team → Team) : (onTeam s id f).time = s.time := rfl
@[simp] theorem onTeam_turn (s : State) (id : Nat) (f : Team → Team) : (onTeam s id f).turn = s.turn := rfl
@[simp] theorem onTeam_inputs (s : State) (id : Nat) (f : Team → Team) : (onTeam s id f).inputs = s.inputs := rfl
@[simp] theorem onTeam_gang (s : State) (id : Nat) (f : Team → Team) : (onTeam s id f).gang = s.gang := rfl
@[simp] theorem onTeam_live (s : State) (id : Nat) (f : Team → Team) : (onTeam s id f).live = s.live := rfl
@[simp] theorem onTeam_others (s : State) (id : Nat) (f : Team → Team) : (onTeam s id f).others = s.others := rfl
@[simp] theorem onTeam_mem (s : State) (id : Nat) (f : Team → Team) : (onTeam s id f).mem = s.mem := rfl
@[simp] theorem onTeam_launches (s : State) (id : Nat) (f : Team → Team) : (onTeam s id f).launches = s.launches := rfl
@[simp] theorem onTeam_serial (s : State) (id : Nat) (f : Team → Team) : (onTeam s id f).serial = s.serial := rfl
@[simp] theorem onTeam_mmio (s : State) (id : Nat) (f : Team → Team) : (onTeam s id f).mmio = s.mmio := rfl
@[simp] theorem onTeam_cfg (s : State) (id : Nat) (f : Team → Team) : (onTeam s id f).cfg = s.cfg := rfl
@[simp] theorem onTeam_dram (s : State) (id : Nat) (f : Team → Team) : (onTeam s id f).dram = s.dram := rfl
@[simp] theorem onTeam_tlb (s : State) (id : Nat) (f : Team → Team) : (onTeam s id f).tlb = s.tlb := rfl
@[simp] theorem onTeam_walk (s : State) (id : Nat) (f : Team → Team) : (onTeam s id f).walk = s.walk := rfl
@[simp] theorem onTeam_posts (s : State) (id : Nat) (f : Team → Team) : (onTeam s id f).posts = s.posts := rfl
@[simp] theorem onTeam_tagNext (s : State) (id : Nat) (f : Team → Team) : (onTeam s id f).tagNext = s.tagNext := rfl
@[simp] theorem onTeam_inval (s : State) (id : Nat) (f : Team → Team) : (onTeam s id f).inval = s.inval := rfl
@[simp] theorem onTeam_yo (s : State) (id : Nat) (f : Team → Team) : (onTeam s id f).yo = s.yo := rfl
@[simp] theorem onTeam_caches (s : State) (id : Nat) (f : Team → Team) : (onTeam s id f).caches = s.caches := rfl
@[simp] theorem onTeam_banks (s : State) (id : Nat) (f : Team → Team) : (onTeam s id f).banks = s.banks := rfl
@[simp] theorem onTeam_hints (s : State) (id : Nat) (f : Team → Team) : (onTeam s id f).hints = s.hints := rfl
@[simp] theorem onTeam_jobs (s : State) (id : Nat) (f : Team → Team) : (onTeam s id f).jobs = s.jobs := rfl
@[simp] theorem onTeam_deferred (s : State) (id : Nat) (f : Team → Team) : (onTeam s id f).deferred = s.deferred := rfl
@[simp] theorem onTeam_mx (s : State) (id : Nat) (f : Team → Team) : (onTeam s id f).mx = s.mx := rfl
@[simp] theorem onTeam_link (s : State) (id : Nat) (f : Team → Team) : (onTeam s id f).link = s.link := rfl
@[simp] theorem onTeam_cp (s : State) (id : Nat) (f : Team → Team) : (onTeam s id f).cp = s.cp := rfl
@[simp] theorem onTeam_dbg (s : State) (id : Nat) (f : Team → Team) : (onTeam s id f).dbg = s.dbg := rfl
@[simp] theorem onTeam_mgmt (s : State) (id : Nat) (f : Team → Team) : (onTeam s id f).mgmt = s.mgmt := rfl
@[simp] theorem onTeam_contained (s : State) (id : Nat) (f : Team → Team) : (onTeam s id f).contained = s.contained := rfl
@[simp] theorem onTeam_msix (s : State) (id : Nat) (f : Team → Team) : (onTeam s id f).msix = s.msix := rfl
@[simp] theorem onTeam_errMsgs (s : State) (id : Nat) (f : Team → Team) : (onTeam s id f).errMsgs = s.errMsgs := rfl

@[simp] theorem setJigsaw_tick (s : State) (ls : List JLine) : (setJigsaw s ls).tick = s.tick := rfl
@[simp] theorem setJigsaw_cc (s : State) (ls : List JLine) : (setJigsaw s ls).cc = s.cc := rfl
@[simp] theorem setJigsaw_time (s : State) (ls : List JLine) : (setJigsaw s ls).time = s.time := rfl
@[simp] theorem setJigsaw_turn (s : State) (ls : List JLine) : (setJigsaw s ls).turn = s.turn := rfl
@[simp] theorem setJigsaw_inputs (s : State) (ls : List JLine) : (setJigsaw s ls).inputs = s.inputs := rfl
@[simp] theorem setJigsaw_gang (s : State) (ls : List JLine) : (setJigsaw s ls).gang = s.gang := rfl
@[simp] theorem setJigsaw_live (s : State) (ls : List JLine) : (setJigsaw s ls).live = s.live := rfl
@[simp] theorem setJigsaw_others (s : State) (ls : List JLine) : (setJigsaw s ls).others = s.others := rfl
@[simp] theorem setJigsaw_mem (s : State) (ls : List JLine) : (setJigsaw s ls).mem = s.mem := rfl
@[simp] theorem setJigsaw_teams (s : State) (ls : List JLine) : (setJigsaw s ls).teams = s.teams := rfl
@[simp] theorem setJigsaw_launches (s : State) (ls : List JLine) : (setJigsaw s ls).launches = s.launches := rfl
@[simp] theorem setJigsaw_serial (s : State) (ls : List JLine) : (setJigsaw s ls).serial = s.serial := rfl
@[simp] theorem setJigsaw_mmio (s : State) (ls : List JLine) : (setJigsaw s ls).mmio = s.mmio := rfl
@[simp] theorem setJigsaw_cfg (s : State) (ls : List JLine) : (setJigsaw s ls).cfg = s.cfg := rfl
@[simp] theorem setJigsaw_dram (s : State) (ls : List JLine) : (setJigsaw s ls).dram = s.dram := rfl
@[simp] theorem setJigsaw_tlb (s : State) (ls : List JLine) : (setJigsaw s ls).tlb = s.tlb := rfl
@[simp] theorem setJigsaw_walk (s : State) (ls : List JLine) : (setJigsaw s ls).walk = s.walk := rfl
@[simp] theorem setJigsaw_posts (s : State) (ls : List JLine) : (setJigsaw s ls).posts = s.posts := rfl
@[simp] theorem setJigsaw_tagNext (s : State) (ls : List JLine) : (setJigsaw s ls).tagNext = s.tagNext := rfl
@[simp] theorem setJigsaw_inval (s : State) (ls : List JLine) : (setJigsaw s ls).inval = s.inval := rfl
@[simp] theorem setJigsaw_yo (s : State) (ls : List JLine) : (setJigsaw s ls).yo = s.yo := rfl
@[simp] theorem setJigsaw_banks (s : State) (ls : List JLine) : (setJigsaw s ls).banks = s.banks := rfl
@[simp] theorem setJigsaw_hints (s : State) (ls : List JLine) : (setJigsaw s ls).hints = s.hints := rfl
@[simp] theorem setJigsaw_jobs (s : State) (ls : List JLine) : (setJigsaw s ls).jobs = s.jobs := rfl
@[simp] theorem setJigsaw_deferred (s : State) (ls : List JLine) : (setJigsaw s ls).deferred = s.deferred := rfl
@[simp] theorem setJigsaw_mx (s : State) (ls : List JLine) : (setJigsaw s ls).mx = s.mx := rfl
@[simp] theorem setJigsaw_link (s : State) (ls : List JLine) : (setJigsaw s ls).link = s.link := rfl
@[simp] theorem setJigsaw_cp (s : State) (ls : List JLine) : (setJigsaw s ls).cp = s.cp := rfl
@[simp] theorem setJigsaw_dbg (s : State) (ls : List JLine) : (setJigsaw s ls).dbg = s.dbg := rfl
@[simp] theorem setJigsaw_mgmt (s : State) (ls : List JLine) : (setJigsaw s ls).mgmt = s.mgmt := rfl
@[simp] theorem setJigsaw_contained (s : State) (ls : List JLine) : (setJigsaw s ls).contained = s.contained := rfl
@[simp] theorem setJigsaw_msix (s : State) (ls : List JLine) : (setJigsaw s ls).msix = s.msix := rfl
@[simp] theorem setJigsaw_errMsgs (s : State) (ls : List JLine) : (setJigsaw s ls).errMsgs = s.errMsgs := rfl

@[simp] theorem onJob_tick (s : State) (n : Nat) (f : Job → Job) : (onJob s n f).tick = s.tick := rfl
@[simp] theorem onJob_cc (s : State) (n : Nat) (f : Job → Job) : (onJob s n f).cc = s.cc := rfl
@[simp] theorem onJob_time (s : State) (n : Nat) (f : Job → Job) : (onJob s n f).time = s.time := rfl
@[simp] theorem onJob_turn (s : State) (n : Nat) (f : Job → Job) : (onJob s n f).turn = s.turn := rfl
@[simp] theorem onJob_inputs (s : State) (n : Nat) (f : Job → Job) : (onJob s n f).inputs = s.inputs := rfl
@[simp] theorem onJob_gang (s : State) (n : Nat) (f : Job → Job) : (onJob s n f).gang = s.gang := rfl
@[simp] theorem onJob_live (s : State) (n : Nat) (f : Job → Job) : (onJob s n f).live = s.live := rfl
@[simp] theorem onJob_others (s : State) (n : Nat) (f : Job → Job) : (onJob s n f).others = s.others := rfl
@[simp] theorem onJob_mem (s : State) (n : Nat) (f : Job → Job) : (onJob s n f).mem = s.mem := rfl
@[simp] theorem onJob_teams (s : State) (n : Nat) (f : Job → Job) : (onJob s n f).teams = s.teams := rfl
@[simp] theorem onJob_launches (s : State) (n : Nat) (f : Job → Job) : (onJob s n f).launches = s.launches := rfl
@[simp] theorem onJob_serial (s : State) (n : Nat) (f : Job → Job) : (onJob s n f).serial = s.serial := rfl
@[simp] theorem onJob_mmio (s : State) (n : Nat) (f : Job → Job) : (onJob s n f).mmio = s.mmio := rfl
@[simp] theorem onJob_cfg (s : State) (n : Nat) (f : Job → Job) : (onJob s n f).cfg = s.cfg := rfl
@[simp] theorem onJob_dram (s : State) (n : Nat) (f : Job → Job) : (onJob s n f).dram = s.dram := rfl
@[simp] theorem onJob_tlb (s : State) (n : Nat) (f : Job → Job) : (onJob s n f).tlb = s.tlb := rfl
@[simp] theorem onJob_walk (s : State) (n : Nat) (f : Job → Job) : (onJob s n f).walk = s.walk := rfl
@[simp] theorem onJob_posts (s : State) (n : Nat) (f : Job → Job) : (onJob s n f).posts = s.posts := rfl
@[simp] theorem onJob_tagNext (s : State) (n : Nat) (f : Job → Job) : (onJob s n f).tagNext = s.tagNext := rfl
@[simp] theorem onJob_inval (s : State) (n : Nat) (f : Job → Job) : (onJob s n f).inval = s.inval := rfl
@[simp] theorem onJob_yo (s : State) (n : Nat) (f : Job → Job) : (onJob s n f).yo = s.yo := rfl
@[simp] theorem onJob_caches (s : State) (n : Nat) (f : Job → Job) : (onJob s n f).caches = s.caches := rfl
@[simp] theorem onJob_banks (s : State) (n : Nat) (f : Job → Job) : (onJob s n f).banks = s.banks := rfl
@[simp] theorem onJob_hints (s : State) (n : Nat) (f : Job → Job) : (onJob s n f).hints = s.hints := rfl
@[simp] theorem onJob_deferred (s : State) (n : Nat) (f : Job → Job) : (onJob s n f).deferred = s.deferred := rfl
@[simp] theorem onJob_mx (s : State) (n : Nat) (f : Job → Job) : (onJob s n f).mx = s.mx := rfl
@[simp] theorem onJob_link (s : State) (n : Nat) (f : Job → Job) : (onJob s n f).link = s.link := rfl
@[simp] theorem onJob_cp (s : State) (n : Nat) (f : Job → Job) : (onJob s n f).cp = s.cp := rfl
@[simp] theorem onJob_dbg (s : State) (n : Nat) (f : Job → Job) : (onJob s n f).dbg = s.dbg := rfl
@[simp] theorem onJob_mgmt (s : State) (n : Nat) (f : Job → Job) : (onJob s n f).mgmt = s.mgmt := rfl
@[simp] theorem onJob_contained (s : State) (n : Nat) (f : Job → Job) : (onJob s n f).contained = s.contained := rfl
@[simp] theorem onJob_msix (s : State) (n : Nat) (f : Job → Job) : (onJob s n f).msix = s.msix := rfl
@[simp] theorem onJob_errMsgs (s : State) (n : Nat) (f : Job → Job) : (onJob s n f).errMsgs = s.errMsgs := rfl

@[simp] theorem onLink_tick (s : State) (f : Link → Link) : (onLink s f).tick = s.tick := rfl
@[simp] theorem onLink_cc (s : State) (f : Link → Link) : (onLink s f).cc = s.cc := rfl
@[simp] theorem onLink_time (s : State) (f : Link → Link) : (onLink s f).time = s.time := rfl
@[simp] theorem onLink_turn (s : State) (f : Link → Link) : (onLink s f).turn = s.turn := rfl
@[simp] theorem onLink_inputs (s : State) (f : Link → Link) : (onLink s f).inputs = s.inputs := rfl
@[simp] theorem onLink_gang (s : State) (f : Link → Link) : (onLink s f).gang = s.gang := rfl
@[simp] theorem onLink_live (s : State) (f : Link → Link) : (onLink s f).live = s.live := rfl
@[simp] theorem onLink_others (s : State) (f : Link → Link) : (onLink s f).others = s.others := rfl
@[simp] theorem onLink_mem (s : State) (f : Link → Link) : (onLink s f).mem = s.mem := rfl
@[simp] theorem onLink_teams (s : State) (f : Link → Link) : (onLink s f).teams = s.teams := rfl
@[simp] theorem onLink_launches (s : State) (f : Link → Link) : (onLink s f).launches = s.launches := rfl
@[simp] theorem onLink_serial (s : State) (f : Link → Link) : (onLink s f).serial = s.serial := rfl
@[simp] theorem onLink_mmio (s : State) (f : Link → Link) : (onLink s f).mmio = s.mmio := rfl
@[simp] theorem onLink_cfg (s : State) (f : Link → Link) : (onLink s f).cfg = s.cfg := rfl
@[simp] theorem onLink_dram (s : State) (f : Link → Link) : (onLink s f).dram = s.dram := rfl
@[simp] theorem onLink_tlb (s : State) (f : Link → Link) : (onLink s f).tlb = s.tlb := rfl
@[simp] theorem onLink_walk (s : State) (f : Link → Link) : (onLink s f).walk = s.walk := rfl
@[simp] theorem onLink_posts (s : State) (f : Link → Link) : (onLink s f).posts = s.posts := rfl
@[simp] theorem onLink_tagNext (s : State) (f : Link → Link) : (onLink s f).tagNext = s.tagNext := rfl
@[simp] theorem onLink_inval (s : State) (f : Link → Link) : (onLink s f).inval = s.inval := rfl
@[simp] theorem onLink_yo (s : State) (f : Link → Link) : (onLink s f).yo = s.yo := rfl
@[simp] theorem onLink_caches (s : State) (f : Link → Link) : (onLink s f).caches = s.caches := rfl
@[simp] theorem onLink_banks (s : State) (f : Link → Link) : (onLink s f).banks = s.banks := rfl
@[simp] theorem onLink_hints (s : State) (f : Link → Link) : (onLink s f).hints = s.hints := rfl
@[simp] theorem onLink_jobs (s : State) (f : Link → Link) : (onLink s f).jobs = s.jobs := rfl
@[simp] theorem onLink_deferred (s : State) (f : Link → Link) : (onLink s f).deferred = s.deferred := rfl
@[simp] theorem onLink_mx (s : State) (f : Link → Link) : (onLink s f).mx = s.mx := rfl
@[simp] theorem onLink_cp (s : State) (f : Link → Link) : (onLink s f).cp = s.cp := rfl
@[simp] theorem onLink_dbg (s : State) (f : Link → Link) : (onLink s f).dbg = s.dbg := rfl
@[simp] theorem onLink_mgmt (s : State) (f : Link → Link) : (onLink s f).mgmt = s.mgmt := rfl
@[simp] theorem onLink_contained (s : State) (f : Link → Link) : (onLink s f).contained = s.contained := rfl
@[simp] theorem onLink_msix (s : State) (f : Link → Link) : (onLink s f).msix = s.msix := rfl
@[simp] theorem onLink_errMsgs (s : State) (f : Link → Link) : (onLink s f).errMsgs = s.errMsgs := rfl

@[simp] theorem onMx_tick (s : State) (f : Mx → Mx) : (onMx s f).tick = s.tick := rfl
@[simp] theorem onMx_cc (s : State) (f : Mx → Mx) : (onMx s f).cc = s.cc := rfl
@[simp] theorem onMx_time (s : State) (f : Mx → Mx) : (onMx s f).time = s.time := rfl
@[simp] theorem onMx_turn (s : State) (f : Mx → Mx) : (onMx s f).turn = s.turn := rfl
@[simp] theorem onMx_inputs (s : State) (f : Mx → Mx) : (onMx s f).inputs = s.inputs := rfl
@[simp] theorem onMx_gang (s : State) (f : Mx → Mx) : (onMx s f).gang = s.gang := rfl
@[simp] theorem onMx_live (s : State) (f : Mx → Mx) : (onMx s f).live = s.live := rfl
@[simp] theorem onMx_others (s : State) (f : Mx → Mx) : (onMx s f).others = s.others := rfl
@[simp] theorem onMx_mem (s : State) (f : Mx → Mx) : (onMx s f).mem = s.mem := rfl
@[simp] theorem onMx_teams (s : State) (f : Mx → Mx) : (onMx s f).teams = s.teams := rfl
@[simp] theorem onMx_launches (s : State) (f : Mx → Mx) : (onMx s f).launches = s.launches := rfl
@[simp] theorem onMx_serial (s : State) (f : Mx → Mx) : (onMx s f).serial = s.serial := rfl
@[simp] theorem onMx_mmio (s : State) (f : Mx → Mx) : (onMx s f).mmio = s.mmio := rfl
@[simp] theorem onMx_cfg (s : State) (f : Mx → Mx) : (onMx s f).cfg = s.cfg := rfl
@[simp] theorem onMx_dram (s : State) (f : Mx → Mx) : (onMx s f).dram = s.dram := rfl
@[simp] theorem onMx_tlb (s : State) (f : Mx → Mx) : (onMx s f).tlb = s.tlb := rfl
@[simp] theorem onMx_walk (s : State) (f : Mx → Mx) : (onMx s f).walk = s.walk := rfl
@[simp] theorem onMx_posts (s : State) (f : Mx → Mx) : (onMx s f).posts = s.posts := rfl
@[simp] theorem onMx_tagNext (s : State) (f : Mx → Mx) : (onMx s f).tagNext = s.tagNext := rfl
@[simp] theorem onMx_inval (s : State) (f : Mx → Mx) : (onMx s f).inval = s.inval := rfl
@[simp] theorem onMx_yo (s : State) (f : Mx → Mx) : (onMx s f).yo = s.yo := rfl
@[simp] theorem onMx_caches (s : State) (f : Mx → Mx) : (onMx s f).caches = s.caches := rfl
@[simp] theorem onMx_banks (s : State) (f : Mx → Mx) : (onMx s f).banks = s.banks := rfl
@[simp] theorem onMx_hints (s : State) (f : Mx → Mx) : (onMx s f).hints = s.hints := rfl
@[simp] theorem onMx_jobs (s : State) (f : Mx → Mx) : (onMx s f).jobs = s.jobs := rfl
@[simp] theorem onMx_deferred (s : State) (f : Mx → Mx) : (onMx s f).deferred = s.deferred := rfl
@[simp] theorem onMx_link (s : State) (f : Mx → Mx) : (onMx s f).link = s.link := rfl
@[simp] theorem onMx_cp (s : State) (f : Mx → Mx) : (onMx s f).cp = s.cp := rfl
@[simp] theorem onMx_dbg (s : State) (f : Mx → Mx) : (onMx s f).dbg = s.dbg := rfl
@[simp] theorem onMx_mgmt (s : State) (f : Mx → Mx) : (onMx s f).mgmt = s.mgmt := rfl
@[simp] theorem onMx_contained (s : State) (f : Mx → Mx) : (onMx s f).contained = s.contained := rfl
@[simp] theorem onMx_msix (s : State) (f : Mx → Mx) : (onMx s f).msix = s.msix := rfl
@[simp] theorem onMx_errMsgs (s : State) (f : Mx → Mx) : (onMx s f).errMsgs = s.errMsgs := rfl

@[simp] theorem onDram_tick (s : State) (f : Dram → Dram) : (onDram s f).tick = s.tick := rfl
@[simp] theorem onDram_cc (s : State) (f : Dram → Dram) : (onDram s f).cc = s.cc := rfl
@[simp] theorem onDram_time (s : State) (f : Dram → Dram) : (onDram s f).time = s.time := rfl
@[simp] theorem onDram_turn (s : State) (f : Dram → Dram) : (onDram s f).turn = s.turn := rfl
@[simp] theorem onDram_inputs (s : State) (f : Dram → Dram) : (onDram s f).inputs = s.inputs := rfl
@[simp] theorem onDram_gang (s : State) (f : Dram → Dram) : (onDram s f).gang = s.gang := rfl
@[simp] theorem onDram_live (s : State) (f : Dram → Dram) : (onDram s f).live = s.live := rfl
@[simp] theorem onDram_others (s : State) (f : Dram → Dram) : (onDram s f).others = s.others := rfl
@[simp] theorem onDram_mem (s : State) (f : Dram → Dram) : (onDram s f).mem = s.mem := rfl
@[simp] theorem onDram_teams (s : State) (f : Dram → Dram) : (onDram s f).teams = s.teams := rfl
@[simp] theorem onDram_launches (s : State) (f : Dram → Dram) : (onDram s f).launches = s.launches := rfl
@[simp] theorem onDram_serial (s : State) (f : Dram → Dram) : (onDram s f).serial = s.serial := rfl
@[simp] theorem onDram_mmio (s : State) (f : Dram → Dram) : (onDram s f).mmio = s.mmio := rfl
@[simp] theorem onDram_cfg (s : State) (f : Dram → Dram) : (onDram s f).cfg = s.cfg := rfl
@[simp] theorem onDram_tlb (s : State) (f : Dram → Dram) : (onDram s f).tlb = s.tlb := rfl
@[simp] theorem onDram_walk (s : State) (f : Dram → Dram) : (onDram s f).walk = s.walk := rfl
@[simp] theorem onDram_posts (s : State) (f : Dram → Dram) : (onDram s f).posts = s.posts := rfl
@[simp] theorem onDram_tagNext (s : State) (f : Dram → Dram) : (onDram s f).tagNext = s.tagNext := rfl
@[simp] theorem onDram_inval (s : State) (f : Dram → Dram) : (onDram s f).inval = s.inval := rfl
@[simp] theorem onDram_yo (s : State) (f : Dram → Dram) : (onDram s f).yo = s.yo := rfl
@[simp] theorem onDram_caches (s : State) (f : Dram → Dram) : (onDram s f).caches = s.caches := rfl
@[simp] theorem onDram_banks (s : State) (f : Dram → Dram) : (onDram s f).banks = s.banks := rfl
@[simp] theorem onDram_hints (s : State) (f : Dram → Dram) : (onDram s f).hints = s.hints := rfl
@[simp] theorem onDram_jobs (s : State) (f : Dram → Dram) : (onDram s f).jobs = s.jobs := rfl
@[simp] theorem onDram_deferred (s : State) (f : Dram → Dram) : (onDram s f).deferred = s.deferred := rfl
@[simp] theorem onDram_mx (s : State) (f : Dram → Dram) : (onDram s f).mx = s.mx := rfl
@[simp] theorem onDram_link (s : State) (f : Dram → Dram) : (onDram s f).link = s.link := rfl
@[simp] theorem onDram_cp (s : State) (f : Dram → Dram) : (onDram s f).cp = s.cp := rfl
@[simp] theorem onDram_dbg (s : State) (f : Dram → Dram) : (onDram s f).dbg = s.dbg := rfl
@[simp] theorem onDram_mgmt (s : State) (f : Dram → Dram) : (onDram s f).mgmt = s.mgmt := rfl
@[simp] theorem onDram_contained (s : State) (f : Dram → Dram) : (onDram s f).contained = s.contained := rfl
@[simp] theorem onDram_msix (s : State) (f : Dram → Dram) : (onDram s f).msix = s.msix := rfl
@[simp] theorem onDram_errMsgs (s : State) (f : Dram → Dram) : (onDram s f).errMsgs = s.errMsgs := rfl

@[simp] theorem onYo_tick (s : State) (f : Yoyo → Yoyo) : (onYo s f).tick = s.tick := rfl
@[simp] theorem onYo_cc (s : State) (f : Yoyo → Yoyo) : (onYo s f).cc = s.cc := rfl
@[simp] theorem onYo_time (s : State) (f : Yoyo → Yoyo) : (onYo s f).time = s.time := rfl
@[simp] theorem onYo_turn (s : State) (f : Yoyo → Yoyo) : (onYo s f).turn = s.turn := rfl
@[simp] theorem onYo_inputs (s : State) (f : Yoyo → Yoyo) : (onYo s f).inputs = s.inputs := rfl
@[simp] theorem onYo_gang (s : State) (f : Yoyo → Yoyo) : (onYo s f).gang = s.gang := rfl
@[simp] theorem onYo_live (s : State) (f : Yoyo → Yoyo) : (onYo s f).live = s.live := rfl
@[simp] theorem onYo_others (s : State) (f : Yoyo → Yoyo) : (onYo s f).others = s.others := rfl
@[simp] theorem onYo_mem (s : State) (f : Yoyo → Yoyo) : (onYo s f).mem = s.mem := rfl
@[simp] theorem onYo_teams (s : State) (f : Yoyo → Yoyo) : (onYo s f).teams = s.teams := rfl
@[simp] theorem onYo_launches (s : State) (f : Yoyo → Yoyo) : (onYo s f).launches = s.launches := rfl
@[simp] theorem onYo_serial (s : State) (f : Yoyo → Yoyo) : (onYo s f).serial = s.serial := rfl
@[simp] theorem onYo_mmio (s : State) (f : Yoyo → Yoyo) : (onYo s f).mmio = s.mmio := rfl
@[simp] theorem onYo_cfg (s : State) (f : Yoyo → Yoyo) : (onYo s f).cfg = s.cfg := rfl
@[simp] theorem onYo_dram (s : State) (f : Yoyo → Yoyo) : (onYo s f).dram = s.dram := rfl
@[simp] theorem onYo_tlb (s : State) (f : Yoyo → Yoyo) : (onYo s f).tlb = s.tlb := rfl
@[simp] theorem onYo_walk (s : State) (f : Yoyo → Yoyo) : (onYo s f).walk = s.walk := rfl
@[simp] theorem onYo_posts (s : State) (f : Yoyo → Yoyo) : (onYo s f).posts = s.posts := rfl
@[simp] theorem onYo_tagNext (s : State) (f : Yoyo → Yoyo) : (onYo s f).tagNext = s.tagNext := rfl
@[simp] theorem onYo_inval (s : State) (f : Yoyo → Yoyo) : (onYo s f).inval = s.inval := rfl
@[simp] theorem onYo_caches (s : State) (f : Yoyo → Yoyo) : (onYo s f).caches = s.caches := rfl
@[simp] theorem onYo_banks (s : State) (f : Yoyo → Yoyo) : (onYo s f).banks = s.banks := rfl
@[simp] theorem onYo_hints (s : State) (f : Yoyo → Yoyo) : (onYo s f).hints = s.hints := rfl
@[simp] theorem onYo_jobs (s : State) (f : Yoyo → Yoyo) : (onYo s f).jobs = s.jobs := rfl
@[simp] theorem onYo_deferred (s : State) (f : Yoyo → Yoyo) : (onYo s f).deferred = s.deferred := rfl
@[simp] theorem onYo_mx (s : State) (f : Yoyo → Yoyo) : (onYo s f).mx = s.mx := rfl
@[simp] theorem onYo_link (s : State) (f : Yoyo → Yoyo) : (onYo s f).link = s.link := rfl
@[simp] theorem onYo_cp (s : State) (f : Yoyo → Yoyo) : (onYo s f).cp = s.cp := rfl
@[simp] theorem onYo_dbg (s : State) (f : Yoyo → Yoyo) : (onYo s f).dbg = s.dbg := rfl
@[simp] theorem onYo_mgmt (s : State) (f : Yoyo → Yoyo) : (onYo s f).mgmt = s.mgmt := rfl
@[simp] theorem onYo_contained (s : State) (f : Yoyo → Yoyo) : (onYo s f).contained = s.contained := rfl
@[simp] theorem onYo_msix (s : State) (f : Yoyo → Yoyo) : (onYo s f).msix = s.msix := rfl
@[simp] theorem onYo_errMsgs (s : State) (f : Yoyo → Yoyo) : (onYo s f).errMsgs = s.errMsgs := rfl

@[simp] theorem setL1_tick (s : State) (ls : List L1Line) : (setL1 s ls).tick = s.tick := rfl
@[simp] theorem setL1_cc (s : State) (ls : List L1Line) : (setL1 s ls).cc = s.cc := rfl
@[simp] theorem setL1_time (s : State) (ls : List L1Line) : (setL1 s ls).time = s.time := rfl
@[simp] theorem setL1_turn (s : State) (ls : List L1Line) : (setL1 s ls).turn = s.turn := rfl
@[simp] theorem setL1_inputs (s : State) (ls : List L1Line) : (setL1 s ls).inputs = s.inputs := rfl
@[simp] theorem setL1_gang (s : State) (ls : List L1Line) : (setL1 s ls).gang = s.gang := rfl
@[simp] theorem setL1_live (s : State) (ls : List L1Line) : (setL1 s ls).live = s.live := rfl
@[simp] theorem setL1_others (s : State) (ls : List L1Line) : (setL1 s ls).others = s.others := rfl
@[simp] theorem setL1_mem (s : State) (ls : List L1Line) : (setL1 s ls).mem = s.mem := rfl
@[simp] theorem setL1_teams (s : State) (ls : List L1Line) : (setL1 s ls).teams = s.teams := rfl
@[simp] theorem setL1_launches (s : State) (ls : List L1Line) : (setL1 s ls).launches = s.launches := rfl
@[simp] theorem setL1_serial (s : State) (ls : List L1Line) : (setL1 s ls).serial = s.serial := rfl
@[simp] theorem setL1_mmio (s : State) (ls : List L1Line) : (setL1 s ls).mmio = s.mmio := rfl
@[simp] theorem setL1_cfg (s : State) (ls : List L1Line) : (setL1 s ls).cfg = s.cfg := rfl
@[simp] theorem setL1_dram (s : State) (ls : List L1Line) : (setL1 s ls).dram = s.dram := rfl
@[simp] theorem setL1_tlb (s : State) (ls : List L1Line) : (setL1 s ls).tlb = s.tlb := rfl
@[simp] theorem setL1_walk (s : State) (ls : List L1Line) : (setL1 s ls).walk = s.walk := rfl
@[simp] theorem setL1_posts (s : State) (ls : List L1Line) : (setL1 s ls).posts = s.posts := rfl
@[simp] theorem setL1_tagNext (s : State) (ls : List L1Line) : (setL1 s ls).tagNext = s.tagNext := rfl
@[simp] theorem setL1_inval (s : State) (ls : List L1Line) : (setL1 s ls).inval = s.inval := rfl
@[simp] theorem setL1_yo (s : State) (ls : List L1Line) : (setL1 s ls).yo = s.yo := rfl
@[simp] theorem setL1_banks (s : State) (ls : List L1Line) : (setL1 s ls).banks = s.banks := rfl
@[simp] theorem setL1_hints (s : State) (ls : List L1Line) : (setL1 s ls).hints = s.hints := rfl
@[simp] theorem setL1_jobs (s : State) (ls : List L1Line) : (setL1 s ls).jobs = s.jobs := rfl
@[simp] theorem setL1_deferred (s : State) (ls : List L1Line) : (setL1 s ls).deferred = s.deferred := rfl
@[simp] theorem setL1_mx (s : State) (ls : List L1Line) : (setL1 s ls).mx = s.mx := rfl
@[simp] theorem setL1_link (s : State) (ls : List L1Line) : (setL1 s ls).link = s.link := rfl
@[simp] theorem setL1_cp (s : State) (ls : List L1Line) : (setL1 s ls).cp = s.cp := rfl
@[simp] theorem setL1_dbg (s : State) (ls : List L1Line) : (setL1 s ls).dbg = s.dbg := rfl
@[simp] theorem setL1_mgmt (s : State) (ls : List L1Line) : (setL1 s ls).mgmt = s.mgmt := rfl
@[simp] theorem setL1_contained (s : State) (ls : List L1Line) : (setL1 s ls).contained = s.contained := rfl
@[simp] theorem setL1_msix (s : State) (ls : List L1Line) : (setL1 s ls).msix = s.msix := rfl
@[simp] theorem setL1_errMsgs (s : State) (ls : List L1Line) : (setL1 s ls).errMsgs = s.errMsgs := rfl

@[simp] theorem putStamp_tick (s : State) (t : Stamp) : (putStamp s t).tick = s.tick := rfl
@[simp] theorem putStamp_cc (s : State) (t : Stamp) : (putStamp s t).cc = s.cc := rfl
@[simp] theorem putStamp_time (s : State) (t : Stamp) : (putStamp s t).time = s.time := rfl
@[simp] theorem putStamp_turn (s : State) (t : Stamp) : (putStamp s t).turn = s.turn := rfl
@[simp] theorem putStamp_inputs (s : State) (t : Stamp) : (putStamp s t).inputs = s.inputs := rfl
@[simp] theorem putStamp_gang (s : State) (t : Stamp) : (putStamp s t).gang = s.gang := rfl
@[simp] theorem putStamp_live (s : State) (t : Stamp) : (putStamp s t).live = s.live := rfl
@[simp] theorem putStamp_others (s : State) (t : Stamp) : (putStamp s t).others = s.others := rfl
@[simp] theorem putStamp_mem (s : State) (t : Stamp) : (putStamp s t).mem = s.mem := rfl
@[simp] theorem putStamp_teams (s : State) (t : Stamp) : (putStamp s t).teams = s.teams := rfl
@[simp] theorem putStamp_launches (s : State) (t : Stamp) : (putStamp s t).launches = s.launches := rfl
@[simp] theorem putStamp_serial (s : State) (t : Stamp) : (putStamp s t).serial = s.serial := rfl
@[simp] theorem putStamp_mmio (s : State) (t : Stamp) : (putStamp s t).mmio = s.mmio := rfl
@[simp] theorem putStamp_cfg (s : State) (t : Stamp) : (putStamp s t).cfg = s.cfg := rfl
@[simp] theorem putStamp_dram (s : State) (t : Stamp) : (putStamp s t).dram = s.dram := rfl
@[simp] theorem putStamp_tlb (s : State) (t : Stamp) : (putStamp s t).tlb = s.tlb := rfl
@[simp] theorem putStamp_walk (s : State) (t : Stamp) : (putStamp s t).walk = s.walk := rfl
@[simp] theorem putStamp_posts (s : State) (t : Stamp) : (putStamp s t).posts = s.posts := rfl
@[simp] theorem putStamp_tagNext (s : State) (t : Stamp) : (putStamp s t).tagNext = s.tagNext := rfl
@[simp] theorem putStamp_inval (s : State) (t : Stamp) : (putStamp s t).inval = s.inval := rfl
@[simp] theorem putStamp_yo (s : State) (t : Stamp) : (putStamp s t).yo = s.yo := rfl
@[simp] theorem putStamp_banks (s : State) (t : Stamp) : (putStamp s t).banks = s.banks := rfl
@[simp] theorem putStamp_hints (s : State) (t : Stamp) : (putStamp s t).hints = s.hints := rfl
@[simp] theorem putStamp_jobs (s : State) (t : Stamp) : (putStamp s t).jobs = s.jobs := rfl
@[simp] theorem putStamp_deferred (s : State) (t : Stamp) : (putStamp s t).deferred = s.deferred := rfl
@[simp] theorem putStamp_mx (s : State) (t : Stamp) : (putStamp s t).mx = s.mx := rfl
@[simp] theorem putStamp_link (s : State) (t : Stamp) : (putStamp s t).link = s.link := rfl
@[simp] theorem putStamp_cp (s : State) (t : Stamp) : (putStamp s t).cp = s.cp := rfl
@[simp] theorem putStamp_dbg (s : State) (t : Stamp) : (putStamp s t).dbg = s.dbg := rfl
@[simp] theorem putStamp_mgmt (s : State) (t : Stamp) : (putStamp s t).mgmt = s.mgmt := rfl
@[simp] theorem putStamp_contained (s : State) (t : Stamp) : (putStamp s t).contained = s.contained := rfl
@[simp] theorem putStamp_msix (s : State) (t : Stamp) : (putStamp s t).msix = s.msix := rfl
@[simp] theorem putStamp_errMsgs (s : State) (t : Stamp) : (putStamp s t).errMsgs = s.errMsgs := rfl

@[simp] theorem putMove_tick (s : State) (m : Move) : (putMove s m).tick = s.tick := rfl
@[simp] theorem putMove_cc (s : State) (m : Move) : (putMove s m).cc = s.cc := rfl
@[simp] theorem putMove_time (s : State) (m : Move) : (putMove s m).time = s.time := rfl
@[simp] theorem putMove_turn (s : State) (m : Move) : (putMove s m).turn = s.turn := rfl
@[simp] theorem putMove_inputs (s : State) (m : Move) : (putMove s m).inputs = s.inputs := rfl
@[simp] theorem putMove_gang (s : State) (m : Move) : (putMove s m).gang = s.gang := rfl
@[simp] theorem putMove_live (s : State) (m : Move) : (putMove s m).live = s.live := rfl
@[simp] theorem putMove_others (s : State) (m : Move) : (putMove s m).others = s.others := rfl
@[simp] theorem putMove_mem (s : State) (m : Move) : (putMove s m).mem = s.mem := rfl
@[simp] theorem putMove_teams (s : State) (m : Move) : (putMove s m).teams = s.teams := rfl
@[simp] theorem putMove_launches (s : State) (m : Move) : (putMove s m).launches = s.launches := rfl
@[simp] theorem putMove_serial (s : State) (m : Move) : (putMove s m).serial = s.serial := rfl
@[simp] theorem putMove_mmio (s : State) (m : Move) : (putMove s m).mmio = s.mmio := rfl
@[simp] theorem putMove_cfg (s : State) (m : Move) : (putMove s m).cfg = s.cfg := rfl
@[simp] theorem putMove_dram (s : State) (m : Move) : (putMove s m).dram = s.dram := rfl
@[simp] theorem putMove_tlb (s : State) (m : Move) : (putMove s m).tlb = s.tlb := rfl
@[simp] theorem putMove_walk (s : State) (m : Move) : (putMove s m).walk = s.walk := rfl
@[simp] theorem putMove_posts (s : State) (m : Move) : (putMove s m).posts = s.posts := rfl
@[simp] theorem putMove_tagNext (s : State) (m : Move) : (putMove s m).tagNext = s.tagNext := rfl
@[simp] theorem putMove_inval (s : State) (m : Move) : (putMove s m).inval = s.inval := rfl
@[simp] theorem putMove_caches (s : State) (m : Move) : (putMove s m).caches = s.caches := rfl
@[simp] theorem putMove_banks (s : State) (m : Move) : (putMove s m).banks = s.banks := rfl
@[simp] theorem putMove_hints (s : State) (m : Move) : (putMove s m).hints = s.hints := rfl
@[simp] theorem putMove_jobs (s : State) (m : Move) : (putMove s m).jobs = s.jobs := rfl
@[simp] theorem putMove_deferred (s : State) (m : Move) : (putMove s m).deferred = s.deferred := rfl
@[simp] theorem putMove_mx (s : State) (m : Move) : (putMove s m).mx = s.mx := rfl
@[simp] theorem putMove_link (s : State) (m : Move) : (putMove s m).link = s.link := rfl
@[simp] theorem putMove_cp (s : State) (m : Move) : (putMove s m).cp = s.cp := rfl
@[simp] theorem putMove_dbg (s : State) (m : Move) : (putMove s m).dbg = s.dbg := rfl
@[simp] theorem putMove_mgmt (s : State) (m : Move) : (putMove s m).mgmt = s.mgmt := rfl
@[simp] theorem putMove_contained (s : State) (m : Move) : (putMove s m).contained = s.contained := rfl
@[simp] theorem putMove_msix (s : State) (m : Move) : (putMove s m).msix = s.msix := rfl
@[simp] theorem putMove_errMsgs (s : State) (m : Move) : (putMove s m).errMsgs = s.errMsgs := rfl

@[simp] theorem onGang_gang (s : State) (f : Gang → Gang) : (State.onGang s f).gang = f s.gang := rfl
@[simp] theorem onArm_arm (s : State) (f : Arm → Arm) : (State.onArm s f).gang.arm = f s.gang.arm := rfl
@[simp] theorem onArm_partner (s : State) (f : Arm → Arm) : (State.onArm s f).gang.partner = s.gang.partner := rfl
@[simp] theorem onArm_v (s : State) (f : Arm → Arm) : (State.onArm s f).gang.v = s.gang.v := rfl
@[simp] theorem onArm_s (s : State) (f : Arm → Arm) : (State.onArm s f).gang.s = s.gang.s := rfl
@[simp] theorem onArm_a (s : State) (f : Arm → Arm) : (State.onArm s f).gang.a = s.gang.a := rfl
@[simp] theorem onArm_c (s : State) (f : Arm → Arm) : (State.onArm s f).gang.c = s.gang.c := rfl
@[simp] theorem onArm_ops (s : State) (f : Arm → Arm) : (State.onArm s f).gang.ops = s.gang.ops := rfl
@[simp] theorem onLink_link (s : State) (f : Link → Link) : (onLink s f).link = f s.link := rfl
@[simp] theorem onMx_mx (s : State) (f : Mx → Mx) : (onMx s f).mx = f s.mx := rfl
@[simp] theorem onDram_dram (s : State) (f : Dram → Dram) : (onDram s f).dram = f s.dram := rfl
@[simp] theorem onYo_yo (s : State) (f : Yoyo → Yoyo) : (onYo s f).yo = f s.yo := rfl
@[simp] theorem setJigsaw_jigsaw (s : State) (ls : List JLine) : (setJigsaw s ls).caches.jigsaw = ls := rfl
@[simp] theorem setJigsaw_l1 (s : State) (ls : List JLine) : (setJigsaw s ls).caches.l1 = s.caches.l1 := rfl
@[simp] theorem setL1_l1 (s : State) (ls : List L1Line) : (setL1 s ls).caches.l1 = ls := rfl
@[simp] theorem setL1_jigsaw (s : State) (ls : List L1Line) : (setL1 s ls).caches.jigsaw = s.caches.jigsaw := rfl
@[simp] theorem putStamp_l1 (s : State) (t : Stamp) : (putStamp s t).caches.l1 = s.caches.l1 := rfl
@[simp] theorem putStamp_jigsaw (s : State) (t : Stamp) : (putStamp s t).caches.jigsaw = s.caches.jigsaw := rfl
@[simp] theorem onGang_onGang (s : State) (f g : Gang → Gang) : (s.onGang f).onGang g = s.onGang (fun x => g (f x)) := rfl

end Sys2Proof.Machine
end

