-- ==== Sys2Proof/Laws/Memory.lean ====
section
/-! SUPPORT. Every operation that writes memory keeps its canonical form, and what a read of bytes gives after a write. -/

namespace Sys2Proof.Machine

/-! ### Bytes -/

theorem cellsWrite_wf (m : List Host.Cell) (a : Nat) (bs : List Byte) (h : smapWf 0 m = true) : smapWf 0 (cellsWrite m a bs) = true := by
  induction bs generalizing m a with
  | nil => exact h
  | cons b t ih => exact ih _ _ (smapWf_set 0 m a b h)

/-- A byte after a write of bytes. -/
theorem smapGet_cellsWrite (m : List Host.Cell) (a : Nat) (bs : List Byte) (k : Nat) :
    smapGet 0 (cellsWrite m a bs) k = if a ≤ k ∧ k < a + bs.length then bs.getD (k - a) 0 else smapGet 0 m k := by
  induction bs generalizing m a with
  | nil =>
    rw [if_neg (fun h => by have := h.2; simp only [List.length_nil] at this; omega)]
    rfl
  | cons b t ih =>
    rw [cellsWrite, ih, smapGet_set]
    by_cases hk : k = a
    · subst hk
      rw [if_neg (by omega), if_pos rfl, if_pos (by simp)]
      simp
    · by_cases h1 : a + 1 ≤ k ∧ k < a + 1 + t.length
      · have h3 : k - a = (k - (a + 1)) + 1 := by omega
        rw [if_pos h1, if_pos (by simp; omega), h3]
        rfl
      · rw [if_neg h1, if_neg hk, if_neg (by simp; omega)]

/-- Reading bytes is reading each byte. -/
theorem cellsRead_eq (m : List Host.Cell) (a n : Nat) : cellsRead m a n = (List.range n).map (fun i => smapGet 0 m (a + i)) := by
  induction n generalizing a with
  | zero => rfl
  | succ n ih =>
    rw [cellsRead, ih, List.range_succ_eq_map]
    simp [List.map_map, Function.comp_def, Nat.add_assoc, Nat.add_comm 1]

/-- Bytes just written read back. -/
theorem cellsRead_cellsWrite (m : List Host.Cell) (a : Nat) (bs : List Byte) : cellsRead (cellsWrite m a bs) a bs.length = bs := by
  rw [cellsRead_eq]
  apply List.ext_getElem
  · simp
  · intro i h1 h2
    rw [List.getElem_map, List.getElem_range, smapGet_cellsWrite, if_pos (by omega)]
    simp [h2]

/-- Bytes elsewhere read as before. -/
theorem cellsRead_cellsWrite_ne (m : List Host.Cell) (a b n : Nat) (bs : List Byte) (h : b + n ≤ a ∨ a + bs.length ≤ b) :
    cellsRead (cellsWrite m a bs) b n = cellsRead m b n := by
  rw [cellsRead_eq, cellsRead_eq]
  apply List.map_congr_left
  intro i hi
  rw [List.mem_range] at hi
  rw [smapGet_cellsWrite, if_neg (by omega)]

/-- Writing cell after cell keeps the canonical form. -/
theorem foldl_smapSet_wf {α β : Type} [DecidableEq α] (d : α) (key : β → Nat) (val : β → α) (xs : List β) (m : List (Nat × α))
    (h : smapWf d m = true) : smapWf d (xs.foldl (fun m x => smapSet d m (key x) (val x)) m) = true := by
  induction xs generalizing m with
  | nil => exact h
  | cons x t ih => exact ih _ (smapWf_set d m _ _ h)

theorem moveCells_wf {α : Type} [DecidableEq α] (d : α) (m : List (Nat × α)) (src dst n : Nat) (h : smapWf d m = true) :
    smapWf d (moveCells d m src dst n) = true :=
  foldl_smapSet_wf d (fun c : Nat × α => dst + (c.1 - src)) (fun c => c.2) _ _ (smapWf_filter _ _ _ h)

/-! ### The parts of a memory -/

theorem Mem.wf_iff (m : Mem) : m.wf = true ↔
    smapWf 0 m.main = true ∧ smapWf 0 m.bank = true ∧ smapWf 0 m.scratch = true ∧ smapWf 0 m.host = true := by
  simp [Mem.wf, and_assoc]

/-- Only the memory counts. -/
theorem Mem.wf_of_cells {m n : Mem} (h : m.wf = true) (h1 : n.main = m.main) (h2 : n.bank = m.bank) (h3 : n.scratch = m.scratch)
    (h4 : n.host = m.host) : n.wf = true := by
  rw [Mem.wf_iff] at *
  rw [h1, h2, h3, h4]
  exact h

/-- Memory after reset is canonical. -/
theorem reset_mem_wf : Mem.wf State.reset.mem = true := rfl

/-! ### Operations of the units -/

theorem hostWrite_wf (s : State) (a : Nat) (bs : List Byte) (h : Mem.wf s.mem = true) : Mem.wf (hostWrite s a bs).mem = true := by
  unfold hostWrite
  split
  · exact h
  · rw [Mem.wf_iff] at *
    exact ⟨h.1, h.2.1, h.2.2.1, cellsWrite_wf _ _ _ h.2.2.2⟩

theorem bkPut_wf (s : State) (a n v : Nat) (h : Mem.wf s.mem = true) : Mem.wf (bkPut s a n v).mem = true := by
  rw [Mem.wf_iff] at *
  exact ⟨h.1, cellsWrite_wf _ _ _ h.2.1, h.2.2.1, h.2.2.2⟩

theorem mmAddSat_mem (s : State) (off hi lo : Nat) : (mmAddSat s off hi lo).mem = s.mem := by
  unfold mmAddSat
  simp only []
  split <;> rfl

theorem poisonWord_wf (s : State) (b : Bool) (w : Nat) (h : Mem.wf s.mem = true) : Mem.wf (poisonWord s b w).mem = true := by
  unfold poisonWord
  split <;> exact Mem.wf_of_cells h rfl rfl rfl rfl

/-- A fold of steps that keep the canonical form keeps it. -/
theorem foldl_wf {β : Type} (f : State → β → State) (hf : ∀ s x, Mem.wf s.mem = true → Mem.wf (f s x).mem = true) (xs : List β) (s : State)
    (h : Mem.wf s.mem = true) : Mem.wf (xs.foldl f s).mem = true := by
  induction xs generalizing s with
  | nil => exact h
  | cons x t ih => exact ih _ (hf _ _ h)

theorem msixSignal_wf (s : State) (n : Nat) (h : Mem.wf s.mem = true) : Mem.wf (msixSignal s n).mem = true := by
  unfold msixSignal
  simp only []
  split
  · exact h
  · split <;> exact h

theorem ringPut_wf (s : State) (base src : Nat) (bs : List Byte) (h : Mem.wf s.mem = true) : Mem.wf (ringPut s base src bs).mem = true := by
  unfold ringPut
  simp only []
  split
  · exact msixSignal_wf _ _ (hostWrite_wf _ _ _ h)
  · exact hostWrite_wf _ _ _ h

theorem ringPost_wf (s : State) (base lost src : Nat) (bs : List Byte) (h : Mem.wf s.mem = true) :
    Mem.wf (ringPost s base lost src bs).mem = true := by
  unfold ringPost
  split
  · exact h
  · split
    · exact h
    · exact ringPut_wf _ _ _ _ h

/-- The first fatal error's record fills its registers. -/
theorem foldl_mmPut_mem (f : Nat → Nat) (g : Nat → Nat) (xs : List Nat) (s : State) :
    (xs.foldl (fun s i => mmPut s (f i) (g i)) s).mem = s.mem := by
  induction xs generalizing s with
  | nil => rfl
  | cons x t ih => rw [List.foldl_cons, ih, mmPut_mem]

theorem fatalError_mem (s : State) (e : ErrRec) :
    (fatalError s e).mem = (ringPost s errRing (errRing + 32) 2 (errBytes s.time e)).mem := by
  unfold fatalError
  generalize errBytes s.time e = bs
  simp only []
  generalize ringPost s errRing (errRing + 32) 2 bs = u
  rw [mmPutField_mem]
  split
  · rw [foldl_mmPut_mem]
  · rfl

theorem fatalError_wf (s : State) (e : ErrRec) (h : Mem.wf s.mem = true) : Mem.wf (fatalError s e).mem = true := by
  rw [fatalError_mem]
  exact ringPost_wf s errRing (errRing + 32) 2 (errBytes s.time e) h

theorem logError_wf (s : State) (e : ErrRec) (h : Mem.wf s.mem = true) : Mem.wf (logError s e).mem = true := by
  unfold logError
  split
  · exact fatalError_wf _ _ h
  · split
    · simp only []
      split
      · exact ringPost_wf _ _ _ _ _ h
      · exact h
    · split
      · exact fatalError_wf _ _ h
      · exact ringPost_wf _ _ _ _ _ h

theorem decodeError_wf (s : State) (pa : Nat) (h : Mem.wf s.mem = true) : Mem.wf (decodeError s pa).mem = true := by
  unfold decodeError
  split <;> exact logError_wf _ _ h

theorem wakeUnit_wf (s : State) (u : Nat) (h : Mem.wf s.mem = true) : Mem.wf (wakeUnit s u).mem = true := by
  unfold wakeUnit
  split
  · exact h
  · have hs := foldl_wf (fun (s : State) (e : (Bool × Nat) × Nat) =>
        if e.2 ≤ 2 then logError (mmAdd s (bkBlock (unitDie u) + 0x18) 63 32 1) (wordError u e.1.1 e.1.2 0)
        else logError (mmAddSat (poisonWord s e.1.1 e.1.2) (bkBlock (unitDie u) + 0x20) 63 32) (wordError u e.1.1 e.1.2 1))
      (by intro s e h
          split <;> apply logError_wf
          · unfold mmAdd; rw [mmPutField_mem]; exact h
          · rw [mmAddSat_mem]; exact poisonWord_wf _ _ _ h) (unitErrors s u) s h
    simp only []
    split
    · exact hs
    · rw [mmPutField_mem]; exact hs

theorem wakeTouched_wf (s : State) (u : Nat) (h : Mem.wf s.mem = true) : Mem.wf (wakeTouched s u).mem = true := wakeUnit_wf s u h

theorem touchUnit_wf (s : State) (b : Bool) (off n : Nat) (h : Mem.wf s.mem = true) : Mem.wf (touchUnit s b off n).mem = true := by
  unfold touchUnit
  exact foldl_wf _ (by
    intro s e h
    split <;> apply logError_wf
    · unfold mmAdd; rw [mmPutField_mem]; exact h
    · rw [mmAddSat_mem]; exact poisonWord_wf _ _ _ h) _ _ (foldl_wf _ wakeTouched_wf _ _ h)

/-- Bytes written to the scratchpads, after the touch of their units. -/
theorem scratchPut_wf (t : State) (k : Nat) (bs : List Byte) (ps : List Nat) (h : Mem.wf t.mem = true) :
    Mem.wf { t.mem with scratch := cellsWrite t.mem.scratch k bs, scratchPoison := ps } = true := by
  rw [Mem.wf_iff] at *
  exact ⟨h.1, h.2.1, cellsWrite_wf _ _ _ h.2.2.1, h.2.2.2⟩

theorem scrWrite_wf (s : State) (core off : Nat) (bs : List Byte) (h : Mem.wf s.mem = true) :
    Mem.wf (scrWrite s core off bs).mem = true := by
  simp only [scrWrite]
  exact scratchPut_wf _ _ _ _ (touchUnit_wf _ _ _ _ h)

theorem bankWrite_wf (s : State) (off : Nat) (bs : List Byte) (h : Mem.wf s.mem = true) : Mem.wf (bankWrite s off bs).mem = true := by
  have ht := touchUnit_wf s false off bs.length h
  unfold bankWrite
  simp only []
  generalize touchUnit s false off bs.length = t at ht ⊢
  rw [Mem.wf_iff] at *
  exact ⟨ht.1, cellsWrite_wf _ _ _ ht.2.1, ht.2.2.1, ht.2.2.2⟩

/-! ### The memory controllers -/

/-- Both branches keep the canonical form. -/
theorem ite_wf (c : Prop) [Decidable c] (a b : State) (ha : Mem.wf a.mem = true) (hb : Mem.wf b.mem = true) :
    Mem.wf (if c then a else b).mem = true := by
  split
  · exact ha
  · exact hb

theorem noteWait_wf (s : State) (n fin : Nat) (h : Mem.wf s.mem = true) : Mem.wf (noteWait s n fin).mem = true := by
  unfold noteWait
  split <;> exact h

theorem readArrives_wf (s : State) (pa : Nat) (h : Mem.wf s.mem = true) : Mem.wf (readArrives s pa).mem = true := by
  unfold readArrives
  split
  · exact h
  · rename_i b _
    have hn := noteWait_wf s (b / 16) (refreshEnd s b) h
    simp only []
    generalize noteWait s (b / 16) (refreshEnd s b) = t at hn ⊢
    exact ite_wf _ _ _ hn hn

theorem makeRoom_wf (s : State) (n : Nat) (h : Mem.wf s.mem = true) : Mem.wf (makeRoom s n).mem = true := by
  unfold makeRoom
  simp only []
  split
  · exact h
  · generalize (List.find? _ _ |>.orElse _) = o
    cases o <;> exact h

theorem queueWrite_wf (s : State) (bank line : Nat) (h : Mem.wf s.mem = true) : Mem.wf (queueWrite s bank line).mem = true := by
  have hm := makeRoom_wf _ (bank / 16) (noteWait_wf s (bank / 16) (refreshEnd s bank) h)
  unfold queueWrite
  simp only []
  generalize makeRoom (noteWait s (bank / 16) (refreshEnd s bank)) (bank / 16) = t at hm ⊢
  exact hm

theorem parityOut_wf (s : State) (e : Nat × Nat) (h : Mem.wf s.mem = true) : Mem.wf (parityOut s e).mem = true := by
  unfold parityOut
  simp only []
  split
  · exact queueWrite_wf _ _ _ h
  · exact logError_wf _ _ (queueWrite_wf _ _ _ h)

theorem flushParity_wf (s : State) (h : Mem.wf s.mem = true) : Mem.wf (flushParity s).mem = true := foldl_wf _ parityOut_wf _ _ h

theorem setDegraded_wf (s : State) (k g : Nat) (h : Mem.wf s.mem = true) : Mem.wf (setDegraded s k g).mem = true := by
  unfold setDegraded
  exact foldl_wf _ (by intro s i h; rw [mmPutField_mem]; exact h) _ _ h

theorem declareFailed_wf (s : State) (k ch : Nat) (h : Mem.wf s.mem = true) : Mem.wf (declareFailed s k ch).mem = true := by
  unfold declareFailed
  split
  · exact h
  · exact logError_wf _ _ (setDegraded_wf _ _ _ (flushParity_wf _ h))

theorem poisonSector_wf (s : State) (sec : Nat) (h : Mem.wf s.mem = true) : Mem.wf (poisonSector s sec).mem = true :=
  Mem.wf_of_cells h rfl rfl rfl rfl

theorem returnPoisoned_wf (s : State) (blk ch pa : Nat) (h : Mem.wf s.mem = true) : Mem.wf (returnPoisoned s blk ch pa).mem = true := by
  unfold returnPoisoned
  apply logError_wf
  rw [mmAddSat_mem]
  exact poisonSector_wf (clearBad s (pa / 64)) _ h

theorem correctSector_wf (s : State) (blk ch pa : Nat) (h : Mem.wf s.mem = true) : Mem.wf (correctSector s blk ch pa).mem = true := by
  unfold correctSector mmAdd
  apply logError_wf
  rw [mmPutField_mem]
  exact h

theorem correctParity_wf (s : State) (k stripe i : Nat) (h : Mem.wf s.mem = true) : Mem.wf (correctParity s k stripe i).mem = true := by
  unfold correctParity mmAdd
  simp only []
  split <;> apply logError_wf
  · exact h
  · rw [mmPutField_mem]; exact h

theorem readStripe_wf (s : State) (k off : Nat) (h : Mem.wf s.mem = true) : Mem.wf (readStripe s k off).mem = true := by
  unfold readStripe
  simp only []
  have hs := foldl_wf (fun (s : State) sec =>
      if sectorBad s sec = some false then correctSector s k (hbmDecode (sec * 64 - k * 2 ^ 36)).ch (sec * 64) else s)
    (by intro s x h; split
        · exact correctSector_wf _ _ _ _ h
        · exact h) (stripeSectors k off) s h
  split
  · exact correctParity_wf _ _ _ _ hs
  · exact hs

theorem countRebuild_wf (s : State) (k ch a : Nat) (h : Mem.wf s.mem = true) : Mem.wf (countRebuild s k ch a).mem = true := by
  have h1 : Mem.wf (mmAddSat s (mcChStat k ch) 31 16).mem = true := by rw [mmAddSat_mem]; exact h
  unfold countRebuild
  simp only []
  split
  · exact declareFailed_wf _ _ _ (logError_wf _ _ h1)
  · exact logError_wf _ _ h1

theorem readSector_wf (s : State) (pa : Nat) (h : Mem.wf s.mem = true) : Mem.wf (readSector s pa).mem = true := by
  unfold readSector
  simp only []
  split
  · exact h
  · split
    · split
      · split
        · exact readStripe_wf _ _ _ h
        · exact returnPoisoned_wf _ _ _ _ h
      · split
        · exact h
        · exact correctSector_wf _ _ _ _ h
        · split
          · exact countRebuild_wf _ _ _ _ (readStripe_wf _ _ _ h)
          · exact returnPoisoned_wf _ _ _ _ h
    · split
      · exact h
      · exact correctSector_wf _ _ _ _ h
      · exact returnPoisoned_wf _ _ _ _ h
    · exact h

theorem readParity_wf (s : State) (k stripe i : Nat) (h : Mem.wf s.mem = true) : Mem.wf (readParity s k stripe i).mem = true := by
  unfold readParity
  simp only []
  split
  · exact h
  · split
    · exact h
    · exact correctParity_wf _ _ _ _ h
    · split
      · exact h
      · split
        · exact countRebuild_wf _ _ _ _ h
        · apply logError_wf; rw [mmAddSat_mem]; exact h
    · exact h

theorem parityUpdate_wf (s : State) (k stripe : Nat) (h : Mem.wf s.mem = true) : Mem.wf (parityUpdate s k stripe).mem = true := by
  have hp : Mem.wf (if s.dram.parityQ.contains (k, stripe) then s
      else (List.range 4).foldl (fun s i => readParity s k stripe i) s).mem = true := by
    split
    · exact h
    · exact foldl_wf _ (fun _ _ h => readParity_wf _ _ _ _ h) _ _ h
  unfold parityUpdate
  simp only []
  generalize (if s.dram.parityQ.contains (k, stripe) then s
      else (List.range 4).foldl (fun s i => readParity s k stripe i) s) = t at hp ⊢
  split
  · split
    · exact parityOut_wf _ _ hp
    · exact hp
  · exact hp

theorem readSectors_wf {β : Type} (a : β → Nat) (xs : List β) (s : State) (h : Mem.wf s.mem = true) :
    Mem.wf (xs.foldl (fun s k => readSector s (a k)) s).mem = true := foldl_wf _ (fun _ _ h => readSector_wf _ _ h) _ _ h

theorem oldRead_wf (s : State) (secs : List Nat) (h : Mem.wf s.mem = true) : Mem.wf (oldRead s secs).mem = true :=
  Mem.wf_of_cells (readSectors_wf (fun k => k * 64) secs s h) rfl rfl rfl rfl

theorem ctlSectors_wf (s : State) (pa : Nat) (part whole : List Nat) (h : Mem.wf s.mem = true) :
    Mem.wf (ctlSectors s pa part whole).mem = true := by
  have h1 := readSectors_wf (fun k => k * 64) part s h
  have h2 : ∀ t : State, Mem.wf t.mem = true → Mem.wf (whole.foldl clearBad t).mem = true :=
    fun t h => foldl_wf clearBad (fun _ _ h => h) _ _ h
  unfold ctlSectors
  simp only []
  generalize part.foldl (fun s k => readSector s (k * 64)) s = u at h1 ⊢
  have h3 : ∀ t : State, Mem.wf t.mem = true → Mem.wf (match bankNumber t pa with | some b => queueWrite t b (pa / 256) | none => t).mem = true := by
    intro t h
    split
    · exact queueWrite_wf _ _ _ h
    · exact h
  apply h3
  apply h2
  split
  · exact parityUpdate_wf _ _ _ (oldRead_wf _ _ h1)
  · exact h1

theorem ctlWrite_wf (s : State) (pa n : Nat) (h : Mem.wf s.mem = true) : Mem.wf (ctlWrite s pa n).mem = true := ctlSectors_wf _ _ _ _ h

theorem storeLine_wf (s : State) (pa : Nat) (bs : List Byte) (ps : List Nat) (h : Mem.wf s.mem = true) :
    Mem.wf (storeLine s pa bs ps).mem = true := by
  unfold storeLine
  split
  · exact decodeError_wf _ _ h
  · exact decodeError_wf _ _ h
  · rw [Mem.wf_iff] at *
    exact ⟨h.1, cellsWrite_wf _ _ _ h.2.1, h.2.2.1, h.2.2.2⟩
  · have hc := ctlWrite_wf s pa 256 h
    rw [Mem.wf_iff] at *
    exact ⟨cellsWrite_wf _ _ _ hc.1, hc.2.1, hc.2.2.1, hc.2.2.2⟩

theorem endHold_wf (s : State) (m : Move) (h : Mem.wf s.mem = true) : Mem.wf (endHold s m).mem = true := by
  unfold endHold
  exact ite_wf _ _ _ h (storeLine_wf (carryStamp (dropEntry s _) _ _) _ _ _ h)

theorem endHoldAt_wf (s : State) (pa : Nat) (h : Mem.wf s.mem = true) : Mem.wf (endHoldAt s pa).mem = true := by
  unfold endHoldAt
  split
  · split
    · exact endHold_wf _ _ h
    · exact h
  · exact h

theorem awaitHolds_wf (n : Nat) (s : State) (pa : Nat) (h : Mem.wf s.mem = true) : Mem.wf (awaitHolds n s pa).mem = true := by
  induction n generalizing s pa with
  | zero => exact endHoldAt_wf _ _ h
  | succ n ih =>
    have he := endHoldAt_wf s pa h
    simp only [awaitHolds]
    split
    · exact he
    · exact ih _ _ he

theorem awaitHold_wf (s : State) (pa : Nat) (h : Mem.wf s.mem = true) : Mem.wf (awaitHold s pa).mem = true := awaitHolds_wf _ _ _ h

/-! ### The caches -/

theorem jgSave_wf (s : State) (pa n : Nat) (h : Mem.wf s.mem = true) : Mem.wf (jgSave s pa n).mem = true := by
  unfold jgSave
  split <;> exact h

theorem jgRestore_wf (s : State) (l : JLine) (mask : Nat) (h : Mem.wf s.mem = true) : Mem.wf (jgRestore s l mask).mem = true := by
  unfold jgRestore
  refine foldl_wf _ ?_ _ _ h
  intro s i h
  rw [Mem.wf_iff] at *
  exact ⟨cellsWrite_wf _ _ _ h.1, h.2.1, h.2.2.1, h.2.2.2⟩

theorem l1WriteBack_wf (s : State) (l : L1Line) (h : Mem.wf s.mem = true) : Mem.wf (l1WriteBack s l).mem = true := by
  unfold l1WriteBack
  simp only []
  split
  · exact h
  · have h1 : ∀ j : JLine, Mem.wf (jgDirty (mmCount s (jgBlock j.home + 8) 1) j l.dirty).mem = true := fun _ => h
    have h2 : ∀ t : State, Mem.wf t.mem = true → Mem.wf (if (wrongSectors l.errs 2).filter (fun i => l.dirty.testBit i) |>.isEmpty then t
        else logError (((wrongSectors l.errs 2).filter (fun i => l.dirty.testBit i)).foldl
          (fun s i => poisonSector s (portRoute s (l.pa * 256) / 64 + i)) t) ⟨l.pa * 256, noOwner, 2, l.core / 96, 1, 5, 0⟩).mem = true := by
      intro t h
      split
      · exact h
      · exact logError_wf _ _ (foldl_wf _ (fun _ _ h => poisonSector_wf _ _ h) _ _ h)
    apply h2
    split
    · exact h1 _
    · split
      · exact decodeError_wf _ _ h
      · exact ctlSectors_wf _ _ _ _ h

theorem l1Recall_wf (s : State) (core pa : Nat) (h : Mem.wf s.mem = true) : Mem.wf (l1Recall s core pa).mem = true := by
  unfold l1Recall
  simp only []
  split
  · exact h
  · exact foldl_wf _ l1WriteBack_wf _ _ h

theorem l1Keep_wf (s : State) (pa : Nat) (h : Mem.wf s.mem = true) : Mem.wf (l1Keep s pa).mem = true := by
  unfold l1Keep
  split <;> exact h

theorem beforeWrite_wf (s : State) (pa0 pa n : Nat) (h : Mem.wf s.mem = true) : Mem.wf (beforeWrite s pa0 pa n).mem = true := by
  have hk := l1Keep_wf s pa0 h
  unfold beforeWrite
  simp only []
  split
  · apply jgSave_wf
    split <;> exact hk
  · split
    · exact hk
    · exact ctlWrite_wf _ _ _ hk

theorem physWrite_wf (s : State) (pa : Nat) (bs : List Byte) (h : Mem.wf s.mem = true) : Mem.wf (physWrite s pa bs).mem = true := by
  have hw := awaitHold_wf s pa h
  unfold physWrite
  simp only []
  split
  · exact decodeError_wf _ _ hw
  · exact decodeError_wf _ _ hw
  · rename_i off _
    have ht := touchUnit_wf _ false off bs.length hw
    generalize touchUnit (awaitHold s pa) false off bs.length = t at ht ⊢
    rw [Mem.wf_iff] at *
    exact ⟨ht.1, cellsWrite_wf _ _ _ ht.2.1, ht.2.2.1, ht.2.2.2⟩
  · have hb := beforeWrite_wf _ pa (portRoute (awaitHold s pa) pa) bs.length hw
    generalize beforeWrite (awaitHold s pa) pa (portRoute (awaitHold s pa) pa) bs.length = t at hb ⊢
    have hm : Mem.wf { t.mem with
        main := cellsWrite t.mem.main (portRoute (awaitHold s pa) pa) bs,
        poison := healed 64 t.mem.poison (portRoute (awaitHold s pa) pa) bs.length } = true := by
      rw [Mem.wf_iff] at *
      exact ⟨cellsWrite_wf _ _ _ hb.1, hb.2.1, hb.2.2.1, hb.2.2.2⟩
    exact foldl_wf _ (by intro s a h; split <;> exact h) _ _ hm

theorem jgDiscard_wf (s : State) (l : JLine) (h : Mem.wf s.mem = true) : Mem.wf (jgDiscard s l).mem = true := by
  have hr := l1Recall_wf s 768 l.pa h
  unfold jgDiscard
  simp only []
  apply jgRestore_wf
  apply l1Keep_wf
  split <;> exact hr

theorem touchGranules_wf (s : State) (core base n : Nat) (h : Mem.wf s.mem = true) : Mem.wf (touchGranules s core base n).mem = true :=
  foldl_wf _ (fun _ _ h => touchUnit_wf _ _ _ _ h) _ _ h

theorem moveScratch_wf (s : State) (core base core' base' n : Nat) (h : Mem.wf s.mem = true) :
    Mem.wf (moveScratch s core base core' base' n).mem = true := by
  unfold moveScratch
  simp only []
  have ht : Mem.wf (if core < 768 then touchGranules s core base n else s).mem = true := by
    split
    · exact touchGranules_wf _ _ _ _ h
    · exact h
  rw [Mem.wf_iff] at *
  exact ⟨ht.1, ht.2.1, moveCells_wf _ _ _ _ _ ht.2.2.1, ht.2.2.2⟩

theorem moveBlock_wf (s : State) (src dst : Nat) (h : Mem.wf s.mem = true) : Mem.wf (moveBlock s src dst).mem = true := by
  unfold moveBlock
  simp only []
  have h1 : Mem.wf (if src < 67108864 then touchUnit s false src 256 else s).mem = true := by
    split
    · exact touchUnit_wf _ _ _ _ h
    · exact h
  have h2 : Mem.wf (if dst < 67108864 then touchUnit (if src < 67108864 then touchUnit s false src 256 else s) false dst 256
      else (if src < 67108864 then touchUnit s false src 256 else s)).mem = true := by
    split
    · exact touchUnit_wf _ _ _ _ h1
    · exact h1
  rw [Mem.wf_iff] at *
  exact ⟨h2.1, moveCells_wf _ _ _ _ _ h2.2.1, h2.2.2.1, h2.2.2.2⟩

theorem zeroFill_wf (s : State) (h : Mem.wf s.mem = true) : Mem.wf (zeroFill s).mem = true := by
  rw [Mem.wf_iff] at *
  exact ⟨smapWf_filter _ _ _ h.1, h.2.1, h.2.2.1, h.2.2.2⟩

theorem logDown_wf (s : State) (down : List Nat) (h : Mem.wf s.mem = true) : Mem.wf (logDown s down).mem = true :=
  foldl_wf _ (fun _ _ h => decodeError_wf _ _ h) _ _ h

theorem putHeader_wf (s : State) (down : List Nat) (bs : List Byte) (h : Mem.wf s.mem = true) : Mem.wf (putHeader s down bs).mem = true := by
  have hl := logDown_wf s (down.filter (fun i => decide (i < 64))) h
  unfold putHeader
  simp only []
  generalize logDown s (down.filter (fun i => decide (i < 64))) = t at hl ⊢
  rw [Mem.wf_iff] at *
  refine ⟨?_, hl.2.1, hl.2.2.1, hl.2.2.2⟩
  simp only []
  split
  · exact hl.1
  · exact cellsWrite_wf _ _ _ (smapWf_filter _ _ _ hl.1)

theorem saveImage_wf (s : State) (a b : Nat) (h : Mem.wf s.mem = true) : Mem.wf (saveImage s a b).mem = true := by
  have hr := readSectors_wf (fun k => 64 * k) (imageReads s) s h
  unfold saveImage
  simp only []
  apply putHeader_wf
  apply logDown_wf
  rw [Mem.wf_iff] at *
  exact ⟨foldl_smapSet_wf 0 (fun c : Host.Cell => c.1) (fun c => c.2) _ _ (smapWf_filter _ _ _ hr.1), hr.2.1, hr.2.2.1, hr.2.2.2⟩

theorem loadImage_wf (s : State) (h : Mem.wf s.mem = true) : Mem.wf (loadImage s).mem = true := by
  have hz := zeroFill_wf s h
  unfold loadImage
  simp only []
  apply logDown_wf
  rw [Mem.wf_iff] at *
  exact ⟨foldl_smapSet_wf 0 (fun c : Host.Cell => c.1) (fun c => c.2) _ _ hz.1, hz.2.1, hz.2.2.1, hz.2.2.2⟩

theorem placeCode_wf (s : State) (w : Nat) (h : Mem.wf s.mem = true) : Mem.wf (placeCode s w).mem = true := by
  rw [Mem.wf_iff] at *
  refine ⟨?_, h.2.1, h.2.2.1, h.2.2.2⟩
  have : ∀ (es : List (Nat × List Byte)) (m : List Host.Cell), smapWf 0 m = true →
      smapWf 0 (es.foldl (fun m e => cellsWrite m e.1 e.2) m) = true := by
    intro es
    induction es with
    | nil => exact fun m h => h
    | cons e t ih => exact fun m h => ih _ (cellsWrite_wf _ _ _ h)
  exact this _ _ h.1

end Sys2Proof.Machine
end

