-- ==== Sys2Proof/Laws/Order.lean ====
section
/-! SUPPORT. What the operations of the memory order do (R330 to R333): times never fall, stamps leave memory and gangs alone, an
access past the bound has no effect; and how groups and steps run one after another. -/

namespace Sys2Proof.Machine

/-! ### Times (R331) -/

theorem le_timeAfter (t ag w b : Nat) : t ≤ timeAfter t ag w b := by
  unfold timeAfter; split <;> (try split) <;> omega

/-- An access placed by `timeAfter` comes after the event that it names, by time and then by agent. -/
theorem timeAfter_after (t ag w b : Nat) : w < timeAfter t ag w b ∨ (w = timeAfter t ag w b ∧ b ≤ ag) := by
  unfold timeAfter; split <;> (try split) <;> omega

theorem le_readAfter (s : State) (t ag k : Nat) : t ≤ readAfter s t ag k :=
  Nat.le_trans (Nat.le_max_left ..) (le_timeAfter ..)

/-- A read at a home takes a time not before TIME. -/
theorem time_le_readAfter (s : State) (t ag k : Nat) : s.time ≤ readAfter s t ag k :=
  Nat.le_trans (Nat.le_max_right ..) (le_timeAfter ..)

/-- A write comes no earlier than a read would. -/
theorem readAfter_le_writeAfter (s : State) (t ag k : Nat) : readAfter s t ag k ≤ writeAfter s t ag k :=
  Nat.le_trans (Nat.le_max_left ..) (le_timeAfter ..)

theorem le_writeAfter (s : State) (t ag k : Nat) : t ≤ writeAfter s t ag k :=
  Nat.le_trans (le_readAfter ..) (readAfter_le_writeAfter ..)

/-- A write comes after every lease of its line (R333). -/
theorem rts_lt_writeAfter (s : State) (t ag k : Nat) (h : (stampOf s k).rts ≠ 0) : (stampOf s k).rts < writeAfter s t ag k := by
  refine Nat.lt_of_lt_of_le ?_ (le_timeAfter ..)
  simp only [h, if_false]
  exact Nat.lt_of_lt_of_le (Nat.lt_succ_self _) (Nat.le_max_right ..)

theorem agentTime_le_readTime (s : State) (ag pa : Nat) : agentTime s ag ≤ readTime s ag pa := le_readAfter ..

theorem agentTime_le_writeTime (s : State) (ag pa : Nat) : agentTime s ag ≤ writeTime s ag pa := le_writeAfter ..

/-! ### Stamps and times change nothing else -/

@[simp] theorem setAgentTime_mem (s : State) (ag t : Nat) : (setAgentTime s ag t).mem = s.mem := by
  unfold setAgentTime; split <;> simp

@[simp] theorem setAgentTime_time (s : State) (ag t : Nat) : (setAgentTime s ag t).time = s.time := by
  unfold setAgentTime; split <;> simp

@[simp] theorem setAgentTime_mmio (s : State) (ag t : Nat) : (setAgentTime s ag t).mmio = s.mmio := by
  unfold setAgentTime; split <;> simp

@[simp] theorem stampRead_mem (s : State) (ag t k : Nat) : (stampRead s ag t k).mem = s.mem := by simp [stampRead]

@[simp] theorem stampWrite_mem (s : State) (ag t k : Nat) : (stampWrite s ag t k).mem = s.mem := by simp [stampWrite]

@[simp] theorem stampRead_gang (s : State) (ag t k : Nat) : (stampRead s ag t k).gang = s.gang := by simp [stampRead]

@[simp] theorem stampWrite_gang (s : State) (ag t k : Nat) : (stampWrite s ag t k).gang = s.gang := by simp [stampWrite]

@[simp] theorem orderRead_mem (s : State) (ag pa : Nat) : (orderRead s ag pa).mem = s.mem := by simp [orderRead]

@[simp] theorem orderWrite_mem (s : State) (ag pa : Nat) : (orderWrite s ag pa).mem = s.mem := by simp [orderWrite]

@[simp] theorem orderReads_mem (s : State) (ag : Nat) (ks : List Nat) : (orderReads s ag ks).mem = s.mem := by
  have : ∀ (t : Nat) (ks : List Nat) (s : State), (ks.foldl (fun s k => stampRead s ag t k) s).mem = s.mem := by
    intro t ks
    induction ks with
    | nil => exact fun _ => rfl
    | cons k _ ih => exact fun s => (ih _).trans (stampRead_mem s ag t k)
  simp [orderReads, this]

@[simp] theorem orderWrites_mem (s : State) (ag : Nat) (ks : List Nat) : (orderWrites s ag ks).mem = s.mem := by
  have : ∀ (t : Nat) (ks : List Nat) (s : State), (ks.foldl (fun s k => stampWrite s ag t k) s).mem = s.mem := by
    intro t ks
    induction ks with
    | nil => exact fun _ => rfl
    | cons k _ ih => exact fun s => (ih _).trans (stampWrite_mem s ag t k)
  simp [orderWrites, this]

@[simp] theorem raiseTime_mem (s : State) (ag t : Nat) : (raiseTime s ag t).mem = s.mem := setAgentTime_mem ..

@[simp] theorem finishOp_mem (s : State) (g op t : Nat) : (finishOp s g op t).mem = s.mem := rfl

/-- An executing arm's time rises to the greater of the two. -/
theorem raiseTime_arm (s : State) (ag t : Nat) (h : ag < 2 ^ 60) : (raiseTime s ag t).gang.arm.ltime = Max.max s.gang.arm.ltime t := by
  rw [raiseTime, setAgentTime, agentTime, if_pos h, if_pos h]; rfl

/-! ### The bound (R333) -/

theorem boundedExe_ok {s t : State} (h : newlyPast s t = false) : boundedExe s (.ok t) = .ok t := by simp [boundedExe, h]

/-- An instruction past the bound does not issue: it stalls for reason 14, and the state is as before. -/
theorem boundedExe_past {s t : State} (h : newlyPast s t = true) : boundedExe s (.ok t) = .stall 14 s := by simp [boundedExe, h]

@[simp] theorem boundedExe_trap (s u : State) (t : Trap) : boundedExe s (.trap t u) = .trap t u := rfl

@[simp] theorem boundedExe_stall (s u : State) (n : Nat) : boundedExe s (.stall n u) = .stall n u := rfl

/-- An agent's step past the bound changes nothing but that the agent waits. -/
theorem bounded_past {ag : Nat} {f : State → State} {s : State}
    (h : agentTime s ag < agentTime (f s) ag ∧ timeBound s < agentTime (f s) ag) :
    bounded ag f s = { s with caches := { s.caches with waiting := nsetInsert s.caches.waiting ag } } := if_pos h

/-- Any other step is performed, and the agent waits no more. -/
theorem bounded_ok {ag : Nat} {f : State → State} {s : State}
    (h : ¬(agentTime s ag < agentTime (f s) ag ∧ timeBound s < agentTime (f s) ag)) :
    bounded ag f s = { f s with caches := { (f s).caches with waiting := nsetErase (f s).caches.waiting ag } } := if_neg h

/-! ### Groups and steps -/

@[simp] theorem andThen_next (s : State) (f : State → Host.Outcome State Fault Refusal) : andThen (.next s) f = f s := rfl

/-- Where both parts of a sequence answer a next state, so does the sequence. -/
theorem andThen_eq_next {x : Host.Outcome State Fault Refusal} {f : State → Host.Outcome State Fault Refusal} {t : State} :
    andThen x f = .next t ↔ ∃ s, x = .next s ∧ f s = .next t := by
  cases x <;> simp [andThen]

@[simp] theorem execAll_nil (s : State) : execAll [] s = .next s := rfl

@[simp] theorem execAll_single (i : Instr) (s : State) : execAll [i] s = exec i s := by
  rw [execAll]; cases exec i s <;> rfl

theorem execAll_cons_eq_next {i : Instr} {is : List Instr} {s t : State} :
    execAll (i :: is) s = .next t ↔ ∃ u, exec i s = .next u ∧ execAll is u = .next t := andThen_eq_next

/-- A step that answers is its turn and what follows every step. -/
theorem step_eq_next {s t : State} : step s = .next t ↔ ∃ u, turnStep s = .next u ∧ t = endStep u := by
  simp only [step, andThen_eq_next, Host.Outcome.next.injEq]
  exact ⟨fun ⟨u, h, e⟩ => ⟨u, h, e.symm⟩, fun ⟨u, h, e⟩ => ⟨u, h, e.symm⟩⟩

end Sys2Proof.Machine
end

