-- ==== Sys2Proof/Tests/Slice0.lean ====
section
/-! SUPPORT. Tests: words of the spec's encodings decode to their instructions, ill-formed terms are refused, an instruction is placed and
run, and each statement's hypotheses are met together by a state at hand. -/

open Sys2Proof Sys2Proof.Machine

namespace Sys2Proof.Tests

set_option Elab.async false

/-! ### Decoding (R15 to R47): words written out from the tables of the spec, field by field -/

theorem test_decode_formatA : decodeWords 0x1024548C 0 = .ok (.mulh .sss 8 9 10) ∧ decodeWords 0x082800EC 0 = .ok (.vote .any 4 10) ∧
    decodeWords 0x065040E0 0 = .ok (.extGet 3 20 8) := by decide +kernel

theorem test_decode_formatB : decodeWords 0x0A140D10 0 = .ok (.shlImm .vec 5 5 3) ∧ decodeWords 0x0E007F34 0 = .ok (.rdflg .scal 7 0x1f) ∧
    decodeWords 0x02000130 0 = .ok (.widr .vec 1 0) ∧ decodeWords 0x04042900 0 = .ok (.addImm8 .vec 2 1 0xa) := by decide +kernel

theorem test_decode_formatD : decodeWords 0x182A0180 0 = .ok (.ld .vv 0xc 1 0x14 0 0) ∧ decodeWords 0x04008184 0 = .ok (.st .vv 2 0 1 0 0) := by
  decide +kernel

theorem test_decode_formatE : decodeWords 0x00804420 0 = .ok (.csrr 4 0x022) ∧ decodeWords 0x00A00024 0 = .ok (.csrw 0 5) ∧
    decodeWords 0x00C0102C 0 = .ok (.csrc 8 6) ∧ decodeWords 0x00C00030 0 = .ok (.rdtime 6) ∧ decodeWords 0x14 0 = .ok (.brk 0) ∧
    decodeWords 0x000C0038 0 = .ok (.vgrow 0xc 0) ∧ decodeWords 0x0008003C 0 = .ok (.vshrink 8 0) := by decide +kernel

theorem test_decode_control : decodeWords 0x4C 0 = .ok .ret ∧ decodeWords 0x50 0 = .ok .join ∧ decodeWords 0x09000048 0 = .ok (.jrL 8) ∧
    decodeWords 0x08 0 = .ok .exit ∧ decodeWords 0x0C 0 = .ok .yield ∧ decodeWords 0x10 0 = .ok .halt ∧ decodeWords 0x1C 0 = .ok .rfe := by
  decide +kernel

theorem test_decode_formatF : decodeWords 0x00320660 0 = .ok (.wait 3 200) ∧ decodeWords 0x4460 0 = .ok (.wait 2 1) ∧
    decodeWords 0x0001EA68 0 = .ok (.cget 7 5) := by decide +kernel

theorem test_decode_formatM : decodeWords 0x06465069 0x00FFFFDC = .ok (.ldgLong false .normal .vv 0x28 6 0x64 0xffffd 0xc) ∧
    decodeWords 0x01441475 0x28000086 = .ok (.atom .fadd .normal .vv 0xa 4 0x14 8 6) := by decide +kernel

theorem test_decode_formatW : decodeWords 0x16282831 0xEC = .ok (.ffma .f64 .vvv 0x14 0x28 0x2c 0x30) ∧
    decodeWords 0x400C122D 0x6A81 = .ok (.fcvt .e4m3x4 .f32 .vss 9 0xc 5) ∧
    decodeWords 0x42011229 0x8AE1 = .ok (.qcvt .q4g32 .vss 9 1 4 5) ∧ decodeWords 0x42091429 0xAAE1 = .ok (.dqcvt .q4g32 .vss 0xa 9 4 5) := by
  decide +kernel

theorem test_decode_formatL : decodeWords 0x01000805 0x01083800 = .ok (.liImm32 .i32 .scal 4 0x01083800) := by decide +kernel

theorem test_decode_formatX : decodeWords 0x0140008D 2 = .ok (.brdoInit 0xa 0 2 0) ∧ decodeWords 0x1140028D 0x00060400 = .ok (.brdoAdd 6 0xa 4 1) ∧
    decodeWords 0x3140048D 0x00080900 = .ok (.brdoRd 8 0xa 9 2) ∧ decodeWords 0x010004C1 0xF = .ok (.tlbinvPage 8 0xf 2) ∧
    decodeWords 0x050006C5 0 = .ok (.pgmapFt 0x28 3) ∧ decodeWords 0x01000555 0 = .ok (.fork 8 2) := by decide +kernel

/-- A major that no table assigns (R42 item 2). -/
theorem test_decode_unassigned : ∀ i, decodeWords 0x00000078 0 ≠ .ok i := by
  intro i h
  have : (match decodeWords 0x00000078 0 with | .ok _ => true | .error _ => false) = false := by decide +kernel
  rw [h] at this
  cases this

/-- The host's numbering: a short word, and a two-word instruction. -/
theorem test_decode_table : decodeTableWord 32 0x4C = some .ret ∧ decodeTableWord 64 0x00FFFFDC06465069 =
    some (.ldgLong false .normal .vv 0x28 6 0x64 0xffffd 0xc) := by decide +kernel

/-! ### Well-formed instructions: one ill-formed term for each kind of check -/

theorem test_wellFormed : (instrWf (.add .sss 1 2 3) && instrWf (.fork 8 2) && instrWf (.pr 0 false .asFpc .asFpc false .rne)) = true := by decide

/-- PR's XE without XO; a compact MOV's B; scalar fields past s63; odd pairs; an unlisted CSR; growth past the file. -/
theorem test_illFormed_fields : instrWf (.pr 1 false .asFpc .asFpc false .rne) = false ∧ instrWf (.add .sss 64 2 3) = false ∧
    instrWf (.movs 1 64) = false ∧ instrWf (.extGet 64 1 2) = false ∧ instrWf (.rdtime 7) = false ∧ instrWf (.jr 9) = false ∧
    instrWf (.iget .vec 3 4) = false ∧ instrWf (.csrr 4 0x33) = false ∧ instrWf (.vgrow 17 0) = false ∧ instrWf (.vshrink 0 9) = false := by decide

/-- Types, shapes and pairs of the L and W formats. -/
theorem test_illFormed_types : instrWf (.liImm32 .i16 .scal 4 0) = false ∧ instrWf (.addImm32 .f32 .vec 1 2 0) = false ∧
    instrWf (.andImm32 .i32 .vec 1 2 0) = false ∧ instrWf (.cmp .eq .f32 .vvv 1 2 3) = false ∧ instrWf (.fcmp .eq .i32 .vvv 1 2 3) = false ∧
    instrWf (.integerGroup .and .i32 .vvv 1 2 3) = false ∧ instrWf (.integerGroup .abs .i32 .vvs 1 2 0) = false ∧
    instrWf (.integerGroup .add .i64 .vvv 1 2 4) = false ∧ instrWf (.bfx .f32 .vvv 1 2 3) = false ∧ instrWf (.floatingGroup .fadd .e4m3 .vvv 1 2 3) = false ∧
    instrWf (.padd .f32 .vvv 1 2 3) = false ∧ instrWf (.pfma .i8x4 .vvv 1 2 3 4) = false ∧ instrWf (.qcvt .f32 .sss 1 2 3 4) = false ∧
    instrWf (.fcvti .f32 .f32 .vec 1 2) = false ∧ instrWf (.icvtf .f32 .f32 .vec 1 2) = false ∧ instrWf (.cvt .i32 .i32 .vec 1 2) = false ∧
    instrWf (.sel .i32 .vvv 1 2 3 4) = false ∧ instrWf (.clamp .b32 .vvv 1 2 3 4) = false := by decide

/-- Operands of the control, memory, bank, tile, job, matrix and link families. -/
theorem test_illFormed_operands : instrWf (.vote .ballot 6 1) = false ∧ instrWf (.widr .scal 4 0) = false ∧ instrWf (.widr .vec 4 8) = false ∧
    instrWf (.vb .eq false 1 2 0 0) = false ∧ instrWf (.bc .eq false 1 64 0) = false ∧ instrWf (.atom .fma .normal .vv 2 0 1 0 0) = false ∧
    instrWf (.batom .cas .normal .vv 2 0 1 0 0) = false ∧ instrWf (.ldSh .normal .vv 2 0 1 0 0) = false ∧ instrWf (.brdoInit 3 0 0 0) = false ∧
    instrWf (.barxInit 4 0 1) = false ∧ instrWf (.adset 1 4 0x400000) = false ∧ instrWf (.pgmapVa 1 3 0) = false ∧ instrWf (.migTo false .auto 1 4 6 0) = false ∧
    instrWf (.tpf false 1 4 0 0 0) = false ∧ instrWf (.mvn 9 false 0 false 0 1 2 8 0) = false ∧ instrWf (.acst .regs 0 97 0) = false ∧
    instrWf (.put 0 0 0 61 0) = false ∧ instrWf (.wwait true 0 3) = false ∧ instrWf (.strm 0 0 62 false .normal 0 0) = false := by decide

/-! ### A state to test on -/

/-- An array descriptor (R232). -/
def desc (base ext tid es cm ovr : Nat) : BitVec 128 :=
  BitVec.ofNat 128 (base + ext * 2 ^ 64 + tid * 2 ^ 96 + es * 2 ^ 112 + cm * 2 ^ 115 + ovr * 2 ^ 116)

/-- Descriptors: a0 of 64 scratchpad words, a1 the same in trap mode, a2 of global words from virtual address 0, a3 of doublewords in the
scratchpad, a4 of bank words, a5 of tensor 1, a6 of global bytes. -/
def descs : List (Nat × BitVec 128) :=
  [(0, desc 0 64 0 2 0 2), (1, desc 0 64 0 2 1 2), (2, desc 0 64 0 2 0 1), (3, desc 0 64 0 3 0 2), (4, desc 0 64 0 2 0 3), (5, desc 0 64 1 2 0 1),
   (6, desc 0 4096 0 0 0 1)]

/-- A team with 64 KiB of scratchpad on core 0. -/
def boxTeam : Team :=
  { id := 0, launch := 0, ctx := 0, queue := 0, no := 0, core := 0, slot := 0, lastCore := 0, gangs := 1, scrBase := 0, scrGranules := 16, block := 0,
    barwd := 0, saves := 0, tFirst := 0, age := 0, pushed := true, push := [], target := none, saved := false, savedGangs := [], endNow := false,
    forkSwap := false, back := false, affWait := none, stallSum := [], reclaim := none }

/-- A supervisor gang of eight lanes, all active, at virtual address 0, with every register, its scalars from `xs`, and bank memory open. -/
def box (xs : List (Nat × Word)) : State :=
  let g := fetchGang Gang.blank
  { placeCode State.reset 0 with
    gang := { g with bkwin := 0x3FF0000, trapv := 0x8000, a := descs, s := xs, arm := { g.arm with shS := xs.map (fun e => (e.1, ⟨e.2.toInt, e.2.toInt⟩)) } }
    teams := [boxTeam] }

/-- The checks of `Issues` for an instruction that names no open stream. -/
def ready (i : Instr) (sup : Bool) (s : State) : Bool :=
  s.live && instrWf i && usesOk s.gang i && (!sup || s.gang.arm.sup) && (popsOf s.gang i).isEmpty &&
    (hazardReg s.gang (usesNow s.gang.arm i)).isNone && !owedWrite s.gang (usesNow s.gang.arm i)

theorem issues {i : Instr} {sup : Bool} {s : State} (h : ready i sup s = true) : Issues i sup s s := by
  simp only [ready, Bool.and_eq_true, Bool.not_eq_true', Bool.or_eq_true, List.isEmpty_iff, Option.isNone_iff_eq_none] at h
  obtain ⟨⟨⟨⟨⟨⟨h1, h2⟩, h3⟩, h4⟩, h5⟩, h6⟩, h7⟩ := h
  refine ⟨h1, h2, h3, fun hs => ?_, ?_, h6, h7⟩
  · rcases h4 with h4 | h4
    · simp [hs] at h4
    · exact h4
  · simp [popAll, h5]

/-- Every instruction of a list issues. -/
theorem issuesAll {xs : List Instr} {sup : Bool} {s : State} (h : (xs.all (fun i => ready i sup s)) = true) : ∀ i ∈ xs, Issues i sup s s :=
  fun i hi => issues (List.all_eq_true.1 h i hi)

/-! ### Every instruction issues somewhere -/

theorem witness_issues_arithmetic : ∀ i ∈ [Instr.add .vvv 8 9 10, .sub .vvs 8 9 10, .mul .sss 8 9 10, .mulh .vvv 8 9 10, .div .vvv 8 9 10,
    .rem .vvv 8 9 10, .min .vvv 8 9 10, .max .vvv 8 9 10, .and .vvv 8 9 10, .or .vvv 8 9 10, .xor .vvv 8 9 10, .andn .vvv 8 9 10, .shl .vvv 8 9 10,
    .shr .vvv 8 9 10, .sra .vvv 8 9 10, .rot .vvv 8 9 10, .abs .vec 8 9, .neg .scal 8 9, .clz .vec 8 9, .ctz .vec 8 9, .popc .vec 8 9, .brev .vec 8 9,
    .addImm8 .vec 8 9 1, .andImm8 .vec 8 9 1, .orImm8 .vec 8 9 1, .xorImm8 .vec 8 9 1, .minImm .vec 8 9 1, .maxImm .vec 8 9 1, .shlImm .vec 8 9 1,
    .shrImm .vec 8 9 1, .sraImm .vec 8 9 1, .rotImm .vec 8 9 1, .addImm32 .i64 .vec 8 10 1, .andImm32 .b32 .vec 8 10 1, .orImm32 .b64 .vec 8 10 1,
    .xorImm32 .b32 .scal 8 10 1, .li .vec 8 1, .liImm32 .f64 .scal 8 1, .integerGroup .add .i64 .vvv 8 10 12, .bfx .b32 .vvs 8 9 10,
    .mad .i32 .vvv 8 9 10 11, .clamp .i32 .vvv 8 9 10 11, .sel .b32 .vvv 8 9 10 11, .bfi .b32 .vvv 8 9 10 11, .cmp .lt .i64 .vvv 8 10 12],
    Issues i false (box []) (box []) := issuesAll (by decide +kernel)

theorem witness_issues_lanes : ∀ i ∈ [Instr.mov .vec 8 9, .movs 8 9, .extGet 8 9 10, .extPut 8 9 10, .vote .any 8 9, .vote .all 8 9, .vote .ballot 8 9,
    .red .add 8 9, .scan .max 8 9, .shfl .idx 8 9 10, .shfl .up 8 9 10, .shfl .down 8 9 10, .shfl .xor 8 9 10, .shflImm 8 9 1, .shflXorImm 8 9 1,
    .widr .vec 8 0, .widr .scal 8 5, .widr .vec 8 6, .widr .vec 8 7, .gwidWidth 8, .gwidLive 8, .gwidSlices 8, .gwidSlot 8, .gwidPack 8, .rdtime 8, .cget 8 1,
    .iget .vec 8 10, .itop .scal 8, .iwdn .vec 8 10 11, .b 1, .call 1, .join, .bc .eq true 8 1 1, .loop .lt false 8 9 1, .vb .eq false 8 9 1 1,
    .nop, .yield, .csrr 8 0x22, .exit, .cset 1 5, .csetReg 1 8], Issues i false (box []) (box []) := issuesAll (by decide +kernel)

theorem witness_issues_supervisor : ∀ i ∈ [Instr.csrw 0x20 8, .csrs 0x21 8, .csrc 0x40 8, .halt, .rfe, .tlbinvPage 4 0 1, .tlbinvCtx 1, .tlbinvAsid 4 1,
    .tlbinvAll 1, .pgmapFt 8 1, .pgmapVa 8 10 1, .pgmapPost, .migFrame false 6 8 4 1, .pin 8 4 0 1, .unpin 8 4 0 1, .hotClr 4 1],
    Issues i true (box []) (box []) := issuesAll (by decide +kernel)

theorem witness_issues_memory : ∀ i ∈ [Instr.adset 0 4 0x20000, .adsetR 0 4, .adget .base 8 0, .adget .ext 8 0, .adget .attr 8 0, .pgqry .scal 8 4 1,
    .pgqry .vec 8 10 1, .migTo false .hbm 0 8 4 1, .migCancel 8 4 1, .hotRd 8 4 1, .plc .lpddr 0 4 0 1, .plcMove .cxl 0 4 0 1, .treg 8 4 1 1,
    .tunreg 8 5 1, .tinv false 8 5 1, .tld false 8 5 10 0 1, .tst false 8 5 10 0 1, .thalo false false 8 5 10 1 1 0 1, .tpf false 5 10 1 0 1, .tqry 8 5 10 1],
    Issues i false (box []) (box []) := issuesAll (by decide +kernel)

theorem witness_issues_units : ∀ i ∈ [Instr.cpy 0 false 0 0 1 8 1, .cpyb 0 false 0 0 1 8 1, .job false 0 8 1, .jst 8 10 1, .close 8 1,
    .mvn 0 false 0 false 0 1 2 8 1, .strm 0 0 8 false .normal 0 1, .sclose .all 1, .obres 0 0 1 8 12, .obrel 1 1, .obld 4 1 0 8 1, .obldRec 4 1 0 8 1,
    .mma false false 0 1 1 8 1, .mloop false false 0 1 1 8 1, .acz .f32 0 1, .aczRel 0 1, .acld .regs 0 8 1, .acst .regs 0 8 1, .acld (.mem 0) 0 8 1,
    .acst (.mem 0) 0 8 1, .mstat .eng 8 1, .put 0 0 0 8 1, .wreg 8 0 12 1, .wregRel 8 0 1, .wctr true 8 0, .wwait true 0 8, .fork 8 1],
    Issues i false (box []) (box []) := issuesAll (by decide +kernel)

theorem witness_issues_floating : ∀ i ∈ [Instr.fadd .vvv 8 9 10, .fsub .vvv 8 9 10, .fmul .vvv 8 9 10, .fmin .vvv 8 9 10, .fmax .vvv 8 9 10, .fdiv .vvv 8 9 10,
    .fsqrt .vec 8 9, .frnd .vec 8 9, .fclass .vec 8 9, .frcp .vec 8 9, .frsq .vec 8 9, .fexp2 .vec 8 9, .flog2 .vec 8 9, .fsin .vec 8 9, .fcos .vec 8 9,
    .ftanh .vec 8 9, .floatingGroup .fadd .f64 .vvv 8 10 12, .specialFunctionGroup .frcp .f16 .vec 8 9, .fcmp .lt .f32 .vvv 8 9 10,
    .ffma .f64 .vvv 8 10 12 14, .padd .f16x2 .vvv 8 9 10, .pmul .bf16x2 .vvv 8 9 10, .pfma .f16x2 .vvv 8 9 10 11, .pdot .e4m3x4 .vvv 8 9 10 11,
    .qcvt .q4g32 .vss 8 9 10 11, .dqcvt .q4g32 .vss 8 9 10 11, .fcvt .f64 .f32 .vvv 8 10 0, .fcvti .i32 .f64 .vec 8 10, .icvtf .f32 .i64 .vec 8 10,
    .cvt .i64 .i32 .vec 8 10, .rdflg .vec 8 31, .clflg .scal 31, .pairWord ⟨false, 9, 10, 8, .fadd⟩ ⟨true, 11, 10, 13, .add⟩],
    Issues i false (box []) (box []) := issuesAll (by decide +kernel)

/-- An instruction with an open stream: `popAll` gives the state with its values. -/
def streamBox : State :=
  let s := box []
  { s with gang := { s.gang with streams :=
    ({ Stream.closed with isOpen := true, desc := desc 0 64 0 2 0 2, levels := [(64, 1)] } : Stream) :: s.gang.streams.drop 1 } }

theorem witness_issues_stream : ∃ s1, Issues (.add .vvv 8 124 10) false streamBox s1 := by
  cases h : popAll streamBox (.add .vvv 8 124 10) with
  | ok s => exact ⟨s, by decide +kernel, by decide +kernel, by decide +kernel, (fun h => by cases h), h, by decide +kernel, by decide +kernel⟩
  | trap t s =>
    have : (match popAll streamBox (.add .vvv 8 124 10) with | .ok _ => true | _ => false) = true := by decide +kernel
    rw [h] at this; cases this
  | stall r s =>
    have : (match popAll streamBox (.add .vvv 8 124 10) with | .ok _ => true | _ => false) = true := by decide +kernel
    rw [h] at this; cases this

/-- The box with FPC at `x`. -/
def fpcBox (x : Word) : State := let s := box []; { s with gang := { s.gang with fpc := x } }

theorem witness_floatingResults : ∃ o, Claims.arithOf (.fadd .vvv 8 9 10) = some o ∧ o.traps = true ∧ Issues (.fadd .vvv 8 9 10) false (box []) (box []) ∧
    ∀ l, Claims.lane (box []) o.k l → (o.val (effCtl (box []).gang) (box []) l).2 &&& (effCtl (box []).gang).te = 0 := by
  refine ⟨_, rfl, rfl, issues (by decide +kernel), fun l _ => ?_⟩
  have h : (effCtl (box []).gang).te = 0 := by decide +kernel
  rw [h]
  exact BitVec.and_zero

/-- 1 / 0 with every trap enabled; a scalar and a vector. -/
theorem witness_floatingTraps : ∀ k : Kind, ∃ o, Claims.arithOf (.frcp k 8 9) = some o ∧ o.traps = true ∧
    Issues (.frcp k 8 9) false (fpcBox 0x1F000000) (fpcBox 0x1F000000) ∧ Claims.lane (fpcBox 0x1F000000) o.k 0 ∧
    (o.val (effCtl (fpcBox 0x1F000000).gang) (fpcBox 0x1F000000) 0).2 &&& (effCtl (fpcBox 0x1F000000).gang).te ≠ 0 := by
  intro k
  cases k
  · exact ⟨_, rfl, rfl, issues (by decide +kernel), ⟨by decide, by decide +kernel⟩, by decide +kernel⟩
  · exact ⟨_, rfl, rfl, issues (by decide +kernel), rfl, by decide +kernel⟩

theorem witness_roundingModes : flushOut (effCtl (box []).gang) .f32 = false ∧
    ((3 : ℕ) : ℚ) * (2 : ℚ) ^ (-2 : ℤ) ≤ ((maxfMant .f32).1 : ℚ) * (2 : ℚ) ^ (maxfMant .f32).2 := by
  have h : maxfMant .f32 = (16777215, 104) := by decide +kernel
  refine ⟨by decide +kernel, ?_⟩
  rw [h]
  norm_num

theorem witness_effectiveControls : (∃ g : Gang, g.arm.pr = none) ∧ ∀ rm : PrRound, ∃ g : Gang, ∃ p, g.arm.pr = some p ∧ p.rm = rm :=
  ⟨⟨Gang.blank, rfl⟩, fun rm => ⟨{ Gang.blank with arm := { Arm.blank with pr := some ⟨0, true, .on, .off, true, rm⟩ } }, _, rfl, rfl⟩⟩

/-- 1, a quiet NaN and +∞ as .f32 operands: 2^23 · 2^−23. -/
theorem witness_finiteOperands : fpOperand (effCtl Gang.blank) .f32 0x3F800000 = .fin false 8388608 (-23) ∧
    isNaN (fpOperand (effCtl Gang.blank) .f32 0x7FC00000) = true ∧ fpOperand (effCtl Gang.blank) .f32 0x7F800000 = .inf false := by decide +kernel

/-- Both elements 1, in both operands, with C = 1. -/
theorem witness_packedResults : tyIsPackedFloat .f16x2 = true ∧
    ∀ j, j < 2 → fpOperand (effCtl Gang.blank) .f16 (elemGet 16 0x3C003C00 j) = .fin false 1024 (-10) := by decide +kernel

/-- A header of .q4g32 with H = 1 (R260). -/
theorem witness_quantizedResults : tyIsRecord .q4g32 = true ∧ recBad .q4g32 0x01003C00 = false ∧
    fpDecode .f16 (0x01003C00 % 2 ^ 16) = .fin false 1024 (-10) := by decide +kernel

theorem witness_identity : (0 : BitVec 8).toNat < 6 ∧ (5 : BitVec 8).toNat < 6 ∧ Issues (.widr .scal 8 5) false (box []) (box []) ∧
    Issues (.widr .vec 8 6) false (box []) (box []) :=
  ⟨by decide, by decide, issues (by decide +kernel), issues (by decide +kernel)⟩

/-- One operation outstanding on counter 1, in debug-hazard mode. -/
def anOp (id ctr : Nat) (k : OpKind) : Op := ⟨id, 0, ctr, 1, k, [], none, true, true, 0, 0, []⟩
def opBox (ops : List Op) (gmode : Word) : State := let s := box []; { s with gang := { s.gang with ops := ops, gmode := gmode } }

theorem witness_counterMoves :
    (Issues (.cset 1 5) false (opBox [anOp 7 1 .mem] 1) (opBox [anOp 7 1 .mem] 1) ∧ (opBox [anOp 7 1 .mem] 1).gang.gmode.getLsbD 0 = true ∧
      ∃ o ∈ (opBox [anOp 7 1 .mem] 1).gang.ops, o.ctr = (1 : CtrNo).toNat) ∧
    Issues (.csetReg 1 8) false (box []) (box []) ∧
      ¬((box []).gang.gmode.getLsbD 0 = true ∧ ∃ o ∈ (box []).gang.ops, o.ctr = (1 : CtrNo).toNat) :=
  ⟨⟨issues (by decide +kernel), by decide +kernel, by decide +kernel⟩, issues (by decide +kernel), by decide +kernel⟩

theorem witness_descriptorMoves : Issues (.adset 0 4 0x20000) false (box []) (box []) ∧ Issues (.adsetR 0 4) false (box []) (box []) ∧
    owedDesc (box []).gang 0 = false := ⟨issues (by decide +kernel), issues (by decide +kernel), by decide +kernel⟩

/-- The box with lanes off. -/
def dark (s : State) : State := { s with gang := { s.gang with arm := { s.gang.arm with mask := 0 } } }

theorem witness_intervalInstructions :
    (Issues (.iwdn .vec 8 10 11) false (box [(11, 5)]) (box [(11, 5)]) ∧
      (readS (box [(11, 5)]).gang 10).toInt ≤ (readS (box [(11, 5)]).gang 11).toInt ∧ (box [(11, 5)]).gang.arm.mask ≠ 0) ∧
    (Issues (.iset .scal 8 10 11) false (box [(10, 5)]) (box [(10, 5)]) ∧
      (readS (box [(10, 5)]).gang 11).toInt < (readS (box [(10, 5)]).gang 10).toInt) ∧
    (Issues (.iset .vec 8 10 11) false (dark (box [])) (dark (box [])) ∧ (dark (box [])).gang.arm.mask = 0) ∧
    (Issues (.iset .scal 8 10 11) false (box [(11, 5)]) (box [(11, 5)]) ∧
      ∀ l, Claims.lane (box [(11, 5)]) .scal l → (0 : Int) ≤ (readS (box [(11, 5)]).gang 8).toInt ∧ (readS (box [(11, 5)]).gang 8).toInt ≤ 5) ∧
    (Issues (.iset .vec 8 10 11) false (box [(10, 5), (11, 5)]) (box [(10, 5), (11, 5)]) ∧ Claims.lane (box [(10, 5), (11, 5)]) .vec 0 ∧
      ¬((5 : Int) ≤ (readV (box [(10, 5), (11, 5)]).gang 8 0).toInt) ∧ ¬((5 : Int) ≤ (shadowOf (box [(10, 5), (11, 5)]).gang .vec 8).lo)) :=
  ⟨⟨issues (by decide +kernel), by decide +kernel, by decide +kernel⟩, ⟨issues (by decide +kernel), by decide +kernel⟩,
   ⟨issues (by decide +kernel), by decide +kernel⟩, ⟨issues (by decide +kernel), fun _ _ => by decide +kernel⟩,
   ⟨issues (by decide +kernel), ⟨by decide, by decide +kernel⟩, by decide +kernel, by decide +kernel⟩⟩

/-- The box with 5 in s9. -/
theorem witness_shadowsStayTrue : Claims.shadowRule (.add .sss 8 9 10) = true ∧ Issues (.add .sss 8 9 10) false (box [(9, 5)]) (box [(9, 5)]) ∧
    Claims.ShadowsTrue (box [(9, 5)]).gang ∧ Claims.popsTrue (box [(9, 5)]).gang := by
  refine ⟨rfl, issues (by decide +kernel), ⟨?_, ?_, by decide +kernel, fun p h => ?_⟩, fun r q l h => ?_⟩
  · unfold Claims.within; decide +kernel
  · have hv : ∀ r, r < (box [(9, 5)]).gang.nv → ∀ l, l < 96 → Claims.within (shadowV (box [(9, 5)]).gang r) (readV (box [(9, 5)]).gang r l).toNat := by
      unfold Claims.within; decide +kernel
    exact fun r l hr hl _ => hv r hr l hl
  · cases h
  · have hc : ∀ q ∈ (box [(9, 5)]).gang.streams, q.isOpen = false := by decide +kernel
    unfold openQueue at h
    split at h
    · split at h
      · rename_i hq
        simp [hc _ (List.mem_of_getElem? hq)] at h
      · cases h
    · cases h

theorem witness_intervalRules : tyWidth .i16 ≤ 32 ∧ intFnTy .add .i16 = true ∧ Claims.within ⟨-5, 9⟩ 3 ∧ Claims.within ⟨-1, 0⟩ (2 ^ 32 - 1) ∧
    condHolds .lt (3 : Word) 4 = true ∧ Claims.within ⟨4, 4⟩ (4 : Word).toNat := by
  unfold Claims.within; decide

/-! ### Control flow -/

/-- The gang and the arm of the box, changed. -/
def gangBox (xs : List (Nat × Word)) (f : Gang → Gang) : State := { box xs with gang := f (box xs).gang }
def armBox (xs : List (Nat × Word)) (f : Arm → Arm) : State := gangBox xs (fun g => { g with arm := f g.arm })

theorem witness_jumps :
    (Issues (.jr 8) false (box []) (box []) ∧ (readS64 (box []).gang 8).toNat % 4 = 0 ∧ Issues .ret false (box []) (box []) ∧
      (box []).gang.arm.link.toNat % 4 = 0) ∧
    (Issues (.jrL 8) false (box [(8, 2)]) (box [(8, 2)]) ∧ (readS64 (box [(8, 2)]).gang 8).toNat % 4 ≠ 0) ∧
    (Issues .ret false (armBox [] (fun a => { a with link := 7 })) (armBox [] (fun a => { a with link := 7 })) ∧
      (armBox [] (fun a => { a with link := 7 })).gang.arm.link.toNat % 4 ≠ 0) :=
  ⟨⟨issues (by decide +kernel), by decide +kernel, issues (by decide +kernel), by decide +kernel⟩, ⟨issues (by decide +kernel), by decide +kernel⟩,
   ⟨issues (by decide +kernel), by decide +kernel⟩⟩

/-- Lane 0 of v8 holds 1; the arm may carry a stack. -/
def laneBox (stack : List StackEntry) (spilled : Nat) (pc : DWord) : State :=
  gangBox [] (fun g => { g with v := [(1024, 1)], arm := { g.arm with shV := [(8, ⟨0, 1⟩)], stack := stack, spilled := spilled, pc := pc } })
def anEntry : StackEntry := ⟨0xF00, false, 2, 1⟩

/-- No lane takes the branch, every lane does, some do in an undivided gang, and some do with a stack. -/
theorem witness_vectorBranch :
    (Issues (.vb .ne true 9 0 1 1) false (box []) (box []) ∧ ∀ l, l < 96 → Claims.takes (box []) .ne true 9 0 l = false) ∧
    (Issues (.vb .eq true 9 0 1 1) false (box []) (box []) ∧ (box []).gang.arm.mask ≠ 0 ∧
      ∀ l, l < 96 → Claims.takes (box []) .eq true 9 0 l = active (box []) l) ∧
    (Issues (.vb .ne true 8 0 1 1) false (laneBox [] 0 0) (laneBox [] 0 0) ∧ Claims.takes (laneBox [] 0 0) .ne true 8 0 0 = true ∧
      active (laneBox [] 0 0) 7 = true ∧ Claims.takes (laneBox [] 0 0) .ne true 8 0 7 = false ∧
      ((laneBox [] 0 0).gang.partner = none ∧ (laneBox [] 0 0).gang.arm.stack = [] ∧ (laneBox [] 0 0).gang.arm.spilled = 0)) ∧
    (Issues (.vb .ne true 8 0 1 1) false (laneBox [anEntry] 0 0) (laneBox [anEntry] 0 0) ∧
      Claims.takes (laneBox [anEntry] 0 0) .ne true 8 0 0 = true ∧ Claims.takes (laneBox [anEntry] 0 0) .ne true 8 0 7 = false ∧
      (laneBox [anEntry] 0 0).gang.arm.stack.length < 4 ∧ stackTotal (laneBox [anEntry] 0 0).gang < dsDepth (apCtx (laneBox [anEntry] 0 0)) ∧
      anEntry.vbw ≠ BitVec.ofNat 19 ((laneBox [anEntry] 0 0).gang.arm.pc.toNat / 4)) :=
  ⟨⟨issues (by decide +kernel), by decide +kernel⟩, ⟨issues (by decide +kernel), by decide +kernel, by decide +kernel⟩,
   ⟨issues (by decide +kernel), by decide +kernel, by decide +kernel, by decide +kernel, by decide +kernel⟩,
   ⟨issues (by decide +kernel), by decide +kernel, by decide +kernel, by decide +kernel, by decide +kernel, by decide +kernel⟩⟩

/-- A VB past the first 2 MiB, at its lowest such address, and a full stack. -/
theorem witness_divergenceStack :
    (Issues (.vb .ne true 8 0 1 1) false (laneBox [anEntry] 0 0x200000) (laneBox [anEntry] 0 0x200000) ∧
      Claims.takes (laneBox [anEntry] 0 0x200000) .ne true 8 0 0 = true ∧ Claims.takes (laneBox [anEntry] 0 0x200000) .ne true 8 0 7 = false ∧
      2 ^ 21 ≤ ((laneBox [anEntry] 0 0x200000).gang.arm.pc - (laneBox [anEntry] 0 0x200000).gang.entry).toNat) ∧
    (Issues (.vb .ne true 8 0 1 1) false (laneBox [anEntry] 255 0x1FFFFC) (laneBox [anEntry] 255 0x1FFFFC) ∧
      Claims.takes (laneBox [anEntry] 255 0x1FFFFC) .ne true 8 0 0 = true ∧ Claims.takes (laneBox [anEntry] 255 0x1FFFFC) .ne true 8 0 7 = false ∧
      ((laneBox [anEntry] 255 0x1FFFFC).gang.arm.pc - (laneBox [anEntry] 255 0x1FFFFC).gang.entry).toNat < 2 ^ 21 ∧
      dsDepth (apCtx (laneBox [anEntry] 255 0x1FFFFC)) ≤ stackTotal (laneBox [anEntry] 255 0x1FFFFC).gang) :=
  ⟨⟨issues (by decide +kernel), by decide +kernel, by decide +kernel, by decide +kernel⟩,
   ⟨issues (by decide +kernel), by decide +kernel, by decide +kernel, by decide +kernel, by decide +kernel⟩⟩

/-- A VB that pushes again onto its own entry, and one whose push spills the oldest of four entries, the lane stack mapped and unmapped. -/
def fourBox (lsbase : Word) : State :=
  let s := laneBox [anEntry, anEntry, anEntry, anEntry] 0 0
  { s with gang := { s.gang with lsbase := lsbase } }

def spillTime (s : State) : Bool :=
  match storeEntry s s.gang.arm.spilled anEntry with
  | .ok u => decide (u.gang.arm.ltime ≤ timeBound u) && u.gang == { s.gang with arm := { s.gang.arm with ltime := u.gang.arm.ltime } }
  | .error _ => false

theorem witness_vectorPushes :
    (Issues (.vb .ne true 8 0 1 2) false (laneBox [anEntry] 0 4) (laneBox [anEntry] 0 4) ∧ Claims.takes (laneBox [anEntry] 0 4) .ne true 8 0 0 = true ∧
      active (laneBox [anEntry] 0 4) 7 = true ∧ Claims.takes (laneBox [anEntry] 0 4) .ne true 8 0 7 = false ∧
      (anEntry.vbw = BitVec.ofNat 19 (((laneBox [anEntry] 0 4).gang.arm.pc - (laneBox [anEntry] 0 4).gang.entry).toNat / 4) ∧ anEntry.jn = 2 ∧
        anEntry.parked = false)) ∧
    (∀ b ∈ [(0 : Word), 1], Issues (.vb .ne true 8 0 1 1) false (fourBox b) (fourBox b) ∧ Claims.takes (fourBox b) .ne true 8 0 0 = true ∧
      active (fourBox b) 7 = true ∧ Claims.takes (fourBox b) .ne true 8 0 7 = false ∧ stackTotal (fourBox b).gang < dsDepth (apCtx (fourBox b))) ∧
    spillTime (fourBox 0) = true ∧ (∃ x, storeEntry (fourBox 1) 0 anEntry = .error x) := by
  refine ⟨⟨issues (by decide +kernel), by decide +kernel⟩, fun b hb => ?_, by decide +kernel, ?_⟩
  · simp only [List.mem_cons, List.not_mem_nil, or_false] at hb
    rcases hb with rfl | rfl <;> exact ⟨issues (by decide +kernel), by decide +kernel⟩
  · cases h : storeEntry (fourBox 1) 0 anEntry with
    | error x => exact ⟨x, rfl⟩
    | ok u =>
      have : (match storeEntry (fourBox 1) 0 anEntry with | .ok _ => true | _ => false) = false := by decide +kernel
      rw [h] at this; cases this

/-- An arm at its join, with an entry that waits, with a parked one, and two arms at the split's join. -/
def joinBox (parked : Bool) : State := armBox [] (fun a => { a with pc := 12, stack := [{ anEntry with parked := parked }] })
def splitBox (parked : Bool) : State :=
  gangBox [] (fun g => { g with gj := some 12, arm := { g.arm with pc := 12 }, partner := some { Arm.blank with slot := 1, parked := parked } })

theorem witness_joinArrival :
    (∀ b, (joinBox b).gang.arm.parked = false ∧ (joinBox b).gang.arm.stall = .none ∧ currentJoin (joinBox b).gang = some (joinBox b).gang.arm.pc ∧
      (joinBox b).gang.arm.stack = [{ anEntry with parked := b }] ∧ (joinBox b).gang.arm.spilled = 0) ∧
    ∀ b, (splitBox b).gang.arm.parked = false ∧ (splitBox b).gang.arm.stall = .none ∧ currentJoin (splitBox b).gang = some (splitBox b).gang.arm.pc ∧ (splitBox b).gang.arm.stack = [] ∧
      (splitBox b).gang.partner = some { Arm.blank with slot := 1, parked := b } ∧ (splitBox b).gang.gj = some 12 := by
  constructor <;> intro b <;> cases b <;> decide +kernel

theorem witness_exitPaths : (∀ b, Issues .exit false (joinBox b) (joinBox b)) ∧
    (Issues .exit false (splitBox false) (splitBox false) ∧ (splitBox false).gang.exited = false) ∧
    (Issues .exit false (box []) (box []) ∧ (box []).gang.arm.stack = [] ∧ (box []).gang.partner = none) :=
  ⟨fun b => by cases b <;> exact issues (by decide +kernel), ⟨issues (by decide +kernel), by decide +kernel⟩,
   ⟨issues (by decide +kernel), by decide +kernel, by decide +kernel⟩⟩

/-- A wait whose phase is over (the object's PHASE reads 0 and the arm joined phase 2^32 - 1), and a first arrival of two arms. -/
theorem witness_teamBarriers :
    (let s := armBox [] (fun a => { a with barWaits := [(3, false, some 0xFFFFFFFF)] })
     Issues (.bar 3) false s s ∧ s.gang.arm.barWaits.find? (fun w => w.1 == 3 && w.2.1 == inHandler s.gang.arm) =
        some (3, inHandler s.gang.arm, some 0xFFFFFFFF) ∧ (barArr s.gang 3).slots = [] ∧ phasePassed s (gangBarObj s 3) 0xFFFFFFFF = true) ∧
    (∀ i ∈ [Instr.bar 3, .barTx 3 16, .barTxReg 3 8], Issues i false (splitBox false) (splitBox false)) ∧
    ((splitBox false).gang.partner.map (fun p => p.slot) = some 1 ∧ (barArr (splitBox false).gang 3).slots = [] ∧
      (splitBox false).gang.arm.barWaits = []) :=
  ⟨⟨issues (by decide +kernel), by decide +kernel, by decide +kernel, by decide +kernel⟩, issuesAll (by decide +kernel), by decide +kernel⟩

theorem witness_quietBoundary : Undisturbed (box []) ∧ Undisturbed (splitBox false |> fun s => { s with gang := { s.gang with gj := some 16 } }) :=
  ⟨⟨by decide +kernel, by decide +kernel, by decide +kernel, by decide +kernel⟩, ⟨by decide +kernel, by decide +kernel, by decide +kernel, by decide +kernel⟩⟩

theorem witness_sequentialAdvance :
    (∃ p, (armBox [] (fun a => { a with pn := some ⟨0, 0, 1, 1, 3⟩, rep := 2 })).gang.arm.pn = some p ∧ 2 + 1 ≤ p.cnt.toNat) ∧
    (∀ p, (armBox [] (fun a => { a with pn := some ⟨0, 0, 1, 1, 3⟩, rep := 3 })).gang.arm.pn = some p → p.cnt.toNat < 3 + 1) := by
  refine ⟨⟨_, rfl, by decide⟩, fun p h => ?_⟩
  cases h
  decide

/-! ### Traps and control registers -/

/-- The box in the handler of a cause. -/
def handlerBox (cause : Word) : State := armBox [] (fun a => { a with fstat := 0x40000000 + cause })

theorem witness_trapEntry :
    (((box []).gang.arm.fstat.getLsbD 30 = false ∧ (box []).gang.arm.stack = [] ∧ (box []).gang.gmode.getLsbD 2 = false ∧ (box []).gang.arm.rep < 64) ∧
      (⟨1, 0, 0, 0, []⟩ : Trap).cause ∉ [0x0B, 0x0E, 0x12] ∧ (⟨0x0B, 255, 0, 0, []⟩ : Trap).reason < 256) ∧
    (handlerBox 1).gang.arm.fstat.getLsbD 30 = true := by decide +kernel

/-- A stack of one entry, one of two, and one whose store faults. -/
theorem witness_stackAtEntry : (laneBox [anEntry] 0 0).gang.arm.stack = [anEntry] ∧
    ((laneBox [anEntry, anEntry] 0 0).gang.arm.stack = [anEntry, anEntry] ∧
      (match storeEntry (laneBox [anEntry, anEntry] 0 0) 1 anEntry with | .ok _ => true | _ => false) = true) ∧
    ((fourBox 1).gang.arm.fstat.getLsbD 30 = false ∧ (fourBox 1).gang.gmode.getLsbD 2 = false ∧
      (match storeStack (fourBox 1) with | .error _ => true | _ => false) = true) := by decide +kernel

theorem witness_returnFromTrap : (Issues .rfe true (handlerBox 1) (handlerBox 1) ∧ (handlerBox 1).gang.arm.fstat.getLsbD 30 = true) ∧
    Issues .rfe true (box []) (box []) ∧ (box []).gang.arm.fstat.getLsbD 30 = false :=
  ⟨⟨issues (by decide +kernel), by decide +kernel⟩, issues (by decide +kernel), by decide +kernel⟩

/-- The box in user code. -/
def userBox : State := armBox [] (fun a => { a with sup := false })

theorem witness_privilege : (∀ i ∈ [Instr.halt, .rfe, .csrw 0x20 8, .csrs 0x21 8, .csrc 1 8, .tlbinvPage 4 0 1, .tlbinvCtx 1, .tlbinvAsid 4 1,
      .tlbinvAll 1, .pgmapFt 8 1, .pgmapVa 8 10 1, .pgmapPost, .migFrame false 6 8 4 1, .pin 8 4 0 1, .unpin 8 4 0 1, .hotClr 4 1],
      userBox.live = true ∧ instrWf i = true ∧ usesOk userBox.gang i = true ∧ userBox.gang.arm.sup = false) ∧
    Claims.supervisorOnly (.csrc 1 8) ∧ Claims.supervisorOnly (.hotClr 4 1) ∧ Claims.supervisorOnly (.unpin 8 4 0 1) := by
  refine ⟨by decide +kernel, ?_, ?_, ?_⟩ <;> simp [Claims.supervisorOnly]

/-- A debugger of context 0 with the right and BRKH. -/
def debugBox (f : Arm → Arm) : State := { armBox [] f with mmio := smapSet 0 (box []).mmio (dbgBlock 0) 0x30000 }

theorem witness_softwareTraps : Issues (.trap 5) false (box []) (box []) ∧ (Issues (.brk 5) false (box []) (box []) ∧ brkStops (box []) = false) ∧
    (∀ b, Issues (.brk 5) false (debugBox (fun a => { a with skipStop := b })) (debugBox (fun a => { a with skipStop := b })) ∧
      brkStops (debugBox (fun a => { a with skipStop := b })) = true) :=
  ⟨issues (by decide +kernel), ⟨issues (by decide +kernel), by decide +kernel⟩,
   fun b => by cases b <;> exact ⟨issues (by decide +kernel), by decide +kernel⟩⟩

theorem witness_halt : ∀ s ∈ [box [], handlerBox 0x0B, handlerBox 0x0E, handlerBox 1], Issues .halt true s s := by
  intro s hs
  simp only [List.mem_cons, List.not_mem_nil, or_false] at hs
  rcases hs with rfl | rfl | rfl | rfl <;> exact issues (by decide +kernel)

theorem witness_prefixes : (box []).live = true ∧ instrWf (.pr 0x1F true .on .off true .rup) = true := by decide +kernel

/-- A privileged register, and user code's write of an unprivileged one. -/
theorem witness_controlRegisters : Issues (.csrw 0x20 8) (!([0, 2, 6, 7, 8, 9, 10].contains (0x20 : BitVec 12).toNat)) (box []) (box []) ∧
    Issues (.csrs 2 8) (!([0, 2, 6, 7, 8, 9, 10].contains (2 : BitVec 12).toNat)) userBox userBox ∧
    Issues (.csrc 0 8) (!([0, 2, 6, 7, 8, 9, 10].contains (0 : BitVec 12).toNat)) userBox userBox :=
  ⟨issues (by decide +kernel), issues (by decide +kernel), issues (by decide +kernel)⟩

/-- No more registers asked for than held, more, a waiting request at the head of its core's queue, and a release. -/
theorem witness_registerGrowth :
    (Issues (.vgrow 16 8) false (box []) (box []) ∧ 8 * (16 : BitVec 5).toNat ≤ (box []).gang.nv) ∧
    (let s := gangBox [] (fun g => { g with nv := 64 })
     Issues (.vgrow 16 8) false s s ∧ s.gang.nv < 8 * (16 : BitVec 5).toNat) ∧
    (let s := gangBox [] (fun g => { g with nv := 64, arm := { g.arm with stall := .vgrow 128 64 } })
     s.live = true ∧ vgrowQueue s 0 = [(0, 0, s.gang, s.gang.arm)] ∧ vrfRoom s 0 ((128 - s.gang.nv) * 32 * (s.gang.declared / 8)) = true) ∧
    (Issues (.vshrink 8 0) false (box []) (box []) ∧ ∀ a ∈ armsOf (box []).gang, ∀ o ∈ a.owed, o.landed = true) :=
  ⟨⟨issues (by decide +kernel), by decide +kernel⟩, ⟨issues (by decide +kernel), by decide +kernel⟩, by decide +kernel,
   ⟨issues (by decide +kernel), by decide +kernel⟩⟩

/-- A counter at its value with a matrix flag to merge; one short of it; at it with a cause. -/
def aPend (cause : Nat) : Pend := ⟨1, 1, cause, 2, 0x40, 0, 0x10⟩
def waitBox (p : List Pend) (c : BitVec 16) : State := gangBox [(8, 1)] (fun g => { g with pend := p, c := [(1, c)] })

/-- No image to place, and one whose bytes no other agent has written. -/
def imageBox : State := gangBox [] (fun g => { g with images := [⟨0, 1, 1, 0, [(0, 1), (1, 2)]⟩], ctimes := [(1, 7)] })

theorem witness_waitPlaces : (∀ im ∈ (box []).gang.images, imagesOf (box []).gang 1 1 im = false) ∧
    (imageBox.gang.images.filter (imagesOf imageBox.gang 1 1) = [⟨0, 1, 1, 0, [(0, 1), (1, 2)]⟩] ∧
      ([((0 : Nat), (1 : Byte)), (1, 2)].map Prod.fst).Nodup ∧ imageBox.teams.find? (fun m => m.id == imageBox.gang.team) = some boxTeam ∧
      (stampOf imageBox (scrLine (scrKey imageBox.gang.core (boxTeam.scrBase * 4096)))).wby = armNo imageBox) := by decide +kernel

theorem witness_waits :
    (Claims.waits (.wait 1 1) 1 (fun _ => 1) ∧ Issues (.wait 1 1) false (waitBox [aPend 0] 1) (waitBox [aPend 0] 1) ∧
      (smapGet 0 (waitBox [aPend 0] 1).gang.c 1 - 1).toNat < 2 ^ 15 ∧ ∀ p ∈ (waitBox [aPend 0] 1).gang.pend, Claims.considered 1 1 p = true → p.cause = 0) ∧
    (waitPlaced 1 1 (waitBox [aPend 0] 1)).gang.arm.ltime ≤ timeBound (waitBox [aPend 0] 1) ∧
    (Issues (.waitReg 1 8) false (waitBox [] 0) (waitBox [] 0) ∧
      2 ^ 15 ≤ (smapGet 0 (waitBox [] 0).gang.c 1 - (readS (waitBox [] 0).gang 8).extractLsb' 0 16).toNat ∧ (waitBox [] 0).gang.arm.stall = .none) ∧
    (Issues (.wait 1 1) false (waitBox [aPend 0x0A] 1) (waitBox [aPend 0x0A] 1) ∧ aPend 0x0A ∈ (waitBox [aPend 0x0A] 1).gang.pend ∧
      Claims.considered 1 1 (aPend 0x0A) = true ∧ (aPend 0x0A).cause ∈ [0x0A, 0x0E, 0x0F, 0x14, 0x15, 0x16] ∧
      ∀ q ∈ (waitBox [aPend 0x0A] 1).gang.pend, q = aPend 0x0A) :=
  ⟨⟨.inl ⟨1, rfl, rfl⟩, issues (by decide +kernel), by decide +kernel, by decide +kernel⟩, by decide +kernel,
   ⟨issues (by decide +kernel), by decide +kernel, by decide +kernel⟩,
   ⟨issues (by decide +kernel), by decide +kernel, by decide +kernel, by decide +kernel, by decide +kernel⟩⟩

/-- Data to land in v8 lane 95 and s60, an operation that may arrive, a stalled WAIT, and a barrier wait past its limit. -/
theorem witness_counterEvents :
    (let o : Op := ⟨7, 0, 1, 1, .mem, [⟨true, 8, 95, 3⟩, ⟨false, 60, 0, 4⟩], none, false, true, 0, 0, []⟩
     let s := opBox [o] 0
     s.live = true ∧ s.gang.ops.find? (fun x => x.id == 7) = some o ∧ o.kind = .mem ∧ o.landed = false ∧ o.after ≤ s.cc ∧ o.banks = [] ∧ o.desc = none ∧
       ∀ w ∈ o.lands, w.lane < 96 ∧ (w.vec = false → w.reg < 61)) ∧
    (let s := opBox [anOp 7 1 .mem] 0
     s.live = true ∧ outstanding s.gang 1 = [anOp 7 1 .mem] ∧ (anOp 7 1 .mem).landed = true ∧ (anOp 7 1 .mem).done = true) ∧
    (let s := armBox [] (fun a => { a with stall := .wait 15 0xFFFF 0 })
     s.live = true ∧ s.gang.arm.stall = .wait 15 0xFFFF 0 ∧ (smapGet 0 s.gang.c 15 - BitVec.ofNat 16 0xFFFF).toNat < 2 ^ 15 ∧ s.gang.pend = [] ∧
       s.gang.arm.owed = [] ∧ (waitPlaced 15 0xFFFF s).gang.arm.ltime ≤ timeBound s) ∧
    (let s := { armBox [] (fun a => { a with stall := .bar 3 0, barWaits := [(3, false, none)] }) with cc := 1024, teams := [{ boxTeam with barwd := 1 }] }
     s.live = true ∧ s.gang.arm.stall = .bar 3 0 ∧ watchdog s ≠ 0 ∧ 0 + watchdog s ≤ s.cc ∧ ∀ w ∈ s.gang.arm.barWaits, w.2.2 = none) := by
  decide +kernel

/-- An owed source in debug-hazard mode, and an owed destination. -/
def owedBox (r : Nat) (gmode : Word) : State :=
  gangBox [] (fun g => { g with gmode := gmode, arm := { g.arm with owed := [⟨true, r, 1, 1, 7, false, true, Shadow.top, 255⟩] } })

theorem witness_hazards :
    ((box []).live = true ∧ instrWf (.add .vvv 8 9 10) = true ∧ usesOk (owedBox 9 1).gang (.add .vvv 8 9 10) = true ∧
      (popsOf (owedBox 9 1).gang (.add .vvv 8 9 10)) = [] ∧ hazardReg (owedBox 9 1).gang (usesNow (owedBox 9 1).gang.arm (.add .vvv 8 9 10)) = some 9) ∧
    (usesOk (owedBox 8 0).gang (.add .vvv 8 9 10) = true ∧ hazardReg (owedBox 8 0).gang (usesNow (owedBox 8 0).gang.arm (.add .vvv 8 9 10)) = none ∧
      owedWrite (owedBox 8 0).gang (usesNow (owedBox 8 0).gang.arm (.add .vvv 8 9 10)) = true) := by decide +kernel

/-! ### Memory instructions -/

theorem ok_of {ε α : Type} {x : Except ε α} {p : α → Prop} [DecidablePred p]
    (h : (match x with | .ok a => decide (p a) | .error _ => false) = true) : ∃ a, x = .ok a ∧ p a := by
  cases x with
  | ok a => exact ⟨a, rfl, of_decide_eq_true h⟩
  | error e => cases h

/-- `Claims.settled` as a check. -/
def settledB (x : Xlat) : Bool :=
  match x.walk with
  | none => true
  | some w => w.entry.testBit 5 && w.entry.testBit 6 && w.path.all (fun e => e.2.2.testBit 5)

theorem settled_of {x : Xlat} (h : settledB x = true) : Claims.settled x := by
  intro w hw
  simp only [settledB, hw, Bool.and_eq_true, List.all_eq_true] at h
  exact ⟨h.1.1, h.1.2, h.2⟩

/-- The bound of R333 holds for every access of an arm whose own time and whose lines' times keep it. -/
def inTimeB (s : State) : Bool :=
  decide (armNo s < 2 ^ 60) && decide (s.gang.arm.ltime ≤ timeBound s) &&
    s.caches.stamps.all (fun t => decide (t.wts < timeBound s) && decide (t.rts < timeBound s) && decide (t.rd < timeBound s))

theorem inTime_of {s : State} (h : inTimeB s = true) : Claims.inTime s := by
  simp only [inTimeB, Bool.and_eq_true, decide_eq_true_eq, List.all_eq_true] at h
  obtain ⟨⟨h1, h2⟩, h3⟩ := h
  intro k
  have ht : s.time ≤ timeBound s := Nat.le_add_right _ _
  have key : ∀ st : Stamp, (st.wts < timeBound s ∧ st.rts < timeBound s ∧ st.rd < timeBound s) ∨ (st.wts = 0 ∧ st.wby = 0 ∧ st.rts = 0 ∧ st.rd = 0 ∧ st.rdBy = 0) →
      timeAfter (Max.max (timeAfter (Max.max s.gang.arm.ltime s.time) (armNo s) st.wts st.wby) (if st.rts = 0 then 0 else st.rts + 1)) (armNo s)
        st.rd st.rdBy ≤ timeBound s := by
    intro st h
    unfold timeAfter
    rcases h with h | ⟨a, b, c, d, e⟩
    · split_ifs <;> omega
    · simp only [a, b, c, d, e]
      split_ifs <;> omega
  unfold writeTime writeAfter readAfter agentTime
  simp only [h1, if_true]
  apply key
  unfold stampOf
  split
  · rename_i t hf
    exact .inl (by simpa [and_assoc] using h3 t (List.mem_of_find?_eq_some hf))
  · exact .inr ⟨rfl, rfl, rfl, rfl, rfl⟩

/-- A load and a store of global memory at virtual address 0: their accesses. -/
def globalLoad : Claims.Access := ⟨false, .ss, 8, 2, 9, 0, 1⟩

theorem sound_box (xs : List (Nat × Word)) : Claims.sound (box xs) := ⟨(fun _ h => nomatch h), (fun _ h => nomatch h), rfl, rfl, rfl, rfl, rfl, rfl, rfl, rfl, (fun _ h => nomatch h)⟩

/-- A scalar word of global memory, whose walk finds A and D set; its one piece is at physical address 0x6000. -/
theorem witness_loadsAndStores : ∀ b : Bool, let kind := if b then AccKindF.write else .read
    (if b then Claims.storeOf (.stLong .normal .ss 8 2 9 0 1) else Claims.loadOf (.ldLong false .normal .ss 8 2 9 0 1)) = some globalLoad ∧
    Issues (.ldLong false .normal .ss 8 2 9 0 1) false (box []) (box []) ∧ Issues (.stLong .normal .ss 8 2 9 0 1) false (box []) (box []) ∧
    globalLoad.ready (box []) ∧ globalLoad.vec = false ∧ globalLoad.sized (box []) 4 (!b) b ∧ globalLoad.bounded (box []) ∧ Claims.sound (box []) ∧
    (globalLoad.lanes (box [])).filter (globalLoad.inRange (box [])) = [0] ∧ twinTrap (box []).gang = none ∧
    ∃ cs, checkAccess (box []) (armAgent (box [])) (apCtx (box [])) (descOvr (globalLoad.desc (box []))) 4 kind (globalLoad.elems (box []) 4) = .ok cs ∧
      pastBound (box []) cs b = false ∧ Claims.held cs ∧
      ∃ q, cs.flatMap (fun k => k.pieces) = [q] ∧ (∀ j, j < 4 → cacheable (box []) (q.x.pa + j) = true) ∧ q.x.pa % 256 + 4 ≤ 256 := by
  intro b
  have h : ∀ b : Bool, ∃ cs, checkAccess (box []) (armAgent (box [])) (apCtx (box [])) (descOvr (globalLoad.desc (box []))) 4
      (if b then AccKindF.write else .read) (globalLoad.elems (box []) 4) = .ok cs ∧
      (pastBound (box []) cs b = false ∧ (cs.all (fun k => k.pieces.all (fun q => settledB q.x))) = true ∧
        (cs.flatMap (fun k => k.pieces)).map (fun q => (cacheable (box []) q.x.pa, q.x.pa)) = [(true, 0x6000)]) := by
    intro b
    cases b <;> exact ok_of (by decide +kernel)
  obtain ⟨cs, h1, h2, h3, h4⟩ := h b
  refine ⟨by cases b <;> rfl, issues (by decide +kernel), issues (by decide +kernel), ⟨by decide +kernel, by decide +kernel⟩, rfl,
    ⟨by decide +kernel, by decide +kernel, fun h => by cases h⟩, .inl (by decide +kernel), sound_box [], by decide +kernel, by decide +kernel, cs, h1, h2,
    fun k hk q hq => settled_of (List.all_eq_true.1 (List.all_eq_true.1 h3 k hk) q hq), ?_⟩
  cases hc : cs.flatMap (fun k => k.pieces) with
  | nil => rw [hc] at h4; cases h4
  | cons q l =>
    cases l with
    | nil =>
      rw [hc] at h4
      simp only [List.map_cons, List.map_nil, List.cons.injEq, Prod.mk.injEq, and_true] at h4
      exact ⟨q, rfl, by rw [h4.2]; decide +kernel, by rw [h4.2]; decide⟩
    | cons r l => rw [hc] at h4; simp at h4

/-- Vector accesses of the scratchpad: words, and doublewords in pairs. -/
def scratchWord : Claims.Access := ⟨true, .vs, 8, 0, 9, 0, 1⟩
def scratchPair : Claims.Access := ⟨false, .vs, 8, 3, 9, 0, 1⟩

theorem witness_scratchpad :
    (Claims.loadOf (.ldLong true .normal .vs 8 0 9 0 1) = some scratchWord ∧ Issues (.ldLong true .normal .vs 8 0 9 0 1) false (box []) (box []) ∧
      scratchWord.ready (box []) ∧ (box []).gang.arm.mask ≠ 0 ∧ scratchWord.sized (box []) 4 false true ∧ scratchWord.bounded (box []) ∧
      scratchWord.inScratch (box []) 4 (fun l => 4 * l) ∧ footprintGlobal (apCtx (box [])) (descOvr (scratchWord.desc (box [])))
        (footprintOf (scratchWord.desc (box [])) (accInterval (box []).gang .vs 9 0)) = false) ∧
    (Claims.storeOf (.stLong .normal .vs 8 3 9 0 1) = some scratchPair ∧ Issues (.stLong .normal .vs 8 3 9 0 1) false (box []) (box []) ∧
      scratchPair.ready (box []) ∧ scratchPair.sized (box []) 8 true false ∧ scratchPair.bounded (box []) ∧ twinTrap (box []).gang = none ∧
      scratchPair.inScratch (box []) 8 (fun l => 8 * l)) :=
  ⟨⟨rfl, issues (by decide +kernel), ⟨by decide +kernel, by decide +kernel⟩, by decide +kernel,
    ⟨by decide +kernel, by decide +kernel, fun h => by cases h⟩, .inl (by decide +kernel), ⟨by decide +kernel, rfl, rfl, inTime_of (by decide +kernel)⟩,
    by decide +kernel⟩,
   ⟨rfl, issues (by decide +kernel), ⟨by decide +kernel, by decide +kernel⟩,
    ⟨by decide +kernel, by decide +kernel, fun _ => ⟨by decide +kernel, by decide +kernel, by decide +kernel, by decide +kernel⟩⟩,
    .inl (by decide +kernel), by decide +kernel, ⟨by decide +kernel, rfl, rfl, inTime_of (by decide +kernel)⟩⟩⟩

/-- A prefetch, accesses under a zero mask, an index at the extent in trap mode, and a misaligned base. -/
theorem witness_accessRules :
    (Claims.prefetchOf (.pfLong .normal .vv 2 9 0 1) = some ⟨false, .vv, 0, 2, 9, 0, 1⟩ ∧ Issues (.pfLong .normal .vv 2 9 0 1) false (box []) (box []) ∧
      (⟨false, .vv, 0, 2, 9, 0, 1⟩ : Claims.Access).ready (box []) ∧ descBytes (readA (box []).gang 2) ≠ 0) ∧
    (Issues (.atom .add .normal .vv 8 0 9 0 1) false (dark (box [])) (dark (box [])) ∧
      (⟨false, .vv, 8, 0, 9, 0, 1⟩ : Claims.Access).ready (dark (box [])) ∧ (dark (box [])).gang.arm.mask = 0) ∧
    (let o : Claims.Access := ⟨false, .ss, 8, 1, 9, 0, 1⟩
     Claims.loadOf (.ldLong false .normal .ss 8 1 9 0 1) = some o ∧ Issues (.ldLong false .normal .ss 8 1 9 0 1) false (box [(9, 64)]) (box [(9, 64)]) ∧
       o.ready (box [(9, 64)]) ∧ o.sized (box [(9, 64)]) 4 false true ∧ descTrap (o.desc (box [(9, 64)])) = true ∧
       (o.lanes (box [(9, 64)])).find? (fun l => !o.inRange (box [(9, 64)]) l) = some 0) ∧
    (let s := gangBox [] (fun g => { g with a := [(0, desc 2 64 0 2 0 2)] })
     let o : Claims.Access := ⟨false, .ss, 8, 0, 9, 0, 1⟩
     Claims.storeOf (.stLong .normal .ss 8 0 9 0 1) = some o ∧ Issues (.stLong .normal .ss 8 0 9 0 1) false s s ∧ o.ready s ∧ o.sized s 4 true false ∧
       o.bounded s ∧ (∀ e ∈ o.elems s 4, ∃ t, resolve (apCtx s) (descOvr (o.desc s)) e.addr e.n e.lane = .ok t) ∧
       (o.elems s 4).find? (fun e => decide (e.addr % 4 ≠ 0)) = some ⟨0, 2, 4⟩) := by
  refine ⟨⟨rfl, issues (by decide +kernel), ⟨by decide +kernel, by decide +kernel⟩, by decide +kernel⟩,
    ⟨issues (by decide +kernel), ⟨by decide +kernel, by decide +kernel⟩, by decide +kernel⟩,
    ⟨rfl, issues (by decide +kernel), ⟨by decide +kernel, by decide +kernel⟩, ⟨by decide +kernel, by decide +kernel, fun h => by cases h⟩,
      by decide +kernel, by decide +kernel⟩,
    ⟨rfl, issues (by decide +kernel), ⟨by decide +kernel, by decide +kernel⟩, ⟨by decide +kernel, by decide +kernel, fun h => by cases h⟩,
      .inl (by decide +kernel), ?_, by decide +kernel⟩⟩
  intro e he
  have h : (let s := gangBox [] (fun g => { g with a := [(0, desc 2 64 0 2 0 2)] })
    let o : Claims.Access := ⟨false, .ss, 8, 0, 9, 0, 1⟩
    (o.elems s 4).all (fun e => match resolve (apCtx s) (descOvr (o.desc s)) e.addr e.n e.lane with | .ok _ => true | .error _ => false)) = true := by
    decide +kernel
  have h' := List.all_eq_true.1 h e he
  revert h'
  split
  · exact fun _ => ⟨_, by assumption⟩
  · intro h; cases h

/-- A compare-and-swap of scratchpad words, and an atomic of bank words. -/
theorem witness_atomics :
    (let o : Claims.Access := ⟨false, .vs, 8, 0, 9, 0, 1⟩
     Issues (.atom .cas .normal .vs 8 0 9 0 1) false (box []) (box []) ∧ o.ready (box []) ∧ (box []).gang.arm.mask ≠ 0 ∧ descBytes (o.desc (box [])) = 4 ∧
       (8 : Reg).toNat % 2 = 0 ∧ Claims.extraOk (box []) (extraUses .vs 8 1 true false) ∧ o.bounded (box []) ∧ twinTrap (box []).gang = none ∧
       o.inScratch (box []) 4 (fun l => 4 * l)) ∧
    (let o : Claims.Access := ⟨false, .vs, 8, 4, 9, 0, 1⟩
     Issues (.batom .fma .normal .vs 8 4 9 0 1) false (box []) (box []) ∧ o.ready (box []) ∧ descBytes (o.desc (box [])) = 4 ∧
       Claims.extraOk (box []) (extraUses .vs 8 1 true false) ∧ o.bounded (box []) ∧
       (∀ l ∈ o.lanes (box []), o.inRange (box []) l = true →
         resolve (apCtx (box [])) (descOvr (o.desc (box []))) (elemAddr (o.desc (box [])) (o.idx (box []) l)) 4 l = .ok (.bank (4 * l)) ∧
           elemAddr (o.desc (box [])) (o.idx (box []) l) % 4 = 0) ∧
       (box []).banks.errors = [] ∧ (box []).mem.bankPoison = [] ∧ Claims.inTime (box []) ∧
       ∀ l ∈ (box []).launches, launchMode l 2 = false ∧ launchMode l 3 = false) :=
  ⟨⟨issues (by decide +kernel), ⟨by decide +kernel, by decide +kernel⟩, by decide +kernel, by decide +kernel, by decide +kernel,
    ⟨by decide +kernel, by decide +kernel, by decide +kernel⟩, .inl (by decide +kernel), by decide +kernel, ⟨by decide +kernel, rfl, rfl, inTime_of (by decide +kernel)⟩⟩,
   ⟨issues (by decide +kernel), ⟨by decide +kernel, by decide +kernel⟩, by decide +kernel, ⟨by decide +kernel, by decide +kernel, by decide +kernel⟩,
    .inl (by decide +kernel), by decide +kernel, rfl, rfl, inTime_of (by decide +kernel), fun l hl => by cases hl⟩⟩

/-- A compare-and-swap of a word of global memory, whose one piece is at physical address 0x6000; 1.5 and 2 as .f32, and a NaN. -/
theorem witness_globalAtomics :
    (let o : Claims.Access := ⟨false, .ss, 8, 2, 9, 0, 1⟩
     Issues (.atom .cas .normal .ss 8 2 9 0 1) false (box []) (box []) ∧ o.ready (box []) ∧ o.vec = false ∧ descBytes (o.desc (box [])) = 4 ∧
       (8 : Reg).toNat % 2 = 0 ∧ Claims.extraOk (box []) (extraUses .ss 8 1 true false) ∧ o.bounded (box []) ∧ Claims.sound (box []) ∧
       ∃ cs, checkAccess (box []) (armAgent (box [])) (apCtx (box [])) (descOvr (o.desc (box []))) 4 .atomic (o.elems (box []) 4) = .ok cs ∧
         pastBound (box []) cs true = false ∧ Claims.held cs ∧
         ∀ c ∈ cs, ∃ q, c.pieces = [q] ∧ q.n = 4 ∧ q.x.pa = 0x6000 ∧ ∀ j, j < 4 → cacheable (box []) (q.x.pa + j) = true) ∧
    ((∃ n m e, fpDecode .f32 0x3FC00000 = .fin n m e) ∧ (∃ n m e, fpDecode .f64 0x4000000000000000 = .fin n m e) ∧
      isNaN (fpDecode .f32 0x7FC00000) = true ∧ isNaN (fpDecode .f32 0x3FC00000) = false ∧ 0x3FC00000 < 2 ^ (8 * 4)) := by
  have h : ∃ cs, checkAccess (box []) (armAgent (box [])) (apCtx (box [])) (descOvr (readA (box []).gang 2)) 4 .atomic
      ((⟨false, .ss, 8, 2, 9, 0, 1⟩ : Claims.Access).elems (box []) 4) = .ok cs ∧
      (pastBound (box []) cs true = false ∧ (cs.all (fun k => k.pieces.all (fun q => settledB q.x))) = true ∧
        cs.map (fun k => k.pieces.map (fun q => (q.n, q.x.pa))) = [[(4, 0x6000)]]) := ok_of (by decide +kernel)
  obtain ⟨cs, h1, h2, h3, h4⟩ := h
  refine ⟨⟨issues (by decide +kernel), ⟨by decide +kernel, by decide +kernel⟩, rfl, by decide +kernel, by decide, ⟨by decide +kernel, by decide +kernel, by decide +kernel⟩,
    .inl (by decide +kernel), sound_box [], cs, h1, h2, fun k hk q hq => settled_of (List.all_eq_true.1 (List.all_eq_true.1 h3 k hk) q hq), ?_⟩,
    ⟨_, _, _, rfl⟩, ⟨_, _, _, rfl⟩, by decide +kernel, by decide +kernel, by decide⟩
  intro c hc
  have hm : c.pieces.map (fun q => (q.n, q.x.pa)) ∈ [[((4 : Nat), (0x6000 : Nat))]] := h4 ▸ List.mem_map_of_mem hc
  simp only [List.mem_cons, List.not_mem_nil, or_false] at hm
  obtain ⟨q, hp, hq⟩ := List.map_eq_singleton_iff.1 hm
  obtain ⟨hn, ha⟩ := Prod.mk.injEq .. ▸ hq
  exact ⟨q, hp, hn, ha, by rw [ha]; decide +kernel⟩

/-- A scalar spill block in the scratchpad. -/
theorem witness_spillBytes : let o : Claims.Access := ⟨false, .ss, 8, 0, 9, 0, 1⟩
    o.ready (box []) ∧ descEs (o.desc (box [])) = 2 ∧
    (∀ p ∈ Claims.spillPlaces (o.lanes (box [])) 0 1, 0 ≤ p.2 ∧ p.2 < descExtent (o.desc (box [])) ∧ elemAddr (o.desc (box [])) p.2 % 4 = 0 ∧
      resolve (apCtx (box [])) (descOvr (o.desc (box []))) (elemAddr (o.desc (box [])) p.2) 4 p.1 = .ok (.scratch (4 * p.2).toNat)) ∧
    (∀ p ∈ Claims.spillPlaces (o.lanes (box [])) 0 1, ∀ q ∈ Claims.spillPlaces (o.lanes (box [])) 0 1, p.2 ≠ q.2 →
      (4 * p.2).toNat + 4 ≤ (4 * q.2).toNat ∨ (4 * q.2).toNat + 4 ≤ (4 * p.2).toNat) ∧ Claims.inTime (box []) :=
  ⟨⟨by decide +kernel, by decide +kernel⟩, by decide +kernel, by decide +kernel, by decide +kernel, inTime_of (by decide +kernel)⟩

/-- A spilled scalar register with its shadow. -/
theorem witness_shadowSpills : let o : Claims.Access := ⟨false, .ss, 8, 0, 9, 0, 1⟩
    Issues (.ldSh .normal .ss 8 0 9 0 1) false (box []) (box []) ∧ Issues (.stSh .normal .ss 8 0 9 0 1) false (box []) (box []) ∧ o.ready (box []) ∧
    o.vec = false ∧ descEs (o.desc (box [])) = 2 ∧ (∀ p ∈ [((0, 0) : Nat × Int), (0, 1), (0, 2)], 0 ≤ p.2 ∧ p.2 < descExtent (o.desc (box []))) ∧
    ∀ k ∈ [AccKindF.read, .write], ∃ cs, checkAccess (box []) (armAgent (box [])) (apCtx (box [])) (descOvr (o.desc (box []))) 4 k
        ([((0, 0) : Nat × Int), (0, 1), (0, 2)].map (fun p => ⟨p.1, elemAddr (o.desc (box [])) p.2, 4⟩)) = .ok cs ∧
      (pastBound (box []) cs false = false ∧ pastBound (box []) cs true = false) := by
  refine ⟨issues (by decide +kernel), issues (by decide +kernel), ⟨by decide +kernel, by decide +kernel⟩, rfl, by decide +kernel, by decide +kernel, ?_⟩
  intro k hk
  simp only [List.mem_cons, List.not_mem_nil, or_false] at hk
  rcases hk with rfl | rfl <;> exact ok_of (by decide +kernel)

/-- A descriptor at the last place in range, and one past it. -/
theorem witness_descriptorTransfers : ∀ i ∈ [Instr.adld .normal 7 3 9 0 1, .adst .normal 7 3 9 0 1],
    (Issues i false (box [(9, 62)]) (box [(9, 62)]) ∧ Issues i false (box [(9, 64)]) (box [(9, 64)])) ∧
    owedDesc (box [(9, 62)]).gang 7 = false ∧ owedDesc (box [(9, 62)]).gang 3 = false ∧ descEs (readA (box [(9, 62)]).gang 3) = 3 ∧
    (readS (box [(9, 62)]).gang 9).toInt < descExtent (readA (box [(9, 62)]).gang 3) ∧
    resolve (apCtx (box [(9, 62)])) 2 (elemAddr (readA (box [(9, 62)]).gang 3) 62) 16 0 = .ok (.scratch 496) ∧
    descTrap (readA (box [(9, 64)]).gang 3) = false ∧
    discharged (readA (box [(9, 64)]).gang 3) ⟨(shadowS (box [(9, 64)]).gang 9).lo + 64, (shadowS (box [(9, 64)]).gang 9).hi + 64⟩ = false ∧
    ¬((readS (box [(9, 64)]).gang 9).toInt < descExtent (readA (box [(9, 64)]).gang 3)) := by
  intro i hi
  simp only [List.mem_cons, List.not_mem_nil, or_false] at hi
  rcases hi with rfl | rfl <;>
    exact ⟨⟨issues (by decide +kernel), issues (by decide +kernel)⟩, by decide +kernel⟩

/-! ### Bank memory -/

/-- The registers s4 and s5 name the object at bank byte 0; `cells` are its bytes. -/
def objBox (cells : List Host.Cell) : State := { box [(5, 0x101)] with mem := { (box []).mem with bank := cells } }

theorem atObject_box (cells : List Host.Cell) (h : bankObject (objBox cells) 4 = .ok 0) (h' : inTimeB (objBox cells) = true) : Claims.atObject (objBox cells) 4 1 0 :=
  ⟨h, by simp [objBox, box, placeCode, fetchGang, Gang.blank, outstanding], ⟨rfl, rfl, fun l hl => by cases hl⟩, inTime_of h'⟩

/-- Every BARX instruction, on a barrier that expects two; an arrival with the last place in ARRIVED free. -/
theorem witness_bankBarriers :
    (∀ i ∈ [Instr.barxInit 4 2 1, .barxTx 4 8 1, .barxDone 4 8 1, .barxArr 8 4 1, .barxArrtx 8 4 9 1, .barxRd 8 4 1],
      Issues i false (objBox [(4, 0xFE), (5, 0xFF), (6, 2)]) (objBox [(4, 0xFE), (5, 0xFF), (6, 2)])) ∧
    Claims.atObject (objBox [(4, 0xFE), (5, 0xFF), (6, 2)]) 4 1 0 ∧ bkNat (objBox [(4, 0xFE), (5, 0xFF), (6, 2)]) 4 2 < 65535 ∧
    placesUsed (objBox [(4, 0xFE), (5, 0xFF), (6, 2)]) 0 < 64 ∧ outstanding (objBox [(4, 0xFE), (5, 0xFF), (6, 2)]).gang 1 = [] ∧
    (8 : Reg).toNat < 60 ∧ (∀ o ∈ (objBox []).gang.ops, o.id ≠ (objBox []).serial) :=
  ⟨issuesAll (by decide +kernel), atObject_box _ (by decide +kernel) (by decide +kernel), by decide +kernel, by decide +kernel, by decide +kernel, by decide, by decide +kernel⟩

theorem err_of {ε α : Type} {x : Except ε α} (h : (match x with | .ok _ => false | .error _ => true) = true) : ∃ e, x = .error e := by
  cases x with
  | ok a => cases h
  | error e => exact ⟨e, rfl⟩

/-- An address that is no bank memory. -/
theorem witness_bankObjects : (∃ o, bankObject (objBox []) 4 = .ok o) ∧ ∃ x : Trap, bankObject (box []) 4 = .error x :=
  ⟨⟨0, by decide +kernel⟩, err_of (by decide +kernel)⟩

/-- A reduction of two slots: empty, slot 0 filled, complete; a contribution to each slot and one past them. -/
theorem witness_bankReductions :
    (∀ i ∈ [Instr.brdoInit 4 0 1 1, .brdoAdd 8 4 9 1, .brdoAddv 8 4 9 1, .brdoRd 8 4 9 1], Issues i false (objBox [(0, 2)]) (objBox [(0, 2)])) ∧
    Claims.atObject (objBox [(0, 2)]) 4 1 0 ∧ brdoFits 0 (bkNat (objBox [(0, 2)]) 0 4) = true ∧ brdoBad (objBox [(0, 2)]) 0 = false ∧
    (objBox [(0, 2)]).gang.arm.mask ≠ 0 ∧ twinTrap (objBox [(0, 2)]).gang = none ∧ bkNat (objBox [(0, 2)]) 7 1 % 2 = 0 ∧
    (bkNat (objBox [(0, 2)]) 32 1).testBit 0 = false ∧ bkNat (objBox [(0, 2)]) 4 2 + 1 < 2 ∧
    ((bkNat (objBox [(0, 2), (4, 1), (32, 1)]) 32 1).testBit 0 = true ∧ (bkNat (objBox [(0, 2), (4, 1), (32, 1)]) 32 1).testBit 1 = false ∧
      bkNat (objBox [(0, 2), (4, 1), (32, 1)]) 4 2 + 1 = 2) ∧
    bkNat (objBox [(0, 2), (4, 2), (7, 1), (32, 3)]) 7 1 % 2 = 1 ∧ brdoBad (objBox []) 0 = true ∧
    (1 ≤ bkNat (objBox [(0, 2)]) 0 4 ∧ bkNat (objBox [(1, 0x10)]) 0 4 = 4096 ∧ bkNat (objBox [(0, 2)]) 6 1 ≤ 3) :=
  ⟨issuesAll (by decide +kernel), atObject_box _ (by decide +kernel) (by decide +kernel), by decide +kernel⟩

/-- A complete reduction of 64-bit TYPE, read and added to through pairs. -/
theorem witness_wideReductions :
    (∀ i ∈ [Instr.brdoAdd 8 4 9 1, .brdoAddv 8 4 9 1, .brdoRd 8 4 9 1], Issues i false (objBox [(0, 2), (6, 1)]) (objBox [(0, 2), (6, 1)])) ∧
    Claims.atObject (objBox [(0, 2), (6, 1)]) 4 1 0 ∧ brdoBad (objBox [(0, 2), (6, 1)]) 0 = false ∧ bkNat (objBox [(0, 2), (6, 1)]) 6 1 = 1 ∧
    brdoFits 0 (bkNat (objBox [(0, 2), (6, 1)]) 0 4) = true ∧ (∀ k : Kind, allocated (objBox [(0, 2), (6, 1)]).gang k 9 = true ∧
      hazardReg (objBox [(0, 2), (6, 1)]).gang [⟨k, 9, .x, true, false, false, false⟩] = none ∧
      owedWrite (objBox [(0, 2), (6, 1)]).gang [⟨k, 9, .x, false, true, false, false⟩] = false) ∧ 0 / 65536 = (0 + brdoSize (1 + 1) - 1) / 65536 :=
  ⟨issuesAll (by decide +kernel), atObject_box _ (by decide +kernel) (by decide +kernel), by decide +kernel, by decide +kernel, by decide +kernel,
    fun k => by cases k <;> decide +kernel, by decide⟩

/-- A request that waited for a place, at an object with `cells` bytes. -/
def heldBox (k : OpKind) (cells : List Host.Cell) : State :=
  { opBox [anOp 7 1 k] 0 with mem := { (box []).mem with bank := cells }, banks := { (box []).banks with waits := [⟨3, 0, 7, 0⟩] } }

/-- An arrival, and readers of an object that is incomplete, complete, and malformed. -/
theorem witness_waitingRequests :
    (∀ p ∈ [(OpKind.held false 0 4 8 9 false, [(6, 2)]), (.held true 0 0 8 9 false, [(0, 2)]), (.held true 0 0 8 9 false, [(0, 2), (7, 1)]),
        (.held true 0 0 8 9 true, [(6, 1)])],
      let s := heldBox p.1 p.2
      s.banks.waits.find? (fun x => x.id == 3) = some ⟨3, 0, 7, 0⟩ ∧ findOp s 0 7 = some (s.gang, anOp 7 1 p.1) ∧ s.gang ∈ gangsOf s ∧
        s.banks.errors = [] ∧ s.mem.bankPoison = [] ∧ s.launches = [] ∧ bkNat s 4 2 < 65535 ∧ placesUsed s 0 < 64 ∧
        writeAfter s 0 (armNoOf s.gang 0) (bankLine 0) ≤ timeBound s) ∧
    (brdoBad (heldBox (.held true 0 0 8 9 false) [(0, 2)]) 0 = false ∧ bkNat (heldBox (.held true 0 0 8 9 false) [(0, 2)]) 7 1 % 2 = 0) ∧
    (brdoBad (heldBox (.held true 0 0 8 9 false) [(0, 2), (7, 1)]) 0 = false ∧ bkNat (heldBox (.held true 0 0 8 9 false) [(0, 2), (7, 1)]) 7 1 % 2 = 1) ∧
    brdoBad (heldBox (.held true 0 0 8 9 true) [(6, 1)]) 0 = true := by decide +kernel

/-- A unit that may enter retention that and one in it. -/
theorem witness_bankEvents :
    (let s := { box [] with cc := 100000, mmio := smapSet (regReset (bkBlock 0)) (box []).mmio (bkBlock 0) 1 }
     mayRetain s 0 = true ∧ s.banks.errors = []) ∧
    (let s := { box [] with banks := { (box []).banks with retained := [0, 127] } }
     s.banks.errors = [] ∧ s.contained = false ∧ s.banks.retained.contains 0 = true ∧ mmField { s with mmio := smapSet (regReset (bkBlock 0)) s.mmio (bkBlock 0) 0 } (bkBlock 0) 0 0 = 0) := by
  decide +kernel

/-! ### Translation and page motion -/

/-- The box with bytes at a physical address, or with a register of the host window. -/
def put (s : State) (a : Nat) (bs : List Byte) : State := { s with mem := { s.mem with main := cellsWrite s.mem.main a bs } }
def reg (s : State) (off v : Nat) : State := { s with mmio := smapSet (regReset off) s.mmio off (BitVec.ofNat 64 v) }

/-- The page at virtual address 0x1000, which s4 and s5 name, has the level-1 entry `e`. -/
def pageBox (e : Nat) : State := put (box [(4, 0x1000)]) 0x5008 (leBytes 8 e)

/-- A matrix command, older than operation 7, is still to read through the leaf of the page at 0x1000. -/
def queuedRead (s : State) : State :=
  { s with mx := { s.mx with queue := [⟨0, 0, 0, 0, 0, true, 0, 3, .obld 0 [(⟨0, 0x1000, 4, false, 0x7000, 1, 0⟩, 0)], 0⟩] } }

theorem witness_invalidations :
    (Claims.tlbinv (.tlbinvCtx 1) 1 (box []) (fun c => (0 : Nat) == c) (fun _ _ => true) ∧ Issues (.tlbinvCtx 1) true (box []) (box []) ∧
      (outstanding (box []).gang 1).length < 32767) ∧
    (canonical (0 : BitVec 64).toNat = true ∧ (box []).walk = [] ∧ (walkTables (box []) 0 0).bad = none) ∧
    (box []).inval = none ∧ (box []).contained = false ∧ ({ box [] with inval := some (.all, 0) } : State).inval ≠ none ∧
    (let p : Op := ⟨7, 0, 1, 1, .tlbinv (.context 0), [], none, false, true, 0, 0, []⟩
     let u := gangBox [] (fun g => { g with ops := [p] })
     u.live = true ∧ u.gang.id = (box []).gang.id ∧ u.gang.ops.find? (fun x => x.id == p.id) = some p ∧ stillUsed u (.context 0) p.id = false ∧
       (queuedRead u).gang.ops.find? (fun x => x.id == p.id) = some p ∧ stillUsed (queuedRead u) (.context 0) p.id = true) ∧
    (stillUsed (box []) .all (box []).serial = false ∧ stillUsed { queuedRead (box []) with serial := 4 } (.pages 0 1 1) 4 = true) :=
  ⟨⟨.inr (.inl ⟨rfl, rfl, rfl⟩), issues (by decide +kernel), by decide +kernel⟩, ⟨by decide, rfl, by decide +kernel⟩, rfl, rfl, by decide +kernel,
   by decide +kernel, by decide +kernel⟩

theorem witness_pageMapping :
    (Issues (.pgmapFt 8 1) true (box []) (box []) ∧ Issues (.pgmapVa 8 10 1) true (dark (box [])) (dark (box [])) ∧
      (dark (box [])).gang.arm.mask = 0 ∧ (box []).gang.arm.mask ≠ 0 ∧
      (mapPages (box []) ((Claims.lanes (box [])).map (fun l => (l, 0x1000)))).2.gang.arm.ltime ≤ timeBound (box [])) ∧
    (Issues (.pgqry .scal 8 4 1) false (box []) (box []) ∧ canonical (readS64 (box []).gang 4).toNat = true ∧
      inArea (apCtx (box [])) (readS64 (box []).gang 4).toNat = false ∧ canonical (readS64 (box [(5, 0x1000000)]).gang 4).toNat = false ∧
      inArea (apCtx (box [(5, 0x100)])) (readS64 (box [(5, 0x100)]).gang 4).toNat = true) ∧
    ((walkTables (pageBox 0x706D) 0 0x1000).level = 1 ∧ pteHolder (walkTables (pageBox 0x706D) 0 0x1000).entry = false) ∧
    (let s := pageBox 0x20000000000004
     (walkTables s 0 0x1000).level = 1 ∧ pteHolder (walkTables s 0 0x1000).entry = true ∧ mmField s (fpCtl 0) 0 0 = 0 ∧
       poolOf (pteTh (walkTables s 0 0x1000).entry) (pteStk (walkTables s 0 0x1000).entry) 0 = 0 ∧
       ¬(mmField (reg (reg s (fpCtl 0) 1) (fpTail 0) 1) (fpCtl 0) 0 0 = 0 ∨
         mmField (reg (reg s (fpCtl 0) 1) (fpTail 0) 1) (fpHead 0) 31 0 = mmField (reg (reg s (fpCtl 0) 1) (fpTail 0) 1) (fpTail 0) 31 0)) :=
  ⟨⟨issues (by decide +kernel), issues (by decide +kernel), by decide +kernel⟩, ⟨issues (by decide +kernel), by decide +kernel⟩,
   by decide +kernel⟩

/-- A pool of one frame, 9, in its ring at 0x8000. -/
theorem witness_firstTouch :
    let s := put (reg (reg (reg (pageBox 0x20000000000004) (fpCtl 0) 1) (fpTail 0) 1) (fpBase 0) 0x8000) 0x8000 (leBytes 8 9)
    let w := walkTables s 0 0x1000
    let slot := mmField s (fpBase 0) 51 12 * 4096 + mmField s (fpHead 0) 31 0 % 2 ^ (mmField s (fpCtl 0) 4 1 + 9) * 8
    Claims.sound s ∧ slot = 0x8000 ∧ physQuad s slot % 2 ^ 40 = 9 ∧ cacheable s slot = true ∧ (∀ j, j < 4096 → cacheable s (9 * 4096 + j) = true) ∧
      (∀ j, j < 8 → cacheable s (w.ea + j) = true) ∧ w.ea % 8 = 0 ∧ w.ea / 4096 ≠ 9 ∧ w.level = 1 ∧ pteHolder w.entry = true := by
  refine ⟨⟨(fun _ h => nomatch h), (fun _ h => nomatch h), rfl, rfl, rfl, rfl, rfl, rfl, rfl, rfl, (fun _ h => nomatch h)⟩, by decide +kernel,
    by decide +kernel, by decide +kernel, fun j hj => ?_, by decide +kernel⟩
  have h : ∀ a, a < 64 → ∀ b, b < 64 → cacheable (put (reg (reg (reg (pageBox 0x20000000000004) (fpCtl 0) 1) (fpTail 0) 1) (fpBase 0) 0x8000)
      0x8000 (leBytes 8 9)) (9 * 4096 + (64 * a + b)) = true := by decide +kernel
  have hk := h (j / 64) (by omega) (j % 64) (Nat.mod_lt _ (by decide))
  rw [Nat.div_add_mod] at hk
  exact hk

/-- A post of a handler, with and without fault state; a record to write; a post to answer. -/
def faultBox (fs : List LaneFault) : State := armBox [] (fun a => { a with fstat := 0x40000008, lfault := fs })
def postBox : State := { reg (box []) (fqBase + 8) 1 with posts := [⟨5, 0, 0, [List.replicate 32 7]⟩] }

theorem witness_hostFaults :
    (∀ fs ∈ [[], [(⟨0, 0x1000, .read, 1⟩ : LaneFault)]], Issues .pgmapPost true (faultBox fs) (faultBox fs) ∧
      (faultBox fs).gang.arm.fstat.getLsbD 30 = true ∧ (faultBox fs).gang.arm.fstat.extractLsb' 0 8 = 8 ∧ (faultBox fs).posts.length < 2 ^ 31) ∧
    (Claims.lanes (faultBox [⟨0, 0x1000, .read, 1⟩])).any (fun l => (faultBox [⟨0, 0x1000, .read, 1⟩]).gang.arm.lfault.any (fun f => f.lane == l)) = true ∧
    (postBox.posts.find? (fun p => !p.records.isEmpty) = some ⟨5, 0, 0, [List.replicate 32 7]⟩ ∧ ringOn postBox fqBase = true ∧
      ringFull postBox fqBase = false ∧ postBox.contained = false) ∧
    postBox.posts.find? (fun q => q.tag == (5 : BitVec 32).toNat) = some ⟨5, 0, 0, [List.replicate 32 7]⟩ ∧
    ((gangsOf postBox).find? (fun g => g.id == 0)).isSome = true ∧ (∀ p ∈ postBox.posts, p.tag ≠ (4 : BitVec 32).toNat) := by
  refine ⟨fun fs h => ?_, by decide +kernel⟩
  simp only [List.mem_cons, List.not_mem_nil, or_false] at h
  rcases h with rfl | rfl <;> exact ⟨issues (by decide +kernel), by decide +kernel⟩

/-- MIG: no present leaf, a page that moves, a pinned one, one that is there already, no release ring, an empty pool, and a move. -/
theorem witness_migStarts :
    (Claims.migOf (.migTo false .hbm 1 8 4 1) (pageBox 0x706D) 0x1000 false 8 4 1 none (some 1) false ∧
      Claims.migOf (.migFrame true 6 8 4 1) (pageBox 0x706D) 0x1000 true 8 4 1 (some 0) (some 0) true ∧
      Issues (.migTo false .hbm 1 8 4 1) false (pageBox 0x706D) (pageBox 0x706D) ∧ Issues (.migFrame true 6 8 4 1) true (pageBox 0x706D) (pageBox 0x706D)) ∧
    (leafOf (pageBox 0) 0 0x1000 = none ∧ globalVa (box [(5, 0x100)]) (readS64 (box [(5, 0x100)]).gang 4).toNat = false) ∧
    (∃ w, leafOf (pageBox 0x4000000000706D) 0 0x1000 = some w ∧ w.entry.testBit 54 = true) ∧
    (∃ w, leafOf (pageBox 0x1000000000706D) 0 0x1000 = some w ∧ w.entry.testBit 54 = false ∧ w.entry.testBit 52 = true) ∧
    (∃ w, leafOf (pageBox 0x706D) 0 0x1000 = some w ∧ (globalVa (pageBox 0x706D) 0x1000 = true ∧ movable (pageBox 0x706D) true w 0x1000 = true ∧
      pteC64 w.entry = false ∧ ptePfn w.entry = 7 ∧ poolOfFrame (pageBox 0x706D) (ptePfn w.entry) = 0 ∧ frameBacked (pageBox 0x706D) 0 = true)) ∧
    (let s := pageBox 0x706D
     s.yo.moves = [] ∧ s.deferred = [] ∧ s.jobs.list = [] ∧ mmField s (yoRlBase + 8) 0 0 = 0 ∧
       mmField (reg s (yoRlBase + 8) 1) (yoRlBase + 8) 0 0 = 1 ∧ s.yo.ckpt = none ∧ poolEmpty (reg s (yoRlBase + 8) 1) 1 = true ∧
       poolEmpty (reg (reg (reg s (yoRlBase + 8) 1) (fpCtl 1) 1) (fpTail 1) 1) 1 = false) ∧
    Claims.sound (reg (reg (reg (pageBox 0x706D) (yoRlBase + 8) 1) (fpCtl 1) 1) (fpTail 1) 1) := by
  have hl : ∀ {x : Option Walk} {p : Walk → Prop} [DecidablePred p], (match x with | some w => decide (p w) | none => false) = true → ∃ w, x = some w ∧ p w := by
    intro x p _ h
    cases x with
    | none => cases h
    | some w => exact ⟨w, rfl, of_decide_eq_true h⟩
  exact ⟨⟨.inl ⟨.hbm, 1, rfl, rfl, rfl, rfl⟩, .inr ⟨6, rfl, by decide +kernel, rfl, by decide +kernel⟩, issues (by decide +kernel), issues (by decide +kernel)⟩,
    ⟨by decide +kernel, by decide +kernel⟩, hl (by decide +kernel), hl (by decide +kernel), hl (by decide +kernel), by decide +kernel,
    ⟨(fun _ h => nomatch h), (fun _ h => nomatch h), rfl, rfl, rfl, rfl, rfl, rfl, rfl, rfl, (fun _ h => nomatch h)⟩⟩

/-- A move record of the page at 0x1000 from frame 7 to frame 8. -/
def aMove (st : MoveState) (cursor : Nat) (hold : Hold) : Move :=
  { no := 0, st := st, ctx := 0, va := 0x1000, src := 7, dst := 8, pool := 0, lines := 16, cursor := cursor, hold := hold, th := 0, stk := 0,
    req := some ⟨0, 7, 0, 0, 0, 1, 1, 8⟩, trap := false, buf := List.replicate 256 0, bufPoison := [], want := none, abort := none, atCursor := 0, leaseEnd := 0,
    closedAt := 0, leafLost := false, pinWait := [] }
def moveBox (m : Move) : State :=
  { put (opBox [⟨7, 0, 1, 1, .move 0, [], none, false, false, 0, 0, []⟩] 0) 0x5008 (leBytes 8 0x4000000000706D) with yo := { (box []).yo with moves := [m] }, time := 5 }

theorem witness_placement :
    (∀ i ∈ [Instr.migCancel 8 4 1, .hotRd 8 4 1, .plc .lpddr 0 4 0 1, .plcMove .cxl 0 4 0 1], Issues i false (pageBox 0x706D) (pageBox 0x706D)) ∧
    (∀ i ∈ [Instr.pin 8 4 0 1, .unpin 8 4 0 1, .hotClr 4 1], Issues i true (pageBox 0x706D) (pageBox 0x706D)) ∧
    globalVa (pageBox 0x706D) 0x1000 = true ∧ moveOfPage (pageBox 0x706D) 0 0x1000 = none ∧ (pageBox 0x706D).yo.moves = [] ∧
    (∀ o ∈ (pageBox 0x706D).gang.ops, o.id ≠ (pageBox 0x706D).serial) ∧ moveOfPage (moveBox (aMove .forward 1 .held)) 0 0x1000 = some (aMove .forward 1 .held) ∧
    moveOfPage (moveBox (aMove .closing 16 .none)) 0 0x1000 = none ∧ Claims.underway (aMove .forward 1 .held) ∧
    Claims.underway (aMove .recall 0 .none) ∧ ¬Claims.underway (aMove .closing 16 .none) ∧ ¬Claims.underway (aMove .forward 16 .none) ∧
    ((leafOf (pageBox 0x706D) 0 0x1000).map (fun w => bitField w.entry 54 54)) = some 0 ∧ Claims.inTime (pageBox 0x706D) := by
  refine ⟨issuesAll (by decide +kernel), issuesAll (by decide +kernel), ?_⟩
  unfold Claims.underway
  exact ⟨by decide +kernel, by decide +kernel, by decide +kernel, by decide +kernel, by decide +kernel, by decide +kernel, by decide +kernel,
    by decide +kernel, by decide +kernel, by decide +kernel, by decide +kernel, inTime_of (by decide +kernel)⟩

/-- Every stage of a move: recall, read data, a line that is not the last, the last one, the port's close and the release; a frame to release. -/
theorem witness_moveForward :
    (∀ m ∈ [aMove .recall 0 .none, aMove .forward 0 .copyRead, aMove .forward 14 .held, aMove .closing 16 .none],
      (moveBox m).yo.moves.find? (fun x => x.no == 0) = some m ∧ m.want = none ∧ m.bufPoison = [] ∧ m.buf.length = 256) ∧
    (aMove .recall 0 .none).cursor = 0 ∧ 0 < (aMove .recall 0 .none).lines ∧ readWaits (moveBox (aMove .forward 0 .copyRead)) (7 * 4096) = false ∧
    dstRefuses (moveBox (aMove .forward 0 .copyRead)) (aMove .forward 0 .copyRead) = false ∧ (aMove .forward 14 .held).cursor + 1 < 16 ∧
    inTier (moveBox (aMove .forward 14 .held)) (8 * 4096 + 256 * 14) = true ∧
    (let m := { aMove .closing 16 .none with closedAt := 4 }
     stillUsed (moveBox m) (.pages 0 1 1) 4 = false ∧ stillUsed (queuedRead (moveBox m)) (.pages 0 1 1) 4 = true) ∧
    (let s := moveBox (aMove .forward 16 .none)
     let w := walkTables s 0 0x1000
     w.level = 1 ∧ pteV w.entry = true ∧ w.entry.testBit 54 = true ∧ bitField w.entry 63 55 = 0 ∧ ptePfn w.entry = 7 ∧ w.ea / 4096 ≠ 7) ∧
    (let m := aMove .releasing 16 .none
     (moveBox m).live = true ∧ (moveBox m).yo.moves.find? (fun x => x.no == 0) = some m ∧ m.leaseEnd < (moveBox m).time ∧ m.pinWait = [] ∧
       ∃ o ∈ (moveBox m).gang.ops, o.id = 7) ∧
    (let s := { reg (box []) (yoRlBase + 8) 1 with yo := { (box []).yo with held := [(0, 7, 0)] } }
     rlRoom s = true ∧ s.yo.held ≠ []) := by decide +kernel

/-- Poison in copied data, a cancelled line, a line back and the last one back. -/
theorem witness_moveAborts :
    (let m := { aMove .forward 1 .copyRead with bufPoison := [0] }
     (moveBox m).yo.moves.find? (fun x => x.no == 0) = some m ∧ m.bufPoison ≠ [] ∧ 0 < m.cursor ∧
       readWaits (moveBox m) (7 * 4096 + 256) = false) ∧
    (let m := { aMove .forward 14 .held with want := some 5 }
     (moveBox m).yo.moves.find? (fun x => x.no == 0) = some m ∧ m.cursor + 1 < m.lines ∧ inTier (moveBox m) (8 * 4096 + 256 * 14) = true) ∧
    (let m := aMove .reverse 2 .held
     (moveBox m).yo.moves.find? (fun x => x.no == 0) = some m ∧ 2 ≤ m.cursor ∧ m.buf.length = 256 ∧ inTier (moveBox m) (7 * 4096 + 256) = true) ∧
    (let m := { aMove .reverse 1 .held with abort := some 4 }
     (moveBox m).live = true ∧ (moveBox m).yo.moves = [m] ∧ m.cursor = 1 ∧ m.pinWait = [] ∧ ∃ o ∈ (moveBox m).gang.ops, o.id = 7) ∧
    (let m := { aMove .reverse 1 .held with abort := some 4 }
     let u := endHold (moveBox m) m
     let w := walkTables u 0 0x1000
     m.leafLost = false ∧ w.level = 1 ∧ (physQuad u w.ea).testBit 54 = true ∧ bitField (physQuad u w.ea) 63 55 = 0 ∧ inTier u w.ea = true ∧
       w.ea % 8 = 0 ∧ w.ea = 0x5008 ∧ mmField (moveBox m) yoRlBase 51 12 = 0) ∧ (moveBox (aMove .recall 0 .none)).contained = false := by
  decide +kernel

/-! ### Epochs, checkpoints and the memory controllers -/

/-- A part with a persistent CXL device on port 0 that can hold a checkpoint. -/
def tierBox (f : Yoyo → Yoyo) : State :=
  let s := reg (box []) (cxlpStat 0) 5
  { s with cfg := { s.cfg with ckptPort := some 0, ckptBase := 0x100000000000, ckptSize := 2 ^ 41 }, yo := f s.yo, dram := { s.dram with ready := false } }

/-- Its whole region is reached: no decoder is committed and the port is up. -/
theorem tier_reached (f : Yoyo → Yoyo) (h : regionWhole (tierBox f) = true) : regionDown (tierBox f) = [] := by simp [regionDown, h]

theorem witness_regionDown : regionDown (tierBox id) = [] ∧ regionDown (tierBox (fun y => { y with ckpt := some (false, 3, false) })) = [] ∧
    regionDown (tierBox (fun y => { y with ckpt := some (true, 3, false) })) = [] :=
  ⟨tier_reached _ (by decide +kernel), tier_reached _ (by decide +kernel), tier_reached _ (by decide +kernel)⟩

theorem witness_epochsAndCheckpoints :
    (let s := { reg (box []) yoCtl 0 with time := 1000000 }
     s.yo.nextEpoch ≤ s.time ∧ s.yo.ckpt = none ∧ mmField s yoCtl 0 0 = 0 ∧ s.yo.plcQ = []) ∧
    ((box []).yo.ckpt = none ∧ ckptOk (box []) = false ∧ ({ box [] with dram := { (box []).dram with ready := false } } : State).dram.ready = false) ∧
    ((tierBox id).yo.ckpt = none ∧ ckptOk (tierBox id) = true) ∧
    (let s := tierBox (fun y => { y with ckpt := some (false, 3, false) })
     s.yo.moves = [] ∧ s.caches.jigsaw = [] ∧ s.mem.wf = true) ∧
    (let s := tierBox id
     let t := put s 0x100000000000 (ckptHeader s 3 9)
     t.yo.ckpt = none ∧ t.dram.ready = false ∧ ckptOk t = true ∧ headerOk t = true) ∧
    (let s := tierBox (fun y => { y with ckpt := some (true, 3, false) })
     s.mem.wf = true) := by decide +kernel

/-- A due point with a busy bank, a ready one, and one at debt 8; a queued refresh, one owed, a burst at its end. -/
theorem witness_refreshSteps :
    (let s := { box [] with cc := 1000000 }
     ∃ due, nextDue s 0 = some (due, 0, 0) ∧ due ≤ s.cc ∧ smapGet 0 s.dram.debt 0 < 8 ∧ bankBusy s 0 = false ∧
       bankBusy { s with dram := { s.dram with writeQ := [(0, 0, 28)] } } 0 = true ∧ inBurst s 0 = false ∧
       smapGet 0 ({ s with dram := { s.dram with debt := [(0, 8)] } } : State).dram.debt 0 = 8) ∧
    (let s := { box [] with dram := { (box []).dram with queued := [3] } }
     inRefpb s 0 = false ∧ inBurst s 0 = false ∧ s.dram.queued.find? (fun k => k / 16 == 0 && !bankBusy s k) = some 3) ∧
    (let s := { box [] with dram := { (box []).dram with debt := [(3, 2)] } }
     s.dram.queued.find? (fun k => k / 16 == 0 && !bankBusy s k) = none ∧ bankBusy s 3 = false ∧ 0 < smapGet 0 s.dram.debt 3 ∧
       ∀ j < 16, smapGet 0 s.dram.debt j < smapGet 0 s.dram.debt 3 ∨ j = 3) ∧
    (let s := { box [] with cc := 50, dram := { (box []).dram with burst := [(0, 10, 50)] } }
     s.dram.burst.find? (fun b => b.1 == 0) = some (0, 10, 50) ∧ 50 ≤ s.cc) := by
  refine ⟨⟨_, rfl, by decide +kernel⟩, by decide +kernel⟩

/-- Sectors without error, with one that can be corrected, one that cannot, and an LPDDR 6 one; a write; write queues; the scrubber. -/
theorem witness_lineSteps :
    (let s := box []
     s.yo.moves = [] ∧ s.mem.poison = [] ∧ s.dram.failed = [] ∧ unbacked s 0x6000 = false ∧ s.dram.bad = [] ∧ physPlace s 0x6000 = .hbm 0 0x6000 ∧
       smapGet 0 s.dram.rbPass (hbmDecode 0x6000).ch < 255 ∧ physPlace s 0x10000000040 = .lpddr 0x40 ∧ unbacked s 0x10000000040 = false) ∧
    (({ box [] with dram := { (box []).dram with bad := [(0x6000 / 64, true)] } } : State).dram.bad = [(0x6000 / 64, true)]) ∧
    (0x6000 + 3) % 256 + ([1, 2, 3] : List Byte).length ≤ 256 ∧
    (let s := { box [] with dram := { (box []).dram with writeQ := (List.range 20).map (fun i => (0, 0, i)), draining := [0] } }
     (s.dram.writeQ.filter (fun w => w.1 == 0)).find? (fun w => !writeBlocked s w) = some (0, 0, 0) ∧ s.dram.draining.contains 0 = true ∧
       bankNumber s 0 = some 32 ∧ (s.dram.writeQ.filter (fun w => w.1 == 32 / 16)).length < 48 ∧
       ({ s with dram := { s.dram with draining := [] } } : State).dram.draining.contains 0 = false ∧
       (s.dram.writeQ.filter (fun w => w.1 == 0)).find? (fun w => !writeBlocked { s with dram := { s.dram with burst := [(0, 0, 9)] } } w) = none) ∧
    (scrubDue (box []) ≤ (box []).time ∧ (box []).dram.ready = true ∧ (box []).dram.parityBad = [] ∧ (box []).dram.parityErr = []) ∧
    (parityState (box []) 0 (hbmDecode 0x6000).stripe 0 = 0) := by decide +kernel

theorem witness_channelsAndPorts :
    (box []).contained = false ∧ (channelMoves (box []) 0 (hbmDecode 0x8000).ch (aMove .recall 0 .none) = true ∧ (hbmDecode 0x8000).ch < 32 ∧
      (aMove .recall 0 .none).st = .recall ∧ (aMove .recall 0 .none).want = none) ∧
    (box []).dram.failed.contains (7, 31) = false ∧ 256 ≤ smapGet 0 ([(255, 256)] : List (Nat × Nat)) (32 * 7 + 31) ∧
    (let s := reg (reg (box []) (hdmBlock 7) 0x100000000000) (hdmBlock 7 + 8) 0x100000000000
     mmField s (hdmBlock 7 + 16) 0 0 = 0 ∧ mmField s (hdmBlock 7 + 8) 51 28 ≠ 0 ∧
       mmField s (hdmBlock 7 + 8) 51 28 % 2 ^ mmField s (hdmBlock 7 + 16) 4 3 = 0 ∧ 0x10000 ≤ mmField s (hdmBlock 7) 51 28 ∧
       mmField s (hdmBlock 7) 51 28 + mmField s (hdmBlock 7 + 8) 51 28 ≤ 0x20000) ∧
    mmField (box []) (hdmBlock 0 + 8) 51 28 = 0 := by decide +kernel

/-! ### Tensors and tiles -/

/-- A record of two rows of 32 words at 0x1000, in tiles of 256 by 4 bytes; with its state byte. -/
def record (shape st : Nat) : List Byte :=
  leBytes 8 0x1000 ++ leBytes 4 32 ++ leBytes 4 2 ++ leBytes 4 1 ++ leBytes 4 1 ++ leBytes 8 256 ++ leBytes 8 0 ++ leBytes 8 0 ++
    [2, 2, BitVec.ofNat 8 shape, BitVec.ofNat 8 st] ++ List.replicate 12 0
def aTensor : Tensor := ⟨0x1000, 32, 2, 1, 1, 256, 0, 0, 4, 2, 0⟩

/-- The box with a tensor table in frame 9 whose entry 1 is that record in state `st`, a page at 0x1000, and another record in the scratchpad. -/
def tileBox (xs : List (Nat × Word)) (st shape : Nat) : State :=
  let s := put (put (put (box xs) 8 (leBytes 8 0x9000)) 0x9040 (record 0 st)) 0x5008 (leBytes 8 0x706D)
  { s with mem := { s.mem with scratch := cellsWrite s.mem.scratch 0 (record shape 0) } }

theorem sound_of {s : State} (h : (s.caches.jigsaw.isEmpty && s.caches.l1.isEmpty && s.yo.moves.isEmpty && s.mem.poison.isEmpty && s.dram.bad.isEmpty &&
    s.dram.parityErr.isEmpty && s.dram.failed.isEmpty && s.banks.errors.isEmpty && s.mem.scratchPoison.isEmpty && s.mem.bankPoison.isEmpty &&
    s.launches.isEmpty) = true) : Claims.sound s := by
  simp only [Bool.and_eq_true, List.isEmpty_iff] at h
  obtain ⟨⟨⟨⟨⟨⟨⟨⟨⟨⟨h1, h2⟩, h3⟩, h4⟩, h5⟩, h6⟩, h7⟩, h8⟩, h9⟩, h10⟩, h11⟩ := h
  exact ⟨by simp [h1], by simp [h2], h3, h4, h5, h6, h7, h8, h9, h10, by simp [h11]⟩

/-- The same with a record in global memory, at virtual address 0, which s4 and s5 name. -/
def globalBox (st shape : Nat) : State := put (tileBox [] st shape) 0x6000 (record shape 0)

theorem witness_tensorRegistration : ∀ x ∈ [(0, 0), (1, 0), (2, 0), (0, 9)], let st := x.1; let shape := x.2; let s := globalBox st shape
    Issues (.treg 8 4 1 1) false s s ∧ Issues (.treg 8 4 0 1) false s s ∧ (outstanding s.gang 1).length < 32767 ∧ Claims.inTime s ∧ Claims.sound s ∧
      idState s 0 1 = st ∧
      ∃ cs, checkAccess s (armAgent s) (apCtx s) 0 64 .read [⟨0, (readS64 s.gang 4).toNat, 64⟩] = .ok cs ∧ pastBound s cs false = false ∧
        Claims.inTime (commitXlat s (armAgent s) .read cs) ∧ Claims.held cs ∧
        ∃ q, cs.flatMap (fun k => k.pieces) = [q] ∧ (∀ j, j < 64 → cacheable s (q.x.pa + j) = true) ∧ q.x.pa % 64 = 0 ∧
          tensorOk (apCtx s) ((List.range 64).map (fun j => smapGet 0 s.mem.main (q.x.pa + j))) = decide (shape = 0) := by
  have key : ∀ s : State, ∀ b : Bool,
      (match checkAccess s (armAgent s) (apCtx s) 0 64 .read [⟨0, (readS64 s.gang 4).toNat, 64⟩] with
        | .ok cs => !pastBound s cs false && inTimeB (commitXlat s (armAgent s) .read cs) && cs.all (fun k => k.pieces.all (fun q => settledB q.x)) &&
            (cs.flatMap (fun k => k.pieces)).map (fun q => q.x.pa) == [0x6000]
        | .error _ => false) = true →
      ((∀ j, j < 64 → cacheable s (0x6000 + j) = true) ∧
          tensorOk (apCtx s) ((List.range 64).map (fun j => smapGet 0 s.mem.main (0x6000 + j))) = b) →
      ∃ cs, checkAccess s (armAgent s) (apCtx s) 0 64 .read [⟨0, (readS64 s.gang 4).toNat, 64⟩] = .ok cs ∧ pastBound s cs false = false ∧
        Claims.inTime (commitXlat s (armAgent s) .read cs) ∧ Claims.held cs ∧
        ∃ q, cs.flatMap (fun k => k.pieces) = [q] ∧ (∀ j, j < 64 → cacheable s (q.x.pa + j) = true) ∧ q.x.pa % 64 = 0 ∧
          tensorOk (apCtx s) ((List.range 64).map (fun j => smapGet 0 s.mem.main (q.x.pa + j))) = b := by
    intro s b h h2
    cases hc : checkAccess s (armAgent s) (apCtx s) 0 64 .read [⟨0, (readS64 s.gang 4).toNat, 64⟩] with
    | error e => rw [hc] at h; cases h
    | ok cs =>
      rw [hc] at h
      simp only [Bool.and_eq_true, Bool.not_eq_true', beq_iff_eq] at h
      obtain ⟨⟨⟨h3, h4⟩, h5⟩, h6⟩ := h
      obtain ⟨q, hq, hp⟩ := List.map_eq_singleton_iff.1 h6
      exact ⟨cs, rfl, h3, inTime_of h4, fun k hk q hq => settled_of (List.all_eq_true.1 (List.all_eq_true.1 h5 k hk) q hq), q, hq, by rw [hp]; exact h2.1,
        by rw [hp], by rw [hp]; exact h2.2⟩
  intro x hx
  simp only [List.mem_cons, List.not_mem_nil, or_false] at hx
  rcases hx with rfl | rfl | rfl | rfl <;>
    exact ⟨issues (by decide +kernel), issues (by decide +kernel), by decide +kernel, inTime_of (by decide +kernel), sound_of (by decide +kernel),
      by decide +kernel, key _ _ (by decide +kernel) (by decide +kernel)⟩

theorem witness_scratchpadRecords :
    let s (st shape : Nat) := tileBox [(5, 0x100)] st shape
    (∀ st ∈ [0, 1, 2, 3], ∀ shape ∈ [0, 9], Issues (.treg 8 4 1 1) false (s st shape) (s st shape) ∧
      Issues (.treg 8 4 0 1) false (s st shape) (s st shape) ∧ (outstanding (s st shape).gang 1).length < 32767 ∧
      resolve (apCtx (s st shape)) 0 (readS64 (s st shape).gang 4).toNat 64 0 = .ok (.scratch 0) ∧ (readS64 (s st shape).gang 4).toNat % 64 = 0 ∧
      (s st shape).banks.errors = [] ∧ (s st shape).mem.scratchPoison = [] ∧ inTimeB (s st shape) = true) ∧
    (∀ st ∈ [0, 1, 2, 3], ∀ shape ∈ [0, 9],
      tensorOk (apCtx (s st shape)) (cellsRead (s st shape).mem.scratch (Claims.scratchKey (s st shape) 0) 64) = decide (shape = 0)) ∧
    (∀ st ∈ [0, 1, 2, 3], idState (s st 0) 0 1 = st) ∧
    ((natRange 1 4095).find? (fun n => idState (s 0 0) 0 n == 0) = some 1 ∧ (s 0 0).yo.moves = [] ∧
      ∀ j < 64, unbacked (s 0 0) (ctxTtab (s 0 0) 0 * 4096 + 64 * 1 + j) = false) ∧
    ((natRange 1 4095).find? (fun n => idState (s 1 0) 0 n == 0) = some 2 ∧ spanTaken (s 1 0) 0 aTensor = true) := by
  refine ⟨?_, by decide +kernel, by decide +kernel, by decide +kernel, by decide +kernel⟩
  intro st hst shape hsh
  simp only [List.mem_cons, List.not_mem_nil, or_false] at hst hsh
  rcases hst with rfl | rfl | rfl | rfl <;> rcases hsh with rfl | rfl <;>
    exact ⟨issues (by decide +kernel), issues (by decide +kernel), by decide +kernel⟩

/-- A table with every id Registered, so that none is Free. -/
def fullTable : List Host.Cell := (natRange 1 4095).map (fun n => (0x9033 + 64 * n, 1))
def lowCells : List Host.Cell := (globalBox 0 0).mem.main.filter (fun e => decide (e.1 < 0x9000))
theorem lowCells_lt : ∀ e ∈ lowCells, e.1 < 0x9000 := by decide +kernel
def fullBox : State :=
  let s := tileBox [(5, 0x100)] 0 0
  { s with mem := { s.mem with main := lowCells ++ fullTable } }

theorem fullTable_get : ∀ (c a n : Nat), a ≤ n → n < a + c →
    smapGet (0 : Byte) ((natRange a c).map (fun n => (0x9033 + 64 * n, (1 : Byte)))) (0x9033 + 64 * n) = 1 := by
  intro c
  induction c with
  | zero => intro a n h1 h2; omega
  | succ c ih =>
    intro a n h1 h2
    simp only [natRange, List.map_cons, smapGet]
    by_cases h : n = a
    · simp [h]
    · rw [if_neg (by omega)]
      exact ih (a + 1) n (by omega) (by omega)

theorem smapGet_skip {l m : List Host.Cell} {a : Nat} (h : ∀ e ∈ l, e.1 < a) : smapGet (0 : Byte) (l ++ m) a = smapGet 0 m a := by
  induction l with
  | nil => rfl
  | cons e l ih =>
    have := h e (by simp)
    simp only [List.cons_append, smapGet]
    rw [if_neg (by omega)]
    exact ih (fun x hx => h x (by simp [hx]))

theorem natRange_mem : ∀ (c a n : Nat), n ∈ natRange a c → a ≤ n ∧ n < a + c := by
  intro c
  induction c with
  | zero => intro a n h; cases h
  | succ c ih =>
    intro a n h
    rcases List.mem_cons.1 h with rfl | h
    · omega
    · have := ih _ _ h; omega

theorem smapGet_past {m : List Host.Cell} {a : Nat} (h : ∀ e ∈ m, e.1 < a) : smapGet (0 : Byte) m a = 0 := by
  induction m with
  | nil => rfl
  | cons e m ih =>
    have := h e (by simp)
    simp only [smapGet]
    rw [if_neg (by omega)]
    exact ih (fun x hx => h x (by simp [hx]))

/-- The state of an id in a table in frame 9. -/
theorem idState_frame9 {s : State} (hb : ctxTtab s 0 = 9) (hv : s.yo.moves = []) (n : Nat) (h1 : 1 ≤ n) (h2 : n < 4096) :
    idState s 0 n = (smapGet (0 : Byte) s.mem.main (0x9033 + 64 * n)).toNat := by
  have hr : ∀ pa, movingAt s pa = none := fun pa => by simp [movingAt, hv]
  have hp : ∀ pa < 0x100000, rawByte s pa = smapGet 0 s.mem.main pa := by
    intro pa h
    have : physPlace s pa = .hbm (pa / 2 ^ 36) (pa % 2 ^ 36) := by
      simp only [physPlace]
      rw [if_pos (by omega), if_pos (by omega)]
    simp [rawByte, this]
  have h : rawByte s (9 * 4096 + 64 * n + 51) = smapGet 0 s.mem.main (0x9033 + 64 * n) := by
    rw [hp _ (by omega), show 9 * 4096 + 64 * n + 51 = 0x9033 + 64 * n by omega]
  simp [idState, entryRec, entryPa, hb, physBytes, portRoute, hopsOf, portHops, hv, recNat, List.range_succ, h, show n ≠ 0 by omega, show ¬4096 ≤ n by omega, leNat]

theorem fullBox_state (n : Nat) (h1 : 1 ≤ n) (h2 : n < 4096) : idState fullBox 0 n = 1 := by
  rw [idState_frame9 (by decide +kernel) rfl n h1 h2,
    show fullBox.mem.main = lowCells ++ fullTable from rfl, smapGet_skip (fun e he => by have := lowCells_lt e he; omega)]
  exact congrArg BitVec.toNat (fullTable_get 4095 1 n h1 (by omega))

theorem witness_noFreeId :
    tensorOk (apCtx fullBox) (cellsRead fullBox.mem.scratch (Claims.scratchKey fullBox 0) 64) = true ∧
      (natRange 1 4095).find? (fun n => idState fullBox 0 n == 0) = none ∧ Issues (.treg 8 4 0 1) false fullBox fullBox ∧
      resolve (apCtx fullBox) 0 (readS64 fullBox.gang 4).toNat 64 0 = .ok (.scratch 0) := by
  refine ⟨by decide +kernel, List.find?_eq_none.2 ?_, issues (by decide +kernel), by decide +kernel⟩
  intro n hn
  have := natRange_mem _ _ _ hn
  rw [fullBox_state n this.1 (by omega)]
  decide

/-- With no id in use, no span is taken. -/
theorem witness_spanFree : ∀ s ∈ [tileBox [(5, 0x100)] 0 0, globalBox 0 0], spanTaken s 0 aTensor = false := by
  intro s hs
  have hp : ctxTtab s 0 = 9 ∧ s.yo.moves = [] ∧ ∀ e ∈ s.mem.main, e.1 < 0x9073 := by
    simp only [List.mem_cons, List.not_mem_nil, or_false] at hs
    rcases hs with rfl | rfl <;> exact ⟨by decide +kernel, rfl, by decide +kernel⟩
  obtain ⟨hf, hm, hk⟩ := hp
  simp only [spanTaken, List.any_eq_false, Bool.and_eq_true, not_and]
  intro n hn h
  have hn := natRange_mem _ _ _ hn
  rw [idState_frame9 hf hm n hn.1 (by omega), smapGet_past (fun e he => by have := hk e he; omega)] at h
  cases h

theorem witness_tensorRetirement :
    (∀ st ∈ [0, 1, 2, 3], Issues (.tunreg 8 5 1) false (tileBox [] st 0) (tileBox [] st 0) ∧
      inTimeB (tileBox [] st 0) = true ∧ (∀ b, Issues (.tinv b 8 5 1) false (tileBox [] st 0) (tileBox [] st 0)) ∧ owedDesc (tileBox [] st 0).gang 5 = false ∧
      descTid (readA (tileBox [] st 0).gang 5) = 1 ∧ idState (tileBox [] st 0) 0 1 = st) ∧
    (∀ b, let w : Sweep := ⟨3, 0, 1, !b, b, 0, 7⟩
      let s := { opBox [anOp 7 1 .sweep] 0 with caches := { (box []).caches with sweeps := [w] }, mem := (tileBox [] 3 0).mem }
      s.live = true ∧ s.yo.moves = [] ∧ s.caches.sweeps.find? (fun w => w.id == 3) = some w ∧ w.gang = s.gang.id ∧ anOp 7 1 .sweep ∈ s.gang.ops ∧
        unbacked s (ctxTtab s 0 * 4096 + 64 * 1 + 51) = false ∧ s.caches.jigsaw = [] ∧ s.caches.stamps = [] ∧
        agentTime s (walkerNo 0) ≤ timeBound s) := by
  refine ⟨?_, fun b => by cases b <;> decide +kernel⟩
  intro st h
  simp only [List.mem_cons, List.not_mem_nil, or_false] at h
  rcases h with rfl | rfl | rfl | rfl <;>
    exact ⟨issues (by decide +kernel), by decide +kernel, fun b => by cases b <;> exact issues (by decide +kernel), by decide +kernel⟩

theorem tile_box : Claims.tile (tileBox [] 1 0) 5 1 1 aTensor :=
  ⟨rfl, by decide +kernel, by decide +kernel, by decide +kernel, by decide +kernel, inTime_of (by decide +kernel)⟩

/-- The translations of lines of that tensor keep within the bound, whichever lines in extent they are. -/
theorem walks_box (kind : AccKindF) (n : Nat) (hk : (kind = .read ∧ n = 256) ∨ (kind = .write ∧ n = 128)) (ls : List (Nat × Nat)) (hn : ls.Nodup)
    (h : ∀ l ∈ ls, l.1 < 2 ∧ l.2 = 0) : Claims.walksInTime (tileBox [] 1 0) 1 kind (ls.map (fun l => (lineVa aTensor l.1 l.2, n))) := by
  have hs : ls ∈ [[], [((0 : Nat), (0 : Nat))], [(1, 0)], [(0, 0), (1, 0)], [(1, 0), (0, 0)]] := by
    have he : ∀ l ∈ ls, l = (0, 0) ∨ l = (1, 0) := fun l hl => by
      obtain ⟨h1, h2⟩ := h l hl
      obtain ⟨a, b⟩ := l
      simp only [Prod.mk.injEq] at *
      omega
    match ls, hn, he with
    | [], _, _ => simp
    | [a], _, he => rcases he a (by simp) with rfl | rfl <;> simp
    | [a, b], hn, he =>
      rcases he a (by simp) with rfl | rfl <;> rcases he b (by simp) with rfl | rfl <;> simp at hn ⊢
    | a :: b :: c :: l, hn, he =>
      rcases he a (by simp) with rfl | rfl <;> rcases he b (by simp) with rfl | rfl <;> rcases he c (by simp) with rfl | rfl <;> simp at hn
  simp only [List.mem_cons, List.not_mem_nil, or_false] at hs
  rcases hk with ⟨rfl, rfl⟩ | ⟨rfl, rfl⟩ <;> rcases hs with rfl | rfl | rfl | rfl | rfl <;> exact ⟨by decide +kernel, inTime_of (by decide +kernel)⟩

theorem soundTile : Claims.sound (tileBox [] 1 0) := sound_of (by decide +kernel)

theorem lineAt_of {s : State} {va n pa : Nat} {kind : AccKindF}
    (h : (match lineCheck s va n kind with
      | .ok q => decide (q.x.pa = pa) && settledB q.x && decide (pa % 256 = 0) && (List.range 256).all (fun b => cacheable s (pa + b))
      | .error _ => false) = true) : Claims.lineAt s va n kind pa := by
  cases hq : lineCheck s va n kind with
  | error e => rw [hq] at h; cases h
  | ok q =>
    rw [hq] at h
    simp only [Bool.and_eq_true, decide_eq_true_eq, List.all_eq_true, List.mem_range] at h
    exact ⟨q, hq, h.1.1.1, settled_of h.1.1.2, h.1.2, h.2⟩

/-- The first tile of the tensor: two lines in extent and two past it, each of 128 bytes in extent. -/
theorem witness_tileTransfers :
    (Issues (.tld false 8 5 10 0 1) false (tileBox [] 1 0) (tileBox [] 1 0) ∧ Issues (.tst false 8 5 10 0 1) false (tileBox [] 1 0) (tileBox [] 1 0) ∧
      (∀ c, Issues (.thalo c false 8 5 10 1 1 0 1) false (tileBox [] 1 0) (tileBox [] 1 0))) ∧
    Claims.tile (tileBox [] 1 0) 5 1 1 aTensor ∧ Claims.sound (tileBox [] 1 0) ∧ (readS (tileBox [] 1 0).gang 8).toNat = 0 ∧
    (readS (tileBox [] 1 0).gang 10).toNat = 0 ∧ (readS (tileBox [] 1 0).gang 11).toNat = 0 ∧
    (0 + (tileH aTensor - 1) * 256 + 256 ≤ (apCtx (tileBox [] 1 0)).scrSize ∧ 264 % 4 = 0 ∧
      0 + (tileH aTensor + 2 * 1 - 1) * 264 + 264 ≤ (apCtx (tileBox [] 1 0)).scrSize) ∧
    (∀ j c, j < tileH aTensor → c < tileW aTensor → lineIn aTensor j c = true → lineBytes aTensor c = 128 ∧
      Claims.lineAt (tileBox [] 1 0) (lineVa aTensor j c) 256 .read (0x7000 + 256 * j) ∧
      Claims.lineAt (tileBox [] 1 0) (lineVa aTensor j c) (lineBytes aTensor c) .write (0x7000 + 256 * j)) ∧
    lineIn aTensor 2 0 = false ∧ foldedRows aTensor = 2 ∧ (∀ c, c * 256 < aTensor.e0 * aTensor.es → c < 1) ∧
    (let o : Op := ⟨7, 0, 1, 1, .image [(0, 1), (1, 2)] [(0, 2)], [], none, false, true, 0, 0, []⟩
     let s := gangBox [] (fun g => { g with ops := [o] })
     s.live = true ∧ s.gang.ops.find? (fun x => x.id == 7) = some o ∧ Claims.imageOp o [(0, 1), (1, 2)] ∧ o.after ≤ s.cc ∧ o.banks = [] ∧
       ∀ x ∈ [((0 : Nat), (1 : Byte)), (1, 2)], ∀ y ∈ [((0 : Nat), (1 : Byte)), (1, 2)], x.1 = y.1 → x = y) := by
  refine ⟨⟨issues (by decide +kernel), issues (by decide +kernel), fun c => by cases c <;> exact issues (by decide +kernel)⟩, tile_box,
    soundTile, by decide +kernel, by decide +kernel, by decide +kernel, by decide +kernel, ?_, by decide +kernel, by decide +kernel, ?_,
    by decide +kernel, by decide +kernel, ⟨⟨_, rfl⟩, rfl, rfl, rfl, rfl⟩, by decide, rfl, by decide⟩
  · intro j c _ hc hl
    have h0 : c = 0 := by simp only [show tileW aTensor = 1 from by decide] at hc; omega
    subst h0
    have hj : j < 2 := by
      simp only [lineIn, show foldedRows aTensor = 2 from by decide, Bool.and_eq_true, decide_eq_true_eq] at hl
      exact hl.1
    obtain rfl | rfl : j = 0 ∨ j = 1 := by omega
    all_goals exact ⟨by decide +kernel, lineAt_of (by decide +kernel), lineAt_of (by decide +kernel)⟩
  · intro c h
    simp only [show aTensor.e0 = 32 from rfl, show aTensor.es = 4 from rfl] at h
    omega

/-- A prefetch, and queries of tensors of every state, of a tile inside the grid and of one outside it. -/
theorem witness_tilePrefetchAndQuery :
    (∀ c, Issues (.tpf c 5 10 1 0xFF 1) false (tileBox [] 1 0) (tileBox [] 1 0)) ∧
    (∀ st ∈ [0, 1, 2, 3], Issues (.tqry 8 5 10 1) false (tileBox [] st 0) (tileBox [] st 0)) ∧
    (∀ st ∈ [0, 1, 2, 3], inTimeB (tileBox [] st 0) = true ∧ (∀ l ∈ (tileBox [] st 0).caches.l1, l.owned = false) ∧ owedDesc (tileBox [] st 0).gang 5 = false ∧ (outstanding (tileBox [] st 0).gang 1).length < 32767 ∧
      (tileBox [] st 0).yo.moves = [] ∧ idState (tileBox [] st 0) 0 1 = st ∧
      (st ≠ 0 → (readS (tileBox [] st 0).gang 10).toNat < tileRows (tensorAt (tileBox [] st 0) 0 1) ∧
        ¬(readS (tileBox [(10, 1)] st 0).gang 10).toNat < tileRows (tensorAt (tileBox [(10, 1)] st 0) 0 1))) := by
  refine ⟨fun c => by cases c <;> exact issues (by decide +kernel), ?_, by decide +kernel⟩
  intro st h
  simp only [List.mem_cons, List.not_mem_nil, or_false] at h
  rcases h with rfl | rfl | rfl | rfl <;> exact issues (by decide +kernel)

/-! ### Jobs and element streams -/

/-- Copies between the scratchpad's two descriptors: nothing, up to the extent, and ranges of each that begin before the start or pass the end. -/
theorem witness_copySubmission : ∀ xs ∈ [[], [((8 : Nat), (1 : Word)), (9, 60), (10, 4)], [(8, 0xFFFFFFFF), (10, 4)], [(8, 61), (10, 4)],
      [(9, 0xFFFFFFFF), (10, 4)], [(9, 61), (10, 4)]],
    Issues (.cpy 0 true 20 0 1 8 1) false (box xs) (box xs) ∧ Issues (.cpyb 3 false 0 0 1 8 1) false (box xs) (box xs) ∧ Claims.jobRoom (box xs) 1 ∧
    owedDesc (box xs).gang 0 = false ∧ owedDesc (box xs).gang 1 = false ∧ descBytes (readA (box xs).gang 0) ≠ 0 ∧
    descEs (readA (box xs).gang 0) = descEs (readA (box xs).gang 1) ∧ descExtent (readA (box xs).gang 0) = 64 ∧
    spanStack (apCtx (box xs)) ⟨2, elemAddr (readA (box xs).gang 0) 0, 16⟩ = none ∧ (∀ k ∈ (box xs).jobs.list, k.serial < (box xs).serial) := by
  intro xs h
  simp only [List.mem_cons, List.not_mem_nil, or_false] at h
  rcases h with rfl | rfl | rfl | rfl | rfl | rfl <;>
    exact ⟨issues (by decide +kernel), issues (by decide +kernel), ⟨by decide +kernel, by decide +kernel⟩, by decide +kernel⟩

/-- A queued bulk copy of the box's gang. -/
def aJob (st : JobSt) (w : JobWork) : Job :=
  { die := 0, entry := 5, gen := 1, serial := 9, st := st, ctx := 0, launch := 0, team := 0, gang := 0, op := 7, core := 0, sup := true, apVa := 1,
    bkwin := 0x3FF0000, work := w, reads := [], writes := [], barrier := none, deps := [], buf := [], left := [], limit := 0, res := none, poison := none,
    near := [], latency := 0 }
def jobBox (xs : List (Nat × Word)) (ops : List Op) (js : List Job) : State :=
  { gangBox xs (fun g => { g with ops := ops }) with jobs := { (box []).jobs with list := js } }

/-- A card that is misaligned, one that is malformed (operation 3) and one that fills; MVN at N = 1 and past its range; CLOSE; JST. -/
theorem witness_jobInstructions :
    (∀ v ∈ [(1 : Word), 64, 127], Issues (.job true 20 8 1) false (box [(8, v), (9, 0x100)]) (box [(8, v), (9, 0x100)]) ∧
      Claims.jobRoom (box [(8, v), (9, 0x100)]) 1 ∧ (readS64 (box [(8, v), (9, 0x100)]).gang 8).toNat % 128 ≠ 0) ∧
    (let s := box [(9, 0x100)]
     Issues (.job false 0 8 1) false s s ∧ Claims.jobRoom s 1 ∧ (readS64 s.gang 8).toNat % 128 = 0 ∧
       resolve (jobAp s (cardAgent s)) 0 (readS64 s.gang 8).toNat 128 0 = .ok (.scratch 0) ∧ s.banks.errors = [] ∧ s.mem.scratchPoison = [] ∧
       cardOk (cellsRead s.mem.scratch 0 128) = false ∧ cardOk ([1, 0, 1, 0] ++ List.replicate 92 0 ++ leBytes 8 0x1000 ++ leBytes 4 16 ++ List.replicate 20 0) = true) ∧
    (∀ xs ∈ [[((9 : Nat), (1 : Word)), (10, 32)], []], Issues (.mvn 0 false 0 true 20 0 6 8 1) false (box xs) (box xs) ∧ Claims.jobRoom (box xs) 1 ∧
      descEs (readA (box xs).gang 0) = 2 ∧ descEs (readA (box xs).gang 6) = 0 ∧
      (readS (box xs).gang 9).toNat * mvnRb 0 (readS (box xs).gang 10).toNat ≤ descExtent (readA (box xs).gang 6) ∧
      (0 : Int) ≤ (readS (box xs).gang 11).toInt ∧ (readS (box xs).gang 11).toInt + (readS (box xs).gang 9).toNat ≤ descExtent (readA (box xs).gang 0) ∧
      apKind (apCtx (box xs)) (descOvr (readA (box xs).gang 6)) (descBase (readA (box xs).gang 6)) = .glob ∧
      spanMeets (apCtx (box xs)) ⟨descOvr (readA (box xs).gang 6), descBase (readA (box xs).gang 6),
        (readS (box xs).gang 9).toNat * mvnRb 0 (readS (box xs).gang 10).toNat⟩ 0 (2 ^ 40) = false ∧
      apKind (apCtx (box xs)) (descOvr (readA (box xs).gang 0)) (elemAddr (readA (box xs).gang 0) (readS (box xs).gang 11).toInt) = .scratch ∧
      (readS (box xs).gang 8).toNat + (readS (box xs).gang 10).toNat * mvnEs 0 ≤ (apCtx (box xs)).scrSize ∧ (readS (box xs).gang 8).toNat % 4 = 0) ∧
    (Issues (.close 8 1) false (box []) (box []) ∧ jobOfHandle (box []) 0 = none) ∧
    (let j := aJob .queued (.copy true [] [])
     let s := jobBox [(8, 261)] [⟨7, 0, 1, 1, .job 0 5, [], none, false, false, 0, 0, []⟩] [j]
     Issues (.close 8 2) false s s ∧ (outstanding s.gang 2).length < 32767 ∧ jobOfHandle s (readS s.gang 8).toNat = some j ∧ j.ctx = s.gang.ctx ∧
       isBulk j = true ∧ s.jobs.list.find? (fun k => k.serial == j.serial) = some j) ∧
    (∀ j ∈ [aJob .queued .none, { aJob .running .none with res := none }, { aJob .complete .none with res := some (2, 1, 0) },
        { aJob .queued .none with ctx := 1 }], Issues (.jst 20 8 2) false (jobBox [(8, 261)] [] [j]) (jobBox [(8, 261)] [] [j]) ∧
      (outstanding (jobBox [(8, 261)] [] [j]).gang 2).length < 32767 ∧ jobOfHandle (jobBox [(8, 261)] [] [j]) 261 = some j) := by
  refine ⟨fun v h => ?_, ⟨issues (by decide +kernel), ⟨by decide +kernel, by decide +kernel⟩, by decide +kernel⟩, fun xs h => ?_,
    ⟨issues (by decide +kernel), by decide +kernel⟩, ⟨issues (by decide +kernel), by decide +kernel⟩, fun j h => ?_⟩
  · simp only [List.mem_cons, List.not_mem_nil, or_false] at h
    rcases h with rfl | rfl | rfl <;> exact ⟨issues (by decide +kernel), ⟨by decide +kernel, by decide +kernel⟩, by decide +kernel⟩
  · simp only [List.mem_cons, List.not_mem_nil, or_false] at h
    rcases h with rfl | rfl <;> exact ⟨issues (by decide +kernel), ⟨by decide +kernel, by decide +kernel⟩, by decide +kernel⟩
  · simp only [List.mem_cons, List.not_mem_nil, or_false] at h
    rcases h with rfl | rfl | rfl | rfl <;> exact ⟨issues (by decide +kernel), by decide +kernel⟩

/-- Jobs to dispatch: a fence, a fill and a copy within a line; a running job to complete; a hint to serve. -/
theorem witness_jobEvents :
    (∀ j ∈ [aJob .queued .fence, aJob .queued (.fill 0x0102 [⟨2, 240, 16⟩]), aJob .queued (.copy false [⟨2, 0, 16⟩] [⟨2, 496, 16⟩])],
      let s := jobBox [] [] [j]
      s.cp.sub ≠ some 0 ∧ enginesTaken s 0 < 4 ∧ readyJob s 0 = some j ∧ s.jobs.list.find? (fun k => k.serial == j.serial) = some j ∧
        s.banks.errors = [] ∧ s.mem.scratchPoison = [] ∧ s.caches.stamps = [] ∧ agentTime s (jobAg j) ≤ timeBound s ∧ j.res = none ∧ j.barrier = none ∧ j.buf = [] ∧ spanStack (jobAp s j) ⟨2, 496, 16⟩ = none ∧
        resolve (jobAp s j) 2 240 16 0 = .ok (.scratch 240) ∧ resolve (jobAp s j) 2 0 16 0 = .ok (.scratch 0) ∧
        resolve (jobAp s j) 2 496 16 0 = .ok (.scratch 496)) ∧
    (let j := { aJob .running .none with res := some (2, 1, 0) }
     let k := { aJob .queued .none with entry := 6, serial := 10, deps := [9] }
     let o : Op := ⟨7, 0, 1, 1, .job 0 5, [], none, false, false, 0, 0, []⟩
     let s := jobBox [] [o] [j, k]
     s.live = true ∧ jobAtEntry s 0 5 = some j ∧ j.left = [] ∧ s.jobs.list.find? (fun k => k.serial == j.serial) = some j ∧ j.gang = s.gang.id ∧
       o ∈ s.gang.ops ∧ o.id = j.op ∧ k ∈ s.jobs.list ∧ j.serial ∈ k.deps ∧ s.dram.reserves = []) ∧
    (let s := { box [] with hints := [⟨0, 0, true, none, 0, 0⟩] }
     readyJob s 0 = none ∧ enginesTaken s 0 < 4 ∧ s.hints.find? (fun h => h.die == 0) = some ⟨0, 0, true, none, 0, 0⟩ ∧ Claims.sound s) :=
  ⟨by decide +kernel, by decide +kernel, by decide +kernel, by decide +kernel, by decide +kernel,
    ⟨(fun _ h => nomatch h), (fun _ h => nomatch h), rfl, rfl, rfl, rfl, rfl, rfl, rfl, rfl, (fun _ h => nomatch h)⟩⟩

/-- A running copy with a row of one line to read, and the reservation of its bank. -/
def streamBox2 (r : Reserve) : State :=
  { jobBox [] [] [{ aJob .running (.copy false [⟨1, 0, 256⟩] [⟨2, 0, 256⟩]) with left := [(0, 0, 0, 256)], limit := 256 }] with
    dram := { (box []).dram with reserves := [r] } }

/-- A reservation to grant, a row to read, one past its timeout, a suspended one, and a deferred move of a page that is gone and of one that is mapped. -/
theorem witness_reservationEvents :
    (let r : Reserve := ⟨0, 0, 0, 0, 0, 5, false, 0, none, 0⟩
     let s := streamBox2 r
     s.dram.reserves[0]? = some r ∧ (∀ x ∈ s.dram.reserves, x.held = false) ∧ bankRefreshing s 0 = false ∧ inBurst s 0 = false) ∧
    (let r : Reserve := ⟨0, 0, 0, 0, 0, 5, true, 10, none, 0⟩
     let s := { streamBox2 r with cc := 4106 }
     s.dram.reserves[0]? = some r ∧ r.susp = none ∧ r.last + 4096 ≤ s.cc ∧ bankOf r = 0 ∧ r.next ≤ s.cc ∧
       ∃ j, jobAtEntry s r.die r.job = some j ∧ s.jobs.list.find? (fun k => k.serial == j.serial) = some j ∧ j.left = [(0, 0, 0, 256)] ∧ j.st = .running ∧
         ownsReserve j r = true ∧ nextRow j 0 ≠ []) ∧
    Claims.sound { streamBox2 ⟨0, 0, 0, 0, 0, 5, true, 10, none, 0⟩ with cc := 4106 } ∧
    (∀ r ∈ [(⟨0, 0, 0, 0, 0, 5, true, 0, some (1, 2), 0⟩ : Reserve), ⟨0, 0, 0, 0, 0, 5, true, 10, none, 0⟩],
      let s := { streamBox2 r with cc := 4105 }
      s.dram.reserves[0]? = some r ∧ (r.susp ≠ none ∨ s.cc < r.last + 4096)) ∧
    (∀ va ∈ [0x1000, 0x2000], let q : Requester := ⟨0, 7, 0, 0, 0, 1, 1, 8⟩
     let d : Deferred := ⟨3, 0, 0, va, 7, 8, 0, 16, some q, false⟩
     let o : Op := ⟨7, 0, 1, 1, .move 0, [], none, false, false, 0, 0, []⟩
     let s := { reg (put (opBox [o] 0) 0x5008 (leBytes 8 0x706D)) (yoRlBase + 8) 1 with deferred := [d] }
     s.live = true ∧ mmField s (yoRlBase + 8) 0 0 = 1 ∧ s.deferred.find? (fun d => d.id == 3) = some d ∧ s.jobs.list.length = 0 ∧ s.yo.moves = [] ∧ q.gang = s.gang.id ∧ o ∈ s.gang.ops ∧
       o.id = q.op ∧ ((leafOf s 0 va).map (fun w => (w.level, pteMv w.entry, ptePn w.entry, pteC64 w.entry, ptePfn w.entry))) =
         (if va = 0x1000 then some (1, false, false, false, d.pfn) else none)) := by
  refine ⟨by decide +kernel, ⟨by decide +kernel, by decide +kernel, by decide +kernel, by decide +kernel, by decide +kernel, _, rfl, by decide +kernel⟩,
    sound_of (by decide +kernel), by decide +kernel, fun va h => ?_⟩
  simp only [List.mem_cons, List.not_mem_nil, or_false] at h
  rcases h with rfl | rfl <;> decide +kernel

/-- Streams: one of four elements, an empty one, one at the extent's end and one past it unchecked; an open queue to run ahead of. -/
theorem witness_elementStreams :
    (∀ xs ∈ [[((9 : Nat), (4 : Word)), (10, 1)], [], [(8, 63), (9, 1)], [(8, 63), (9, 2), (10, 1)]],
      Issues (.strm 3 0 8 false .normal 0 1) false (box xs) (box xs) ∧ (outstanding (box xs).gang 1).length < 32767 ∧ owedDesc (box xs).gang 0 = false ∧
      3 < (box xs).gang.streams.length ∧ descBytes (readA (box xs).gang 0) ≠ 0 ∧ descTrap (readA (box xs).gang 0) = false ∧
      apKind (apCtx (box xs)) (descOvr (readA (box xs).gang 0)) (descBase (readA (box xs).gang 0)) = .scratch ∧
      (∀ n, spanMeets (apCtx (box xs)) ⟨descOvr (readA (box xs).gang 0), elemAddr (readA (box xs).gang 0) (readS (box xs).gang 8).toInt, n⟩ (2 ^ 32)
        (2 ^ 32 + 2 ^ 26) = false ∧ spanMeets (apCtx (box xs)) ⟨descOvr (readA (box xs).gang 0),
          elemAddr (readA (box xs).gang 0) (readS (box xs).gang 8).toInt, n⟩ (2 ^ 39) (2 ^ 40) = false)) ∧
    (∀ q ∈ [StreamSel.one 0, .one 3, .all], Issues (.sclose q 1) false (box []) (box [])) ∧
    (let x : Stream := { Stream.closed with isOpen := true, desc := desc 0 64 0 2 0 2, levels := [(4, 1)], ahead := [(0, none)] }
     let s := gangBox [] (fun g => { g with streams := [x, .closed, .closed, .closed] })
     s.live = true ∧ s.gang.id = 0 ∧ s.gang.arm.slot = 0 ∧ s.gang.streams[0]? = some x ∧ x.isOpen = true ∧ x.checked = false ∧ x.cursor ≤ 1 ∧
       1 < x.cursor + 4 * s.gang.declared ∧ 1 < streamTotal x ∧ (∀ e ∈ x.ahead, e.1 ≠ 1) ∧ (∃ e ∈ x.ahead, e.1 = 0)) := by
  refine ⟨fun xs h => ?_, fun q h => ?_, by decide +kernel⟩
  · have ho : ∀ ys, descOvr (readA (box ys).gang 0) = 2 := fun ys => show descOvr (smapGet 0#128 descs 0) = 2 by decide +kernel
    refine ⟨?_, ?_, ?_, ?_, ?_, ?_, ?_, fun n => by simp [spanMeets, ho]⟩ <;>
      (simp only [List.mem_cons, List.not_mem_nil, or_false] at h; rcases h with rfl | rfl | rfl | rfl <;> first | exact issues (by decide +kernel) | decide +kernel)
  · simp only [List.mem_cons, List.not_mem_nil, or_false] at h
    rcases h with rfl | rfl | rfl <;> exact issues (by decide +kernel)

/-- A queue whose two elements have been fetched, and one whose element was dropped and that no demand read reaches. -/
def fetched : Stream := { Stream.closed with isOpen := true, desc := desc 0 64 0 2 0 2, levels := [(2, 1)], ahead := [(0, some (5, none)), (1, some (6, none))] }
def unmapped : Stream := { Stream.closed with isOpen := true, desc := desc 0x5000 64 0 2 0 1, levels := [(2, 1)], ahead := [(0, none)] }

theorem witness_streamPops :
    (let s := gangBox [] (fun g => { g with streams := [fetched, .closed, .closed, .closed] })
     popsOf s.gang (.add .vvv 8 124 10) = [0] ∧ s.gang.streams[0]? = some fetched ∧ fetched.isOpen = true ∧ agentTime s (streamAg s) ≤ timeBound s ∧
       ∀ l ∈ laneList s.gang.arm.mask, aheadAt fetched (fetched.cursor + l) =
         if fetched.cursor + l < streamTotal fetched then some (some ((if l = 0 then 5 else 6), none)) else none) ∧
    (let s := gangBox [] (fun g => { g with streams := [unmapped, .closed, .closed, .closed], arm := { g.arm with mask := 1 } })
     popsOf s.gang (.add .vvv 8 124 10) = [0] ∧ laneList s.gang.arm.mask = [0] ∧ unmapped.cursor + 0 < streamTotal unmapped ∧ unmapped.checked = false ∧
       aheadAt unmapped 0 = some none ∧
       ∃ tr, checkAccess s (armAgent s) (apCtx s) (descOvr unmapped.desc) 4 .read [⟨0, elemAddr unmapped.desc (streamIndex unmapped 0), 4⟩] = .error tr) :=
  ⟨by decide +kernel, by decide +kernel, by decide +kernel, by decide +kernel, by decide +kernel, by decide +kernel, err_of (by decide +kernel)⟩

/-! ### Matrix engines -/

/-- Two reservations of signed bytes, one of groups of 4-bit weights, and a tile. -/
def resA : MxRes := { id := 1, core := 0, team := 0, h := 1, held := true, fmt := 6, gc := 0, size := 4096, pitch := 128, soff := 0, start := 0, data := [] }
def resB : MxRes := { resA with id := 2, h := 2, start := 4 }
def resG : MxRes := { resA with id := 3, h := 3, fmt := 7, gc := 1, pitch := 16, soff := 2048, start := 8 }
def aTile (k : AccKind) : MxTile :=
  { id := 5, core := 0, team := 0, no := 2, bound := true, kind := k, slots := if k = .f64 then 2 else 1, vals := [(0, 7)], part := [], tag := none,
    flags := 1, steps := 3 }
def mxBox (xs : List (Nat × Word)) (ts : List MxTile) : State := { box xs with mx := ⟨[resA, resB, resG], ts, [], [], []⟩ }

theorem mxIssues_of {i : Instr} {cn : CtrNo} {s : State}
    (h : (ready i false s && s.gang.resetMark.isNone && decide ((outstanding s.gang cn.toNat).length < 32767) &&
      decide ((coreQueue s s.gang.core).length < 64)) = true) : Claims.mxIssues i cn s s := by
  simp only [Bool.and_eq_true, decide_eq_true_eq, Option.isNone_iff_eq_none] at h
  exact ⟨issues h.1.1.1, h.1.1.2, h.1.2, h.2⟩

/-- OBRES of a held handle, of a size of 0, of the largest one on an empty core and where no run of granules is left, and with 64 reservations. -/
theorem witness_matrixReservations :
    (∀ xs ∈ [[((8 : Nat), (1024 : Word)), (9, 16)], [(9, 16)], [(8, 524288), (9, 65520)]],
      Issues (.obres 6 0 1 20 8) false (mxBox xs []) (mxBox xs []) ∧ Issues (.obres 6 0 4 20 8) false (box xs) (box xs) ∧
      (mxBox xs []).gang.resetMark = none) ∧
    ((mxBox [] []).mx.res.any (fun r => r.team == 0 && r.core == 0 && r.h == 1 && r.held) = true ∧
      (mxBox [] []).mx.res.any (fun r => r.team == 0 && r.core == 0 && r.h == 4 && r.held) = false ∧ (box []).mx.res = [] ∧
      (readS (box [(8, 524288), (9, 65520)]).gang 8).toNat = 524288 ∧ freeRun (box []) 0 512 = some 0 ∧
      freeRun (mxBox [] []) 0 512 = none ∧ ((mxBox [] []).mx.res.filter (fun r => r.core == 0)).length < 64 ∧
      (((List.range 64).map (fun k => { resA with id := k })).filter (fun r => r.core == 0)).length = 64) ∧
    (∀ h : BitVec 4, h = 1 ∨ h = 4 → Claims.mxIssues (.obrel h 1) 1 (mxBox [] []) (mxBox [] [])) ∧ heldRes (mxBox [] []) 1 = some resA ∧
    heldRes (mxBox [] []) 4 = none := by
  refine ⟨fun xs h => ?_, by decide +kernel, fun h hh => ?_, by decide +kernel, by decide +kernel⟩
  · simp only [List.mem_cons, List.not_mem_nil, or_false] at h
    rcases h with rfl | rfl | rfl <;> exact ⟨issues (by decide +kernel), issues (by decide +kernel), by decide +kernel⟩
  · rcases hh with rfl | rfl <;> exact mxIssues_of (by decide +kernel)

/-- Rows in the scratchpad: a load of 16 bytes, a record of 20, and an accumulator's 32 rows of 32 words. -/
theorem witness_matrixTransfersIssue :
    (let s := mxBox [(9, 1), (11, 1)] [aTile .i32]
     Claims.mxIssues (.obld 4 1 0 8 1) 1 s s ∧ owedDesc s.gang 0 = false ∧ heldRes s 1 = some resA ∧ (readS s.gang 11).toNat = 1 ∧
       (readS s.gang 10).toNat % 16 = 0 ∧ 0 + (1 - 1) * resA.pitch + 4 * descBytes (readA s.gang 0) ≤ resA.size ∧
       ∃ ks, Claims.mxOperand s (readA s.gang 0) .read (rowChunks (readA s.gang 0) 0 1 1 4 0 resA.pitch) ks) ∧
    (let s := mxBox [(9, 1), (11, 1)] [aTile .i32]
     Claims.mxIssues (.obldRec 1 3 0 8 1) 1 s s ∧ heldRes s 3 = some resG ∧ resG.gc ≠ 0 ∧ (0 + 1) * mxGe resG ≤ resG.pitch ∧
       (0 + 1 - 1) * resG.pitch + (0 + 1) * mxGe resG ≤ resG.size ∧ scaleOff resG (0 + 1 - 1) (0 + 1 - 1) + 4 ≤ resG.size ∧
       descEs (readA s.gang 0) = 2 ∧ 1 * (4 + mxGe resG) / 4 ≤ descExtent (readA s.gang 0) ∧
       ∃ ks, Claims.mxOperand s (readA s.gang 0) .read [⟨0, descOvr (readA s.gang 0), elemAddr (readA s.gang 0) 0, 20⟩] ks) ∧
    (let s := mxBox [(9, 1)] [aTile .i32]
     Claims.mxIssues (.acld (.mem 0) 2 8 1) 1 s s ∧ Claims.mxIssues (.acst (.mem 0) 2 8 1) 1 s s ∧ boundTile s 2 = some (aTile .i32) ∧
       descBytes (readA s.gang 0) = 4 ∧ (∀ k : Nat, k < 32 → 0 ≤ 0 + (k : Int) * 1 ∧ 0 + (k : Int) * 1 + 32 ≤ descExtent (readA s.gang 0)) ∧
       ∀ kind ∈ [AccKindF.read, .write], ∃ ks, Claims.mxOperand s (readA s.gang 0) kind (rowChunks (readA s.gang 0) 0 1 32 32 0 128) ks) := by
  refine ⟨⟨mxIssues_of (by decide +kernel), by decide +kernel, by decide +kernel, by decide +kernel, by decide +kernel, by decide +kernel, ?_⟩,
    ⟨mxIssues_of (by decide +kernel), by decide +kernel, by decide +kernel, by decide +kernel, by decide +kernel, by decide +kernel, by decide +kernel,
      by decide +kernel, ?_⟩,
    ⟨mxIssues_of (by decide +kernel), mxIssues_of (by decide +kernel), by decide +kernel, by decide +kernel, by decide +kernel, fun kind h => ?_⟩⟩
  · obtain ⟨ks, h, _⟩ := ok_of (p := fun _ => True) (x := checkAccess (mxBox [(9, 1), (11, 1)] [aTile .i32]) (armAgent (mxBox [(9, 1), (11, 1)] [aTile .i32]))
      (apCtx (mxBox [(9, 1), (11, 1)] [aTile .i32])) 2 4 .read [⟨0, 0, 16⟩]) (by decide +kernel)
    exact ⟨ks, by decide +kernel, h⟩
  · obtain ⟨ks, h, _⟩ := ok_of (p := fun _ => True) (x := checkAccess (mxBox [(9, 1), (11, 1)] [aTile .i32]) (armAgent (mxBox [(9, 1), (11, 1)] [aTile .i32]))
      (apCtx (mxBox [(9, 1), (11, 1)] [aTile .i32])) 2 4 .read [⟨0, 0, 20⟩]) (by decide +kernel)
    exact ⟨ks, by decide +kernel, h⟩
  · have hc : ∀ c ∈ (rowChunks (readA (mxBox [(9, 1)] [aTile .i32]).gang 0) 0 1 32 32 0 128).flatMap (fun r => spanChunks r.off ⟨2, r.a, r.n⟩),
        apKind (apCtx (mxBox [(9, 1)] [aTile .i32])) 2 c.a ≠ .bank ∧ apKind (apCtx (mxBox [(9, 1)] [aTile .i32])) 2 c.a ≠ .stack := by decide +kernel
    simp only [List.mem_cons, List.not_mem_nil, or_false] at h
    rcases h with rfl | rfl
    · obtain ⟨ks, h, _⟩ := ok_of (p := fun _ => True) (x := checkAccess (mxBox [(9, 1)] [aTile .i32]) (armAgent (mxBox [(9, 1)] [aTile .i32]))
        (apCtx (mxBox [(9, 1)] [aTile .i32])) 2 4 .read ((sortChunks ((rowChunks (readA (mxBox [(9, 1)] [aTile .i32]).gang 0) 0 1 32 32 0 128).flatMap
          (fun r => spanChunks r.off ⟨2, r.a, r.n⟩))).map (fun c => ⟨0, c.a, c.n⟩))) (by decide +kernel)
      exact ⟨ks, hc, h⟩
    · obtain ⟨ks, h, _⟩ := ok_of (p := fun _ => True) (x := checkAccess (mxBox [(9, 1)] [aTile .i32]) (armAgent (mxBox [(9, 1)] [aTile .i32]))
        (apCtx (mxBox [(9, 1)] [aTile .i32])) 2 4 .write ((sortChunks ((rowChunks (readA (mxBox [(9, 1)] [aTile .i32]).gang 0) 0 1 32 32 0 128).flatMap
          (fun r => spanChunks r.off ⟨2, r.a, r.n⟩))).map (fun c => ⟨0, c.a, c.n⟩))) (by decide +kernel)
      exact ⟨ks, hc, h⟩

/-- A product at the fragment offset 0, and the last in range; ACZ of a free tile, of a bound one and of an even pair; releases; MSTAT. -/
theorem witness_matrixCommandsIssue :
    (let s := mxBox [] [aTile .i32]
     Claims.mxIssues (.mma true false 2 2 1 8 1) 1 s s ∧ heldRes s 1 = some resA ∧ heldRes s 2 = some resB ∧ boundTile s 2 = some (aTile .i32) ∧
       mxPair resA.fmt resB.fmt = some ((aTile .i32).kind, .int) ∧ fragBad resA 0 = none ∧ fragBad resB 96 = none ∧ fragBad resB 112 ≠ none) ∧
    Claims.mxIssues (.mloop true false 2 2 1 8 1) 1 (mxBox [(10, 1)] [aTile .i32]) (mxBox [(10, 1)] [aTile .i32]) ∧
    (∀ k ∈ [AccKind.f32, .i32, .f64], Claims.mxIssues (.acz k 2 1) 1 (mxBox [] []) (mxBox [] []) ∧
      Claims.mxIssues (.acz k 2 1) 1 (mxBox [] [aTile .i32]) (mxBox [] [aTile .i32])) ∧
    (let s := mxBox [] [aTile .i32]
     oddHalf s 2 = false ∧ boundTile (mxBox [] []) 2 = none ∧ boundTile s 3 = none ∧ 2 ≤ freeSlots (mxBox [] []) 0 ∧
       2 ≤ freeSlots s 0 + (aTile .i32).slots) ∧
    Claims.mxIssues (.aczRel 2 1) 1 (mxBox [] [aTile .i32]) (mxBox [] [aTile .i32]) ∧
    (Claims.mxIssues (.acld .regs 2 8 1) 1 (mxBox [] [aTile .f32]) (mxBox [] [aTile .f32]) ∧
      Claims.mxIssues (.acst .regs 2 8 1) 1 (mxBox [] [aTile .f32]) (mxBox [] [aTile .f32]) ∧ twinTrap (mxBox [] [aTile .f32]).gang = none ∧
      boundTile (mxBox [] [aTile .f32]) 2 = some (aTile .f32) ∧
      (Claims.lanes (mxBox [] [aTile .f32])).filter (fun l => decide (l < 32)) ≠ []) ∧
    (∀ f ∈ [MstatSel.eng, .acc 2, .acc 4, .ob 1, .ob 4], Claims.mxIssues (.mstat f 8 1) 1 (mxBox [] [aTile .f32]) (mxBox [] [aTile .f32])) ∧
    oddHalf (mxBox [] [aTile .f32]) 4 = false := by
  refine ⟨⟨mxIssues_of (by decide +kernel), by decide +kernel⟩, mxIssues_of (by decide +kernel), fun k h => ?_, by decide +kernel,
    mxIssues_of (by decide +kernel), ⟨mxIssues_of (by decide +kernel), mxIssues_of (by decide +kernel), by decide +kernel⟩, fun f h => ?_,
    by decide +kernel⟩
  · simp only [List.mem_cons, List.not_mem_nil, or_false] at h
    rcases h with rfl | rfl | rfl <;> exact ⟨mxIssues_of (by decide +kernel), mxIssues_of (by decide +kernel)⟩
  · simp only [List.mem_cons, List.not_mem_nil, or_false] at h
    rcases h with rfl | rfl | rfl | rfl | rfl <;> exact mxIssues_of (by decide +kernel)

/-- A state with one command at the head of core 0's queue. -/
def anMxOp : Op := ⟨7, 0, 1, 1, .matrix 0, [], none, true, false, 0, 0, []⟩
def cmdBox (w : MxWork) : State :=
  { opBox [anMxOp] 0 with mx := ⟨[resA, resB, resG], [aTile .i32], [⟨4, 0, 0, 0, 0, true, 0, 7, w, 0⟩], [], []⟩ }

theorem witness_matrixCommandEffects :
    (∀ w ∈ [MxWork.obrel 1, .obld 1 [(⟨0, 0, 16, true, 0, 0, 0⟩, 0)], .mma 5 .i32 1 2 0 0 0 0 1 false true, .acz 5 .i32 none, .aczRel 5, .acldRegs 5 [(0, 1)],
        .acldMem 5 .i32 [⟨0, 0, 4096, true, 0, 0, 0⟩], .acstMem 5 .i32 [⟨0, 0, 4096, true, 0, 0, 0⟩], .acstRegs 5 8 [0, 31], .mstat (.acc none) 8, .mstat (.ob none) 8,
        .mstat (.acc (some (5, .i32))) 8, .mstat .eng 8],
      (cmdBox w).live = true ∧ coreQueue (cmdBox w) 0 = [⟨4, 0, 0, 0, 0, true, 0, 7, w, 0⟩] ∧ (cmdBox w).gang.id = 0 ∧ (cmdBox w).gang.ops = [anMxOp] ∧
        anMxOp.id = 7 ∧ (cmdBox w).banks.errors = [] ∧ (cmdBox w).mem.scratchPoison = [] ∧ (∀ t ∈ (cmdBox w).mx.tiles, t.tag = none) ∧
        (cmdBox w).caches.stamps = [] ∧ agentTime (cmdBox w) (mxNo 0) ≤ timeBound (cmdBox w) ∧ 0 ≤ timeBound (cmdBox w) ∧
        mxRes (cmdBox w) 1 = some resA ∧ mxRes (cmdBox w) 2 = some resB ∧ mxTile (cmdBox w) 5 = some (aTile .i32)) ∧
    smapWf 0 (aTile .i32).vals = true ∧ resA.fmt = 6 ∧ (aTile .i32).steps < 2 ^ 32 := by decide +kernel

/-- A reset of core 0's engine and of the last core's; a watchdog past its limit; a marked gang. -/
theorem witness_matrixResets :
    (let s := { reg (cmdBox (.obrel 1)) (mxBlock 0) 1 with cc := 1024 }
     mmField s (mxBlock 0) 15 0 ≠ 0 ∧ coreQueue s 0 ≠ [] ∧ smapGet 0 s.mx.last 0 + mmField s (mxBlock 0) 15 0 * 1024 ≤ s.cc ∧ s.live = true ∧
       (s.mx.res.any (fun r => r.core == 0 && r.team == s.gang.team)) = true ∧ (s.mx.res.any (fun r => r.core == 767 && r.team == s.gang.team)) = false) ∧
    ((cmdBox (.obrel 1)).contained = false ∧ findOp (cmdBox (.obrel 1)) 0 7 = some ((cmdBox (.obrel 1)).gang, anMxOp)) ∧
    (let s := gangBox [] (fun g => { g with resetMark := some 2 })
     s.live = true ∧ instrWf (.obrel 1 1) = true ∧ usesOk s.gang (.obrel 1 1) = true ∧ s.gang.resetMark = some 2) := by decide +kernel

/-! ### Pair words, Fenien Link and FORK -/

/-- A pair word of 32-bit operations, under FPCTL without traps and, for the second clause, with the inexact trap enabled on 1.0 + 2^-30. -/
theorem witness_pairWords : let x : Compact := ⟨false, 9, 10, 8, .fadd⟩
    let y : Compact := ⟨true, 11, 10, 13, .add⟩
    let s := gangBox [] (fun g => { g with fpc := 0x1F000000, v := [(9 * 128, 0x3F800000), (10 * 128, 0x30800000)] })
    Issues (.pairWord x y) false (box []) (box []) ∧ Issues (.pairWord x y) false s s ∧
    (∀ l, l < 96 → (Claims.compactAt (box []) x l).2 &&& (effCtl (box []).gang).te = 0 ∧ (Claims.compactAt (box []) y l).2 &&& (effCtl (box []).gang).te = 0) ∧
    (∃ l, l < 96 ∧ Claims.compactTraps s x l) :=
  ⟨issues (by decide +kernel), issues (by decide +kernel), by decide +kernel, 0, by decide, by decide +kernel, by decide +kernel⟩

/-- A window of the page at 0x1000, which is pinned. -/
def winBox (xs : List (Nat × Word)) (ws : List Window) : State :=
  let s := put (box xs) 0x5008 (leBytes 8 0x1000000000706D)
  { s with link := { s.link with windows := ws } }
def aWindow : Window := ⟨0, 0, 0x1000, 64, 0, 5, 0⟩

/-- WREG of a known window, a base that is not aligned, an empty length, a range in the aperture area, a page that is not pinned, and one that is. -/
theorem witness_windowInstructions :
    (∀ xs ∈ [[((12 : Nat), (0x1020 : Word)), (14, 64)], [(12, 0x1000)], [(13, 0x100), (14, 64)], [(14, 64)], [(12, 0x1000), (14, 64)]],
      Issues (.wreg 8 0 12 1) false (winBox xs []) (winBox xs []) ∧ Issues (.wregRel 8 0 1) false (winBox xs [aWindow]) (winBox xs [aWindow]) ∧
      (outstanding (winBox xs []).gang 1).length < 32767 ∧ (winBox xs [aWindow]).link.windows.any (fun x => x.ctx == 0 && x.w == 0) = true) ∧
    (spanOk (apCtx (winBox [] [])) (2 ^ 40) (2 ^ 40 + 63) = false ∧ spanOk (apCtx (winBox [] [])) 0x1000 0x103F = true ∧
      rangeReady (winBox [] []) 0 0 64 = false ∧ rangeReady (winBox [] []) 0 0x1000 64 = true) ∧
    (∀ land, Issues (.wctr land 8 0) false (winBox [] [aWindow]) (winBox [] [aWindow]) ∧
      (∀ k ∈ [(0 : Word), 5, 6], Issues (.wwait land 0 8) false (winBox [(8, k)] [aWindow]) (winBox [(8, k)] [aWindow])) ∧
      Issues (.wctr land 8 0) false (winBox [] []) (winBox [] []) ∧ Issues (.wwait land 0 8) false (winBox [] []) (winBox [] [])) ∧
    windowOf (winBox [] [aWindow]) 0 0 = some aWindow ∧ windowOf (winBox [] []) 0 0 = none ∧ (winBox [] []).gang.arm.stall = .none ∧
    (∀ land, counterTime (winBox [] [aWindow]) land aWindow ≤ timeBound (winBox [] [aWindow])) ∧
    (let s := { reg (winBox [] [aWindow]) flCtl 0x10001 with time := 1000 }
     let s := { s with gang := { s.gang with arm := { s.gang.arm with stall := .wwait true 0 6 0 } } }
     s.live = true ∧ mmField s flCtl 31 16 ≠ 0 ∧ 0 + 1000 * mmField s flCtl 31 16 ≤ s.time ∧ windowOf s s.gang.ctx 0 = some aWindow ∧
       2 ^ 63 ≤ (BitVec.ofNat 64 aWindow.land - 6).toNat) := by
  refine ⟨fun xs h => ?_, by decide +kernel, fun b => ⟨by cases b <;> exact issues (by decide +kernel), fun k h => ?_, by cases b <;> exact issues (by decide +kernel),
    by cases b <;> exact issues (by decide +kernel)⟩, by decide +kernel⟩
  · simp only [List.mem_cons, List.not_mem_nil, or_false] at h
    rcases h with rfl | rfl | rfl | rfl | rfl <;> exact ⟨issues (by decide +kernel), issues (by decide +kernel), by decide +kernel⟩
  · simp only [List.mem_cons, List.not_mem_nil, or_false] at h
    rcases h with rfl | rfl | rfl <;> cases b <;> exact issues (by decide +kernel)

/-- A put of nothing and of the last words of a target's page, with the link up (to this device) and down (to another). -/
theorem witness_putInstruction :
    (∀ n ∈ [(0 : Word), 4], ∀ up ∈ [0, 1], let s := reg (winBox [(8, BitVec.ofNat 32 (1 - up)), (9, 4080), (11, n)] [aWindow]) flCtl up
      Issues (.put 0 3 0 8 1) false s s ∧ (outstanding s.gang 1).length < 32767 ∧ owedDesc s.gang 0 = false ∧ windowOf s s.gang.ctx 0 = some aWindow ∧
        descBytes (readA s.gang 0) = 4 ∧ (readS s.gang 11) = n ∧ (readS s.gang 9).toNat % 4096 + 16 = 4096 ∧
        elemAddr (readA s.gang 0) 0 % 256 + 16 ≤ 256 ∧ apKind (apCtx s) (descOvr (readA s.gang 0)) (elemAddr (readA s.gang 0) 0) = .scratch ∧
        resolve (apCtx s) (descOvr (readA s.gang 0)) (elemAddr (readA s.gang 0) 0) 16 0 = .ok (.scratch 0) ∧ s.banks.errors = [] ∧
        s.mem.scratchPoison = [] ∧ inTimeB s = true ∧ outstanding s.gang 1 = [] ∧ (jobAp s (cardAgent s)).core = s.gang.core ∧ (jobAp s (cardAgent s)).scrBase = (apCtx s).scrBase ∧
        mmField s flCtl 0 0 = up ∧ (readS s.gang 8).toNat % 4096 = 1 - up ∧ (if up = 1 then undeliverable s 0 = false else 1 ≠ mmField s flDevId 11 0) ∧ s.link.packets = [] ∧ s.link.puts = [] ∧ (∀ y ∈ s.gang.ops, y.id ≠ s.serial)) := by
  intro n hn up hup
  simp only [List.mem_cons, List.not_mem_nil, or_false] at hn hup
  rcases hn with rfl | rfl <;> rcases hup with rfl | rfl <;> exact ⟨issues (by decide +kernel), by decide +kernel⟩

/-- A packet of 16 bytes to window 0, from a peer or of the box's put. -/
def aPacket (own : Bool) (st : PktSt) : Packet :=
  { id := 3, own := own, ctx := 0, w := 0, gang := 0, op := 7, launch := 0, peer := 1, fjob := 0, tw := 0, off := 48, bytes := List.replicate 16 ⟨9, false⟩,
    sent := 0, st := st, answered := false, rivals := [] }
def packetBox (ws : List Window) (p : Packet) : State :=
  let s := { winBox [] ws with time := 1000000000 }
  { s with gang := { s.gang with ops := [⟨7, 0, 1, 1, .put, [], none, true, false, 0, 0, []⟩] }, link := { s.link with packets := [p], puts := [⟨0, 7, []⟩] } }

theorem witness_packetEvents :
    (∀ ws ∈ [[], [aWindow]], (packetBox ws (aPacket false .out)).link.packets.find? (fun p => p.id == 3) = some (aPacket false .out)) ∧
    (let s := packetBox [aWindow] (aPacket false .out)
     s.link.windows.find? (fun x => x.w == 0 && ctxFjob s x.ctx == 0) = some aWindow ∧ (aPacket false .out).off + 16 = aWindow.len ∧
       rangeReady s 0 (0x1000 + 48) 16 = true ∧ s.yo.moves = [] ∧ (0x1000 + 48) % 256 + 16 ≤ 256 ∧
       (leafOf s 0 (0x1000 + 48)).map (fun w => (leafPa w.level w.entry (0x1000 + 48), w.entry.testBit 5, w.entry.testBit 6)) = some (0x7030, true, true) ∧
       (∀ j ∈ List.range 16, cacheable s (0x7030 + j) = true) ∧ writeTime s (linkNo 0) 0x7030 ≤ timeBound s) ∧
    (reg (box []) flCtl 0).link.packets.find? (fun p => p.id == 9) = none ∧ mmField (reg (box []) flCtl 0) flCtl 0 0 = 0 ∧
    (∀ st ∈ [PktSt.landed, .refused 1, .out], let s := packetBox [aWindow] (aPacket true st)
      s.live = true ∧ s.link.packets = [aPacket true st] ∧ s.link.puts = [⟨0, 7, []⟩] ∧ s.gang.ops = [⟨7, 0, 1, 1, .put, [], none, true, false, 0, 0, []⟩] ∧
        (aPacket true st).gang = s.gang.id ∧ packetLimit s ≤ s.time ∧ windowOf s 0 0 = some aWindow) := by decide +kernel

/-- A packet of one team of one gang of 8 lanes, with a DONE record at 0x1000; its grid has `n` teams and its scratchpad `scr` granules. -/
def launchPkt (n scr mode : Nat) : List Byte :=
  leBytes 8 0 ++ leBytes 8 0x3000 ++ leBytes 2 0 ++ [0, 0, 1, 1] ++ leBytes 2 scr ++ [3, 1, 8, 0, 0, 0, 0, BitVec.ofNat 8 mode] ++ leBytes 4 n ++ leBytes 4 1 ++
    leBytes 4 1 ++ leBytes 4 1 ++ leBytes 4 0 ++ [0, 2, 0, 0] ++ leBytes 8 0 ++ leBytes 8 0x1000 ++ List.replicate 56 0
def aLaunch (n : Nat) (pkt : List Byte) : Launch :=
  { id := n, queue := 0, ctx := 0, pkt := pkt, pktAddr := 0, parent := none, depth := 0, nextTeam := 0, teams := pkT pkt, killed := none, replays := 0,
    silent := false, replaying := false, snaps := [], noReplay := false, bankSnaps := [], captured := [], affWait := none, affPlace := [], draining := false, ltime := 0, forkedAt := 0 }

theorem witness_forkInstruction :
    (∀ pkt ∈ [launchPkt 1 0 0, List.replicate 128 0],
      let s := { box [(9, 0x100)] with launches := [aLaunch 0 (launchPkt 1 0 0)], mem := { (box []).mem with scratch := cellsWrite [] 0 pkt } }
      Issues (.fork 8 1) false s s ∧ (outstanding s.gang 1).length < 32767 ∧ (readS64 s.gang 8).toNat % 128 = 0 ∧
        resolve (apCtx s) 0 (readS64 s.gang 8).toNat 128 0 = .ok (.scratch 0) ∧ s.banks.errors = [] ∧ s.mem.scratchPoison = [] ∧
        cellsRead s.mem.scratch (Claims.scratchKey s 0) 128 = pkt ∧ inTimeB s = true ∧ s.launches.find? (fun l => l.id == s.gang.launch) = some (aLaunch 0 (launchPkt 1 0 0)) ∧
        childrenOf s s.gang.ctx < 1024) ∧
    packetOk (launchPkt 1 0 0) = true ∧ recNat (launchPkt 1 0 0) 16 2 = 0 ∧ packetOk (List.replicate 128 0) = false := by
  refine ⟨fun pkt h => ?_, by decide +kernel⟩
  simp only [List.mem_cons, List.not_mem_nil, or_false] at h
  rcases h with rfl | rfl <;> exact ⟨issues (by decide +kernel), by decide +kernel⟩

/-! ### Scheduling -/

/-- A part with core 0 alone, an enabled queue 0, a tensor table in frame 9, an aperture area from 2^40 and a save area of `mb` MiB for context 0, and pages at 0x1000 and 0x3000: the second holds the parameter
block `b`. -/
def schedBox (mb : Nat) (ts : List Team) (ls : List Launch) (b : List Byte) : State :=
  let s := put (put (put (put (box []) 8 (leBytes 8 0x9000 ++ leBytes 4 0 ++ leBytes 4 1)) 0x20 (leBytes 8 0x100000000 ++ leBytes 4 mb)) 0x5008 (leBytes 8 0x706D)) 0x5018 (leBytes 8 0x806D)
  let s := reg (put s 0x8000 b) (qBlock 0 + 8) 1
  { s with live := false, teams := ts, launches := ls,
           cfg := { s.cfg with cores := [1], dieMap := [0, 1, 2, 3, 4, 5, 6, 7], retired := [], spare := 8, spareUsed := false } }

/-- A parameter block of a header alone, and one that asks for nine code lines. -/
def params : List Byte := List.replicate 64 0
def badParams : List Byte := [9] ++ List.replicate 63 0

/-- A launch of two teams, one that is co-resident, and one whose second team's group stands on die 1. -/
def plain : Launch := aLaunch 0 (launchPkt 2 1 0)
def together : Launch := aLaunch 0 (launchPkt 1 1 16)
def grouped : Launch := { aLaunch 0 ((launchPkt 2 1 0).set 30 3) with nextTeam := 1, affWait := some 0, affPlace := [(0, 1)] }

theorem witness_servedQueue : ∃ a, nextAct (schedBox 4 [] [plain] params) = some (0, a) := ⟨.place plain 0, by decide +kernel⟩

theorem witness_launchPackets : ∀ p ∈ [launchPkt 2 1 0, List.replicate 128 0], let s0 := reg (schedBox 4 [] [] []) (qBlock 0 + 24) 1
    let s := { s0 with mem := { s0.mem with host := cellsWrite [] 0 p } }
    s.contained = false ∧ queueOn s 0 = true ∧ mmField s (qBlock 0 + 8) 1 1 = 0 ∧ mmField s (qBlock 0 + 16) 31 0 ≠ mmField s (qBlock 0 + 24) 31 0 ∧
      s.launches = [] ∧ (∀ l ∈ s.launches, unfinished l = false) ∧ cellsRead s.mem.host (mmGet s (qBlock 0) + 0) 128 = p ∧ packetOk p = decide (p = launchPkt 2 1 0) := by decide +kernel

/-- The parameter block of a launch, read after its context's descriptor. -/
def paramsOf (s : State) (c : Nat) (l : Launch) : Option (List Byte) × State := readParams (cpMemRead s (ctxAddr s l.ctx) 64).2.2 (c / 96) l

/-- `Claims.placing` as checks. -/
theorem placing_of {s : State} {l : Launch} {c base : Nat} {b : List Byte}
    (h : (decide (launchById s l.id = some l) && undispatched l && decide ((paramsOf s c l).1 = some b) &&
      decide (launchById (paramsOf s c l).2 l.id = some l) && !launchMode l 3 &&
      decide (lowRun (coreLoad (paramsOf s c l).2 c).scr 128 (recNat l.pkt 22 2) = some base)) = true) :
    Claims.placing s (paramsOf s c l).2 l c base b := by
  simp only [Bool.and_eq_true, decide_eq_true_eq, Bool.not_eq_true'] at h
  obtain ⟨⟨⟨⟨⟨h1, h2⟩, h3⟩, h4⟩, h5⟩, h6⟩ := h
  exact ⟨h1, h2, by rw [← h3]; rfl, h4, h5, h6⟩

theorem witness_teamDispatch :
    (nextAct (schedBox 4 [] [plain] params) = some (0, .place plain 0) ∧ ∃ s', Claims.placing (schedBox 4 [] [plain] params) s' plain 0 0 params) ∧
    (let s := { schedBox 4 [] [grouped] params with time := 100000 }
     nextAct s = some (0, .spill grouped 0) ∧ ∃ s', Claims.placing (mmCount s plSpill 1) s' grouped 0 0 params) ∧
    (nextAct (schedBox 4 [] [together] params) = some (0, .together together [(0, false)]) ∧
      ∃ s', Claims.placing (schedBox 4 [] [together] params) s' together 0 0 params) ∧
    (nextAct (schedBox 4 [] [plain] badParams) = some (0, .place plain 0) ∧ launchById (schedBox 4 [] [plain] badParams) 0 = some plain ∧
      undispatched plain = true ∧ (paramsOf (schedBox 4 [] [plain] badParams) 0 plain).1 = none ∧
      launchById (paramsOf (schedBox 4 [] [plain] badParams) 0 plain).2 0 = some plain) ∧
    (nextAct (schedBox 3 [] [plain] params) = some (0, .doom plain 5) ∧ launchById (schedBox 3 [] [plain] params) 0 = some plain) :=
  ⟨⟨by decide +kernel, _, placing_of (s := schedBox 4 [] [plain] params) (l := plain) (c := 0) (base := 0) (b := params) (by decide +kernel)⟩,
   ⟨by decide +kernel, _, placing_of (s := mmCount { schedBox 4 [] [grouped] params with time := 100000 } plSpill 1) (l := grouped) (c := 0) (base := 0)
     (b := params) (by decide +kernel)⟩,
   ⟨by decide +kernel, _, placing_of (s := schedBox 4 [] [together] params) (l := together) (c := 0) (base := 0) (b := params) (by decide +kernel)⟩,
   by decide +kernel, by decide +kernel⟩

theorem witness_codePush : let m := { boxTeam with pushed := false, push := [2 ^ 56] }
    let s := schedBox 4 [m] [] []
    teamById s 0 = some m ∧ m.pushed = false ∧ m.saved = false ∧ canonical ((2 ^ 56 : DWord)).toNat = false := by decide +kernel

/-- Queue 1 has priority 1, and its launch no room beside a team of queue 0 that holds all of core 0's scratchpad. -/
def fullTeam : Team := { boxTeam with scrGranules := 128, launch := 9 }
def urgent (mode : Nat) : Launch := { aLaunch 3 (launchPkt 1 1 mode) with queue := 1 }
def yieldBox (mode part : Nat) (t : Team) : State := reg (reg (schedBox 8 [t] [urgent mode] params) (qBlock 1 + 8) (1 + 2 ^ 17 + part * 2 ^ 20)) (partMap 1 0) part

theorem witness_preEmption :
    (box []).contained = false ∧
    (let s := yieldBox 0 0 fullTeam
     launchById s 3 = some (urgent 0) ∧ queueItem s 1 = some (.launch (urgent 0)) ∧ s.contained = false ∧ queueOn s 1 = true ∧
       launchMode (urgent 0) 4 = false ∧ headWaits s 1 = true ∧ queuePart s 1 = 0 ∧ yieldPending s 1 = false ∧
       bestYield s 1 (launchNeed (urgent 0)) = some [0] ∧ queuePrio s 0 < queuePrio s 1) ∧
    (let t := { fullTeam with target := some 5, reclaim := some 1 }
     let s := yieldBox 0 1 t
     launchById s 3 = some (urgent 0) ∧ queueItem s 1 = some (.launch (urgent 0)) ∧ queueOn s 1 = true ∧ headWaits s 1 = true ∧ headStuck s 1 = true ∧
       queuePart s 1 ≠ 0 ∧
       t ∈ s.teams ∧ (corePart s t.core == some (queuePart s 1)) = true) ∧
    (let s := yieldBox 16 0 fullTeam
     launchById s 3 = some (urgent 16) ∧ queueItem s 1 = some (.launch (urgent 16)) ∧ queueOn s 1 = true ∧ launchMode (urgent 16) 4 = true ∧
       queueAct s 1 = none ∧ (ctxRoot s 0).isSome = true ∧ coPlan s (urgent 16) = some [(0, false)] ∧ (urgent 16).draining = false ∧ drained s 3 = [] ∧
       fullTeam ∈ s.teams ∧ coResident s fullTeam = false) ∧
    (let s := yieldBox 16 1 fullTeam
     queuePart s 1 ≠ 0 ∧ lentOn s 1 fullTeam = true ∧ fullTeam.saved = false ∧ fullTeam.target = none) := by decide +kernel

theorem gangs_one {s : State} {g : Gang} (h : gangsOf s = [g]) : ∀ x ∈ gangsOf s, ∀ y ∈ gangsOf s, x.id = y.id → x = y := by
  rw [h]
  intro x hx y hy _
  rw [List.mem_singleton.1 hx, List.mem_singleton.1 hy]

/-- A team past its drain limit; a core stuck on a growth request, with two teams and with one; a parent that waits for its fork. -/
def stuckGang (g : Gang) : Gang := { g with nv := 32768, arm := { g.arm with stall := .vgrow 40000 64 } }
def stuckBox (ts : List Team) : State :=
  { gangBox [] stuckGang with teams := ts, cc := 1024, launches := [aLaunch 0 (launchPkt 1 1 0)] }

theorem witness_forcedSaves :
    (let m := { boxTeam with target := some 0 }
     let s := { box [] with teams := [m] }
     Claims.savable s m ∧ 0 ≤ s.time) ∧
    (let m := { boxTeam with id := 1, age := 1 }
     let s := stuckBox [boxTeam, m]
     coreStuck s 0 = true ∧ youngest s 0 = some m ∧ 1 < (residents s 0).length ∧ coResident s m = false ∧ Claims.savable s m) ∧
    (let s := stuckBox [boxTeam]
     coreStuck s 0 = true ∧ residents s 0 = [boxTeam] ∧ launchById s 0 = some (aLaunch 0 (launchPkt 1 1 0)) ∧ (aLaunch 0 (launchPkt 1 1 0)).killed = none) ∧
    (let o : Op := ⟨7, 0, 1, 1, .fork 3, [], none, true, false, 0, 0, []⟩
     let s := gangBox [] (fun g => { g with ops := [o], arm := { g.arm with stall := .wait 1 1 0 } })
     teamById s 0 = some boxTeam ∧ boxTeam.saved = false ∧ boxTeam.endNow = false ∧ boxTeam.core < 768 ∧ s.banks.errors = [] ∧
       coResident s boxTeam = false ∧ s.live = true ∧ s.others = [] ∧ s.gang.team = 0 ∧ s.gang.exited = false ∧ s.gang.partner = none ∧
       s.gang.arm.stack = [] ∧ s.mx.queue = [] ∧ s.gang.ops = [o] ∧ s.gang.arm.stall = .wait o.ctr 1 0 ∧
       reached (readC s.gang o.ctr) (BitVec.ofNat 16 1) = false) :=
  ⟨⟨⟨by decide +kernel, rfl, gangs_one (g := (box []).gang) rfl, by decide +kernel, rfl, rfl, by decide, rfl, by decide +kernel⟩, by decide⟩,
   ⟨by decide +kernel, by decide +kernel, by decide +kernel, by decide +kernel,
    ⟨by decide +kernel, rfl, gangs_one (g := (stuckBox []).gang) rfl, by decide +kernel, rfl, rfl, by decide, rfl, by decide +kernel⟩⟩,
   by decide +kernel, by decide +kernel⟩

/-- A saved team of core 0, with its gang. -/
def savedTeam : Team := { boxTeam with saved := true, core := 768, savedGangs := [(box []).gang], scrGranules := 1 }

theorem witness_teamRestores : let s := schedBox 4 [savedTeam] [plain] params
    nextAct s = some (0, .restore savedTeam 0) ∧ teamById s 0 = some savedTeam ∧ lowRun (coreLoad s 0).scr 128 1 = some 0 ∧ 768 ≤ savedTeam.core ∧
      s.banks.errors = [] ∧ Mem.wf s.mem = true := by decide +kernel

/-- A gang with every lane exited, with another gang of its team and alone. -/
def endBox (others : List Gang) : State :=
  reg { gangBox [] (fun g => { g with exited := true }) with others := others, launches := [aLaunch 0 (launchPkt 1 1 0)] } (teamRing + 8) 1

theorem witness_gangEnds : ∀ b : Bool, let s := endBox (if b then [{ (box []).gang with id := 1 }] else [])
    gangById s 0 = some s.gang ∧ s.gang.exited = true ∧ s.gang.ops = [] ∧ teamById s s.gang.team = some boxTeam ∧ boxTeam.core < 768 ∧
      s.banks.errors = [] ∧ (b = true → ∃ y ∈ gangsOf s, y.id ≠ 0 ∧ y.team = boxTeam.id) ∧
      (b = false → ∀ y ∈ gangsOf s, y.team = boxTeam.id → y.id = 0) ∧ s.contained = false ∧ ringOn s teamRing = true ∧ ringFull s teamRing = false ∧
      boxTeam.stallSum = [] ∧ (∀ l ∈ s.launches, launchMode l 3 = false) := by
  intro b
  cases b <;> decide +kernel

/-- A launch whose teams have all ended, with its DONE record at a mapped address, at one that is not canonical, and without a context. -/
def doneLaunch (a : Nat) : Launch := { aLaunch 0 ((launchPkt 1 1 0).take 64 ++ leBytes 8 a ++ List.replicate 56 0) with nextTeam := 1 }

theorem atRest_box (l : Launch) (hp : l.parent = none) : Claims.atRest (schedBox 4 [] [l] []) l := by
  refine ⟨?_, ?_, ?_, rfl, fun k hk => ?_⟩
  · simp [launchById, schedBox, reg, put]
  · intro m hm; cases hm
  · intro j hj; cases hj
  · cases List.mem_singleton.1 hk
    exact hp

theorem backed_box (l : Launch) : Claims.backed (schedBox 4 [] [l] []) := ⟨rfl, (fun _ h => nomatch h), (fun _ h => nomatch h)⟩

theorem witness_launchCompletion :
    (∀ a ∈ [0x1000, 2 ^ 56], Claims.atRest (schedBox 4 [] [doneLaunch a] []) (doneLaunch a) ∧ (doneLaunch a).replaying = false ∧
      undispatched (doneLaunch a) = false ∧ (doneLaunch a).silent = false ∧ recNat (doneLaunch a).pkt 64 8 = a) ∧
    canonical 0x1000 = true ∧ canonical (2 ^ 56) = false ∧ ctxArea (schedBox 4 [] [doneLaunch 0x1000] []) 0 0x1000 = false ∧
    ctxArea (schedBox 4 [] [doneLaunch (2 ^ 40)] []) 0 (2 ^ 40) = true ∧
    (let s := schedBox 4 [] [doneLaunch 0x1000] []
     let x := xlate s ⟨none, 0, 0, true⟩ 0x1000 .write (pickCached s 126)
     (ctxRoot s 0).isSome = true ∧ x.fault = none ∧ (∀ k ∈ List.range 16, cacheable s (x.pa + k) = true) ∧ x.pa % 16 = 0) ∧
    Claims.backed (schedBox 4 [] [doneLaunch 0x1000] []) := by
  refine ⟨fun a h => ⟨atRest_box _ rfl, ?_⟩, by decide +kernel, by decide +kernel, by decide +kernel, by decide +kernel, by decide +kernel, backed_box _⟩
  simp only [List.mem_cons, List.not_mem_nil, or_false] at h
  rcases h with rfl | rfl <;> decide +kernel

/-- A launch that replays for the first time, and one with its replays spent. -/
def replayLaunch (n : Nat) : Launch := { aLaunch 0 (launchPkt 1 1 0) with replaying := true, replays := n, snaps := [⟨0x7000, List.replicate 4096 5⟩] }

theorem witness_replays : ∀ n ∈ [0, 2], Claims.atRest (schedBox 4 [] [replayLaunch n] []) (replayLaunch n) ∧ (replayLaunch n).replaying = true ∧
    (schedBox 4 [] [replayLaunch n] []).cp.sub = none ∧ (replayLaunch n).bankSnaps = [] ∧ Claims.backed (schedBox 4 [] [replayLaunch n] []) ∧
    (∀ x ∈ (replayLaunch n).snaps, x.bytes.length = 4096 ∧ x.pa % 4096 = 0 ∧
      ∀ k, k < 4096 → cacheable (schedBox 4 [] [replayLaunch n] []) (x.pa + k) = true) ∧ recNat (replayLaunch n).pkt 53 1 = 2 := by
  intro n h
  refine ⟨atRest_box _ rfl, rfl, rfl, rfl, backed_box _, fun x hx => ?_, by
    simp only [List.mem_cons, List.not_mem_nil, or_false] at h; rcases h with rfl | rfl <;> decide +kernel⟩
  cases List.mem_singleton.1 hx
  refine ⟨List.length_replicate .., by decide, fun k hk => ?_⟩
  have h0 : physPlace (schedBox 4 [] [replayLaunch n] []) (0x7000 + k) = .hbm ((0x7000 + k) / 2 ^ 36) ((0x7000 + k) % 2 ^ 36) := by
    simp only [physPlace]
    rw [if_pos (by omega), if_pos (by omega)]
  have h1 : movingAt (schedBox 4 [] [replayLaunch n] []) (0x7000 + k) = none := rfl
  simp [cacheable, inTier, h0, h1]

/-- No id of a context whose table, in frame 9, holds nothing is in use. -/
theorem ids_free {s : State} (h : (decide (ctxTtab s 0 = 9) && s.yo.moves.isEmpty && s.mem.main.all (fun e => decide (e.1 < 0x9073))) = true) (n : Nat) :
    idState s 0 n ≠ 1 := by
  simp only [Bool.and_eq_true, decide_eq_true_eq, List.isEmpty_iff, List.all_eq_true] at h
  obtain ⟨⟨hf, hv⟩, hk⟩ := h
  by_cases h : 1 ≤ n ∧ n < 4096
  · rw [idState_frame9 hf hv n h.1 h.2, smapGet_past (fun e he => by have := hk e he; omega)]
    decide
  · have : n = 0 ∨ 4096 ≤ n := by omega
    simp [idState, this]

/-- A job, a move and a launch of context 0 to end, the launch's DONE record at a mapped address, and a child forked in the cycle at hand. -/
def child : Launch := { doneLaunch 0x1000 with parent := some (0, 0) }

theorem witness_teardown : (box []).contained = false ∧
    (let s := jobBox [] [] [aJob .queued .none]
     (∀ j ∈ s.jobs.list, ∀ k ∈ s.jobs.list, j.serial = k.serial → j = k) ∧ aJob .queued .none ∈ s.jobs.list ∧ (aJob .queued .none).ctx = 0 ∧
       (aJob .queued .none).st ≠ .complete) ∧
    (let s := moveBox (aMove .recall 0 .none)
     aMove .recall 0 .none ∈ s.yo.moves ∧ (aMove .recall 0 .none).ctx = 0 ∧ cancellable (aMove .recall 0 .none) = true ∧
       (aMove .recall 0 .none).want = none ∧ ∀ k ∈ s.yo.moves, k.hold = .none) ∧
    (let l := doneLaunch 0x1000
     let s := schedBox 4 [] [l] []
     let x := xlate s ⟨none, 0, 0, true⟩ 0x1000 .write (pickCached s 126)
     s.launches = [l] ∧ l.ctx = 0 ∧ l.parent = none ∧ l.silent = false ∧ s.teams = [] ∧ s.jobs.list = [] ∧ (∀ n, idState s 0 n ≠ 1) ∧
       recNat l.pkt 64 8 = 0x1000 ∧ canonical 0x1000 = true ∧ ctxArea s 0 0x1000 = false ∧ (ctxRoot s 0).isSome = true ∧ x.fault = none ∧
       (∀ k, k < 16 → cacheable s (x.pa + k) = true) ∧ x.pa % 16 = 0) ∧
    (let s := schedBox 4 [] [child] []
     s.launches = [child] ∧ child.ctx = 0 ∧ child.parent.isSome = true ∧ child.forkedAt = s.cc ∧ s.teams = [] ∧ s.jobs.list = [] ∧ s.yo.moves = [] ∧
       ∀ n, idState s 0 n ≠ 1) :=
  ⟨rfl, by decide +kernel, by decide +kernel, ⟨rfl, rfl, rfl, rfl, rfl, rfl, ids_free (by decide +kernel), by decide +kernel⟩, ⟨rfl, rfl, rfl, rfl, rfl, rfl, rfl, ids_free (by decide +kernel)⟩⟩

/-- A substitution to start, one under way with its die empty, and a spare that is used. -/
theorem witness_spareSubstitution :
    (let s := schedBox 4 [boxTeam] [] []
     s.contained = false ∧ s.cp.sub = none ∧ s.cfg.spareUsed = false) ∧
    (let s := schedBox 4 [] [] []
     let s := { s with cp := { s.cp with sub := some 7 } }
     s.contained = false ∧ s.cp.sub.isSome = true ∧ (∀ m ∈ s.teams, m.core < 768 → m.core / 96 ≠ 7) ∧ runningJobs s 7 = []) := by decide +kernel

theorem witness_urgencyMarks : let s := { box [] with cc := 256 }
    smapGet 0 s.cp.marked 0 + 256 ≤ s.cc ∧ gangsOf s = [s.gang] ∧ residents s 0 = [boxTeam] ∧ s.gang.core = 0 ∧ s.gang.team = boxTeam.id ∧
      s.gang.exited = false ∧ s.gang.pipe < 4 := by decide +kernel

/-- Two gangs of one team on pipe 0, of which the second has issued less. -/
theorem witness_fewestIssues : let h : Gang := { (box []).gang with id := 1, gangNo := 1 }
    let s := { gangBox [] (fun g => { g with issued := 3 }) with others := [h], cc := 256 }
    smapGet 0 s.cp.marked 0 + 256 ≤ s.cc ∧ (∀ g ∈ gangsOf s, ∀ k ∈ gangsOf s, g.id = k.id → g = k) ∧
      (∀ g ∈ gangsOf s, ∀ k ∈ gangsOf s, g.team = k.team → g.gangNo = k.gangNo → g = k) ∧ Claims.fewestIssues s 0 h ∧
      ¬Claims.fewestIssues s 0 s.gang := by
  refine ⟨by decide +kernel, by decide +kernel, by decide +kernel, ⟨rfl, by decide +kernel, ⟨boxTeam, by decide +kernel, rfl⟩, by decide +kernel⟩, fun h => ?_⟩
  have := h.2.2.2 { (box []).gang with id := 1, gangNo := 1 } (by decide +kernel) rfl rfl rfl rfl
  revert this
  decide +kernel

/-! ### Debugging and tracing -/

/-- Debug block 0 holds the right for context 0; DBGSEL is `sel`, DBGDATA `data`; the box's arm may be halted. -/
def rightBox (sel data : Nat) (halted : Bool) : State :=
  reg (reg (reg (armBox [] (fun a => { a with halted := halted, skipStop := false })) (dbgBlock 0) 0x10000) (dbgBlock 0 + 0x18) sel) (dbgBlock 0 + 0x20) data

theorem witness_breakpoints : ∀ n < 4, let s := reg (rightBox 0 0 false) (dbgBlock 0 + 0x28 + 8 * n) 1
    s.live = true ∧ debugBlock s s.gang.ctx = some 0 ∧ bitField (mmGet s (dbgBlock 0 + 0x28 + 8 * n)) 0 0 = 1 ∧
      bitField (mmGet s (dbgBlock 0 + 0x28 + 8 * n)) 56 2 = s.gang.arm.pc.toNat % 2 ^ 57 / 4 ∧ s.gang.arm.skipStop = false ∧ s.gang.arm.rep = 0 ∧
      s.gang.arm.halted = false ∧ Claims.untraced s := by
  have h : ∀ n < 4, mmField (reg (rightBox 0 0 false) (dbgBlock 0 + 0x28 + 8 * n)  1) trcCtl 0 0 = 0 := by decide +kernel
  intro n hn
  have := h n hn
  obtain rfl | rfl | rfl | rfl : n = 0 ∨ n = 1 ∨ n = 2 ∨ n = 3 := by omega
  all_goals exact ⟨rfl, by decide +kernel, by decide +kernel, by decide +kernel, by decide +kernel, rfl, rfl, this⟩

theorem witness_traceSamples : let s := { reg (reg (box []) trcCtl (1 + 256 * 2 ^ 32)) (traceRing + 8) 1 with cc := 256 }
    s.live = true ∧ mmField s trcCtl 0 0 = 1 ∧ mmField s trcCtl 31 16 = s.gang.ctx ∧ mmField s trcCtl 63 32 ≠ 0 ∧
      smapGet 0 s.cp.sampled (2 * s.gang.id + s.gang.arm.slot) + mmField s trcCtl 63 32 ≤ s.cc ∧ ringOn s traceRing = true ∧
      ringFull s traceRing = false ∧ s.gang.arm.slot < 2 ∧ s.contained = false := by decide +kernel

theorem witness_debugRights :
    ((box []).contained = false ∧ dbgRight (box []) 0 = false ∧ 0 ∉ (box []).dbg.revoked) ∧
    (let s := { box [] with dbg := ⟨[], [3]⟩ }
     s.contained = false ∧ 3 ∈ s.dbg.revoked) := by decide +kernel

theorem mayDebug_box (sel data : Nat) (h : Bool) (hr : dbgRight (rightBox sel data h) 0 = true) : Claims.mayDebug (rightBox sel data h) 0 :=
  ⟨rfl, by decide, hr, rfl⟩

theorem witness_debugCommands :
    (∀ h : Bool, Claims.mayDebug (rightBox 0 0 h) 0 ∧ dbgArm (rightBox 0 0 h) 0 = some (rightBox 0 0 h).gang ∧ (rightBox 0 0 h).gang.arm.halted = h ∧
      (rightBox 0 0 h).gang.core < 768 ∧ (rightBox 0 0 h).live = true ∧ (rightBox 0 0 h).gang.partner = none ∧
      gangsOf (rightBox 0 0 h) = [(rightBox 0 0 h).gang]) := by
  intro h
  exact ⟨mayDebug_box _ _ _ (by cases h <;> decide +kernel), by cases h <;> decide +kernel⟩

/-- READ and WRITE of a scalar register, of a lane's register, of a descriptor's upper half, of a counter, of a shadow, of the PC and of item 8. -/
theorem witness_debugItems :
    (∀ sel ∈ [8, 2 ^ 22 + 9 + 7 * 2 ^ 15, 2 * 2 ^ 22 + 5 + 2 ^ 15, 3 * 2 ^ 22 + 15, 5 * 2 ^ 22 + 60, 7 * 2 ^ 22, 8 * 2 ^ 22], ∀ h : Bool,
      Claims.mayDebug (rightBox sel 8 h) 0 ∧ dbgArm (rightBox sel 8 h) 0 = some (rightBox sel 8 h).gang ∧ (rightBox sel 8 h).gang.arm.halted = h ∧
      (rightBox sel 8 h).gang.core < 768 ∧ dbgSel (rightBox sel 8 h) 0 11 0 < (rightBox sel 8 h).gang.ns ∧
      dbgSel (rightBox sel 8 h) 0 21 15 < (rightBox sel 8 h).gang.width ∧ mmGet (rightBox sel 8 h) (dbgBlock 0 + 0x20) % 4 = 0) ∧
    (dbgSel (rightBox (8 * 2 ^ 22) 8 true) 0 25 22 = 8 ∧ dbgSel (rightBox (5 * 2 ^ 22 + 60) 8 true) 0 25 22 = 5 ∧
      dbgSel (rightBox (5 * 2 ^ 22 + 60) 8 true) 0 11 0 < 61 ∧
      ¬((BitVec.ofNat 32 8).toInt ≤ (readS (rightBox (5 * 2 ^ 22 + 60) 8 true).gang 60).toInt ∧
        (readS (rightBox (5 * 2 ^ 22 + 60) 8 true).gang 60).toInt ≤ (BitVec.ofNat 32 (8 / 2 ^ 32)).toInt)) := by
  refine ⟨fun sel hs h => ?_, by decide +kernel⟩
  simp only [List.mem_cons, List.not_mem_nil, or_false] at hs
  rcases hs with rfl | rfl | rfl | rfl | rfl | rfl | rfl <;> cases h <;> exact ⟨mayDebug_box _ _ _ (by decide +kernel), by decide +kernel⟩

theorem witness_revocation : (rightBox 0 0 true).contained = false ∧ dbgRight (rightBox 0 0 true) 0 = true := by decide +kernel

/-! ### Management and the host -/

/-- A configuration with nothing failed and nine dies' parts. -/
def plainCfg (s : State) (leaf : Nat) : State :=
  { s with cfg := { s.cfg with failed := [], volt := List.replicate 8 10, retired := List.replicate 8 0, leaf := leaf } }

theorem witness_memoryReady : ({ box [] with mgmt := ⟨0, none, 0, true, [], []⟩ } : State).mgmt.held = true ∧
    (let s := plainCfg { box [] with mgmt := ⟨0, none, 0, false, [], []⟩, dram := { (box []).dram with ready := false } } 0
     s.mgmt.held = false ∧ s.dram.ready = false ∧ s.yo.ckpt = none ∧ s.cfg.failed = []) := by decide +kernel

theorem witness_marginPlans : (let s := { box [] with mgmt := ⟨1, none, 0, false, [], []⟩ }
     s.time < s.mgmt.nextPlan) ∧
    (let s := plainCfg { box [] with mgmt := ⟨0, none, 0, false, [], []⟩ } 0
     s.mgmt.held = false ∧ s.mgmt.nextPlan ≤ s.time ∧ s.cfg.volt.length = 8 ∧ s.cfg.retired.length = 8 ∧ s.cfg.leaf < 2 ^ 20) := by decide +kernel

/-- No page moves and nothing is cached, so that a warm reset writes nothing back. -/
theorem witness_resets : Claims.backed (box []) ∧ (box []).cfg.pendingVendor = none := ⟨⟨rfl, (fun _ h => nomatch h), (fun _ h => nomatch h)⟩, rfl⟩

theorem witness_attestation :
    (∀ leaf ∈ [0, 2 ^ 20 - 1, 2 ^ 20], let s := plainCfg { box [] with mgmt := ⟨0, some (List.replicate 32 7), 0, false, [], []⟩ } leaf
      s.contained = false ∧ s.mgmt.nonce = some (List.replicate 32 7) ∧ (List.replicate 32 (7 : Byte)).length = 32 ∧ s.cfg.leaf = leaf) ∧
    (let s := { box [] with mgmt := ⟨0, none, 0, false, [], []⟩ }
     s.contained = false ∧ s.mgmt.held = false ∧ s.mgmt.nonce = none) := by decide +kernel

theorem witness_powerAndHeat : ∀ n, n < 4 → mmGet (box []) (errFatal + 8 * n) = 0 := by decide +kernel

/-- TIMEADJ of a greater and of a smaller value; an arm that meets an unassigned word. -/
theorem witness_timeAdjust : (let s := { box [] with mgmt := ⟨0, none, 0, false, [], []⟩, time := 5 }
     s.contained = false ∧ s.mgmt.held = false ∧ s.time < (6 : BitVec 64).toNat ∧ ¬s.time < (5 : BitVec 64).toNat) ∧ (box []).live = true := by decide +kernel

/-- A queue's base register, an offset without a register, the two alignments, and a contained part. -/
theorem witness_registerWrites : (let s := { box [] with mgmt := ⟨0, none, 0, false, [], []⟩ }
     s.contained = false ∧ s.mgmt.held = false) ∧ Claims.plainRegister (qBlock 0) ∧ (regInfo (0x8FFF8 / 8 * 8)).present = false ∧ 0x8FFF8 % 8 = 0 ∧
    ({ box [] with contained := true } : State).contained = true :=
  ⟨by decide +kernel, ⟨by decide +kernel, by decide +kernel, by decide +kernel, by decide +kernel, by decide +kernel, by decide +kernel⟩, by decide +kernel,
   by decide, rfl⟩

theorem witness_unsupportedRequests : (box []).contained = false ∧ (2 : BitVec 64).toNat % 4 ≠ 0 ∧ ringOn (box []) errRing = false ∧
    ringOn (reg (box []) (errRing + 8) 1) errRing = true ∧ ringFull (reg (box []) (errRing + 8) 1) errRing = false := by decide +kernel

/-- A read's two halves; a write and a read in time; a write that a lease of the line puts past the bound. -/
theorem witness_bar2Accesses : let s := { box [] with mgmt := ⟨0, none, 0, false, [], []⟩ }
    (8 % 8 = 0 ∧ ({ box [] with mgmt := ⟨0, none, 0, true, [], []⟩ } : State).mgmt.held = true ∧ 0x10000 ≤ 0x90000 ∧ 0x60800 ≤ 0x90000) ∧
    s.contained = false ∧ s.mgmt.held = false ∧ Claims.backed s ∧ (mmField s hostWin 51 36 * 2 ^ 36 + (0x60F0 : BitVec 64).toNat % 2 ^ 36) % 256 + 16 ≤ 256 ∧
      (∀ k ∈ List.range 16, cacheable s (mmField s hostWin 51 36 * 2 ^ 36 + (0x60F0 : BitVec 64).toNat % 2 ^ 36 + k) = true) ∧
      writeTime s hostNo 0x60F0 ≤ timeBound s ∧ readTime s hostNo 0x60F0 ≤ timeBound s ∧ mmField s hostWin 51 36 = 0 ∧
      (let u := { s with caches := { s.caches with stamps := [⟨0x60, 0, 0, timeBound s + 1, 0, 0⟩] } }
       agentTime u hostNo < writeTime u hostNo 0x60F0 ∧ timeBound u < writeTime u hostNo 0x60F0 ∧ cacheable u 0x60F0 = true) :=
  ⟨by decide +kernel, by decide +kernel, by decide +kernel, ⟨rfl, (fun _ h => nomatch h), (fun _ h => nomatch h)⟩, by decide +kernel⟩

/-! ### The step -/

/-- The box with words at its PC. -/
def wordBox (w : Nat) : State := { box [] with mem := (placeCode State.reset w).mem }

/-- The turn is an arm's that may issue; one word, a word of two, a word that no instruction has, and an unmapped page. -/
theorem witness_stepRunsDecoded :
    (∀ w ∈ [0x4C, 0x0108380001000805], (wordBox w).live = true ∧ (wordBox w).turn = .arm (wordBox w).gang.id (wordBox w).gang.arm.slot ∧
      mayIssue (wordBox w) (wordBox w).gang (wordBox w).gang.arm = true ∧ atJoin (wordBox w).gang = false ∧ stopsBefore (wordBox w) = false) ∧
    (∀ b : Bool, (joinBox b).live = true ∧ (joinBox b).turn = .arm (joinBox b).gang.id (joinBox b).gang.arm.slot ∧
      mayIssue (joinBox b) (joinBox b).gang (joinBox b).gang.arm = true ∧ atJoin (joinBox b).gang = true) ∧
    (∃ r : Group × State, fetchGroup groupFuel (wordBox 0x4C) 0 [] = .ok r ∧ (match groupInstr r.2 r.1 with | .ok i => i = .ret | .error _ => False)) ∧
    (∃ r : Word × State, fetchWord (wordBox 0x4C) 0 = .ok r ∧ wordKind r.1 ≠ 2 ∧ wordCount r.1 = 1 ∧ decodeWords r.1 0 = .ok .ret) ∧
    (∃ e : Trap × State, fetchGroup groupFuel (wordBox 0x4C) 0x4000 [] = .error e) ∧
    (∃ r : Group × State, fetchGroup groupFuel (wordBox 0x1F8) 0 [] = .ok r ∧
      (match groupInstr r.2 r.1 with | .ok _ => false | .error _ => true) = true) := by
  refine ⟨by decide +kernel, by decide +kernel, ?_, ?_, err_of (by decide +kernel), ok_of (by decide +kernel)⟩
  · obtain ⟨r, h, h2⟩ := ok_of (x := fetchGroup groupFuel (wordBox 0x4C) 0 [])
      (p := fun r => (match groupInstr r.2 r.1 with | .ok i => decide (i = Instr.ret) | .error _ => false) = true) (by decide +kernel)
    refine ⟨r, h, ?_⟩
    cases hg : groupInstr r.2 r.1 with
    | ok i => rw [hg] at h2; exact of_decide_eq_true h2
    | error e => rw [hg] at h2; cases h2
  · exact ok_of (by decide +kernel)

/-- A word of two: its second word is fetched whichever translation serves it. -/
theorem witness_secondWord : ∃ r : Word × State, fetchWord (wordBox 0x0108380001000805) 0 = .ok r ∧ (wordKind r.1 ≠ 2 ∧ wordCount r.1 ≠ 1) ∧
    ∃ q : Word × State, fetchWord r.2 4 = .ok q ∧ (match decodeWords r.1 q.1 with | .ok _ => true | .error _ => false) = true := by
  obtain ⟨r, h, h1⟩ := ok_of (x := fetchWord (wordBox 0x0108380001000805) 0) (p := fun r => wordKind r.1 ≠ 2 ∧ wordCount r.1 ≠ 1) (by decide +kernel)
  refine ⟨r, h, h1, ok_of ?_⟩
  have hr : r = (match fetchWord (wordBox 0x0108380001000805) 0 with | .ok r => r | .error e => (0, e.2)) := by rw [h]
  rw [hr]
  unfold fetchWord fetchXlat pickCached
  generalize Config.useCached _ = b
  generalize Config.useCached _ = b'
  cases b <;> cases b' <;> decide +kernel

/-- The box whose instruction cache holds the line of its code. -/
def warmBox : State := { box [] with caches := { (box []).caches with icache := [⟨0, 0x60, physBytes (box []) 0x6000 256, [], 0⟩] } }

theorem witness_fetchedWords : icFind (box []) (box []).gang.core (xlate (box []) (armAgent (box [])) 0 .fetch (pickCached (box []) 125)).pa = none ∧
    (icFind warmBox warmBox.gang.core (xlate warmBox (armAgent warmBox) 0 .fetch (pickCached warmBox 125)).pa).isSome = true ∧ canonical (0 : DWord).toNat = true ∧ inArea (apCtx (box [])) (0 : DWord).toNat = false ∧
    (xlate (box []) (armAgent (box [])) 0 .fetch (pickCached (box []) 125)).fault = none ∧ (∃ r : Word × State, fetchWord (box []) 0 = .ok r) ∧
    canonical ((2 ^ 56 : DWord)).toNat = false ∧ (∃ r : Word × State, fetchWord warmBox 0 = .ok r) := by
  refine ⟨by decide +kernel, by decide +kernel, by decide, by decide +kernel, by decide +kernel, ?_, by decide, ?_⟩
  rotate_left
  · obtain ⟨r, h, _⟩ := ok_of (p := fun _ => True) (x := fetchWord warmBox 0) (by decide +kernel)
    exact ⟨r, h⟩
  obtain ⟨r, h, _⟩ := ok_of (p := fun _ => True) (x := fetchWord (box []) 0) (by decide +kernel)
  exact ⟨r, h⟩

theorem witness_encodedInstructionsDecode : instrWf (.add .vvv 8 9 10) = true ∧ encode (.add .vvv 8 9 10) ≠ [] := by decide +kernel

theorem next_of {x : Host.Outcome State Fault Refusal} (h : (match x with | .next _ => true | _ => false) = true) : ∃ t, x = .next t := by
  cases x with
  | next t => exact ⟨t, rfl⟩
  | fault f => cases h
  | refused r => cases h

/-- A consistent state whose step answers; an instruction placed after reset runs. -/
theorem witness_stepKeepsConsistency : Claims.consistent (wordBox 0x4C) ∧ ∃ t, step (wordBox 0x4C) = .next t :=
  ⟨⟨(fun h => nomatch h),
    show ∃ x ∈ gangsOf (wordBox 0x4C), x.id = 0 ∧ ∃ a ∈ armsOf x, a.slot = 0 ∧ mayIssue (wordBox 0x4C) x a = true from
      ⟨(wordBox 0x4C).gang, by decide +kernel, rfl, (wordBox 0x4C).gang.arm, by decide +kernel, rfl, by decide +kernel⟩⟩,
   next_of (by decide +kernel)⟩

theorem test_placedInstruction : decodeTableWord 32 0x1024548C = some (.mulh .sss 8 9 10) ∧ ∃ t, step (State.reset.withFetchWord 32 0x1024548C) = .next t :=
  ⟨by decide +kernel, next_of (by decide +kernel)⟩


end Sys2Proof.Tests
end

/-! SUPPORT. Every step answers a next state (R47). -/

namespace Sys2Proof.Machine

theorem ite_answers {c : Prop} [Decidable c] {x y : Host.Outcome State Fault Refusal} (hx : ∃ t, x = .next t) (hy : ∃ t, y = .next t) :
    ∃ t, (if c then x else y) = .next t := by
  split
  · exact hx
  · exact hy

/-- The shape of what an arm executes: nothing where no gang is at hand, and else a next state. -/
theorem ifLive_answers (s t : State) : ∃ u, (if !s.live then .next s else .next t : Host.Outcome State Fault Refusal) = .next u :=
  ite_answers ⟨_, rfl⟩ ⟨_, rfl⟩

/-- An instruction of an arm answers where no gang is at hand, and else settles; PR looks at its legality in between, and BRK at what it
stops. An event is a function of the state. -/
theorem exec_answers (i : Instr) (s : State) : ∃ t, exec i s = .next t := by
  cases i with
  | pr => exact ite_answers ⟨_, rfl⟩ (ite_answers ⟨_, rfl⟩ ⟨_, rfl⟩)
  | brk => exact ite_answers (ifLive_answers s _) (ite_answers ⟨_, rfl⟩ (ifLive_answers s _))
  | waitComplete | waiterPlaceFreed | sweepComplete | streamRunAhead | jobDispatch | jobComplete | hintServed | reservationGranted
      | reservationTimeout | deferredMoveStart | matrixCommand | matrixWatchdog | wwaitTimeout | packetLanding | packetTimeout
      | dataLanding | arrive | barrierTimeout | gangEnd | recallComplete | copyReadData | lineAccepted | portClose | sourceFrameRelease
      | reverseLineAccepted | refreshDue | refpbIssue | refreshBurstEnd | writeQueueDrain | retentionEntry | teamDispatch
      | launchPacketRead | codeLinesPushed | coResidentDispatch | affinityTimeout | preEmption | forcedSave | teamRestore | vgrowGrant
      | stuckCore | parentSwapOut | launchCompletion | replay | faultPostWrite | tlbiAll | tlbiNone | tlbiDone | epochEnd
      | heldFrameRelease | cancel | checkpoint | checkpointDone | restore | restoreDone | patrolScrub | spareRemap | coldReset
      | memoryReady | warmReset | marginPlan | attestation | attestationReport | powerThrottle | thermalTrip | urgencyMark
      | breakpointStop | traceSample | mxrst | packetAck | portFailure | pageTableWalk | fqreplyRetry | fqreplyKill | tlbiPages
      | tlbiContext | lineRead | lineWrite | channelFailed | failed | hdmCommit | hdmUncommit | viralIndication | cxlLinkTrained
      | retentionExit | bkret | precmd | spareDieSubstitution | contextTeardown | dbgcmdHalt | dbgcmdResume | dbgcmdRead | dbgcmdWrite
      | dbgcmdStep | dbgcmdClear | revocation | vendorPartWrite | timeadj | unsupportedRequest | bar2Access | registerWrite
      | linkFlitReplay | failedCxlPort => exact ⟨_, rfl⟩
  | _ => exact ifLive_answers s _

theorem execAll_answers (is : List Instr) (s : State) : ∃ t, execAll is s = .next t := by
  induction is generalizing s with
  | nil => exact ⟨s, rfl⟩
  | cons i is ih =>
    obtain ⟨u, hu⟩ := exec_answers i s
    obtain ⟨t, ht⟩ := ih u
    exact ⟨t, execAll_cons_eq_next.2 ⟨u, hu, ht⟩⟩

/-- A group that cannot be fetched or decoded takes its trap, and any other is executed (R42). -/
theorem runGroup_answers (s : State) : ∃ t, runGroup s = .next t := by
  unfold runGroup
  split
  · exact ⟨_, rfl⟩
  · split
    · exact ⟨_, rfl⟩
    · exact execAll_answers ..

theorem armStep_answers (g slot : Nat) (s : State) : ∃ t, armStep g slot s = .next t :=
  ite_answers (ite_answers ⟨_, rfl⟩ (ite_answers ⟨_, rfl⟩ (runGroup_answers _))) ⟨_, rfl⟩

theorem turnStep_answers (s : State) : ∃ t, turnStep s = .next t := by
  unfold turnStep
  cases s.turn with
  | arm g slot => exact armStep_answers g slot s
  | event i => exact exec_answers i s
  | idle | sample | urgent | ack | replay => exact ⟨_, rfl⟩

/-- Settles O60: every turn answers a next state, and what follows a turn is a function of that state. -/
theorem everyStepAnswers : Obligations.EveryStepAnswers := by
  intro s
  obtain ⟨u, hu⟩ := turnStep_answers s
  exact ⟨endStep u, step_eq_next.2 ⟨u, hu, rfl⟩⟩

end Sys2Proof.Machine

/-! SUPPORT. What cold reset leaves. -/

namespace Sys2Proof.Machine

/-- Every register of the queues' blocks resets to zero (R380). -/
theorem cpInfo_reset_of_queueArea {o : Nat} (hlo : 0x1000 ≤ o) (hhi : o < 0x1800) : (cpInfo o).reset = 0 := by
  have hzero : o ≠ 0 := by omega
  simp only [cpInfo, hzero, Nat.not_lt.2 hlo, hhi, if_true, if_false]
  split_ifs <;> rfl

theorem regReset_of_queueArea {o : Nat} (hlo : 0x101000 ≤ o) (hhi : o < 0x101800) : regReset o = 0#64 := by
  have harea : regInfo o = cpInfo (o - 0x100000) := by
    unfold regInfo
    iterate 11 rw [if_neg (by omega)]
    rw [if_pos (by omega)]
  rw [regReset, harea, cpInfo_reset_of_queueArea (by omega) (by omega)]

/-- A register that cold reset does not list holds its reset value. -/
theorem mmGet_reset_of_unlisted {o : Nat} (h : ∀ e ∈ State.reset.mmio, o ≠ e.1) : mmGet State.reset o = (regReset o).toNat := by
  simp only [State.reset, List.forall_mem_cons] at h
  simp [mmGet, State.reset, smapGet, h]

theorem mmGet_reset_of_queueArea {o : Nat} (hlo : 0x101000 ≤ o) (hhi : o < 0x101800) : mmGet State.reset o = 0 := by
  have hunlisted : ∀ e ∈ State.reset.mmio, o ≠ e.1 := by
    simp only [State.reset, List.forall_mem_cons, List.not_mem_nil, false_imp_iff, implies_true, and_true]
    omega
  rw [mmGet_reset_of_unlisted hunlisted, regReset_of_queueArea hlo hhi]
  rfl

/-- The state after reset is the literal `State.reset`, so that its own fields are read off it; each queue's QCTL and QHEAD lie in the area
that reset leaves at zero. -/
theorem resetState_fields : Claims.ResetState := by
  refine ⟨rfl, rfl, rfl, rfl, rfl, rfl, rfl, rfl, rfl, rfl, rfl, rfl, rfl, rfl, reset_mem_wf, rfl, rfl, rfl, rfl, rfl, rfl, rfl, fun q hq => ?_⟩
  have hblock : qBlock q = 0x101000 + 0x20 * q := rfl
  exact ⟨mmGet_reset_of_queueArea (by omega) (by omega), mmGet_reset_of_queueArea (by omega) (by omega)⟩

theorem resetIsConsistent : Claims.ResetIsConsistent := ⟨(fun h => nomatch h), trivial⟩

/-- Settles O57, from the literal state after reset and the queues' register area. -/
theorem resetState : Obligations.ResetState := ⟨resetState_fields, resetIsConsistent⟩

end Sys2Proof.Machine

/-! SUPPORT. A write through BAR2 that does not land. -/

namespace Sys2Proof.Machine

/-- The first byte that CXL port 1 serves while no decoder is committed (R80). -/
def portOneByte : Nat := 0x120000000000

/-- The line of that byte, held by the Jigsaw under a home that no die has: the hit counter of block 0x500 is CXLPSTAT of port 1. -/
def strayLine : JLine :=
  { home := 0x500, key := .line portOneByte, pa := portOneByte, valid := 15, dirty := 0, saved := 0, back := [], backPoison := [], errs := [],
    lru := 0 }

/-- After reset: the link of port 1 is up, HOSTWIN leads to its first byte, and the Jigsaw holds `strayLine`. -/
def strayHome : State :=
  { State.reset with
    mmio := [(cxlpStat 1, 1), (hostWin, BitVec.ofNat 64 portOneByte)]
    caches := { State.reset.caches with jigsaw := [strayLine] } }

theorem strayHome_backed : Claims.backed strayHome := by
  have hline : unbacked strayHome strayLine.pa = false := by decide
  exact ⟨rfl, List.forall_mem_singleton.2 hline, fun _ h => nomatch h⟩

theorem bar2Pa_strayHome : bar2Pa strayHome 0 = portOneByte := by decide

theorem cacheable_strayHome : cacheable strayHome portOneByte = true := by decide

theorem writeTime_strayHome : writeTime strayHome hostNo portOneByte ≤ timeBound strayHome := by decide

/-- The write counts its hit before it is performed, finds the port down, and is discarded (R60). -/
theorem strayHome_discards_write : ∃ t, exec (.bar2Access true 0 [1]) strayHome = .next t ∧ t.mem.main = [] := ⟨_, rfl, by decide⟩

/-- Refutes O54, by its clause on BAR2 writes (R335): `Claims.backed` leaves the homes of the cached lines free, and under the home of
`strayLine`, which no fill gives a line, the write's own hit takes down the link that it goes to, so that the byte does not land. -/
theorem not_hostAccesses : ¬ Obligations.HostAccesses := by
  rintro ⟨-, -, ⟨-, hbar2⟩, -⟩
  have hpa : mmField strayHome hostWin 51 36 * 2 ^ 36 + (0 : BitVec 64).toNat % 2 ^ 36 = portOneByte := bar2Pa_strayHome
  obtain ⟨-, hwrite, -⟩ := hbar2 strayHome 0 [1] rfl rfl strayHome_backed (by decide) (by rw [hpa]; decide)
    (by rw [hpa]; simpa using cacheable_strayHome)
  rw [hpa] at hwrite
  obtain ⟨t, ht, -, -, hlands⟩ := hwrite writeTime_strayHome
  obtain ⟨u, hu, hlost⟩ := strayHome_discards_write
  obtain rfl : t = u := Host.Outcome.next.inj (ht.symm.trans hu)
  have hbyte : smapGet 0 t.mem.main portOneByte = 1 := by simpa using hlands portOneByte
  rw [hlost] at hbyte
  exact absurd hbyte (by decide)

end Sys2Proof.Machine

/-! SUPPORT. The decoder reads back what the encoder writes, format by format (R16 to R50). -/

namespace Sys2Proof

/-! ### Codes of the fields read back (R20, R23, R27 to R31) -/

@[simp] theorem shaOf_shaCode (sh : ShA) : shaOf (BitVec.ofNat 2 (shaCode sh)) = some sh := by cases sh <;> rfl
@[simp] theorem shwOf_shwCode (sh : ShW) : shwOf (BitVec.ofNat 3 (shwCode sh)) = some sh := by cases sh <;> rfl
@[simp] theorem mdOf_mdCode (md : Md) : mdOf (BitVec.ofNat 2 (mdCode md)) = some md := by cases md <;> rfl
@[simp] theorem tyOf_tyCode (t : Ty) : tyOf (BitVec.ofNat 5 (tyCode t)) = some t := by cases t <;> rfl
@[simp] theorem condOf_condCode (c : Cond) : condOf (BitVec.ofNat 6 (condCode c)) = some c := by cases c <;> rfl
@[simp] theorem fcondOf_fcondCode (c : FCond) : fcondOf (BitVec.ofNat 6 (fcondCode c)) = some c := by cases c <;> rfl
@[simp] theorem intFnOf_intFnCode (f : IntFn) : intFnOf (BitVec.ofNat 6 (intFnCode f)) = some f := by cases f <;> rfl
@[simp] theorem floatFnOf_floatFnCode (f : FloatFn) : floatFnOf (BitVec.ofNat 6 (floatFnCode f)) = some f := by cases f <;> rfl
@[simp] theorem specFnOf_specFnCode (f : SpecFn) : specFnOf (BitVec.ofNat 6 (specFnCode f)) = some f := by cases f <;> rfl
@[simp] theorem atomFnOf_atomFnCode (f : AtomFn) : atomFnOf (BitVec.ofNat 5 (atomFnCode f)) = some f := by cases f <;> rfl
@[simp] theorem laneOpOf_laneOpCode (f : LaneOp) : laneOpOf (BitVec.ofNat 2 (laneOpCode f)) = some f := by cases f <;> rfl
@[simp] theorem flushOf_flushCode (f : Flush) : flushOf (BitVec.ofNat 2 (flushCode f)) = some f := by cases f <;> rfl
@[simp] theorem prRoundOf_prRoundCode (r : PrRound) : prRoundOf (BitVec.ofNat 3 (prRoundCode r)) = some r := by cases r <;> rfl
@[simp] theorem accKindOf_accKindCode (k : AccKind) : accKindOf (BitVec.ofNat 2 (accKindCode k)) = some k := by cases k <;> rfl
@[simp] theorem copOf_copCode (o : Cop) : copOf (BitVec.ofNat 7 (copCode o)) = some o := by cases o <;> rfl
@[simp] theorem hintOf_hintCode (hn : Hint) : hintOf (BitVec.ofNat 2 (hintCode hn)) = hn := by cases hn <;> rfl
@[simp] theorem tierOf_tierCode (t : Tier) : tierOf (BitVec.ofNat 2 (tierCode t)) = t := by cases t <;> rfl
@[simp] theorem kindOf_kindBit (k : Kind) : kindOf (decide (kindBit k = 1)) = k := by cases k <;> rfl

theorem shaCode_lt (sh : ShA) : shaCode sh < 4 := by cases sh <;> decide
theorem kindShCode_lt (k : Kind) : kindShCode k < 4 := by cases k <;> decide
theorem kindBit_lt (k : Kind) : kindBit k < 2 := by cases k <;> decide
theorem shwCode_lt (sh : ShW) : shwCode sh < 8 := by cases sh <;> decide
theorem kindWCode_lt (k : Kind) : kindWCode k < 8 := by cases k <;> decide
theorem mdCode_lt (md : Md) : mdCode md < 4 := by cases md <;> decide
theorem tyCode_lt (t : Ty) : tyCode t < 32 := by cases t <;> decide
theorem condCode_lt (c : Cond) : condCode c < 16 := by cases c <;> decide
theorem fcondCode_lt (c : FCond) : fcondCode c < 64 := by cases c <;> decide
theorem intFnCode_lt (f : IntFn) : intFnCode f < 64 := by cases f <;> decide
theorem floatFnCode_lt (f : FloatFn) : floatFnCode f < 64 := by cases f <;> decide
theorem specFnCode_lt (f : SpecFn) : specFnCode f < 64 := by cases f <;> decide
theorem atomFnCode_lt (f : AtomFn) : atomFnCode f < 32 := by cases f <;> decide
theorem laneOpCode_lt (f : LaneOp) : laneOpCode f < 4 := by cases f <;> decide
theorem hintCode_lt (hn : Hint) : hintCode hn < 4 := by cases hn <;> decide
theorem tierCode_lt (t : Tier) : tierCode t < 4 := by cases t <;> decide
theorem flushCode_lt (f : Flush) : flushCode f < 4 := by cases f <;> decide
theorem prRoundCode_lt (r : PrRound) : prRoundCode r < 8 := by cases r <;> decide
theorem accKindCode_lt (k : AccKind) : accKindCode k < 4 := by cases k <;> decide
theorem copCode_lt (o : Cop) : copCode o < 128 := by cases o <;> decide

/-! ### Words and their formats -/

/-- The first two words of `ws` hold the fields of `i`. -/
def HoldsFields (ws : List (BitVec 32)) (i : Instr) : Prop := decodeFields (ws.getD 0 0) (ws.getD 1 0) = .ok i

/-- A well-formed instruction is what words that hold its fields decode to. -/
theorem decodeWords_of_holdsFields {ws : List (BitVec 32)} {i : Instr} (h : HoldsFields ws i) (hwf : instrWf i = true) :
    decodeWords (ws.getD 0 0) (ws.getD 1 0) = .ok i := by
  rw [decodeWords, h]
  exact if_pos hwf

theorem twoWords_append_mod (n : Nat) : BitVec.ofNat 32 (n / 2 ^ 32) ++ BitVec.ofNat 32 n = BitVec.ofNat 64 n := by
  have h := twoWords_append (n % 2 ^ 64) (Nat.mod_lt _ (by decide))
  have hlo : BitVec.ofNat 32 (n % 2 ^ 64) = BitVec.ofNat 32 n := BitVec.eq_of_toNat_eq (by simp only [BitVec.toNat_ofNat]; omega)
  have hhi : BitVec.ofNat 32 (n % 2 ^ 64 / 2 ^ 32) = BitVec.ofNat 32 (n / 2 ^ 32) :=
    BitVec.eq_of_toNat_eq (by simp only [BitVec.toNat_ofNat]; omega)
  have hall : BitVec.ofNat 64 (n % 2 ^ 64) = BitVec.ofNat 64 n := BitVec.eq_of_toNat_eq (by simp only [BitVec.toNat_ofNat]; omega)
  rwa [hlo, hhi, hall] at h

/-- A word of kind 0b00 and its major. -/
theorem holdsFields_oneWord {n m : Nat} {i : Instr} (hn : n % 512 = 4 * m)
    (h : ∀ w, w = BitVec.ofNat 32 n → (majorOf w).toNat = m → decode32 w = .ok i) : HoldsFields (oneWord n) i := by
  have hk : n % 4 = 0 := by omega
  have hmaj : (majorOf (BitVec.ofNat 32 n)).toNat = m := by rw [majorOf_ofNat, BitVec.toNat_ofNat]; omega
  simp only [HoldsFields, oneWord, List.getD_cons_zero, decodeFields, wordKind_ofNat, hk, h _ rfl hmaj]

/-- Two words of kind 0b01 and their major. -/
theorem holdsFields_twoWords {n m : Nat} {i : Instr} (hn : n % 512 = 1 + 4 * m)
    (h : ∀ x, x = BitVec.ofNat 64 n → (majorOf (x.extractLsb' 0 32)).toNat = m → decode64 x = .ok i) : HoldsFields (twoWords n) i := by
  have hk : n % 4 = 1 := by omega
  have hmaj : (majorOf ((BitVec.ofNat 64 n).extractLsb' 0 32)).toNat = m := by
    rw [extract_ofNat, majorOf_ofNat, BitVec.toNat_ofNat]; omega
  simp only [HoldsFields, twoWords, List.getD_cons_zero, List.getD_cons_succ, decodeFields, wordKind_ofNat, hk, twoWords_append_mod,
    h _ rfl hmaj]

/-! ### Majors of one word (R48) -/

theorem decode32_of_majorA {w : BitVec 32} {m : Nat} (hmaj : (majorOf w).toNat = m) (hm : (0x20 ≤ m ∧ m < 0x40) ∨ (0x50 ≤ m ∧ m < 0x60)) :
    decode32 w = decodeA m (unpackA w) := by
  grind [decode32]

theorem decode32_of_majorB {w : BitVec 32} {m : Nat} (hmaj : (majorOf w).toNat = m) (hm : 0x40 ≤ m ∧ m < 0x50) :
    decode32 w = decodeB m (unpackB w) := by
  grind [decode32]

theorem decode32_of_majorD {w : BitVec 32} {m : Nat} (hmaj : (majorOf w).toNat = m) (hm : 0x60 ≤ m) :
    decode32 w = decodeD m (unpackD w) := by
  grind [decode32]

theorem decode32_of_majorE {w : BitVec 32} {m : Nat} (hmaj : (majorOf w).toNat = m) (hm : 0x18 ≤ m ∧ m < 0x1D) :
    decode32 w = decodeE m (unpackE w) := by
  grind [decode32]

theorem decode32_of_majorF {w : BitVec 32} {m : Nat} (hmaj : (majorOf w).toNat = m) (hm : m < 0x10 ∨ (0x12 ≤ m ∧ m < 0x18)) :
    decode32 w = decodeF m (unpackF w) := by
  grind [decode32]

/-! ### Each format's words hold its fields -/

/-- Format A (R19). -/
theorem holdsFields_encA {m sh : Nat} {d a b : Reg} {i : Instr} (hm : (0x20 ≤ m ∧ m < 0x40) ∨ (0x50 ≤ m ∧ m < 0x60)) (hsh : sh < 4)
    (h : decodeA m ⟨d, a, b, BitVec.ofNat 2 sh⟩ = .ok i) : HoldsFields (encA m d.toNat a.toNat b.toNat sh) i := by
  refine holdsFields_oneWord (m := m) (by omega) fun w hw hmaj => ?_
  rw [decode32_of_majorA hmaj hm, hw, unpackA_enc m _ _ _ sh (by omega) a.isLt b.isLt hsh]
  simpa using h

/-- Format B (R21). -/
theorem holdsFields_encB {m imm : Nat} {d a : Reg} {k : Kind} {i : Instr} (hm : 0x40 ≤ m ∧ m < 0x50) (himm : imm < 256)
    (h : ∀ v, v = BitVec.ofNat 8 imm → decodeB m ⟨d, a, v, decide (kindBit k = 1)⟩ = .ok i) :
    HoldsFields (encB m d.toNat a.toNat imm (kindBit k)) i := by
  have hk := kindBit_lt k
  refine holdsFields_oneWord (m := m) (by omega) fun w hw hmaj => ?_
  rw [decode32_of_majorB hmaj hm, hw, unpackB_enc m _ _ imm _ (by omega) a.isLt himm hk]
  simpa using h _ rfl

/-- Format C (R22). -/
theorem holdsFields_encC {m : Nat} {off : BitVec 22} {mk : BitVec 22 → Instr} (h : ∀ w, (majorOf w).toNat = m → decode32 w = decodeC w mk)
    (hm : m < 128) : HoldsFields (encC m off.toNat) (mk off) := by
  refine holdsFields_oneWord (m := m) (by omega) fun w hw hmaj => ?_
  have hbit : bitAt w 9 = false := by rw [hw, bitAt_ofNat _ _ _ (by decide)]; exact decide_eq_false (by omega)
  have hoff : w.extractLsb' 10 22 = off := by
    rw [hw, extract_ofNat]; apply BitVec.eq_of_toNat_eq; rw [BitVec.toNat_ofNat]; omega
  simp [h w hmaj, decodeC, hbit, hoff, need]

/-- Format D (R23). -/
theorem holdsFields_encD {m : Nat} {d : Reg} {ad : DescNo} {ix : BitVec 6} {md : Md} {dsp cn : BitVec 2} {i : Instr}
    (hm : 0x60 ≤ m ∧ m < 0x80) (h : decodeD m ⟨d, ad, ix, BitVec.ofNat 2 (mdCode md), dsp, cn⟩ = .ok i) :
    HoldsFields (encD m d.toNat ad.toNat ix.toNat (mdCode md) dsp.toNat cn.toNat) i := by
  have hmd := mdCode_lt md
  refine holdsFields_oneWord (m := m) (by omega) fun w hw hmaj => ?_
  rw [decode32_of_majorD hmaj hm.1, hw, unpackD_enc m _ _ _ _ _ _ hm.2 ad.isLt ix.isLt hmd dsp.isLt cn.isLt]
  simpa using h

/-- Format E (R24). -/
theorem holdsFields_encE {m k ks : Nat} {cn : CtrNo} {i : Instr} (hm : 0x18 ≤ m ∧ m < 0x1D) (hk : k < 65536) (hks : ks < 2)
    (h : ∀ v, v = BitVec.ofNat 16 k → decodeE m ⟨0, v, decide (ks = 1), cn⟩ = .ok i) : HoldsFields (encE m k ks cn.toNat) i := by
  refine holdsFields_oneWord (m := m) (by omega) fun w hw hmaj => ?_
  rw [decode32_of_majorE hmaj hm, hw, unpackE_enc m k ks _ (by omega) hk hks cn.isLt]
  simpa using h _ rfl

/-- Format F (R25). -/
theorem holdsFields_encF {m fn imm : Nat} {s : SReg} {i : Instr} (hm : m < 0x10 ∨ (0x12 ≤ m ∧ m < 0x18)) (himm : imm < 4096)
    (h : ∀ v, v = BitVec.ofNat 12 imm → decodeF m ⟨BitVec.ofNat 5 fn, s, v⟩ = .ok i) : HoldsFields (encF m fn s.toNat imm) i := by
  refine holdsFields_oneWord (m := m) (by omega) fun w hw hmaj => ?_
  rw [decode32_of_majorF hmaj hm, hw, unpackF_enc m fn _ imm (by omega) s.isLt himm]
  simpa using h _ rfl

/-- Format L (R26). -/
theorem holdsFields_encL {m : Nat} {imm : BitVec 32} {t : Ty} {k : Kind} {a d : Reg} {i : Instr} (hm : m < 128)
    (h : ∀ x, (majorOf (x.extractLsb' 0 32)).toNat = m →
      unpackL x = ⟨imm, 0, BitVec.ofNat 5 (tyCode t), BitVec.ofNat 2 (kindShCode k), a, d⟩ → decode64 x = .ok i) :
    HoldsFields (encL m imm.toNat (tyCode t) (kindShCode k) a.toNat d.toNat) i := by
  have ht := tyCode_lt t
  have hk := kindShCode_lt k
  refine holdsFields_twoWords (m := m) (by omega) fun x hx hmaj => h x hmaj ?_
  rw [hx, unpackL_enc m _ _ _ _ _ hm ht hk a.isLt d.isLt]
  simp

/-- Format W (R27). -/
theorem holdsFields_encW {m fn sh : Nat} {t : Ty} {c b a d : Reg} {i : Instr} (dec : FmtW → Except DecodeError Instr)
    (hfn : fn < 64) (hsh : sh < 8) (h : dec ⟨0, BitVec.ofNat 6 fn, BitVec.ofNat 3 sh, BitVec.ofNat 5 (tyCode t), c, b, a, d⟩ = .ok i)
    (hdec : ∀ x, (majorOf (x.extractLsb' 0 32)).toNat = m → decode64 x = dec (unpackW x) := by intro x hm; rw [decode64, hm]; rfl)
    (hm : m < 128 := by decide) : HoldsFields (encW m fn sh (tyCode t) c.toNat b.toNat a.toNat d.toNat) i := by
  have ht := tyCode_lt t
  refine holdsFields_twoWords (m := m) (by omega) fun x hx hmaj => ?_
  rw [hdec x hmaj, hx, unpackW_enc m fn sh _ _ _ _ _ hm hfn hsh ht c.isLt b.isLt a.isLt d.isLt]
  simpa using h

/-- Format M (R29). -/
theorem holdsFields_encM {m fn : Nat} {hn : Hint} {disp : BitVec 20} {cn : CtrNo} {md : Md} {ix d : Reg} {ad : DescNo} {i : Instr}
    (dec : FmtM → Except DecodeError Instr) (hfn : fn < 32)
    (h : dec ⟨0, BitVec.ofNat 5 fn, BitVec.ofNat 2 (hintCode hn), disp, cn, 0, BitVec.ofNat 2 (mdCode md), ix, ad, d⟩ = .ok i)
    (hdec : ∀ x, (majorOf (x.extractLsb' 0 32)).toNat = m → decode64 x = dec (unpackM x) := by intro x hm; rw [decode64, hm]; rfl)
    (hm : m < 128 := by decide) :
    HoldsFields (encM m fn (hintCode hn) disp.toNat cn.toNat (mdCode md) ix.toNat ad.toNat d.toNat) i := by
  have hhn := hintCode_lt hn
  have hmd := mdCode_lt md
  refine holdsFields_twoWords (m := m) (by omega) fun x hx hmaj => ?_
  rw [hdec x hmaj, hx, unpackM_enc m fn _ _ _ _ _ _ _ hm hfn hhn disp.isLt cn.isLt hmd ix.isLt ad.isLt d.isLt]
  simpa using h

/-- Format X (R30). -/
theorem holdsFields_encX {m fn imm : Nat} {e : Reg} {ab aa : DescNo} {cn : CtrNo} {i : Instr} (dec : FmtX → Except DecodeError Instr)
    (h : ∀ v, v = BitVec.ofNat 32 imm → dec ⟨v, BitVec.ofNat 4 fn, e, ab, aa, cn⟩ = .ok i) (hfn : fn < 16 := by decide)
    (hdec : ∀ x, (majorOf (x.extractLsb' 0 32)).toNat = m → decode64 x = dec (unpackX x) := by intro x hm; rw [decode64, hm]; rfl)
    (hm : m < 128 := by decide) : HoldsFields (encX m fn e.toNat ab.toNat aa.toNat cn.toNat imm) i := by
  refine holdsFields_twoWords (m := m) (by omega) fun x hx hmaj => ?_
  rw [hdec x hmaj, hx, unpackX_enc m imm fn _ _ _ _ hm hfn e.isLt ab.isLt aa.isLt cn.isLt]
  simpa using h _ rfl

/-- Format J (R31). -/
theorem holdsFields_encJ {m sh : Nat} {jn : BitVec 12} {off : BitVec 20} {b a : Reg} {c : Cond} {i : Instr}
    (dec : FmtJ → Except DecodeError Instr) (hsh : sh < 4) (h : dec ⟨jn, off, 0, BitVec.ofNat 2 sh, b, a, BitVec.ofNat 4 (condCode c)⟩ = .ok i)
    (hdec : ∀ x, (majorOf (x.extractLsb' 0 32)).toNat = m → decode64 x = dec (unpackJ x) := by intro x hm; rw [decode64, hm]; rfl)
    (hm : m < 128 := by decide) : HoldsFields (encJ m jn.toNat off.toNat sh b.toNat a.toNat (condCode c)) i := by
  have hc := condCode_lt c
  refine holdsFields_twoWords (m := m) (by omega) fun x hx hmaj => ?_
  rw [hdec x hmaj, hx, unpackJ_enc m _ _ sh _ _ _ hm off.isLt hsh b.isLt a.isLt hc]
  simpa using h

/-! ### Bits of an immediate that an instruction leaves at zero (R47) -/

/-- The number whose ones are the runs of `w` bits from bit `p` on. -/
def runMask : List (Nat × Nat) → Nat
  | [] => 0
  | (p, w) :: t => (2 ^ w - 1) * 2 ^ p ||| runMask t

theorem and_run (n p w : Nat) : n &&& (2 ^ w - 1) * 2 ^ p = n / 2 ^ p % 2 ^ w * 2 ^ p := by
  apply Nat.eq_of_testBit_eq
  intro k
  simp only [Nat.testBit_and, Nat.testBit_mul_two_pow, Nat.testBit_two_pow_sub_one, Nat.testBit_mod_two_pow, Nat.testBit_div_two_pow]
  by_cases hk : p ≤ k
  · simp [hk, Bool.and_comm]
  · simp [hk]

/-- Every run of bits is zero in `n`. -/
def RunsClear (n : Nat) : List (Nat × Nat) → Prop
  | [] => True
  | (p, w) :: t => n / 2 ^ p % 2 ^ w = 0 ∧ RunsClear n t

theorem and_runMask_eq_zero {n : Nat} {runs : List (Nat × Nat)} (h : RunsClear n runs) : n &&& runMask runs = 0 := by
  induction runs with
  | nil => exact Nat.and_zero n
  | cons r t ih => rw [runMask, Nat.and_or_distrib_left, and_run, h.1, ih h.2, Nat.zero_mul, Nat.or_zero]

theorem need_eq_ok {ok : Bool} {i j : Instr} (hok : ok = true) (hij : i = j) : need ok i = .ok j := by
  rw [need, if_pos hok, hij]

/-! ### Fields of a number -/

section
variable {k n s w : Nat} {v : BitVec k} (hv : v = BitVec.ofNat k n)
include hv

theorem field_eq {x : BitVec w} (h : n % 2 ^ k / 2 ^ s % 2 ^ w = x.toNat := by omega) : v.extractLsb' s w = x := by
  rw [hv, extract_ofNat]
  exact BitVec.eq_of_toNat_eq (by rw [BitVec.toNat_ofNat, h])

theorem field_zero (h : n % 2 ^ k / 2 ^ s % 2 ^ w = 0 := by omega) : v.extractLsb' s w = 0 :=
  field_eq hv (by rw [h, BitVec.ofNat_eq_ofNat, BitVec.toNat_ofNat, Nat.zero_mod])

theorem bit_eq {j : Nat} {b : Bool} (hj : j < k := by decide) (h : n / 2 ^ j % 2 = b.toNat := by omega) : bitAt v j = b := by
  rw [hv, bitAt_ofNat _ _ _ hj, h]
  cases b <;> rfl

theorem hint_eq {hn : Hint} (h : n % 2 ^ k / 2 ^ s % 2 ^ 2 = hintCode hn := by omega) : hintOf (v.extractLsb' s 2) = hn := by
  rw [field_eq hv (x := BitVec.ofNat 2 (hintCode hn)) (by rw [h, BitVec.toNat_ofNat, Nat.mod_eq_of_lt (hintCode_lt hn)]), hintOf_hintCode]

theorem tier_eq {t : Tier} (h : n % 2 ^ k / 2 ^ s % 2 ^ 2 = tierCode t := by omega) : tierOf (v.extractLsb' s 2) = t := by
  rw [field_eq hv (x := BitVec.ofNat 2 (tierCode t)) (by rw [h, BitVec.toNat_ofNat, Nat.mod_eq_of_lt (tierCode_lt t)]), tierOf_tierCode]

theorem reserved_clear {mask : BitVec k} (runs : List (Nat × Nat)) (hmask : mask = BitVec.ofNat k (runMask runs) := by rfl)
    (h : RunsClear n runs := by simp only [RunsClear, and_true]; omega) : (v &&& mask == 0) = true := by
  rw [hv, hmask, ← BitVec.ofNat_and, and_runMask_eq_zero h]
  exact beq_self_eq_true _

end

/-- PF in format M: a store without a data register (R190). -/
def decPrefetch (f : FmtM) : Except DecodeError Instr :=
  decStore (fun hn md _ ad ix disp cn => .pfLong hn md ad ix disp cn) f >>= fun i => need (f.d == 0) i

/-- A field of two bits is one of four. -/
theorem twoBits_cases (q : BitVec 2) : q = 0 ∨ q = 1 ∨ q = 2 ∨ q = 3 := by revert q; decide

/-! ### What the decoders of operand lists read from the encoder's fields -/

theorem decA3_shaCode {mk : ShA → Reg → Reg → Reg → Instr} {sh : ShA} {d a b : Reg} :
    decA3 mk ⟨d, a, b, BitVec.ofNat 2 (shaCode sh)⟩ = .ok (mk sh d a b) := by
  simp [decA3]

theorem decA2_kindShCode {mk : Kind → Reg → Reg → Instr} {k : Kind} {d a : Reg} :
    decA2 mk ⟨d, a, 0, BitVec.ofNat 2 (kindShCode k)⟩ = .ok (mk k d a) := by
  cases k <;> rfl

theorem decA2F_kindShCode {mk : Kind → Reg → Reg → Instr} {k : Kind} {d a : Reg} :
    decA2F mk ⟨d, a, 0, BitVec.ofNat 2 (kindShCode k)⟩ = .ok (mk k d a) := by
  cases k <;> rfl

theorem decL_codes {mk : Ty → Kind → Reg → Reg → BitVec 32 → Except DecodeError Instr} {imm : BitVec 32} {t : Ty} {k : Kind} {a d : Reg} :
    decL mk ⟨imm, 0, BitVec.ofNat 5 (tyCode t), BitVec.ofNat 2 (kindShCode k), a, d⟩ = mk t k d a imm := by
  cases k <;> simp [decL, kindShCode]

theorem decW_codes {fn : BitVec 6} {sh : ShW} {t : Ty} {c b a d : Reg} {f : Ty → ShW → Except DecodeError Instr} :
    decW ⟨0, fn, BitVec.ofNat 3 (shwCode sh), BitVec.ofNat 5 (tyCode t), c, b, a, d⟩ f = f t sh := by
  simp [decW]

/-- The shape of an all-vector or all-scalar operand list in format W. -/
theorem decW_kind {fn : BitVec 6} {k : Kind} {t : Ty} {c b a d : Reg} {f : Ty → Kind → Except DecodeError Instr} :
    decW ⟨0, fn, BitVec.ofNat 3 (kindWCode k), BitVec.ofNat 5 (tyCode t), c, b, a, d⟩ (fun t sh => withKindW sh (f t)) = f t k := by
  cases k
  · exact decW_codes (sh := .vvv)
  · exact decW_codes (sh := .sss)

theorem withMd_mdCode {md : Md} {f : Md → Except DecodeError Instr} : withMd (BitVec.ofNat 2 (mdCode md)) f = f md := by
  simp [withMd]

section
variable {hn : Hint} {disp : BitVec 20} {cn : CtrNo} {md : Md} {ix d : Reg} {ad : DescNo}

theorem decLoad_codes {mk : Bool → Hint → Md → Reg → DescNo → Reg → BitVec 20 → CtrNo → Instr} {sx : Bool} :
    decLoad mk ⟨0, BitVec.ofNat 5 sx.toNat, BitVec.ofNat 2 (hintCode hn), disp, cn, 0, BitVec.ofNat 2 (mdCode md), ix, ad, d⟩ =
      .ok (mk sx hn md d ad ix disp cn) := by
  cases sx <;> simp [decLoad, withMd_mdCode, need]

theorem decStore_codes {mk : Hint → Md → Reg → DescNo → Reg → BitVec 20 → CtrNo → Instr} :
    decStore mk ⟨0, 0, BitVec.ofNat 2 (hintCode hn), disp, cn, 0, BitVec.ofNat 2 (mdCode md), ix, ad, d⟩ = .ok (mk hn md d ad ix disp cn) := by
  simp [decStore, withMd_mdCode, need]

theorem decAtom_codes {mk : AtomFn → Hint → Md → Reg → DescNo → Reg → BitVec 20 → CtrNo → Instr} {has : AtomFn → Bool} {f : AtomFn}
    (hhas : has f = true) :
    decAtom mk has ⟨0, BitVec.ofNat 5 (atomFnCode f), BitVec.ofNat 2 (hintCode hn), disp, cn, 0, BitVec.ofNat 2 (mdCode md), ix, ad, d⟩ =
      .ok (mk f hn md d ad ix disp cn) := by
  simp [decAtom, hhas, withMd_mdCode, need]

theorem decPrefetch_codes : decPrefetch ⟨0, 0, BitVec.ofNat 2 (hintCode hn), disp, cn, 0, BitVec.ofNat 2 (mdCode md), ix, ad, 0⟩ =
    .ok (.pfLong hn md ad ix disp cn) :=
  congrArg (· >>= need true) (decStore_codes (mk := fun hn md _ ad ix disp cn => .pfLong hn md ad ix disp cn))

/-- A descriptor number in a register field. -/
theorem toNat_ofNat_desc (d : DescNo) : (BitVec.ofNat 7 d.toNat).toNat = d.toNat := by rw [BitVec.toNat_ofNat]; omega

theorem decDesc_codes {mk : Hint → DescNo → DescNo → Reg → BitVec 20 → CtrNo → Instr} {d : DescNo} :
    decDesc mk ⟨0, 0, BitVec.ofNat 2 (hintCode hn), disp, cn, 0, 2, ix, ad, BitVec.ofNat 7 d.toNat⟩ = .ok (mk hn d ad ix disp cn) := by
  have hlo : (BitVec.ofNat 7 d.toNat).extractLsb' 0 4 = d := field_eq rfl
  have hhi : (BitVec.ofNat 7 d.toNat).extractLsb' 4 3 = 0 := field_zero rfl
  simp only [decDesc, hlo, hhi, hintOf_hintCode]
  rfl

end

theorem decInterval_codes {mk : Kind → Reg → Reg → Reg → Instr} {k : Kind} {d b c : Reg} {sh : Nat}
    (hsh : sh = match k with | .vec => 2 | .scal => 3) :
    decInterval mk ⟨0, 0, BitVec.ofNat 3 sh, BitVec.ofNat 5 (tyCode .i32), c, b, 0, d⟩ = .ok (mk k d b c) := by
  subst hsh
  cases k <;> rfl

theorem condOf_branchCode (c : Cond) : condOf ((BitVec.ofNat 4 (condCode c)).setWidth 6) = some c := by cases c <;> rfl

theorem decBranch_codes {mk : Cond → Bool → Reg → Reg → BitVec 20 → Instr} {off : BitVec 20} {bi : Bool} {b a : Reg} {c : Cond} :
    decBranch mk ⟨0, off, 0, BitVec.ofNat 2 (if bi then 1 else 0), b, a, BitVec.ofNat 4 (condCode c)⟩ = .ok (mk c bi a b off) := by
  cases bi <;> simp [decBranch, condOf_branchCode, need]

theorem decVb_codes {jn : BitVec 12} {off : BitVec 20} {bi : Bool} {b a : Reg} {c : Cond} :
    decVb ⟨jn, off, 0, BitVec.ofNat 2 (if bi then 3 else 2), b, a, BitVec.ofNat 4 (condCode c)⟩ = .ok (.vb c bi a b off jn) := by
  cases bi <;> simp [decVb, condOf_branchCode, need]

/-! ### The conversion group: the member that the two types name (R292) -/

theorem tyIsInt_of_float {t : Ty} (h : tyIsFloat t = true) : tyIsInt t = false := by revert h; cases t <;> decide

theorem tyIsInt_of_packedFloat {t : Ty} (h : tyIsPackedFloat t = true) : tyIsInt t = false := by revert h; cases t <;> decide

/-- FCVT has no integer side. -/
theorem not_int_of_fcvtOk {dst src : Ty} {sh : ShW} {d a c : Reg} (h : fcvtOk dst src sh d a c = true) :
    tyIsInt dst = false ∧ tyIsInt src = false := by
  simp only [fcvtOk, Bool.and_eq_true, Bool.or_eq_true, beq_iff_eq] at h
  obtain ⟨⟨⟨⟨-, hsides⟩, -⟩, -⟩, -⟩ := h
  rcases hsides with ⟨⟨⟨hdst, hsrc⟩, -⟩, -⟩ | ⟨⟨hdst, rfl⟩ | ⟨rfl, hsrc⟩, -⟩
  · exact ⟨tyIsInt_of_float hdst, tyIsInt_of_float hsrc⟩
  · exact ⟨tyIsInt_of_packedFloat hdst, rfl⟩
  · exact ⟨rfl, tyIsInt_of_packedFloat hsrc⟩

theorem tyOf_convCode (t : Ty) : tyOf ((BitVec.ofNat 6 (tyCode t)).extractLsb' 0 5) = some t := by cases t <;> rfl

theorem bitAt_convCode (t : Ty) : bitAt (BitVec.ofNat 6 (tyCode t)) 5 = false := by cases t <;> rfl

theorem decConv_cvt {dst src : Ty} {k : Kind} {d a : Reg} (hdst : tyIsInt dst = true) (hsrc : tyIsInt src = true) :
    decConv ⟨0, BitVec.ofNat 6 (tyCode src), BitVec.ofNat 3 (kindWCode k), BitVec.ofNat 5 (tyCode dst), 0, 0, a, d⟩ = .ok (.cvt dst src k d a) := by
  cases k <;> simp [decConv, tyOf_convCode, bitAt_convCode, decW, hdst, hsrc, withKindW, need, kindWCode, shwOf]

theorem decConv_icvtf {dst src : Ty} {k : Kind} {d a : Reg} (hdst : tyIsFloat dst = true) (hsrc : tyIsInt src = true) :
    decConv ⟨0, BitVec.ofNat 6 (tyCode src), BitVec.ofNat 3 (kindWCode k), BitVec.ofNat 5 (tyCode dst), 0, 0, a, d⟩ = .ok (.icvtf dst src k d a) := by
  cases k <;>
    simp [decConv, tyOf_convCode, bitAt_convCode, decW, hdst, tyIsInt_of_float hdst, hsrc, withKindW, need, kindWCode, shwOf]

theorem decConv_fcvti {dst src : Ty} {k : Kind} {d a : Reg} (hdst : tyIsInt dst = true) (hsrc : tyIsFloat src = true) :
    decConv ⟨0, BitVec.ofNat 6 (tyCode src), BitVec.ofNat 3 (kindWCode k), BitVec.ofNat 5 (tyCode dst), 0, 0, a, d⟩ = .ok (.fcvti dst src k d a) := by
  cases k <;>
    simp [decConv, tyOf_convCode, bitAt_convCode, decW, hdst, hsrc, tyIsInt_of_float hsrc, withKindW, need, kindWCode, shwOf]

theorem decConv_fcvt {dst src : Ty} {sh : ShW} {d a c : Reg} (h : fcvtOk dst src sh d a c = true) :
    decConv ⟨0, BitVec.ofNat 6 (tyCode src), BitVec.ofNat 3 (shwCode sh), BitVec.ofNat 5 (tyCode dst), c, 0, a, d⟩ =
      .ok (.fcvt dst src sh d a c) := by
  obtain ⟨hdst, hsrc⟩ := not_int_of_fcvtOk h
  simp [decConv, tyOf_convCode, bitAt_convCode, decW, hdst, hsrc, need]

/-! ### PR, PN and pair words -/

theorem unpackCompact_of_fields {x : BitVec 31} {o : Compact} (hcop : x.extractLsb' 0 7 = BitVec.ofNat 7 (copCode o.cop))
    (hd : x.extractLsb' 7 7 = o.d) (ha : x.extractLsb' 14 7 = o.a) (hb : x.extractLsb' 21 7 = o.b) (hbs : bitAt x 28 = o.bs)
    (hrsv : x.extractLsb' 29 2 = 0) : unpackCompact x = .ok o := by
  simp only [unpackCompact, hcop, copOf_copCode, hd, ha, hb, hbs, hrsv]
  rfl

theorem unpackCompact_compactCode (o : Compact) : unpackCompact (BitVec.ofNat 31 (compactCode o)) = .ok o := by
  have hc := copCode_lt o.cop
  have hbs := o.bs.toNat_lt
  refine unpackCompact_of_fields (field_eq rfl ?_) (field_eq rfl ?_) (field_eq rfl ?_) (field_eq rfl ?_) (bit_eq rfl (by decide) ?_)
    (field_zero rfl ?_) <;>
    simp only [compactCode, BitVec.toNat_ofNat] <;> omega

theorem compactCode_lt (o : Compact) : compactCode o < 2 ^ 29 := by
  have hc := copCode_lt o.cop
  have hbs := o.bs.toNat_lt
  simp only [compactCode]; omega

/-- Two words of kind 0b11. -/
theorem holdsFields_pairKind {n : Nat} {i : Instr} (hk : n % 4 = 3) (h : ∀ x, x = BitVec.ofNat 64 n → decodePair x = .ok i) :
    HoldsFields (twoWords n) i := by
  simp only [HoldsFields, twoWords, List.getD_cons_zero, List.getD_cons_succ, decodeFields, wordKind_ofNat, hk, twoWords_append_mod, h _ rfl]

theorem holdsFields_pairWord (x y : Compact) : HoldsFields (encode (.pairWord x y)) (.pairWord x y) := by
  have hx := compactCode_lt x
  have hy := compactCode_lt y
  refine holdsFields_pairKind (by omega) fun w hw => ?_
  have hlo : w.extractLsb' 2 31 = BitVec.ofNat 31 (compactCode x) := field_eq hw (by rw [BitVec.toNat_ofNat]; omega)
  have hhi : w.extractLsb' 33 31 = BitVec.ofNat 31 (compactCode y) := field_eq hw (by rw [BitVec.toNat_ofNat]; omega)
  simp only [decodePair, hlo, hhi, unpackCompact_compactCode]

/-- A word of kind 0b10. -/
theorem holdsFields_preWord {n m : Nat} {i : Instr} (hn : n % 512 = 2 + 4 * m)
    (h : ∀ w, w = BitVec.ofNat 32 n → (majorOf w).toNat = m → decodePre w = .ok i) : HoldsFields [BitVec.ofNat 32 n] i := by
  have hk : n % 4 = 2 := by omega
  have hmaj : (majorOf (BitVec.ofNat 32 n)).toNat = m := by rw [majorOf_ofNat, BitVec.toNat_ofNat]; omega
  simp only [HoldsFields, List.getD_cons_zero, decodeFields, wordKind_ofNat, hk, h _ rfl hmaj]

theorem holdsFields_pr (xe : BitVec 5) (xo : Bool) (fzr fzo : Flush) (sat : Bool) (rm : PrRound) :
    HoldsFields (encode (.pr xe xo fzr fzo sat rm)) (.pr xe xo fzr fzo sat rm) := by
  have hrm := prRoundCode_lt rm
  have hsat := sat.toNat_lt
  have hxo := xo.toNat_lt
  have hfzo := flushCode_lt fzo
  have hfzr := flushCode_lt fzr
  refine holdsFields_preWord (m := 1) (by omega) fun w hw hmaj => ?_
  have hr : w.extractLsb' 15 2 = BitVec.ofNat 2 (flushCode fzr) := field_eq hw (by rw [BitVec.toNat_ofNat]; omega)
  have ho : w.extractLsb' 13 2 = BitVec.ofNat 2 (flushCode fzo) := field_eq hw (by rw [BitVec.toNat_ofNat]; omega)
  have hm : w.extractLsb' 9 3 = BitVec.ofNat 3 (prRoundCode rm) := field_eq hw (by rw [BitVec.toNat_ofNat]; omega)
  have hzero : w.extractLsb' 23 9 = 0 := field_zero hw
  have he : w.extractLsb' 18 5 = xe := field_eq hw
  have hb : bitAt w 17 = xo := bit_eq hw
  have hs : bitAt w 12 = sat := bit_eq hw
  simp only [decodePre, hmaj, hr, ho, hm, flushOf_flushCode, prRoundOf_prRoundCode, hzero, he, hb, hs]
  rfl

theorem holdsFields_pn (sc sb sa sd : BitVec 3) (cnt : BitVec 6) : HoldsFields (encode (.pn sc sb sa sd cnt)) (.pn sc sb sa sd cnt) := by
  refine holdsFields_preWord (m := 2) (by omega) fun w hw hmaj => ?_
  have hzero : w.extractLsb' 27 5 = 0 := field_zero hw
  have hc : w.extractLsb' 24 3 = sc := field_eq hw
  have hb : w.extractLsb' 21 3 = sb := field_eq hw
  have ha : w.extractLsb' 18 3 = sa := field_eq hw
  have hd : w.extractLsb' 15 3 = sd := field_eq hw
  have hcnt : w.extractLsb' 9 6 = cnt := field_eq hw
  simp only [decodePre, hmaj, hzero, hc, hb, ha, hd, hcnt]
  rfl

/-! ### Every instruction -/

/-- The words of an instruction hold its fields. An event has no words (R16), so that a case is an instruction of one format. -/
theorem holdsFields_encode (i : Instr) (hwf : instrWf i = true) (h : encode i ≠ []) : HoldsFields (encode i) i := by
  cases i with
  | pr => exact holdsFields_pr ..
  | pn => exact holdsFields_pn ..
  | pairWord x y => exact holdsFields_pairWord x y
  | nop | exit | yield | halt | rfe | ret | join => exact holdsFields_encF (s := 0) (by decide) (by decide) fun v hv => by rw [hv]; rfl
  | brk n | trap n => exact holdsFields_encF (s := 0) (by decide) n.isLt fun v hv => by simp [hv, decodeF, needFn, need]
  | csrr d c | csrw c d | csrs c d | csrc c d =>
    exact holdsFields_encF (by decide) c.isLt fun v hv => by simp [hv, decodeF, needFn, need]
  | rdtime | gwidPack | gwidWidth | gwidLive | gwidSlices | gwidSlot | jr | jrL =>
    exact holdsFields_encF (by decide) (by decide) fun v hv => by rw [hv]; rfl
  | vgrow v s | vshrink v s =>
    refine holdsFields_encF (s := 0) (by decide) (by omega) fun v hv => ?_
    exact need_eq_ok (reserved_clear hv [(0, 3)]) (by congr 1 <;> exact field_eq hv)
  | b off | call off => exact holdsFields_encC (fun w hmaj => by simp only [decode32, hmaj]; rfl) (by decide)
  | wait c k | cset c k | barTx c k => exact holdsFields_encE (by decide) k.isLt (by decide) fun v hv => by simp [hv, decodeE]
  | waitReg c s | csetReg c s | cget s c | barTxReg c s =>
    refine holdsFields_encE (by decide) (by omega) (by decide) fun v hv => ?_
    exact need_eq_ok (beq_iff_eq.2 (field_zero hv)) (by congr 1; exact field_eq hv)
  | bar => exact holdsFields_encE (by decide) (by decide) (by decide) fun v hv => by rw [hv]; rfl
  | add | sub | mul | mulh | div | rem | min | max | and | or | xor | andn | shl | shr | sra | rot | fadd | fsub | fmul | fmin | fmax
    | fdiv => exact holdsFields_encA (by decide) (shaCode_lt _) decA3_shaCode
  | abs | neg | clz | ctz | popc | brev | mov | iget =>
    exact holdsFields_encA (b := 0) (by decide) (kindShCode_lt _) decA2_kindShCode
  | fsqrt | frcp | frsq | fexp2 | flog2 | fsin | fcos | ftanh | frnd | fclass =>
    exact holdsFields_encA (b := 0) (by decide) (kindShCode_lt _) decA2F_kindShCode
  | itop k => exact holdsFields_encA (a := 0) (b := 0) (by decide) (kindShCode_lt k) (decA2_kindShCode (mk := fun k d _ => .itop k d))
  | movs => exact holdsFields_encA (a := 0) (by decide) (by decide) rfl
  | extGet | extPut => exact holdsFields_encA (by decide) (by decide) rfl
  | vote f | red f | scan f => cases f <;> exact holdsFields_encA (b := 0) (by decide) (by decide) rfl
  | shfl f => cases f <;> exact holdsFields_encA (by decide) (by decide) rfl
  | addImm8 k d a imm | andImm8 k d a imm | orImm8 k d a imm | xorImm8 k d a imm | minImm k d a imm | maxImm k d a imm =>
    exact holdsFields_encB (by decide) imm.isLt fun v hv => by simp [hv, decodeB]
  | li k d imm | widr k d imm => exact holdsFields_encB (a := 0) (by decide) imm.isLt fun v hv => by simp [hv, decodeB, need]
  | shflImm d a imm => exact holdsFields_encB (k := .vec) (by decide) imm.isLt fun v hv => by simp [hv, decodeB, kindBit]
  | shflXorImm d a imm =>
    refine holdsFields_encB (k := .scal) (by decide) (by omega) fun v hv => ?_
    exact need_eq_ok (reserved_clear hv [(7, 1)]) (by congr 1; exact field_eq hv)
  | shlImm k d a imm | shrImm k d a imm | sraImm k d a imm | rotImm k d a imm =>
    refine holdsFields_encB (by decide) (by omega) fun v hv => ?_
    exact need_eq_ok (reserved_clear hv [(5, 3)])
      (by rw [kindOf_kindBit, field_eq hv (x := imm)])
  | rdflg k d imm =>
    refine holdsFields_encB (a := 0) (by decide) (by omega) fun v hv => ?_
    exact need_eq_ok (reserved_clear hv [(5, 3)])
      (by rw [kindOf_kindBit, field_eq hv (x := imm)])
  | clflg k imm =>
    refine holdsFields_encB (d := 0) (a := 0) (by decide) (by omega) fun v hv => ?_
    exact need_eq_ok (reserved_clear hv [(5, 3)])
      (by rw [kindOf_kindBit, field_eq hv (x := imm)])
  | ld | st | ldg | stg => exact holdsFields_encD (by decide) withMd_mdCode
  | pf => exact holdsFields_encD (d := 0) (by decide) withMd_mdCode
  | liImm32 => exact holdsFields_encL (a := 0) (by decide) fun x hm hf => by rw [decode64, hm, hf]; exact decL_codes
  | addImm32 | andImm32 | orImm32 | xorImm32 =>
    exact holdsFields_encL (by decide) fun x hm hf => by rw [decode64, hm, hf]; exact decL_codes
  | cmp c =>
    refine holdsFields_encW (c := 0) decCmp (by cases c <;> decide) (shwCode_lt _) ?_
    simp only [decCmp, condOf_condCode, decW_codes]
    rfl
  | fcmp c =>
    refine holdsFields_encW (c := 0) decFcmp (fcondCode_lt c) (shwCode_lt _) ?_
    simp only [decFcmp, fcondOf_fcondCode, decW_codes]
    rfl
  | integerGroup f =>
    have hbfx : (BitVec.ofNat 6 (intFnCode f)).toNat ≠ 22 := by cases f <;> decide
    refine holdsFields_encW (c := 0) decIntGroup (intFnCode_lt f) (shwCode_lt _) ?_
    simp only [decIntGroup, if_neg hbfx, intFnOf_intFnCode, decW_codes]
    rfl
  | bfx => exact holdsFields_encW (c := 0) decIntGroup (by decide) (shwCode_lt _) decW_codes
  | floatingGroup f =>
    refine holdsFields_encW (c := 0) decFloatGroup (floatFnCode_lt f) (shwCode_lt _) ?_
    simp only [decFloatGroup, floatFnOf_floatFnCode, decW_codes]
    rfl
  | specialFunctionGroup f =>
    refine holdsFields_encW (c := 0) (b := 0) decSpecGroup (specFnCode_lt f) (kindWCode_lt _) ?_
    simp only [decSpecGroup, specFnOf_specFnCode]
    exact decW_kind
  | padd | pmul => exact holdsFields_encW (c := 0) decPacked (by decide) (shwCode_lt _) decW_codes
  | pfma | pdot | qcvt | dqcvt => exact holdsFields_encW decPacked (by decide) (shwCode_lt _) decW_codes
  | ffma | mad | clamp | sel | bfi => exact holdsFields_encW decThree (by decide) (shwCode_lt _) decW_codes
  | fcvt dst src => exact holdsFields_encW (b := 0) decConv ((tyCode_lt src).trans (by decide)) (shwCode_lt _) (decConv_fcvt hwf)
  | fcvti dst src =>
    simp only [instrWf, Bool.and_eq_true] at hwf
    obtain ⟨⟨⟨hdst, hsrc⟩, -⟩, -⟩ := hwf
    exact holdsFields_encW (c := 0) (b := 0) decConv ((tyCode_lt src).trans (by decide)) (kindWCode_lt _) (decConv_fcvti hdst hsrc)
  | icvtf dst src =>
    simp only [instrWf, Bool.and_eq_true] at hwf
    obtain ⟨⟨⟨hdst, hsrc⟩, -⟩, -⟩ := hwf
    exact holdsFields_encW (c := 0) (b := 0) decConv ((tyCode_lt src).trans (by decide)) (kindWCode_lt _) (decConv_icvtf hdst hsrc)
  | cvt dst src =>
    simp only [instrWf, Bool.and_eq_true] at hwf
    obtain ⟨⟨⟨⟨hdst, hsrc⟩, -⟩, -⟩, -⟩ := hwf
    exact holdsFields_encW (c := 0) (b := 0) decConv ((tyCode_lt src).trans (by decide)) (kindWCode_lt _) (decConv_cvt hdst hsrc)
  | iwdn k => exact holdsFields_encW (t := .i32) (a := 0) (decInterval .iwdn) (by decide) (by cases k <;> decide) (decInterval_codes rfl)
  | iset k => exact holdsFields_encW (t := .i32) (a := 0) (decInterval .iset) (by decide) (by cases k <;> decide) (decInterval_codes rfl)
  | bc c bi => exact holdsFields_encJ (jn := 0) (decBranch .bc) (by cases bi <;> decide) decBranch_codes
  | loop c bi => exact holdsFields_encJ (jn := 0) (decBranch .loop) (by cases bi <;> decide) decBranch_codes
  | vb c bi => exact holdsFields_encJ decVb (by cases bi <;> decide) decVb_codes
  | ldLong sx => exact holdsFields_encM (decLoad .ldLong) (by cases sx <;> decide) decLoad_codes
  | ldgLong sx => exact holdsFields_encM (decLoad .ldgLong) (by cases sx <;> decide) decLoad_codes
  | stLong => exact holdsFields_encM (decStore .stLong) (by decide) decStore_codes
  | stgLong => exact holdsFields_encM (decStore .stgLong) (by decide) decStore_codes
  | ldSh => exact holdsFields_encM (decStore .ldSh) (by decide) decStore_codes
  | stSh => exact holdsFields_encM (decStore .stSh) (by decide) decStore_codes
  | pfLong => exact holdsFields_encM (d := 0) decPrefetch (by decide) decPrefetch_codes fun x hm => by rw [decode64, hm]; rfl
  | atom f =>
    simp only [instrWf, Bool.and_eq_true] at hwf
    obtain ⟨hf, -⟩ := hwf
    have hhas : atomHas f = true := by revert hf; cases f <;> decide
    exact holdsFields_encM (decAtom .atom atomHas) (atomFnCode_lt f) (decAtom_codes hhas)
  | batom f =>
    simp only [instrWf, Bool.and_eq_true] at hwf
    obtain ⟨hf, -⟩ := hwf
    have hhas : batomHas f = true := by revert hf; cases f <;> decide
    exact holdsFields_encM (decAtom .batom batomHas) (atomFnCode_lt f) (decAtom_codes hhas)
  | adld hn d ad =>
    show HoldsFields (encM _ 0 _ _ _ _ _ ad.toNat d.toNat) _
    rw [← toNat_ofNat_desc d]
    exact holdsFields_encM (md := .ss) (decDesc .adld) (by decide) decDesc_codes
  | adst hn d ad =>
    show HoldsFields (encM _ 0 _ _ _ _ _ ad.toNat d.toNat) _
    rw [← toNat_ofNat_desc d]
    exact holdsFields_encM (md := .ss) (decDesc .adst) (by decide) decDesc_codes
  | brdoInit =>
    exact holdsFields_encX (ab := 0) (aa := 0) decodeX23
      fun v hv => need_eq_ok (reserved_clear hv [(12, 14), (28, 4)]) (by congr 1 <;> exact field_eq hv)
  | brdoAdd | brdoAddv | brdoRd =>
    exact holdsFields_encX (ab := 0) (aa := 0) decodeX23
      fun v hv => need_eq_ok (reserved_clear hv [(0, 8), (15, 1), (23, 9)]) (by congr 1 <;> exact field_eq hv)
  | barxInit =>
    exact holdsFields_encX (ab := 0) (aa := 0) decodeX24 fun v hv => need_eq_ok (reserved_clear hv [(16, 16)]) (by congr 1; exact field_eq hv)
  | barxArr | barxRd =>
    exact holdsFields_encX (ab := 0) (aa := 0) decodeX24 fun v hv => need_eq_ok (reserved_clear hv [(0, 16), (23, 9)]) (by congr 1; exact field_eq hv)
  | barxTx | barxDone =>
    exact holdsFields_encX (ab := 0) (aa := 0) decodeX24 fun v hv => need_eq_ok (reserved_clear hv [(0, 8), (15, 17)]) (by congr 1; exact field_eq hv)
  | barxArrtx =>
    exact holdsFields_encX (ab := 0) (aa := 0) decodeX24
      fun v hv => need_eq_ok (reserved_clear hv [(0, 8), (15, 1), (23, 9)]) (by congr 1 <;> exact field_eq hv)
  | adset => exact holdsFields_encX (ab := 0) (cn := 0) decodeX25 fun v hv => need_eq_ok rfl (by congr 1; exact field_eq hv)
  | adsetR => exact holdsFields_encX (ab := 0) (cn := 0) decodeX25 fun v hv => need_eq_ok (reserved_clear hv [(0, 32)]) rfl
  | adget f =>
    refine holdsFields_encX (e := 0) (ab := 0) (cn := 0) decodeX26 (fun v hv => ?_) (by cases f <;> decide)
    cases f <;> exact need_eq_ok (reserved_clear hv [(7, 25)]) (by congr 1; exact field_eq hv)
  | tlbinvPage =>
    exact holdsFields_encX (ab := 0) (aa := 0) decodeX30 fun v hv => need_eq_ok (reserved_clear hv [(20, 12)]) (by congr 1; exact field_eq hv)
  | tlbinvCtx | tlbinvAll => exact holdsFields_encX (e := 0) (ab := 0) (aa := 0) decodeX30 fun v hv => need_eq_ok (reserved_clear hv [(0, 32)]) rfl
  | tlbinvAsid => exact holdsFields_encX (ab := 0) (aa := 0) decodeX30 fun v hv => need_eq_ok (reserved_clear hv [(0, 32)]) rfl
  | pgmapFt => exact holdsFields_encX (ab := 0) (aa := 0) decodeX31 fun v hv => need_eq_ok (reserved_clear hv [(0, 32)]) rfl
  | pgmapVa =>
    exact holdsFields_encX (ab := 0) (aa := 0) decodeX31 fun v hv => need_eq_ok (reserved_clear hv [(7, 25)]) (by congr 1; exact field_eq hv)
  | pgmapPost => exact holdsFields_encX (e := 0) (ab := 0) (aa := 0) (cn := 0) decodeX31 fun v hv => need_eq_ok (reserved_clear hv [(0, 32)]) rfl
  | pgqry k =>
    refine holdsFields_encX (ab := 0) (aa := 0) decodeX32 (fun v hv => ?_) (by cases k <;> decide)
    cases k <;> exact need_eq_ok (reserved_clear hv [(7, 25)]) (by congr 1; exact field_eq hv)
  | migTo t tier =>
    have ht := t.toNat_lt
    have htier := tierCode_lt tier
    refine holdsFields_encX (ab := 0) (aa := 0) decodeX33 fun v hv => need_eq_ok (reserved_clear hv [(7, 1), (14, 18)]) ?_
    rw [bit_eq hv (b := t), tier_eq hv (t := tier)]
    congr 1 <;> exact field_eq hv
  | migFrame t =>
    have ht := t.toNat_lt
    refine holdsFields_encX (ab := 0) (aa := 0) decodeX33 fun v hv => need_eq_ok (reserved_clear hv [(7, 1), (16, 16)]) ?_
    rw [bit_eq hv (b := t)]
    congr 1 <;> exact field_eq hv
  | migCancel =>
    exact holdsFields_encX (ab := 0) (aa := 0) decodeX33 fun v hv => need_eq_ok (reserved_clear hv [(7, 25)]) (by congr 1; exact field_eq hv)
  | pin =>
    exact holdsFields_encX (ab := 0) (aa := 0) decodeX34 fun v hv => need_eq_ok (reserved_clear hv [(27, 5)]) (by congr 1 <;> exact field_eq hv)
  | unpin =>
    exact holdsFields_encX (ab := 0) (aa := 0) decodeX35 fun v hv => need_eq_ok (reserved_clear hv [(27, 5)]) (by congr 1 <;> exact field_eq hv)
  | hotRd =>
    exact holdsFields_encX (ab := 0) (aa := 0) decodeX36 fun v hv => need_eq_ok (reserved_clear hv [(7, 25)]) (by congr 1; exact field_eq hv)
  | hotClr => exact holdsFields_encX (ab := 0) (aa := 0) decodeX36 fun v hv => need_eq_ok (reserved_clear hv [(0, 32)]) rfl
  | plc tier | plcMove tier =>
    have htier := tierCode_lt tier
    refine holdsFields_encX (ab := 0) (aa := 0) decodeX37 fun v hv => need_eq_ok (reserved_clear hv [(25, 7)]) ?_
    rw [tier_eq hv (t := tier)]
    congr 1 <;> exact field_eq hv
  | treg =>
    exact holdsFields_encX (ab := 0) (aa := 0) decodeX38
      fun v hv => need_eq_ok (reserved_clear hv [(12, 4), (23, 9)]) (by congr 1 <;> exact field_eq hv)
  | tunreg => exact holdsFields_encX (ab := 0) decodeX39 fun v hv => need_eq_ok (reserved_clear hv [(0, 32)]) rfl
  | tld na =>
    refine holdsFields_encX (ab := 0) decodeX3a (fun v hv => ?_) (by cases na <;> decide)
    cases na <;> exact need_eq_ok (reserved_clear hv [(7, 9)]) (by congr 1 <;> exact field_eq hv)
  | tst wt =>
    refine holdsFields_encX (ab := 0) decodeX3b (fun v hv => ?_) (by cases wt <;> decide)
    cases wt <;> exact need_eq_ok (reserved_clear hv [(7, 9)]) (by congr 1 <;> exact field_eq hv)
  | tpf c =>
    have hc := c.toNat_lt
    refine holdsFields_encX (ab := 0) decodeX3c fun v hv => need_eq_ok (reserved_clear hv [(13, 19)]) ?_
    rw [bit_eq hv (b := c)]
    congr 1 <;> exact field_eq hv
  | thalo clamp pf =>
    have hpf := pf.toNat_lt
    refine holdsFields_encX (ab := 0) decodeX3d (fun v hv => ?_) (by cases clamp <;> decide)
    have hbit : bitAt v 7 = pf := bit_eq hv
    cases clamp <;> exact need_eq_ok rfl (by rw [hbit]; congr 1 <;> exact field_eq hv)
  | tinv discard =>
    refine holdsFields_encX (ab := 0) decodeX3e (fun v hv => ?_) (by cases discard <;> decide)
    cases discard <;> exact need_eq_ok (reserved_clear hv [(0, 32)]) rfl
  | tqry => exact holdsFields_encX (ab := 0) decodeX3f fun v hv => need_eq_ok (reserved_clear hv [(7, 25)]) (by congr 1; exact field_eq hv)
  | cpy bt handle =>
    have hh := handle.toNat_lt
    refine holdsFields_encX decodeX40 fun v hv => need_eq_ok (reserved_clear hv [(13, 19)]) ?_
    rw [bit_eq hv (b := handle)]
    congr 1 <;> exact field_eq hv
  | cpyb bt handle =>
    have hh := handle.toNat_lt
    refine holdsFields_encX decodeX41 fun v hv => need_eq_ok (reserved_clear hv [(13, 19)]) ?_
    rw [bit_eq hv (b := handle)]
    congr 1 <;> exact field_eq hv
  | close => exact holdsFields_encX (ab := 0) (aa := 0) decodeX42 fun v hv => need_eq_ok (reserved_clear hv [(0, 32)]) rfl
  | job handle =>
    have hh := handle.toNat_lt
    refine holdsFields_encX (ab := 0) (aa := 0) decodeX43 fun v hv => need_eq_ok (reserved_clear hv [(8, 24)]) ?_
    rw [bit_eq hv (b := handle)]
    congr 1
    exact field_eq hv
  | jst =>
    exact holdsFields_encX (ab := 0) (aa := 0) decodeX44 fun v hv => need_eq_ok (reserved_clear hv [(7, 25)]) (by congr 1; exact field_eq hv)
  | strm q aa e sx hn =>
    have hsx := sx.toNat_lt
    have hhn := hintCode_lt hn
    refine holdsFields_encX (ab := 0) decodeX45 (fun v hv => ?_) (by omega)
    have hbit : bitAt v 4 = sx := bit_eq hv
    have hhint : hintOf (v.extractLsb' 2 2) = hn := hint_eq hv
    rcases twoBits_cases q with rfl | rfl | rfl | rfl <;>
      exact need_eq_ok (reserved_clear hv [(5, 27)]) (by rw [hbit, hhint]; congr 1; exact field_eq hv)
  | sclose q =>
    cases q with
    | one q =>
      refine holdsFields_encX (fn := q.toNat) (e := 0) (ab := 0) (aa := 0) decodeX46 (fun v hv => ?_) (by omega)
      rcases twoBits_cases q with rfl | rfl | rfl | rfl <;> exact need_eq_ok (reserved_clear hv [(0, 32)]) rfl
    | all => exact holdsFields_encX (fn := 4) (e := 0) (ab := 0) (aa := 0) decodeX46 fun v hv => need_eq_ok (reserved_clear hv [(0, 32)]) rfl
  | mvn fmt fb bt handle =>
    have hfb := fb.toNat_lt
    have hh := handle.toNat_lt
    refine holdsFields_encX decodeX47 fun v hv => need_eq_ok (reserved_clear hv [(13, 1), (15, 1), (20, 12)]) ?_
    rw [bit_eq hv (b := fb), bit_eq hv (b := handle)]
    congr 1 <;> exact field_eq hv
  | obres =>
    exact holdsFields_encX (ab := 0) (aa := 0) (cn := 0) decodeX48
      fun v hv => need_eq_ok (reserved_clear hv [(7, 1), (12, 4), (22, 10)]) (by congr 1 <;> exact field_eq hv)
  | obrel =>
    exact holdsFields_encX (e := 0) (ab := 0) (aa := 0) decodeX49
      fun v hv => need_eq_ok (reserved_clear hv [(0, 8), (12, 20)]) (by congr 1; exact field_eq hv)
  | obld | obldRec =>
    exact holdsFields_encX (ab := 0) decodeX4a fun v hv => need_eq_ok (reserved_clear hv [(0, 8), (12, 4)]) (by congr 1 <;> exact field_eq hv)
  | mma ua ub =>
    have hua := ua.toNat_lt
    have hub := ub.toNat_lt
    refine holdsFields_encX (ab := 0) (aa := 0) decodeX4b fun v hv => need_eq_ok (reserved_clear hv [(0, 8), (12, 4), (20, 4)]) ?_
    rw [bit_eq hv (b := ua), bit_eq hv (b := ub)]
    congr 1 <;> exact field_eq hv
  | mloop ua ub =>
    have hua := ua.toNat_lt
    have hub := ub.toNat_lt
    refine holdsFields_encX (ab := 0) (aa := 0) decodeX4c fun v hv => need_eq_ok (reserved_clear hv [(0, 8), (12, 4), (20, 4)]) ?_
    rw [bit_eq hv (b := ua), bit_eq hv (b := ub)]
    congr 1 <;> exact field_eq hv
  | acz kind =>
    have hk : accKindCode kind < 3 := by cases kind <;> decide
    refine holdsFields_encX (e := 0) (ab := 0) (aa := 0) decodeX4d fun v hv => ?_
    have hkind : v.extractLsb' 0 2 = BitVec.ofNat 2 (accKindCode kind) := field_eq hv (by rw [BitVec.toNat_ofNat]; omega)
    show (match accKindOf (v.extractLsb' 0 2) with | some k => need _ _ | none => _) = _
    rw [hkind, accKindOf_accKindCode]
    exact need_eq_ok (reserved_clear hv [(2, 22), (30, 2)]) (by congr 1; exact field_eq hv)
  | aczRel =>
    exact holdsFields_encX (e := 0) (ab := 0) (aa := 0) decodeX4d
      fun v hv => need_eq_ok (reserved_clear hv [(0, 24), (30, 2)]) (by congr 1; exact field_eq hv)
  | acld form =>
    cases form with
    | mem =>
      exact holdsFields_encX (fn := 0) (ab := 0) decodeX4e fun v hv => need_eq_ok (reserved_clear hv [(0, 24), (30, 2)])
        (by congr 1; exact field_eq hv)
    | regs =>
      exact holdsFields_encX (fn := 1) (ab := 0) (aa := 0) decodeX4e fun v hv => need_eq_ok (reserved_clear hv [(0, 24), (30, 2)])
        (by congr 1; exact field_eq hv)
  | acst form =>
    cases form with
    | mem =>
      exact holdsFields_encX (fn := 0) (ab := 0) decodeX4f fun v hv => need_eq_ok (reserved_clear hv [(0, 24), (30, 2)])
        (by congr 1; exact field_eq hv)
    | regs =>
      exact holdsFields_encX (fn := 1) (ab := 0) (aa := 0) decodeX4f fun v hv => need_eq_ok (reserved_clear hv [(0, 24), (30, 2)])
        (by congr 1; exact field_eq hv)
  | mstat f d =>
    cases f with
    | acc tile =>
      exact holdsFields_encX (fn := 0) (e := 0) (ab := 0) (aa := 0) (imm := d.toNat + tile.toNat * 2 ^ 24) decodeX50
        fun v hv => need_eq_ok (reserved_clear hv [(7, 17), (30, 2)]) (by rw [field_eq hv (x := tile), field_eq hv (x := d)])
    | ob handle =>
      exact holdsFields_encX (fn := 1) (e := 0) (ab := 0) (aa := 0) (imm := d.toNat + handle.toNat * 2 ^ 8) decodeX50
        fun v hv => need_eq_ok (reserved_clear hv [(7, 1), (12, 20)]) (by rw [field_eq hv (x := handle), field_eq hv (x := d)])
    | eng =>
      exact holdsFields_encX (fn := 2) (e := 0) (ab := 0) (aa := 0) (imm := d.toNat) decodeX50
        fun v hv => need_eq_ok (reserved_clear hv [(7, 25)]) (by rw [field_eq hv (x := d)])
  | put =>
    exact holdsFields_encX (ab := 0) decodeX51 fun v hv => need_eq_ok (reserved_clear hv [(6, 2), (14, 18)]) (by congr 1 <;> exact field_eq hv)
  | wreg =>
    exact holdsFields_encX (ab := 0) (aa := 0) decodeX52
      fun v hv => need_eq_ok (reserved_clear hv [(6, 10), (23, 9)]) (by congr 1 <;> exact field_eq hv)
  | wregRel =>
    exact holdsFields_encX (e := 0) (ab := 0) (aa := 0) decodeX52
      fun v hv => need_eq_ok (reserved_clear hv [(6, 10), (23, 9)]) (by congr 1 <;> exact field_eq hv)
  | wctr land =>
    refine holdsFields_encX (e := 0) (ab := 0) (aa := 0) (cn := 0) decodeX53 (fun v hv => ?_) (by cases land <;> decide)
    cases land <;> exact need_eq_ok (reserved_clear hv [(6, 10), (23, 9)]) (by congr 1 <;> exact field_eq hv)
  | wwait land =>
    refine holdsFields_encX (ab := 0) (aa := 0) (cn := 0) decodeX54 (fun v hv => ?_) (by cases land <;> decide)
    cases land <;> exact need_eq_ok (reserved_clear hv [(6, 26)]) (by congr 1; exact field_eq hv)
  | fork => exact holdsFields_encX (ab := 0) (aa := 0) decodeX55 fun v hv => need_eq_ok (reserved_clear hv [(0, 32)]) rfl
  | _ => exact absurd rfl h

/-- Settles O58: a well-formed instruction's words hold its fields, which the rules of `instrWf` then accept. -/
theorem encodedInstructionsDecode : Obligations.EncodedInstructionsDecode := fun i hwf hwords =>
  decodeWords_of_holdsFields (holdsFields_encode i hwf hwords) hwf

end Sys2Proof

/-! SUPPORT. Words written out from the spec's encodings, through the encoder. -/

namespace Sys2Proof

/-- A word that the encoder gives for an instruction of one word. -/
theorem decodeWords_of_encode {i : Instr} {w : BitVec 32} (hw : encode i = [w]) (hwf : instrWf i = true) :
    decodeWords w 0 = .ok i := by
  have h := encodedInstructionsDecode i hwf (by rw [hw]; exact List.cons_ne_nil _ _)
  rwa [hw] at h

/-- Settles O56: each word is what the encoder writes for its instruction. -/
theorem decodedWords : Obligations.DecodedWords :=
  ⟨decodeWords_of_encode rfl rfl, decodeWords_of_encode rfl rfl, decodeWords_of_encode rfl rfl, decodeWords_of_encode rfl rfl,
    decodeWords_of_encode rfl rfl, decodeWords_of_encode rfl rfl, decodeWords_of_encode rfl rfl, decodeWords_of_encode rfl rfl,
    decodeWords_of_encode rfl rfl, decodeWords_of_encode rfl rfl⟩

end Sys2Proof

/-! SUPPORT. A pair word: what a compact operation computes, what its results leave in the registers, flags and shadows, and its FPTrap. -/

namespace Sys2Proof.Machine

/-! ### The integer members at 32 bits (R44, R279) -/

theorem intRead_i32 (x : Word) : intRead .i32 x.toNat = x.toInt := by
  have hx := x.isLt
  rw [BitVec.toInt_eq_toNat_cond]
  simp only [intRead, tyWidth, tyIsI, Nat.mod_eq_of_lt hx, Bool.true_and, decide_eq_true_eq]
  split <;> split <;> omega

theorem intRead_n32 (x : Word) : intRead .n32 x.toNat = x.toNat := by
  simp [intRead, tyWidth, tyIsI, Nat.mod_eq_of_lt x.isLt]

theorem intWrite_of_width32 {t : Ty} (ht : tyWidth t = 32) (r : Int) : intWrite t r = (BitVec.ofInt 32 r).toNat := by
  simp [intWrite, ht, BitVec.toNat_ofInt]

theorem ofInt_toInt_div (x : Word) (k : Nat) : BitVec.ofInt 32 (x.toInt / 2 ^ k) = x.sshiftRight k := by
  have h : (x.sshiftRight k).toInt = x.toInt / 2 ^ k := by rw [BitVec.toInt_sshiftRight, Int.shiftRight_eq_div_pow]; norm_cast
  rw [← h, BitVec.ofInt_toInt]

/-- A natural number as the result. -/
theorem intWrite_natCast {t : Ty} (ht : tyWidth t = 32) {n : Nat} {x : Word} (h : x.toNat = n % 2 ^ 32) : intWrite t (n : Int) = x.toNat := by
  rw [intWrite_of_width32 ht, BitVec.ofInt_natCast, BitVec.toNat_ofNat, h]

/-- A word's own number as the result. -/
theorem intWrite_toNat {t : Ty} (ht : tyWidth t = 32) {n : Nat} {x : Word} (h : n = x.toNat) : intWrite t (n : Int) = x.toNat :=
  intWrite_natCast ht (by rw [h, Nat.mod_eq_of_lt x.isLt])

theorem toNat_ite_word (c : Prop) [Decidable c] (x y : Word) : (if c then x else y).toNat = if c then x.toNat else y.toNat := apply_ite ..

/-- The integer members that a pair word may hold, with their types. -/
def compactInt : IntFn → Ty → Bool
  | .add, .i32 | .sub, .i32 | .mul, .i32 | .min, .i32 | .max, .i32 | .min, .n32 | .max, .n32 | .shl, .b32 | .shr, .b32 | .sra, .i32
  | .and, .b32 | .or, .b32 | .xor, .b32 | .andn, .b32 => true
  | _, _ => false

theorem intVal_compact {f : IntFn} {t : Ty} (h : compactInt f t = true) (x y : Word) :
    intVal f t false x.toNat y.toNat = (Claims.intOp 32 (tyIsI t) f false x y).toNat := by
  have hx := x.isLt
  have hy := y.isLt
  unfold compactInt at h
  split at h
  all_goals simp only [intVal, Claims.intOp, intFit, tyIsI, intRead_i32, intRead_n32, toNat_ite_word, Bool.false_eq_true, if_false, if_true]
  case h_1 => rw [intWrite_of_width32 rfl, BitVec.ofInt_add, BitVec.ofInt_toInt, BitVec.ofInt_toInt]
  case h_2 => rw [intWrite_of_width32 rfl, Int.sub_eq_add_neg, BitVec.ofInt_add, BitVec.ofInt_neg, BitVec.ofInt_toInt, BitVec.ofInt_toInt,
    BitVec.sub_eq_add_neg]
  case h_3 => rw [intWrite_of_width32 rfl, BitVec.ofInt_mul, BitVec.ofInt_toInt, BitVec.ofInt_toInt]
  case h_4 | h_5 => rw [intWrite_of_width32 rfl]; split <;> rw [BitVec.ofInt_toInt]
  case h_6 | h_7 => split <;> exact intWrite_toNat rfl rfl
  case h_8 => exact intWrite_natCast rfl (by simp [tyWidth, Nat.shiftLeft_eq])
  case h_9 => exact intWrite_toNat rfl (by simp [tyWidth, Nat.shiftRight_eq_div_pow, Nat.mod_eq_of_lt hx])
  case h_10 => rw [intWrite_of_width32 rfl]; exact congrArg BitVec.toNat (ofInt_toInt_div x _)
  case h_11 | h_12 | h_13 | h_14 => exact intWrite_toNat rfl (by simp [tyWidth, Nat.mod_eq_of_lt hx, Nat.mod_eq_of_lt hy])
  case h_15 => exact absurd h Bool.false_ne_true

/-- The members of the two tables agree. -/
theorem copVal_eq_compact (c : FCtl) (o : Cop) (x y : Word) : copVal c o x.toNat y.toNat = Claims.compact o c x.toNat y.toNat := by
  have hint : ∀ {f t}, compactInt f t = true → (intVal f t false x.toNat y.toNat, (0 : Flags)) =
      ((Claims.intOp 32 (tyIsI t) f false (BitVec.ofNat 32 x.toNat) (BitVec.ofNat 32 y.toNat)).toNat, 0) := by
    intro f t h
    rw [intVal_compact h, BitVec.ofNat_toNat, BitVec.ofNat_toNat, BitVec.setWidth_eq, BitVec.setWidth_eq]
  cases o
  case fadd | fsub | fmul | fmin | fmax | paddF16x2 | pmulF16x2 | paddBf16x2 | pmulBf16x2 | mov => rfl
  all_goals exact hint rfl

theorem copShadow_eq_compactRule (o : Cop) (a b : Shadow) : copShadow o a b = Claims.compactRule o a b := by cases o <;> rfl

/-- The results of a compact operation. -/
theorem copResults_eq (s : State) (o : Compact) : copResults s.gang o = laneResults s.gang .vec (Claims.compactAt s o) := by
  unfold copResults Claims.compactAt copKindB
  congr 1
  funext l
  cases o.bs <;> exact copVal_eq_compact ..

theorem copSh_eq (g : Gang) (o : Compact) : copSh g o = Claims.compactSh g o := copShadow_eq_compactRule ..

/-- R35, R39: without a PR the controls are FPC's. -/
theorem effCtl_of_no_pr {g : Gang} (h : g.arm.pr = none) :
    effCtl g = ⟨rmOfFpc g.fpc, false, g.fpc.extractLsb' 12 6, g.fpc.extractLsb' 18 6, g.fpc.extractLsb' 24 5⟩ := by
  simp [effCtl, effRound, effSat, effFlush, effTrapEn, h]

/-- R264: the rounding mode of the low bits of FPC. -/
theorem rmOfFpc_eq (w : Word) : rmOfFpc w = (if w.extractLsb' 0 2 = 0 then .rne else if w.extractLsb' 0 2 = 1 then .rtz
    else if w.extractLsb' 0 2 = 2 then .rdn else .rup) := by
  unfold rmOfFpc
  generalize w.extractLsb' 0 2 = x
  revert x
  decide

/-! ### Results written to the active lanes of a vector (R271, R275) -/

/-- `t` is `s` with the results `f` of its active lanes in vector `d`, their flags raised and `sh` the interval of `d`. -/
structure LanesWritten (s t : State) (d : Nat) (f : Nat → Nat × Flags) (sh : Shadow) : Prop where
  wrote : Wrote s t .vec d (fun l => BitVec.ofNat 32 (f l).1)
  raised : Raised s t .vec (fun l => (f l).2)
  rest : t.bareF = s.bareF
  shadows : ∀ r, shadowV t.gang r = if s.gang.arm.mask ≠ 0 ∧ r = d then sh else shadowV s.gang r
  shadowsS : ∀ r, shadowS t.gang r = shadowS s.gang r

/-- ORing flags in, lane by lane. -/
theorem smapGet_orFlags (f : Nat → Nat × Flags) (ls : List Nat) (hls : ls.Nodup) (m : List (Nat × Flags)) (l : Nat) :
    smapGet 0 ((ls.map (fun l => (⟨l, (f l).1, (f l).2⟩ : LaneRes))).foldl
      (fun m r => if r.fl = 0 then m else smapSet 0 m r.lane (smapGet 0 m r.lane ||| r.fl)) m) l =
      if l ∈ ls then smapGet 0 m l ||| (f l).2 else smapGet 0 m l := by
  induction ls generalizing m with
  | nil => rfl
  | cons a t ih =>
    obtain ⟨ha, ht⟩ := List.nodup_cons.1 hls
    have hstep : smapGet 0 (if (f a).2 = 0 then m else smapSet 0 m a (smapGet 0 m a ||| (f a).2)) l =
        if l = a then smapGet 0 m l ||| (f l).2 else smapGet 0 m l := by
      by_cases hz : (f a).2 = 0
      · by_cases hl : l = a <;> simp [hz, hl]
      · rw [if_neg hz, smapGet_set]
        by_cases hl : l = a <;> simp [hl]
    simp only [List.map_cons, List.foldl_cons]
    rw [ih ht, hstep]
    by_cases hl : l = a
    · simp [hl, ha]
    · simp [hl]

theorem nodup_laneList (m : LaneMask) : (laneList m).Nodup := List.nodup_range.filter _

/-- A vector write sets the interval of its register, where a lane is active, and no other. -/
theorem shadowV_writeV (g : Gang) (d r : Nat) (f : Nat → Word) (sh : Shadow) :
    shadowV (writeV g d f sh) r = if g.arm.mask ≠ 0 ∧ r = d then sh else shadowV g r := by
  unfold writeV
  by_cases hm : g.arm.mask = 0
  · simp [hm]
  · rw [if_neg hm, putLanes_v]
    simp only [shadowV, setShadowV, armTouched, smapGet_set, ne_eq, hm, not_false_eq_true, true_and]

theorem shadowS_writeV (g : Gang) (d r : Nat) (f : Nat → Word) (sh : Shadow) : shadowS (writeV g d f sh) r = shadowS g r := by
  unfold writeV
  split
  · rfl
  · simp only [shadowS, setShadowV, putLanes_v, armTouched]

theorem writeV_flags (g : Gang) (d : Nat) (f : Nat → Word) (sh : Shadow) :
    (writeV g d f sh).vflags = g.vflags ∧ (writeV g d f sh).sflags = g.sflags := by
  unfold writeV
  split
  · exact ⟨rfl, rfl⟩
  · rw [putLanes_v]; exact ⟨rfl, rfl⟩

theorem lanesWritten_putResults {s0 s : State} (hm : s.gang.arm.mask = s0.gang.arm.mask) (d : Nat) (f : Nat → Nat × Flags) (sh : Shadow) :
    LanesWritten s (s.onGang (putResults .vec false d (laneResults s0.gang .vec f) sh)) d f sh := by
  let v := fun l => BitVec.ofNat 32 (resAt (laneResults s0.gang .vec f) l)
  obtain ⟨hw, hb⟩ := wrote_writeReg s .vec d v sh
  obtain ⟨hfl, hsf⟩ := writeV_flags s.gang d v sh
  refine ⟨?_, ⟨fun l hl => ?_, hsf⟩, ?_, fun r => shadowV_writeV s.gang d r v sh,
    fun r => shadowS_writeV s.gang d r v sh⟩
  · refine wrote_congr (t := s.onGang (putResults .vec false d (laneResults s0.gang .vec f) sh)) (f := v) hw (fun l hl => ?_)
    rw [← resAt_laneResults s0.gang .vec f (by simpa [opLanes, ← hm] using hl)]
  · have := smapGet_orFlags f (laneList s0.gang.arm.mask) (nodup_laneList _) s.gang.vflags l
    simp only [mem_laneList, hl, true_and, ← hm] at this
    change smapGet 0 (List.foldl _ (writeV s.gang d v sh).vflags _) l = _
    rw [hfl]
    simp only [laneResults, opLanes, active, ← hm]
    exact this
  · exact congrArg (fun t : State => { t with gang := { t.gang with vflags := [], sflags := 0 } }) hb

/-! ### FPTrap (R272) -/

/-- The lanes whose result raises an enabled flag, ascending. -/
def badLanes (g : Gang) (te : Flags) (f : Nat → Nat × Flags) : List Nat := (laneList g.arm.mask).filter (fun l => (f l).2 &&& te != 0)

theorem mem_badLanes {g : Gang} {te : Flags} {f : Nat → Nat × Flags} {l : Nat} :
    l ∈ badLanes g te f ↔ l < 96 ∧ g.arm.mask.getLsbD l = true ∧ (f l).2 &&& te ≠ 0 := by
  simp [badLanes, mem_laneList, and_assoc]

theorem faulting_laneResults (g : Gang) (te : Flags) (f : Nat → Nat × Flags) :
    faulting te (laneResults g .vec f) = (badLanes g te f).map (fun l => ⟨l, (f l).1, (f l).2⟩) := by
  simp only [faulting, laneResults, opLanes, badLanes, List.filter_map]
  rfl

theorem pairwise_badLanes (g : Gang) (te : Flags) (f : Nat → Nat × Flags) : (badLanes g te f).Pairwise (· < ·) :=
  (List.pairwise_lt_range.filter _).filter _

theorem getLsbD_laneBit {a l : Nat} (hl : l < 96) : (laneBit a).getLsbD l = decide (a = l) := by
  rw [laneBit, BitVec.getLsbD_ofNat, Nat.testBit_two_pow]
  simp [hl]

/-- The mask of a list's lanes. -/
theorem getLsbD_lanesMask (ls : List Nat) {l : Nat} (hl : l < 96) : (lanesMask ls).getLsbD l = true ↔ l ∈ ls := by
  have h : ∀ m : LaneMask, (ls.foldl (fun m l => m ||| laneBit l) m).getLsbD l = true ↔ m.getLsbD l = true ∨ l ∈ ls := by
    induction ls with
    | nil => simp
    | cons a t ih =>
      intro m
      rw [List.foldl_cons, ih, BitVec.getLsbD_or, getLsbD_laneBit hl, Bool.or_eq_true, decide_eq_true_eq, List.mem_cons, or_assoc, @eq_comm _ a]
  rw [lanesMask, h]
  simp

/-- The union of the enabled flags. -/
theorem getLsbD_flagUnion (te : Flags) (rs : List LaneRes) (b : Nat) (m : Flags) :
    (rs.foldl (fun m r => m ||| (r.fl &&& te)) m).getLsbD b = true ↔
      m.getLsbD b = true ∨ ∃ r ∈ rs, (r.fl &&& te).getLsbD b = true := by
  induction rs generalizing m with
  | nil => simp
  | cons r t ih => rw [List.foldl_cons, ih]; simp [or_assoc]

/-- What FPTrap of the results `f` reports. -/
theorem fpTrapOf_badLanes {g : Gang} {te : Flags} {f : Nat → Nat × Flags} (hbad : badLanes g te f ≠ []) :
    let z := fpTrapOf g .vec te (faulting te (laneResults g .vec f))
    z.cause = 13 ∧
      (∀ b, z.reason.testBit b = true ↔ ∃ l, l < 96 ∧ g.arm.mask.getLsbD l = true ∧ ((f l).2 &&& te).getLsbD b = true) ∧
      z.lanes.getLsbD z.faddr = true ∧ (∀ l, l < z.faddr → z.lanes.getLsbD l = false) ∧
      ∀ l, l < 96 → (z.lanes.getLsbD l = true ↔ g.arm.mask.getLsbD l = true ∧ (f l).2 &&& te ≠ 0) := by
  rw [faulting_laneResults]
  have hlanes : (fpTrapOf g .vec te ((badLanes g te f).map (fun l => ⟨l, (f l).1, (f l).2⟩))).lanes = lanesMask (badLanes g te f) := by
    simp only [fpTrapOf, List.map_map]
    exact congrArg lanesMask (List.map_id _)
  obtain ⟨a, t, hat⟩ := List.exists_cons_of_ne_nil hbad
  have hfaddr : (fpTrapOf g .vec te ((badLanes g te f).map (fun l => ⟨l, (f l).1, (f l).2⟩))).faddr = a := by simp [fpTrapOf, hat]
  have ha : a < 96 := (mem_badLanes.1 (hat ▸ List.mem_cons_self : a ∈ badLanes g te f)).1
  dsimp only
  rw [hlanes, hfaddr]
  refine ⟨rfl, fun b => ?_, (getLsbD_lanesMask _ ha).2 (hat ▸ List.mem_cons_self), fun l hl => ?_, fun l hl => ?_⟩
  · change BitVec.getLsbD _ b = true ↔ _
    rw [getLsbD_flagUnion]
    simp only [List.mem_map, exists_exists_and_eq_and, mem_badLanes]
    refine (or_iff_right (by simp)).trans (exists_congr fun l =>
      ⟨fun ⟨⟨h1, h2, _⟩, h3⟩ => ⟨h1, h2, h3⟩, fun ⟨h1, h2, h3⟩ => ⟨⟨h1, h2, fun h0 => ?_⟩, h3⟩⟩)
    simp [h0] at h3
  · rw [← Bool.not_eq_true, getLsbD_lanesMask _ (hl.trans ha), hat]
    have hsorted := pairwise_badLanes g te f
    rw [hat] at hsorted
    intro hmem
    rcases List.mem_cons.1 hmem with rfl | hmem
    · exact lt_irrefl _ hl
    · exact absurd (List.rel_of_pairwise_cons hsorted hmem) (by omega)
  · rw [getLsbD_lanesMask _ hl, mem_badLanes]
    simp [hl]

/-! ### The two operations together (R46) -/

theorem badLanes_eq_nil_iff (s : State) (o : Compact) :
    badLanes s.gang (effTrapEn s.gang) (Claims.compactAt s o) = [] ↔ ∀ l, l < 96 → ¬Claims.compactTraps s o l := by
  rw [List.eq_nil_iff_forall_not_mem]
  exact forall_congr' fun l => by rw [mem_badLanes]; exact ⟨fun h hl ht => h ⟨hl, ht⟩, fun h ⟨hl, ht⟩ => h hl ht⟩

/-- The body of a pair word, by its lanes that trap. -/
theorem pairBody_eq (x y : Compact) (s : State) :
    pairBody x y s =
      let bad := fun o => badLanes s.gang (effTrapEn s.gang) (Claims.compactAt s o)
      let put := fun (o : Compact) =>
        putResults .vec false o.d.toNat (laneResults s.gang .vec (Claims.compactAt s o)) (Claims.compactSh s.gang o)
      let trap := fun o => Exe.trap (fpTrapOf s.gang .vec (effTrapEn s.gang)
        (faulting (effTrapEn s.gang) (laneResults s.gang .vec (Claims.compactAt s o)))) s
      if bad x = [] then if bad y = [] then .ok ((s.onGang (put x)).onGang (put y)) else trap y else trap x := by
  have hcons : ∀ {o}, badLanes s.gang (effTrapEn s.gang) (Claims.compactAt s o) ≠ [] →
      ∃ r rs, faulting (effTrapEn s.gang) (laneResults s.gang .vec (Claims.compactAt s o)) = r :: rs := fun hne =>
    List.exists_cons_of_ne_nil (by rw [faulting_laneResults, ne_eq, List.map_eq_nil_iff]; exact hne)
  have hnil : ∀ {o}, badLanes s.gang (effTrapEn s.gang) (Claims.compactAt s o) = [] →
      faulting (effTrapEn s.gang) (laneResults s.gang .vec (Claims.compactAt s o)) = [] := fun h0 => by rw [faulting_laneResults, h0]; rfl
  simp only [pairBody, copResults_eq, copSh_eq]
  by_cases hx : badLanes s.gang (effTrapEn s.gang) (Claims.compactAt s x) = []
  · by_cases hy : badLanes s.gang (effTrapEn s.gang) (Claims.compactAt s y) = []
    · simp only [hx, hy, hnil, if_true]
      rfl
    · obtain ⟨r, rs, h⟩ := hcons hy
      simp only [hx, hy, hnil, h, if_true, if_false]
  · obtain ⟨r, rs, h⟩ := hcons hx
    simp only [hx, h, if_false]

/-- The operations of a pair word write different registers (R45). -/
theorem pairWord_d_ne {x y : Compact} (h : instrWf (.pairWord x y) = true) : x.d.toNat ≠ y.d.toNat := by
  simp only [instrWf, pairWordOk, Bool.and_eq_true, decide_eq_true_eq] at h
  obtain ⟨⟨⟨_, hd⟩, _⟩, _⟩ := h
  exact fun he => hd (by rw [he])

/-- Writes to different registers may be asked for in either order. -/
theorem ite_two_writes {α : Type} {p : Prop} [Decidable p] {d d' r : Nat} (hne : d ≠ d') (a b c : α) :
    (if p ∧ r = d' then b else if p ∧ r = d then a else c) = if p ∧ r = d then a else if p ∧ r = d' then b else c := by
  by_cases hr : r = d
  · have hd : r ≠ d' := fun h => hne (hr.symm.trans h)
    simp only [hd, and_false, if_false]
  · simp only [hr, and_false, if_false]

/-- Two results written one after the other, to different registers. -/
theorem LanesWritten.twice {s t u : State} {d d' : Nat} {f f' : Nat → Nat × Flags} {sh sh' : Shadow} (h : LanesWritten s t d f sh)
    (h' : LanesWritten t u d' f' sh') (hne : d ≠ d') :
    u.bareF = s.bareF ∧ u.gang.s = s.gang.s ∧ u.gang.arm.mask = s.gang.arm.mask ∧ Raised s u .vec (fun l => (f l).2 ||| (f' l).2) ∧
      (∀ r, shadowV u.gang r =
        if s.gang.arm.mask ≠ 0 ∧ r = d then sh else if s.gang.arm.mask ≠ 0 ∧ r = d' then sh' else shadowV s.gang r) ∧
      (∀ r, shadowS u.gang r = shadowS s.gang r) ∧
      ∀ r l, l < 96 → readV u.gang r l = if active s l = true ∧ r = d then BitVec.ofNat 32 (f l).1
        else if active s l = true ∧ r = d' then BitVec.ofNat 32 (f' l).1 else readV s.gang r l := by
  obtain ⟨hv, hs, hm⟩ := h.wrote
  obtain ⟨hv', hs', hm'⟩ := h'.wrote
  obtain ⟨hf, hsf⟩ := h.raised
  obtain ⟨hf', hsf'⟩ := h'.raised
  have hact : ∀ l, active t l = active s l := fun l => congrArg (BitVec.getLsbD · l) hm
  refine ⟨h'.rest.trans h.rest, hs'.trans hs, hm'.trans hm, ⟨fun l hl => ?_, hsf'.trans hsf⟩, fun r => ?_,
    fun r => (h'.shadowsS r).trans (h.shadowsS r), fun r l hl => ?_⟩
  · rw [hf' l hl, hf l hl, hact]
    split
    · exact BitVec.or_assoc ..
    · rfl
  · rw [h'.shadows, h.shadows, hm, ite_two_writes hne]
  · rw [hv' r l hl, hv r l hl, hact]
    simp only [and_comm (b := active s l = true)]
    exact ite_two_writes hne ..

/-- Settles O6: the results of both operations are computed before `pairBody` writes either, and op0's trap is asked for first. -/
theorem pairWords : Obligations.PairWords := by
  refine ⟨fun g hpr => ?_, fun x y s s1 hi => ⟨fun hquiet => ?_, fun o ho htraps => ?_⟩⟩
  · rw [effCtl_of_no_pr hpr]
    exact ⟨rfl, rfl, rfl, rfl, rmOfFpc_eq _⟩
  · have hbody := pairBody_eq x y s1
    simp only [(badLanes_eq_nil_iff s1 x).2 fun l hl => (hquiet l hl).1, (badLanes_eq_nil_iff s1 y).2 fun l hl => (hquiet l hl).2,
      if_true] at hbody
    have hx := lanesWritten_putResults (s0 := s1) rfl x.d.toNat (Claims.compactAt s1 x) (Claims.compactSh s1.gang x)
    have hy := lanesWritten_putResults (s0 := s1) hx.wrote.2.2 y.d.toNat (Claims.compactAt s1 y) (Claims.compactSh s1.gang y)
    exact ⟨_, issue_ok hi hbody, hx.twice hy (pairWord_d_ne hi.legal)⟩
  · have hbad : badLanes s1.gang (effTrapEn s1.gang) (Claims.compactAt s1 o) ≠ [] := fun h0 => by
      obtain ⟨l, hl, ht⟩ := htraps
      exact (badLanes_eq_nil_iff s1 o).1 h0 l hl ht
    have hbody := pairBody_eq x y s1
    refine ⟨_, issue_trap hi (body := pairBody x y) (u := s1) ?_, fpTrapOf_badLanes hbad⟩
    rcases ho with rfl | ⟨rfl, hx⟩
    · simp only [hbody, hbad, if_false]
      rfl
    · simp only [hbody, (badLanes_eq_nil_iff s1 x).2 hx, hbad, if_true, if_false]
      rfl

end Sys2Proof.Machine

/-! SUPPORT. What traffic beyond the cores leaves alone: the gang at hand, the scratchpads and the instruction caches. -/

namespace Sys2Proof.Machine

/-- `t` is `s` but for what lies beyond the cores: the gang at hand, the scratchpads and the instruction caches are as in `s`. -/
structure SameCore (s t : State) : Prop where
  gang : t.gang = s.gang
  scratch : t.mem.scratch = s.mem.scratch
  icache : t.caches.icache = s.caches.icache

namespace SameCore

theorem refl (s : State) : SameCore s s := ⟨rfl, rfl, rfl⟩

variable {s t : State}

/-- An update of other fields. -/
theorem upd {u : State} (h : SameCore s t) (hg : u.gang = t.gang) (hs : u.mem.scratch = t.mem.scratch)
    (hi : u.caches.icache = t.caches.icache) : SameCore s u :=
  ⟨hg.trans h.gang, hs.trans h.scratch, hi.trans h.icache⟩

theorem foldl {β : Type} {f : State → β → State} (hf : ∀ t x, SameCore s t → SameCore s (f t x)) (xs : List β) (h : SameCore s t) :
    SameCore s (xs.foldl f t) := by
  induction xs generalizing t with
  | nil => exact h
  | cons x xs ih => exact ih (hf t x h)

theorem ite {t u : State} {c : Prop} [Decidable c] (ht : SameCore s t) (hu : SameCore s u) : SameCore s (if c then t else u) := by
  split
  · exact ht
  · exact hu

variable (h : SameCore s t)
include h

/-! ### Registers, rings and errors (R135, R409 to R412) -/

theorem mmPut (off v : Nat) : SameCore s (mmPut t off v) := h.upd rfl rfl rfl

theorem mmPutField (off hi lo v : Nat) : SameCore s (mmPutField t off hi lo v) := h.upd rfl rfl rfl

theorem mmAdd (off hi lo n : Nat) : SameCore s (mmAdd t off hi lo n) := h.upd rfl rfl rfl

theorem mmAddSat (off hi lo : Nat) : SameCore s (mmAddSat t off hi lo) := ite (h.mmPutField ..) h

theorem mmCount (off n : Nat) : SameCore s (mmCount t off n) := h.mmAdd ..

theorem hostWrite (a : Nat) (bs : List Byte) : SameCore s (hostWrite t a bs) := ite h (h.upd rfl rfl rfl)

theorem msixSignal (n : Nat) : SameCore s (msixSignal t n) := ite h (ite (h.mmPutField ..) (h.upd rfl rfl rfl))

theorem ringPut (base src : Nat) (bs : List Byte) : SameCore s (ringPut t base src bs) := by
  have hput := (h.hostWrite (mmGet t base + mmField t (base + 16) 31 0 % 2 ^ (mmField t (base + 8) 5 2 + 6) * bs.length) bs).mmPut
    (base + 16) ((mmField t (base + 16) 31 0 + 1) % 2 ^ 32)
  exact ite (hput.msixSignal src) hput

theorem ringPost (base lost src : Nat) (bs : List Byte) : SameCore s (ringPost t base lost src bs) :=
  ite h (ite (h.mmCount ..) (h.ringPut ..))

theorem fatalError (e : ErrRec) : SameCore s (fatalError t e) := by
  have hring := h.ringPost errRing (errRing + 32) 2 (errBytes t.time e)
  unfold Machine.fatalError
  generalize errBytes t.time e = bs at hring
  exact (mmPutField (ite (foldl (fun _ _ h => h.mmPut ..) _ hring) hring) flCtl 0 0 0).upd rfl rfl rfl

theorem logError (e : ErrRec) : SameCore s (logError t e) := by
  have hmsg : ∀ n, SameCore s { t with errMsgs := t.errMsgs ++ [n] } := fun _ => h.upd rfl rfl rfl
  exact ite (h.fatalError e) (ite (ite ((hmsg 0).ringPost ..) (hmsg 0)) (ite (h.fatalError _) ((hmsg 1).ringPost ..)))

theorem decodeError (pa : Nat) : SameCore s (decodeError t pa) := ite (h.logError _) (h.logError _)

/-! ### Retained bank units (R409) -/

theorem poisonWord (b : Bool) (w : Nat) : SameCore s (poisonWord t b w) := ite (h.upd rfl rfl rfl) (h.upd rfl rfl rfl)

theorem wakeUnit (u : Nat) : SameCore s (wakeUnit t u) := by
  have herrs := foldl (s := s) (f := fun s (e : (Bool × Nat) × Nat) =>
      if e.2 ≤ 2 then Machine.logError (Machine.mmAdd s (bkBlock (unitDie u) + 0x18) 63 32 1) (wordError u e.1.1 e.1.2 0)
      else Machine.logError (Machine.mmAddSat (Machine.poisonWord s e.1.1 e.1.2) (bkBlock (unitDie u) + 0x20) 63 32)
        (wordError u e.1.1 e.1.2 1))
    (fun _ _ h => ite ((h.mmAdd ..).logError _) (((h.poisonWord ..).mmAddSat ..).logError _)) (unitErrors t u) h
  exact ite h (ite (herrs.upd rfl rfl rfl) (herrs.upd rfl rfl rfl))

theorem touchUnit (b : Bool) (off n : Nat) : SameCore s (touchUnit t b off n) := by
  unfold Machine.touchUnit
  refine upd (foldl ?_ _ (foldl ?_ _ h)) rfl rfl rfl
  · exact fun _ _ h => ite ((h.mmAdd ..).logError _) (((h.poisonWord ..).mmAddSat ..).logError _)
  · exact fun _ _ h => (h.wakeUnit _).upd rfl rfl rfl

/-! ### The memory controllers (R62 to R75) -/

theorem onDram (f : Dram → Dram) : SameCore s (onDram t f) := h.upd rfl rfl rfl

theorem noteWait (n fin : Nat) : SameCore s (noteWait t n fin) := ite h (h.onDram _)

theorem readArrives (pa : Nat) : SameCore s (readArrives t pa) := by
  unfold Machine.readArrives
  split
  · exact h
  · exact ite (((h.noteWait _ _).onDram _).onDram _) ((h.noteWait _ _).onDram _)

theorem makeRoom (n : Nat) : SameCore s (makeRoom t n) := by
  unfold Machine.makeRoom
  refine ite h ?_
  split
  · exact h.onDram _
  · exact h

theorem queueWrite (bank line : Nat) : SameCore s (queueWrite t bank line) := by
  unfold Machine.queueWrite
  exact ((h.noteWait _ _).makeRoom _).onDram _

theorem parityOut (e : Nat × Nat) : SameCore s (parityOut t e) := by
  unfold Machine.parityOut
  exact ite ((h.onDram _).queueWrite _ _) (((h.onDram _).queueWrite _ _).logError _)

theorem declareFailed (k ch : Nat) : SameCore s (declareFailed t k ch) := by
  have hcancel : SameCore s (cancelMoves t (channelMoves t k ch) 2) := h.upd rfl rfl rfl
  have hflush : SameCore s (flushParity (cancelMoves t (channelMoves t k ch) 2)) := foldl (fun _ _ h => h.parityOut _) _ hcancel
  unfold Machine.declareFailed
  exact ite h (logError (foldl (fun _ _ h => h.mmPutField ..) _ ((hflush.onDram _).mmPutField ..)) _)

theorem clearBad (sec : Nat) : SameCore s (clearBad t sec) := h.upd rfl rfl rfl

theorem poisonSector (sec : Nat) : SameCore s (poisonSector t sec) := h.upd rfl rfl rfl

theorem returnPoisoned (blk ch pa : Nat) : SameCore s (returnPoisoned t blk ch pa) :=
  (((h.clearBad _).poisonSector _).mmAddSat ..).logError _

theorem correctSector (blk ch pa : Nat) : SameCore s (correctSector t blk ch pa) := ((h.clearBad _).mmAdd ..).logError _

theorem correctParity (k stripe i : Nat) : SameCore s (correctParity t k stripe i) :=
  ite ((h.onDram _).logError _) (((h.onDram _).mmAdd ..).logError _)

theorem readStripe (k off : Nat) : SameCore s (readStripe t k off) := by
  have hread := foldl (f := fun s sec =>
      if sectorBad s sec = some false then Machine.correctSector s k (hbmDecode (sec * 64 - k * 2 ^ 36)).ch (sec * 64) else s)
    (fun _ _ h => ite (h.correctSector ..) h) (stripeSectors k off) h
  exact ite (hread.correctParity ..) hread

theorem countRebuild (k ch a : Nat) : SameCore s (countRebuild t k ch a) := by
  unfold Machine.countRebuild
  have hlog := fun f => ((h.mmAddSat (mcChStat k ch) 31 16).onDram f).logError ⟨a, noOwner, 0, k, 0, 2, 0⟩
  exact ite ((hlog _).declareFailed ..) (hlog _)

theorem readSector (pa : Nat) : SameCore s (readSector t pa) := by
  unfold Machine.readSector
  refine ite h ?_
  split
  · refine ite (ite (h.readStripe ..) (h.returnPoisoned ..)) ?_
    split
    · exact h
    · exact h.correctSector ..
    · exact ite (((h.readStripe ..).clearBad _).countRebuild ..) (h.returnPoisoned ..)
  · split
    · exact h
    · exact h.correctSector ..
    · exact h.returnPoisoned ..
  · exact h

theorem readParity (k stripe i : Nat) : SameCore s (readParity t k stripe i) := by
  unfold Machine.readParity
  refine ite h ?_
  split
  · exact h
  · exact h.correctParity ..
  · exact ite h (ite ((h.onDram _).countRebuild ..) (((h.onDram _).mmAddSat ..).logError _))
  · exact h

theorem parityUpdate (k stripe : Nat) : SameCore s (parityUpdate t k stripe) := by
  have hread : SameCore s (if t.dram.parityQ.contains (k, stripe) then t
      else (List.range 4).foldl (fun s i => Machine.readParity s k stripe i) t) := ite h (foldl (fun _ _ h => h.readParity ..) _ h)
  unfold Machine.parityUpdate
  refine ite ?_ (hread.onDram _)
  split
  · exact (hread.onDram _).parityOut _
  · exact hread.onDram _

theorem readSectors {β : Type} (a : β → Nat) (xs : List β) : SameCore s (xs.foldl (fun s k => Machine.readSector s (a k)) t) :=
  foldl (fun _ _ h => h.readSector _) _ h

theorem oldRead (secs : List Nat) : SameCore s (oldRead t secs) := (h.readSectors _ secs).upd rfl rfl rfl

theorem ctlSectors (pa : Nat) (part whole : List Nat) : SameCore s (ctlSectors t pa part whole) := by
  have hpart := h.readSectors (fun k => k * 64) part
  unfold Machine.ctlSectors
  dsimp only
  generalize part.foldl (fun s k => Machine.readSector s (k * 64)) t = u at hpart ⊢
  have hqueue : ∀ v, SameCore s v → SameCore s (match bankNumber v pa with | some b => Machine.queueWrite v b (pa / 256) | none => v) := by
    intro v hv
    split
    · exact hv.queueWrite _ _
    · exact hv
  apply hqueue
  refine foldl (fun _ _ h => h.clearBad _) _ ?_
  split
  · exact (hpart.oldRead _).parityUpdate ..
  · exact hpart

theorem ctlWrite (pa n : Nat) : SameCore s (ctlWrite t pa n) := h.ctlSectors ..

/-! ### Page motion (R127, R128) -/

theorem putStamp (x : Stamp) : SameCore s (putStamp t x) := h.upd rfl rfl rfl

theorem putMove (m : Move) : SameCore s (putMove t m) := h.upd rfl rfl rfl

theorem storeLine (pa : Nat) (bs : List Byte) (ps : List Nat) : SameCore s (storeLine t pa bs ps) := by
  unfold Machine.storeLine
  split
  · exact h.decodeError _
  · exact h.decodeError _
  · exact h.upd rfl rfl rfl
  · exact (h.ctlWrite pa 256).upd rfl rfl rfl

theorem endHold (m : Move) : SameCore s (endHold t m) := by
  have hdrop : ∀ a, SameCore s (dropEntry t a) := fun _ => h.onDram _
  unfold Machine.endHold
  exact ite ((hdrop _).putMove _) ((((hdrop _).putStamp _).storeLine ..).putMove _)

theorem endHoldAt (pa : Nat) : SameCore s (endHoldAt t pa) := by
  unfold Machine.endHoldAt
  split
  · exact ite (h.endHold _) h
  · exact h

omit h in
theorem awaitHolds (n : Nat) {t : State} (h : SameCore s t) (pa : Nat) : SameCore s (awaitHolds n t pa) := by
  induction n generalizing t pa with
  | zero => exact h.endHoldAt pa
  | succ n ih => exact ite (h.endHoldAt pa) (ih (h.endHoldAt pa) _)

theorem awaitHold (pa : Nat) : SameCore s (awaitHold t pa) := h.awaitHolds _ pa

theorem touchRead (pa n : Nat) : SameCore s (touchRead t pa n) := by
  have hwait := h.awaitHold pa
  exact ite (hwait.decodeError _) (foldl (fun _ _ h => h.readSector _) _ (hwait.readArrives _))

/-! ### The Jigsaw and the L1s (R146 to R158, R178) -/

theorem setJigsaw (ls : List JLine) : SameCore s (setJigsaw t ls) := h.upd rfl rfl rfl

theorem setL1 (ls : List L1Line) : SameCore s (setL1 t ls) := h.upd rfl rfl rfl

theorem jgPut (l : JLine) : SameCore s (jgPut t l) := h.setJigsaw _

theorem jgDirty (l : JLine) (mask : Nat) : SameCore s (jgDirty t l mask) := h.jgPut _

theorem jgSave (pa n : Nat) : SameCore s (jgSave t pa n) := by
  unfold Machine.jgSave
  split
  · exact h
  · exact h.jgPut _

theorem jgRestore (l : JLine) (mask : Nat) : SameCore s (jgRestore t l mask) := by
  unfold Machine.jgRestore
  refine foldl (fun _ _ h => ?_) _ h
  exact h.upd rfl rfl rfl

theorem l1WriteBack (l : L1Line) : SameCore s (l1WriteBack t l) := by
  unfold Machine.l1WriteBack
  dsimp only
  refine ite h ?_
  have hhome : SameCore s (match jgFind t (l.pa * 256) with
      | some j => Machine.jgDirty (Machine.mmCount t (jgBlock j.home + 8) 1) j l.dirty
      | none =>
        if unbacked t (portRoute t (l.pa * 256)) then Machine.decodeError t (portRoute t (l.pa * 256))
        else Machine.ctlSectors t (portRoute t (l.pa * 256)) []
          ((maskSectors l.dirty).map (fun i => portRoute t (l.pa * 256) / 64 + i))) := by
    split
    · exact (h.mmCount ..).jgDirty ..
    · exact ite (h.decodeError _) (h.ctlSectors ..)
  exact ite hhome (logError (foldl (fun _ _ h => h.poisonSector _) _ hhome) _)

theorem l1Recall (core pa : Nat) : SameCore s (l1Recall t core pa) :=
  ite h (setL1 (foldl (fun _ _ h => h.l1WriteBack _) _ h) _)

theorem l1Keep (pa : Nat) : SameCore s (l1Keep t pa) := ite (h.setL1 _) h

theorem jgWriteBack (l : JLine) : SameCore s (jgWriteBack t l) := by
  unfold Machine.jgWriteBack
  have hctl := fun xs ys => ctlSectors (s := s) (foldl (fun _ i h => h.poisonSector (l.pa / 64 + i)) xs h) l.pa [] ys
  exact ite h (ite ((h.jgRestore ..).decodeError _) (ite (hctl _ _) ((hctl _ _).logError _)))

theorem jgEvict (l : JLine) : SameCore s (jgEvict t l) := ((h.l1Recall ..).jgWriteBack _).setJigsaw _

theorem dirRoom (pa : Nat) : SameCore s (dirRoom t pa) := by
  unfold Machine.dirRoom
  refine ite h ?_
  split
  · exact (h.jgEvict _).mmCount ..
  · exact h

theorem wayRoom (k : JKey) : SameCore s (wayRoom t k) := by
  have hevict : ∀ o : Option JLine, SameCore s (match o with | some v => Machine.jgEvict t v | none => t) := by
    intro o
    split
    · exact h.jgEvict _
    · exact h
  exact ite (hevict _) (ite (hevict _) h)

theorem lruStamp (low : Bool) : SameCore s (lruStamp t low).2 := by
  unfold Machine.lruStamp
  split
  · exact h
  · exact h.upd rfl rfl rfl

theorem jgFill (k : JKey) (pa mask : Nat) (low : Bool) : SameCore s (jgFill t k pa mask low) :=
  (((h.dirRoom pa).wayRoom k).lruStamp low).setJigsaw _

theorem jgDecode (l : JLine) (mask whole : Nat) : SameCore s (jgDecode t l mask whole) :=
  foldl (fun _ _ h => ite (h.logError _) (ite ((h.poisonSector _).logError _) h)) _ (h.jgPut _)

theorem jgChecked (pa mask whole : Nat) : SameCore s (jgChecked t pa mask whole) := by
  unfold Machine.jgChecked
  split
  · exact ite h (h.jgDecode ..)
  · exact h

theorem jgFetch (pa mask : Nat) : SameCore s (jgFetch t pa mask) :=
  ite h (foldl (fun _ _ h => h.readSector _) _ (h.readArrives _))

theorem jgAddress (pa n : Nat) (write alloc low : Bool) : SameCore s (jgAddress t pa n write alloc low) := by
  unfold Machine.jgAddress
  refine ite h ?_
  split
  · next l _ =>
    have hstamp := (h.mmCount (jgBlock l.home + 8) 1).lruStamp false
    exact ite (hstamp.jgDirty ..) (hstamp.jgPut _)
  · have hfill := (h.mmCount (jgBlock (physHome pa) + 0x10) 1).jgFill (.line (pa / 256 * 256)) pa (sectorMask pa n) low
    refine ite (h.mmCount ..) (ite ?_ hfill)
    split
    · exact hfill.jgDirty ..
    · exact hfill

theorem homeLine (pa n : Nat) (write alloc low : Bool) : SameCore s (homeLine t pa n write alloc low) := by
  have hwait := h.awaitHold pa
  have haddr := hwait.jgAddress pa n write alloc low
  have hcheck := hwait.jgChecked pa (sectorMask pa n) (if write then wholeMask pa n else 0)
  exact ite (ite haddr (haddr.touchRead pa n)) (jgAddress (ite hcheck (hcheck.jgFetch ..)) ..)

theorem beforeWrite (pa0 pa n : Nat) : SameCore s (beforeWrite t pa0 pa n) := by
  have hkeep := h.l1Keep pa0
  unfold Machine.beforeWrite
  dsimp only
  split
  · exact jgSave (ite hkeep (hkeep.jgDirty ..)) ..
  · exact ite hkeep (hkeep.ctlWrite ..)

theorem physWrite (pa : Nat) (bs : List Byte) : SameCore s (physWrite t pa bs) := by
  have hwait := h.awaitHold pa
  unfold Machine.physWrite
  dsimp only
  split
  · exact hwait.decodeError _
  · exact hwait.decodeError _
  · next off _ => exact (hwait.touchUnit false off bs.length).upd rfl rfl rfl
  · refine foldl (fun _ _ h => ?_) _
      ((hwait.beforeWrite pa (portRoute (Machine.awaitHold t pa) pa) bs.length).upd rfl rfl rfl)
    split
    · exact h.putMove _
    · exact h

/-! ### Accesses at a home by an agent that is no arm (R330) -/

theorem setAgentTime {ag : Nat} (hag : 2 ^ 60 ≤ ag) (time : Nat) : SameCore s (setAgentTime t ag time) := by
  unfold Machine.setAgentTime
  rw [if_neg (Nat.not_lt.mpr hag)]
  exact h.upd rfl rfl rfl

theorem orderRead {ag : Nat} (hag : 2 ^ 60 ≤ ag) (pa : Nat) : SameCore s (orderRead t ag pa) := (h.putStamp _).setAgentTime hag _

theorem orderWrite {ag : Nat} (hag : 2 ^ 60 ≤ ag) (pa : Nat) : SameCore s (orderWrite t ag pa) := (h.putStamp _).setAgentTime hag _

theorem homeRead {ag : Nat} (hag : 2 ^ 60 ≤ ag) (pa n : Nat) (alloc low : Bool) : SameCore s (homeRead t ag pa n alloc low) :=
  ((h.l1Recall ..).orderRead hag _).homeLine ..

theorem homeWrite {ag : Nat} (hag : 2 ^ 60 ≤ ag) (pa : Nat) (bs : List Byte) : SameCore s (homeWrite t ag pa bs) :=
  (((h.l1Recall ..).orderWrite hag _).homeLine ..).physWrite ..

theorem orEntry {ag : Nat} (hag : 2 ^ 60 ≤ ag) (ea bits : Nat) : SameCore s (orEntry t ag ea bits) := ite h (h.homeWrite hag ..)

/-! ### Translation (R99 to R101) -/

omit h in
theorem le_walkerNo (die : Nat) : 2 ^ 60 ≤ walkerNo die := by unfold walkerNo; omega

theorem markPath (die : Nat) (w : Walk) : SameCore s (markPath t die w) := foldl (fun _ _ h => h.orEntry (le_walkerNo die) ..) _ h

theorem walkTraffic (die : Nat) (had : List Nat) (w : Walk) : SameCore s (walkTraffic t die had w) := by
  have hreads := foldl (f := fun s ea => if had.contains (ea / 256) then s else Machine.homeRead s (walkerNo die) ea 8 true false)
    (fun _ _ h => ite h (h.homeRead (le_walkerNo die) ..)) (walkReads w) h
  unfold Machine.walkTraffic walkBy
  dsimp only
  split
  · exact hreads.fatalError _
  · exact hreads

theorem xlInstall (x : Xagent) (va level leaf : Nat) (path : List (Nat × Nat × Nat)) : SameCore s (xlInstall t x va level leaf path) :=
  h.upd rfl rfl rfl

theorem xlLeaf (x : Xagent) (va : Nat) (kind : AccKindF) (w : Walk) : SameCore s (xlLeaf t x va kind w) := by
  unfold Machine.xlLeaf
  exact (h.orEntry (le_walkerNo x.die) ..).xlInstall ..

theorem xlCommit (x : Xagent) (va : Nat) (kind : AccKindF) (a : Xlat) : SameCore s (xlCommit t x va kind a) := by
  unfold Machine.xlCommit
  split
  · exact h
  · exact ((h.walkTraffic ..).markPath ..).xlLeaf ..

/-! ### Capture and heat (R118, R119, R417) -/

theorem pageImage (bank : Bool) (a : Nat) : SameCore s (pageImage t bank a).2 := by
  unfold Machine.pageImage
  split
  · exact h.touchUnit false a 4096
  · dsimp only
    exact foldl (fun _ _ h => h.touchRead ..) _ h

theorem captureRecord (l : Launch) (addr kind : Nat) (payload : List Byte) : SameCore s (captureRecord t l addr kind payload) := by
  unfold Machine.captureRecord
  exact ite h (ite (h.mmPutField ..) (mmCount (foldl (fun _ _ h => h.physWrite ..) _ h) ..))

theorem captureTouch (launch : Nat) (bank : Bool) (a va : Nat) : SameCore s (captureTouch t launch bank a va) := by
  have hlaunch : ∀ f, SameCore s (onLaunch t launch f) := fun _ => h.upd rfl rfl rfl
  unfold Machine.captureTouch
  split
  · exact h
  · exact ite h (((hlaunch _).pageImage ..).captureRecord ..)

theorem heatCredit (die ctx va credit : Nat) : SameCore s (heatCredit t die ctx va credit) := by
  have hput : ∀ tab, SameCore s { t with yo := { t.yo with heat := tab } } := fun _ => h.upd rfl rfl rfl
  unfold Machine.heatCredit
  dsimp only
  split
  · exact hput _
  · split
    · exact hput _
    · split
      · exact hput _
      · exact h

theorem sampleHeat (core ctx va credit : Nat) : SameCore s (sampleHeat t core ctx va credit) := by
  have hput : ∀ m, SameCore s { t with yo := { t.yo with sample := m } } := fun _ => h.upd rfl rfl rfl
  exact ite ((hput _).heatCredit ..) (hput _)

end SameCore

end Sys2Proof.Machine

/-! SUPPORT. What fetching a word reads, and what the turn of an arm runs. -/

namespace Sys2Proof.Machine

/-! ### Bytes of a line (R127) -/

theorem movingAt_line (s : State) (pa : Nat) : movingAt s pa = movingAt s (pa / 256 * 256) := by
  have h : (fun m : Move => m.st != .releasing && m.st != .released && decide (m.src * 4096 ≤ pa) &&
      decide (pa < m.src * 4096 + m.lines * 256)) =
      fun m : Move => m.st != .releasing && m.st != .released && decide (m.src * 4096 ≤ pa / 256 * 256) &&
        decide (pa / 256 * 256 < m.src * 4096 + m.lines * 256) := by
    funext m
    congr 2
    · congr 1; simp only [eq_iff_iff]; omega
    · simp only [eq_iff_iff]; omega
  rw [movingAt, movingAt, h]

/-- A port routes every byte of a line alike. -/
theorem portOnce_line (s : State) (pa : Nat) : portOnce s pa = portOnce s (pa / 256 * 256) + pa % 256 ∧ portOnce s (pa / 256 * 256) % 256 = 0 := by
  unfold portOnce
  rw [← movingAt_line]
  cases hm : movingAt s pa with
  | none => dsimp only; omega
  | some m =>
    have hin := List.find?_some hm
    simp only [Bool.and_eq_true, decide_eq_true_eq] at hin
    obtain ⟨⟨_, hlo⟩, _⟩ := hin
    have hline : (pa / 256 * 256 - m.src * 4096) / 256 = (pa - m.src * 4096) / 256 := by omega
    dsimp only
    rw [hline]
    split <;> omega

theorem getLastD_portHops (s : State) (n pa d d' : Nat) : (portHops s n pa).getLastD d = (portHops s n pa).getLastD d' := by
  cases n with
  | zero => rfl
  | succ n => rw [portHops]; split <;> rfl

theorem portHops_line (s : State) (n pa : Nat) :
    (portHops s n pa).getLastD pa = (portHops s n (pa / 256 * 256)).getLastD (pa / 256 * 256) + pa % 256 := by
  induction n generalizing pa with
  | zero => simp [portHops]; omega
  | succ n ih =>
    obtain ⟨honce, haligned⟩ := portOnce_line s pa
    have hstay : portOnce s pa = pa ↔ portOnce s (pa / 256 * 256) = pa / 256 * 256 := by omega
    simp only [portHops, hstay]
    split
    · simp; omega
    · have hdiv : portOnce s pa / 256 * 256 = portOnce s (pa / 256 * 256) := by omega
      have hmod : portOnce s pa % 256 = pa % 256 := by omega
      have := ih (portOnce s pa)
      rw [hdiv, hmod] at this
      simp only [List.getLastD_cons]
      rw [getLastD_portHops s n _ pa (portOnce s pa), getLastD_portHops s n _ (pa / 256 * 256) (portOnce s (pa / 256 * 256))]
      exact this

theorem portRoute_line (s : State) (pa : Nat) : portRoute s pa = portRoute s (pa / 256 * 256) + pa % 256 := portHops_line ..

/-- Bytes within a line are a part of the line's. -/
theorem physBytes_line (s : State) (pa n : Nat) (h : pa % 256 + n ≤ 256) :
    ((physBytes s (pa / 256 * 256) 256).drop (pa % 256)).take n = physBytes s pa n := by
  apply List.ext_getElem
  · simp [physBytes]; omega
  · intro i h1 h2
    simp [physBytes, portRoute_line s pa, Nat.add_assoc]

theorem portHops_caches (s : State) (c : Caches) (n pa : Nat) : portHops { s with caches := c } n pa = portHops s n pa := by
  induction n generalizing pa with
  | zero => rfl
  | succ n ih =>
    have honce : portOnce { s with caches := c } pa = portOnce s pa := rfl
    rw [portHops, portHops, ih, honce]

/-- What memory holds is no matter of the caches. -/
theorem physBytes_caches (s : State) (c : Caches) (pa n : Nat) : physBytes { s with caches := c } pa n = physBytes s pa n := by
  have hroute : portRoute { s with caches := c } pa = portRoute s pa := by rw [portRoute, hopsOf, portHops_caches]; rfl
  rw [physBytes, physBytes, hroute]
  rfl

/-! ### The instruction cache (log entry 17) -/

theorem icFind_congr {s t : State} (h : t.caches.icache = s.caches.icache) (core pa : Nat) : icFind t core pa = icFind s core pa := by
  rw [icFind, h, icFind]

theorem icFind_icFill (s : State) (core pa : Nat) :
    ∃ l, icFind (icFill s core pa) core pa = some l ∧ l.bytes = physBytes s (pa / 256 * 256) 256 := by
  unfold icFind icFill
  dsimp only
  rw [List.find?_append, List.find?_eq_none.2, Option.none_or, List.find?_singleton, if_pos (by simp)]
  · exact ⟨_, rfl, rfl⟩
  · intro l hl
    have hother : l ∈ s.caches.icache.filter (fun l => !(l.core == core && l.pa == pa / 256)) := by
      split at hl
      · exact hl
      · exact (List.mem_filter.1 hl).1
    have hne := (List.mem_filter.1 hother).2
    rw [Bool.not_eq_true'] at hne
    rw [hne]
    exact Bool.false_ne_true

theorem icMisses_of_icFind_none {s : State} {core pa : Nat} (h : icFind s core pa = none) : icMisses s core pa = true := by
  rw [icMisses, h]

/-- A fetch that fills gives the bytes in memory. -/
theorem icacheBytes_of_icMisses {s : State} {core pa n : Nat} (hn : pa % 256 + n ≤ 256) (h : icMisses s core pa = true) :
    (icacheBytes (icacheFetch s core pa) core pa n).1 = physBytes (icacheFetch s core pa) pa n := by
  rw [icacheFetch, if_pos h]
  generalize homeLine (l1Recall s 768 pa) (pa / 256 * 256) 256 false true false = t
  obtain ⟨l, hl, hbytes⟩ := icFind_icFill t core pa
  rw [icacheBytes, hl]
  dsimp only
  rw [hbytes, physBytes_line t pa n hn]
  exact (physBytes_caches t _ pa n).symm

/-- A fetch that hits gives the line's bytes. -/
theorem icacheBytes_of_hit {s : State} {core pa : Nat} {l : ILine} (n : Nat) (h : icMisses s core pa = false)
    (hl : icFind s core pa = some l) :
    (icacheBytes (icacheFetch s core pa) core pa n).1 = (l.bytes.drop (pa % 256)).take n := by
  have hfind : ∃ l', icFind (icacheFetch s core pa) core pa = some l' ∧ l'.bytes = l.bytes := by
    rw [icacheFetch, h, if_neg Bool.false_ne_true, hl]
    unfold icFind at hl ⊢
    dsimp only
    rw [List.find?_map]
    have hkey : ((fun l : ILine => l.core == core && l.pa == pa / 256) ∘
        fun x : ILine => if x.core = core ∧ x.pa = l.pa then { x with lru := s.caches.lruNext } else x) =
        fun l => l.core == core && l.pa == pa / 256 := by
      funext x
      simp only [Function.comp]
      split <;> rfl
    rw [hkey, hl]
    exact ⟨_, rfl, by dsimp only; split <;> rfl⟩
  obtain ⟨l', hl', hbytes⟩ := hfind
  rw [icacheBytes, hl']
  dsimp only
  rw [hbytes]

theorem icacheFetch_core (s : State) (core pa : Nat) :
    (icacheFetch s core pa).gang = s.gang ∧ (icacheFetch s core pa).mem.scratch = s.mem.scratch := by
  unfold icacheFetch
  split
  · have h := ((SameCore.refl s).l1Recall 768 pa).homeLine (pa / 256 * 256) 256 false true false
    exact ⟨h.gang, h.scratch⟩
  · split <;> exact ⟨rfl, rfl⟩

/-! ### Fetching a word (R104, R107) -/

theorem leafPa_mod_four (level e va : Nat) : leafPa level e va % 4 = va % 4 := by
  have hb : 2 ^ (12 + leafBits level e) = 4 * 2 ^ (10 + leafBits level e) := by
    rw [show 12 + leafBits level e = 2 + (10 + leafBits level e) by omega, Nat.pow_add]
  unfold leafPa
  dsimp only
  rw [hb]
  generalize 2 ^ (10 + leafBits level e) = k
  rw [Nat.add_mod, Nat.mod_mul_right_mod, ← Nat.mul_assoc, Nat.mul_right_comm, Nat.mul_mod_left]
  omega

theorem xlatWalk_pa (kind : AccKindF) (sup : Bool) (va : Nat) (w : Walk) (h : (xlatWalk kind sup va w).fault = none) :
    (xlatWalk kind sup va w).pa % 4 = va % 4 := by
  revert h
  unfold xlatWalk
  split
  · exact nofun
  · split
    · exact nofun
    · exact fun _ => leafPa_mod_four ..

/-- A translation keeps the offset within a word. -/
theorem xlate_pa {s : State} {x : Xagent} {va : Nat} {kind : AccKindF} {pick : Bool} (h : (xlate s x va kind pick).fault = none) :
    (xlate s x va kind pick).pa % 4 = va % 4 := by
  revert h
  unfold xlate xlateAs
  dsimp only
  split
  · split
    · exact xlatWalk_pa _ _ _ _
    · split
      · exact nofun
      · exact fun _ => leafPa_mod_four ..
  · exact xlatWalk_pa _ _ _ _

/-- A word that is fetched comes from the instruction cache, after traffic beyond the cores. -/
theorem fetchWord_eq_ok {s s' : State} {va : DWord} {w : Word} (h : fetchWord s va = .ok (w, s')) :
    ∃ t, SameCore s t ∧ s' = icacheFetch t s.gang.core (fetchXlat s va.toNat).pa ∧
      w = BitVec.ofNat 32 (leNat (icacheBytes s' s.gang.core (fetchXlat s va.toNat).pa 4).1) := by
  unfold fetchWord at h
  dsimp only at h
  generalize fetchXlat s va.toNat = x at h ⊢
  split at h
  · exact absurd h (by simp)
  · have htouch := ((SameCore.refl s).xlCommit (armAgent s) va.toNat .fetch x).captureTouch s.gang.launch false x.pa va.toNat
    generalize Machine.captureTouch (Machine.xlCommit s (armAgent s) va.toNat .fetch x) s.gang.launch false x.pa va.toNat = t at h htouch
    have hheat : SameCore s (if icMisses t t.gang.core x.pa then Machine.sampleHeat t t.gang.core t.gang.ctx va.toNat 1 else t) :=
      .ite (htouch.sampleHeat ..) htouch
    generalize (if icMisses t t.gang.core x.pa then Machine.sampleHeat t t.gang.core t.gang.ctx va.toNat 1 else t) = u at h hheat
    split at h
    · exact absurd h (by simp)
    · rw [Except.ok.injEq, Prod.mk.injEq, (icacheFetch_core _ _ _).1, hheat.gang] at h
      exact ⟨u, hheat, h.2.symm, by rw [← h.1, h.2]⟩

theorem fetchedWords : Claims.FetchedWords := by
  refine ⟨fun s va x hva hcanon harea hx hfault w s' hfetch => ?_, fun s va hcanon => ?_⟩
  · have hxlat : fetchXlat s va.toNat = x := by rw [fetchXlat, hcanon, harea, hx]; rfl
    obtain ⟨t, hst, rfl, rfl⟩ := fetchWord_eq_ok hfetch
    rw [hxlat]
    have hpa : x.pa % 256 + 4 ≤ 256 := by
      have := xlate_pa (hx ▸ hfault : (xlate s (armAgent s) va.toNat .fetch (pickCached s 125)).fault = none)
      rw [hx] at this
      omega
    obtain ⟨hgang, hscratch⟩ := icacheFetch_core t s.gang.core x.pa
    have hfind := icFind_congr hst.icache s.gang.core x.pa
    refine ⟨fun hnone => ?_, fun l hl => ?_, hgang.trans hst.gang, hscratch.trans hst.scratch⟩
    · rw [icacheBytes_of_icMisses hpa (icMisses_of_icFind_none (hfind.trans hnone))]
    · cases hmiss : icMisses t s.gang.core x.pa
      · exact .inr (by rw [icacheBytes_of_hit 4 hmiss (hfind.trans hl)])
      · exact .inl (by rw [icacheBytes_of_icMisses hpa hmiss])
  · have hxlat : fetchXlat s va.toNat = ⟨some (causeProtection, 0x0B), 0, 0, 0, none⟩ := by rw [fetchXlat, hcanon]; rfl
    have hfetch : fetchWord s va = .error (armTrap s.gang causeProtection 0x0B va.toNat .fetch, s) := by
      rw [fetchWord, hxlat]
      rfl
    exact ⟨_, _, hfetch, rfl, rfl, rfl, rfl⟩

/-! ### Steps (R33, R41, R42) -/

theorem focusOn_self {s : State} (h : s.live = true) : focusOn s s.gang.id s.gang.arm.slot = s := by
  unfold focusOn
  dsimp only
  rw [if_pos ⟨h, rfl⟩, if_pos rfl]

theorem turnStep_arm {s : State} (hlive : s.live = true) (hturn : s.turn = .arm s.gang.id s.gang.arm.slot)
    (hmay : mayIssue s s.gang s.gang.arm = true) :
    turnStep s = if atJoin s.gang then .next (boundary s) else
      if stopsBefore s then execBreakpointStop s.gang.id s.gang.arm.slot s else runGroup s := by
  rw [turnStep, hturn]
  simp only [armStep, focusOn_self hlive, hlive, hmay, and_self, if_true]

/-- A group of one or two words without prefixes. -/
theorem groupInstr_bare {s : State} {va : DWord} {w w' : Word} {i : Instr} (h : decodeWords w w' = .ok i) :
    groupInstr s ⟨[], va, w, w'⟩ = .ok i := by
  have hfields : ∃ j, decodeFields w w' = .ok j := by
    unfold decodeWords at h
    split at h
    · next j hj => exact ⟨j, hj⟩
    · exact absurd h (by simp)
  obtain ⟨j, hj⟩ := hfields
  have hoffending : offendingWord ⟨[], va, w, w'⟩ = none := by simp [offendingWord, hj]
  have hprefix : prefixIllegal ⟨[], va, w, w'⟩ = false := rfl
  simp [groupInstr, hoffending, hprefix, h]

theorem fetchGroup_of_one {s s' : State} {va : DWord} {w : Word} (hf : fetchWord s va = .ok (w, s')) (hk : wordKind w ≠ 2)
    (hc : wordCount w = 1) : fetchGroup groupFuel s va [] = .ok (⟨[], va, w, 0⟩, s') := by
  rw [show groupFuel = (2 ^ 60 - 1) + 1 from rfl]
  generalize 2 ^ 60 - 1 = n
  rw [fetchGroup, hf]
  simp only [hk, hc, if_false, if_true]

theorem fetchGroup_of_two {s s' s'' : State} {va : DWord} {w w' : Word} (hf : fetchWord s va = .ok (w, s')) (hk : wordKind w ≠ 2)
    (hc : wordCount w ≠ 1) (hf' : fetchWord s' (va + 4) = .ok (w', s'')) : fetchGroup groupFuel s va [] = .ok (⟨[], va, w, w'⟩, s'') := by
  rw [show groupFuel = (2 ^ 60 - 1) + 1 from rfl]
  generalize 2 ^ 60 - 1 = n
  rw [fetchGroup, hf]
  simp only [hk, hc, if_false, hf']

theorem runGroup_ok {s s' : State} {p : Group} {i : Instr} (hf : fetchGroup groupFuel s s.gang.arm.pc [] = .ok (p, s'))
    (hi : groupInstr s' p = .ok i) : runGroup s = execAll (prefixInstrs p ++ [i]) s' := by
  rw [runGroup, hf]
  simp only [hi]

theorem turns_run_decoded : Claims.StepRunsDecoded := by
  refine ⟨fun s hlive hturn hmay hjoin hstop => ?_, fun s hlive hturn hmay hjoin => ?_, fun s i hturn => ?_⟩
  · have hstep : step s = andThen (runGroup s) (fun t => .next (endStep t)) := by
      rw [step, turnStep_arm hlive hturn hmay, hjoin, hstop]
      rfl
    refine ⟨fun p s' i hf hi => ?_, fun w s' i hf hk hc hd => ?_, fun w w' s' s'' i hf hk hc hf' hd => ?_, fun x s' hf => ?_,
      fun p s' x hf hx => ?_⟩
    · rw [hstep, runGroup_ok hf hi]
    · rw [hstep, runGroup_ok (fetchGroup_of_one hf hk hc) (groupInstr_bare hd)]
      exact congrArg (andThen · _) (execAll_single i s')
    · rw [hstep, runGroup_ok (fetchGroup_of_two hf hk hc hf') (groupInstr_bare hd)]
      exact congrArg (andThen · _) (execAll_single i s'')
    · rw [hstep, runGroup, hf]
      rfl
    · rw [hstep, runGroup, hf]
      simp only [hx]
      rfl
  · rw [step, turnStep_arm hlive hturn hmay, hjoin]
    rfl
  · rw [step, turnStep, hturn]

/-- Settles O55: the turn's group is the one that its first word or two decode to, and a fetch reads through the instruction cache. -/
theorem stepRunsDecoded : Obligations.StepRunsDecoded := ⟨turns_run_decoded, fetchedWords⟩

end Sys2Proof.Machine

/-! SUPPORT. Rounding (R264, R265): what `roundAt`, `finBits` and `fpRound` give of an exact value. -/

namespace Sys2Proof.Machine

/-! ### Rounding a magnitude to an integer (R264) -/

/-- A magnitude goes to the integer above it. -/
def RoundsUp (rm : RMode) (neg : Bool) (t : ℝ) : Prop :=
  match rm with
  | .rne => t - ⌊t⌋₊ > 1 / 2 ∨ (t - ⌊t⌋₊ = 1 / 2 ∧ ⌊t⌋₊ % 2 = 1)
  | .rtz => False
  | .rdn => neg = true ∧ t ≠ ⌊t⌋₊
  | .rup => neg = false ∧ t ≠ ⌊t⌋₊

theorem roundInt_of_up {rm : RMode} {neg : Bool} {t : ℝ} (h : RoundsUp rm neg t) : Claims.roundInt rm neg t = ⌊t⌋₊ + 1 := if_pos h

theorem roundInt_of_not_up {rm : RMode} {neg : Bool} {t : ℝ} (h : ¬RoundsUp rm neg t) : Claims.roundInt rm neg t = ⌊t⌋₊ := if_neg h

theorem floor_le_roundInt (rm : RMode) (neg : Bool) (t : ℝ) : ⌊t⌋₊ ≤ Claims.roundInt rm neg t := by
  by_cases h : RoundsUp rm neg t
  · rw [roundInt_of_up h]; omega
  · rw [roundInt_of_not_up h]

theorem roundInt_le_floor_succ (rm : RMode) (neg : Bool) (t : ℝ) : Claims.roundInt rm neg t ≤ ⌊t⌋₊ + 1 := by
  by_cases h : RoundsUp rm neg t
  · rw [roundInt_of_up h]
  · rw [roundInt_of_not_up h]; omega

theorem not_roundsUp_natCast (rm : RMode) (neg : Bool) (n : ℕ) : ¬RoundsUp rm neg (n : ℝ) := by
  cases rm <;> norm_num [RoundsUp]

theorem roundInt_natCast (rm : RMode) (neg : Bool) (n : ℕ) : Claims.roundInt rm neg (n : ℝ) = n := by
  rw [roundInt_of_not_up (not_roundsUp_natCast rm neg n), Nat.floor_natCast]

theorem le_roundInt {n : ℕ} {t : ℝ} (rm : RMode) (neg : Bool) (h : (n : ℝ) ≤ t) : n ≤ Claims.roundInt rm neg t :=
  (Nat.le_floor h).trans (floor_le_roundInt ..)

theorem roundInt_le {n : ℕ} {t : ℝ} (rm : RMode) (neg : Bool) (h : t ≤ n) (h0 : 0 ≤ t) : Claims.roundInt rm neg t ≤ n := by
  rcases h.lt_or_eq with h | rfl
  · exact (roundInt_le_floor_succ ..).trans ((Nat.floor_lt h0).2 h)
  · rw [roundInt_natCast]

/-- Only an integer rounds to itself. -/
theorem RoundsUp.ne_floor {rm : RMode} {neg : Bool} {t : ℝ} (h : RoundsUp rm neg t) : t ≠ ⌊t⌋₊ := by
  intro ht
  rw [ht] at h
  exact not_roundsUp_natCast _ _ _ h

/-! ### `roundAt` -/

/-- An exact real has magnitude `a`. -/
def Exact.HasMag (x : Exact) (a : ℝ) : Prop :=
  if x.sticky = true then (x.m : ℝ) * 2 ^ x.e < a ∧ a < ((x.m : ℝ) + 1) * 2 ^ x.e else a = x.m * 2 ^ x.e

theorem two_zpow_pos (n : ℤ) : (0 : ℝ) < 2 ^ n := by positivity

theorem two_zpow_sub_toNat {a b : ℤ} (h : b ≤ a) : (2 : ℝ) ^ (a - b).toNat = 2 ^ a / 2 ^ b := by
  rw [← zpow_natCast, Int.toNat_of_nonneg (by omega), zpow_sub₀ two_ne_zero]

/-- What the sticky bit stands for, in units of the last place. -/
theorem Exact.HasMag.unit {x : Exact} {a : ℝ} (h : x.HasMag a) :
    ∃ d : ℝ, 0 ≤ d ∧ d < 1 ∧ (d = 0 ↔ x.sticky = false) ∧ a = (x.m + d) * 2 ^ x.e := by
  have hpos := two_zpow_pos x.e
  unfold Exact.HasMag at h
  cases hs : x.sticky
  · rw [hs, if_neg Bool.false_ne_true] at h
    exact ⟨0, le_rfl, one_pos, by simp, by rw [add_zero]; exact h⟩
  · rw [hs, if_pos rfl] at h
    obtain ⟨hlo, hhi⟩ := h
    have hlo' := (lt_div_iff₀ hpos).2 hlo
    have hhi' := (div_lt_iff₀ hpos).2 hhi
    refine ⟨a / 2 ^ x.e - x.m, by linarith, by linarith, ?_, by field_simp; ring⟩
    simp only [Bool.true_eq_false, iff_false]
    exact fun h0 => by linarith

/-- The quotient and the rest of the magnitude at a coarser grid. -/
theorem Exact.HasMag.split {x : Exact} {a : ℝ} (h : x.HasMag a) {q : ℤ} (hq : x.e < q) :
    ∃ d : ℝ, 0 ≤ d ∧ d < 1 ∧ (d = 0 ↔ x.sticky = false) ∧
      a / 2 ^ q = (x.m / 2 ^ (q - x.e).toNat : ℕ) + ((x.m % 2 ^ (q - x.e).toNat : ℕ) + d) / 2 ^ (q - x.e).toNat := by
  obtain ⟨d, h0, h1, hd, ha⟩ := h.unit
  refine ⟨d, h0, h1, hd, ?_⟩
  have hm : (x.m : ℝ) = (x.m / 2 ^ (q - x.e).toNat : ℕ) * 2 ^ (q - x.e).toNat + (x.m % 2 ^ (q - x.e).toNat : ℕ) := by
    exact_mod_cast (Nat.div_add_mod' x.m (2 ^ (q - x.e).toNat)).symm
  have hS : (2 : ℝ) ^ q = 2 ^ x.e * 2 ^ (q - x.e).toNat := by
    rw [two_zpow_sub_toNat hq.le]
    field_simp
  have hpos : (0 : ℝ) < 2 ^ (q - x.e).toNat := by positivity
  have hpos' := two_zpow_pos x.e
  rw [ha, hS]
  generalize (x.m / 2 ^ (q - x.e).toNat : ℕ) = k at *
  generalize (x.m % 2 ^ (q - x.e).toNat : ℕ) = r at *
  rw [hm]
  field_simp
  ring

section Half

variable {k r H : ℕ} {d t : ℝ} {sticky : Bool} (hr : r < 2 * H) (h0 : 0 ≤ d) (h1 : d < 1) (hd : d = 0 ↔ sticky = false)
  (ht : t = k + (r + d) / (2 * H : ℕ))
include hr h0 h1 ht

theorem floor_eq_of_rest : ⌊t⌋₊ = k := by
  have hH : (0 : ℝ) < (2 * H : ℕ) := by exact_mod_cast (by omega : 0 < 2 * H)
  have hr' : (r : ℝ) + 1 ≤ (2 * H : ℕ) := by exact_mod_cast hr
  have hlo : 0 ≤ (r + d) / (2 * H : ℕ) := by positivity
  have hhi : (r + d) / (2 * H : ℕ) < 1 := by rw [div_lt_one hH]; linarith
  rw [Nat.floor_eq_iff (by rw [ht]; positivity), ht]
  constructor <;> linarith

include hd

omit h1 in
theorem ne_floor_iff_rest : t ≠ k ↔ r ≠ 0 ∨ sticky = true := by
  have hH : (0 : ℝ) < (2 * H : ℕ) := by exact_mod_cast (by omega : 0 < 2 * H)
  have hz : t = k ↔ (r : ℝ) + d = 0 := by
    rw [ht, add_eq_left, div_eq_zero_iff, or_iff_left hH.ne']
  have hr0 : (0 : ℝ) ≤ r := Nat.cast_nonneg r
  rw [ne_eq, hz, add_eq_zero_iff_of_nonneg hr0 h0, hd, Nat.cast_eq_zero]
  cases sticky <;> simp

theorem half_lt_iff_rest : t - k > 1 / 2 ↔ H < r ∨ (r = H ∧ sticky = true) := by
  have hH : (0 : ℝ) < (2 * H : ℕ) := by exact_mod_cast (by omega : 0 < 2 * H)
  have hgt : t - k > 1 / 2 ↔ (H : ℝ) < r + d := by
    rw [ht, add_sub_cancel_left, gt_iff_lt, lt_div_iff₀ hH]
    push_cast
    constructor <;> intro h <;> linarith
  rw [hgt]
  rcases lt_trichotomy H r with h | rfl | h
  · have : (H : ℝ) < r := by exact_mod_cast h
    simp only [h, true_or, iff_true]
    linarith
  · have : (0 < d ↔ sticky = true) := by
      rw [h0.lt_iff_ne', ne_eq, hd, Bool.not_eq_false]
    simp [this]
  · have : (r : ℝ) + 1 ≤ H := by exact_mod_cast h
    simp only [not_lt.mpr h.le, h.ne, false_and, or_false, iff_false, not_lt]
    linarith

theorem eq_half_iff_rest : t - k = 1 / 2 ↔ r = H ∧ sticky = false := by
  have hH : (0 : ℝ) < (2 * H : ℕ) := by exact_mod_cast (by omega : 0 < 2 * H)
  have heq : t - k = 1 / 2 ↔ (r : ℝ) + d = H := by
    rw [ht, add_sub_cancel_left, div_eq_iff hH.ne']
    push_cast
    constructor <;> intro h <;> linarith
  rw [heq]
  rcases lt_trichotomy H r with h | rfl | h
  · have : (H : ℝ) + 1 ≤ r := by exact_mod_cast h
    simp only [h.ne', false_and, iff_false]
    exact fun _ => by linarith
  · simp [hd]
  · have : (r : ℝ) + 1 ≤ H := by exact_mod_cast h
    simp only [h.ne, false_and, iff_false]
    exact fun _ => by linarith

/-- When the rest rounds up. -/
theorem roundsUp_iff_rest (rm : RMode) (neg : Bool) :
    RoundsUp rm neg t ↔ (match rm with
      | .rne => decide (H < r) || (decide (r = H) && (sticky || k % 2 == 1))
      | .rtz => false
      | .rdn => neg && (r ≠ 0 || sticky)
      | .rup => !neg && (r ≠ 0 || sticky)) = true := by
  have hfloor := floor_eq_of_rest hr h0 h1 ht
  have hne := ne_floor_iff_rest hr h0 hd ht
  cases rm
  · simp only [RoundsUp, hfloor, half_lt_iff_rest hr h0 h1 hd ht, eq_half_iff_rest hr h0 h1 hd ht]
    cases sticky <;> simp
  · simp [RoundsUp]
  · simp [RoundsUp, hfloor, hne]
  · simp [RoundsUp, hfloor, hne]

end Half

/-- `roundAt` rounds to a multiple of `2 ^ q`, and says whether that was inexact. -/
theorem roundAt_eq {x : Exact} {a : ℝ} (h : x.HasMag a) {q : ℤ} (rm : RMode) (hq : x.sticky = true → x.e < q) :
    (roundAt x q rm).1 = Claims.roundInt rm x.neg (a / 2 ^ q) ∧
      ((roundAt x q rm).2 = true ↔ a / 2 ^ q ≠ Claims.roundInt rm x.neg (a / 2 ^ q)) := by
  by_cases hle : q ≤ x.e
  · have hs : x.sticky = false := by
      cases hs : x.sticky
      · rfl
      · exact absurd (hq hs) (by omega)
    have ha : a / 2 ^ q = (x.m * 2 ^ (x.e - q).toNat : ℕ) := by
      unfold Exact.HasMag at h
      rw [hs, if_neg Bool.false_ne_true] at h
      push_cast
      rw [h, two_zpow_sub_toNat hle, mul_div_assoc]
    rw [ha, roundInt_natCast]
    simp only [roundAt, if_pos hle, hs]
    simp
  · rw [not_le] at hle
    obtain ⟨d, h0, h1, hd, ht⟩ := h.split hle
    have hsh : 2 ^ (q - x.e).toNat = 2 * 2 ^ ((q - x.e).toNat - 1) := by rw [← pow_succ']; congr 1; omega
    have hr : x.m % 2 ^ (q - x.e).toNat < 2 * 2 ^ ((q - x.e).toNat - 1) := hsh ▸ Nat.mod_lt _ (by positivity)
    have ht' : a / 2 ^ q = (x.m / 2 ^ (q - x.e).toNat : ℕ) +
        ((x.m % 2 ^ (q - x.e).toNat : ℕ) + d) / (2 * 2 ^ ((q - x.e).toNat - 1) : ℕ) := by rw [ht, ← hsh]; push_cast; rfl
    have hup := roundsUp_iff_rest hr h0 h1 hd ht' rm x.neg
    have hne := ne_floor_iff_rest hr h0 hd ht'
    have hfloor := floor_eq_of_rest hr h0 h1 ht'
    simp only [roundAt, if_neg (not_le.mpr hle)]
    generalize x.m / 2 ^ (q - x.e).toNat = k at *
    generalize x.m % 2 ^ (q - x.e).toNat = r at *
    generalize 2 ^ ((q - x.e).toNat - 1) = H at *
    have hinexact : (decide (r ≠ 0) || x.sticky) = true ↔ a / 2 ^ q ≠ k := by rw [hne]; simp
    by_cases hu : RoundsUp rm x.neg (a / 2 ^ q)
    · rw [roundInt_of_up hu, hfloor]
      have hlt : a / 2 ^ q ≠ (k + 1 : ℕ) := by
        have := Nat.lt_floor_add_one (a / 2 ^ q)
        rw [hfloor] at this
        exact fun h => this.ne (by rw [h]; push_cast; rfl)
      exact ⟨if_pos (hup.1 hu), iff_of_true (hinexact.2 (hfloor ▸ hu.ne_floor)) hlt⟩
    · rw [roundInt_of_not_up hu, hfloor]
      exact ⟨if_neg fun h => hu (hup.2 h), hinexact⟩

/-! ### Bit lengths, logarithms and comparisons -/

theorem bitLen_bounds {m : Nat} (hm : m ≠ 0) : 2 ^ (bitLen m - 1) ≤ m ∧ m < 2 ^ bitLen m ∧ 0 < bitLen m := by
  rw [bitLen, if_neg hm]
  exact ⟨Nat.log2_self_le hm, Nat.lt_log2_self, Nat.succ_pos _⟩

theorem bitLen_eq {m n : Nat} (hlo : 2 ^ n ≤ m) (hhi : m < 2 ^ (n + 1)) : bitLen m = n + 1 := by
  have hm : m ≠ 0 := by have := Nat.two_pow_pos n; omega
  rw [bitLen, if_neg hm, (Nat.log2_eq_iff hm).2 ⟨hlo, hhi⟩]

/-- The magnitude of an exact real that is not zero lies between the powers of two about its last bit. -/
theorem Exact.HasMag.bounds {x : Exact} {a : ℝ} (h : x.HasMag a) (hm : x.m ≠ 0) :
    (2 : ℝ) ^ (x.e + bitLen x.m - 1) ≤ a ∧ a < (2 : ℝ) ^ (x.e + bitLen x.m) := by
  obtain ⟨d, h0, h1, -, ha⟩ := h.unit
  obtain ⟨hlo, hhi, hpos⟩ := bitLen_bounds hm
  have hlo' : (2 : ℝ) ^ (bitLen x.m - 1) ≤ x.m := by exact_mod_cast hlo
  have hhi' : (x.m : ℝ) + 1 ≤ 2 ^ bitLen x.m := by exact_mod_cast hhi
  have hepos := two_zpow_pos x.e
  constructor
  · rw [show x.e + (bitLen x.m : ℤ) - 1 = ((bitLen x.m - 1 : ℕ) : ℤ) + x.e by omega, zpow_add₀ two_ne_zero, zpow_natCast, ha]
    exact mul_le_mul_of_nonneg_right (by linarith) hepos.le
  · rw [add_comm x.e, zpow_add₀ two_ne_zero, zpow_natCast, ha]
    exact mul_lt_mul_of_pos_right (by linarith) hepos

theorem intLog_eq {a : ℝ} {n : ℤ} (hlo : (2 : ℝ) ^ n ≤ a) (hhi : a < 2 ^ (n + 1)) : Int.log 2 a = n := by
  have ha : 0 < a := (two_zpow_pos n).trans_le hlo
  have h1 : n ≤ Int.log 2 a := (Int.zpow_le_iff_le_log Nat.one_lt_two ha).1 (by exact_mod_cast hlo)
  have h2 : Int.log 2 a < n + 1 := (Int.lt_zpow_iff_log_lt Nat.one_lt_two ha).1 (by exact_mod_cast hhi)
  omega

theorem dyLt_iff (m1 : Nat) (e1 : Int) (m2 : Nat) (e2 : Int) : dyLt m1 e1 m2 e2 = true ↔ (m1 : ℝ) * 2 ^ e1 < m2 * 2 ^ e2 := by
  have h1 := two_zpow_pos e1
  have h2 := two_zpow_pos e2
  unfold dyLt
  split
  · next h =>
    rw [decide_eq_true_iff, ← Nat.cast_lt (α := ℝ)]
    push_cast
    rw [two_zpow_sub_toNat h, mul_div_assoc', lt_div_iff₀ h1]
  · next h =>
    rw [decide_eq_true_iff, ← Nat.cast_lt (α := ℝ)]
    push_cast
    rw [two_zpow_sub_toNat (by omega), mul_div_assoc', div_lt_iff₀ h2]

/-! ### Encodings (R256) -/

theorem fmtWidth_eq (f : Fmt) : fmtWidth f = fmtFrac f + fmtExp f + 1 := by cases f <;> rfl

/-- An encoding by its fields. -/
def ofFields (f : Fmt) (neg : Bool) (E fr : Nat) : Nat := signBits f neg + E * 2 ^ fmtFrac f + fr

theorem ofFields_eq (f : Fmt) (neg : Bool) (E fr : Nat) :
    ofFields f neg E fr = (neg.toNat * 2 ^ fmtExp f + E) * 2 ^ fmtFrac f + fr := by
  have hs : signBits f neg = neg.toNat * 2 ^ fmtExp f * 2 ^ fmtFrac f := by
    rw [signBits, fmtWidth_eq, Nat.add_sub_cancel, Nat.add_comm, pow_add]
    cases neg <;> simp
  rw [ofFields, hs, add_mul]

section Fields

variable (f : Fmt) (neg : Bool) {E fr : Nat} (hE : E < 2 ^ fmtExp f) (hfr : fr < 2 ^ fmtFrac f)
include hfr

theorem ofFields_frac : ofFields f neg E fr % 2 ^ fmtFrac f = fr := by
  rw [ofFields_eq, Nat.mul_add_mod', Nat.mod_eq_of_lt hfr]

theorem ofFields_div : ofFields f neg E fr / 2 ^ fmtFrac f = neg.toNat * 2 ^ fmtExp f + E := by
  rw [ofFields_eq, Nat.mul_comm, Nat.mul_add_div (by positivity), Nat.div_eq_of_lt hfr, add_zero]

include hE

theorem ofFields_exp : ofFields f neg E fr / 2 ^ fmtFrac f % 2 ^ fmtExp f = E := by
  rw [ofFields_div f neg hfr, Nat.mul_add_mod', Nat.mod_eq_of_lt hE]

theorem ofFields_sign : ofFields f neg E fr / 2 ^ (fmtWidth f - 1) = neg.toNat := by
  rw [fmtWidth_eq, Nat.add_sub_cancel, pow_add, ← Nat.div_div_eq_div_mul, ofFields_div f neg hfr, Nat.mul_comm,
    Nat.mul_add_div (by positivity), Nat.div_eq_of_lt hE, add_zero]

theorem ofFields_lt : ofFields f neg E fr < 2 ^ fmtWidth f := by
  have h : ofFields f neg E fr / 2 ^ (fmtWidth f - 1) < 2 := by
    rw [ofFields_sign f neg hE hfr]
    exact neg.toNat_lt
  rw [show fmtWidth f = (fmtWidth f - 1) + 1 by rw [fmtWidth_eq]; rfl, pow_succ]
  have := (Nat.div_lt_iff_lt_mul (by positivity)).1 h
  omega

/-- The value of an encoding by its fields: a finite one below the fields of infinities and NaNs. -/
theorem fpDecode_ofFields (hfin : E < 2 ^ fmtExp f - 1 ∨ (f = .e4m3 ∧ fr ≠ 7)) :
    fpDecode f (ofFields f neg E fr) =
      if E = 0 then .fin neg fr (1 - (fmtBias f : Int) - fmtFrac f) else .fin neg (fr + 2 ^ fmtFrac f) ((E : Int) - fmtBias f - fmtFrac f) := by
  have hsign : (ofFields f neg E fr / 2 ^ (fmtWidth f - 1) % 2 == 1) = neg := by
    rw [ofFields_sign f neg hE hfr]
    cases neg <;> rfl
  simp only [fpDecode, ofFields_frac f neg hfr, ofFields_exp f neg hE hfr, hsign]
  by_cases hf : f = .e4m3
  · rw [if_pos hf, if_neg]
    rintro ⟨rfl, h7⟩
    rcases hfin with h | h
    · exact lt_irrefl _ h
    · exact h.2 h7
  · rw [if_neg hf, if_neg]
    rcases hfin with h | h
    · exact h.ne
    · exact absurd h.1 hf

end Fields

/-- The greatest finite magnitude. -/
noncomputable def maxMag (f : Fmt) : ℝ := ((maxfMant f).1 : ℝ) * 2 ^ (maxfMant f).2

/-- The exponent of the subnormal grid. -/
def subExp (f : Fmt) : ℤ := 1 - (fmtBias f : ℤ) - fmtFrac f

theorem maxfMant_lt (f : Fmt) : (maxfMant f).1 < 2 ^ (fmtFrac f + 1) := by cases f <;> decide

theorem maxMag_lt (f : Fmt) : maxMag f < 2 ^ ((maxfMant f).2 + fmtFrac f + 1) := by
  have hpos := two_zpow_pos (maxfMant f).2
  have h : ((maxfMant f).1 : ℝ) < 2 ^ (fmtFrac f + 1) := by exact_mod_cast maxfMant_lt f
  rw [add_assoc, zpow_add₀ two_ne_zero, mul_comm, ← Nat.cast_succ, zpow_natCast]
  exact mul_lt_mul_of_pos_right h hpos

theorem maxfMant_exp (f : Fmt) : (maxfMant f).2 + fmtFrac f + 1 + fmtBias f = (if f = .e4m3 then 2 ^ fmtExp f else 2 ^ fmtExp f - 1 : ℤ) := by
  cases f <;> rfl

/-- The fields of a value within the range are those of a finite encoding. -/
theorem fields_of_le_maxMag (f : Fmt) {E fr : Nat} (hE : 1 ≤ E)
    (h : ((fr + 2 ^ fmtFrac f : ℕ) : ℝ) * 2 ^ ((E : ℤ) - fmtBias f - fmtFrac f) ≤ maxMag f) :
    E < 2 ^ fmtExp f ∧ (E < 2 ^ fmtExp f - 1 ∨ (f = .e4m3 ∧ fr ≠ 7)) := by
  have hlow : (2 : ℝ) ^ ((E : ℤ) - fmtBias f) ≤ maxMag f := by
    refine le_trans ?_ h
    rw [show (E : ℤ) - fmtBias f = (fmtFrac f : ℕ) + ((E : ℤ) - fmtBias f - fmtFrac f) by omega, zpow_add₀ two_ne_zero, zpow_natCast]
    refine (mul_le_mul_of_nonneg_right ?_ (two_zpow_pos _).le).trans_eq (by congr 2; omega)
    push_cast
    linarith [Nat.cast_nonneg (α := ℝ) fr]
  have hexp := (zpow_lt_zpow_iff_right₀ one_lt_two).1 (hlow.trans_lt (maxMag_lt f))
  have htop := maxfMant_exp f
  by_cases hf : f = .e4m3
  · subst hf
    rw [if_pos rfl] at htop
    have hEle : E < 2 ^ fmtExp .e4m3 := by zify; omega
    refine ⟨hEle, ?_⟩
    by_cases hE15 : E < 2 ^ fmtExp .e4m3 - 1
    · exact .inl hE15
    · refine .inr ⟨rfl, ?_⟩
      rintro rfl
      have : E = 15 := by simp [fmtExp, fmtWidth, fmtFrac] at hEle hE15; omega
      subst this
      norm_num [maxMag, maxfMant, fmtFrac, fmtBias] at h
  · rw [if_neg hf] at htop
    have : (E : ℤ) < 2 ^ fmtExp f - 1 := by omega
    have hlt : E < 2 ^ fmtExp f - 1 := by zify [Nat.one_le_two_pow (n := fmtExp f)]; exact this
    exact ⟨by omega, .inl hlt⟩

theorem encodes_normal (f : Fmt) (neg : Bool) {E fr : Nat} (hE : 1 ≤ E) (hfr : fr < 2 ^ fmtFrac f)
    (h : ((fr + 2 ^ fmtFrac f : ℕ) : ℝ) * 2 ^ ((E : ℤ) - fmtBias f - fmtFrac f) ≤ maxMag f) :
    Claims.encodes f neg (((fr + 2 ^ fmtFrac f : ℕ) : ℝ) * 2 ^ ((E : ℤ) - fmtBias f - fmtFrac f)) (ofFields f neg E fr) := by
  obtain ⟨hlt, hfin⟩ := fields_of_le_maxMag f hE h
  refine ⟨ofFields_lt f neg hlt hfr, _, _, ?_, rfl⟩
  rw [fpDecode_ofFields f neg hlt hfr hfin, if_neg (by omega)]

theorem encodes_subnormal (f : Fmt) (neg : Bool) {fr : Nat} (hfr : fr < 2 ^ fmtFrac f) :
    Claims.encodes f neg ((fr : ℝ) * 2 ^ subExp f) (ofFields f neg 0 fr) := by
  have h0 : 0 < 2 ^ fmtExp f := by positivity
  have htop : 0 < 2 ^ fmtExp f - 1 := by cases f <;> decide
  refine ⟨ofFields_lt f neg h0 hfr, fr, subExp f, ?_, rfl⟩
  rw [fpDecode_ofFields f neg h0 hfr (.inl htop), if_pos rfl]
  rfl

/-! ### `finBits` -/

theorem finBits_zero (f : Fmt) (neg : Bool) (q : Int) : finBits f neg 0 q = signBits f neg := by simp [finBits]

theorem signBits_eq_ofFields (f : Fmt) (neg : Bool) : signBits f neg = ofFields f neg 0 0 := by simp [ofFields]

theorem finBits_normal (f : Fmt) (neg : Bool) {k : Nat} {q : Int} {E : Nat} (hlo : 2 ^ fmtFrac f ≤ k) (hhi : k < 2 ^ (fmtFrac f + 1))
    (hE : 1 ≤ E) (hq : q + fmtFrac f + fmtBias f = E) : finBits f neg k q = ofFields f neg E (k - 2 ^ fmtFrac f) := by
  have hk : k ≠ 0 := by have := Nat.two_pow_pos (fmtFrac f); omega
  unfold finBits
  dsimp only
  rw [if_neg hk, bitLen_eq hlo hhi, if_neg (by push_cast; omega), ofFields]
  have h1 : (q + (fmtFrac f + 1 : ℕ) - 1 + fmtBias f).toNat = E := by omega
  have h2 : q - (q + (fmtFrac f + 1 : ℕ) - 1 - fmtFrac f) = 0 := by push_cast; ring
  rw [h1, h2]
  simp [shiftInt]

theorem finBits_carry (f : Fmt) (neg : Bool) {q : Int} {E : Nat} (hE : 1 ≤ E) (hq : q + fmtFrac f + 1 + fmtBias f = E) :
    finBits f neg (2 ^ (fmtFrac f + 1)) q = ofFields f neg E 0 := by
  have hk : 2 ^ (fmtFrac f + 1) ≠ 0 := by positivity
  have hlen : bitLen (2 ^ (fmtFrac f + 1)) = fmtFrac f + 2 := bitLen_eq le_rfl (Nat.pow_lt_pow_right (by norm_num) (by omega))
  unfold finBits
  dsimp only
  rw [if_neg hk, hlen, if_neg (by push_cast; omega), ofFields]
  have h1 : (q + (fmtFrac f + 2 : ℕ) - 1 + fmtBias f).toNat = E := by omega
  have h2 : q - (q + (fmtFrac f + 2 : ℕ) - 1 - fmtFrac f) = -1 := by push_cast; ring
  rw [h1, h2]
  simp [shiftInt, pow_succ]

theorem finBits_subnormal (f : Fmt) (neg : Bool) {k : Nat} (hk : k < 2 ^ fmtFrac f) : finBits f neg k (subExp f) = ofFields f neg 0 k := by
  by_cases h0 : k = 0
  · rw [h0, finBits_zero, signBits_eq_ofFields]
  · have hlen : bitLen k ≤ fmtFrac f := by
      by_contra hgt
      have := (bitLen_bounds h0).1
      have := Nat.pow_le_pow_right (n := 2) (by norm_num) (by omega : fmtFrac f ≤ bitLen k - 1)
      omega
    unfold finBits subExp
    dsimp only
    rw [if_neg h0, if_pos (by omega), sub_self]
    simp [shiftInt, ofFields]

/-- A value that the format holds is encoded. -/
theorem encodes_finBits (f : Fmt) (neg : Bool) {k : Nat} {q : Int} (hhi : k ≤ 2 ^ (fmtFrac f + 1)) (hlo : 2 ^ fmtFrac f ≤ k ∨ q = subExp f)
    (hmin : (2 : ℝ) ^ (1 - (fmtBias f : ℤ)) ≤ k * 2 ^ q ∨ q = subExp f) (hmax : (k : ℝ) * 2 ^ q ≤ maxMag f) :
    Claims.encodes f neg (k * 2 ^ q) (finBits f neg k q) := by
  have hexp : (k : ℝ) * 2 ^ q ≤ 2 ^ (q + fmtFrac f + 1) := by
    rw [add_assoc, zpow_add₀ two_ne_zero, mul_comm, ← Nat.cast_succ, zpow_natCast]
    exact mul_le_mul_of_nonneg_left (by exact_mod_cast hhi) (two_zpow_pos q).le
  rcases lt_or_ge k (2 ^ fmtFrac f) with hk | hk
  · obtain rfl : q = subExp f := hlo.resolve_left (by omega)
    rw [finBits_subnormal f neg hk]
    exact encodes_subnormal f neg hk
  rcases hhi.lt_or_eq with hk' | rfl
  · have hE : 1 ≤ q + fmtFrac f + fmtBias f := by
      rcases hmin with h | rfl
      · have hlt : (k : ℝ) * 2 ^ q < 2 ^ (q + fmtFrac f + 1) := by
          rw [add_assoc, zpow_add₀ two_ne_zero, mul_comm, ← Nat.cast_succ, zpow_natCast]
          exact mul_lt_mul_of_pos_left (by exact_mod_cast hk') (two_zpow_pos q)
        have := (zpow_lt_zpow_iff_right₀ one_lt_two).1 (h.trans_lt hlt)
        omega
      · unfold subExp; omega
    obtain ⟨E, hEq⟩ := Int.eq_ofNat_of_zero_le (by omega : 0 ≤ q + fmtFrac f + fmtBias f)
    have hval : (k : ℝ) * 2 ^ q = ((k - 2 ^ fmtFrac f + 2 ^ fmtFrac f : ℕ) : ℝ) * 2 ^ ((E : ℤ) - fmtBias f - fmtFrac f) := by
      rw [Nat.sub_add_cancel hk]
      congr 2
      omega
    rw [finBits_normal f neg hk hk' (by omega) hEq, hval]
    exact encodes_normal f neg (by omega) (by rw [pow_succ] at hk'; omega) (hval ▸ hmax)
  · have hE : 1 ≤ q + fmtFrac f + 1 + fmtBias f := by
      rcases hmin with h | rfl
      · have := (zpow_le_zpow_iff_right₀ one_lt_two).1 (h.trans hexp)
        omega
      · unfold subExp; omega
    obtain ⟨E, hEq⟩ := Int.eq_ofNat_of_zero_le (by omega : 0 ≤ q + fmtFrac f + 1 + fmtBias f)
    have hval : ((2 ^ (fmtFrac f + 1) : ℕ) : ℝ) * 2 ^ q = ((0 + 2 ^ fmtFrac f : ℕ) : ℝ) * 2 ^ ((E : ℤ) - fmtBias f - fmtFrac f) := by
      rw [show (E : ℤ) - fmtBias f - fmtFrac f = q + 1 by omega, zpow_add_one₀ two_ne_zero]
      push_cast
      ring
    rw [finBits_carry f neg (by omega) hEq, hval]
    exact encodes_normal f neg (by omega) (by positivity) (hval ▸ hmax)

/-! ### `fpRound` (R265) -/

theorem minMag_le_maxMag (f : Fmt) : (2 : ℝ) ^ (1 - (fmtBias f : ℤ)) ≤ maxMag f := by
  have hm : (1 : ℝ) ≤ (maxfMant f).1 := by exact_mod_cast (by cases f <;> decide : 1 ≤ (maxfMant f).1)
  have he : 1 - (fmtBias f : ℤ) ≤ (maxfMant f).2 := by cases f <;> decide
  calc (2 : ℝ) ^ (1 - (fmtBias f : ℤ)) ≤ 2 ^ (maxfMant f).2 := zpow_le_zpow_right₀ one_le_two he
    _ ≤ maxMag f := le_mul_of_one_le_left (two_zpow_pos _).le hm

theorem minMag_eq (f : Fmt) : (2 : ℝ) ^ (1 - (fmtBias f : ℤ)) = (2 ^ fmtFrac f : ℕ) * 2 ^ subExp f := by
  push_cast
  rw [subExp, ← zpow_natCast, ← zpow_add₀ two_ne_zero]
  congr 1
  omega

/-- The grid on which `fpRound` rounds first. -/
def Exact.grid (x : Exact) (f : Fmt) : ℤ := x.e + bitLen x.m - (fmtFrac f + 1)

section Round

variable {f : Fmt} {x : Exact} {a : ℝ} (h : x.HasMag a) (hm : x.m ≠ 0)
include h hm

theorem Exact.HasMag.pos : 0 < a := (two_zpow_pos _).trans_le (h.bounds hm).1

theorem Exact.HasMag.log_sub : Int.log 2 a - (fmtFrac f : ℤ) = x.grid f := by
  obtain ⟨hlo, hhi⟩ := h.bounds hm
  rw [intLog_eq hlo (by rw [sub_add_cancel]; exact hhi), Exact.grid]
  omega

theorem Exact.HasMag.quot_bounds (f : Fmt) : (2 ^ fmtFrac f : ℕ) ≤ a / 2 ^ x.grid f ∧ a / 2 ^ x.grid f ≤ (2 ^ (fmtFrac f + 1) : ℕ) := by
  obtain ⟨hlo, hhi⟩ := h.bounds hm
  have hpos := two_zpow_pos (x.grid f)
  rw [le_div_iff₀ hpos, div_le_iff₀ hpos]
  push_cast
  rw [← zpow_natCast, ← zpow_natCast, ← zpow_add₀ two_ne_zero, ← zpow_add₀ two_ne_zero]
  constructor
  · rw [show ((fmtFrac f : ℕ) : ℤ) + x.grid f = x.e + bitLen x.m - 1 by unfold Exact.grid; omega]
    exact hlo
  · rw [show ((fmtFrac f + 1 : ℕ) : ℤ) + x.grid f = x.e + bitLen x.m by unfold Exact.grid; push_cast; omega]
    exact hhi.le

theorem Exact.HasMag.round_bounds (f : Fmt) (rm : RMode) :
    2 ^ fmtFrac f ≤ Claims.roundInt rm x.neg (a / 2 ^ x.grid f) ∧ Claims.roundInt rm x.neg (a / 2 ^ x.grid f) ≤ 2 ^ (fmtFrac f + 1) := by
  obtain ⟨hlo, hhi⟩ := h.quot_bounds hm f
  exact ⟨le_roundInt rm x.neg hlo, roundInt_le rm x.neg hhi (by have := h.pos hm; positivity)⟩

/-- Where the first rounding stays below the least normal magnitude, its grid is finer than the subnormal one. -/
theorem Exact.HasMag.below_min (rm : RMode)
    (hlt : Claims.roundInt rm x.neg (a / 2 ^ x.grid f) * (2 : ℝ) ^ x.grid f < 2 ^ (1 - (fmtBias f : ℤ))) :
    x.grid f < subExp f ∧ a ≤ 2 ^ (1 - (fmtBias f : ℤ)) := by
  have hpow : (2 : ℝ) ^ (x.grid f + fmtFrac f) ≤ Claims.roundInt rm x.neg (a / 2 ^ x.grid f) * (2 : ℝ) ^ x.grid f := by
    rw [add_comm, zpow_add₀ two_ne_zero, zpow_natCast]
    exact mul_le_mul_of_nonneg_right (by exact_mod_cast (h.round_bounds hm f rm).1) (two_zpow_pos _).le
  have hexp := (zpow_lt_zpow_iff_right₀ one_lt_two).1 (hpow.trans_lt hlt)
  refine ⟨by unfold subExp; omega, (h.bounds hm).2.le.trans (zpow_le_zpow_right₀ one_le_two ?_)⟩
  unfold Exact.grid at hexp
  omega

/-- The grid of a magnitude within the range divides the greatest one. -/
theorem Exact.HasMag.round_le_maxMag (rm : RMode) (hmax : a ≤ maxMag f) :
    Claims.roundInt rm x.neg (a / 2 ^ x.grid f) * (2 : ℝ) ^ x.grid f ≤ maxMag f := by
  have hgrid := two_zpow_pos (x.grid f)
  have hge : x.grid f ≤ (maxfMant f).2 := by
    have := (zpow_lt_zpow_iff_right₀ one_lt_two).1 (((h.bounds hm).1.trans hmax).trans_lt (maxMag_lt f))
    unfold Exact.grid
    omega
  have hmul : maxMag f = ((maxfMant f).1 * 2 ^ ((maxfMant f).2 - x.grid f).toNat : ℕ) * 2 ^ x.grid f := by
    push_cast
    rw [two_zpow_sub_toNat hge, mul_assoc, div_mul_cancel₀ _ hgrid.ne']
    rfl
  rw [hmul] at hmax ⊢
  have hle := roundInt_le rm x.neg ((div_le_iff₀ hgrid).2 hmax) (by have := h.pos hm; positivity)
  exact mul_le_mul_of_nonneg_right (by exact_mod_cast hle) hgrid.le

end Round

/-- A sticky bit lies below the grid. -/
theorem Exact.lt_grid {f : Fmt} {x : Exact} (hp : 2 ^ (fmtFrac f + 1) ≤ x.m) : x.e < x.grid f := by
  have hm : x.m ≠ 0 := by have := Nat.two_pow_pos (fmtFrac f + 1); omega
  have hlt := hp.trans_lt (bitLen_bounds hm).2.1
  have := (Nat.pow_lt_pow_iff_right (by norm_num : 1 < 2)).1 hlt
  unfold Exact.grid
  omega

/-- What `fpRound` gives of a magnitude that is not zero, by the branches of R265. -/
theorem fpRound_cases {c : FCtl} {f : Fmt} {x : Exact} (hm : x.m ≠ 0) :
    let y := roundAt x (x.grid f) c.rm
    let z := roundAt x (subExp f) c.rm
    let v : ℝ := y.1 * 2 ^ x.grid f
    (maxMag f < v → fpRound c f x = (if ovfInf x.neg c.rm then infResult c f x.neg else maxfBits f x.neg, flagOF ||| flagNX)) ∧
    (v ≤ maxMag f → v < 2 ^ (1 - (fmtBias f : ℤ)) → fpRound c f x = if flushOut c f then (signBits f x.neg, flagUF ||| flagNX)
      else (finBits f x.neg z.1 (subExp f), if z.2 then flagUF ||| flagNX else 0)) ∧
    (v ≤ maxMag f → 2 ^ (1 - (fmtBias f : ℤ)) ≤ v →
      fpRound c f x = (finBits f x.neg y.1 (x.grid f), if y.2 then flagNX else 0)) := by
  intro y z v
  have hover : dyLt (maxfMant f).1 (maxfMant f).2 y.1 (x.grid f) = true ↔ maxMag f < v := dyLt_iff ..
  have hunder : dyLt y.1 (x.grid f) 1 (1 - (fmtBias f : ℤ)) = true ↔ v < 2 ^ (1 - (fmtBias f : ℤ)) := by
    rw [dyLt_iff, Nat.cast_one, one_mul]
  have hdef : fpRound c f x = if dyLt (maxfMant f).1 (maxfMant f).2 y.1 (x.grid f) = true then
        (if ovfInf x.neg c.rm then infResult c f x.neg else maxfBits f x.neg, flagOF ||| flagNX)
      else if dyLt y.1 (x.grid f) 1 (1 - (fmtBias f : ℤ)) = true then
        (if flushOut c f then (signBits f x.neg, flagUF ||| flagNX)
          else (finBits f x.neg z.1 (subExp f), if z.2 then flagUF ||| flagNX else 0))
      else (finBits f x.neg y.1 (x.grid f), if y.2 then flagNX else 0) := if_neg fun h => hm h.1
  rw [hdef]
  refine ⟨fun h => if_pos (hover.2 h), fun h h' => ?_, fun h h' => ?_⟩
  · rw [if_neg (mt hover.1 h.not_gt), if_pos (hunder.2 h')]
  · rw [if_neg (mt hover.1 h.not_gt), if_neg (mt hunder.1 h'.not_gt)]

/-- R265: `fpRound` rounds the value that its argument stands for. -/
theorem rounds_fpRound {c : FCtl} {f : Fmt} {x : Exact} {a v : ℝ} {zneg : Bool} (h : x.HasMag a)
    (hp : x.sticky = true → 2 ^ (fmtFrac f + 1) ≤ x.m) (hv : v = (if x.neg then -1 else 1) * a) (hz : x.m = 0 → zneg = x.neg) :
    Claims.Rounds c f zneg v (fpRound c f x) := by
  by_cases hm : x.m = 0
  · have hs : x.sticky = false := by
      by_contra hs
      have := hp (by simpa using hs)
      have := Nat.two_pow_pos (fmtFrac f + 1)
      omega
    have hv0 : v = 0 := by
      unfold Exact.HasMag at h
      rw [hs, if_neg Bool.false_ne_true, hm] at h
      rw [hv, h]
      simp
    refine ⟨fun _ => ?_, fun neg hneg => absurd hneg (by rw [hv0]; split <;> simp)⟩
    rw [hz hm]
    exact if_pos ⟨hm, by simp [hs]⟩
  · have ha := h.pos hm
    have hv0 : v ≠ 0 := by rw [hv]; split <;> simp [ha.ne']
    have habs : |v| = a := by rw [hv]; split <;> simp [ha.le]
    refine ⟨fun h0 => absurd h0 hv0, fun neg hneg => ?_⟩
    obtain rfl : neg = x.neg := by
      revert hneg
      rw [hv]
      cases neg <;> cases x.neg <;> simp [ha.le]
    obtain ⟨hover, hunder, hnormal⟩ := fpRound_cases (c := c) (f := f) hm
    obtain ⟨hy, hyx⟩ := roundAt_eq h (q := x.grid f) c.rm fun hs => Exact.lt_grid (hp hs)
    obtain ⟨hlo, hhi⟩ := h.round_bounds hm f c.rm
    rw [habs, h.log_sub hm]
    rw [hy] at hover hunder hnormal
    have hgrid := two_zpow_pos (x.grid f)
    intro grid y maxf minn sub z
    have hyn : y = a ↔ a / grid = Claims.roundInt c.rm x.neg (a / grid) := by rw [div_eq_iff hgrid.ne', eq_comm]
    refine ⟨fun hlt => ?_, fun hlt hf => ?_, fun hlt hf => ?_, fun hge hle => ?_⟩
    · rw [hover hlt]
      refine ⟨rfl, ?_⟩
      cases c.rm <;> cases x.neg <;> cases hs : c.sat <;> simp [ovfInf, infResult, hs]
    · rw [hunder ((hlt.trans_le (minMag_le_maxMag f)).le) hlt, hf]
      rfl
    · obtain ⟨hgs, hamin⟩ := h.below_min hm c.rm hlt
      obtain ⟨hz1, hz2⟩ := roundAt_eq h (q := subExp f) c.rm fun hs => (Exact.lt_grid (hp hs)).trans hgs
      have hsubpos : 0 < sub := two_zpow_pos _
      have hzn : z = a ↔ a / sub = Claims.roundInt c.rm x.neg (a / sub) := by rw [div_eq_iff hsubpos.ne', eq_comm]
      rw [hunder ((hlt.trans_le (minMag_le_maxMag f)).le) hlt, hf, hz1]
      have hminn : minn = (2 ^ fmtFrac f : ℕ) * sub := minMag_eq f
      have hzle : Claims.roundInt c.rm x.neg (a / sub) ≤ 2 ^ fmtFrac f :=
        roundInt_le _ _ (by rw [div_le_iff₀ hsubpos, ← hminn]; exact hamin) (by positivity)
      have hzmax : z ≤ maxMag f := by
        refine le_trans ?_ (minMag_le_maxMag f)
        change _ ≤ minn
        rw [hminn]
        exact mul_le_mul_of_nonneg_right (by exact_mod_cast hzle) hsubpos.le
      refine ⟨encodes_finBits f x.neg (hzle.trans (Nat.pow_le_pow_right (by norm_num) (by omega))) (.inr rfl) (.inr rfl) hzmax, fun he => ?_,
        fun he => ?_⟩
      · have : (roundAt x (subExp f) c.rm).2 = false := by rw [← Bool.not_eq_true, hz2, not_not]; exact hzn.1 he
        simp [this]
      · have : (roundAt x (subExp f) c.rm).2 = true := hz2.2 fun he' => he (hzn.2 he')
        simp [this]
    · rw [hnormal hle hge]
      refine ⟨encodes_finBits f x.neg hhi (.inl hlo) (.inl hge) hle, fun he => ?_, fun he => ?_⟩
      · have : (roundAt x (x.grid f) c.rm).2 = false := by rw [← Bool.not_eq_true, hyx, not_not]; exact hyn.1 he
        simp [this]
      · have : (roundAt x (x.grid f) c.rm).2 = true := hyx.2 fun he' => he (hyn.2 he')
        simp [this]

/-! ### The best value of a format (R264) -/

/-- `R` is what mode `rm` takes for the magnitude `X` below a sign, as against `w`; a tie goes to `R` only where it is even. -/
def Best (rm : RMode) (neg : Bool) (X R w : ℝ) (even : Prop) : Prop :=
  match rm, neg with
  | .rne, _ => |X - R| ≤ |X - w| ∧ (|X - R| = |X - w| → w ≠ R → even)
  | .rdn, true | .rup, false => X ≤ R ∧ (X ≤ w → R ≤ w)
  | _, _ => R ≤ X ∧ (w ≤ X → w ≤ R)

theorem roundInt_rtz (neg : Bool) (t : ℝ) : Claims.roundInt .rtz neg t = ⌊t⌋₊ := roundInt_of_not_up id

theorem roundInt_rdn_false (t : ℝ) : Claims.roundInt .rdn false t = ⌊t⌋₊ := roundInt_of_not_up (by simp [RoundsUp])

theorem roundInt_rup_true (t : ℝ) : Claims.roundInt .rup true t = ⌊t⌋₊ := roundInt_of_not_up (by simp [RoundsUp])

/-- Rounding up gives the ceiling. -/
theorem roundInt_ceil {rm : RMode} {neg : Bool} {t : ℝ} (h : RoundsUp rm neg t ↔ t ≠ ⌊t⌋₊) (h0 : 0 ≤ t) :
    Claims.roundInt rm neg t = ⌈t⌉₊ := by
  by_cases ht : t = ⌊t⌋₊
  · rw [roundInt_of_not_up (by rw [h]; exact fun hn => hn ht), ht, Nat.floor_natCast, Nat.ceil_natCast]
  · rw [roundInt_of_up (h.2 ht)]
    symm
    rw [Nat.ceil_eq_iff (by omega)]
    exact ⟨by simpa using (Nat.floor_le h0).lt_of_ne' ht, by push_cast; exact (Nat.lt_floor_add_one t).le⟩

/-- The integer nearest to a number, and the even one on a tie. -/
theorem roundInt_rne_best {t : ℝ} (neg : Bool) (h0 : 0 ≤ t) (n : ℤ) :
    |t - Claims.roundInt .rne neg t| ≤ |t - n| ∧
      (|t - Claims.roundInt .rne neg t| = |t - n| → (n : ℝ) ≠ Claims.roundInt .rne neg t → Claims.roundInt .rne neg t % 2 = 0) := by
  have hlo := Nat.floor_le h0
  have hhi := Nat.lt_floor_add_one t
  have hn : (n : ℝ) ≤ ⌊t⌋₊ ∨ (⌊t⌋₊ : ℝ) + 1 ≤ n := by
    rcases le_or_gt n ⌊t⌋₊ with h | h
    · exact .inl (by exact_mod_cast h)
    · exact .inr (by exact_mod_cast h)
  by_cases hup : RoundsUp .rne neg t
  · rw [roundInt_of_up hup]
    simp only [RoundsUp] at hup
    push_cast
    rw [abs_of_nonpos (by linarith : t - (⌊t⌋₊ + 1) ≤ 0)]
    rcases hn with h | h
    · rw [abs_of_nonneg (by linarith : 0 ≤ t - (n : ℝ))]
      refine ⟨by rcases hup with h' | h' <;> linarith [h'], fun he _ => ?_⟩
      rcases hup with h' | ⟨_, h'⟩
      · linarith
      · omega
    · rw [abs_of_nonpos (by linarith : t - (n : ℝ) ≤ 0)]
      exact ⟨by linarith, fun he hne => absurd (by linarith) hne⟩
  · rw [roundInt_of_not_up hup]
    simp only [RoundsUp, not_or, not_and, not_lt, gt_iff_lt] at hup
    obtain ⟨hle, htie⟩ := hup
    rw [abs_of_nonneg (by linarith : 0 ≤ t - (⌊t⌋₊ : ℝ))]
    rcases hn with h | h
    · rw [abs_of_nonneg (by linarith : 0 ≤ t - (n : ℝ))]
      exact ⟨by linarith, fun he hne => absurd (by linarith) hne⟩
    · rw [abs_of_nonpos (by linarith : t - (n : ℝ) ≤ 0)]
      refine ⟨by linarith, fun he _ => ?_⟩
      have := htie (by linarith)
      omega

theorem best_int (rm : RMode) (neg : Bool) {t : ℝ} (h0 : 0 ≤ t) (n : ℤ) :
    Best rm neg t (Claims.roundInt rm neg t) n (Claims.roundInt rm neg t % 2 = 0) := by
  have hdown : (⌊t⌋₊ : ℝ) ≤ t ∧ ((n : ℝ) ≤ t → (n : ℝ) ≤ ⌊t⌋₊) := by
    refine ⟨Nat.floor_le h0, fun h => ?_⟩
    rw [natCast_floor_eq_intCast_floor h0]
    exact_mod_cast Int.le_floor.2 h
  have hup : t ≤ ⌈t⌉₊ ∧ (t ≤ n → (⌈t⌉₊ : ℝ) ≤ n) := by
    refine ⟨Nat.le_ceil t, fun h => ?_⟩
    rw [natCast_ceil_eq_intCast_ceil h0]
    exact_mod_cast Int.ceil_le.2 h
  cases rm
  case rne => exact roundInt_rne_best neg h0 n
  case rtz =>
    rw [roundInt_rtz]
    exact hdown
  case rdn =>
    cases neg
    · rw [roundInt_rdn_false]
      exact hdown
    · rw [roundInt_ceil (by simp [RoundsUp]) h0]
      exact hup
  case rup =>
    cases neg
    · rw [roundInt_ceil (by simp [RoundsUp]) h0]
      exact hup
    · rw [roundInt_rup_true]
      exact hdown

theorem Best.imp {rm : RMode} {neg : Bool} {X R w : ℝ} {even even' : Prop} (h : Best rm neg X R w even) (himp : even → even') :
    Best rm neg X R w even' := by
  cases rm
  case rne => exact ⟨h.1, fun he hne => himp (h.2 he hne)⟩
  all_goals cases neg <;> exact h

theorem Best.mul {rm : RMode} {neg : Bool} {X R w : ℝ} {even : Prop} (h : Best rm neg X R w even) {G : ℝ} (hG : 0 < G) :
    Best rm neg (X * G) (R * G) (w * G) even := by
  have habs : ∀ p q : ℝ, |p * G - q * G| = |p - q| * G := fun p q => by rw [← sub_mul, abs_mul, abs_of_pos hG]
  have hne : w * G ≠ R * G → w ≠ R := fun h e => h (by rw [e])
  cases rm <;> cases neg <;> simp only [Best, habs, mul_le_mul_iff_left₀ hG, mul_left_inj' hG.ne'] at h ⊢
  case rne.false | rne.true => exact ⟨h.1, fun he hn => h.2 he (hne hn)⟩
  all_goals exact h

/-- Below a value of the format that is no greater than the magnitude nothing is better. -/
theorem Best.of_lt {rm : RMode} {neg : Bool} {X R B w : ℝ} {even even' : Prop} (h : Best rm neg X R B even) (hw : w < B) (hB : B ≤ X) :
    Best rm neg X R w even' := by
  have hlt : |X - B| < |X - w| := by
    rw [abs_of_nonneg (by linarith : 0 ≤ X - B), abs_of_nonneg (by linarith : 0 ≤ X - w)]
    linarith
  cases rm <;> cases neg <;> simp only [Best] at h ⊢ <;> obtain ⟨h1, h2⟩ := h
  case rne.false | rne.true => exact ⟨(h1.trans_lt hlt).le, fun he => absurd he (h1.trans_lt hlt).ne⟩
  case rdn.true | rup.false => exact ⟨h1, fun hx => absurd (hw.trans_le hB) hx.not_gt⟩
  all_goals exact ⟨h1, fun _ => hw.le.trans (h2 hB)⟩

/-! ### The result of `fpRound` within the range -/

/-- Rounding up to an even number is rounding up on the grid twice as coarse. -/
theorem roundInt_half {rm : RMode} {neg : Bool} {t : ℝ} {N : ℕ} (h0 : 0 ≤ t) (hN : t ≤ (2 * N : ℕ)) (h : Claims.roundInt rm neg t = 2 * N) :
    Claims.roundInt rm neg (t / 2) = N := by
  rcases hN.lt_or_eq with hlt | rfl
  · have hN0 : 0 < N := by
      by_contra h0'
      obtain rfl : N = 0 := by omega
      simp at hlt
      linarith
    have hfl : ⌊t⌋₊ < 2 * N := (Nat.floor_lt h0).2 hlt
    have hup : RoundsUp rm neg t := by
      by_contra hup
      rw [roundInt_of_not_up hup] at h
      omega
    have hfloor : ⌊t⌋₊ = 2 * N - 1 := by
      rw [roundInt_of_up hup] at h
      omega
    have hfl' : ((2 * N - 1 : ℕ) : ℝ) = 2 * N - 1 := by
      rw [Nat.cast_sub (by omega)]
      push_cast
      ring
    have ht := Nat.floor_le h0
    rw [hfloor, hfl'] at ht
    have hhalf : ⌊t / 2⌋₊ = N - 1 := by
      rw [Nat.floor_eq_iff (by positivity), Nat.cast_sub hN0]
      push_cast at hlt ⊢
      constructor <;> linarith
    have hcast : ((N - 1 : ℕ) : ℝ) = N - 1 := by
      rw [Nat.cast_sub hN0]
      push_cast
      ring
    have hup' : RoundsUp rm neg (t / 2) := by
      cases rm
      case rne =>
        simp only [RoundsUp, hfloor, hfl', hhalf, hcast] at hup ⊢
        exact .inl (by rcases hup with h | h <;> linarith [h])
      case rtz => exact hup
      all_goals exact ⟨hup.1, by rw [hhalf, hcast]; exact fun he => by linarith⟩
    rw [roundInt_of_up hup', hhalf]
    omega
  · rw [show ((2 * N : ℕ) : ℝ) / 2 = (N : ℕ) by push_cast; ring, roundInt_natCast]

/-- The exponent of the grid on which `fpRound` in the end rounds. -/
def Exact.lastGrid (x : Exact) (f : Fmt) : ℤ := Max.max (x.grid f) (subExp f)

theorem nx_clear_iff {p : Prop} {fl fl' : Flags} (hnx : fl' &&& flagNX ≠ 0) (h0 : p → fl = 0) (h1 : ¬p → fl = fl') :
    fl &&& flagNX = 0 ↔ p := by
  by_cases hp : p
  · rw [h0 hp]
    exact iff_of_true (by decide) hp
  · rw [h1 hp]
    exact iff_of_false hnx hp

/-- Within the range `fpRound` rounds to the format's grid at the value, or at the subnormals. -/
theorem fpRound_in_range {c : FCtl} {f : Fmt} {x : Exact} {a : ℝ} (h : x.HasMag a) (hm : x.m ≠ 0)
    (hp : x.sticky = true → 2 ^ (fmtFrac f + 1) ≤ x.m) (hflush : flushOut c f = false) (hmax : a ≤ maxMag f) :
    let K := Claims.roundInt c.rm x.neg (a / 2 ^ x.lastGrid f)
    Claims.encodes f x.neg (K * 2 ^ x.lastGrid f) (fpRound c f x).1 ∧ ((fpRound c f x).2 &&& flagNX = 0 ↔ a = K * 2 ^ x.lastGrid f) ∧
      K ≤ 2 ^ (fmtFrac f + 1) := by
  intro K
  have hapos := h.pos hm
  have habs : |(if x.neg then -1 else 1) * a| = a := by split <;> simp [hapos.le]
  have hsign : if x.neg = true then (if x.neg then -1 else 1) * a < 0 else 0 < (if x.neg then -1 else 1) * a := by split <;> simp [hapos]
  obtain ⟨-, hrounds⟩ := rounds_fpRound (c := c) (zneg := x.neg) h hp rfl fun _ => rfl
  obtain ⟨hover, -, hunder, hnormal⟩ := hrounds x.neg hsign
  rw [habs, h.log_sub hm] at hover hunder hnormal
  obtain ⟨hlo, hhi⟩ := h.round_bounds hm f c.rm
  have hgrid := two_zpow_pos (x.grid f)
  have hle := h.round_le_maxMag hm c.rm hmax
  rcases lt_or_ge (Claims.roundInt c.rm x.neg (a / 2 ^ x.grid f) * (2 : ℝ) ^ x.grid f) (2 ^ (1 - (fmtBias f : ℤ))) with hlt | hge
  · obtain ⟨hgs, hamin⟩ := h.below_min hm c.rm hlt
    obtain ⟨henc, hexact, hinexact⟩ := hunder hlt hflush
    have hK : K = Claims.roundInt c.rm x.neg (a / 2 ^ subExp f) := by rw [← max_eq_right hgs.le]; rfl
    have hKle : K ≤ 2 ^ fmtFrac f := by
      rw [hK]
      exact roundInt_le _ _ (by rw [div_le_iff₀ (two_zpow_pos _), ← minMag_eq]; exact hamin) (by positivity)
    rw [hK, Exact.lastGrid, max_eq_right hgs.le]
    exact ⟨henc, nx_clear_iff (by decide) (fun he => hexact he.symm) (fun he => hinexact fun he' => he he'.symm),
      (hK ▸ hKle).trans (Nat.pow_le_pow_right (by norm_num) (by omega))⟩
  · obtain ⟨henc, hexact, hinexact⟩ := hnormal hge hle
    have hnx := nx_clear_iff (by decide) (fun he => hexact he.symm) (fun he => hinexact fun he' => he he'.symm)
    rcases le_or_gt (subExp f) (x.grid f) with hs | hs
    · have hg : x.lastGrid f = x.grid f := max_eq_left hs
      have hK : K = Claims.roundInt c.rm x.neg (a / 2 ^ x.grid f) := by rw [← hg]
      rw [hK, hg]
      exact ⟨henc, hnx, hhi⟩
    · -- the value rounds up to the least normal magnitude, on the subnormal grid as on the finer one
      have htop : (2 : ℝ) ^ (1 - (fmtBias f : ℤ)) ≤ 2 ^ (x.grid f + fmtFrac f + 1) := by
        refine hge.trans ?_
        rw [add_assoc, zpow_add₀ two_ne_zero, mul_comm, ← Nat.cast_succ, zpow_natCast]
        exact mul_le_mul_of_nonneg_left (by exact_mod_cast hhi) hgrid.le
      have hexp := (zpow_le_zpow_iff_right₀ one_lt_two).1 htop
      have hsub : subExp f = x.grid f + 1 := by unfold subExp at hs ⊢; omega
      have hround : Claims.roundInt c.rm x.neg (a / 2 ^ x.grid f) = 2 * 2 ^ fmtFrac f := by
        rw [minMag_eq, hsub, zpow_add_one₀ two_ne_zero] at hge
        have : ((2 ^ fmtFrac f : ℕ) : ℝ) * 2 ≤ Claims.roundInt c.rm x.neg (a / 2 ^ x.grid f) := by
          refine le_of_mul_le_mul_right ?_ hgrid
          linarith
        have : 2 ^ fmtFrac f * 2 ≤ Claims.roundInt c.rm x.neg (a / 2 ^ x.grid f) := by exact_mod_cast this
        rw [pow_succ] at hhi
        omega
      have hhalf := roundInt_half (by positivity) (N := 2 ^ fmtFrac f) ((h.quot_bounds hm f).2.trans_eq (by push_cast; ring)) hround
      have hg : x.lastGrid f = x.grid f + 1 := (max_eq_right hs.le).trans hsub
      have hK : K = 2 ^ fmtFrac f := by
        rw [← hhalf, div_div, ← zpow_add_one₀ two_ne_zero, ← hg]
      have hval : (K : ℝ) * 2 ^ x.lastGrid f = Claims.roundInt c.rm x.neg (a / 2 ^ x.grid f) * 2 ^ x.grid f := by
        rw [hK, hg, hround, zpow_add_one₀ two_ne_zero]
        push_cast
        ring
      rw [hval]
      exact ⟨henc, hnx, by rw [hK]; exact Nat.pow_le_pow_right (by norm_num) (by omega)⟩

/-- What a finite decoding says of its mantissa and exponent. -/
theorem fpDecode_fin {f : Fmt} {bits : Nat} {neg : Bool} {m : Nat} {e : Int} (h : fpDecode f bits = .fin neg m e) :
    subExp f ≤ e ∧ m < 2 ^ (fmtFrac f + 1) ∧ (subExp f < e → 2 ^ fmtFrac f ≤ m) ∧ bits % 2 = m % 2 := by
  have hfrac : bits % 2 ^ fmtFrac f < 2 ^ fmtFrac f := Nat.mod_lt _ (by positivity)
  have heven : (2 : ℕ) ∣ 2 ^ fmtFrac f := dvd_pow_self 2 (by cases f <;> decide)
  have hpar : bits % 2 = bits % 2 ^ fmtFrac f % 2 := (Nat.mod_mod_of_dvd bits heven).symm
  have hpar' : (bits % 2 ^ fmtFrac f + 2 ^ fmtFrac f) % 2 = bits % 2 := by rw [hpar]; omega
  have hsub : FVal.fin (bits / 2 ^ (fmtWidth f - 1) % 2 == 1) (bits % 2 ^ fmtFrac f) (1 - (fmtBias f : Int) - fmtFrac f) = .fin neg m e →
      subExp f ≤ e ∧ m < 2 ^ (fmtFrac f + 1) ∧ (subExp f < e → 2 ^ fmtFrac f ≤ m) ∧ bits % 2 = m % 2 := by
    intro h
    obtain ⟨-, rfl, rfl⟩ := FVal.fin.inj h
    exact ⟨le_rfl, by rw [pow_succ]; omega, fun hlt => absurd hlt (lt_irrefl _), hpar⟩
  have hnorm : bits / 2 ^ fmtFrac f % 2 ^ fmtExp f ≠ 0 → FVal.fin (bits / 2 ^ (fmtWidth f - 1) % 2 == 1) (bits % 2 ^ fmtFrac f + 2 ^ fmtFrac f)
      ((bits / 2 ^ fmtFrac f % 2 ^ fmtExp f : ℕ) - (fmtBias f : Int) - fmtFrac f) = .fin neg m e →
      subExp f ≤ e ∧ m < 2 ^ (fmtFrac f + 1) ∧ (subExp f < e → 2 ^ fmtFrac f ≤ m) ∧ bits % 2 = m % 2 := by
    intro h0 h
    obtain ⟨-, rfl, rfl⟩ := FVal.fin.inj h
    exact ⟨by unfold subExp; omega, by rw [pow_succ]; omega, fun _ => Nat.le_add_left .., hpar'.symm⟩
  unfold fpDecode at h
  dsimp only at h
  split at h
  · split at h
    · exact absurd h (by simp)
    · split at h
      · exact hsub h
      · next h0 => exact hnorm h0 h
  · split at h
    · split at h <;> exact absurd h (by simp)
    · split at h
      · exact hsub h
      · next h0 => exact hnorm h0 h

section InRange

variable {f : Fmt} {x : Exact} {a : ℝ} (h : x.HasMag a) (hm : x.m ≠ 0)
include h hm

theorem Exact.HasMag.le_lastRound (f : Fmt) (rm : RMode) :
    2 ^ fmtFrac f ≤ Claims.roundInt rm x.neg (a / 2 ^ x.lastGrid f) ∧ (2 : ℝ) ^ (fmtFrac f + x.lastGrid f) ≤ a ∨ x.lastGrid f = subExp f := by
  rcases le_or_gt (subExp f) (x.grid f) with hs | hs
  · have hg : x.lastGrid f = x.grid f := max_eq_left hs
    rw [hg]
    refine .inl ⟨(h.round_bounds hm f rm).1, (le_of_eq ?_).trans (h.bounds hm).1⟩
    unfold Exact.grid
    congr 1
    omega
  · exact .inr (max_eq_right hs.le)

/-- No value of the format is better than the one that `fpRound` gives. -/
theorem best_of_held (rm : RMode) {bits : Nat} {n : Bool} {m : Nat} {e : Int} (hv : fpDecode f bits = .fin n m e) {s : ℤ} (hs : s = 1 ∨ s = -1) :
    Best rm x.neg a (Claims.roundInt rm x.neg (a / 2 ^ x.lastGrid f) * 2 ^ x.lastGrid f) (s * (m * 2 ^ e))
      (Claims.roundInt rm x.neg (a / 2 ^ x.lastGrid f) % 2 = 0) := by
  obtain ⟨hsub, hlt, -, -⟩ := fpDecode_fin hv
  have hg := two_zpow_pos (x.lastGrid f)
  have hapos := h.pos hm
  have hmul : ∀ n : ℤ, Best rm x.neg a (Claims.roundInt rm x.neg (a / 2 ^ x.lastGrid f) * 2 ^ x.lastGrid f) (n * 2 ^ x.lastGrid f)
      (Claims.roundInt rm x.neg (a / 2 ^ x.lastGrid f) % 2 = 0) := by
    intro n
    have := (best_int rm x.neg (t := a / 2 ^ x.lastGrid f) (by positivity) n).mul hg
    rwa [div_mul_cancel₀ _ hg.ne'] at this
  rcases le_or_gt (x.lastGrid f) e with he | he
  · have := hmul (s * (m * 2 ^ (e - x.lastGrid f).toNat : ℕ))
    push_cast at this
    rwa [two_zpow_sub_toNat he, mul_assoc (s : ℝ), mul_assoc (m : ℝ), div_mul_cancel₀ _ hg.ne'] at this
  · have hB := ((h.le_lastRound hm f rm).resolve_right (by omega)).2
    refine (hmul (2 ^ fmtFrac f)).of_lt (B := _) ?_ ?_
    · have hm' : (m : ℝ) * 2 ^ e < 2 ^ (fmtFrac f + x.lastGrid f) := by
        have h1 : (m : ℝ) < 2 ^ (fmtFrac f + 1) := by exact_mod_cast hlt
        calc (m : ℝ) * 2 ^ e < 2 ^ (fmtFrac f + 1) * 2 ^ e := mul_lt_mul_of_pos_right h1 (two_zpow_pos e)
          _ = 2 ^ ((fmtFrac f : ℤ) + 1 + e) := by rw [zpow_add₀ two_ne_zero, ← Nat.cast_succ, zpow_natCast]
          _ ≤ 2 ^ (fmtFrac f + x.lastGrid f) := zpow_le_zpow_right₀ one_le_two (by omega)
      have hpos : 0 ≤ (m : ℝ) * 2 ^ e := by positivity
      push_cast
      rw [zpow_add₀ two_ne_zero, zpow_natCast] at hm'
      rcases hs with rfl | rfl
      · simpa using hm'
      · push_cast
        linarith
    · push_cast
      rwa [zpow_add₀ two_ne_zero, zpow_natCast] at hB

/-- An even multiple of the grid has an even code. -/
theorem even_code (rm : RMode) {bits : Nat} {n : Bool} {m : Nat} {e : Int} (hv : fpDecode f bits = .fin n m e)
    (hval : (m : ℝ) * 2 ^ e = Claims.roundInt rm x.neg (a / 2 ^ x.lastGrid f) * 2 ^ x.lastGrid f)
    (hle : Claims.roundInt rm x.neg (a / 2 ^ x.lastGrid f) ≤ 2 ^ (fmtFrac f + 1))
    (heven : Claims.roundInt rm x.neg (a / 2 ^ x.lastGrid f) % 2 = 0) : bits % 2 = 0 := by
  obtain ⟨hsub, hlt, hnormal, hpar⟩ := fpDecode_fin hv
  have hlow := h.le_lastRound hm f rm
  have hg := two_zpow_pos (x.lastGrid f)
  generalize Claims.roundInt rm x.neg (a / 2 ^ x.lastGrid f) = K at *
  have he : x.lastGrid f ≤ e := by
    rcases hlow with ⟨hK, -⟩ | hg'
    · have h1 : (2 : ℝ) ^ ((fmtFrac f : ℤ) + x.lastGrid f) ≤ K * 2 ^ x.lastGrid f := by
        rw [zpow_add₀ two_ne_zero, zpow_natCast]
        exact mul_le_mul_of_nonneg_right (by exact_mod_cast hK) hg.le
      have h2 : (m : ℝ) * 2 ^ e < 2 ^ ((fmtFrac f : ℤ) + 1 + e) := by
        rw [zpow_add₀ two_ne_zero, ← Nat.cast_succ, zpow_natCast]
        exact mul_lt_mul_of_pos_right (by exact_mod_cast hlt) (two_zpow_pos e)
      have := (zpow_lt_zpow_iff_right₀ one_lt_two).1 ((h1.trans_eq hval.symm).trans_lt h2)
      omega
    · omega
  have hK : m * 2 ^ (e - x.lastGrid f).toNat = K := by
    have : (m : ℝ) * 2 ^ (e - x.lastGrid f).toNat = K := by
      rw [two_zpow_sub_toNat he, mul_div_assoc', hval, mul_div_cancel_right₀ _ hg.ne']
    exact_mod_cast this
  rw [hpar]
  rcases he.lt_or_eq with hlt' | heq
  · have hfull := hnormal (by have := le_max_right (x.grid f) (subExp f); unfold Exact.lastGrid at hlt'; omega)
    have hstep : 2 ≤ 2 ^ (e - x.lastGrid f).toNat := by
      calc 2 = 2 ^ 1 := rfl
        _ ≤ _ := Nat.pow_le_pow_right (by norm_num) (by omega)
    have hmle : m * 2 ≤ 2 ^ fmtFrac f * 2 := (Nat.mul_le_mul_left m hstep).trans (by rw [hK, ← pow_succ]; exact hle)
    obtain rfl : m = 2 ^ fmtFrac f := by omega
    exact Nat.mod_eq_zero_of_dvd (dvd_pow_self 2 (by cases f <;> decide))
  · rw [heq] at hK
    simp at hK
    omega

end InRange

theorem cast_value (neg : Bool) (m : Nat) (e : Int) : ((Claims.value neg m e : ℚ) : ℝ) = Claims.real neg m e := by
  unfold Claims.value Claims.real
  split <;> push_cast <;> ring

/-- `r` is what mode `rm` takes for `x`, as against `v`. -/
def BestSigned (rm : RMode) (x r v : ℚ) (even : Prop) : Prop :=
  match rm with
  | .rne => |x - r| ≤ |x - v| ∧ (|x - r| = |x - v| → v ≠ r → even)
  | .rtz => (0 ≤ x → 0 ≤ r ∧ r ≤ x ∧ (v ≤ x → v ≤ r)) ∧ (x ≤ 0 → r ≤ 0 ∧ x ≤ r ∧ (x ≤ v → r ≤ v))
  | .rdn => r ≤ x ∧ (v ≤ x → v ≤ r)
  | .rup => x ≤ r ∧ (x ≤ v → r ≤ v)

/-- What a mode takes for a magnitude is what it takes for the value with its sign. -/
theorem best_signed {rm : RMode} {neg : Bool} {X R w : ℝ} {even : Prop} (h : Best rm neg X R w even) (hX : 0 < X) (hR : 0 ≤ R) {x r v : ℚ}
    (hx : (x : ℝ) = (if neg then -1 else 1) * X) (hr : (r : ℝ) = (if neg then -1 else 1) * R) (hv : (v : ℝ) = (if neg then -1 else 1) * w) :
    BestSigned rm x r v even := by
  have habs : ∀ p q : ℝ, |(if neg = true then -1 else 1) * p - (if neg = true then -1 else 1) * q| = |p - q| := by
    intro p q
    rw [← mul_sub, abs_mul]
    cases neg <;> simp
  cases rm <;> unfold BestSigned
  case rne =>
    obtain ⟨h1, h2⟩ := h
    rw [← habs X R, ← habs X w, ← hx, ← hr, ← hv] at h1 h2
    refine ⟨by exact_mod_cast h1, fun he hne => h2 (by exact_mod_cast he) fun hw => hne ?_⟩
    have : (v : ℝ) = r := by rw [hv, hr, hw]
    exact_mod_cast this
  case rtz =>
    simp only [← Rat.cast_le (K := ℝ), Rat.cast_zero, hx, hr, hv]
    obtain ⟨h1, h2⟩ : R ≤ X ∧ (w ≤ X → w ≤ R) := by cases neg <;> exact h
    cases neg <;> simp only [Bool.false_eq_true, if_true, if_false, one_mul, neg_mul, neg_le_neg_iff]
    · exact ⟨fun _ => ⟨hR, h1, h2⟩, fun h0 => absurd h0 hX.not_ge⟩
    · exact ⟨fun h0 => absurd h0 (by linarith), fun _ => ⟨by linarith, h1, h2⟩⟩
  all_goals
    simp only [← Rat.cast_le (K := ℝ), hx, hr, hv]
    cases neg <;> simp only [Bool.false_eq_true, if_true, if_false, one_mul, neg_mul, neg_le_neg_iff] <;> exact h

theorem hasMag_exact (neg : Bool) (m : Nat) (e : Int) : Exact.HasMag ⟨neg, m, e, false⟩ ((m : ℝ) * 2 ^ e) := by simp [Exact.HasMag]

/-- R264, R265. -/
theorem roundingModes : Claims.RoundingModes := by
  refine ⟨fun c f neg m e => rounds_fpRound (hasMag_exact neg m e) (fun hs => absurd hs Bool.false_ne_true) (mul_assoc ..) fun _ => rfl, ?_⟩
  intro c f neg m e hflush hle
  have hle' : (m : ℝ) * 2 ^ e ≤ maxMag f := by
    have := (Rat.cast_le (K := ℝ)).2 hle
    push_cast at this
    exact this
  by_cases hm : m = 0
  · subst hm
    have hr : fpRound c f ⟨neg, 0, e, false⟩ = (signBits f neg, 0) := if_pos ⟨rfl, rfl⟩
    have h0 : ∀ n e, Claims.value n 0 e = 0 := fun n e => by simp [Claims.value]
    have hdec : fpDecode f (signBits f neg) = .fin neg 0 (subExp f) := by
      rw [signBits_eq_ofFields, fpDecode_ofFields f neg (by positivity) (by positivity) (.inl (by cases f <;> decide)), if_pos rfl]
      rfl
    rw [hr]
    refine ⟨neg, 0, subExp f, hdec, ?_⟩
    simp only [h0]
    refine ⟨by simp, fun v _ => ?_⟩
    cases c.rm <;> simp
    exact fun h0 hv => absurd (abs_eq_zero.1 h0.symm) hv
  · have hx := hasMag_exact neg m e
    obtain ⟨henc, hnx, hK⟩ := fpRound_in_range (c := c) hx hm (fun hs => absurd hs Bool.false_ne_true) hflush hle'
    obtain ⟨-, m', e', hdec, hval⟩ := henc
    refine ⟨neg, m', e', hdec, ?_⟩
    have hpos : (0 : ℝ) < m * 2 ^ e := hx.pos hm
    have hxr : ∀ m e, ((Claims.value neg m e : ℚ) : ℝ) = (if neg then -1 else 1) * ((m : ℝ) * 2 ^ e) := fun m e => by
      rw [cast_value, Claims.real, mul_assoc]
    refine ⟨hnx.trans ?_, fun v hv => ?_⟩
    · rw [← hval, ← Rat.cast_inj (α := ℝ), hxr, hxr]
      cases neg <;> simp [eq_comm]
    · obtain ⟨bits, n, mv, ev, hvdec, rfl⟩ := hv
      have hs : (if n = neg then 1 else -1 : ℤ) = 1 ∨ (if n = neg then 1 else -1 : ℤ) = -1 := by split <;> simp
      have hbest := best_of_held hx hm c.rm hvdec hs
      have hw : ((Claims.value n mv ev : ℚ) : ℝ) = (if neg then -1 else 1) * (((if n = neg then 1 else -1 : ℤ) : ℝ) * (mv * 2 ^ ev)) := by
        rw [cast_value, Claims.real, mul_assoc]
        cases n <;> cases neg <;> simp
      have hsigned := best_signed (hbest.imp (even_code hx hm c.rm hdec hval hK)) hpos (by positivity) (hxr m e)
        ((hxr m' e').trans (by rw [hval])) hw
      revert hsigned
      unfold BestSigned
      cases c.rm <;> exact id

end Sys2Proof.Machine

/-! SUPPORT. Exact sums, products, quotients and roots, and what rounding them gives (R264, R265, R286 to R291). -/

namespace Sys2Proof.Machine

/-! ### Exact results without a sticky bit -/

/-- A sign applied to a magnitude. -/
def withSign (neg : Bool) (a : ℝ) : ℝ := (if neg then -1 else 1) * a

theorem real_eq (neg : Bool) (m : Nat) (e : Int) : Claims.real neg m e = withSign neg (m * 2 ^ e) := mul_assoc ..

theorem withSign_mul (n1 n2 : Bool) (a b : ℝ) : withSign n1 a * withSign n2 b = withSign (n1 != n2) (a * b) := by
  cases n1 <;> cases n2 <;> simp [withSign]

theorem withSign_div (n1 n2 : Bool) (a b : ℝ) : withSign n1 a / withSign n2 b = withSign (n1 != n2) (a / b) := by
  cases n1 <;> cases n2 <;> simp [withSign, neg_div, div_neg]

theorem withSign_inv (neg : Bool) (a : ℝ) : (withSign neg a)⁻¹ = withSign neg a⁻¹ := by cases neg <;> simp [withSign, inv_neg]

theorem withSign_not (neg : Bool) (a : ℝ) : withSign (!neg) a = -withSign neg a := by cases neg <;> simp [withSign]

theorem abs_withSign (neg : Bool) {a : ℝ} (h : 0 ≤ a) : |withSign neg a| = a := by cases neg <;> simp [withSign, h]

theorem real_mul (n1 n2 : Bool) (m1 m2 : Nat) (e1 e2 : Int) :
    Claims.real n1 m1 e1 * Claims.real n2 m2 e2 = Claims.real (n1 != n2) (m1 * m2) (e1 + e2) := by
  rw [real_eq, real_eq, real_eq, withSign_mul, zpow_add₀ two_ne_zero]
  congr 1
  push_cast
  ring

theorem real_not (neg : Bool) (m : Nat) (e : Int) : Claims.real (!neg) m e = -Claims.real neg m e := by rw [real_eq, real_eq, withSign_not]

/-- The value of an exact real without a sticky bit. -/
noncomputable def Exact.value (x : Exact) : ℝ := Claims.real x.neg x.m x.e

theorem rounds_of_value (c : FCtl) (f : Fmt) {x : Exact} {v : ℝ} {zneg : Bool} (hs : x.sticky = false) (hv : v = x.value)
    (hz : x.m = 0 → zneg = x.neg) : Claims.Rounds c f zneg v (fpRound c f x) :=
  rounds_fpRound (a := x.m * 2 ^ x.e) (by simp [Exact.HasMag, hs]) (fun h => by simp [hs] at h) (hv.trans (mul_assoc ..)) hz

theorem cast_signed (neg : Bool) (m : Nat) : ((signed neg m : ℤ) : ℝ) = withSign neg m := by cases neg <;> simp [signed, withSign]

/-- An integer at an exponent, as sign and magnitude. -/
theorem withSign_natAbs (s : ℤ) : withSign (decide (s < 0)) (s.natAbs : ℝ) = s := by
  rw [← Int.cast_natCast, Int.natCast_natAbs]
  by_cases h : s < 0
  · simp [withSign, h, abs_of_neg h]
  · simp [withSign, h, abs_of_nonneg (not_lt.mp h)]

/-- The exponent at which two terms are added. -/
def sumExp (m1 : Nat) (e1 : Int) (m2 : Nat) (e2 : Int) : Int := if m1 = 0 then e2 else if m2 = 0 then e1 else min e1 e2

/-- The sum of two terms in units of that exponent. -/
def sumMant (n1 : Bool) (m1 : Nat) (e1 : Int) (n2 : Bool) (m2 : Nat) (e2 : Int) : Int :=
  signed n1 (if m1 = 0 then 0 else m1 * 2 ^ (e1 - sumExp m1 e1 m2 e2).toNat) +
    signed n2 (if m2 = 0 then 0 else m2 * 2 ^ (e2 - sumExp m1 e1 m2 e2).toNat)

theorem addExact_eq (rm : RMode) (n1 : Bool) (m1 : Nat) (e1 : Int) (n2 : Bool) (m2 : Nat) (e2 : Int) :
    addExact rm n1 m1 e1 n2 m2 e2 =
      if sumMant n1 m1 e1 n2 m2 e2 = 0 then ⟨if m1 = 0 ∧ m2 = 0 ∧ n1 = n2 then n1 else rm = .rdn, 0, 0, false⟩
      else ⟨decide (sumMant n1 m1 e1 n2 m2 e2 < 0), (sumMant n1 m1 e1 n2 m2 e2).natAbs, sumExp m1 e1 m2 e2, false⟩ := rfl

theorem addExact_sticky (rm : RMode) (n1 : Bool) (m1 : Nat) (e1 : Int) (n2 : Bool) (m2 : Nat) (e2 : Int) :
    (addExact rm n1 m1 e1 n2 m2 e2).sticky = false := by
  rw [addExact_eq]
  split <;> rfl

/-- A term of a sum at the sum's exponent. -/
theorem term_at (neg : Bool) (m : Nat) {e e' : Int} (h : m ≠ 0 → e' ≤ e) :
    ((signed neg (if m = 0 then 0 else m * 2 ^ (e - e').toNat) : ℤ) : ℝ) * 2 ^ e' = Claims.real neg m e := by
  rw [cast_signed, real_eq]
  by_cases hm : m = 0
  · simp [hm, withSign]
  · rw [if_neg hm]
    push_cast
    rw [two_zpow_sub_toNat (h hm)]
    unfold withSign
    field_simp

theorem sumMant_value (n1 : Bool) (m1 : Nat) (e1 : Int) (n2 : Bool) (m2 : Nat) (e2 : Int) :
    (sumMant n1 m1 e1 n2 m2 e2 : ℝ) * 2 ^ sumExp m1 e1 m2 e2 = Claims.real n1 m1 e1 + Claims.real n2 m2 e2 := by
  have h1 : m1 ≠ 0 → sumExp m1 e1 m2 e2 ≤ e1 := by intro h; unfold sumExp; split_ifs <;> omega
  have h2 : m2 ≠ 0 → sumExp m1 e1 m2 e2 ≤ e2 := by intro h; unfold sumExp; split_ifs <;> omega
  rw [← term_at n1 m1 h1, ← term_at n2 m2 h2, ← add_mul, ← Int.cast_add, sumMant]

theorem addExact_value (rm : RMode) (n1 : Bool) (m1 : Nat) (e1 : Int) (n2 : Bool) (m2 : Nat) (e2 : Int) :
    (addExact rm n1 m1 e1 n2 m2 e2).value = Claims.real n1 m1 e1 + Claims.real n2 m2 e2 := by
  rw [← sumMant_value, addExact_eq]
  split
  · next hs => simp [hs, Exact.value, Claims.real]
  · rw [Exact.value, Claims.real, ← withSign_natAbs]
    rfl

theorem addExact_zero (rm : RMode) (n1 : Bool) (m1 : Nat) (e1 : Int) (n2 : Bool) (m2 : Nat) (e2 : Int)
    (h : (addExact rm n1 m1 e1 n2 m2 e2).m = 0) :
    Claims.zeroSign rm n1 n2 (m1 == 0 && m2 == 0) = (addExact rm n1 m1 e1 n2 m2 e2).neg := by
  rw [addExact_eq] at h ⊢
  split at h
  · next hs =>
    rw [if_pos hs]
    dsimp only
    unfold Claims.zeroSign
    by_cases h1 : m1 = 0 <;> by_cases h2 : m2 = 0 <;> by_cases hn : n1 = n2 <;> simp [h1, h2, hn]
  · next hs => exact absurd (Int.natAbs_eq_zero.1 h) hs

theorem rounds_addExact (c : FCtl) (f : Fmt) (n1 : Bool) (m1 : Nat) (e1 : Int) (n2 : Bool) (m2 : Nat) (e2 : Int) :
    Claims.Rounds c f (Claims.zeroSign c.rm n1 n2 (m1 == 0 && m2 == 0)) (Claims.real n1 m1 e1 + Claims.real n2 m2 e2)
      (fpRound c f (addExact c.rm n1 m1 e1 n2 m2 e2)) :=
  rounds_of_value c f (addExact_sticky ..) (addExact_value ..).symm (addExact_zero _ _ _ _ _ _ _)

/-! ### Quotients and roots -/

/-- An integer quotient with its sticky bit. -/
theorem hasMag_quot (neg : Bool) (n : Nat) {d : Nat} (k : Int) (hd : d ≠ 0) :
    Exact.HasMag ⟨neg, n / d, k, n % d != 0⟩ ((n : ℝ) / d * 2 ^ k) := by
  have hk := two_zpow_pos k
  have hd' : (0 : ℝ) < d := by exact_mod_cast Nat.pos_of_ne_zero hd
  have hn : (n : ℝ) = d * (n / d : ℕ) + (n % d : ℕ) := by exact_mod_cast (Nat.div_add_mod n d).symm
  have hlt : ((n % d : ℕ) : ℝ) < d := by exact_mod_cast Nat.mod_lt n (Nat.pos_of_ne_zero hd)
  have hq : (n : ℝ) / d = (n / d : ℕ) + (n % d : ℕ) / d := by
    rw [hn, add_div, mul_div_cancel_left₀ _ hd'.ne']
  unfold Exact.HasMag
  dsimp only
  rw [hq]
  split
  · next h =>
    have h0 : (0 : ℝ) < (n % d : ℕ) := by exact_mod_cast Nat.pos_of_ne_zero (by simpa using h)
    refine ⟨mul_lt_mul_of_pos_right ?_ hk, mul_lt_mul_of_pos_right ?_ hk⟩
    · linarith [div_pos h0 hd']
    · linarith [(div_lt_one hd').2 hlt]
  · next h =>
    have h0 : n % d = 0 := by simpa using h
    simp [h0]

theorem hasMag_divExact (neg : Bool) (m1 : Nat) (e1 : Int) {m2 : Nat} (e2 : Int) (p : Nat) (h2 : m2 ≠ 0) :
    (divExact neg m1 e1 m2 e2 p).HasMag ((m1 * 2 ^ e1) / (m2 * 2 ^ e2)) := by
  have hval : ((m1 : ℝ) * 2 ^ e1) / (m2 * 2 ^ e2) = ((m1 * 2 ^ (p + bitLen m2) : ℕ) : ℝ) / m2 * 2 ^ (e1 - e2 - (p + bitLen m2 : ℕ)) := by
    rw [zpow_sub₀ two_ne_zero, zpow_sub₀ two_ne_zero, zpow_natCast]
    push_cast
    field_simp
  rw [hval]
  exact hasMag_quot neg _ _ h2

theorem le_divExact_m (neg : Bool) {m1 : Nat} (e1 : Int) {m2 : Nat} (e2 : Int) (p : Nat) (h1 : m1 ≠ 0) (h2 : m2 ≠ 0) :
    2 ^ p ≤ (divExact neg m1 e1 m2 e2 p).m := by
  have hlt := (bitLen_bounds h2).2.1
  refine (Nat.le_div_iff_mul_le (by omega)).2 ?_
  calc 2 ^ p * m2 ≤ 2 ^ p * 2 ^ bitLen m2 := Nat.mul_le_mul_left _ hlt.le
    _ = 2 ^ (p + bitLen m2) := (pow_add ..).symm
    _ ≤ m1 * 2 ^ (p + bitLen m2) := Nat.le_mul_of_pos_left _ (by omega)

theorem isqrtGo_spec (x n r : Nat) (hlo : r * r ≤ x) (hhi : x < (r + 2 ^ n) * (r + 2 ^ n)) :
    isqrtGo x n r * isqrtGo x n r ≤ x ∧ x < (isqrtGo x n r + 1) * (isqrtGo x n r + 1) := by
  induction n generalizing r with
  | zero => exact ⟨hlo, by simpa [isqrtGo] using hhi⟩
  | succ n ih =>
    unfold isqrtGo
    split
    · next h => exact ih _ h (by rw [show r + 2 ^ n + 2 ^ n = r + 2 ^ (n + 1) by rw [pow_succ]; ring]; exact hhi)
    · next h => exact ih _ hlo (by omega)

theorem isqrt_spec (x : Nat) : isqrt x * isqrt x ≤ x ∧ x < (isqrt x + 1) * (isqrt x + 1) := by
  refine isqrtGo_spec x _ 0 (by omega) ?_
  rw [zero_add, ← pow_add]
  by_cases hx : x = 0
  · rw [hx]; positivity
  · exact (bitLen_bounds hx).2.1.trans_le (Nat.pow_le_pow_right (by norm_num) (by omega))

/-- An integer root with its sticky bit. -/
theorem hasMag_sqrt (neg : Bool) {r : Nat} {T : ℝ} (k : Int) {sticky : Bool} (hlo : (r : ℝ) * r ≤ T) (hhi : T < ((r : ℝ) + 1) * (r + 1))
    (hs : sticky = true ↔ (r : ℝ) * r ≠ T) : Exact.HasMag ⟨neg, r, k, sticky⟩ (√T * 2 ^ k) := by
  have hk := two_zpow_pos k
  unfold Exact.HasMag
  split
  · next h =>
    refine ⟨mul_lt_mul_of_pos_right ?_ hk, mul_lt_mul_of_pos_right ?_ hk⟩
    · exact Real.lt_sqrt_of_sq_lt (by rw [sq]; exact hlo.lt_of_ne (hs.1 h))
    · exact (Real.sqrt_lt' (by positivity)).2 (by rw [sq]; exact hhi)
  · next h =>
    have he : (r : ℝ) * r = T := by by_contra hne; exact h (hs.2 hne)
    dsimp only
    rw [← he, Real.sqrt_mul_self (Nat.cast_nonneg r)]

/-- The mantissa and exponent of a value with an even exponent. -/
def evenMant (m : Nat) (e : Int) : Nat := if e % 2 = 0 then m else m * 2

/-- That exponent. -/
def evenExp (e : Int) : Int := if e % 2 = 0 then e else e - 1

theorem evenMant_mul (m : Nat) (e : Int) : (m : ℝ) * 2 ^ e = evenMant m e * (2 ^ (evenExp e / 2)) ^ 2 := by
  have hsq : ((2 : ℝ) ^ (evenExp e / 2)) ^ 2 = 2 ^ evenExp e := by
    rw [← zpow_natCast, ← zpow_mul]
    congr 1
    unfold evenExp
    split <;> omega
  rw [hsq]
  unfold evenMant evenExp
  split
  · rfl
  · rw [zpow_sub_one₀ two_ne_zero]
    push_cast
    field_simp

theorem evenMant_ne_zero {m : Nat} (e : Int) (h : m ≠ 0) : evenMant m e ≠ 0 := by
  unfold evenMant
  split <;> omega

theorem hasMag_sqrtExact (m : Nat) (e : Int) (p : Nat) : (sqrtExact m e p).HasMag (√(m * 2 ^ e)) := by
  obtain ⟨hlo, hhi⟩ := isqrt_spec (evenMant m e * 2 ^ (2 * p))
  have hval : √((m : ℝ) * 2 ^ e) = √((evenMant m e * 2 ^ (2 * p) : ℕ) : ℝ) * 2 ^ (evenExp e / 2 - p) := by
    rw [evenMant_mul, Real.sqrt_mul (by positivity), Real.sqrt_sq (by positivity), zpow_sub₀ two_ne_zero, zpow_natCast]
    push_cast
    rw [pow_mul', Real.sqrt_mul (by positivity), Real.sqrt_sq (by positivity)]
    field_simp
  rw [hval]
  refine hasMag_sqrt false _ (by exact_mod_cast hlo) (by exact_mod_cast hhi) ?_
  rw [bne_iff_ne]
  norm_cast

theorem le_sqrtExact_m {m : Nat} (e : Int) (p : Nat) (h : m ≠ 0) : 2 ^ p ≤ (sqrtExact m e p).m := by
  obtain ⟨-, hhi⟩ := isqrt_spec (evenMant m e * 2 ^ (2 * p))
  have hle : 2 ^ p * 2 ^ p ≤ evenMant m e * 2 ^ (2 * p) := by
    rw [← pow_add, ← two_mul]
    exact Nat.le_mul_of_pos_left _ (Nat.pos_of_ne_zero (evenMant_ne_zero e h))
  have := Nat.mul_self_lt_mul_self_iff.1 (hle.trans_lt hhi)
  exact Nat.lt_succ_iff.1 this

theorem hasMag_rsqrtExact {m : Nat} (e : Int) (p : Nat) (h : m ≠ 0) : (rsqrtExact m e p).HasMag (1 / √(m * 2 ^ e)) := by
  have hm0 := evenMant_ne_zero e h
  obtain ⟨hlo, hhi⟩ := isqrt_spec (2 ^ (2 * (p + bitLen (evenMant m e))) / evenMant m e)
  have hpos : (0 : ℝ) < evenMant m e := by exact_mod_cast Nat.pos_of_ne_zero hm0
  have hval : 1 / √((m : ℝ) * 2 ^ e) = √((2 : ℝ) ^ (2 * (p + bitLen (evenMant m e))) / evenMant m e) *
      2 ^ (-(evenExp e / 2) - (p + bitLen (evenMant m e) : ℕ)) := by
    rw [evenMant_mul, Real.sqrt_mul (by positivity), Real.sqrt_sq (by positivity), zpow_sub₀ two_ne_zero, zpow_natCast, zpow_neg,
      Real.sqrt_div (by positivity), pow_mul', Real.sqrt_sq (by positivity)]
    field_simp
  rw [hval]
  refine hasMag_sqrt false _ ?_ ?_ ?_
  · rw [le_div_iff₀ hpos]
    exact_mod_cast (Nat.le_div_iff_mul_le (Nat.pos_of_ne_zero hm0)).1 hlo
  · rw [div_lt_iff₀ hpos]
    exact_mod_cast (Nat.div_lt_iff_lt_mul (Nat.pos_of_ne_zero hm0)).1 hhi
  · rw [bne_iff_ne, ne_eq, ne_eq, not_iff_not, eq_div_iff hpos.ne']
    norm_cast

theorem le_rsqrtExact_m {m : Nat} (e : Int) (p : Nat) (h : m ≠ 0) : 2 ^ p ≤ (rsqrtExact m e p).m := by
  have hm0 := evenMant_ne_zero e h
  obtain ⟨-, hhi⟩ := isqrt_spec (2 ^ (2 * (p + bitLen (evenMant m e))) / evenMant m e)
  have hlt := (bitLen_bounds hm0).2.1
  have hle : 2 ^ p * 2 ^ p ≤ 2 ^ (2 * (p + bitLen (evenMant m e))) / evenMant m e := by
    refine (Nat.le_div_iff_mul_le (Nat.pos_of_ne_zero hm0)).2 ?_
    calc 2 ^ p * 2 ^ p * evenMant m e ≤ 2 ^ p * 2 ^ p * 2 ^ bitLen (evenMant m e) := Nat.mul_le_mul_left _ hlt.le
      _ = 2 ^ (p + p + bitLen (evenMant m e)) := by rw [← pow_add, ← pow_add]
      _ ≤ 2 ^ (2 * (p + bitLen (evenMant m e))) := Nat.pow_le_pow_right (by norm_num) (by omega)
  exact Nat.lt_succ_iff.1 (Nat.mul_self_lt_mul_self_iff.1 (hle.trans_lt hhi))

/-- Rounding an exact result that has bits enough for its sticky bit. -/
theorem rounds_of_hasMag (c : FCtl) (f : Fmt) {x : Exact} {a v : ℝ} {zneg : Bool} (h : x.HasMag a) (hp : 2 ^ (fmtFrac f + 4) ≤ x.m)
    (hv : v = withSign x.neg a) : Claims.Rounds c f zneg v (fpRound c f x) := by
  have hpow : 2 ^ (fmtFrac f + 1) ≤ 2 ^ (fmtFrac f + 4) := Nat.pow_le_pow_right (by norm_num) (by omega)
  exact rounds_fpRound h (fun _ => hpow.trans hp) hv fun h0 => by
    have := Nat.two_pow_pos (fmtFrac f + 4)
    omega

/-! ### The members on finite operands (R286, R289, R291) -/

theorem rounds_zero (c : FCtl) (f : Fmt) (zneg : Bool) : Claims.Rounds c f zneg 0 (signBits f zneg, 0) :=
  ⟨fun _ => rfl, fun neg h => absurd h (by split <;> simp)⟩

theorem fpDivV_fin (c : FCtl) (f : Fmt) (n1 n2 : Bool) {m1 m2 : Nat} (e1 e2 : Int) (h1 : m1 ≠ 0) (h2 : m2 ≠ 0) :
    fpDivV c f (.fin n1 m1 e1) (.fin n2 m2 e2) = fpRound c f (divExact (n1 != n2) m1 e1 m2 e2 (fmtFrac f + 4)) :=
  (if_neg h2).trans (if_neg h1)

theorem rounds_fpDivV (c : FCtl) (f : Fmt) (n1 n2 : Bool) (m1 : Nat) {m2 : Nat} (e1 e2 : Int) (h2 : m2 ≠ 0) :
    Claims.Rounds c f (n1 != n2) (Claims.real n1 m1 e1 / Claims.real n2 m2 e2) (fpDivV c f (.fin n1 m1 e1) (.fin n2 m2 e2)) := by
  by_cases h1 : m1 = 0
  · have hdiv : fpDivV c f (.fin n1 m1 e1) (.fin n2 m2 e2) = (signBits f (n1 != n2), 0) := (if_neg h2).trans (if_pos h1)
    rw [hdiv, h1, show Claims.real n1 0 e1 = 0 by simp [Claims.real], zero_div]
    exact rounds_zero ..
  · rw [fpDivV_fin c f n1 n2 e1 e2 h1 h2, real_eq, real_eq, withSign_div]
    exact rounds_of_hasMag c f (hasMag_divExact _ m1 e1 e2 _ h2) (le_divExact_m _ e1 e2 _ h1 h2) rfl

theorem fpFmaV_fin (c : FCtl) (f : Fmt) (n1 n2 n3 : Bool) (m1 m2 m3 : Nat) (e1 e2 e3 : Int) :
    fpFmaV c f (.fin n1 m1 e1) (.fin n2 m2 e2) (.fin n3 m3 e3) =
      fpRound c f (addExact c.rm (n1 != n2) (m1 * m2) (e1 + e2) n3 m3 e3) := by
  have hbad : (isZero (.fin n1 m1 e1) && isInf (.fin n2 m2 e2) || isInf (.fin n1 m1 e1) && isZero (.fin n2 m2 e2)) = false := by simp [isInf]
  exact if_neg (by rw [hbad]; exact Bool.false_ne_true)

theorem finiteArithmetic : Claims.FiniteArithmetic := by
  intro c f n1 n2 n3 m1 m2 m3 e1 e2 e3 x y w
  refine ⟨rounds_addExact .., ?_, rounds_of_value c f rfl (real_mul ..) fun _ => rfl, rounds_fpDivV c f n1 n2 m1 e1 e2, fun hn h1 => ?_, ?_,
    fun h1 => ?_, fun hn h1 => ?_⟩
  · have hsub : x - y = Claims.real n1 m1 e1 + Claims.real (!n2) m2 e2 := by rw [real_not]; rfl
    rw [hsub]
    exact rounds_addExact ..
  · subst hn
    have hsqrt : fpSqrtV c f (.fin false m1 e1) = fpRound c f (sqrtExact m1 e1 (fmtFrac f + 4)) := (if_neg h1).trans (if_neg Bool.false_ne_true)
    rw [hsqrt, show x = m1 * 2 ^ e1 from (real_eq ..).trans (one_mul _)]
    exact rounds_of_hasMag c f (hasMag_sqrtExact ..) (le_sqrtExact_m e1 _ h1) (one_mul _).symm
  · have hz : (m1 == 0 || m2 == 0) = (m1 * m2 == 0) := by rw [Bool.eq_iff_iff]; simp
    rw [hz, real_mul, fpFmaV_fin]
    exact rounds_addExact ..
  · have hrcp : fpRcpV c f (.fin n1 m1 e1) = fpRound c f (divExact n1 1 0 m1 e1 (fmtFrac f + 4)) := if_neg h1
    have hinv : 1 / x = withSign n1 (((1 : ℕ) : ℝ) * 2 ^ (0 : ℤ) / (m1 * 2 ^ e1)) := by
      rw [show x = withSign n1 (m1 * 2 ^ e1) from real_eq .., one_div, withSign_inv]
      simp
    rw [hrcp, hinv]
    exact rounds_of_hasMag c f (hasMag_divExact n1 1 0 e1 _ h1) (le_divExact_m n1 0 e1 _ one_ne_zero h1) rfl
  · subst hn
    have hrsq : fpRsqV c f (.fin false m1 e1) = fpRound c f (rsqrtExact m1 e1 (fmtFrac f + 4)) := (if_neg h1).trans (if_neg Bool.false_ne_true)
    rw [hrsq, show x = m1 * 2 ^ e1 from (real_eq ..).trans (one_mul _)]
    exact rounds_of_hasMag c f (hasMag_rsqrtExact e1 _ h1) (le_rsqrtExact_m e1 _ h1) (one_mul _).symm

end Sys2Proof.Machine

/-! SUPPORT. Conversions, special operands, and the effective controls (R35, R264 to R269, R273, R290). -/

namespace Sys2Proof.Machine

/-! ### Conversions (R267, R290) -/

/-- A finite value rounded to an integer, in units of one. -/
theorem integer_eq (rm : RMode) (neg : Bool) {a : ℝ} (h : 0 ≤ a) :
    Claims.integer rm neg (withSign neg a) = signed neg (Claims.roundInt rm neg a) := by
  rw [Claims.integer, abs_withSign neg h, signed]

theorem withSign_inj (neg : Bool) {a b : ℝ} : withSign neg a = withSign neg b ↔ a = b := by cases neg <;> simp [withSign]

/-- Rounding an exact real to an integer. -/
theorem roundAt_zero {x : Exact} {a : ℝ} (h : x.HasMag a) (rm : RMode) (hq : x.sticky = true → x.e < 0) (h0 : 0 ≤ a) :
    signed x.neg (roundAt x 0 rm).1 = Claims.integer rm x.neg (withSign x.neg a) ∧
      ((roundAt x 0 rm).2 = true ↔ (Claims.integer rm x.neg (withSign x.neg a) : ℝ) ≠ withSign x.neg a) := by
  obtain ⟨h1, h2⟩ := roundAt_eq h rm hq
  rw [zpow_zero, div_one] at h1 h2
  rw [integer_eq rm x.neg h0, h1]
  refine ⟨rfl, h2.trans (not_congr ?_)⟩
  rw [cast_signed, withSign_inj, eq_comm]

theorem rounds_fpOfInt (c : FCtl) (f : Fmt) (v : ℤ) : Claims.Rounds c f false (v : ℝ) (fpOfInt c f v) := by
  refine rounds_of_value c f rfl ?_ fun h => ?_
  · rw [Exact.value, real_eq, zpow_zero, mul_one, withSign_natAbs]
  · have hv : v = 0 := Int.natAbs_eq_zero.1 h
    simp [hv]

theorem fpToInt_fin {c : FCtl} {f : Fmt} (lo hi : ℤ) {x : Nat} {n : Bool} {m : Nat} {e : Int} (hx : fpOperand c f x = .fin n m e) :
    let k := Claims.integer c.rm n (Claims.real n m e)
    ∃ inexact : Bool, (inexact = true ↔ (k : ℝ) ≠ Claims.real n m e) ∧
      fpToInt c f lo hi x = if k < lo then (lo, flagNV) else if hi < k then (hi, flagNV) else (k, if inexact then flagNX else 0) := by
  intro k
  obtain ⟨h1, h2⟩ := roundAt_zero (hasMag_exact n m e) c.rm (fun h => absurd h Bool.false_ne_true) (by positivity)
  refine ⟨(roundAt ⟨n, m, e, false⟩ 0 c.rm).2, ?_, ?_⟩
  · rw [h2, ← real_eq]
  · have hk : k = signed n (roundAt ⟨n, m, e, false⟩ 0 c.rm).1 := by rw [h1, ← real_eq]
    rw [fpToInt, hx, hk]

theorem fpRnd_rounds {c : FCtl} {f : Fmt} {x : Nat} {n : Bool} {m : Nat} {e : Int} (hx : fpOperand c f x = .fin n m e) :
    (fpRnd c f x).2 = 0 ∧
      ∃ fl, Claims.Rounds { c with rm := .rtz } f n (Claims.integer c.rm n (Claims.real n m e) : ℝ) ((fpRnd c f x).1, fl) := by
  obtain ⟨h1, -⟩ := roundAt_zero (hasMag_exact n m e) c.rm (fun h => absurd h Bool.false_ne_true) (by positivity)
  have hrnd : fpRnd c f x =
      ((fpRound { c with rm := .rtz } f ⟨n, (roundAt ⟨n, m, e, false⟩ 0 c.rm).1, 0, false⟩).1, 0) := by rw [fpRnd, hx]
  rw [hrnd]
  refine ⟨rfl, _, rounds_of_value { c with rm := .rtz } f rfl ?_ fun _ => rfl⟩
  rw [real_eq, ← h1, cast_signed, Exact.value, real_eq, zpow_zero, mul_one]

theorem finiteConversions : Claims.FiniteConversions := by
  refine ⟨fun c src dst x n m e hx => ?_, rounds_fpOfInt, fun c f lo hi x n m e hx hle => ?_,
    fun c f lo hi x => ⟨fun hnan => ?_, fun n hinf => ?_⟩,
    fun c f x n m e hx => fpRnd_rounds hx⟩
  · rw [fpConvert, hx]
    exact rounds_of_value c dst rfl rfl fun _ => rfl
  · intro k
    obtain ⟨inexact, hinexact, h⟩ := fpToInt_fin lo hi hx
    refine ⟨fun hlt => ?_, fun hlt => ?_, fun hlo hhi => ?_⟩
    · rw [h, if_pos hlt]
    · rw [h, if_neg (by omega), if_pos hlt]
    · rw [h, if_neg (by omega), if_neg (by omega)]
      refine ⟨rfl, fun he => ?_, fun hne => ?_⟩
      · rw [if_neg fun hi => hinexact.1 hi he]
      · rw [if_pos (hinexact.2 hne)]
  · unfold fpToInt
    split
    · rfl
    · next h => simp [h, isNaN] at hnan
    · next h => simp [h, isNaN] at hnan
  · rw [fpToInt, hinf]

/-! ### Operands out of the ordinary (R257, R266, R269) -/

theorem fpAddV_nan_left (c : FCtl) (f : Fmt) (n q : Bool) (fr : Nat) (v : FVal) : (fpAddV c f (.nan n q fr) v).1 = nanResult f f n fr := rfl

theorem fpAddV_nan_right (c : FCtl) (f : Fmt) (n q : Bool) (fr : Nat) {v : FVal} (hv : isNaN v = false) :
    fpAddV c f v (.nan n q fr) = (nanResult f f n fr, if q = true then 0 else flagNV) := by
  cases v with
  | nan n' q' fr' => exact absurd hv Bool.noConfusion
  | inf n' => cases q <;> rfl
  | fin n' m' e' => cases q <;> rfl

theorem specialOperands : Claims.SpecialOperands := by
  intro c f inf
  refine ⟨fun _ _ => rfl, fun n1 n2 e => ⟨rfl, rfl⟩, fun n1 n2 m e hm => ?_, fun n1 n2 e e' => rfl, fun _ _ => rfl, fun n1 n2 m e e' hm => ?_,
    fun n1 n2 m e => rfl, fun m e hm => ?_, fun n e => ⟨rfl, rfl, rfl⟩, fun _ => rfl, fpAddV_nan_left c f,
    fun n q fr v => fpAddV_nan_right c f n q fr⟩
  · exact if_neg (by simp [isZero, hm])
  · exact if_neg hm
  · exact (if_neg hm).trans (if_pos rfl)

/-! ### The effective controls (R35, R273) -/

theorem effectiveControls : Claims.EffectiveControls := by
  intro g
  refine ⟨fun hpr => ?_, fun p hpr => ?_⟩
  · rw [effCtl_of_no_pr hpr]
    exact ⟨rfl, rfl, rfl, rfl, rmOfFpc_eq _⟩
  · simp only [effCtl, effSat, effTrapEn, effRound, hpr, Option.map_some, ← rmOfFpc_eq]
    refine ⟨trivial, trivial, ?_, ?_, ?_⟩
    · cases p.fzo <;> rfl
    · cases p.fzr <;> rfl
    · cases p.rm <;> rfl

end Sys2Proof.Machine

/-! SUPPORT. Packed members: the elements of a word, and exact sums of products (R270, R294, R295). -/

namespace Sys2Proof.Machine

/-! ### Elements of a word (R270, R294) -/

theorem elemGet_zero (n x : Nat) : elemGet n x 0 = x % 2 ^ n := by simp [elemGet]

theorem elemGet_succ (n x j : Nat) : elemGet n x (j + 1) = elemGet n (x / 2 ^ n) j := by
  rw [elemGet, elemGet, Nat.mul_succ, Nat.add_comm, pow_add, ← Nat.div_div_eq_div_mul]

theorem elemGet_packElems (n : Nat) (rs : List (Nat × Flags)) {j : Nat} (hj : j < rs.length) :
    elemGet n (packElems n rs).1 j = (rs[j]).1 % 2 ^ n := by
  induction rs generalizing j with
  | nil => exact absurd hj (Nat.not_lt_zero j)
  | cons r rs ih =>
    have hcons : (packElems n (r :: rs)).1 = r.1 % 2 ^ n + (packElems n rs).1 * 2 ^ n := rfl
    rw [hcons]
    cases j with
    | zero => rw [elemGet_zero, Nat.add_mul_mod_self_right, Nat.mod_mod]; rfl
    | succ j =>
      rw [elemGet_succ, Nat.add_mul_div_right _ _ (by positivity), Nat.div_eq_of_lt (Nat.mod_lt _ (by positivity)), zero_add]
      exact ih (Nat.lt_of_succ_lt_succ hj)

theorem packElems_lt (n : Nat) (rs : List (Nat × Flags)) : (packElems n rs).1 < 2 ^ (n * rs.length) := by
  induction rs with
  | nil => exact Nat.one_pos
  | cons r rs ih =>
    have hr : r.1 % 2 ^ n < 2 ^ n := Nat.mod_lt _ (by positivity)
    calc (packElems n (r :: rs)).1 = r.1 % 2 ^ n + (packElems n rs).1 * 2 ^ n := rfl
      _ < 2 ^ n + (packElems n rs).1 * 2 ^ n := by omega
      _ = ((packElems n rs).1 + 1) * 2 ^ n := by ring
      _ ≤ 2 ^ (n * rs.length) * 2 ^ n := Nat.mul_le_mul_right _ ih
      _ = 2 ^ (n * (rs.length + 1)) := by rw [← pow_add]; rfl

theorem packElems_flags (n : Nat) (rs : List (Nat × Flags)) (b : Nat) :
    (packElems n rs).2.getLsbD b = true ↔ ∃ r ∈ rs, r.2.getLsbD b = true := by
  induction rs with
  | nil => simp [packElems]
  | cons r rs ih =>
    have hcons : (packElems n (r :: rs)).2 = r.2 ||| (packElems n rs).2 := rfl
    rw [hcons, BitVec.getLsbD_or, Bool.or_eq_true, ih]
    simp

theorem packedFloat_width {t : Ty} (ht : tyIsPackedFloat t = true) : fmtWidth (fmtOf t) * (32 / fmtWidth (fmtOf t)) = 32 := by
  revert ht
  cases t <;> decide

theorem elementwise_packedMap {t : Ty} (ht : tyIsPackedFloat t = true) (op : Nat → Nat × Flags) :
    Claims.elementwise t (packedMap t op) op := by
  refine ⟨?_, fun j hj => ?_, fun b => ?_⟩
  · have := packElems_lt (fmtWidth (fmtOf t)) ((List.range (32 / fmtWidth (fmtOf t))).map op)
    rwa [List.length_map, List.length_range, packedFloat_width ht] at this
  · rw [packedMap, elemGet_packElems _ _ (by simpa using hj)]
    simp
  · rw [packedMap, packElems_flags]
    simp

theorem tyMin_i8 : tyMin .i8 = -128 := rfl

theorem tyMax_i8 : tyMax .i8 = 127 := rfl

theorem bytewise_i8Map (sat : Bool) (op : Nat → Int) : Claims.bytewise sat (i8Map sat op) op := by
  refine ⟨?_, packElems_lt 8 ((List.range 4).map _), fun j hj => ?_⟩
  · exact BitVec.eq_of_getLsbD_eq fun b _ => by
      rw [Bool.eq_iff_iff, i8Map, packElems_flags]
      simp
  · rw [i8Map, elemGet_packElems _ _ (by simpa using hj)]
    simp only [List.getElem_map, List.getElem_range, tyClamp, tyMin_i8, tyMax_i8]
    omega

theorem intRead_mod (t : Ty) (x : Nat) : intRead t (x % 2 ^ tyWidth t) = intRead t x := by simp [intRead]

theorem intRead_i8 (x : Nat) : intRead .i8 x = (BitVec.ofNat 8 x).toInt := by
  have hx := (BitVec.ofNat 8 x).isLt
  rw [BitVec.toInt_eq_toNat_cond, ← intRead_mod, ← BitVec.toNat_ofNat]
  simp only [intRead, tyWidth, tyIsI, Nat.mod_eq_of_lt hx, Bool.true_and, decide_eq_true_eq]
  split <;> split <;> omega

theorem i8At_eq (x j : Nat) : i8At x j = (BitVec.ofNat 8 (x / 2 ^ (8 * j))).toInt := by
  rw [i8At, elemGet, ← intRead_i8]
  exact intRead_mod .i8 _

theorem intRead_i32_ofNat (x : Nat) : intRead .i32 x = (BitVec.ofNat 32 x).toInt := by
  rw [← intRead_i32, BitVec.toNat_ofNat]
  exact (intRead_mod .i32 x).symm

theorem pdotVal_i8x4 (c : FCtl) (x y z : Nat) :
    let el (v j : Nat) : Int := (BitVec.ofNat 8 (v / 2 ^ (8 * j))).toInt
    let sum := (BitVec.ofNat 32 z).toInt + el x 0 * el y 0 + el x 1 * el y 1 + el x 2 * el y 2 + el x 3 * el y 3
    pdotVal c .i8x4 x y z = ((BitVec.ofInt 32 (if c.sat then Max.max (-(2 ^ 31)) (Min.min (2 ^ 31 - 1) sum) else sum)).toNat, 0) := by
  intro el sum
  have hsum : intRead .i32 z + (List.range 4).foldl (fun s j => s + i8At x j * i8At y j) (0 : Int) = sum := by
    simp only [i8At_eq, intRead_i32_ofNat, List.range_succ, List.range_zero, List.nil_append, List.foldl_append, List.foldl_cons, List.foldl_nil]
    ring
  rw [pdotVal, if_pos rfl, hsum, intFit, intWrite_of_width32 rfl]
  rfl

/-! ### Exact sums of products (R295) -/

/-- The value of a finite sum under construction. -/
noncomputable def DotAcc.value (s : DotAcc) : ℝ := s.sum * 2 ^ s.e

/-- No term of the sum was infinite or invalid. -/
def DotAcc.Finite (s : DotAcc) : Prop := s.posInf = false ∧ s.negInf = false ∧ s.invalid = false

theorem dotAddFin_finite {s : DotAcc} (h : s.Finite) (neg : Bool) (m : Nat) (e : Int) : (dotAddFin s neg m e).Finite := by
  unfold dotAddFin
  split <;> exact h

theorem dotAddFin_value (s : DotAcc) (neg : Bool) (m : Nat) (e : Int) : (dotAddFin s neg m e).value = s.value + Claims.real neg m e := by
  by_cases hm : m = 0
  · rw [dotAddFin, if_pos hm]
    simp [DotAcc.value, hm, Claims.real]
  · have hterm (e' : Int) (h : e' ≤ e) : ((signed neg m : ℤ) : ℝ) * 2 ^ (e - e').toNat * 2 ^ e' = Claims.real neg m e := by
      rw [← term_at neg m fun _ => h, if_neg hm, cast_signed, cast_signed]
      push_cast
      unfold withSign
      ring
    rw [dotAddFin, if_neg hm]
    by_cases hs : s.sum = 0
    · simp only [hs, if_true, DotAcc.value, Int.cast_zero, zero_mul, zero_add]
      rw [← hterm e le_rfl]
      push_cast
      ring
    · have hold : (s.sum : ℝ) * 2 ^ (s.e - min s.e e).toNat * 2 ^ min s.e e = s.value := by
        rw [two_zpow_sub_toNat (min_le_left _ _), DotAcc.value]
        field_simp
      simp only [hs, if_false, DotAcc.value]
      rw [← hterm (min s.e e) (min_le_right _ _), ← DotAcc.value, ← hold]
      push_cast
      ring

/-- Adding the products of finite operands. -/
theorem dotAddMul_foldl (n k : Nat → Bool) (a b : Nat → Nat) (d e : Nat → Int) (js : List Nat) {s : DotAcc} (hs : s.Finite) :
    let r := (js.map fun j => (FVal.fin (n j) (a j) (d j), FVal.fin (k j) (b j) (e j))).foldl (fun s p => dotAddMul s p.1 p.2) s
    r.Finite ∧ r.value = s.value + (js.map fun j => Claims.real (n j) (a j) (d j) * Claims.real (k j) (b j) (e j)).sum := by
  induction js generalizing s with
  | nil => exact ⟨hs, (add_zero _).symm⟩
  | cons j js ih =>
    obtain ⟨hfin, hval⟩ := ih (dotAddFin_finite hs (n j != k j) (a j * b j) (d j + e j))
    refine ⟨hfin, hval.trans ?_⟩
    rw [dotAddFin_value, ← real_mul, add_assoc, List.map_cons, List.sum_cons]

theorem rounds_dotRound (c : FCtl) (f : Fmt) {s : DotAcc} (hs : s.Finite) (h0 : s.value ≠ 0) :
    Claims.Rounds c f false s.value (dotRound c f s) := by
  obtain ⟨hp, hn, hi⟩ := hs
  have hsum : s.sum ≠ 0 := fun h => h0 (by simp [DotAcc.value, h])
  have hround : dotRound c f s = fpRound c f ⟨decide (s.sum < 0), s.sum.natAbs, s.e, false⟩ := by simp [dotRound, hp, hn, hi, hsum]
  rw [hround]
  refine rounds_of_value c f rfl ?_ fun h => absurd (Int.natAbs_eq_zero.1 h) hsum
  rw [DotAcc.value, Exact.value, Claims.real, ← withSign_natAbs]
  rfl

theorem nanOperand_eq_none {ops : List (Fmt × FVal)} (h : ∀ o ∈ ops, isNaN o.2 = false) (f : Fmt) : nanOperand ops f = none := by
  have hfind : ops.find? (fun o => isNaN o.2) = none := List.find?_eq_none.2 fun o ho => by simp [h o ho]
  rw [nanOperand, hfind]

/-- PDOT of finite operands rounds the exact sum once. -/
theorem rounds_pdotFloat (c : FCtl) (m : Fmt) (x y z : Nat) (n k : Nat → Bool) (a b : Nat → Nat) (d e : Nat → Int) {n3 : Bool} {m3 : Nat}
    {e3 : Int} (hel : ∀ j, j < 32 / fmtWidth m → fpOperand c m (elemGet (fmtWidth m) x j) = .fin (n j) (a j) (d j) ∧
      fpOperand c m (elemGet (fmtWidth m) y j) = .fin (k j) (b j) (e j)) (hz : fpOperand c .f32 z = .fin n3 m3 e3) :
    let sum := Claims.real n3 m3 e3 +
      ((List.range (32 / fmtWidth m)).map (fun j => Claims.real (n j) (a j) (d j) * Claims.real (k j) (b j) (e j))).sum
    sum ≠ 0 → Claims.Rounds c .f32 false sum (pdotFloat c m x y z) := by
  intro sum hsum
  let ps := (List.range (32 / fmtWidth m)).map fun j => (FVal.fin (n j) (a j) (d j), FVal.fin (k j) (b j) (e j))
  have hps : (List.range (32 / fmtWidth m)).map (fun j => (fpOperand c m (elemGet (fmtWidth m) x j), fpOperand c m (elemGet (fmtWidth m) y j))) =
      ps := List.map_congr_left fun j hj => by
    obtain ⟨hx, hy⟩ := hel j (List.mem_range.1 hj)
    rw [hx, hy]
  have hfilter : ps.filter (fun p => !(isNaN p.1 || isNaN p.2)) = ps := List.filter_eq_self.2 fun p hp => by
    obtain ⟨j, -, rfl⟩ := List.mem_map.1 hp
    rfl
  have hnan : nanOperand (ps.flatMap (fun p => [(m, p.1), (m, p.2)]) ++ [(.f32, .fin n3 m3 e3)]) .f32 = none := by
    refine nanOperand_eq_none (fun o ho => ?_) _
    simp only [List.mem_append, List.mem_flatMap, List.mem_cons, List.not_mem_nil, or_false, ps, List.mem_map] at ho
    obtain ⟨p, ⟨j, -, rfl⟩, rfl | rfl⟩ | rfl := ho <;> rfl
  obtain ⟨hfin, hval⟩ := dotAddMul_foldl n k a b d e (List.range (32 / fmtWidth m))
    (dotAddFin_finite (s := DotAcc.empty) ⟨rfl, rfl, rfl⟩ n3 m3 e3)
  have hdot : pdotFloat c m x y z = dotRound c .f32 (ps.foldl (fun s p => dotAddMul s p.1 p.2) (dotAddFin DotAcc.empty n3 m3 e3)) := by
    rw [pdotFloat, hps, hz, hnan, hfilter]
    rfl
  have hempty : DotAcc.empty.value = 0 := by simp [DotAcc.value, DotAcc.empty]
  have hsum' : sum = (ps.foldl (fun s p => dotAddMul s p.1 p.2) (dotAddFin DotAcc.empty n3 m3 e3)).value := by
    rw [hval, dotAddFin_value, hempty, zero_add]
  rw [hsum'] at hsum ⊢
  rw [hdot]
  exact rounds_dotRound c .f32 hfin hsum

theorem paddVal_i8x4 (c : FCtl) (x y : Nat) : paddVal c .i8x4 x y = i8Map c.sat (fun j => i8At x j + i8At y j) := if_pos rfl

theorem pmulVal_i8x4 (c : FCtl) (x y : Nat) : pmulVal c .i8x4 x y = i8Map c.sat (fun j => i8At x j * i8At y j) := if_pos rfl

theorem packedResults : Claims.PackedResults := by
  refine ⟨fun c t x y z ht => ?_, fun c x y z => ⟨?_, ?_, pdotVal_i8x4 c x y z⟩⟩
  · have hi8 : t ≠ .i8x4 := by
      rintro rfl
      exact Bool.noConfusion ht
    intro m el
    refine ⟨?_, ?_, elementwise_packedMap ht _, fun n k a b d e n3 m3 e3 hel hz => ?_⟩
    · rw [paddVal, if_neg hi8]
      exact elementwise_packedMap ht _
    · rw [pmulVal, if_neg hi8]
      exact elementwise_packedMap ht _
    · rw [pdotVal, if_neg hi8]
      exact rounds_pdotFloat c m x y z n k a b d e hel hz
  · simp only [paddVal_i8x4, ← i8At_eq]
    exact bytewise_i8Map c.sat _
  · simp only [pmulVal_i8x4, ← i8At_eq]
    exact bytewise_i8Map c.sat _

end Sys2Proof.Machine

/-! SUPPORT. Quantizing members, and what settles O5 (R296, R297). -/

namespace Sys2Proof.Machine

/-! ### One element replaced (R293, R296) -/

/-- A word with an element replaced: the elements above it, the new one, and those below it. -/
theorem elemPut_eq (n x j v : Nat) :
    elemPut n x j v = (x / 2 ^ (n * j) / 2 ^ n * 2 ^ n + v % 2 ^ n) * 2 ^ (n * j) + x % 2 ^ (n * j) := by
  have h1 := Nat.div_add_mod' x (2 ^ (n * j))
  have h2 := Nat.div_add_mod' (x / 2 ^ (n * j)) (2 ^ n)
  have hx : x = x / 2 ^ (n * j) / 2 ^ n * 2 ^ n * 2 ^ (n * j) + x % 2 ^ (n * j) + elemGet n x j * 2 ^ (n * j) := by
    calc x = (x / 2 ^ (n * j) / 2 ^ n * 2 ^ n + x / 2 ^ (n * j) % 2 ^ n) * 2 ^ (n * j) + x % 2 ^ (n * j) := by rw [h2, h1]
      _ = _ := by rw [elemGet]; ring
  have hsub : x - elemGet n x j * 2 ^ (n * j) = x / 2 ^ (n * j) / 2 ^ n * 2 ^ n * 2 ^ (n * j) + x % 2 ^ (n * j) :=
    Nat.sub_eq_of_eq_add hx
  rw [elemPut, hsub]
  ring

theorem elemPut_div (n x j v : Nat) : elemPut n x j v / 2 ^ (n * j) = x / 2 ^ (n * j) / 2 ^ n * 2 ^ n + v % 2 ^ n := by
  rw [elemPut_eq, Nat.add_comm, Nat.add_mul_div_right _ _ (by positivity), Nat.div_eq_of_lt (Nat.mod_lt _ (by positivity)), zero_add]

theorem elemPut_mod (n x j v : Nat) : elemPut n x j v % 2 ^ (n * j) = x % 2 ^ (n * j) := by
  rw [elemPut_eq, Nat.mul_add_mod', Nat.mod_mod]

theorem elemGet_elemPut_same (n x j v : Nat) : elemGet n (elemPut n x j v) j = v % 2 ^ n := by
  rw [elemGet, elemPut_div, Nat.mul_add_mod', Nat.mod_mod]

/-- The elements below one depend on the bits below it alone. -/
theorem elemGet_mod (n x : Nat) {i j : Nat} (h : i < j) : elemGet n (x % 2 ^ (n * j)) i = elemGet n x i := by
  have hsplit : 2 ^ (n * j) = 2 ^ (n * i) * (2 ^ n * 2 ^ (n * (j - i - 1))) := by
    rw [← pow_add, ← pow_add]
    congr 1
    obtain ⟨k, rfl⟩ := Nat.exists_eq_add_of_lt h
    rw [show i + k + 1 - i - 1 = k by omega]
    ring
  rw [elemGet, elemGet, hsplit, Nat.mod_mul_right_div_self, Nat.mod_mul_right_mod]

/-- The elements above one depend on the bits above it alone. -/
theorem elemGet_div (n x : Nat) {i j : Nat} (h : j < i) : elemGet n x i = elemGet n (x / 2 ^ (n * j) / 2 ^ n) (i - j - 1) := by
  have hsplit : n * i = n * j + n + n * (i - j - 1) := by
    obtain ⟨k, rfl⟩ := Nat.exists_eq_add_of_lt h
    rw [show j + k + 1 - j - 1 = k by omega]
    ring
  rw [elemGet, elemGet, hsplit, pow_add, pow_add, ← Nat.div_div_eq_div_mul, ← Nat.div_div_eq_div_mul]

theorem elemGet_elemPut_ne (n x v : Nat) {i j : Nat} (h : i ≠ j) : elemGet n (elemPut n x j v) i = elemGet n x i := by
  rcases Nat.lt_or_gt_of_ne h with hlt | hgt
  · rw [← elemGet_mod n _ hlt, elemPut_mod, elemGet_mod n _ hlt]
  · rw [elemGet_div n _ hgt, elemPut_div, Nat.add_comm, Nat.add_mul_div_right _ _ (by positivity),
      Nat.div_eq_of_lt (Nat.mod_lt _ (by positivity)), zero_add, ← elemGet_div n _ hgt]

/-! ### Quantizing (R296) -/

theorem recBits_eq (t : Ty) : recBits t = 4 ∨ recBits t = 8 := by cases t <;> decide

theorem recZ_bounds (hdr : Nat) : -128 ≤ recZ hdr ∧ recZ hdr ≤ 127 := by
  rw [recZ, intRead_i8]
  have h1 := BitVec.le_toInt (BitVec.ofNat 8 (hdr / 2 ^ 16))
  have h2 := BitVec.toInt_lt (x := BitVec.ofNat 8 (hdr / 2 ^ 16))
  constructor <;> omega

theorem code_bounds (t : Ty) (sg : Bool) : -128 ≤ codeMin t sg ∧ codeMin t sg ≤ codeMax t sg ∧ codeMax t sg ≤ 255 := by
  rcases recBits_eq t with h | h <;> cases sg <;> simp [codeMin, codeMax, h]

/-- What QCVT's quotient rounds to: the integer of R296, or one as far out of range on the same side. -/
theorem quotient_rounds (rm : RMode) (n1 n2 : Bool) (m1 : Nat) (e1 : Int) {m2 : Nat} (e2 : Int) (h2 : m2 ≠ 0) :
    let v := Claims.real n1 m1 e1 / Claims.real n2 m2 e2
    let k := Claims.integer rm (n1 != n2) v
    let r := roundAt (divExact (n1 != n2) m1 e1 m2 e2 64) 0 rm
    let k' := signed (n1 != n2) r.1
    (k' = k ∧ (r.2 = true ↔ (k : ℝ) ≠ v)) ∨ (2 ^ 64 ≤ k ∧ 2 ^ 64 ≤ k') ∨ (k ≤ -2 ^ 64 ∧ k' ≤ -2 ^ 64) := by
  intro v k r k'
  have hv : v = withSign (n1 != n2) ((m1 * 2 ^ e1) / (m2 * 2 ^ e2)) := by
    rw [← withSign_div, ← real_eq, ← real_eq]
  have hmag := hasMag_divExact (n1 != n2) m1 e1 e2 64 h2
  have hpos : (0 : ℝ) ≤ (m1 * 2 ^ e1) / (m2 * 2 ^ e2) := by positivity
  by_cases hsmall : (divExact (n1 != n2) m1 e1 m2 e2 64).sticky = true → (divExact (n1 != n2) m1 e1 m2 e2 64).e < 0
  · obtain ⟨hint, hinexact⟩ := roundAt_zero hmag rm hsmall hpos
    simp only [k, hv]
    exact .inl ⟨hint, hinexact⟩
  · obtain ⟨hsticky, he⟩ := Classical.not_imp.1 hsmall
    have he0 := not_lt.1 he
    have h1 : m1 ≠ 0 := by
      rintro rfl
      simp [divExact] at hsticky
    have hbits := le_divExact_m (n1 != n2) e1 e2 64 h1 h2
    have hmodel : 2 ^ 64 ≤ r.1 := by
      have hr : r.1 = (divExact (n1 != n2) m1 e1 m2 e2 64).m * 2 ^ ((divExact (n1 != n2) m1 e1 m2 e2 64).e - 0).toNat := by
        simp only [r, roundAt, if_pos he0]
      rw [hr]
      exact hbits.trans (Nat.le_mul_of_pos_right _ (by positivity))
    have hclaim : 2 ^ 64 ≤ Claims.roundInt rm (n1 != n2) ((m1 * 2 ^ e1) / (m2 * 2 ^ e2)) := by
      refine le_roundInt rm _ ?_
      rw [Exact.HasMag, if_pos hsticky] at hmag
      calc ((2 ^ 64 : ℕ) : ℝ) ≤ (divExact (n1 != n2) m1 e1 m2 e2 64).m := by exact_mod_cast hbits
        _ ≤ (divExact (n1 != n2) m1 e1 m2 e2 64).m * 2 ^ (divExact (n1 != n2) m1 e1 m2 e2 64).e :=
          le_mul_of_one_le_right (by positivity) (one_le_zpow₀ one_le_two he0)
        _ ≤ _ := hmag.1.le
    have hk : k = signed (n1 != n2) (Claims.roundInt rm (n1 != n2) ((m1 * 2 ^ e1) / (m2 * 2 ^ e2))) := by
      simp only [k, hv]
      exact integer_eq rm _ hpos
    refine .inr ?_
    rw [hk]
    simp only [k', signed]
    split
    · exact .inr (by omega)
    · exact .inl (by omega)

/-- An element put by its residue. -/
theorem elemGet_elemPut_residue (n x j : Nat) (k : Int) : elemGet n (elemPut n x j (k % 2 ^ n).toNat) j = (k % 2 ^ n).toNat := by
  have hpos : (0 : Int) < 2 ^ n := by positivity
  have hlt : (k % 2 ^ n).toNat < 2 ^ n := by
    have := Int.emod_lt_of_pos k hpos
    zify
    rwa [Int.toNat_of_nonneg (Int.emod_nonneg k hpos.ne')]
  rw [elemGet_elemPut_same, Nat.mod_eq_of_lt hlt]

theorem out_of_far (t : Ty) (sg : Bool) (hdr : Nat) {k : Int} (h : 2 ^ 64 ≤ k ∨ k ≤ -2 ^ 64) :
    k + recZ hdr < codeMin t sg ∨ codeMax t sg < k + recZ hdr := by
  obtain ⟨hz1, hz2⟩ := recZ_bounds hdr
  obtain ⟨hlo, hle, hhi⟩ := code_bounds t sg
  omega

/-- Quotients as far out of range on one side give one code. -/
theorem code_of_same_side (t : Ty) (sg : Bool) (hdr : Nat) {k k' : Int}
    (h : k' = k ∨ (2 ^ 64 ≤ k ∧ 2 ^ 64 ≤ k') ∨ (k ≤ -2 ^ 64 ∧ k' ≤ -2 ^ 64)) :
    Max.max (codeMin t sg) (Min.min (codeMax t sg) (k' + recZ hdr)) = Max.max (codeMin t sg) (Min.min (codeMax t sg) (k + recZ hdr)) ∧
      (k' + recZ hdr < codeMin t sg ∨ codeMax t sg < k' + recZ hdr ↔ k + recZ hdr < codeMin t sg ∨ codeMax t sg < k + recZ hdr) := by
  obtain ⟨hz1, hz2⟩ := recZ_bounds hdr
  obtain ⟨hlo, hle, hhi⟩ := code_bounds t sg
  rcases h with rfl | ⟨hk, hk'⟩ | ⟨hk, hk'⟩
  · exact ⟨rfl, Iff.rfl⟩
  · omega
  · omega

/-- QCVT's flags and element, from the rounded quotient. -/
theorem qcvtVal_fin {c : FCtl} {t : Ty} {x hdr z old : Nat} {n1 : Bool} {m1 : Nat} {e1 : Int} {n2 : Bool} {m2 : Nat} {e2 : Int}
    (hbad : recBad t hdr = false) (hx : fpOperand c .f32 x = .fin n1 m1 e1) (hh : fpDecode .f16 (hdr % 2 ^ 16) = .fin n2 m2 e2) (h2 : m2 ≠ 0) :
    let r := roundAt (divExact (n1 != n2) m1 e1 m2 e2 64) 0 c.rm
    let q := signed (n1 != n2) r.1 + recZ hdr
    let lo := codeMin t (recSg hdr)
    let hi := codeMax t (recSg hdr)
    qcvtVal c t x hdr z old =
      (elemPut (recBits t) old (codePick t z) (Max.max lo (Min.min hi q) % 2 ^ recBits t).toNat,
        if q < lo ∨ hi < q then flagNV else if r.2 = true then flagNX else 0) := by
  intro r q lo hi
  have hq : qcvtVal c t x hdr z old = if q < lo ∨ hi < q
      then (elemPut (recBits t) old (codePick t z) (Max.max lo (Min.min hi q) % 2 ^ recBits t).toNat, flagNV)
      else (elemPut (recBits t) old (codePick t z) (q % 2 ^ recBits t).toNat, if r.2 = true then flagNX else 0) := by
    rw [qcvtVal, hbad, hx, hh]
    exact if_neg h2
  rw [hq]
  split
  · rfl
  · next hin => rw [show Max.max lo (Min.min hi q) = q by omega]

theorem qcvt_fin {c : FCtl} {t : Ty} {x hdr : Nat} (z old : Nat) {n1 : Bool} {m1 : Nat} {e1 : Int} {n2 : Bool} {m2 : Nat} {e2 : Int}
    (hbad : recBad t hdr = false) (hx : fpOperand c .f32 x = .fin n1 m1 e1) (hh : fpDecode .f16 (hdr % 2 ^ 16) = .fin n2 m2 e2) (h2 : m2 ≠ 0) :
    let v := Claims.real n1 m1 e1 / Claims.real n2 m2 e2
    let k := Claims.integer c.rm (n1 != n2) v
    let q := k + recZ hdr
    let lo := codeMin t (recSg hdr)
    let hi := codeMax t (recSg hdr)
    let r := qcvtVal c t x hdr z old
    elemGet (recBits t) r.1 (codePick t z) = (Max.max lo (Min.min hi q) % 2 ^ recBits t).toNat ∧
    (∀ j, j ≠ codePick t z → elemGet (recBits t) r.1 j = elemGet (recBits t) old j) ∧
    (q < lo ∨ hi < q → r.2 = flagNV) ∧ (lo ≤ q → q ≤ hi → ((k : ℝ) = v → r.2 = 0) ∧ ((k : ℝ) ≠ v → r.2 = flagNX)) := by
  intro v k q lo hi r
  have hr := qcvtVal_fin (z := z) (old := old) hbad hx hh h2
  have hround := quotient_rounds c.rm n1 n2 m1 e1 e2 h2
  generalize roundAt (divExact (n1 != n2) m1 e1 m2 e2 64) 0 c.rm = p at hr hround
  obtain ⟨hclamp, hout⟩ := code_of_same_side t (recSg hdr) hdr (hround.imp_left And.left)
  have hinexact : ¬(q < lo ∨ hi < q) → (p.2 = true ↔ (k : ℝ) ≠ v) := fun hin => by
    rcases hround with hsame | hfar
    · exact hsame.2
    · exact absurd (out_of_far t (recSg hdr) hdr (hfar.imp And.left And.left)) hin
  have hr' : r = (elemPut (recBits t) old (codePick t z) (Max.max lo (Min.min hi q) % 2 ^ recBits t).toNat,
      if q < lo ∨ hi < q then flagNV else if p.2 = true then flagNX else 0) := by
    rw [← hclamp, ← if_congr hout rfl rfl]
    exact hr
  rw [hr']
  refine ⟨elemGet_elemPut_residue .., fun j hj => elemGet_elemPut_ne _ _ _ hj, fun h => if_pos h, fun h1 h2 => ?_⟩
  have hin : ¬(q < lo ∨ hi < q) := by omega
  dsimp only
  rw [if_neg hin]
  exact ⟨fun he => if_neg fun hp => (hinexact hin).1 hp he, fun hne => if_pos ((hinexact hin).2 hne)⟩

/-! ### Dequantizing (R297) -/

theorem rounds_scaleMul (c : FCtl) (q : Int) {h : Nat} {n : Bool} {m : Nat} {e : Int} (hh : fpDecode .f16 h = .fin n m e) :
    Claims.Rounds c .f32 (n != decide (q < 0)) ((q : ℝ) * Claims.real n m e) (scaleMul c q h) := by
  have hscale : scaleMul c q h = fpRound c .f32 ⟨n != decide (q < 0), q.natAbs * m, e, false⟩ := by rw [scaleMul, hh]
  rw [hscale]
  refine rounds_of_value c .f32 rfl ?_ fun _ => rfl
  have hq : (q : ℝ) = Claims.real (decide (q < 0)) q.natAbs 0 := by rw [real_eq, zpow_zero, mul_one, withSign_natAbs]
  rw [hq, mul_comm, real_mul, add_zero, mul_comm m, Exact.value]

theorem dqcvtVal_good {t : Ty} {hdr : Nat} (hbad : recBad t hdr = false) (c : FCtl) (x z : Nat) :
    let u := elemGet (recBits t) x (codePick t z)
    let q : Int := if recSg hdr = true ∧ 2 ^ (recBits t - 1) ≤ u then (u : Int) - 2 ^ recBits t else u
    dqcvtVal c t x hdr z = scaleMul c (q - recZ hdr) (hdr % 2 ^ 16) := by
  simp [dqcvtVal, hbad]

theorem quantizedResults : Claims.QuantizedResults := by
  refine ⟨fun c t x hdr z old n1 m1 e1 n2 m2 e2 _ hbad hx hh h2 => qcvt_fin z old hbad hx hh h2, fun c t x hdr z n m e _ hbad hh => ?_⟩
  intro u q
  have hsign : decide (q < recZ hdr) = decide (q - recZ hdr < 0) := decide_eq_decide.2 sub_neg.symm
  rw [hsign, dqcvtVal_good hbad]
  exact rounds_scaleMul c _ hh

end Sys2Proof.Machine

namespace Sys2Proof

open Machine

/-- Settles O5: rounding by magnitude and grid, then each member as an exact real that is rounded once. -/
theorem floatingControls : Obligations.FloatingControls :=
  ⟨effectiveControls, roundingModes, finiteArithmetic, finiteConversions, packedResults, quantizedResults, specialOperands⟩

end Sys2Proof

/-! SUPPORT. A line's write that is not stored, and a warm reset that loses a byte. -/

namespace Sys2Proof.Machine

/-! ### A line's write (R60) -/

theorem physPlace_strayHome : physPlace strayHome portOneByte = .cxl 1 := by decide

theorem unbacked_strayHome : unbacked strayHome portOneByte = false := by rw [unbacked, physPlace_strayHome]

/-- The write's hit is counted before its bytes are stored: they find the port down and are discarded (R60). -/
theorem strayHome_discards_lineWrite : ∃ t, exec (.lineWrite portOneByte [1]) strayHome = .next t ∧ t.mem.main = [] := ⟨_, rfl, by decide⟩

/-- Refutes O37, by its clause on a line's write (R60), which leaves the homes of the cached lines free: under the home of `strayLine`, which
no fill gives a line, the write's own hit takes down the link that it goes to, so that its byte is not stored. -/
theorem not_memoryControllers : ¬ Obligations.MemoryControllers := by
  rintro ⟨-, ⟨-, hwrite, -⟩, -⟩
  have hnoBank : ∀ off, physPlace strayHome portOneByte ≠ .bank off := by rw [physPlace_strayHome]; exact fun _ => nofun
  obtain ⟨t, ht, -, -, -, hstored⟩ := hwrite strayHome portOneByte [1] rfl unbacked_strayHome hnoBank (by decide)
  obtain ⟨u, hu, hlost⟩ := strayHome_discards_lineWrite
  obtain rfl : t = u := Host.Outcome.next.inj (ht.symm.trans hu)
  have hbyte : smapGet 0 t.mem.main portOneByte = 1 := by simpa using hstored portOneByte
  rw [hlost] at hbyte
  exact absurd hbyte (by decide)

/-! ### A warm reset (R72, R77) -/

/-- The first sector of `strayLine`, Owned and dirty in the L1 of core 0. -/
def strayCopy : L1Line :=
  { core := 0, pa := portOneByte / 256, owned := true, rts := 0, wts := 0, wby := 0, valid := 1, dirty := 1, data := [], dataPoison := [],
    errs := [], keep := false, reserved := [], lru := 0 }

/-- `strayHome` with a 1 in the first byte of port 1, newer than what the Jigsaw has last written back, and `strayCopy` in an L1. -/
def strayOwned : State :=
  { strayHome with
    mem := { strayHome.mem with main := [(portOneByte, 1)] }
    caches := { strayHome.caches with jigsaw := [{ strayLine with dirty := 1, saved := 1 }], l1 := [strayCopy] } }

theorem strayOwned_backed : Claims.backed strayOwned := by
  have hline : unbacked strayOwned portOneByte = false := by decide
  exact ⟨rfl, List.forall_mem_singleton.2 hline, List.forall_mem_singleton.2 hline⟩

/-- The flush writes the L1's copy back first, and counts it; the Jigsaw's write-back then finds the port down and is discarded, so that the
sector holds again what was last written back (R60). -/
theorem strayOwned_loses_byte : ∃ t, exec .warmReset strayOwned = .next t ∧ t.mem.main = [] := ⟨_, rfl, by decide⟩

/-- Refutes O53, by its clause on the warm reset (R77): `Claims.backed` leaves the homes of the cached lines free, and under the home of
`strayLine`, which no fill gives a line, the flush takes down the link behind a dirty line before it writes the line back. -/
theorem not_management : ¬ Obligations.Management := by
  rintro ⟨⟨-, hwarm⟩, -⟩
  obtain ⟨t, ht, hkept, -⟩ := hwarm strayOwned
  obtain ⟨u, hu, hlost⟩ := strayOwned_loses_byte
  obtain rfl : t = u := Host.Outcome.next.inj (ht.symm.trans hu)
  have hbyte : t.mem.main = [(portOneByte, 1)] := hkept strayOwned_backed
  exact absurd (hlost.symm.trans hbyte) (by decide)

end Sys2Proof.Machine

/-! SUPPORT. The Privilege trap (R42, R406), and TRAP, BRK and HALT (R407). -/

namespace Sys2Proof.Machine

/-! ### The Privilege trap (R42 item 5, R406) -/

/-- User code that issues a legal supervisor-only instruction stops at item 5 of R42. -/
theorem preIssue_of_user {i : Instr} {s : State} (hlegal : instrWf i = true) (hnamed : usesOk s.gang i = true)
    (huser : s.gang.arm.sup = false) : preIssue s i true = .trap (plainTrap s.gang causePrivilege 0 s.gang.arm.pc.toNat) s := by
  simp [preIssue, earlyTrap, hlegal, hnamed, huser]

/-- `i` comes to its own effect only past the checks of `preIssue` in supervisor mode. -/
def ChecksMode (i : Instr) : Prop :=
  ∀ s, s.live = true → ∃ (body : State → Exe) (done : State → State), exec i s = .next (settle s ((preIssue s i true).bind body) done)

theorem checksMode_of_issue {i : Instr} {body : State → Exe} (h : ∀ s, exec i s = issue i true s body) : ChecksMode i :=
  fun s hlive => ⟨body, fun s' => afterIssue (advance s' i), by simp [h, issue, hlive]⟩

theorem checksMode_of_issueJump {i : Instr} {body : State → Exe} (h : ∀ s, exec i s = issueJump i true s body) : ChecksMode i :=
  fun s hlive => ⟨body, fun s' => afterIssue (retire s'), by simp [h, issueJump, hlive]⟩

theorem Exe.bind_ok (x : Exe) : x.bind .ok = x := by cases x <;> rfl

theorem checksMode_halt : ChecksMode .halt := fun s hlive =>
  ⟨.ok, fun s' => killLaunch s' s'.gang.launch (haltStatus s'.gang.arm), by
    rw [Exe.bind_ok]
    show (if !s.live then _ else _) = _
    simp [hlive]⟩

/-- A write of a CSR outside R408's table of user CSRs needs supervisor mode. -/
theorem checksMode_of_csrWrite {i : Instr} {c : BitVec 12} {body : State → Exe} (hc : c.toNat ∉ [0, 2, 6, 7, 8, 9, 10])
    (h : ∀ s, exec i s = issue i (!csrUser c) s body) : ChecksMode i := by
  have hsup : csrUser c = false := by simpa [csrUser, and_assoc] using hc
  exact checksMode_of_issue fun s => by rw [h, hsup]; rfl

theorem checksMode_of_supervisorOnly {i : Instr} (h : Claims.supervisorOnly i) : ChecksMode i := by
  rcases h with rfl | rfl | ⟨c, r, hi, hc⟩ | ⟨_, _, _, rfl⟩ | ⟨_, rfl | rfl⟩ | ⟨_, _, rfl⟩ | ⟨_, _, rfl⟩ | ⟨_, _, _, rfl⟩ | rfl |
    ⟨_, _, _, _, _, rfl⟩ | ⟨_, _, _, _, rfl | rfl⟩ | ⟨_, _, rfl⟩
  · exact checksMode_halt
  · exact checksMode_of_issueJump fun _ => rfl
  · rcases hi with rfl | rfl | rfl <;> exact checksMode_of_csrWrite hc fun _ => rfl
  case inr.inr.inr.inr.inr.inr.inr.inr.inl => exact checksMode_of_issueJump fun _ => rfl
  all_goals exact checksMode_of_issue fun _ => rfl

theorem privilegeTraps : Claims.PrivilegeTraps := by
  intro i s hi hlive hlegal hnamed huser
  obtain ⟨body, done, hexec⟩ := checksMode_of_supervisorOnly hi s hlive
  rw [hexec, preIssue_of_user hlegal hnamed huser]
  rfl

/-! ### TRAP and BRK (R407) -/

theorem issueTrap_of_issues {i : Instr} {s s1 : State} (h : Issues i false s s1) (cause n : Nat) :
    issueTrap i s cause n = .next (stepDone (trapEntry (retire s1) (plainTrap s.gang cause 0 n) (nextAddr s.gang.arm i))) := by
  simp [issueTrap, h.live, preIssue_of_issues h, settle]

/-- BRK without a debugger that stops it is TRAP with another cause. -/
theorem exec_brk_of_noStop {s : State} (h : brkStops s = false) (n : BitVec 12) :
    exec (.brk n) s = issueTrap (.brk n) s causeBreak n.toNat := by
  show (if !brkStops s then _ else _) = _
  simp [h]

/-- BRK with one stops the arm, and issues as NOP where the arm resumes from that stop. -/
theorem exec_brk_of_stops {s : State} (hlive : s.live = true) (h : brkStops s = true) (n : BitVec 12) :
    exec (.brk n) s = if s.gang.arm.skipStop then issue (.brk n) false s .ok else .next (preciseStop s true) := by
  show (if !brkStops s then _ else if s.live ∧ !s.gang.arm.skipStop then _ else _) = _
  cases hskip : s.gang.arm.skipStop <;> simp [h, hlive]

theorem softwareTraps : Claims.SoftwareTraps := by
  refine ⟨fun n s s1 h => issueTrap_of_issues h causeSoftware n.toNat, fun n s s1 h hno => ?_,
    fun n s s1 h hstops => ⟨fun hskip => ?_, fun hskip => ?_⟩⟩
  · rw [exec_brk_of_noStop hno]
    exact issueTrap_of_issues h causeBreak n.toNat
  · simp [exec_brk_of_stops h.live hstops, hskip]
  · rw [Completes, exec_brk_of_stops h.live hstops, hskip]
    exact issue_ok h rfl

/-! ### Ended launches (R396) -/

theorem le_foldl_max {α : Type} (f : α → Nat) (xs : List α) (a : Nat) : a ≤ xs.foldl (fun t x => Max.max t (f x)) a := by
  induction xs generalizing a with
  | nil => exact Nat.le_refl a
  | cons x xs ih => exact Nat.le_trans (Nat.le_max_left ..) (ih _)

@[simp] theorem killLaunch_mem (s : State) (id status : Nat) : (killLaunch s id status).mem = s.mem := rfl

/-- No gang of a launch that has been ended is resident. -/
theorem launch_ne_of_mem_killLaunch {s : State} {id status : Nat} {g : Gang} (h : g ∈ gangsOf (killLaunch s id status)) : g.launch ≠ id := by
  simp only [gangsOf, killLaunch, dropTeams, onLaunch, List.contains_cons, List.contains_nil, Bool.or_false, List.mem_append,
    List.mem_filter] at h
  rcases h with h | ⟨-, h⟩
  · split at h
    · next hlive =>
      obtain rfl := List.mem_singleton.1 h
      simpa using (Bool.and_eq_true_iff.1 hlive).2
    · simp at h
  · simpa using h

/-- The launch keeps the status that ends it, and its logical time does not fall (R332). -/
theorem killed_mem_killLaunch {s : State} {l : Launch} (status : Nat) (hl : l ∈ s.launches) (hfree : l.killed = none) :
    ∃ n, l.ltime ≤ n ∧ { l with ltime := n, killed := some status } ∈ (killLaunch s l.id status).launches := by
  refine ⟨_, le_foldl_max gangLast _ l.ltime, List.mem_map.2 ⟨{ l with killed := some status }, ?_, rfl⟩⟩
  exact List.mem_map.2 ⟨l, hl, by simp [hfree]⟩

theorem haltEndsLaunch : Claims.HaltEndsLaunch := by
  intro s s1 h
  have hexec : exec .halt s = .next (killLaunch s1 s1.gang.launch (haltStatus s1.gang.arm)) := by
    show (if !s.live then _ else _) = _
    simp [h.live, preIssue_of_issues h, settle]
  refine ⟨_, hexec, fun g hg => launch_ne_of_mem_killLaunch hg, rfl, fun l hl hid hfree => ?_⟩
  have hstatus : haltStatus s1.gang.arm = if s1.gang.arm.fstat.getLsbD 30 = true ∧
      (s1.gang.arm.fstat.extractLsb' 0 8 = 0x0B ∨ s1.gang.arm.fstat.extractLsb' 0 8 = 0x0E) then 4 else 7 := by
    simp [haltStatus, inHandler, causePoison, causeMxReset, ← BitVec.toNat_inj]
  rw [← hstatus, ← hid]
  exact killed_mem_killLaunch _ hl hfree

/-- Settles O20: every supervisor-only instruction passes the checks of R42 first, which stop user code; TRAP, BRK and HALT are their issues
once those checks pass. -/
theorem systemTraps : Obligations.SystemTraps := ⟨privilegeTraps, softwareTraps, haltEndsLaunch⟩

end Sys2Proof.Machine

/-! SUPPORT. The host fault queue: what PGMAP.post leaves, what a queue write does, and what replies do (R111, R112, R115). -/

namespace Sys2Proof.Machine

/-! ### Fresh tags (R111) -/

/-- The values that `freshTag` tries: the count, and then its successors within 32 bits. -/
def tagTry (t k : Nat) : Nat := if k = 0 then t else (t + k) % 2 ^ 32

theorem tagTry_succ_start (t k : Nat) : tagTry ((t + 1) % 2 ^ 32) k = tagTry t (k + 1) := by
  unfold tagTry
  split <;> simp <;> omega

/-- Fewer than 2^32 tries are all different, wherever the count stands. -/
theorem tagTry_injOn (t n : Nat) (hn : n ≤ 2 ^ 32) : Set.InjOn (tagTry t) (Finset.range n) := by
  intro j hj k hk h
  have hjn := Finset.mem_range.1 hj
  have hkn := Finset.mem_range.1 hk
  unfold tagTry at h
  split at h <;> split at h <;> omega

/-- No post may take the tag: it is 0, or a pending post holds it. -/
def TagTaken (s : State) (t : Nat) : Prop := t = 0 ∨ ∃ p ∈ s.posts, p.tag = t

theorem freshTag_succ (s : State) (n t : Nat) [Decidable (TagTaken s t)] :
    freshTag s (n + 1) t = if TagTaken s t then freshTag s n ((t + 1) % 2 ^ 32) else t := by
  rw [freshTag]
  exact if_congr (by simp [TagTaken]) rfl rfl

/-- Where one of the tags tried is free, the tag given is free. -/
theorem freshTag_free {s : State} {n t : Nat} (h : ∃ k < n, ¬TagTaken s (tagTry t k)) : ¬TagTaken s (freshTag s n t) := by
  classical
  induction n generalizing t with
  | zero => obtain ⟨k, hk, -⟩ := h; omega
  | succ n ih =>
    rw [freshTag_succ]
    split
    · next htaken =>
      obtain ⟨k, hk, hfree⟩ := h
      cases k with
      | zero => exact absurd htaken hfree
      | succ k => exact ih ⟨k, by omega, by rwa [tagTry_succ_start]⟩
    · next hfree => exact hfree

/-- Among more tries than there are posts and the tag 0, one is free. -/
theorem exists_free_tagTry (s : State) (t : Nat) (hposts : s.posts.length < 2 ^ 31) :
    ∃ k < s.posts.length + 2, ¬TagTaken s (tagTry t k) := by
  by_contra hall
  push Not at hall
  have hsub : (Finset.range (s.posts.length + 2)).image (tagTry t) ⊆ (0 :: s.posts.map (fun p => p.tag)).toFinset := by
    intro x hx
    obtain ⟨k, hk, rfl⟩ := Finset.mem_image.1 hx
    simpa [TagTaken, eq_comm] using hall k (Finset.mem_range.1 hk)
  have hcard := Finset.card_le_card hsub
  rw [Finset.card_image_of_injOn (tagTry_injOn t _ (by omega)), Finset.card_range] at hcard
  have hlen := List.toFinset_card_le (0 :: s.posts.map (fun p => p.tag))
  simp only [List.length_cons, List.length_map] at hlen
  omega

/-- A post's tag is not 0, and no pending post's (R111). -/
theorem freshTag_spec (s : State) (hposts : s.posts.length < 2 ^ 31) :
    freshTag s (s.posts.length + 2) s.tagNext ≠ 0 ∧ ∀ p ∈ s.posts, p.tag ≠ freshTag s (s.posts.length + 2) s.tagNext := by
  simpa [TagTaken] using freshTag_free (exists_free_tagTry s s.tagNext hposts)

/-! ### Records (R111) -/

theorem leBytes_length (n v : Nat) : (leBytes n v).length = n := by
  induction n generalizing v with
  | zero => rfl
  | succ n ih => simp [leBytes, ih]

theorem postRecord_length {g : Gang} {tag : Nat} {fs : List LaneFault} {r : List Byte} (h : r ∈ postRecords g tag fs) : r.length = 32 := by
  simp only [postRecords, List.mem_filterMap, Option.map_eq_some_iff] at h
  obtain ⟨_, _, _, _, rfl⟩ := h
  simp [leBytes_length]

/-- The pages of lanes are in order of their lowest lane, so that the first lane's page comes first. -/
theorem pagesOf_cons (e : Nat × Nat) (ls : List (Nat × Nat)) : ∃ ps, pagesOf (e :: ls) = vaPage e.2 :: ps := by
  have hgrows : ∀ (ls : List (Nat × Nat)) (ps : List Nat) (p : Nat),
      ∃ qs, ls.foldl (fun ps e => if ps.contains (vaPage e.2) then ps else ps ++ [vaPage e.2]) (p :: ps) = p :: qs := by
    intro ls
    induction ls with
    | nil => exact fun ps p => ⟨ps, rfl⟩
    | cons x ls ih =>
      intro ps p
      rw [List.foldl_cons]
      split
      · exact ih ps p
      · exact ih (ps ++ [vaPage x.2]) p
  exact hgrows ls [] (vaPage e.2)

/-- The first lane's page has a record. -/
theorem postRecords_ne_nil (g : Gang) (tag : Nat) {fs : List LaneFault} (h : fs ≠ []) : postRecords g tag fs ≠ [] := by
  obtain ⟨f, fs, rfl⟩ := List.exists_cons_of_ne_nil h
  obtain ⟨ps, hps⟩ := pagesOf_cons (f.lane, f.addr.toNat) (fs.map (fun f => (f.lane, f.addr.toNat)))
  simp [postRecords, hps]

/-! ### PGMAP.post (R115) -/

theorem inFaultHandler_eq (a : Arm) : inFaultHandler a =
    (a.fstat.getLsbD 30 && (a.fstat.extractLsb' 0 8 == 8 || a.fstat.extractLsb' 0 8 == 9)) := by
  have hcode : ∀ x : BitVec 8, (x.toNat == causePageFault || x.toNat == causeProtection) = (x == 8 || x == 9) := by decide
  rw [inFaultHandler, hcode]
  rfl

/-- The fault state of the active lanes. -/
def activeFaults (s : State) : List LaneFault := (laneList s.gang.arm.mask).filterMap (laneFault s.gang)

theorem activeFaults_isEmpty (s : State) :
    (activeFaults s).isEmpty = !(Claims.lanes s).any (fun l => s.gang.arm.lfault.any (fun f => f.lane == l)) := by
  have hlanes : Claims.lanes s = laneList s.gang.arm.mask := rfl
  rw [Bool.eq_iff_iff]
  simp [activeFaults, laneFault, hlanes, List.filterMap_eq_nil_iff]

theorem postBody_of_noHandler {s : State} (h : inFaultHandler s.gang.arm = false) : postBody s = illegalHere s := by simp [postBody, h]

theorem postBody_of_noFault {s : State} (h : inFaultHandler s.gang.arm = true) (hnone : (activeFaults s).isEmpty = true) :
    postBody s = .ok (trapReturn s) := by
  rw [activeFaults] at hnone
  simp [postBody, h, hnone]

/-- The tag of the next post. -/
def nextTag (s : State) : Nat := freshTag s (s.posts.length + 2) s.tagNext

/-- The state after a post: the post is pending, and the arm has left the handler suspended. -/
def posted (s : State) : State :=
  (trapReturn { s with posts := s.posts ++ [⟨nextTag s, s.gang.id, s.gang.arm.slot, postRecords s.gang (nextTag s) (activeFaults s)⟩]
                       tagNext := (nextTag s + 1) % 2 ^ 32 }).onArm (fun a => { a with stall := .posted (nextTag s) })

theorem postBody_of_fault {s : State} (h : inFaultHandler s.gang.arm = true) (hsome : (activeFaults s).isEmpty = false) :
    postBody s = .ok (posted s) := by
  rw [activeFaults] at hsome
  simp [postBody, h, hsome, posted, nextTag, activeFaults]

theorem faultPosts : Claims.FaultPosts := by
  intro s s1 h hposts handler faults
  have hhandler : inFaultHandler s1.gang.arm = handler := inFaultHandler_eq s1.gang.arm
  have hfaults : (activeFaults s1).isEmpty = !faults := activeFaults_isEmpty s1
  refine ⟨fun hno => ?_, fun hin hnone => ?_, fun hin hsome => ?_⟩
  · have hbody := postBody_of_noHandler (hhandler.trans hno)
    show issueJump .pgmapPost true s postBody = _
    rw [issueJump_of_issues h, hbody]
    rfl
  · exact issueJump_ok h (postBody_of_noFault (hhandler.trans hin) (by simp [hfaults, hnone]))
  · have hne : (activeFaults s1).isEmpty = false := by simp [hfaults, hsome]
    obtain ⟨hzero, hfresh⟩ := freshTag_spec s1 hposts
    exact ⟨posted s1, nextTag s1, postRecords s1.gang (nextTag s1) (activeFaults s1),
      issueJump_ok h (postBody_of_fault (hhandler.trans hin) hne), hzero, hfresh, rfl,
      postRecords_ne_nil _ _ (by simpa using hne), fun r hr => postRecord_length hr, rfl, rfl, rfl, rfl⟩

/-! ### The host fault queue (R111) -/

/-- Registers have reset values of their own, so that a write and a read elsewhere have different defaults. -/
theorem smapGet_smapSet_ne {α : Type} [DecidableEq α] {d e : α} {m : List (Nat × α)} {a b : Nat} {v : α} (h : b ≠ a) :
    smapGet d (smapSet e m a v) b = smapGet d m b := by
  unfold smapSet
  split
  · exact smapGet_erase_ne _ _ h
  · rw [smapGet_insert_ne _ _ _ h, smapGet_erase_ne _ _ h]

theorem mmGet_mmPut (s : State) (off v o : Nat) : mmGet (mmPut s off v) o = if o = off then v % 2 ^ 64 else mmGet s o := by
  simp only [mmGet, mmPut]
  split
  · next h => subst h; simp
  · next h => rw [smapGet_smapSet_ne h]

theorem mmGet_mmPutField_ne (s : State) (hi lo v : Nat) {off o : Nat} (h : o ≠ off) : mmGet (mmPutField s off hi lo v) o = mmGet s o := by
  rw [mmPutField, mmGet_mmPut, if_neg h]

/-- An interrupt changes neither memory nor posts, and of the registers only the pending bits (R444). -/
theorem msixSignal_keeps (s : State) (n : Nat) :
    (msixSignal s n).mem = s.mem ∧ (msixSignal s n).posts = s.posts ∧ ∀ o, o ≠ msixPba → mmGet (msixSignal s n) o = mmGet s o := by
  unfold msixSignal
  dsimp only
  split
  · exact ⟨rfl, rfl, fun _ _ => rfl⟩
  · split
    · exact ⟨rfl, rfl, fun o ho => mmGet_mmPutField_ne _ _ _ _ ho⟩
    · exact ⟨rfl, rfl, fun _ _ => rfl⟩

/-- A record at the head of a ring: its bytes are in host memory, and the head has moved on. -/
theorem ringPut_spec (s : State) (base src : Nat) (bs : List Byte) (hbase : base + 16 ≠ msixPba) (hfree : s.contained = false) :
    (ringPut s base src bs).posts = s.posts ∧
      (ringPut s base src bs).mem = { s.mem with host := (ringPut s base src bs).mem.host } ∧
      (ringPut s base src bs).mem.host =
        cellsWrite s.mem.host (mmGet s base + mmField s (base + 16) 31 0 % 2 ^ (mmField s (base + 8) 5 2 + 6) * bs.length) bs ∧
      mmField (ringPut s base src bs) (base + 16) 31 0 = (mmField s (base + 16) 31 0 + 1) % 2 ^ 32 := by
  have hwrite : ∀ a, hostWrite s a bs = { s with mem := { s.mem with host := cellsWrite s.mem.host a bs } } := by
    intro a
    simp [hostWrite, hfree]
  have hhead : ∀ t : State, mmField (mmPut t (base + 16) ((mmField s (base + 16) 31 0 + 1) % 2 ^ 32)) (base + 16) 31 0 =
      (mmField s (base + 16) 31 0 + 1) % 2 ^ 32 := by
    intro t
    rw [mmField, mmGet_mmPut, if_pos rfl, bitField]
    omega
  unfold ringPut
  dsimp only
  rw [hwrite]
  generalize cellsWrite s.mem.host _ bs = host
  split
  · obtain ⟨hmem, hposts, hregs⟩ := msixSignal_keeps (mmPut { s with mem := { s.mem with host := host } } (base + 16)
      ((mmField s (base + 16) 31 0 + 1) % 2 ^ 32)) src
    exact ⟨hposts, by rw [hmem]; rfl, by rw [hmem]; rfl, by rw [mmField, hregs _ hbase]; exact hhead _⟩
  · exact ⟨rfl, rfl, rfl, hhead _⟩

/-- The oldest record of a post, taken off it. -/
def takeRecord (s : State) (tag : Nat) (rest : List (List Byte)) : State :=
  { s with posts := s.posts.map (fun q => if q.tag = tag then { q with records := rest } else q) }

theorem exec_faultPostWrite {s : State} {p : FaultPost} {r : List Byte} {rest : List (List Byte)}
    (hp : s.posts.find? (fun p => !p.records.isEmpty) = some p) (hr : p.records = r :: rest) (hon : ringOn s fqBase = true)
    (hroom : ringFull s fqBase = false) : exec .faultPostWrite s = .next (ringPut (takeRecord s p.tag rest) fqBase 0 r) := by
  show execFaultPostWrite s = _
  simp [execFaultPostWrite, event, hp, hon, hroom, hr, takeRecord]

/-! ### Replies (R112) -/

/-- An arm that waits for the reply to a tag goes on. -/
def wakeArm (tag : Nat) (a : Arm) : Arm :=
  match a.stall with
  | .posted t => if t = tag then { a with stall := .none } else a
  | _ => a

theorem wakeArm_stall (tag : Nat) (a : Arm) : (wakeArm tag a).stall ≠ .posted tag := by
  unfold wakeArm
  split
  · next t ht =>
    split
    · simp
    · next hne => simpa [ht] using hne
  · next hno => exact fun h => hno tag h

theorem wakeArm_pc (tag : Nat) (a : Arm) : (wakeArm tag a).pc = a.pc := by
  unfold wakeArm
  split
  · split <;> rfl
  · rfl

theorem wakeArm_mask (tag : Nat) (a : Arm) : (wakeArm tag a).mask = a.mask := by
  unfold wakeArm
  split
  · split <;> rfl
  · rfl

theorem replyRetry_eq {s : State} {tag : Nat} {p : FaultPost} (hp : postOf s tag = some p) :
    replyRetry s tag = onGangId (dropPost s tag) p.gang (fun g => onArms g (wakeArm tag)) := by
  simp only [replyRetry, hp] <;> rfl

/-- A reply in a device that takes writes (R412). -/
theorem exec_fqreplyRetry {s : State} (hfree : s.contained = false) (tag : BitVec 32) :
    exec (.fqreplyRetry tag) s = .next (replyRetry s tag.toNat) := by
  show execFqreplyRetry tag s = _
  simp [execFqreplyRetry, event, hfree]

theorem exec_fqreplyKill {s : State} (hfree : s.contained = false) (tag : BitVec 32) :
    exec (.fqreplyKill tag) s = .next (replyKill s tag.toNat) := by
  show execFqreplyKill tag s = _
  simp [execFqreplyKill, event, hfree]

theorem mem_armsOf_onArms {g : Gang} {f : Arm → Arm} {a : Arm} (h : a ∈ armsOf (onArms g f)) : ∃ b, a = f b := by
  simp only [armsOf, onArms, List.mem_cons] at h
  rcases h with rfl | h
  · exact ⟨_, rfl⟩
  · cases hp : g.partner with
    | none => simp [hp] at h
    | some p => exact ⟨p, by simpa [hp] using h⟩

/-- A resident gang after an update of one gang. -/
theorem mem_gangsOf_onGangId {s : State} {id : Nat} {f : Gang → Gang} {g : Gang} (h : g ∈ gangsOf (onGangId s id f)) :
    ∃ x, g = if x.id = id then f x else x := by
  simp only [gangsOf, onGangId, mapGangs, List.mem_append, List.mem_map] at h
  rcases h with h | ⟨x, -, rfl⟩
  · split at h
    · exact ⟨_, List.mem_singleton.1 h⟩
    · cases h
  · exact ⟨x, rfl⟩

/-- No arm of the gang waits for the reply any more. -/
theorem stall_ne_of_retry {s : State} {id tag : Nat} {g : Gang} (hg : g ∈ gangsOf (onGangId s id (fun g => onArms g (wakeArm tag))))
    (hid : g.id = id) {a : Arm} (ha : a ∈ armsOf g) : a.stall ≠ .posted tag := by
  obtain ⟨x, rfl⟩ := mem_gangsOf_onGangId hg
  by_cases hx : x.id = id
  · rw [if_pos hx] at ha
    obtain ⟨b, rfl⟩ := mem_armsOf_onArms ha
    exact wakeArm_stall tag b
  · rw [if_neg hx] at hid
    exact absurd hid hx

theorem retry_keeps_gang {s : State} (hlive : s.live = true) (id tag : Nat) :
    let t := onGangId s id (fun g => onArms g (wakeArm tag))
    t.gang.v = s.gang.v ∧ t.gang.s = s.gang.s ∧ t.gang.arm.pc = s.gang.arm.pc ∧ t.gang.arm.mask = s.gang.arm.mask := by
  simp only [onGangId, mapGangs, hlive, if_true]
  split
  · exact ⟨rfl, rfl, wakeArm_pc .., wakeArm_mask ..⟩
  · exact ⟨rfl, rfl, rfl, rfl⟩

/-- The gang of a post that is resident: the kill ends its launch. -/
theorem replyKill_eq {s : State} {tag : Nat} {p : FaultPost} {g : Gang} (hp : postOf s tag = some p)
    (hg : (gangsOf s).find? (fun g => g.id == p.gang) = some g) : replyKill s tag = killLaunch (dropPost s tag) g.launch 1 := by
  have hfind : (gangsOf (dropPost s tag) ++ (dropPost s tag).teams.flatMap (fun t => t.savedGangs)).find? (fun g => g.id == p.gang) = some g := by
    have hresident : (gangsOf (dropPost s tag)).find? (fun g => g.id == p.gang) = some g := hg
    rw [List.find?_append, hresident]
    rfl
  simp only [replyKill, hp, hfind]

theorem stray_reply {s : State} {tag : BitVec 32} {i : Instr} (hi : i = .fqreplyRetry tag ∨ i = .fqreplyKill tag) (hfree : s.contained = false)
    (hno : ∀ p ∈ s.posts, p.tag ≠ tag.toNat) : exec i s = .next (strayReply s) := by
  have hnone : postOf s tag.toNat = none := List.find?_eq_none.2 fun p hp => by simpa using hno p hp
  rcases hi with rfl | rfl
  · rw [exec_fqreplyRetry hfree, replyRetry, hnone]
  · rw [exec_fqreplyKill hfree, replyKill, hnone]

theorem faultReplies : Claims.FaultReplies := by
  refine ⟨fun s p r rest hp hr hon hroom hfree => ?_, fun s tag p hp hfree => ⟨?_, fun g hg => ?_⟩, fun s tag i hi hfree hno => ?_⟩
  · obtain ⟨hposts, hmem, hhost, hhead⟩ := ringPut_spec (takeRecord s p.tag rest) fqBase 0 r (by decide) hfree
    exact ⟨_, exec_faultPostWrite hp hr hon hroom, hposts, hhead, hmem, hhost⟩
  · refine ⟨_, exec_fqreplyRetry hfree tag, ?_⟩
    rw [replyRetry_eq hp]
    exact ⟨rfl, rfl, fun g hg hid a ha => stall_ne_of_retry hg hid ha, fun hlive => retry_keeps_gang hlive _ _⟩
  · refine ⟨_, exec_fqreplyKill hfree tag, ?_⟩
    rw [replyKill_eq hp hg]
    refine ⟨rfl, fun x hx => launch_ne_of_mem_killLaunch hx, fun l hl hid hfree => ?_⟩
    rw [← hid]
    exact killed_mem_killLaunch (s := dropPost s tag.toNat) 1 hl hfree
  · exact stray_reply hi hfree hno

/-- Settles O34: a post's tag by counting tags tried against tags taken, a reply by the post it names. -/
theorem hostFaults : Obligations.HostFaults := ⟨faultPosts, faultReplies⟩

end Sys2Proof.Machine

/-! SUPPORT. A first-touch mapping whose leaf is not written. -/

namespace Sys2Proof.Machine

/-- The frame of port 1's first byte. -/
def portOneFrame : Nat := portOneByte / 4096

/-- `strayHome` with tables and a frame pool. Context 0's root is the first frame behind port 1, where `strayLine` lies: it serves as the
table of every level, for its first entry leads back to it, and its second is a first-touch placeholder. The pool of die 0 holds the frame
after it. -/
def strayTable : State :=
  { strayHome with
    mem := { strayHome.mem with main :=
      [(0, leBytes 8 (portOneByte + 1)), (0x1000, leBytes 8 (portOneFrame + 1)), (portOneByte, leBytes 8 (portOneByte + 1)),
        (portOneByte + 8, leBytes 8 (2 ^ 53))].foldl (fun m e => cellsWrite m e.1 e.2) [] }
    mmio := [(fpBase 0, 0x1000), (fpCtl 0, 1), (fpTail 0, 1), (cxlpStat 1, 1)] }

/-- The page at 0x1000 is a placeholder whose page goes to the pool of die 0. -/
theorem walkTables_strayTable : (walkTables strayTable 0 0x1000).level = 1 ∧ (walkTables strayTable 0 0x1000).ea = portOneByte + 8 ∧
    (walkTables strayTable 0 0x1000).entry = 2 ^ 53 := by decide

theorem poolSlot_strayTable : mmField strayTable (fpBase 0) 51 12 * 4096 +
    mmField strayTable (fpHead 0) 31 0 % 2 ^ (mmField strayTable (fpCtl 0) 4 1 + 9) * 8 = 0x1000 := by decide

theorem poolFrame_strayTable : physQuad strayTable 0x1000 % 2 ^ 40 = portOneFrame + 1 := by decide +kernel

/-- No decoder is committed, so that port 1 serves the second eighth of the CXL window (R80). -/
theorem physPlace_portOne {a : Nat} (hlo : portOneByte ≤ a) (hhi : a < portOneByte + 2 ^ 41) : physPlace strayTable a = .cxl 1 := by
  have hnone : hdmHit strayTable a = none := by
    have hoff : ∀ k < 8, mmField strayTable (hdmBlock k + 16) 0 0 = 0 := by decide
    exact List.find?_eq_none.2 fun k hk => by simp [hoff k (List.mem_range.1 hk)]
  have hup : mmField strayTable (cxlpStat 1) 0 0 = 1 := by decide
  have hport : cxlPort strayTable a = 1 := by
    unfold portOneByte at hlo hhi
    simp only [cxlPort, hnone]
    omega
  unfold portOneByte at hlo hhi
  unfold physPlace
  iterate 4 rw [if_neg (by omega)]
  rw [if_pos (by omega), hport]
  exact if_pos hup

theorem cacheable_portOne {a : Nat} (hlo : portOneByte ≤ a) (hhi : a < portOneByte + 2 ^ 41) : cacheable strayTable a = true := by
  simp only [cacheable, inTier, physPlace_portOne hlo hhi]
  rfl

theorem strayTable_sound : Claims.sound strayTable := by
  have hline : strayLine.errs = [] ∧ unbacked strayTable strayLine.pa = false :=
    ⟨rfl, by rw [unbacked, physPlace_portOne (by decide) (by decide)]⟩
  exact ⟨List.forall_mem_singleton.2 hline, (fun _ h => nomatch h), rfl, rfl, rfl, rfl, rfl, rfl, rfl, rfl, (fun _ h => nomatch h)⟩

/-- The walk's first read counts its hit, which takes the port's link down: the leaf is discarded, and the placeholder stays (R60). -/
theorem strayTable_keeps_placeholder :
    leNat ((List.range 8).map (fun j => smapGet 0 (mapTouch strayTable 0 0 0 0x1000).2.mem.main (portOneByte + 8 + j))) = 2 ^ 53 := by
  decide +kernel

/-- Refutes O33, by its clause on the frame that a mapping takes (R115): `Claims.sound` leaves the homes of the cached lines free, and under
the home of `strayLine`, which no fill gives a line, the walk's own hit takes down the link that the leaf's write goes to, so that the
page stays a placeholder. -/
theorem not_pageMapping : ¬ Obligations.PageMapping := by
  rintro ⟨-, -, hfirst⟩
  obtain ⟨-, -, htaken, -⟩ := hfirst strayTable 0 0 0 0x1000 (by decide)
  have hpool : poolOf (pteTh (2 ^ 53)) (pteStk (2 ^ 53)) 0 = 0 := by decide
  obtain ⟨hlevel, hea, hentry⟩ := walkTables_strayTable
  simp only [hlevel, hea, hentry, hpool, poolSlot_strayTable, poolFrame_strayTable] at htaken
  obtain ⟨-, -, -, hleaf⟩ := htaken trivial (by decide) (by decide)
  obtain ⟨hmapped, -⟩ := hleaf strayTable_sound (by decide)
    (fun j hj => cacheable_portOne (by unfold portOneFrame portOneByte; omega) (by unfold portOneFrame portOneByte; omega))
    (fun j hj => cacheable_portOne (by omega) (by omega)) (by decide) (by decide)
  rw [strayTable_keeps_placeholder] at hmapped
  exact absurd hmapped (by decide)

end Sys2Proof.Machine

/-! SUPPORT. The end of an instruction where no page is present, and a TLBINV that waits while another gang of its name does not. -/

namespace Sys2Proof.Machine

/-! ### Translation without tables (R93, R100, R106) -/

/-- No page is present in any context, for memory is zero and no TLB or walk cache holds one, and nothing is traced. -/
structure Pageless (s : State) : Prop where
  main : s.mem.main = []
  bank : s.mem.bank = []
  tlb : s.tlb = []
  walk : s.walk = []
  untraced : Claims.untraced s

theorem Pageless.onGang {s : State} (h : Pageless s) (f : Gang → Gang) : Pageless (s.onGang f) :=
  ⟨h.main, h.bank, h.tlb, h.walk, h.untraced⟩

theorem Pageless.onArm {s : State} (h : Pageless s) (f : Arm → Arm) : Pageless (s.onArm f) :=
  h.onGang fun g => { g with arm := f g.arm }

theorem rawByte_of_pageless {s : State} (h : Pageless s) (a : Nat) : rawByte s a = 0 := by
  unfold rawByte
  split
  · rw [h.bank]; rfl
  · rfl
  · rfl
  · rw [h.main]; rfl

theorem ctxRoot_of_pageless {s : State} (h : Pageless s) (ctx : Nat) : ctxRoot s ctx = none := by
  have hzero : ctxField s ctx 0 8 = 0 := by
    simp only [ctxField, physBytes, rawByte_of_pageless h]
    rfl
  rw [ctxRoot, hzero]
  rfl

/-- Every demand access faults (R106). -/
theorem xlate_of_pageless {s : State} (h : Pageless s) (x : Xagent) (va : Nat) (kind : AccKindF) (pick : Bool) :
    (xlate s x va kind pick).fault = some (causePageFault, 1) := by
  have htlb : tlbFind s x va = none := by simp [tlbFind, h.tlb]
  have hwalk : walkDie s true x.die x.ctx va pick = ⟨5, 0, 0, [], some 1⟩ := by
    simp [walkDie, walkCached, h.walk, walkTables, ctxRoot_of_pageless h]
  rw [xlate, xlateAs, htlb]
  dsimp only
  rw [hwalk]
  rfl

/-- A refill is done where nothing is spilled, and faults otherwise (R356). -/
theorem refill_of_pageless {s t : State} (h : Pageless s) (hok : refill s = .ok t) : t = s := by
  have hload : ∃ e, loadEntry s (s.gang.arm.spilled - 1) = .error e := by
    simp only [loadEntry, armQuad, xlate_of_pageless h]
    exact ⟨_, rfl⟩
  obtain ⟨e, he⟩ := hload
  unfold refill at hok
  rw [he] at hok
  split at hok
  · exact (Except.ok.inj hok).symm
  · cases hok

/-! ### Trap entry and joins leave the operations (R171, R357, R402) -/

theorem killLaunch_own_live (s : State) (status : Nat) : (killLaunch s s.gang.launch status).live = false := by
  simp [killLaunch, dropTeams, onLaunch]

theorem self_mem_launchTree (s : State) (n id : Nat) : id ∈ launchTree s n id := by
  cases n <;> exact List.mem_cons_self ..

theorem startReplay_own_live (s : State) : (startReplay s s.gang.launch).live = false := by
  have hown := self_mem_launchTree s forkFuel s.gang.launch
  simp [startReplay, dropTeams, hown]

theorem trace_gang (s : State) (kind : Nat) (bit : Option Nat) : (trace s kind bit).gang = s.gang :=
  (SameCore.ite ((SameCore.refl s).ringPost ..) (SameCore.refl s)).gang

theorem ringPost_live (s : State) (base lost src : Nat) (bs : List Byte) : (ringPost s base lost src bs).live = s.live := by
  unfold ringPost ringPut msixSignal hostWrite
  dsimp only
  split_ifs <;> rfl

theorem trace_live (s : State) (kind : Nat) (bit : Option Nat) : (trace s kind bit).live = s.live := by
  unfold trace
  dsimp only
  rw [apply_ite State.live, ringPost_live, ite_self]

theorem trace_of_pageless {s : State} (h : Pageless s) (kind : Nat) (bit : Option Nat) : trace s kind bit = s := by
  have hoff : bitField (mmGet s trcCtl) 0 0 = 0 := h.untraced
  simp [trace, hoff]

theorem inHandler_fstatOf (sup : Bool) (rep reason cause : Nat) : (fstatOf sup rep reason cause).getLsbD 30 = true := by
  rw [fstatOf, BitVec.getLsbD_ofNat, Nat.testBit_eq_decide_div_mod_eq]
  cases sup <;> simp <;> omega

/-- A trap takes the gang away or its arm into the handler (R402). -/
theorem trapEntry_leaves (s : State) (t : Trap) (resume : DWord) :
    (trapEntry s t resume).live = false ∨ inHandler (trapEntry s t resume).gang.arm = true := by
  unfold trapEntry
  dsimp only
  split
  · exact .inl (killLaunch_own_live ..)
  · split
    · exact .inl (startReplay_own_live s)
    · split
      · exact .inl (killLaunch_own_live ..)
      · rw [trace_gang]
        exact .inr (inHandler_fstatOf ..)

/-- The numbers and kinds of a gang's operations: a survivor's change of slot changes no more of them (R359). -/
def opKinds (g : Gang) : List (Nat × OpKind) := g.ops.map (fun o => (o.id, o.kind))

/-- Between `s` and `t` the gang at hand keeps its operations, unless it ends or its arm enters a handler. -/
def KeepsOps (s t : State) : Prop := t.live = false ∨ inHandler t.gang.arm = true ∨ opKinds t.gang = opKinds s.gang

/-- A change of the arm at hand alone, and of none of its FSTAT. -/
structure SameOps (s t : State) : Prop where
  live : t.live = s.live
  fstat : t.gang.arm.fstat = s.gang.arm.fstat
  ops : opKinds t.gang = opKinds s.gang

theorem KeepsOps.then {s t u : State} (h : KeepsOps s t) (htu : SameOps t u) : KeepsOps s u := by
  unfold KeepsOps inHandler at *
  rwa [htu.live, htu.fstat, htu.ops]

/-- An arrival that is made leaves the gang's operations (R357, R358). -/
theorem arriveOnce_of_pageless {s t : State} (h : Pageless s) (ht : arriveOnce s = some (.ok t)) : Pageless t ∧ t.gang.ops = s.gang.ops := by
  unfold arriveOnce at ht
  dsimp only at ht
  split at ht
  · cases ht
  · split at ht
    · split at ht
      · cases ht
        exact ⟨h.onArm _, rfl⟩
      · split at ht
        · cases ht
        · next u hu =>
          obtain rfl := refill_of_pageless (h.onArm _) hu
          cases ht
          exact ⟨(h.onArm _).onArm _, rfl⟩
    · cases ht
      unfold reGang
      split
      · split
        · rw [trace_of_pageless ((h.onArm _).onGang _)]
          exact ⟨(h.onArm _).onGang _, rfl⟩
        · exact ⟨h.onArm _, rfl⟩
      · exact ⟨h.onArm _, rfl⟩

theorem arriveJoin_keepsOps {s : State} (h : Pageless s) (n : Nat) : KeepsOps s (arriveJoin n s) := by
  induction n generalizing s with
  | zero => exact .inr (.inr rfl)
  | succ n ih =>
    rw [arriveJoin]
    split
    · split <;> exact .inr (.inr rfl)
    · exact (trapEntry_leaves ..).imp_right .inl
    · next t ht =>
      obtain ⟨hpageless, hops⟩ := arriveOnce_of_pageless h ht
      have hkinds : opKinds t.gang = opKinds s.gang := by rw [opKinds, hops]; rfl
      exact (ih (hpageless.onArm _)).imp_right (Or.imp_right fun hlater => hlater.trans hkinds)

theorem lowerSlot_sameOps (s : State) : SameOps s (lowerSlot s) := by
  have hlowered : ∀ k, opKinds (slotsLowered s.gang k) = opKinds s.gang := by
    intro k
    unfold slotsLowered
    split
    · rfl
    · simp only [opKinds, List.map_map]
      exact List.map_congr_left fun o _ => by dsimp only [Function.comp]; split <;> rfl
  have hfstat : ∀ k, (slotsLowered s.gang k).arm.fstat = s.gang.arm.fstat := by
    intro k
    unfold slotsLowered
    split <;> rfl
  unfold lowerSlot
  split
  · exact ⟨rfl, hfstat _, hlowered _⟩
  · exact ⟨rfl, rfl, rfl⟩

theorem preciseStop_sameOps (s : State) (before : Bool) : SameOps s (preciseStop s before) := by
  unfold preciseStop
  dsimp only
  split <;> exact ⟨trace_live .., by rw [trace_gang]; rfl, by rw [trace_gang]; rfl⟩

theorem stepDone_sameOps (s : State) : SameOps s (stepDone s) := by
  unfold stepDone
  split
  · dsimp only
    split <;> exact ⟨rfl, rfl, rfl⟩
  · exact ⟨rfl, rfl, rfl⟩

theorem boundary_keepsOps {s : State} (h : Pageless s) : KeepsOps s (boundary s) := by
  unfold boundary
  split
  · exact (arriveJoin_keepsOps h _).then (lowerSlot_sameOps _)
  · exact .inr (.inr rfl)

/-- What follows an instruction leaves the gang's operations, unless the gang ends or its arm enters a handler. -/
theorem afterIssue_keepsOps {s : State} (h : Pageless s) : KeepsOps s (afterIssue s) := by
  have hboundary := boundary_keepsOps h
  unfold afterIssue
  dsimp only
  split
  · exact hboundary
  · split
    · exact hboundary.then (preciseStop_sameOps ..)
    · split
      · exact hboundary.then (stepDone_sameOps _)
      · exact hboundary

/-! ### A landing that waits (R114) -/

theorem opReady_tlbinv_of_stillUsed {s : State} {o : Op} {v : InvScope} (hkind : o.kind = .tlbinv v) (hused : stillUsed s v o.id = true) :
    opReady s o = false := by
  simp [opReady, hkind, hused]

/-- What DATA_LANDING of operation `n` does in a gang that bears the number it names. -/
def landReady (s : State) (n : Nat) (x : Gang) : Gang :=
  match x.ops.find? (fun o => o.id == n) with
  | some o => if opReady s o then landOp x o else x
  | none => x

/-- The gang at hand waits, and DATA_LANDING is left to the other gangs of its number. -/
theorem exec_dataLanding_of_waiting {s : State} {o : Op} {n : Nat} (hlive : s.live = true)
    (ho : s.gang.ops.find? (fun o => o.id == n) = some o) (hwaits : opReady s o = false) :
    exec (.dataLanding s.gang.id n) s = .next (onGangId s s.gang.id (landReady s n)) := by
  have hgang : gangById s s.gang.id = some s.gang := by simp [gangById, gangsOf, hlive]
  show execDataLanding s.gang.id n s = _
  simp only [execDataLanding, event, hgang, Option.bind_some, ho, Option.map_some, hwaits, Bool.false_eq_true, if_false, if_true] <;> rfl

/-! ### Two gangs of one number -/

/-- A supervisor gang on an otherwise empty part. -/
def loneGang : State :=
  { State.reset with live := true, gang := { Gang.blank with arm := { Arm.blank with sup := true, mask := 1, members := 1 } } }

theorem loneGang_issues : Issues (.tlbinvAll 0) true loneGang loneGang :=
  ⟨rfl, rfl, rfl, fun _ => rfl, rfl, rfl, rfl⟩

theorem loneGang_pageless : Pageless loneGang := ⟨rfl, rfl, rfl, rfl, (by decide : mmField loneGang trcCtl 0 0 = 0)⟩

/-- TLBINV.all on `loneGang` leaves the operation with number 1. -/
theorem loneGang_runs : ∃ t, exec (.tlbinvAll 0) loneGang = .next t ∧ t.live = true ∧ inHandler t.gang.arm = false ∧
    opKinds t.gang = [(1, .tlbinv .all)] := ⟨_, rfl, by decide⟩

/-- Any account of that TLBINV names this operation. -/
theorem loneGang_op {t : State} {p : Op} (hcompletes : Completes (.tlbinvAll 0) loneGang t) (hops : t.gang.ops = loneGang.gang.ops ++ [p])
    (hmem : t.mem = loneGang.mem) (htlb : t.tlb = loneGang.tlb) (hwalk : t.walk = loneGang.walk) (hmmio : t.mmio = loneGang.mmio) :
    p.id = 1 ∧ p.kind = .tlbinv .all := by
  have hpageless : Pageless (advance t (.tlbinvAll 0)) := by
    refine ⟨congrArg Mem.main hmem, congrArg Mem.bank hmem, htlb, hwalk, ?_⟩
    show bitField (mmGet t trcCtl) 0 0 = 0
    rw [mmGet, hmmio]
    exact loneGang_pageless.untraced
  obtain ⟨u, hu, hlive, hhandler, hkinds⟩ := loneGang_runs
  obtain rfl : u = _ := Host.Outcome.next.inj (hu.symm.trans hcompletes)
  have hown : opKinds (advance t (.tlbinvAll 0)).gang = [(p.id, p.kind)] := by
    show t.gang.ops.map _ = _
    rw [hops]
    rfl
  rcases afterIssue_keepsOps hpageless with hdead | hin | hkept
  · rw [hlive] at hdead; cases hdead
  · rw [hhandler] at hin; cases hin
  · rw [hkinds, hown] at hkept
    simpa [eq_comm] using hkept

/-- A load of operation number 1, whose data may land. -/
def landable : Op := ⟨1, 0, 0, 1, .mem, [], none, false, true, 0, 0, []⟩

/-- `loneGang` with operation `p` on its counter, a second gang of its number with `landable`, and a queued matrix command that is still
to read through a page. -/
def twoGangs (p : Op) : State :=
  { loneGang with
    gang := { loneGang.gang with ops := [p] }
    others := [{ loneGang.gang with ops := [landable] }]
    mx := { loneGang.mx with queue := [⟨0, 0, 0, 0, 0, true, 0, 0, .obld 0 [(⟨0, 0x1000, 4, false, 0x7000, 1, 0⟩, 0)], 0⟩] } }

/-- The second gang's data lands, whatever the first one waits for. -/
theorem twoGangs_lands {p : Op} : (onGangId (twoGangs p) 0 (landReady (twoGangs p) 1)).others ≠ (twoGangs p).others := by
  intro h
  have hlanded := congrArg (List.map fun g : Gang => g.ops.map fun o => o.landed) h
  change [[true]] = [[false]] at hlanded
  cases hlanded

/-- Refutes O32, by its clause on a TLBINV that waits (R114, R312): it takes any state with the operation, also one where a second gang bears
the gang's number. There DATA_LANDING changes that gang, while the gang at hand waits. -/
theorem not_invalidations : ¬ Obligations.Invalidations := by
  rintro ⟨htlbinv, -⟩
  obtain ⟨t, p, hcompletes, ⟨hops, -⟩, -, -, htlb, hwalk, hmem, hmmio, hlater⟩ :=
    htlbinv (.tlbinvAll 0) 0 loneGang loneGang _ _ (.inr (.inr (.inr ⟨rfl, rfl, rfl⟩))) loneGang_issues (by decide)
  obtain ⟨hid, hkind⟩ := loneGang_op hcompletes hops hmem htlb hwalk hmmio
  have hfind : (twoGangs p).gang.ops.find? (fun x => x.id == p.id) = some p := by simp [twoGangs]
  obtain ⟨v, hv, hwaits, -⟩ := hlater (twoGangs p) rfl rfl hfind
  obtain rfl : v = .all := by simpa [hkind, eq_comm] using hv
  have hused : stillUsed (twoGangs p) .all p.id = true := by rw [hid]; rfl
  have hexec := exec_dataLanding_of_waiting (s := twoGangs p) rfl hfind (opReady_tlbinv_of_stillUsed hkind hused)
  have hsame := Host.Outcome.next.inj (hexec.symm.trans (hwaits hused))
  rw [hid] at hsame
  exact twoGangs_lands (congrArg State.others hsame)

end Sys2Proof.Machine

/-! SUPPORT. A closing move whose leaf is not written. -/

namespace Sys2Proof.Machine

/-- The bytes of context 0's descriptor and tables. Its root is the first frame behind port 1, where `strayLine` lies: it serves as the table of
every level, for its first entry leads back to it, and its second is the leaf of the page at 0x1000. -/
def portOneTables (leaf : Nat) : List Host.Cell :=
  [(0, leBytes 8 (portOneByte + 1)), (portOneByte, leBytes 8 (portOneByte + 1)), (portOneByte + 8, leBytes 8 leaf)].foldl
    (fun m e => cellsWrite m e.1 e.2) []

/-- A move of the page at 0x1000 from frame 7 to frame 8, all of whose lines are accepted. -/
def copiedMove : Move :=
  { no := 0, st := .forward, ctx := 0, va := 0x1000, src := 7, dst := 8, pool := 0, lines := 16, cursor := 16, hold := .none, th := 0, stk := 0,
    req := none, trap := false, buf := [], bufPoison := [], want := none, abort := none, atCursor := 0, leaseEnd := 0, closedAt := 0,
    leafLost := false, pinWait := [] }

/-- The leaf of a page that record 0 moves out of frame 7: MV and V. -/
def movingLeaf : Nat := 2 ^ 54 + 7 * 4096 + 1

/-- `strayHome` with tables that show the page moving, and `copiedMove` about. -/
def strayClose : State :=
  { strayHome with
    mem := { strayHome.mem with main := portOneTables movingLeaf }
    yo := { strayHome.yo with moves := [copiedMove] } }

theorem walkTables_strayClose : (walkTables strayClose 0 0x1000).level = 1 ∧ (walkTables strayClose 0 0x1000).ea = portOneByte + 8 ∧
    (walkTables strayClose 0 0x1000).entry = movingLeaf := by decide +kernel

/-- The leaf's write counts its hit before it is performed, finds the port down, and is discarded (R60): an entry there reads zero. -/
theorem strayClose_loses_leaf : ∃ t, exec (.lineAccepted 0) strayClose = .next t ∧ physQuad t (portOneByte + 8) = 0 := ⟨_, rfl, by decide +kernel⟩

/-- Refutes O36, by its clause on the close of a move (R130), which leaves the homes of the cached lines free: under the home of `strayLine`,
which no fill gives a line, the leaf's own hit takes down the link that its write goes to, so that no leaf names the destination. -/
theorem not_moves : ¬ Obligations.Moves := by
  rintro ⟨⟨-, -, -, hclose, -⟩, -⟩
  obtain ⟨hlevel, hea, hentry⟩ := walkTables_strayClose
  have hclaim := hclose strayClose 0 copiedMove rfl rfl rfl rfl rfl rfl rfl (by decide)
  simp only [show copiedMove.ctx = 0 from rfl, show copiedMove.va = 0x1000 from rfl, hlevel, hea, hentry] at hclaim
  obtain ⟨t, -, ht, -, -, hframe, -⟩ := hclaim trivial (by decide) (by decide) (by decide) (by decide) (by decide) (by decide) (by decide)
  obtain ⟨u, hu, hlost⟩ := strayClose_loses_leaf
  obtain rfl : t = u := Host.Outcome.next.inj (ht.symm.trans hu)
  rw [hlost] at hframe
  exact absurd hframe (by decide)

end Sys2Proof.Machine

/-! SUPPORT. What follows an instruction leaves the operations of the gang at hand, whatever pages are present (R171, R356, R357, R402). -/

namespace Sys2Proof.Machine

/-! ### Loads of the executing arm through its L1 (R178 to R180) -/

namespace SameCore

theorem ops {s t : State} (h : SameCore s t) : t.gang.ops = s.gang.ops := congrArg Gang.ops h.gang

variable {s t : State} (h : SameCore s t)
include h

theorem l1Decode (l : L1Line) (mask : Nat) : SameCore s (l1Decode t l mask) :=
  foldl (fun _ _ h => ite (h.logError _) (ite ((h.poisonSector _).logError _) h)) _ (h.setL1 _)

theorem l1Checked (core pa n : Nat) : SameCore s (l1Checked t core pa n) := by
  unfold Machine.l1Checked
  split
  · exact ite h (h.l1Decode ..)
  · exact h

theorem l1Hit (l : L1Line) (hn : Hint) : SameCore s (l1Hit t l hn) := ite h (h.upd rfl rfl rfl)

theorem l1Drop (core pa : Nat) : SameCore s (l1Drop t core pa) := by
  unfold Machine.l1Drop
  split
  · exact h
  · exact (h.l1WriteBack _).setL1 _

theorem l1Room {core pa : Nat} {hn : Hint} {u : State} (hu : l1Room t core pa hn = some u) : SameCore s u := by
  unfold Machine.l1Room at hu
  dsimp only at hu
  split at hu
  · obtain rfl := Option.some.inj hu
    exact h
  · obtain ⟨v, -, rfl⟩ := Option.map_eq_some_iff.1 hu
    exact h.l1Drop ..

theorem l1Lease (core pa mask time : Nat) (hn : Hint) : SameCore s (l1Lease t core pa mask time hn) := by
  unfold Machine.l1Lease
  split
  · exact h
  · next hu => exact (h.l1Room hu).upd rfl rfl rfl

theorem xlMerged (x : Xagent) (va : Nat) (kind : AccKindF) (had : List Nat) (w : Walk) : SameCore s (xlMerged t x va kind had w) :=
  ((h.walkTraffic ..).markPath ..).xlLeaf ..

theorem walkGroups {x : Xagent} {walk : State → List Nat → Nat × Walk → State}
    (hwalk : ∀ t had e, SameCore s t → SameCore s (walk t had e)) (n : Nat) (ws : List (Nat × Walk)) :
    SameCore s (walkGroups x walk n ws t) := by
  induction n generalizing t ws with
  | zero => exact h
  | succ n ih =>
    have hgroup : ∀ (ws : List (Nat × Walk)) (acc : State × List Nat), SameCore s acc.1 → SameCore s (ws.foldl (fun acc e =>
        (walk acc.1 acc.2 e, acc.2 ++ (walkReads e.2).map (fun a => a / 256))) acc).1 := by
      intro ws
      induction ws with
      | nil => exact fun _ h => h
      | cons e ws ihws => exact fun acc h => ihws _ (hwalk _ _ e h)
    unfold Machine.walkGroups
    split
    · exact h
    · exact ih (hgroup _ _ h) _

theorem xlCommits (x : Xagent) (kind : AccKindF) (ts : List (Nat × Xlat)) : SameCore s (xlCommits t x kind ts) :=
  h.walkGroups (fun _ _ _ h => h.xlMerged ..) _ _

end SameCore

theorem setAgentTime_ops (s : State) (ag time : Nat) : (setAgentTime s ag time).gang.ops = s.gang.ops := by
  unfold setAgentTime
  split <;> rfl

theorem orderRead_ops (s : State) (ag pa : Nat) : (orderRead s ag pa).gang.ops = s.gang.ops := setAgentTime_ops ..

/-- A load that a Leased copy serves. -/
theorem lineReadAt_of_leaseHit {s : State} {core pa n : Nat} {hn : Hint} {l : L1Line}
    (hhit : leaseHit (l1Checked s core pa n) core pa n (.cached hn) = some l) :
    lineReadAt s core pa n (.cached hn) =
      setAgentTime (l1Hit (l1Checked s core pa n) l hn) (armNo (l1Checked s core pa n)) (copyTime (l1Checked s core pa n) l) := by
  simp only [lineReadAt, hhit]

/-- A load of a line takes the arm's time, and leaves its operations. -/
theorem lineReadAt_ops (s : State) (core pa n : Nat) (hn : Hint) : (lineReadAt s core pa n (.cached hn)).gang.ops = s.gang.ops := by
  have hcheck := (SameCore.refl s).l1Checked core pa n
  rcases hhit : leaseHit (l1Checked s core pa n) core pa n (.cached hn) with _ | l
  case some =>
    rw [lineReadAt_of_leaseHit hhit, setAgentTime_ops]
    exact (hcheck.l1Hit ..).ops
  case none =>
    generalize hu : orderRead (l1Recall (l1Checked s core pa n) core pa) (armNo (l1Checked s core pa n)) pa = u
    have hplaced : u.gang.ops = s.gang.ops := by
      rw [← hu, orderRead_ops]
      exact (hcheck.l1Recall ..).ops
    have hsame := SameCore.refl u
    have hhome := hsame.homeLine pa n false true false
    simp only [lineReadAt, hhit, hu]
    refine (SameCore.ops (.ite ?_ (.ite ?_ (.ite hhome (.l1Lease (.ite (hhome.mmCount ..) hhome) ..))))).trans hplaced
    · split
      · exact hsame.l1Hit ..
      · exact hsame
    · split
      · exact (hhome.setL1 _).l1Hit ..
      · exact hhome

theorem readChecked_ops {s : State} {c : Checked} {ps : List (Nat × Nat)} (hc : c.target = .glob ps) (hn : Hint) :
    (readChecked s c (.cached hn)).2.2.gang.ops = s.gang.ops := by
  unfold readChecked
  rw [hc]
  dsimp only
  refine List.foldlRecOn (motive := fun acc : List Byte × Option (Nat × Nat) × State => acc.2.2.gang.ops = s.gang.ops) _ _ rfl ?_
  exact fun acc hacc q _ => (lineReadAt_ops ..).trans (((SameCore.refl _).captureTouch ..).ops.trans hacc)

/-! ### Joins and traps (R356 to R358, R402) -/

theorem loadEntry_ops {s t : State} {k : Nat} {e : StackEntry} (h : loadEntry s k = .ok (e, t)) : t.gang.ops = s.gang.ops := by
  unfold loadEntry armQuad at h
  dsimp only at h
  split at h
  · cases h
  · next c hc =>
    have htarget : c.target = .glob [(entryVa s k, 16)] := by
      split at hc
      · cases hc
      · cases hc
        rfl
    cases h
    exact (readChecked_ops htarget _).trans (SameCore.sampleHeat ((SameCore.refl s).xlCommits ..) ..).ops

theorem refill_ops {s t : State} (h : refill s = .ok t) : t.gang.ops = s.gang.ops := by
  unfold refill at h
  split at h
  · rw [Except.ok.inj h]
  · split at h
    · cases h
    · next hload =>
      split at h
      · cases h
      · cases h
        have hkept := loadEntry_ops hload
        exact hkept

theorem reGang_ops (s : State) : (reGang s).gang.ops = s.gang.ops := by
  unfold reGang
  split
  · split
    · rw [trace_gang]
      rfl
    · rfl
  · rfl

theorem arriveOnce_ops {s t : State} (h : arriveOnce s = some (.ok t)) : t.gang.ops = s.gang.ops := by
  unfold arriveOnce at h
  dsimp only at h
  split at h
  · cases h
  · split at h
    · split at h
      · cases h
        rfl
      · split at h
        · cases h
        · next hrefill =>
          have hkept := refill_ops hrefill
          cases h
          exact hkept
    · cases h
      exact reGang_ops _

/-- A gang's operations, but for the slots of the arms that issued them (R359). -/
def unslotted (g : Gang) : List Op := g.ops.map (fun o => { o with slot := 0 })

/-- Between `s` and `t` the gang at hand keeps its operations but for their slots, unless it ends or its arm enters a handler. -/
def LeavesOps (s t : State) : Prop := t.live = false ∨ inHandler t.gang.arm = true ∨ unslotted t.gang = unslotted s.gang

theorem LeavesOps.then {s t u : State} (h : LeavesOps s t) (harm : SameOps t u) (hops : unslotted u.gang = unslotted t.gang) : LeavesOps s u := by
  unfold LeavesOps inHandler at *
  rwa [harm.live, harm.fstat, hops]

theorem arriveJoin_leavesOps (n : Nat) (s : State) : LeavesOps s (arriveJoin n s) := by
  induction n generalizing s with
  | zero => exact .inr (.inr rfl)
  | succ n ih =>
    rw [arriveJoin]
    split
    · split <;> exact .inr (.inr rfl)
    · exact (trapEntry_leaves ..).imp_right .inl
    · next t ht =>
      have hkept : unslotted t.gang = unslotted s.gang := by rw [unslotted, arriveOnce_ops ht]; rfl
      exact (ih _).imp_right (Or.imp_right fun hlater => hlater.trans hkept)

theorem unslotted_slotsLowered (g : Gang) (slot : Nat) : unslotted (slotsLowered g slot) = unslotted g := by
  unfold slotsLowered
  split
  · rfl
  · simp only [unslotted, List.map_map]
    exact List.map_congr_left fun o _ => by dsimp only [Function.comp]; split <;> rfl

theorem boundary_leavesOps (s : State) : LeavesOps s (boundary s) := by
  unfold boundary
  split
  · refine (arriveJoin_leavesOps ..).then (lowerSlot_sameOps _) ?_
    unfold lowerSlot
    split
    · exact unslotted_slotsLowered ..
    · rfl
  · exact .inr (.inr rfl)

/-- What follows an instruction leaves the gang's operations but for their slots, unless the gang ends or its arm enters a handler. -/
theorem afterIssue_leavesOps (s : State) : LeavesOps s (afterIssue s) := by
  have hboundary := boundary_leavesOps s
  unfold afterIssue
  dsimp only
  split
  · exact hboundary
  · split
    · refine hboundary.then (preciseStop_sameOps ..) ?_
      unfold preciseStop
      dsimp only
      rw [trace_gang]
      split <;> rfl
    · split
      · refine hboundary.then (stepDone_sameOps _) ?_
        unfold stepDone
        split
        · dsimp only
          split <;> rfl
        · rfl
      · exact hboundary

end Sys2Proof.Machine

/-! SUPPORT. A move that is refused, for its leaf is lost. -/

namespace Sys2Proof.Machine

/-- The leaf of a page of frame 7 that no move holds: V alone. -/
def restingLeaf : Nat := 7 * 4096 + 1

/-- `strayHome` with a supervisor gang whose s4 and s5 name the page at 0x1000, its tables, a release ring, and a frame in the pool of stack 1,
whose ring lies in the frame of the tables. -/
def strayMig : State :=
  { strayHome with
    live := true
    gang := { Gang.blank with ns := 64, apbase := 1, s := [(4, 0x1000)], arm := { Arm.blank with sup := true, mask := 1, members := 1 } }
    mem := { strayHome.mem with main := portOneTables restingLeaf }
    mmio := [(fpBase 1, BitVec.ofNat 64 portOneByte), (fpCtl 1, 1), (fpTail 1, 1), (yoRlBase + 8, 1), (cxlpStat 1, 1)] }

/-- The page's walk. -/
def restingWalk : Walk := walkTables strayMig 0 0x1000

theorem leafOf_strayMig : leafOf strayMig 0 0x1000 = some restingWalk := by
  have hpresent : restingWalk.bad.isSome = false := by decide +kernel
  show (if restingWalk.bad.isSome then none else some restingWalk) = _
  rw [hpresent]
  rfl

theorem restingWalk_entry : restingWalk.entry = restingLeaf := by decide +kernel

theorem readS64_strayMig : (readS64 strayMig.gang (4 : Reg).toNat).toNat = 0x1000 := by decide

theorem strayMig_issues : Issues (.migTo false .hbm 1 8 4 1) false strayMig strayMig :=
  ⟨rfl, by decide, by decide, nofun, rfl, rfl, rfl⟩

theorem strayMig_sound : Claims.sound strayMig := by
  have hline : strayLine.errs = [] ∧ unbacked strayMig strayLine.pa = false := by decide
  exact ⟨List.forall_mem_singleton.2 hline, (fun _ h => nomatch h), rfl, rfl, rfl, rfl, rfl, rfl, rfl, rfl, (fun _ h => nomatch h)⟩

/-- The pool's read counts its hit, which takes the port's link down: the leaf reads zero, and the MIG is answered at once (R125). -/
theorem strayMig_answers : ∃ t, exec (.migTo false .hbm 1 8 4 1) strayMig = .next t ∧ t.live = true ∧ inHandler t.gang.arm = false ∧
    (unslotted t.gang).map (fun o => o.done) = [true] := ⟨_, rfl, by decide +kernel⟩

/-- Refutes O35, by its clause on a MIG that starts a move (R125): `Claims.sound` leaves the homes of the cached lines free, and under the
home of `strayLine`, which no fill gives a line, the pool's own hit takes down the link behind the page's leaf, so that the start compare
finds no leaf and no move starts. -/
theorem not_motionInstructions : ¬ Obligations.MotionInstructions := by
  rintro ⟨hmig, -⟩
  have hclaim := hmig (.migTo false .hbm 1 8 4 1) false 8 4 1 none (some 1) false strayMig strayMig
  simp only [readS64_strayMig] at hclaim
  obtain ⟨-, hleaf⟩ := hclaim (.inl ⟨.hbm, 1, rfl, rfl, rfl, rfl⟩) strayMig_issues (by decide)
  obtain ⟨-, hstill⟩ := hleaf restingWalk (by decide) leafOf_strayMig
  obtain ⟨-, hmovable⟩ := hstill (by rw [restingWalk_entry]; decide)
  obtain ⟨-, hplace⟩ := hmovable (by decide +kernel) (by rw [restingWalk_entry]; decide) (fun _ hf => nomatch hf)
  obtain ⟨-, hring⟩ := hplace 1 rfl nofun (fun _ => by rw [restingWalk_entry]; decide) rfl rfl rfl
  obtain ⟨-, hstart⟩ := hring (by decide) rfl
  obtain ⟨u, o, -, hcompletes, ⟨hops, -⟩, -, hdone, -⟩ := hstart (.inr (by decide)) strayMig_sound
  obtain ⟨t, ht, hlive, hhandler, hanswered⟩ := strayMig_answers
  obtain rfl : t = _ := Host.Outcome.next.inj (ht.symm.trans hcompletes)
  rcases afterIssue_leavesOps (advance u (.migTo false .hbm 1 8 4 1)) with hdead | hin | hkept
  · rw [hlive] at hdead; cases hdead
  · rw [hhandler] at hin; cases hin
  · have hown : (unslotted (advance u (.migTo false .hbm 1 8 4 1)).gang).map (fun o => o.done) = [o.done] := by
      show (unslotted u.gang).map _ = _
      rw [unslotted, hops]
      rfl
    rw [hkept, hown, hdone] at hanswered
    cases hanswered

end Sys2Proof.Machine

/-! SUPPORT. A WAIT of an arm whose number is a unit's (R330, R332). -/

namespace Sys2Proof.Machine

/-- A gang on core 2^40, on whose counter 0 an operation of logical time 1 has arrived. -/
def farGang : State := { State.reset with gang := { Gang.blank with core := 2 ^ 40, ctimes := [(0, 1)] } }

/-- The place of its WAIT is noted among the units' times, for the arm's number is one of theirs. -/
theorem farGang_keeps_ltime : (waitPlaced 0 0 farGang).gang.arm.ltime = 0 := by decide

/-- Refutes O23, by its clause on the place of a WAIT that covers no image (R332), which leaves the core's number free: on core 2^40, which
no part has, an arm bears the number of a job (R330), and its WAIT does not come after the operation that has arrived. -/
theorem not_waitsAndCounters : ¬ Obligations.WaitsAndCounters := by
  rintro ⟨⟨hplace, -⟩, -⟩
  have hlater : (waitPlaced 0 0 farGang).gang.arm.ltime = 1 :=
    congrArg (fun s : State => s.gang.arm.ltime) (hplace farGang 0 0 fun _ h => nomatch h)
  exact absurd (farGang_keeps_ltime.symm.trans hlater) (by decide)

end Sys2Proof.Machine

/-! SUPPORT. A discarding sweep that waits for TIME (R165, R333). -/

namespace Sys2Proof.Machine

/-- The operation of a TINV.discard. -/
def sweepOp : Op := ⟨0, 0, 0, 1, .sweep, [], none, false, false, 0, 0, []⟩

/-- Its sweep, of tensor 1. -/
def discardSweep : Sweep := { id := 0, ctx := 0, tid := 1, unreg := false, discard := true, gang := 0, op := 0 }

/-- The first line of the tensor table in frame 9, which tensor 1 covers: dirty, and held under a key of the tensor. -/
def tableLine : JLine :=
  { home := 1, key := .tile 0 1 0 0 0, pa := 0x9000, valid := 1, dirty := 1, saved := 1, back := [], backPoison := [], errs := [], lru := 0 }

/-- LSCTL.LEASE is 0, so that the bound on logical time is TIME (R333). Tensor 1 is Retiring in state 2. -/
def sweptTable : State :=
  { State.reset with
    live := true
    gang := { Gang.blank with ops := [sweepOp] }
    mem := { State.reset.mem with main := [(9, 0x90), (0x9073, 2)] }
    mmio := [(lsCtl, 0)]
    caches := { State.reset.caches with jigsaw := [tableLine], sweeps := [discardSweep] } }

theorem writeTime_sweptTable (k : Nat) : writeTime sweptTable (walkerNo 0) k = 0 := rfl

/-- The one line is backed and does not hold the descriptor of context 0. -/
theorem sweptTable_lines : ∀ l ∈ sweptTable.caches.jigsaw, unbacked sweptTable l.pa = false ∧ l.pa ≠ ctxAddr sweptTable 0 / 256 * 256 :=
  List.forall_mem_singleton.2 (by decide)

theorem entry_sweptTable : ctxTtab sweptTable discardSweep.ctx * 4096 + 64 * discardSweep.tid + 51 = 0x9073 := by decide

/-- The drop of `tableLine` counts as a store of an agent after the walkers (R330), at TIME: the write that frees the id would take its walker
past the bound, and the sweep waits. -/
theorem sweptTable_waits : ∃ t, exec (.sweepComplete 0) sweptTable = .next t ∧ physBytes t 0x9073 1 = [2] := ⟨_, rfl, by decide +kernel⟩

/-- Refutes O38, by its clause on the completion of a sweep (R165), which bounds the walkers' writes as they would be before the sweep. Where a
tensor covers the first line of its own context's table, the drop of that line comes between, and the id stays Retiring until TIME has
passed (R333). -/
theorem not_tensors : ¬ Obligations.Tensors := by
  rintro ⟨-, -, -, hfrees⟩
  have hbacked : unbacked sweptTable 0x9073 = false := by decide
  obtain ⟨t, ht, -, hfree, -⟩ := hfrees sweptTable 0 discardSweep sweepOp rfl rfl rfl rfl List.mem_cons_self rfl
    (by rwa [entry_sweptTable]) (fun k => (writeTime_sweptTable k).trans_le (Nat.zero_le _))
    (fun l hl => (sweptTable_lines l hl).imp_right fun hpa _ _ _ _ _ => hpa)
  obtain ⟨u, hu, hstill⟩ := sweptTable_waits
  obtain rfl : t = u := Host.Outcome.next.inj (ht.symm.trans hu)
  rw [entry_sweptTable] at hfree
  exact absurd (hstill.symm.trans hfree) (by decide)

end Sys2Proof.Machine

/-! SUPPORT. A tile load that reads a sector poisoned (R73, R75, R162). -/

namespace Sys2Proof.Machine

/-! ### What an instruction that completes leaves of its operations -/

/-- Where the next state has a live gang outside a handler, the gang has the operations of the instruction's effect. -/
theorem unslotted_of_completes {i : Instr} {s t u : State} (hexec : exec i s = .next t) (hlive : t.live = true)
    (hhandler : inHandler t.gang.arm = false) (hu : Completes i s u) : unslotted t.gang = unslotted u.gang := by
  obtain rfl : t = afterIssue (advance u i) := Host.Outcome.next.inj (hexec.symm.trans hu)
  rcases afterIssue_leavesOps (advance u i) with hdead | hin | hkept
  · rw [hlive] at hdead; cases hdead
  · rw [hhandler] at hin; cases hin
  · exact hkept

/-- The bytes that a gang's images are still to land. -/
def imagesLeft (g : Gang) : List (Nat × Byte) :=
  (unslotted g).flatMap fun o => match o.kind with | .image left _ => left | _ => []

/-! ### The bound on logical time (R333) -/

theorem timeAfter_le {t ag w b n : Nat} (ht : t ≤ n) (hw : w < n) : timeAfter t ag w b ≤ n := by
  unfold timeAfter
  split_ifs <;> omega

theorem stampOf_below {s : State} {n : Nat} (hn : 0 < n) (h : ∀ st ∈ s.caches.stamps, st.wts < n ∧ st.rts < n ∧ st.rd < n) (k : Nat) :
    (stampOf s k).wts < n ∧ (stampOf s k).rts < n ∧ (stampOf s k).rd < n := by
  unfold stampOf
  split
  · next hfind => exact h _ (List.mem_of_find?_eq_some hfind)
  · exact ⟨hn, hn, hn⟩

/-- An agent's next write keeps a bound that its own time, TIME and every stamp keep. -/
theorem writeTime_le_of_stamps {s : State} {ag n : Nat} (hn : 0 < n) (htime : Max.max (agentTime s ag) s.time ≤ n)
    (hstamps : ∀ st ∈ s.caches.stamps, st.wts < n ∧ st.rts < n ∧ st.rd < n) (k : Nat) : writeTime s ag k ≤ n := by
  obtain ⟨hwts, hrts, hrd⟩ := stampOf_below hn hstamps k
  refine timeAfter_le (Nat.max_le.2 ⟨timeAfter_le htime hwts, ?_⟩) hrd
  split_ifs <;> omega

/-! ### Lines of global memory -/

/-- Every entry that a translation's walk has read has A set, and its leaf D. -/
def Xlat.marked (x : Xlat) : Bool :=
  x.walk.all fun w => w.entry.testBit 5 && w.entry.testBit 6 && w.path.all fun e => e.2.2.testBit 5

theorem settled_of_marked {x : Xlat} (h : x.marked = true) : Claims.settled x := by
  intro w hw
  simpa [Xlat.marked, hw, and_assoc] using h

theorem lineAt_of_xlat {s : State} {va n pa : Nat} {kind : AccKindF} (hfault : (lineXlat s va n kind).fault = none)
    (hmarked : (lineXlat s va n kind).marked = true) (hpa : (lineXlat s va n kind).pa = pa) (haligned : pa % 256 = 0)
    (hcacheable : ∀ b < 256, cacheable s (pa + b) = true) : Claims.lineAt s va n kind pa :=
  ⟨⟨0, va, n, lineXlat s va n kind⟩, by simp only [lineCheck, hfault], hpa, settled_of_marked hmarked, haligned, hcacheable⟩

/-! ### Two rows of a tensor, and two parity lines that cannot be corrected -/

/-- Two rows of 64 words, at 0x1000 and 0x2000, in tiles of one line by four. -/
def twoRows : Tensor := ⟨0x1000, 64, 2, 1, 1, 0x1000, 0, 0, 4, 2, 0⟩

/-- The entry of `twoRows`, Registered. -/
def twoRowsEntry : List Byte :=
  leBytes 8 0x1000 ++ leBytes 4 64 ++ leBytes 4 2 ++ leBytes 4 1 ++ leBytes 4 1 ++ leBytes 8 0x1000 ++ leBytes 8 0 ++ leBytes 8 0 ++ [2, 2, 0, 1]

/-- Context 0 has its page tables in frames 1 to 5 and its tensor table, with `twoRows` as tensor 1, in frame 9. The rows lie in frames 7 and
0x17; the second begins with a 5. -/
def rowCells : List Host.Cell :=
  [(0, leBytes 8 0x1001), (8, leBytes 8 0x9000), (0x1000, leBytes 8 0x2021), (0x2000, leBytes 8 0x3021), (0x3000, leBytes 8 0x4021),
   (0x4000, leBytes 8 0x5021), (0x5008, leBytes 8 0x706D), (0x5010, leBytes 8 0x1706D), (0x9040, twoRowsEntry), (0x17000, [5])].foldl
    (fun m e => cellsWrite m e.1 e.2) []

/-- The first row, Owned by the L1 of core 0 with a dirty sector. -/
def ownedRow : L1Line :=
  { core := 0, pa := 0x70, owned := true, rts := 0, wts := 0, wby := 0, valid := 1, dirty := 1, data := [], dataPoison := [],
    errs := [], keep := false, reserved := [], lru := 0 }

/-- A team with 4 KiB of scratchpad on core 0. -/
def rowTeam : Team :=
  { id := 0, launch := 0, ctx := 0, queue := 0, no := 0, core := 0, slot := 0, lastCore := 0, gangs := 1, scrBase := 0, scrGranules := 1, block := 0,
    barwd := 0, saves := 0, tFirst := 0, age := 0, pushed := true, push := [], target := none, saved := false, savedGangs := [], endNow := false,
    forkSwap := false, back := false, affWait := none, stallSum := [], reclaim := none }

/-- The first row lies in stripe 16, whose parity line is in channel 4, and the second in stripe 52, in channel 4: the first sector of both
parity lines cannot be corrected, and one rebuild more fails channel 4 (R73, R75). -/
def failingChannel : State :=
  { State.reset with
    live := true
    gang := { Gang.blank with ns := 64, apbase := 1, a := [(5, BitVec.ofNat 128 (2 ^ 96))], arm := { Arm.blank with mask := 1, members := 1 } }
    mem := { State.reset.mem with main := rowCells }
    teams := [rowTeam]
    dram := { State.reset.dram with parityBad := [(4 * 16, 2), (4 * 52, 2)], rbPass := [(4, 255)] }
    caches := { State.reset.caches with l1 := [ownedRow] } }

theorem failingChannel_issues : Issues (.tld false 8 5 10 0 1) false failingChannel failingChannel :=
  ⟨rfl, by decide, by decide, nofun, rfl, rfl, rfl⟩

theorem failingChannel_sound : Claims.sound failingChannel := by
  have hcopy : ownedRow.errs = [] ∧ ownedRow.data = [] ∧ unbacked failingChannel (ownedRow.pa * 256) = false := by decide
  exact ⟨(fun _ h => nomatch h), List.forall_mem_singleton.2 hcopy, rfl, rfl, rfl, rfl, rfl, rfl, rfl, rfl, (fun _ h => nomatch h)⟩

theorem failingChannel_inTime : Claims.inTime failingChannel :=
  writeTime_le_of_stamps (by decide) (by decide) (fun _ h => nomatch h)

theorem failingChannel_tile : Claims.tile failingChannel 5 1 1 twoRows :=
  ⟨by decide, by decide, by decide, by decide +kernel, by decide +kernel, failingChannel_inTime⟩

/-- Row `j` of `twoRows` passes its checks. -/
theorem lineAt_failingChannel {j : Nat} (hj : j < 2) :
    Claims.lineAt failingChannel (lineVa twoRows j 0) 256 .read (0x7000 + 0x10000 * j) := by
  obtain rfl | rfl : j = 0 ∨ j = 1 := by omega
  all_goals exact lineAt_of_xlat (by decide +kernel) (by decide +kernel) (by decide +kernel) (by decide) (by decide +kernel)

theorem lineAt_of_lineIn {j c : Nat} (hc : c < tileW twoRows) (hin : lineIn twoRows j c = true) :
    Claims.lineAt failingChannel (lineVa twoRows j c) 256 .read (0x7000 + 0x10000 * j) := by
  obtain rfl : c = 0 := Nat.lt_one_iff.1 hc
  have hj : j < 2 := of_decide_eq_true (Bool.and_eq_true_iff.1 hin).1
  exact lineAt_failingChannel hj

/-- The lines of its first tile that are in extent. -/
theorem firstTile_twoRows : ((tileLines twoRows 0 0).filter fun l => lineIn twoRows l.2.2.1 l.2.2.2).map
    (fun l => (lineVa twoRows l.2.2.1 l.2.2.2, 256)) = [(0x1000, 256), (0x2000, 256)] := by decide

theorem failingChannel_walksInTime : Claims.walksInTime failingChannel 1 .read [(0x1000, 256), (0x2000, 256)] :=
  ⟨by decide +kernel, writeTime_le_of_stamps (by decide +kernel) (by decide +kernel) (by decide +kernel)⟩

/-- The second row's first byte. -/
theorem failingChannel_byte : smapGet 0 failingChannel.mem.main 0x17000 = 5 := by decide +kernel

/-- The first row's copy goes home and its controller updates the stripe's parity, whose rebuild fails channel 4; the first sector of the
second row is in that channel and cannot be rebuilt, so that it reads poisoned, and its bytes land as zeros (R162). -/
theorem failingChannel_loads_zero : ∃ t, exec (.tld false 8 5 10 0 1) failingChannel = .next t ∧ t.live = true ∧ inHandler t.gang.arm = false ∧
    (256, 5) ∉ imagesLeft t.gang := ⟨_, rfl, by decide +kernel⟩

/-- Refutes O39, by its clause on TLD (R162): `Claims.sound` leaves the state of the parity lines free (R72). Where the parity lines of two of
a tile's lines cannot be corrected, the load of the first may fail the channel of the second, which then reads poisoned, and the image
holds zeros there. -/
theorem not_tileTransfers : ¬ Obligations.TileTransfers := by
  rintro ⟨⟨hload, -⟩, -⟩
  have hoff : (readS failingChannel.gang (8 : Reg).toNat).toNat = 0 := by decide
  have hrow : (readS failingChannel.gang (10 : Reg).toNat).toNat = 0 := by decide
  have hcol : (readS failingChannel.gang ((10 : Reg).toNat + 1)).toNat = 0 := by decide
  have hclaim := hload false 8 5 10 0 1 failingChannel failingChannel 1 twoRows
  simp only [hoff, hrow, hcol, firstTile_twoRows, Nat.zero_mul, Nat.zero_add, if_true] at hclaim
  obtain ⟨u, x, left, hcompletes, ⟨hops, -⟩, ⟨⟨spans, hkind⟩, -⟩, -, -, hbytes, -⟩ := hclaim failingChannel_issues failingChannel_tile
    failingChannel_sound trivial le_rfl (by decide) (fun _ _ _ hc hin => ⟨_, lineAt_of_lineIn hc hin⟩) failingChannel_walksInTime
  obtain ⟨hread, -⟩ := hbytes 1 0 0 (by decide) (by decide) (by decide)
  have hfive : (256, smapGet 0 failingChannel.mem.main 0x17000) ∈ left :=
    hread (by decide) (by decide) 0x17000 (lineAt_failingChannel (j := 1) (by decide))
  rw [failingChannel_byte] at hfive
  obtain ⟨t, ht, hlive, hhandler, hzero⟩ := failingChannel_loads_zero
  have hown : imagesLeft t.gang = left := by
    rw [imagesLeft, unslotted_of_completes ht hlive hhandler hcompletes, unslotted, hops]
    simp [failingChannel, Gang.blank, hkind]
  exact hzero (hown ▸ hfive)

end Sys2Proof.Machine

/-! SUPPORT. CSET, CGET, ADSET and ADGET (R175, R232, R248, R249). -/

namespace Sys2Proof.Machine

/-! ### Counters (R175) -/

theorem outstanding_isEmpty_eq_false (g : Gang) (c : Nat) : (outstanding g c).isEmpty = false ↔ ∃ o ∈ g.ops, o.ctr = c := by
  simp [outstanding]

theorem csetHazard_iff (g : Gang) (c : Nat) : (hazMode g && !(outstanding g c).isEmpty) = true ↔
    g.gmode.getLsbD 0 = true ∧ ∃ o ∈ g.ops, o.ctr = c := by
  simp only [hazMode, Bool.and_eq_true, Bool.not_eq_true', outstanding_isEmpty_eq_false]

theorem csetBody_of_hazard {c : CtrNo} {s : State} (k : BitVec 16) (h : s.gang.gmode.getLsbD 0 = true ∧ ∃ o ∈ s.gang.ops, o.ctr = c.toNat) :
    csetBody c k s = .trap ⟨12, 0, c.toNat, s.gang.arm.mask, []⟩ s := if_pos ((csetHazard_iff ..).2 h)

theorem csetBody_of_no_hazard {c : CtrNo} {s : State} (k : BitVec 16)
    (h : ¬(s.gang.gmode.getLsbD 0 = true ∧ ∃ o ∈ s.gang.ops, o.ctr = c.toNat)) :
    csetBody c k s = .ok (s.onGang fun g => { g with c := smapSet 0 g.c c.toNat k, issueCnt := smapSet 0 g.issueCnt c.toNat k }) :=
  if_neg (mt (csetHazard_iff ..).1 h)

/-- A CSET, with its value in the word or in a scalar, sets the counter or traps. -/
theorem exec_cset {i : Instr} {c : CtrNo} {k : State → BitVec 16}
    (hi : (∃ v, i = .cset c v ∧ k = fun _ => v) ∨ ∃ r, i = .csetReg c r ∧ k = fun s => (readS s.gang r.toNat).extractLsb' 0 16) (s : State) :
    exec i s = issue i false s fun s => csetBody c (k s) s := by
  obtain ⟨v, rfl, rfl⟩ | ⟨r, rfl, rfl⟩ := hi <;> rfl

theorem counterMoves : Claims.CounterMoves := by
  refine ⟨fun i c k hi s s1 hissue => ⟨fun h => ?_, fun h => ?_⟩, fun d c s s1 hissue => ?_⟩
  · exact (exec_cset hi s).trans (issue_trap hissue (csetBody_of_hazard _ h))
  · exact ⟨_, (exec_cset hi s).trans (issue_ok hissue (csetBody_of_no_hazard _ h)), rfl, fun n => ⟨smapGet_set .., smapGet_set ..⟩⟩
  · obtain ⟨hwrote, hbare⟩ := wrote_writeReg s1 .scal d.toNat (fun _ => (readC s1.gang c.toNat).setWidth 32) ⟨0, 65535⟩
    exact ⟨_, issue_ok hissue rfl, hbare, hwrote⟩

/-! ### Array descriptors (R232, R248, R249) -/

/-- The fields of a descriptor do not overlap. -/
theorem descriptor_toNat (base : DWord) (ext attr : Word) :
    (Claims.descriptor base ext attr).toNat = base.toNat + ext.toNat * 2 ^ 64 + attr.toNat % 2 ^ 22 * 2 ^ 96 := by
  have hbase := base.isLt
  have hext := ext.isLt
  have hattr := Nat.mod_lt attr.toNat (y := 2 ^ 22) (by decide)
  have hlow := Nat.shiftLeft_add_eq_or_of_lt hbase ext.toNat
  have hall := Nat.shiftLeft_add_eq_or_of_lt (i := 96) (b := ext.toNat <<< 64 + base.toNat) (by rw [Nat.shiftLeft_eq]; omega)
    (attr.toNat % 2 ^ 22)
  simp only [Nat.shiftLeft_eq] at hlow hall
  simp only [Claims.descriptor, BitVec.toNat_or, BitVec.toNat_shiftLeft, BitVec.toNat_setWidth, Nat.shiftLeft_eq]
  rw [Nat.mod_eq_of_lt (a := base.toNat) (by omega), Nat.mod_eq_of_lt (a := ext.toNat) (by omega), Nat.mod_eq_of_lt (a := ext.toNat * _) (by omega),
    Nat.mod_eq_of_lt (a := attr.toNat % _) (by omega), Nat.mod_eq_of_lt (a := attr.toNat % _ * _) (by omega), Nat.or_comm base.toNat, ← hlow,
    Nat.or_comm, ← hall]
  ac_rfl

/-- ADSET leaves the reserved bits 0. -/
theorem descOf_masked (base : DWord) (ext attr : Word) :
    descOf base ext attr &&& BitVec.ofNat 128 (2 ^ 118 - 1) = Claims.descriptor base ext attr := by
  have hbase := base.isLt
  have hext := ext.isLt
  have hattr := Nat.mod_lt attr.toNat (y := 2 ^ 22) (by decide)
  apply BitVec.eq_of_toNat_eq
  rw [descriptor_toNat, descOf, BitVec.toNat_and, BitVec.toNat_ofNat, BitVec.toNat_ofNat, Nat.mod_eq_of_lt (a := 2 ^ 118 - 1) (by decide),
    Nat.and_two_pow_sub_one_eq_mod]
  omega

theorem readA_writeA (g : Gang) (n m : Nat) (x : BitVec 128) :
    readA (writeA g n x) m = if m = n then x &&& BitVec.ofNat 128 (2 ^ 118 - 1) else readA g m := smapGet_set ..

theorem withDesc_ok {n : DescNo} {s : State} (h : owedDesc s.gang n.toNat = false) (body : State → Exe) : withDesc n s body = body s := by
  rw [withDesc, h]
  rfl

theorem exec_adset {i : Instr} {n : DescNo} {e : Reg} {attr : State → Word}
    (hi : (∃ w, i = .adset n e w ∧ attr = fun _ => w) ∨ (i = .adsetR n e ∧ attr = fun s => readS s.gang (e.toNat + 3))) (s : State) :
    exec i s = issue i false s fun s => adsetBody n e.toNat (attr s) s := by
  obtain ⟨w, rfl, rfl⟩ | ⟨rfl, rfl⟩ := hi <;> rfl

/-- A scalar result in place of another. -/
theorem wroteS_writeS (s : State) (d : Nat) (x : Word) (sh : Shadow) :
    WroteS s (s.onGang fun g => writeS g d x sh) d x ∧ (s.onGang fun g => writeS g d x sh).bare = s.bare :=
  wrote_writeReg s .scal d (fun _ => x) sh

theorem descriptorMoves : Claims.DescriptorMoves := by
  refine ⟨fun i n e attr hi s s1 hissue howed => ?_, fun d n s s1 hissue howed => ?_, fun d n s s1 hissue howed => ?_,
    fun d n s s1 hissue howed => ?_⟩
  · refine ⟨_, (exec_adset hi s).trans (issue_ok hissue (withDesc_ok howed _)), rfl, fun m => ?_⟩
    rw [← descOf_masked]
    exact readA_writeA ..
  · obtain ⟨hlow, hlowBare⟩ := wroteS_writeS s1 d.toNat ((readA s1.gang n.toNat).extractLsb' 0 32) (shExact _)
    obtain ⟨hhigh, hhighBare⟩ := wroteS_writeS (s1.onGang fun g => writeS g d.toNat ((readA s1.gang n.toNat).extractLsb' 0 32) (shExact _))
      (d.toNat + 1) ((readA s1.gang n.toNat).extractLsb' 32 32) (shExact _)
    exact ⟨_, issue_ok hissue (withDesc_ok howed _), hhighBare.trans hlowBare, _, hlow, hhigh⟩
  · obtain ⟨hwrote, hbare⟩ := wroteS_writeS s1 d.toNat ((readA s1.gang n.toNat).extractLsb' 64 32) (shExact _)
    exact ⟨_, issue_ok hissue (withDesc_ok howed _), hbare, hwrote⟩
  · obtain ⟨hwrote, hbare⟩ := wroteS_writeS s1 d.toNat ((readA s1.gang n.toNat).extractLsb' 96 32) (shExact _)
    exact ⟨_, issue_ok hissue (withDesc_ok howed _), hbare, hwrote⟩

/-- Settles O10: a CSET's one check is for an operation outstanding on its counter, and every other effect is a read after a write. -/
theorem countersAndDescriptors : Obligations.CountersAndDescriptors := ⟨counterMoves, descriptorMoves⟩

end Sys2Proof.Machine

/-! SUPPORT. Accesses of an arm whose number is a unit's (R330, R333). -/

namespace Sys2Proof.Machine

/-- An arm on core 2^40, at a logical time that no bound allows, whose descriptor 5 names the first word of its team's scratchpad. -/
def farArm : State :=
  { State.reset with
    live := true
    gang := { Gang.blank with core := 2 ^ 40, ns := 64, a := [(5, BitVec.ofNat 128 (2 ^ 64 + 2 ^ 113 + 2 ^ 117))],
                              arm := { Arm.blank with mask := 1, members := 1, ltime := 2 ^ 20 } }
    teams := [{ rowTeam with core := 2 ^ 40 }] }

/-- The arm bears the number of a job, at whose time every access of it keeps within the bound. -/
theorem farArm_inTime : Claims.inTime farArm := writeTime_le_of_stamps (by decide) (by decide) (fun _ h => nomatch h)

/-- The scalar accesses of `farArm` to the word that its descriptor names. -/
def farAccess : Claims.Access := ⟨false, .ss, 8, 5, 10, 0, 1⟩

theorem farAccess_inScratch : farAccess.inScratch farArm 4 (fun _ => 0) := by
  refine ⟨fun l hl _ => ?_, rfl, rfl, farArm_inTime⟩
  obtain rfl : l = 0 := List.mem_singleton.1 hl
  exact ⟨by decide +kernel, by decide +kernel⟩

/-- An instruction of `farArm` that stalls leaves the arm without operations, where one that is issued on a counter leaves one. -/
theorem farArm_not_completes {i : Instr} {u : State} {c : Nat} {p : Op}
    (hstalls : ∃ t, exec i farArm = .next t ∧ t.live = true ∧ inHandler t.gang.arm = false ∧ unslotted t.gang = [])
    (hcompletes : Completes i farArm u) (hissued : Claims.issuedOn farArm u c p) : False := by
  obtain ⟨t, ht, hlive, hhandler, hnone⟩ := hstalls
  obtain ⟨hops, -⟩ := hissued
  have hkept := unslotted_of_completes ht hlive hhandler hcompletes
  rw [hnone, unslotted, hops] at hkept
  cases hkept

/-- Refutes O24, by its clause on loads from the scratchpad (R190), whose `Claims.inTime` leaves the core's number free: on core 2^40, which no
part has, an arm bears the number of a job (R330), so that its own time is past the bound of R333 while the number's is not, and its load
stalls. -/
theorem not_loads : ¬ Obligations.Loads := by
  rintro ⟨-, hload⟩
  obtain ⟨t, p, hcompletes, hissued, -⟩ := hload (.ld .ss 8 5 10 0 1) farAccess rfl farArm farArm 4 (fun _ => 0)
    ⟨rfl, by decide, by decide, nofun, rfl, rfl, rfl⟩ ⟨rfl, by decide⟩ (by decide) ⟨by decide +kernel, by decide, nofun⟩ (.inl (by decide +kernel))
    farAccess_inScratch
  exact farArm_not_completes ⟨_, rfl, by decide +kernel⟩ hcompletes hissued

/-- Refutes O25, by its clause on stores to the scratchpad (R190), as O24 is refuted: the store of `farArm` stalls. -/
theorem not_stores : ¬ Obligations.Stores := by
  rintro ⟨-, hstore⟩
  obtain ⟨t, p, hcompletes, hissued, -⟩ := hstore (.st .ss 8 5 10 0 1) farAccess rfl farArm farArm 4 (fun _ => 0)
    ⟨rfl, by decide, by decide, nofun, rfl, rfl, rfl⟩ ⟨rfl, by decide⟩ (by decide) ⟨by decide +kernel, by decide, nofun⟩ (.inl (by decide +kernel))
    nofun farAccess_inScratch
  exact farArm_not_completes ⟨_, rfl, by decide +kernel⟩ hcompletes hissued

/-- Refutes O27, by its clause on ATOM in the scratchpad (R191, R192), as O24 is refuted: the ATOM of `farArm` stalls. -/
theorem not_atomics : ¬ Obligations.Atomics := by
  rintro ⟨hatom, -⟩
  obtain ⟨t, p, hcompletes, hissued, -⟩ := hatom .add .normal .ss 8 5 10 0 1 farArm farArm 4 (fun _ => 0)
    ⟨rfl, by decide, by decide, nofun, rfl, rfl, rfl⟩ ⟨rfl, by decide⟩ (by decide) (by decide +kernel) (.inl rfl) (by decide)
    ⟨rfl, rfl, rfl⟩ (.inl (by decide +kernel)) nofun farAccess_inScratch
  exact farArm_not_completes ⟨_, rfl, by decide +kernel⟩ hcompletes hissued

end Sys2Proof.Machine

/-! SUPPORT. Operations issued on a counter, and the rules of accesses: prefetches, a zero mask, BoundsTrap and Misaligned (R104, R170, R190,
R243, R247). -/

namespace Sys2Proof.Machine

/-! ### Operations issued on a counter (R170) -/

/-- Gangs `g` and `h` agree in what issuing an operation on a counter leaves, its ticket and its place among the operations apart. -/
structure SameFile (g h : Gang) : Prop where
  id : h.id = g.id
  ops : h.ops = g.ops
  issueCnt : h.issueCnt = g.issueCnt
  c : h.c = g.c
  v : h.v = g.v
  s : h.s = g.s
  mask : h.arm.mask = g.arm.mask
  pc : h.arm.pc = g.arm.pc
  vflags : h.vflags = g.vflags
  sflags : h.sflags = g.sflags
  fpc : h.fpc = g.fpc

theorem SameFile.refl (g : Gang) : SameFile g g := ⟨rfl, rfl, rfl, rfl, rfl, rfl, rfl, rfl, rfl, rfl, rfl⟩

theorem SameFile.trans {g h k : Gang} (hgh : SameFile g h) (hhk : SameFile h k) : SameFile g k :=
  ⟨hhk.id.trans hgh.id, hhk.ops.trans hgh.ops, hhk.issueCnt.trans hgh.issueCnt, hhk.c.trans hgh.c, hhk.v.trans hgh.v, hhk.s.trans hgh.s, hhk.mask.trans hgh.mask,
    hhk.pc.trans hgh.pc, hhk.vflags.trans hgh.vflags, hhk.sflags.trans hgh.sflags, hhk.fpc.trans hgh.fpc⟩

theorem SameFile.readS {g h : Gang} (hgh : SameFile g h) (r : Nat) : readS h r = readS g r := by
  rw [Machine.readS, Machine.readS, hgh.mask, hgh.s]

/-- Issuing is the same between states that agree in this. -/
theorem issuedOn_of_sameFile {s s' t t' : State} {c : Nat} {o : Op} (hs : SameFile s.gang s'.gang) (ht : SameFile t.gang t'.gang)
    (h : Claims.issuedOn s' t c o) : Claims.issuedOn s t' c o := by
  obtain ⟨hops, hctr, hticket, hcnt, hc, hv, hscal, hmask, hpc, hvflags, hsflags, hfpc⟩ := h
  refine ⟨?_, hctr, ?_, fun m => ?_, ?_, ?_, ?_, ?_, ?_, ?_, ?_, ?_⟩
  · rw [ht.ops, hops, hs.ops]
  · rw [hticket, hs.issueCnt]
  · rw [ht.issueCnt, hcnt, hs.issueCnt]
  · rw [ht.c, hc, hs.c]
  · rw [ht.v, hv, hs.v]
  · rw [ht.s, hscal, hs.s]
  · rw [ht.mask, hmask, hs.mask]
  · rw [ht.pc, hpc, hs.pc]
  · rw [ht.vflags, hvflags, hs.vflags]
  · rw [ht.sflags, hsflags, hs.sflags]
  · rw [ht.fpc, hfpc, hs.fpc]

theorem hullShadow_sameFile (g : Gang) (vec : Bool) (r : Nat) (sh : Shadow) : SameFile g (hullShadow g vec r sh) := by
  unfold hullShadow
  dsimp only
  split_ifs <;> exact ⟨rfl, rfl, rfl, rfl, rfl, rfl, rfl, rfl, rfl, rfl, rfl⟩

theorem hullOwed_sameFile (g : Gang) (rs : List (Bool × Nat × Shadow)) : SameFile g (hullOwed g rs) := by
  unfold hullOwed
  induction rs generalizing g with
  | nil => exact .refl g
  | cons r rs ih => exact (hullShadow_sameFile ..).trans (ih _)

/-- The operation that `startOp` adds. -/
def startedOp (s : State) (c : CtrNo) (kind : OpKind) (lands : List RegWrite) (owed : List (Bool × Nat × Shadow)) (done : Bool) : Op :=
  ⟨s.serial, s.gang.arm.slot, c.toNat, (smapGet 0 s.gang.issueCnt c.toNat + 1).toNat, kind, lands, none, owed.isEmpty, done, s.gang.arm.ltime,
    s.dram.reading.1, s.dram.reading.2⟩

theorem newOp_issuedOn (s : State) (c : CtrNo) (kind : OpKind) (lands : List RegWrite) (owed : List (Bool × Nat × Shadow)) (done : Bool) :
    Claims.issuedOn s (newOp s c.toNat kind lands none owed.isEmpty done).2.2 c.toNat (startedOp s c kind lands owed done) :=
  ⟨rfl, rfl, rfl, fun _ => smapGet_set .., rfl, rfl, rfl, rfl, rfl, rfl, rfl, rfl⟩

theorem oweRegs_sameFile (s : State) (id c ticket : Nat) (regs : List (Bool × Nat × Shadow)) :
    SameFile s.gang (oweRegs s id c ticket regs).gang := ⟨rfl, rfl, rfl, rfl, rfl, rfl, rfl, rfl, rfl, rfl, rfl⟩

theorem startOp_issuedOn (s : State) (c : CtrNo) (kind : OpKind) (lands : List RegWrite) (owed : List (Bool × Nat × Shadow)) (done : Bool) :
    Claims.issuedOn s (startOp s c kind lands owed done).2.2 c.toNat (startedOp s c kind lands owed done) := by
  exact issuedOn_of_sameFile (.refl _) ((oweRegs_sameFile ..).trans (hullOwed_sameFile ..)) (newOp_issuedOn ..)

/-- An operation that owes nothing is one more operation, and nothing else. -/
theorem startOp_owes_nothing (s : State) (c : CtrNo) (kind : OpKind) (lands : List RegWrite) (done : Bool) :
    (startOp s c kind lands [] done).2.2 = (newOp s c.toNat kind lands none true done).2.2 := by
  have hpartner : (newOp s c.toNat kind lands none true done).2.2.gang.partner.map (fun p => p) = s.gang.partner := Option.map_id'
  simp only [startOp, oweRegs, hullOwed, State.onArm, State.onGang, List.isEmpty_nil, List.any_nil, Bool.not_false, List.filter_true,
    List.map_nil, List.append_nil, List.filter_nil, List.foldl_nil, hpartner]
  rfl

theorem performed_startedOp (s : State) (c : CtrNo) : Claims.performed (startedOp s c .mem [] [] true) := ⟨rfl, rfl, rfl, rfl⟩

theorem withCtr_ok {c : CtrNo} {s : State} (h : (outstanding s.gang c.toNat).length < 32767) (body : State → Exe) : withCtr c s body = body s :=
  if_neg (Nat.not_le.2 h)

/-! ### The operands of an access -/

/-- What every memory instruction checks first. -/
theorem withDescCtr_ok {o : Claims.Access} {s : State} (h : o.ready s) (body : State → Exe) :
    withDesc o.ad s (fun s => withCtr o.c s body) = body s := by
  rw [withDesc_ok h.1, withCtr_ok h.2]

theorem mdVec_eq (o : Claims.Access) : mdVec o.md = o.vec := by
  unfold Claims.Access.vec
  cases o.md <;> rfl

theorem accLanes_eq (o : Claims.Access) (s : State) : accLanes s.gang o.md = o.lanes s := by
  unfold Claims.Access.lanes Claims.Access.vec
  cases o.md <;> rfl

theorem accIndex_eq (o : Claims.Access) (s : State) (l : Nat) : accIndex s.gang o.md o.ix o.disp l = o.idx s l := by
  unfold Claims.Access.idx
  cases o.md <;> rfl

/-- The lanes of an access with their indices. -/
theorem accIndices_eq (o : Claims.Access) (s : State) :
    (accLanes s.gang o.md).map (fun l => (l, accIndex s.gang o.md o.ix o.disp l)) = (o.lanes s).map fun l => (l, o.idx s l) := by
  simp only [accLanes_eq, accIndex_eq]

theorem pairwise_lanes (o : Claims.Access) (s : State) : (o.lanes s).Pairwise (· < ·) := by
  unfold Claims.Access.lanes
  split
  · exact List.pairwise_lt_range.filter _
  · exact List.pairwise_singleton ..

theorem inRange_eq (o : Claims.Access) (s : State) (l : Nat) :
    o.inRange s l = (discharged (o.desc s) (accInterval s.gang o.md o.ix o.disp) || inExtent (o.desc s) (o.idx s l)) := by
  have hlast : decide (o.idx s l < descExtent (o.desc s)) = decide (o.idx s l ≤ (descExtent (o.desc s) : Int) - 1) := by
    rw [decide_eq_decide]
    omega
  rw [Claims.Access.inRange, inExtent, hlast]

/-- The lanes that the bounds decision masks or traps, with their indices (R243). -/
theorem missLanes_eq (o : Claims.Access) (s : State) :
    missLanes (o.desc s) (accInterval s.gang o.md o.ix o.disp) ((o.lanes s).map fun l => (l, o.idx s l)) =
      ((o.lanes s).filter fun l => !o.inRange s l).map fun l => (l, o.idx s l) := by
  unfold missLanes
  split
  · next h => simp [inRange_eq, h]
  · next h => simp [inRange_eq, h, List.filter_map, Function.comp_def]

theorem okLanes_eq (o : Claims.Access) (s : State) :
    okLanes (o.desc s) (accInterval s.gang o.md o.ix o.disp) ((o.lanes s).map fun l => (l, o.idx s l)) =
      ((o.lanes s).filter (o.inRange s)).map fun l => (l, o.idx s l) := by
  rw [show o.inRange s = _ from funext (inRange_eq o s)]
  unfold okLanes
  split
  · next h => simp [h]
  · next h => simp [h, List.filter_map, Function.comp_def]

/-- The registers that the element size adds may be used. -/
theorem withExtra_of_sized {o : Claims.Access} {s : State} {es : Nat} {rd wr : Bool} (h : o.sized s es rd wr) (f : Exe) :
    withExtra s (if es = 8 then extraUses o.md o.d 1 rd wr else []) (es != 8 || o.d % 2 == 0) f = f := by
  obtain ⟨-, -, hpair⟩ := h
  by_cases hes : es = 8
  · obtain ⟨heven, hok, hhazard, howed⟩ := hpair hes
    simp [withExtra, hes, heven, hok, hhazard, howed]
  · have hhazard : hazardReg s.gang [] = none := by simp [hazardReg]
    simp [withExtra, hes, hhazard, owedWrite]

/-! ### The instructions that access memory (R190) -/

theorem exec_load {i : Instr} {o : Claims.Access} (h : Claims.loadOf i = some o) :
    ∃ g hn, ∀ s, exec i s = issue i false s (loadBody g o.sx hn o.md o.d o.ad o.ix o.disp o.c) := by
  unfold Claims.loadOf at h
  split at h <;> cases h
  · exact ⟨false, .normal, fun _ => rfl⟩
  · exact ⟨true, .normal, fun _ => rfl⟩
  · exact ⟨false, _, fun _ => rfl⟩
  · exact ⟨true, _, fun _ => rfl⟩

theorem exec_store {i : Instr} {o : Claims.Access} (h : Claims.storeOf i = some o) :
    ∃ g hn, ∀ s, exec i s = issue i false s (storeBody g hn o.md o.d o.ad o.ix o.disp o.c) := by
  unfold Claims.storeOf at h
  split at h <;> cases h
  · exact ⟨false, .normal, fun _ => rfl⟩
  · exact ⟨true, .normal, fun _ => rfl⟩
  · exact ⟨false, _, fun _ => rfl⟩
  · exact ⟨true, _, fun _ => rfl⟩

theorem exec_prefetch {i : Instr} {o : Claims.Access} (h : Claims.prefetchOf i = some o) :
    ∃ hn, ∀ s, exec i s = issue i false s (prefetchBody hn o.md o.ad o.ix o.disp o.c) := by
  unfold Claims.prefetchOf at h
  split at h <;> cases h
  · exact ⟨.normal, fun _ => rfl⟩
  · exact ⟨_, fun _ => rfl⟩

/-- What a load and a store check before they access an element: no lane out of range meets trap mode, and R104. -/
def accessChecks (o : Claims.Access) (s : State) (es : Nat) (kind : AccKindF) (twin : Bool) (f : List Checked → State → Exe) : Exe :=
  if descTrap (o.desc s) && !((o.lanes s).filter fun l => !o.inRange s l).isEmpty then
    .trap (boundsTrap (((o.lanes s).filter fun l => !o.inRange s l).map fun l => (l, o.idx s l))) s
  else withAccess s (o.desc s) es kind twin (o.elems s es) f

theorem elems_eq (o : Claims.Access) (s : State) (es : Nat) :
    (((o.lanes s).filter (o.inRange s)).map fun l => (l, o.idx s l)).map (fun e => (⟨e.1, elemAddr (o.desc s) e.2, es⟩ : Elem)) =
      o.elems s es := by
  rw [List.map_map]
  rfl

theorem loadBody_checks {o : Claims.Access} {s : State} {es : Nat} (g : Bool) (hn : Hint) (hready : o.ready s)
    (hmask : ¬(o.vec = true ∧ s.gang.arm.mask = 0)) (hsized : o.sized s es false true) :
    ∃ f, loadBody g o.sx hn o.md o.d o.ad o.ix o.disp o.c s = accessChecks o s es .read false f := by
  have hactive : (o.vec && s.gang.arm.mask == 0) = false := by simpa using hmask
  have hdesc : readA s.gang o.ad.toNat = o.desc s := rfl
  obtain ⟨hsize, hnonzero, -⟩ := id hsized
  simp only [loadBody, withDescCtr_ok hready, mdVec_eq, hactive, Bool.false_eq_true, if_false, hdesc, hsize, hnonzero, withExtra_of_sized hsized,
    accIndices_eq, missLanes_eq, okLanes_eq, elems_eq, List.isEmpty_map]
  exact ⟨_, rfl⟩

theorem storeBody_checks {o : Claims.Access} {s : State} {es : Nat} (g : Bool) (hn : Hint) (hready : o.ready s)
    (hmask : ¬(o.vec = true ∧ s.gang.arm.mask = 0)) (hsized : o.sized s es true false) :
    ∃ f, storeBody g hn o.md o.d o.ad o.ix o.disp o.c s = accessChecks o s es .write o.vec f := by
  have hactive : (o.vec && s.gang.arm.mask == 0) = false := by simpa using hmask
  have hdesc : readA s.gang o.ad.toNat = o.desc s := rfl
  obtain ⟨hsize, hnonzero, -⟩ := id hsized
  simp only [storeBody, withDescCtr_ok hready, mdVec_eq, hactive, Bool.false_eq_true, if_false, hdesc, hsize, hnonzero, withExtra_of_sized hsized,
    accIndices_eq, missLanes_eq, okLanes_eq, elems_eq, List.isEmpty_map]
  exact ⟨_, rfl⟩

/-- A load or a store that issues comes to its checks. -/
theorem exec_access {i : Instr} {o : Claims.Access} {s s1 : State} {es : Nat} {rd wr : Bool} (hi : Claims.loadOf i = some o ∨ Claims.storeOf i = some o)
    (hready : o.ready s1) (hmask : ¬(o.vec = true ∧ s1.gang.arm.mask = 0))
    (hload : Claims.loadOf i = some o → rd = false ∧ wr = true) (hstore : Claims.storeOf i = some o → rd = true ∧ wr = false)
    (hsized : o.sized s1 es rd wr) :
    ∃ body kind twin f, exec i s = issue i false s body ∧ body s1 = accessChecks o s1 es kind twin f := by
  obtain h | h := hi
  · obtain ⟨g, hn, hexec⟩ := exec_load h
    obtain ⟨rfl, rfl⟩ := hload h
    obtain ⟨f, hf⟩ := loadBody_checks g hn hready hmask hsized
    exact ⟨_, _, _, f, hexec s, hf⟩
  · obtain ⟨g, hn, hexec⟩ := exec_store h
    obtain ⟨rfl, rfl⟩ := hstore h
    obtain ⟨f, hf⟩ := storeBody_checks g hn hready hmask hsized
    exact ⟨_, _, _, f, hexec s, hf⟩

/-! ### A zero mask (R190, R362) -/

theorem loadBody_zeroMask {o : Claims.Access} {s : State} (hready : o.ready s) (hmask : (o.vec && s.gang.arm.mask == 0) = true)
    (g sx : Bool) (hn : Hint) (d : Nat) : loadBody g sx hn o.md d o.ad o.ix o.disp o.c s = arriveOnly o.c s := by
  rw [loadBody, withDescCtr_ok hready, mdVec_eq, hmask, if_pos rfl]

theorem storeBody_zeroMask {o : Claims.Access} {s : State} (hready : o.ready s) (hmask : (o.vec && s.gang.arm.mask == 0) = true)
    (g : Bool) (hn : Hint) (d : Nat) : storeBody g hn o.md d o.ad o.ix o.disp o.c s = arriveOnly o.c s := by
  rw [storeBody, withDescCtr_ok hready, mdVec_eq, hmask, if_pos rfl]

theorem prefetchBody_zeroMask {o : Claims.Access} {s : State} (hready : o.ready s) (hmask : (o.vec && s.gang.arm.mask == 0) = true)
    (hn : Hint) : prefetchBody hn o.md o.ad o.ix o.disp o.c s = arriveOnly o.c s := by
  rw [prefetchBody, withDescCtr_ok hready, mdVec_eq, hmask, if_pos rfl]

theorem atomBody_zeroMask {o : Claims.Access} {s : State} (hready : o.ready s) (hmask : (o.vec && s.gang.arm.mask == 0) = true)
    (f : AtomFn) (d : Nat) : atomBody f o.md d o.ad o.ix o.disp o.c s = arriveOnly o.c s := by
  rw [atomBody, withDescCtr_ok hready, mdVec_eq, hmask, if_pos rfl]

theorem batomBody_zeroMask {o : Claims.Access} {s : State} (hready : o.ready s) (hmask : (o.vec && s.gang.arm.mask == 0) = true)
    (f : AtomFn) (d : Nat) : batomBody f o.md d o.ad o.ix o.disp o.c s = arriveOnly o.c s := by
  rw [batomBody, withDescCtr_ok hready, mdVec_eq, hmask, if_pos rfl]

theorem zeroMaskAccess : Claims.ZeroMaskAccess := by
  intro i o hi s s1 hissue hready hvec hmask
  have hzero : (o.vec && s1.gang.arm.mask == 0) = true := by simp [hvec, hmask]
  have hbody : ∃ body, exec i s = issue i false s body ∧ body s1 = arriveOnly o.c s1 := by
    obtain h | h | h | ⟨f, hn, md, d, ad, ix, disp, cn, rfl | rfl, rfl⟩ := hi
    · obtain ⟨g, hn, hexec⟩ := exec_load h
      exact ⟨_, hexec s, loadBody_zeroMask hready hzero ..⟩
    · obtain ⟨g, hn, hexec⟩ := exec_store h
      exact ⟨_, hexec s, storeBody_zeroMask hready hzero ..⟩
    · obtain ⟨hn, hexec⟩ := exec_prefetch h
      exact ⟨_, hexec s, prefetchBody_zeroMask hready hzero _⟩
    · exact ⟨_, rfl, atomBody_zeroMask hready hzero f d.toNat⟩
    · exact ⟨_, rfl, batomBody_zeroMask hready hzero f d.toNat⟩
  obtain ⟨body, hexec, hok⟩ := hbody
  refine ⟨_, _, hexec.trans (issue_ok hissue hok), startOp_issuedOn .., performed_startedOp .., ?_⟩
  rw [startOp_owes_nothing]
  rfl

end Sys2Proof.Machine

/-! SUPPORT. Prefetches change nothing of the core but its caches (R113, R182). -/

namespace Sys2Proof.Machine.SameCore

variable {s t : State} (h : SameCore s t)
include h

theorem xlPrefetch (x : Xagent) (va : Nat) (a : Xlat) : SameCore s (xlPrefetch t x va a) := by
  unfold Machine.xlPrefetch
  split
  · exact h
  · exact (h.walkTraffic ..).xlInstall ..

theorem prefetchLine (x : Xagent) (area : Option Nat) (va : Nat) (hn : Option Hint) (low : Bool) :
    SameCore s (prefetchLine t x area va hn low) := by
  have hfetch := h.xlPrefetch x va (xlateAs false t x va .read (pickCached t 127))
  refine ite (h.mmCount ..) (ite hfetch ?_)
  split
  · have hhome := fun core pa => (hfetch.l1Recall core pa).homeLine pa 256 false true low
    exact ite hfetch (ite (hhome ..) ((hhome ..).l1Lease ..))
  · exact (hfetch.l1Recall ..).homeLine ..

theorem reserveLines (op : Nat) (hn : Hint) (pf : Bool) (area : Option Nat) (f : Footprint) : SameCore s (reserveLines t op hn pf area f) :=
  ite (h.mmCount ..) (setL1 (foldl (fun _ _ h => h.prefetchLine ..) _ h) _)

theorem postHint (area : Option Nat) (f : Footprint) : SameCore s (postHint t area f) :=
  ite h (ite (h.mmCount ..) (h.upd rfl rfl rfl))

theorem footprintLoad (ovr : Nat) (reserve : Bool) (hn : Hint) (pf : Bool) (f : Footprint) :
    SameCore s (footprintLoad t ovr reserve hn pf f) := ite h (ite (h.reserveLines ..) (h.postHint ..))

end Sys2Proof.Machine.SameCore

/-! SUPPORT. The rules of accesses (R104, R190, R243, R247). -/

namespace Sys2Proof.Machine

/-- PF does not trap: past its prefetches it arrives. -/
theorem prefetchBody_arrives {o : Claims.Access} {s : State} (hn : Hint) (hready : o.ready s) (hsize : descBytes (o.desc s) ≠ 0) :
    ∃ t, SameCore s t ∧ prefetchBody hn o.md o.ad o.ix o.disp o.c s = arriveOnly o.c t := by
  rw [prefetchBody, withDescCtr_ok hready]
  split
  · exact ⟨s, .refl s, rfl⟩
  · dsimp only
    have hsize : ¬descBytes (readA s.gang o.ad.toNat) = 0 := hsize
    rw [if_neg hsize]
    refine ⟨_, ?_, rfl⟩
    refine SameCore.foldl (fun t e h => ?_) _ (SameCore.ite ((SameCore.refl s).footprintLoad ..) (.refl s))
    split
    · exact h.mmCount ..
    · refine SameCore.ite (h.mmCount ..) ?_
      split
      · exact SameCore.foldl (fun _ _ h => h.prefetchLine ..) _ h
      · exact h

theorem prefetchesIssue : Claims.PrefetchesIssue := by
  intro i o hi s s1 hissue hready hsize
  obtain ⟨hn, hexec⟩ := exec_prefetch hi
  obtain ⟨t, hcore, hbody⟩ := prefetchBody_arrives hn hready hsize
  have hissued := startOp_issuedOn t o.c .mem [] [] true
  rw [Claims.issuedOn, hcore.gang] at hissued
  exact ⟨_, _, (hexec s).trans (issue_ok hissue hbody), hissued, rfl, performed_startedOp ..⟩

/-! ### BoundsTrap (R243, R247) -/

theorem lowestLane_of_first {l : Nat} {i : Int} {rest : List (Nat × Int)} (h : ∀ e ∈ rest, l < e.1) : lowestLane ((l, i) :: rest) = (l, i) := by
  unfold lowestLane
  dsimp only [List.tail_cons, List.headD_cons]
  induction rest with
  | nil => rfl
  | cons e rest ih =>
    obtain ⟨he, hrest⟩ := List.forall_mem_cons.1 h
    rw [List.foldl_cons, if_neg (Nat.lt_asymm he)]
    exact ih hrest

theorem sext64_eq (i : Int) : BitVec.ofNat 64 (sext64 i) = BitVec.ofInt 64 i := by
  apply BitVec.eq_of_toNat_eq
  simp only [sext64, BitVec.toNat_ofNat, BitVec.toNat_ofInt]
  omega

/-- The lanes out of range, the lowest of them first. -/
theorem missed_cons {o : Claims.Access} {s : State} {l : Nat} (h : (o.lanes s).find? (fun l => !o.inRange s l) = some l) :
    ∃ rest, (o.lanes s).filter (fun l => !o.inRange s l) = l :: rest ∧ ∀ m ∈ rest, l < m := by
  rw [← List.head?_filter] at h
  obtain ⟨rest, hrest⟩ := List.head?_eq_some_iff.1 h
  exact ⟨rest, hrest, (List.pairwise_cons.1 (hrest ▸ (pairwise_lanes o s).filter _)).1⟩

theorem mask_of_mem_lanes {o : Claims.Access} {s : State} {l : Nat} (h : l ∈ o.lanes s) : ¬(o.vec = true ∧ s.gang.arm.mask = 0) := by
  rintro ⟨hvec, hmask⟩
  simp [Claims.Access.lanes, hvec, Claims.lanes, active, hmask] at h

theorem mem_missed {o : Claims.Access} {s : State} {l : Nat} : l ∈ (o.lanes s).filter (fun l => !o.inRange s l) ↔
    ((o.lanes s).contains l && !o.inRange s l) = true := by
  simp [List.mem_filter]

theorem boundsTraps : Claims.BoundsTraps := by
  intro i o hi s s1 es rd wr hissue hready hload hstore hsized htrap l hl
  obtain ⟨rest, hmissed, hlowest⟩ := missed_cons hl
  have hmask : ¬(o.vec = true ∧ s1.gang.arm.mask = 0) := mask_of_mem_lanes (List.mem_of_find?_eq_some hl)
  obtain ⟨body, kind, twin, f, hexec, hbody⟩ := exec_access (s := s) hi hready hmask hload hstore hsized
  have hlow : lowestLane ((l :: rest).map fun l => (l, o.idx s1 l)) = (l, o.idx s1 l) :=
    lowestLane_of_first (by simpa using hlowest)
  rw [accessChecks, htrap, hmissed] at hbody
  refine ⟨_, hexec.trans (issue_trap hissue hbody), rfl, ?_, ?_, fun m hm => ?_⟩
  · rw [boundsTrap, hlow]
  · rw [boundsTrap, hlow, sext64_eq]
  · rw [Bool.eq_iff_iff, ← mem_missed, hmissed]
    simpa [boundsTrap, Function.comp_def] using getLsbD_lanesMask (l :: rest) hm

/-! ### Misaligned (R104) -/

theorem laneTrap_cons (cause : Nat) (kind : AccKindF) {bad rest : List (Nat × Nat × Nat)} {l a r : Nat} (h : bad = (l, a, r) :: rest) :
    ∃ x, laneTrap cause kind bad = some x ∧ x.cause = cause ∧ x.reason = r ∧ x.faddr = a := by
  subst h
  exact ⟨_, rfl, rfl, rfl, rfl⟩

theorem apertureFaults_eq_nil {p : ApCtx} {ovr : Nat} {els : List Elem} (h : ∀ e ∈ els, ∃ t, resolve p ovr e.addr e.n e.lane = .ok t) :
    apertureFaults p ovr els = [] := by
  refine List.filterMap_eq_nil_iff.2 fun e he => ?_
  obtain ⟨t, ht⟩ := h e he
  rw [ht]

theorem misaligned_cons {align : Nat} {els : List Elem} {e : Elem} (h : els.find? (fun e => decide (e.addr % align ≠ 0)) = some e) :
    ∃ rest, misaligned align els = (e.lane, e.addr, 0) :: rest := by
  obtain ⟨hbad, before, after, rfl, hgood⟩ := List.find?_eq_some_iff_append.1 h
  have hnil : misaligned align before = [] := by
    refine List.filterMap_eq_nil_iff.2 fun x hx => ?_
    simpa using hgood x hx
  refine ⟨misaligned align after, ?_⟩
  have hcons : misaligned align (e :: after) = (e.lane, e.addr, 0) :: misaligned align after := by
    exact List.filterMap_cons_some (if_neg (of_decide_eq_true hbad))
  rw [← hcons, misaligned, List.filterMap_append, ← misaligned, hnil, List.nil_append, misaligned]

theorem mask_of_mem_elems {o : Claims.Access} {s : State} {es : Nat} {e : Elem} (h : e ∈ o.elems s es) :
    ¬(o.vec = true ∧ s.gang.arm.mask = 0) := by
  obtain ⟨l, hl, -⟩ := List.mem_map.1 h
  exact mask_of_mem_lanes (List.mem_of_mem_filter hl)

theorem accessChecks_of_bounded {o : Claims.Access} {s : State} (h : o.bounded s) (es : Nat) (kind : AccKindF) (twin : Bool)
    (f : List Checked → State → Exe) : accessChecks o s es kind twin f = withAccess s (o.desc s) es kind twin (o.elems s es) f := by
  refine if_neg ?_
  obtain htrap | hrange := h
  · simp [htrap]
  · simpa using fun _ => hrange

theorem misalignedElements : Claims.MisalignedElements := by
  intro i o hi s s1 es rd wr hissue hready hload hstore hsized hbounded hplaces e he
  have hmask : ¬(o.vec = true ∧ s1.gang.arm.mask = 0) := mask_of_mem_elems (List.mem_of_find?_eq_some he)
  obtain ⟨body, kind, twin, f, hexec, hbody⟩ := exec_access (s := s) hi hready hmask hload hstore hsized
  obtain ⟨rest, hrest⟩ := misaligned_cons he
  obtain ⟨x, hx, hcause, hreason, haddr⟩ := laneTrap_cons causeMisaligned kind hrest
  have hcheck : checkAccess s1 (armAgent s1) (apCtx s1) (descOvr (o.desc s1)) es kind (o.elems s1 es) = .error x := by
    rw [checkAccess, apertureFaults_eq_nil hplaces, hx]
    rfl
  have hmarks : faultMarks s1 (armAgent s1) (apCtx s1) (descOvr (o.desc s1)) es kind (o.elems s1 es) = s1 := by
    simp [faultMarks, hrest]
  rw [accessChecks_of_bounded hbounded, withAccess, hcheck, hmarks] at hbody
  exact ⟨x, s1, hexec.trans (issue_trap hissue hbody), hcause, hreason, haddr, rfl⟩

/-- Settles O26: what an access checks, in order: the bounds decision, the places of its elements, their alignment; a prefetch makes no check. -/
theorem accessRules : Obligations.AccessRules := ⟨prefetchesIssue, zeroMaskAccess, boundsTraps, misalignedElements⟩

end Sys2Proof.Machine

/-! SUPPORT. Bank memory: the fields of an object, and what an operation that reaches one leaves alone (R184, R186, R188, R195). -/

namespace Sys2Proof.Machine

/-! ### Little-endian numbers (R7) -/

theorem leNat_leBytes (n v : Nat) : leNat (leBytes n v) = v % 256 ^ n := by
  induction n generalizing v with
  | zero => simp [leBytes, leNat, Nat.mod_one]
  | succ n ih => calc leNat (leBytes (n + 1) v) = v % 256 + 256 * (v / 256 % 256 ^ n) := by rw [leBytes, leNat, ih, BitVec.toNat_ofNat]
      _ = v % 256 ^ (n + 1) := by rw [pow_succ', Nat.mod_mul]

theorem leNat_lt (bs : List Byte) : leNat bs < 256 ^ bs.length := by
  induction bs with
  | nil => exact Nat.one_pos
  | cons b bs ih =>
    have hb := b.isLt
    rw [leNat, List.length_cons, pow_succ']
    omega

/-! ### Fields of objects -/

theorem bkNat_congr {s t : State} (h : t.mem.bank = s.mem.bank) (a n : Nat) : bkNat t a n = bkNat s a n := by rw [bkNat, bkNat, h]

theorem bkNat_lt (s : State) (a n : Nat) : bkNat s a n < 256 ^ n := by
  simpa [bkNat, cellsRead_eq] using leNat_lt (cellsRead s.mem.bank a n)

theorem bkNat_bkPut (s : State) (a n v : Nat) : bkNat (bkPut s a n v) a n = v % 256 ^ n := by
  have hread := cellsRead_cellsWrite s.mem.bank a (leBytes n v)
  rw [leBytes_length] at hread
  rw [bkNat, bkPut, hread, leNat_leBytes]

theorem bkNat_bkPut_ne (s : State) {a n b m : Nat} (v : Nat) (h : b + m ≤ a ∨ a + n ≤ b) : bkNat (bkPut s a n v) b m = bkNat s b m := by
  rw [bkNat, bkPut, cellsRead_cellsWrite_ne _ _ _ _ _ (by rwa [leBytes_length]), bkNat]

theorem bkNat_bkOr (s : State) (a bits : Nat) : bkNat (bkOr s a bits) a 1 = (bkNat s a 1 ||| bits) % 256 := bkNat_bkPut ..

theorem bkNat_bkOr_ne (s : State) {a b m : Nat} (bits : Nat) (h : b + m ≤ a ∨ a + 1 ≤ b) : bkNat (bkOr s a bits) b m = bkNat s b m :=
  bkNat_bkPut_ne s _ h

/-! ### Memory but for an object -/

theorem onlyObject_of_mem_eq {s t : State} (h : t.mem = s.mem) (obj n : Nat) : Claims.onlyObject s t obj n := by
  unfold Claims.onlyObject
  rw [h]
  exact ⟨rfl, fun _ _ => rfl⟩

theorem onlyObject_trans {s t u : State} {obj n : Nat} (hst : Claims.onlyObject s t obj n) (htu : Claims.onlyObject t u obj n) :
    Claims.onlyObject s u obj n := by
  obtain ⟨hmem, hbank⟩ := hst
  obtain ⟨hmem', hbank'⟩ := htu
  exact ⟨by rw [hmem', hmem], fun k hk => (hbank' k hk).trans (hbank k hk)⟩

theorem onlyObject_mem_eq {s t u : State} {obj n : Nat} (hst : Claims.onlyObject s t obj n) (h : u.mem = t.mem) :
    Claims.onlyObject s u obj n := onlyObject_trans hst (onlyObject_of_mem_eq h obj n)

theorem onlyObject_bkPut {s : State} (h : Claims.banksSound s) {obj n a m : Nat} (v : Nat) (hlow : obj ≤ a) (hhigh : a + m ≤ obj + n) :
    Claims.onlyObject s (bkPut s a m v) obj n := by
  obtain ⟨-, hpoison, -⟩ := h
  refine ⟨?_, fun k hk => ?_⟩
  · simp [bkPut, healed, hpoison]
  · rw [bkPut, smapGet_cellsWrite, leBytes_length, if_neg (by omega)]

/-! ### What an operation on an object does before it (R177, R184, R189) -/

/-- Between `s` and `t` nothing of memory, gangs and launches has changed but logical time and the watch mark of the executing arm. -/
structure Reaches (s t : State) : Prop where
  mem : t.mem = s.mem
  errors : t.banks.errors = s.banks.errors
  waits : t.banks.waits = s.banks.waits
  launches : t.launches = s.launches
  serial : t.serial = s.serial
  live : t.live = s.live
  others : t.others = s.others
  teams : t.teams = s.teams
  gang : ∃ watch time, t.gang = { s.gang with arm := { s.gang.arm with watchHit := watch, ltime := time } }

namespace Reaches

theorem refl (s : State) : Reaches s s := ⟨rfl, rfl, rfl, rfl, rfl, rfl, rfl, rfl, _, _, rfl⟩

theorem trans {s t u : State} (hst : Reaches s t) (htu : Reaches t u) : Reaches s u := by
  obtain ⟨watch, time, hgang⟩ := hst.gang
  obtain ⟨watch', time', hgang'⟩ := htu.gang
  exact ⟨htu.mem.trans hst.mem, htu.errors.trans hst.errors, htu.waits.trans hst.waits, htu.launches.trans hst.launches,
    htu.serial.trans hst.serial, htu.live.trans hst.live, htu.others.trans hst.others, htu.teams.trans hst.teams, watch', time', by rw [hgang', hgang]⟩

theorem foldl {β : Type} {f : State → β → State} (hf : ∀ t x, Reaches t (f t x)) (xs : List β) (s : State) : Reaches s (xs.foldl f s) := by
  induction xs generalizing s with
  | nil => exact refl s
  | cons x xs ih => exact (hf s x).trans (ih _)

theorem noteWatch (s : State) (vas : List (Nat × Nat)) (kind : AccKindF) : Reaches s (noteWatch s vas kind) := by
  unfold Machine.noteWatch
  split
  · exact ⟨rfl, rfl, rfl, rfl, rfl, rfl, rfl, rfl, _, _, rfl⟩
  · exact refl s

theorem setAgentTime (s : State) (ag t : Nat) : Reaches s (setAgentTime s ag t) := by
  unfold Machine.setAgentTime
  split
  · exact ⟨rfl, rfl, rfl, rfl, rfl, rfl, rfl, rfl, _, _, rfl⟩
  · exact ⟨rfl, rfl, rfl, rfl, rfl, rfl, rfl, rfl, _, _, rfl⟩

theorem stampWrite (s : State) (ag t k : Nat) : Reaches s (stampWrite s ag t k) := ⟨rfl, rfl, rfl, rfl, rfl, rfl, rfl, rfl, _, _, rfl⟩

theorem stampRead (s : State) (ag t k : Nat) : Reaches s (stampRead s ag t k) := ⟨rfl, rfl, rfl, rfl, rfl, rfl, rfl, rfl, _, _, rfl⟩

theorem orderWrites (s : State) (ag : Nat) (ks : List Nat) : Reaches s (orderWrites s ag ks) :=
  (foldl (fun _ _ => stampWrite ..) ks s).trans (setAgentTime ..)

theorem orderReads (s : State) (ag : Nat) (ks : List Nat) : Reaches s (orderReads s ag ks) :=
  (foldl (fun _ _ => stampRead ..) ks s).trans (setAgentTime ..)

/-- A unit without errors wakes without a change. -/
theorem wakeUnit {s : State} (h : s.banks.errors = []) (u : Nat) : Reaches s (wakeUnit s u) := by
  unfold Machine.wakeUnit unitErrors
  simp only [h, List.filter_nil, List.foldl_nil]
  split_ifs
  · exact refl s
  · exact ⟨rfl, h.symm, rfl, rfl, rfl, rfl, rfl, rfl, _, _, rfl⟩
  · exact ⟨rfl, h.symm, rfl, rfl, rfl, rfl, rfl, rfl, _, _, rfl⟩
  · exact ⟨rfl, h.symm, rfl, rfl, rfl, rfl, rfl, rfl, _, _, rfl⟩

theorem wakeTouched {s : State} (h : s.banks.errors = []) (u : Nat) : Reaches s (wakeTouched s u) :=
  (wakeUnit h u).trans ⟨rfl, rfl, rfl, rfl, rfl, rfl, rfl, rfl, _, _, rfl⟩

theorem wakesTouched (us : List Nat) {s : State} (h : s.banks.errors = []) : Reaches s (us.foldl Machine.wakeTouched s) := by
  induction us generalizing s with
  | nil => exact refl s
  | cons u us ih => exact (wakeTouched h u).trans (ih ((wakeTouched h u).errors.trans h))

theorem touchUnit {s : State} (h : s.banks.errors = []) (scratch : Bool) (off n : Nat) : Reaches s (touchUnit s scratch off n) := by
  have hwake := wakesTouched (natRange (unitOf scratch off) (unitOf scratch (off + n - 1) + 1 - unitOf scratch off)) h
  have herrors := hwake.errors.trans h
  unfold Machine.touchUnit
  simp only [herrors, List.filter_nil, List.foldl_nil]
  exact hwake.trans ⟨rfl, herrors.symm, rfl, rfl, rfl, rfl, rfl, rfl, _, _, rfl⟩

variable {s : State} (h : Claims.banksSound s)
include h

/-- Without capture launches no pre-image is kept (R417). -/
theorem captureTouch_eq (launch : Nat) (bank : Bool) (a va : Nat) : captureTouch s launch bank a va = s := by
  unfold captureTouch
  split
  · rfl
  · next l hl =>
    obtain ⟨-, -, hmodes⟩ := h
    obtain ⟨-, hmode⟩ := hmodes l (List.mem_of_find?_eq_some hl)
    simp [hmode]

theorem replayOwners_eq_nil (n launch : Nat) : replayOwners s n launch = [] := by
  induction n generalizing launch with
  | zero => rfl
  | succ n ih =>
    rw [replayOwners]
    split
    · rfl
    · next l hl =>
      obtain ⟨-, -, hmodes⟩ := id h
      obtain ⟨hmode, -⟩ := hmodes l (List.mem_of_find?_eq_some hl)
      rw [hmode, if_neg Bool.false_ne_true, List.nil_append]
      split
      · exact ih _
      · rfl

/-- Without replayable launches no snapshot is kept (R415). -/
theorem snapshot_eq (launch : Nat) (bank : Bool) (a : Nat) : snapshot s launch bank a = s := by
  rw [snapshot, replayOwners_eq_nil h, List.foldl_nil]

theorem objAccess_eq (launch off n : Nat) :
    Machine.objAccess s launch off n = if 67108864 ≤ off then s else Machine.touchUnit s false off n := by
  have hcapture : (bankPages off n).foldl (fun s p => captureTouch s launch true (4096 * p) (4096 * p)) s = s :=
    List.foldl_fixed' (fun _ => captureTouch_eq h ..) _
  have hsnapshot : (bankPages off n).foldl (fun s p => snapshot s launch true (4096 * p)) s = s :=
    List.foldl_fixed' (fun _ => snapshot_eq h ..) _
  unfold Machine.objAccess
  dsimp only
  rw [hcapture, hsnapshot]

theorem objAccess (launch off n : Nat) : Reaches s (objAccess s launch off n) := by
  rw [objAccess_eq h]
  split
  · exact refl s
  · exact touchUnit h.1 ..

end Reaches

theorem banksSound_of_reaches {s t : State} (hst : Reaches s t) (h : Claims.banksSound s) : Claims.banksSound t := by
  unfold Claims.banksSound
  rw [hst.errors, hst.mem, hst.launches]
  exact h

theorem banksSound_bkPut {s : State} (h : Claims.banksSound s) (a n v : Nat) : Claims.banksSound (bkPut s a n v) := by
  obtain ⟨herrors, hpoison, hlaunches⟩ := h
  exact ⟨herrors, by simp [bkPut, healed, hpoison], hlaunches⟩

theorem banksSound_bkOr {s : State} (h : Claims.banksSound s) (a bits : Nat) : Claims.banksSound (bkOr s a bits) := banksSound_bkPut h ..

theorem reaches_bankTouch {s : State} (h : Claims.banksSound s) (off n : Nat) : Reaches s (bankTouch s off n) :=
  have hnote := Reaches.noteWatch s [(bankVa s.gang off, n)] .atomic
  (hnote.trans (.objAccess (banksSound_of_reaches hnote h) ..)).trans (.orderWrites ..)

theorem reaches_bankPeek {s : State} (h : Claims.banksSound s) (off n : Nat) : Reaches s (bankPeek s off n) :=
  have hnote := Reaches.noteWatch s [(bankVa s.gang off, n)] .read
  (hnote.trans (.objAccess (banksSound_of_reaches hnote h) ..)).trans (.orderReads ..)

namespace Reaches

variable {s t : State} (h : Reaches s t)
include h

theorem sameFile : SameFile s.gang t.gang := by
  obtain ⟨watch, time, hgang⟩ := h.gang
  rw [hgang]
  exact ⟨rfl, rfl, rfl, rfl, rfl, rfl, rfl, rfl, rfl, rfl, rfl⟩

theorem bkNat (a n : Nat) : bkNat t a n = Machine.bkNat s a n := bkNat_congr (by rw [h.mem]) a n

theorem phasePassed (obj ph : Nat) : phasePassed t obj ph = Machine.phasePassed s obj ph := by
  rw [Machine.phasePassed, Machine.phasePassed, h.bkNat]

theorem placesUsed (u : Nat) : placesUsed t u = Machine.placesUsed s u := by
  obtain ⟨watch, time, hgang⟩ := h.gang
  have hpassed : Machine.phasePassed t = Machine.phasePassed s := funext₂ h.phasePassed
  have hteam : teamById t = teamById s := by
    funext id
    rw [teamById, teamById, h.teams]
  unfold Machine.placesUsed gangsOf
  rw [hpassed, hteam, h.waits, h.live, h.others, hgang]
  split
  · rfl
  · rfl

end Reaches

end Sys2Proof.Machine

/-! SUPPORT. Operations on objects in bank memory as they issue, and the gangs that wait on one (R188, R195). -/

namespace Sys2Proof.Machine

/-! ### Issue (R221, R333) -/

/-- Instructions whose operands are no stream elements pop nothing. -/
theorem eq_of_issues {i : Instr} {sup : Bool} {s s1 : State} (h : Issues i sup s s1) (huses : ∀ u ∈ uses i, u.strm = false) : s1 = s := by
  have hstream : ∀ u ∈ usesNow s.gang.arm i, useStream s.gang u = none := by
    intro u hu
    obtain ⟨w, hw, rfl⟩ := List.mem_map.1 hu
    simp [useStream, huses w hw]
  have hpops : popsOf s.gang i = [] := by
    refine List.filter_eq_nil_iff.2 fun q _ => ?_
    simpa using fun u hu => by simp [hstream u hu]
  have hsame := h.pops
  rw [popAll, hpops] at hsame
  exact (Exe.ok.inj hsame).symm

theorem strm_uB (r n : Nat) : ∀ u ∈ uB r n, u.strm = false := by simp [uB]

theorem strm_uW (r n : Nat) : ∀ u ∈ uW r n, u.strm = false := by simp [uW]

theorem strm_append {us vs : List Use} (hus : ∀ u ∈ us, u.strm = false) (hvs : ∀ u ∈ vs, u.strm = false) :
    ∀ u ∈ us ++ vs, u.strm = false := List.forall_mem_append.2 ⟨hus, hvs⟩

theorem pastLines_of_inTime {s : State} (h : Claims.inTime s) (ks : List Nat) : pastLines s ks = false := by
  simpa [pastLines] using fun k _ => h k

theorem withLines_ok {s : State} (h : Claims.inTime s) (obj n : Nat) (f : Exe) : withLines s obj n f = f := by
  rw [withLines, pastLines_of_inTime h, if_neg Bool.false_ne_true]

theorem withObject_ok {s : State} {e obj : Nat} (hobj : bankObject s e = .ok obj) (htime : Claims.inTime s) (f : Nat → Exe) :
    withObject s e f = f obj := by
  rw [withObject, hobj]
  exact withLines_ok htime ..

/-- The body of an operation whose object may be reached. -/
theorem atObject_body {s : State} {e : Reg} {c : CtrNo} {obj : Nat} (h : Claims.atObject s e c obj) (f : State → Nat → Exe) :
    withCtr c s (fun s => withObject s e.toNat (f s)) = f s obj := by
  obtain ⟨hobj, hroom, -, htime⟩ := h
  rw [withCtr_ok hroom, withObject_ok hobj htime]

theorem sound_of_atObject {s : State} {e : Reg} {c : CtrNo} {obj : Nat} (h : Claims.atObject s e c obj) : Claims.banksSound s := by
  obtain ⟨-, -, hsound, -⟩ := h
  exact hsound

theorem issue_atObject {i : Instr} {sup : Bool} {s s1 t : State} (hissue : Issues i sup s s1) {e : Reg} {c : CtrNo} {obj : Nat}
    (h : Claims.atObject s1 e c obj) {f : State → Nat → Exe} (hf : f s1 obj = .ok t) :
    issue i sup s (fun s => withCtr c s (fun s => withObject s e.toNat (f s))) = .next (afterIssue (advance t i)) :=
  issue_ok hissue ((atObject_body h f).trans hf)

theorem bkBad_eq_none {s : State} (h : Claims.banksSound s) (a n : Nat) : bkBad s a n = none := by
  obtain ⟨-, hpoison, -⟩ := h
  simp [bkBad, hpoison]

/-- Between `s` and `t` operation `o` was issued on counter `c` and has reached its object; memory, launches and other gangs stay. -/
structure Started (s t : State) (c : Nat) (o : Op) : Prop where
  mem : t.mem = s.mem
  errors : t.banks.errors = s.banks.errors
  launches : t.launches = s.launches
  live : t.live = s.live
  others : t.others = s.others
  teams : t.teams = s.teams
  id : t.gang.id = s.gang.id
  issued : Claims.issuedOn s t c o

theorem oweRegs_eq (s : State) (id c ticket : Nat) (regs : List (Bool × Nat × Shadow)) :
    oweRegs s id c ticket regs = { s with gang := (oweRegs s id c ticket regs).gang } := rfl

/-- Issuing an operation takes an identifier and changes the gang at hand. -/
theorem startOp_eq (s : State) (c : CtrNo) (kind : OpKind) (lands : List RegWrite) (owed : List (Bool × Nat × Shadow)) (done : Bool) :
    (startOp s c kind lands owed done).2.2 = { s with serial := s.serial + 1, gang := (startOp s c kind lands owed done).2.2.gang } := by
  unfold startOp
  dsimp only
  rw [oweRegs_eq]
  rfl

theorem startOp_gang_id (s : State) (c : CtrNo) (kind : OpKind) (lands : List RegWrite) (owed : List (Bool × Nat × Shadow)) (done : Bool) :
    (startOp s c kind lands owed done).2.2.gang.id = s.gang.id := by
  unfold startOp
  exact (hullOwed_sameFile _ owed).id

theorem started_startOp (s : State) (c : CtrNo) (kind : OpKind) (lands : List RegWrite) (owed : List (Bool × Nat × Shadow)) (done : Bool) :
    Started s (startOp s c kind lands owed done).2.2 c.toNat (startedOp s c kind lands owed done) := by
  have hissued := startOp_issuedOn s c kind lands owed done
  have hid := startOp_gang_id s c kind lands owed done
  rw [startOp_eq] at hissued hid ⊢
  exact ⟨rfl, rfl, rfl, rfl, rfl, rfl, hid, hissued⟩

theorem Started.reaches {s t u : State} {c : Nat} {o : Op} (h : Started s t c o) (htu : Reaches t u) : Started s u c o :=
  ⟨htu.mem.trans h.mem, htu.errors.trans h.errors, htu.launches.trans h.launches, htu.live.trans h.live, htu.others.trans h.others,
    htu.teams.trans h.teams, htu.sameFile.id.trans h.id, issuedOn_of_sameFile (.refl _) htu.sameFile h.issued⟩

theorem Reaches.started {s t u : State} {c : Nat} {o : Op} (hst : Reaches s t) (h : Started t u c o) : Started s u c o :=
  ⟨h.mem.trans hst.mem, h.errors.trans hst.errors, h.launches.trans hst.launches, h.live.trans hst.live, h.others.trans hst.others,
    h.teams.trans hst.teams, h.id.trans hst.sameFile.id, issuedOn_of_sameFile hst.sameFile (.refl _) h.issued⟩

namespace Started

variable {s t : State} {c : Nat} {o : Op} (h : Started s t c o)
include h

theorem sound (hs : Claims.banksSound s) : Claims.banksSound t := by
  unfold Claims.banksSound
  rw [h.mem, h.errors, h.launches]
  exact hs

theorem bkNat (a n : Nat) : bkNat t a n = Machine.bkNat s a n := bkNat_congr (by rw [h.mem]) a n

theorem onlyObject (obj n : Nat) : Claims.onlyObject s t obj n := onlyObject_of_mem_eq h.mem obj n

theorem mem_ops : o ∈ t.gang.ops := by
  rw [h.issued.1]
  exact List.mem_append_right _ (List.mem_singleton_self o)

theorem ctr : o.ctr = c := by
  obtain ⟨-, hctr, -⟩ := h.issued
  exact hctr

theorem sameV : t.gang.v = s.gang.v := by
  obtain ⟨-, -, -, -, -, hv, -⟩ := h.issued
  exact hv

theorem sameS : t.gang.s = s.gang.s := by
  obtain ⟨-, -, -, -, -, -, hscal, -⟩ := h.issued
  exact hscal

theorem readS (r : Nat) : readS t.gang r = Machine.readS s.gang r := by
  obtain ⟨-, -, -, -, -, -, hscal, hmask, -⟩ := h.issued
  rw [Machine.readS, Machine.readS, hscal, hmask]

/-- Whether some operation has a property that the one issued lacks. -/
theorem anyOp {p : Op → Bool} (hp : p o = false) :
    (gangsOf t ++ t.teams.flatMap fun x => x.savedGangs).any (fun g => g.ops.any p) =
      (gangsOf s ++ s.teams.flatMap fun x => x.savedGangs).any (fun g => g.ops.any p) := by
  unfold gangsOf
  rw [h.live, h.others, h.teams]
  split
  · simp only [List.any_append, List.any_cons, List.any_nil, h.issued.1, hp, Bool.or_false]
  · rfl

end Started

/-! ### The gangs that wait (R188) -/

theorem gangsOf_mapGangs (s : State) (f : Gang → Gang) : gangsOf (mapGangs s f) = (gangsOf s).map f := by
  cases hlive : s.live <;> simp [gangsOf, mapGangs, hlive]

theorem gang_mapGangs {s : State} (h : s.live = true) (f : Gang → Gang) : (mapGangs s f).gang = f s.gang := if_pos h

/-- A waiting arrival past the phases it joined, or any, is done (R188, R197). -/
def barxFinished (s : State) (obj : Nat) (all : Bool) (o : Op) : Op :=
  match o.kind with
  | .barx ob ph => if ob = obj ∧ (all ∨ phasePassed s obj ph) then { o with done := true, time := Max.max o.time (objTime s obj) } else o
  | _ => o

theorem barxRelease_eq (s : State) (obj : Nat) (all : Bool) :
    barxRelease s obj all = mapGangs s fun g => { g with ops := g.ops.map (barxFinished s obj all) } := rfl

/-- Nothing of the operation changes but that it is done, and when. -/
theorem barxFinished_eq (s : State) (obj : Nat) (all : Bool) (o : Op) :
    ∃ done time, barxFinished s obj all o = { o with done := done, time := time } := by
  unfold barxFinished
  split
  · split
    · exact ⟨_, _, rfl⟩
    · exact ⟨_, _, rfl⟩
  · exact ⟨_, _, rfl⟩

theorem barxFinished_kind (s : State) (obj : Nat) (all : Bool) (o : Op) : (barxFinished s obj all o).kind = o.kind := by
  obtain ⟨done, time, h⟩ := barxFinished_eq s obj all o
  rw [h]

theorem barxFinished_of_mem {s : State} {obj : Nat} {all : Bool} {o : Op} (h : o.kind = .mem) : barxFinished s obj all o = o := by
  rw [barxFinished, h]

theorem barxFinished_of_barx {s : State} {obj ph : Nat} {o : Op} (all : Bool) (h : o.kind = .barx obj ph) :
    barxFinished s obj all o =
      if all = true ∨ phasePassed s obj ph = true then { o with done := true, time := Max.max o.time (objTime s obj) } else o := by
  simp only [barxFinished, h, true_and]

end Sys2Proof.Machine

/-! SUPPORT. BARX objects (R188, R195, R197). -/

namespace Sys2Proof.Machine

/-! ### PEND and the completion check (R188) -/

theorem int32_add_emod (n : Nat) (d : Int) : (int32 n + d) % 2 ^ 32 = ((n : Int) + d) % 2 ^ 32 := by
  rw [int32, BitVec.toInt_eq_toNat_cond, BitVec.toNat_ofNat]
  split <;> omega

/-- A change of PEND is one of memory. -/
theorem barxPend_eq (s : State) (obj : Nat) (d : Int) : barxPend s obj d = { s with mem := (barxPend s obj d).mem } := by
  unfold barxPend
  dsimp only
  split <;> rfl

theorem bkNat_barxPend (s : State) (obj : Nat) (d : Int) :
    bkNat (barxPend s obj d) obj 4 = (((bkNat s obj 4 : Nat) + d) % 2 ^ 32).toNat := by
  rw [barxPend, bkNat_bkPut, int32_add_emod]
  omega

theorem bkNat_barxPend_ne (s : State) (obj : Nat) (d : Int) {b m : Nat} (hlow : obj + 4 ≤ b) (hhigh : b + m ≤ obj + 12) :
    bkNat (barxPend s obj d) b m = bkNat s b m := by
  rw [barxPend, bkNat_bkPut_ne _ _ (.inr hlow)]
  split
  · rfl
  · exact bkNat_bkOr_ne _ _ (.inl hhigh)

theorem banksSound_barxPend {s : State} (h : Claims.banksSound s) (obj : Nat) (d : Int) : Claims.banksSound (barxPend s obj d) := by
  unfold barxPend
  dsimp only
  split
  · exact banksSound_bkPut h ..
  · exact banksSound_bkPut (banksSound_bkPut h ..) ..

theorem onlyObject_barxPend {s : State} (h : Claims.banksSound s) (obj : Nat) (d : Int) : Claims.onlyObject s (barxPend s obj d) obj 16 := by
  unfold barxPend
  dsimp only
  split
  · exact onlyObject_bkPut h _ (by omega) (by omega)
  · have hflag := banksSound_bkPut h (obj + 12) 1 (bkNat s (obj + 12) 1 ||| 1)
    exact onlyObject_trans (onlyObject_bkPut h _ (by omega) (by omega)) (onlyObject_bkPut hflag _ (by omega) (by omega))

theorem phaseIssued_mem (s : State) (obj : Nat) : (phaseIssued s obj).mem = s.mem := by
  unfold phaseIssued
  split <;> rfl

theorem phaseIssued_live (s : State) (obj : Nat) : (phaseIssued s obj).live = s.live := by
  unfold phaseIssued
  split <;> rfl

theorem banksSound_phaseIssued {s : State} (h : Claims.banksSound s) (obj : Nat) : Claims.banksSound (phaseIssued s obj) := by
  unfold phaseIssued
  split
  · exact h
  · exact h

/-- Some phase of an object is complete. -/
abbrev barxComplete (s : State) (obj : Nat) : Prop := 1 ≤ bkNat s (obj + 6) 2 ∧ bkNat s (obj + 6) 2 ≤ bkNat s (obj + 4) 2 ∧ bkNat s obj 4 = 0

/-- The phases that are complete have been counted; their waiters still wait. -/
def barxPassed (s : State) (obj : Nat) : State :=
  bkPut (phaseIssued (bkPut s (obj + 8) 4 (bkNat s (obj + 8) 4 + bkNat s (obj + 4) 2 / bkNat s (obj + 6) 2)) obj) (obj + 4) 2
    (bkNat s (obj + 4) 2 % bkNat s (obj + 6) 2)

theorem barxCheck_of_complete {s : State} {obj : Nat} (h : barxComplete s obj) : barxCheck s obj = barxRelease (barxPassed s obj) obj false :=
  if_pos h

theorem barxCheck_of_not_complete {s : State} {obj : Nat} (h : ¬barxComplete s obj) : barxCheck s obj = s := if_neg h

theorem bkNat_barxPassed_phase (s : State) (obj : Nat) :
    bkNat (barxPassed s obj) (obj + 8) 4 = (bkNat s (obj + 8) 4 + bkNat s (obj + 4) 2 / bkNat s (obj + 6) 2) % 2 ^ 32 := by
  rw [barxPassed, bkNat_bkPut_ne _ _ (by omega), bkNat_congr (congrArg Mem.bank (phaseIssued_mem ..)), bkNat_bkPut]
  rfl

theorem bkNat_barxPassed_arrived (s : State) (obj : Nat) :
    bkNat (barxPassed s obj) (obj + 4) 2 = bkNat s (obj + 4) 2 % bkNat s (obj + 6) 2 := by
  have harrived := bkNat_lt s (obj + 4) 2
  rw [barxPassed, bkNat_bkPut]
  exact Nat.mod_eq_of_lt ((Nat.mod_le ..).trans_lt harrived)

theorem bkNat_barxPassed_ne (s : State) {obj b m : Nat} (h : b + m ≤ obj + 4 ∨ obj + 6 ≤ b ∧ b + m ≤ obj + 8) :
    bkNat (barxPassed s obj) b m = bkNat s b m := by
  rw [barxPassed, bkNat_bkPut_ne _ _ (by omega), bkNat_congr (congrArg Mem.bank (phaseIssued_mem ..)), bkNat_bkPut_ne _ _ (by omega)]

theorem onlyObject_barxCheck {s : State} (h : Claims.banksSound s) (obj : Nat) : Claims.onlyObject s (barxCheck s obj) obj 16 := by
  by_cases hcomplete : barxComplete s obj
  · have hphase := banksSound_bkPut h (obj + 8) 4 (bkNat s (obj + 8) 4 + bkNat s (obj + 4) 2 / bkNat s (obj + 6) 2)
    have hcounted := onlyObject_mem_eq (onlyObject_bkPut (obj := obj) (n := 16) (m := 4) h
      (bkNat s (obj + 8) 4 + bkNat s (obj + 4) 2 / bkNat s (obj + 6) 2) (Nat.le_add_right obj 8) (by omega)) (phaseIssued_mem _ obj)
    rw [barxCheck_of_complete hcomplete]
    exact onlyObject_trans hcounted (onlyObject_bkPut (banksSound_phaseIssued hphase obj) _ (by omega) (by omega))
  · rw [barxCheck_of_not_complete hcomplete]
    exact onlyObject_of_mem_eq rfl ..

theorem phases_barxCheck (s : State) (obj : Nat) :
    Claims.phases (barxCheck s obj) obj (bkNat s obj 4) (bkNat s (obj + 4) 2) (bkNat s (obj + 6) 2) (bkNat s (obj + 8) 4) := by
  by_cases h : barxComplete s obj
  · have hfields : ∀ a n, bkNat (barxCheck s obj) a n = bkNat (barxPassed s obj) a n := by
      rw [barxCheck_of_complete h]
      exact bkNat_congr rfl
    simp only [Claims.phases, hfields]
    refine ⟨bkNat_barxPassed_ne s (.inl le_rfl), bkNat_barxPassed_ne s (.inr (by omega)), ?_⟩
    rw [if_pos h]
    exact ⟨bkNat_barxPassed_arrived s obj, bkNat_barxPassed_phase s obj⟩
  · rw [barxCheck_of_not_complete h]
    refine ⟨rfl, rfl, ?_⟩
    rw [if_neg h]
    exact ⟨rfl, rfl⟩

/-! ### What the check does to waiters -/

/-- An operation after the check of an object. -/
def barxChecked (s : State) (obj : Nat) (o : Op) : Op :=
  if barxComplete s obj then barxFinished (barxPassed s obj) obj false o else o

theorem barxCheck_gang {s : State} (h : s.live = true) (obj : Nat) :
    ∃ n, (barxCheck s obj).gang = { s.gang with issued := n, ops := s.gang.ops.map (barxChecked s obj) } := by
  by_cases hcomplete : barxComplete s obj
  · have hissued : ∀ t : State, t.live = true → ∃ n, (phaseIssued t obj).gang = { t.gang with issued := n } := by
      intro t ht
      unfold phaseIssued
      split
      · next x _ =>
        rw [gang_mapGangs ht]
        split
        · exact ⟨_, rfl⟩
        · exact ⟨_, rfl⟩
      · exact ⟨_, rfl⟩
    obtain ⟨n, hn⟩ := hissued (bkPut s (obj + 8) 4 (bkNat s (obj + 8) 4 + bkNat s (obj + 4) 2 / bkNat s (obj + 6) 2)) h
    have hlive : (barxPassed s obj).live = true := (phaseIssued_live ..).trans h
    have hgang : (barxPassed s obj).gang = { s.gang with issued := n } := hn
    have hmap : barxChecked s obj = barxFinished (barxPassed s obj) obj false := funext fun o => if_pos hcomplete
    rw [barxCheck_of_complete hcomplete, barxRelease_eq, gang_mapGangs hlive, hgang, hmap]
    exact ⟨n, rfl⟩
  · have hmap : barxChecked s obj = id := funext fun o => if_neg hcomplete
    rw [barxCheck_of_not_complete hcomplete, hmap, List.map_id]
    exact ⟨_, rfl⟩

theorem barxChecked_eq (s : State) (obj : Nat) (o : Op) : ∃ done time, barxChecked s obj o = { o with done := done, time := time } := by
  unfold barxChecked
  split
  · exact barxFinished_eq ..
  · exact ⟨_, _, rfl⟩

theorem barxChecked_of_mem {s : State} {obj : Nat} {o : Op} (h : o.kind = .mem) : barxChecked s obj o = o := by
  rw [barxChecked, barxFinished_of_mem h, ite_self]

/-- An arrival that joined its phase when ARRIVED was `arrived` is done where the check has passed that phase. -/
theorem done_barxChecked {s : State} {obj arrived joined : Nat} {o : Op} (hcount : bkNat s (obj + 4) 2 = arrived + 1)
    (hkind : o.kind = .barx obj joined) (hdone : o.done = false)
    (hjoined : joined = if bkNat s (obj + 6) 2 = 0 then bkNat s (obj + 8) 4
      else (bkNat s (obj + 8) 4 + arrived / bkNat s (obj + 6) 2) % 2 ^ 32) :
    (barxChecked s obj o).done = true ↔
      barxComplete s obj ∧ arrived / bkNat s (obj + 6) 2 < (arrived + 1) / bkNat s (obj + 6) 2 := by
  by_cases h : barxComplete s obj
  · have hexpect : bkNat s (obj + 6) 2 ≠ 0 := Nat.one_le_iff_ne_zero.1 h.1
    have hpassed : phasePassed (barxPassed s obj) obj joined = true ↔
        arrived / bkNat s (obj + 6) 2 < (arrived + 1) / bkNat s (obj + 6) 2 := by
      have hstep := Nat.succ_div (a := arrived) (b := bkNat s (obj + 6) 2)
      rw [if_neg hexpect] at hjoined
      simp only [phasePassed, bkNat_barxPassed_phase, hcount, Bool.and_eq_true, decide_eq_true_iff, hjoined]
      rw [hstep]
      split <;> omega
    rw [barxChecked, if_pos h, barxFinished_of_barx false hkind]
    by_cases hp : phasePassed (barxPassed s obj) obj joined = true
    · simpa [hp, hpassed.1 hp] using h
    · simp [hp, hdone, mt hpassed.2 hp]
  · simp [barxChecked, h, hdone]

/-! ### Arrivals (R188, R197) -/

/-- An arrival has been counted and its bytes announced, before the check. -/
def barxCounted (s : State) (obj : Nat) (d : Int) : State :=
  bkPut (barxPend s obj d) (obj + 4) 2 (bkNat (barxPend s obj d) (obj + 4) 2 + 1)

theorem barxArrive_eq (s : State) (obj : Nat) (d : Int) : barxArrive s obj d = barxCheck (barxCounted s obj d) obj := rfl

theorem barxCounted_eq (s : State) (obj : Nat) (d : Int) : barxCounted s obj d = { s with mem := (barxCounted s obj d).mem } := by
  rw [barxCounted, barxPend_eq]
  rfl

theorem bkNat_barxCounted_pend (s : State) (obj : Nat) (d : Int) :
    bkNat (barxCounted s obj d) obj 4 = (((bkNat s obj 4 : Nat) + d) % 2 ^ 32).toNat := by
  rw [barxCounted, bkNat_bkPut_ne _ _ (by omega), bkNat_barxPend]

theorem bkNat_barxCounted_arrived {s : State} {obj : Nat} (d : Int) (h : bkNat s (obj + 4) 2 < 65535) :
    bkNat (barxCounted s obj d) (obj + 4) 2 = bkNat s (obj + 4) 2 + 1 := by
  rw [barxCounted, bkNat_bkPut, bkNat_barxPend_ne _ _ _ (by omega) (by omega)]
  exact Nat.mod_eq_of_lt (Nat.succ_lt_succ h)

theorem bkNat_barxCounted_ne (s : State) {obj b m : Nat} (d : Int) (hlow : obj + 6 ≤ b) (hhigh : b + m ≤ obj + 12) :
    bkNat (barxCounted s obj d) b m = bkNat s b m := by
  rw [barxCounted, bkNat_bkPut_ne _ _ (by omega), bkNat_barxPend_ne _ _ _ (by omega) hhigh]

theorem banksSound_barxCounted {s : State} (h : Claims.banksSound s) (obj : Nat) (d : Int) : Claims.banksSound (barxCounted s obj d) :=
  banksSound_bkPut (banksSound_barxPend h ..) ..

theorem onlyObject_barxArrive {s : State} (h : Claims.banksSound s) (obj : Nat) (d : Int) : Claims.onlyObject s (barxArrive s obj d) obj 16 :=
  have hcount := onlyObject_bkPut (obj := obj) (n := 16) (a := obj + 4) (m := 2) (banksSound_barxPend h obj d)
    (bkNat (barxPend s obj d) (obj + 4) 2 + 1) (by omega) (by omega)
  onlyObject_trans (onlyObject_trans (onlyObject_barxPend h obj d) hcount) (onlyObject_barxCheck (banksSound_barxCounted h obj d) obj)

theorem phases_barxArrive {s : State} {obj : Nat} (d : Int) (h : bkNat s (obj + 4) 2 < 65535) :
    Claims.phases (barxArrive s obj d) obj (((bkNat s obj 4 : Nat) + d) % 2 ^ 32).toNat (bkNat s (obj + 4) 2 + 1) (bkNat s (obj + 6) 2)
      (bkNat s (obj + 8) 4) := by
  have hphases := phases_barxCheck (barxCounted s obj d) obj
  rw [bkNat_barxCounted_pend, bkNat_barxCounted_arrived d h, bkNat_barxCounted_ne _ _ (by omega) (by omega),
    bkNat_barxCounted_ne _ _ (by omega) (by omega)] at hphases
  exact hphases

theorem barxRoom_of {s : State} {obj : Nat} (d : Int) (harrived : bkNat s (obj + 4) 2 < 65535) (hplaces : placesUsed s (obj / 65536) < 64) :
    barxRoom s obj d = true := by
  simp [barxRoom, harrived, hplaces]

end Sys2Proof.Machine

/-! SUPPORT. BARX instructions (R195, R197). -/

namespace Sys2Proof.Machine

theorem bankObjects : Claims.BankObjects := by
  refine fun s e => ⟨fun obj h => ?_, fun x h => ?_⟩
  · unfold bankObject at h
    dsimp only at h
    split at h
    · next off hoff =>
      split at h
      · next hmod =>
        cases h
        exact ⟨hmod, hoff⟩
      · cases h
    · cases h
    · cases h
  · unfold bankObject at h
    dsimp only at h
    split at h
    · split at h
      · cases h
      · cases h
        exact ⟨rfl, .inl rfl, rfl⟩
    · cases h
      refine ⟨rfl, ?_, rfl⟩
      rw [objTrap]
      split
      · exact .inr rfl
      · exact .inl rfl
    · cases h
      exact ⟨rfl, .inl rfl, rfl⟩

/-- The operation of the arm has issued, and its object is reached. -/
theorem started_bankTouch {s : State} (h : Claims.banksSound s) (c : CtrNo) (obj n : Nat) :
    Started s (bankTouch (startOp s c .mem [] [] true).2.2 obj n) c.toNat (startedOp s c .mem [] [] true) :=
  have hstart := started_startOp s c .mem [] [] true
  hstart.reaches (reaches_bankTouch (hstart.sound h) obj n)

/-- BARX.init before it releases the waiters. -/
def barxBlank (s : State) (obj n st : Nat) : State := bkPut (bkPut (bkPut (bkPut s (obj + 6) 2 n) (obj + 4) 2 0) obj 4 0) (obj + 12) 1 st

theorem bkNat_barxBlank_expect (s : State) (obj n st : Nat) : bkNat (barxBlank s obj n st) (obj + 6) 2 = n % 65536 := by
  rw [barxBlank, bkNat_bkPut_ne _ _ (by omega), bkNat_bkPut_ne _ _ (by omega), bkNat_bkPut_ne _ _ (by omega), bkNat_bkPut]
  rfl

theorem bkNat_barxBlank_arrived (s : State) (obj n st : Nat) : bkNat (barxBlank s obj n st) (obj + 4) 2 = 0 := by
  rw [barxBlank, bkNat_bkPut_ne _ _ (by omega), bkNat_bkPut_ne _ _ (by omega), bkNat_bkPut]
  rfl

theorem bkNat_barxBlank_pend (s : State) (obj n st : Nat) : bkNat (barxBlank s obj n st) obj 4 = 0 := by
  rw [barxBlank, bkNat_bkPut_ne _ _ (by omega), bkNat_bkPut]
  rfl

theorem bkNat_barxBlank_phase (s : State) (obj n st : Nat) : bkNat (barxBlank s obj n st) (obj + 8) 4 = bkNat s (obj + 8) 4 := by
  rw [barxBlank, bkNat_bkPut_ne _ _ (by omega), bkNat_bkPut_ne _ _ (by omega), bkNat_bkPut_ne _ _ (by omega), bkNat_bkPut_ne _ _ (by omega)]

theorem bkNat_barxBlank_st (s : State) (obj n st : Nat) : bkNat (barxBlank s obj n st) (obj + 12) 1 = st % 256 := bkNat_bkPut ..

theorem onlyObject_barxBlank {s : State} (h : Claims.banksSound s) (obj n st : Nat) : Claims.onlyObject s (barxBlank s obj n st) obj 16 := by
  have hexpect := banksSound_bkPut h (obj + 6) 2 n
  have harrived := banksSound_bkPut hexpect (obj + 4) 2 0
  have hpend := banksSound_bkPut harrived obj 4 0
  exact onlyObject_trans (onlyObject_trans (onlyObject_trans (onlyObject_bkPut h n (by omega) (by omega))
    (onlyObject_bkPut hexpect 0 (by omega) (by omega))) (onlyObject_bkPut harrived 0 (by omega) (by omega)))
    (onlyObject_bkPut hpend st (by omega) (by omega))

/-- An arrival waits at an object. -/
def barxWaits (obj : Nat) (o : Op) : Bool :=
  match o.kind with
  | .barx ob _ => ob == obj && !o.done
  | _ => false

/-- ST that BARX.init leaves. -/
def barxInitSt (s : State) (obj : Nat) : Nat :=
  if (gangsOf s ++ s.teams.flatMap fun x => x.savedGangs).any (fun g => g.ops.any (barxWaits obj)) then 2 else 0

theorem barxInitSt_lt (s : State) (obj : Nat) : barxInitSt s obj < 256 := by
  unfold barxInitSt
  split <;> decide

theorem barxInit_eq (s : State) (obj n : Nat) :
    barxInit s obj n = barxRelease (barxBlank s obj n (barxInitSt s obj)) obj true := rfl

theorem Started.barxInitSt {s t : State} {c : Nat} {o : Op} (h : Started s t c o) {obj : Nat} (ho : barxWaits obj o = false) :
    barxInitSt t obj = Machine.barxInitSt s obj := by
  rw [Machine.barxInitSt, Machine.barxInitSt, h.anyOp ho]

theorem barxRelease_mem (s : State) (obj : Nat) (all : Bool) : (barxRelease s obj all).mem = s.mem := rfl

/-- What BARX.init makes of an object that it has reached. -/
theorem barxInit_of_started {s u : State} {c : Nat} {o : Op} (hstart : Started s u c o) (hsound : Claims.banksSound s) (hlive : s.live = true)
    (ho : o.kind = .mem) (obj : Nat) (n : BitVec 16) :
    Claims.onlyObject s (barxInit u obj n.toNat) obj 16 ∧ (barxInit u obj n.toNat).gang.v = s.gang.v ∧
      (barxInit u obj n.toNat).gang.s = s.gang.s ∧ o ∈ (barxInit u obj n.toNat).gang.ops ∧ bkNat (barxInit u obj n.toNat) (obj + 6) 2 = n.toNat ∧
      bkNat (barxInit u obj n.toNat) (obj + 4) 2 = 0 ∧ bkNat (barxInit u obj n.toNat) obj 4 = 0 ∧
      bkNat (barxInit u obj n.toNat) (obj + 8) 4 = bkNat s (obj + 8) 4 ∧ bkNat (barxInit u obj n.toNat) (obj + 12) 1 = barxInitSt s obj := by
  have hwaits : barxWaits obj o = false := by rw [barxWaits, ho]
  have hgang := gang_mapGangs (s := barxBlank u obj n.toNat (barxInitSt s obj)) (hstart.live.trans hlive)
    fun g => { g with ops := g.ops.map (barxFinished (barxBlank u obj n.toNat (barxInitSt s obj)) obj true) }
  have hfields : ∀ a m, bkNat (barxRelease (barxBlank u obj n.toNat (barxInitSt s obj)) obj true) a m =
      bkNat (barxBlank u obj n.toNat (barxInitSt s obj)) a m := bkNat_congr (congrArg Mem.bank (barxRelease_mem ..))
  rw [barxInit_eq, hstart.barxInitSt hwaits]
  simp only [hfields, bkNat_barxBlank_expect, bkNat_barxBlank_arrived, bkNat_barxBlank_pend, bkNat_barxBlank_phase, bkNat_barxBlank_st,
    Nat.mod_eq_of_lt (barxInitSt_lt s obj), Nat.mod_eq_of_lt n.isLt, hstart.bkNat, and_true]
  refine ⟨onlyObject_mem_eq (onlyObject_trans (hstart.onlyObject ..) (onlyObject_barxBlank (hstart.sound hsound) ..)) (barxRelease_mem ..), ?_⟩
  rw [barxRelease_eq, hgang]
  exact ⟨hstart.sameV, hstart.sameS,
    List.mem_map.2 ⟨o, hstart.mem_ops, barxFinished_of_mem ho⟩⟩

/-- BARX.init leaves no arrival waiting. -/
theorem done_of_barxInit {s : State} {obj n : Nat} {g : Gang} (hg : g ∈ gangsOf (barxInit s obj n)) {o : Op} (ho : o ∈ g.ops) {ph : Nat}
    (hkind : o.kind = .barx obj ph) : o.done = true := by
  rw [barxInit_eq, barxRelease_eq, gangsOf_mapGangs] at hg
  obtain ⟨g, -, rfl⟩ := List.mem_map.1 hg
  obtain ⟨o, -, rfl⟩ := List.mem_map.1 ho
  rw [barxFinished_kind] at hkind
  rw [barxFinished_of_barx true hkind, if_pos (.inl rfl)]

theorem barrierInit : Claims.BarrierInit := by
  intro e n cn s s1 obj hissue hat
  obtain rfl : s1 = s := eq_of_issues hissue (strm_uB e.toNat 2)
  have hstart := started_bankTouch (sound_of_atObject hat) cn obj 16
  obtain ⟨honly, hv, hscal, hop, hexpect, harrived, hpend, hphase, hst⟩ := barxInit_of_started hstart (sound_of_atObject hat) hissue.live rfl obj n
  exact ⟨_, _, issue_atObject hissue hat rfl, honly, hv, hscal, hop, hstart.ctr, performed_startedOp .., hexpect, harrived, hpend, hphase, hst,
    fun g hg o ho ph hkind => done_of_barxInit hg ho hkind⟩

/-! ### BARX.tx and BARX.done -/

theorem barxAddBody_ok {s : State} (h : Claims.banksSound s) (c : CtrNo) (obj : Nat) (d : Int) :
    barxAddBody c obj d s = .ok (barxAdd (bankTouch (startOp s c .mem [] [] true).2.2 obj 16) obj d) := by
  rw [barxAddBody, bkBad_eq_none ((started_bankTouch h c obj 16).sound h)]
  rfl

theorem barxAdd_gang {s : State} (h : s.live = true) (obj : Nat) (d : Int) :
    ∃ n, (barxAdd s obj d).gang = { s.gang with issued := n, ops := s.gang.ops.map (barxChecked (barxPend s obj d) obj) } := by
  have hgang : (barxPend s obj d).gang = s.gang := by rw [barxPend_eq]
  have hlive : (barxPend s obj d).live = true := by rwa [barxPend_eq]
  obtain ⟨n, hn⟩ := barxCheck_gang hlive obj
  exact ⟨n, by rw [barxAdd, hn, hgang]⟩

theorem phases_barxAdd (s : State) (obj : Nat) (d : Int) :
    Claims.phases (barxAdd s obj d) obj (((bkNat s obj 4 : Nat) + d) % 2 ^ 32).toNat (bkNat s (obj + 4) 2) (bkNat s (obj + 6) 2)
      (bkNat s (obj + 8) 4) := by
  have hphases := phases_barxCheck (barxPend s obj d) obj
  rw [bkNat_barxPend, bkNat_barxPend_ne _ _ _ (by omega) (by omega), bkNat_barxPend_ne _ _ _ (by omega) (by omega),
    bkNat_barxPend_ne _ _ _ (by omega) (by omega)] at hphases
  exact hphases

theorem onlyObject_barxAdd {s : State} (h : Claims.banksSound s) (obj : Nat) (d : Int) : Claims.onlyObject s (barxAdd s obj d) obj 16 :=
  onlyObject_trans (onlyObject_barxPend h obj d) (onlyObject_barxCheck (banksSound_barxPend h obj d) obj)

/-- What a change of PEND makes of an object that has been reached. -/
theorem barxAdd_of_started {s u : State} {c : Nat} {o : Op} (hstart : Started s u c o) (hsound : Claims.banksSound s) (hlive : s.live = true)
    (ho : o.kind = .mem) (obj : Nat) (d : Int) :
    Claims.onlyObject s (barxAdd u obj d) obj 16 ∧ (barxAdd u obj d).gang.v = s.gang.v ∧ (barxAdd u obj d).gang.s = s.gang.s ∧
      o ∈ (barxAdd u obj d).gang.ops ∧ Claims.phases (barxAdd u obj d) obj (((bkNat s obj 4 : Nat) + d) % 2 ^ 32).toNat
        (bkNat s (obj + 4) 2) (bkNat s (obj + 6) 2) (bkNat s (obj + 8) 4) := by
  obtain ⟨n, hgang⟩ := barxAdd_gang (hstart.live.trans hlive) obj d
  have hphases := phases_barxAdd u obj d
  simp only [hstart.bkNat] at hphases
  refine ⟨onlyObject_trans (hstart.onlyObject ..) (onlyObject_barxAdd (hstart.sound hsound) ..), ?_⟩
  rw [hgang]
  exact ⟨hstart.sameV, hstart.sameS, List.mem_map.2 ⟨o, hstart.mem_ops, barxChecked_of_mem ho⟩, hphases⟩

/-- BARX.tx and BARX.done, with the number that each adds to PEND. -/
theorem exec_barxAdd {i : Instr} {sign : Int} {e b : Reg} {cn : CtrNo}
    (hi : (i = .barxTx e b cn ∧ sign = 1) ∨ (i = .barxDone e b cn ∧ sign = -1)) :
    (∀ s, exec i s = issue i false s fun s => withCtr cn s fun s => withObject s e.toNat fun obj =>
      barxAddBody cn obj (sign * (readS s.gang b.toNat).toInt) s) ∧ ∀ u ∈ uses i, u.strm = false := by
  obtain ⟨rfl, rfl⟩ | ⟨rfl, rfl⟩ := hi
  · refine ⟨fun s => ?_, strm_append (strm_uB e.toNat 2) (strm_uB b.toNat 1)⟩
    simp only [Int.one_mul]
    rfl
  · refine ⟨fun s => ?_, strm_append (strm_uB e.toNat 2) (strm_uB b.toNat 1)⟩
    simp only [Int.neg_mul, Int.one_mul]
    rfl

theorem barrierBytes : Claims.BarrierBytes := by
  intro i sign e b cn s s1 obj hi hissue hat
  obtain ⟨hexec, huses⟩ := exec_barxAdd hi
  obtain rfl : s1 = s := eq_of_issues hissue huses
  have hsound := sound_of_atObject hat
  have hstart := started_bankTouch hsound cn obj 16
  obtain ⟨honly, hv, hscal, hop, hphases⟩ :=
    barxAdd_of_started hstart hsound hissue.live rfl obj (sign * (readS s1.gang b.toNat).toInt)
  exact ⟨_, _, (hexec s1).trans (issue_atObject hissue hat (barxAddBody_ok hsound ..)), honly, hv, hscal, hop, hstart.ctr,
    performed_startedOp .., hphases⟩

/-! ### BARX.arr and BARX.arrtx -/

theorem Reaches.barxJoin {s t : State} (h : Reaches s t) (obj : Nat) : barxJoin t obj = Machine.barxJoin s obj := by
  simp only [Machine.barxJoin, h.bkNat]

/-- The operation of an arrival, with the phase it joins. -/
def arrivalState (s : State) (c : CtrNo) (obj d : Nat) : State :=
  (startOp (bankTouch s obj 16) c (.barx obj (barxJoin s obj)) [⟨false, d, 0, BitVec.ofNat 32 (barxJoin s obj)⟩] [(false, d, Shadow.top)] false).2.2

def arrivalOp (s : State) (c : CtrNo) (obj d : Nat) : Op :=
  startedOp (bankTouch s obj 16) c (.barx obj (barxJoin s obj)) [⟨false, d, 0, BitVec.ofNat 32 (barxJoin s obj)⟩] [(false, d, Shadow.top)] false

theorem started_arrival {s : State} (h : Claims.banksSound s) (c : CtrNo) (obj d : Nat) :
    Started s (arrivalState s c obj d) c.toNat (arrivalOp s c obj d) :=
  (reaches_bankTouch h obj 16).started (started_startOp ..)

/-- An arrival that finds room. -/
theorem barxArrBody_ok {s : State} {e : Reg} {c : CtrNo} {obj : Nat} (hat : Claims.atObject s e c obj) (d : Nat) (dp : Int)
    (harrived : bkNat s (obj + 4) 2 < 65535) (hplaces : placesUsed s (obj / 65536) < 64) :
    barxArrBody d e.toNat dp c s = .ok (barxArrive (arrivalState s c obj d) obj dp) := by
  have hsound := sound_of_atObject hat
  have hreach := reaches_bankTouch hsound obj 16
  have hroom : barxRoom (bankTouch s obj 16) obj dp = true :=
    barxRoom_of dp (by rwa [hreach.bkNat]) (by rwa [hreach.placesUsed])
  refine (atObject_body hat _).trans ?_
  simp only [hroom, if_true, hreach.barxJoin, bkBad_eq_none (banksSound_of_reaches hreach hsound)]
  rfl

theorem exec_barxArrive {i : Instr} {bytes : State → Int} {d e b : Reg} {cn : CtrNo}
    (hi : (i = .barxArr d e cn ∧ bytes = fun _ => 0) ∨ (i = .barxArrtx d e b cn ∧ bytes = fun s => (readS s.gang b.toNat).toInt)) :
    (∀ s, exec i s = issue i false s fun s => barxArrBody d.toNat e.toNat (bytes s) cn s) ∧ ∀ u ∈ uses i, u.strm = false := by
  obtain ⟨rfl, rfl⟩ | ⟨rfl, rfl⟩ := hi
  · exact ⟨fun s => rfl, strm_append (strm_uW d.toNat 1) (strm_uB e.toNat 2)⟩
  · exact ⟨fun s => rfl, strm_append (strm_append (strm_uW d.toNat 1) (strm_uB e.toNat 2)) (strm_uB b.toNat 1)⟩

theorem barxArrive_gang {s : State} (h : s.live = true) (obj : Nat) (d : Int) :
    ∃ n, (barxArrive s obj d).gang = { s.gang with issued := n, ops := s.gang.ops.map (barxChecked (barxCounted s obj d) obj) } := by
  have hgang : (barxCounted s obj d).gang = s.gang := by rw [barxCounted_eq]
  have hlive : (barxCounted s obj d).live = true := by rwa [barxCounted_eq]
  obtain ⟨n, hn⟩ := barxCheck_gang hlive obj
  exact ⟨n, by rw [barxArrive_eq, hn, hgang]⟩

/-- When the check of an arrival finds its own phase complete. -/
theorem done_arrival {s u : State} {c : Nat} {obj joined : Nat} {o : Op} (hstart : Started s u c o) (d : Int)
    (harrived : bkNat s (obj + 4) 2 < 65535) (hjoined : joined = barxJoin s obj) (hkind : o.kind = .barx obj joined) (hdone : o.done = false) :
    (barxChecked (barxCounted u obj d) obj o).done = true ↔
      1 ≤ bkNat s (obj + 6) 2 ∧ bkNat s (obj + 6) 2 ≤ bkNat s (obj + 4) 2 + 1 ∧ ((bkNat s obj 4 : Nat) + d) % 2 ^ 32 = 0 ∧
        bkNat s (obj + 4) 2 / bkNat s (obj + 6) 2 < (bkNat s (obj + 4) 2 + 1) / bkNat s (obj + 6) 2 := by
  have hcount := bkNat_barxCounted_arrived (s := u) (obj := obj) d (by rwa [hstart.bkNat])
  have hexpect := bkNat_barxCounted_ne u (obj := obj) (b := obj + 6) (m := 2) d (by omega) (by omega)
  have hphase := bkNat_barxCounted_ne u (obj := obj) (b := obj + 8) (m := 4) d (by omega) (by omega)
  rw [hstart.bkNat] at hcount hexpect hphase
  rw [done_barxChecked hcount hkind hdone (by rw [hexpect, hphase]; exact hjoined), barxComplete, hcount, hexpect, bkNat_barxCounted_pend,
    hstart.bkNat]
  have hpend : (((bkNat s obj 4 : Nat) + d) % 2 ^ 32).toNat = 0 ↔ ((bkNat s obj 4 : Nat) + d) % 2 ^ 32 = 0 := by omega
  rw [hpend, and_assoc, and_assoc]

theorem barrierArrivals : Claims.BarrierArrivals := by
  intro i bytes d e b cn s s1 obj hi hissue hat harrived hplaces
  obtain ⟨hexec, huses⟩ := exec_barxArrive hi
  obtain rfl : s1 = s := eq_of_issues hissue huses
  have hsound := sound_of_atObject hat
  have hstart := started_arrival hsound cn obj d.toNat
  obtain ⟨n, hgang⟩ := barxArrive_gang (hstart.live.trans hissue.live) obj (bytes s1)
  have hphases := phases_barxArrive (s := arrivalState s1 cn obj d.toNat) (obj := obj) (bytes s1) (by rwa [hstart.bkNat])
  simp only [hstart.bkNat] at hphases
  obtain ⟨done, time, hop⟩ := barxChecked_eq (barxCounted (arrivalState s1 cn obj d.toNat) obj (bytes s1)) obj (arrivalOp s1 cn obj d.toNat)
  refine ⟨_, barxChecked (barxCounted (arrivalState s1 cn obj d.toNat) obj (bytes s1)) obj (arrivalOp s1 cn obj d.toNat),
    (hexec s1).trans (issue_ok hissue (barxArrBody_ok hat d.toNat (bytes s1) harrived hplaces)),
    onlyObject_trans (hstart.onlyObject ..) (onlyObject_barxArrive (hstart.sound hsound) ..), ?_, ?_, ?_, ?_, ?_, ?_, ?_,
    done_arrival hstart (bytes s1) harrived rfl rfl rfl, hphases⟩
  · rw [hgang]
    exact hstart.sameV
  · rw [hgang]
    exact hstart.sameS
  · rw [hgang]
    exact List.mem_map_of_mem hstart.mem_ops
  · rw [hop]
    exact hstart.ctr
  · rw [hop]
    rfl
  · rw [hop]
    rfl
  · rw [hop]
    rfl

/-! ### BARX.rd -/

theorem outstanding_of_only {g : Gang} {ops : List Op} {o : Op} (hops : g.ops = ops ++ [o]) (hothers : ∀ x ∈ ops, x.ctr ≠ o.ctr) :
    outstanding g o.ctr = [o] := by
  have hnone : ops.filter (fun x => x.ctr == o.ctr) = [] := by simpa [List.filter_eq_nil_iff] using hothers
  rw [outstanding, hops, List.filter_append, hnone]
  simp

/-- The one operation on a counter arrives. -/
theorem arriveAtOnce_of_only {s : State} {c : CtrNo} {ops : List Op} {o : Op} (hops : s.gang.ops = ops ++ [o]) (hctr : o.ctr = c.toNat)
    (hothers : ∀ x ∈ ops, x.ctr ≠ o.ctr) (hids : ∀ x ∈ ops, x.id ≠ o.id) (hlanded : o.landed = true) (hdone : o.done = true) :
    arriveAtOnce s c = s.onGang fun g => { g with ops := ops, c := smapSet 0 g.c c.toNat (readC g c.toNat + 1),
                                                  ctimes := smapSet 0 g.ctimes c.toNat (Max.max (smapGet 0 g.ctimes c.toNat) o.time) } := by
  have honly := outstanding_of_only hops hothers
  rw [hctr] at honly
  have harrivable : arrivable s.gang c.toNat = some o := by
    rw [arrivable, honly]
    exact if_pos ⟨hlanded, hdone⟩
  have hleft : s.gang.ops.filter (fun x => decide (x.id ≠ o.id)) = ops := by
    rw [hops, List.filter_append, List.filter_eq_self.2 (by simpa using hids)]
    simp
  rw [arriveAtOnce, State.onGang, honly]
  simp only [List.length_singleton, if_true, arriveOn, harrivable, hleft]
  rfl

/-- Two scalars written one after the other. -/
def writePair (s : State) (d : Nat) (x y : Word) : State :=
  s.onGang fun g => writeS (writeS g d x Shadow.top) (d + 1) y Shadow.top

theorem readS_writePair (s : State) {d : Nat} (x y : Word) {r : Nat} (hr : r < 61) :
    readS (writePair s d x y).gang r = if r = d then x else if r = d + 1 then y else readS s.gang r := by
  obtain ⟨⟨hfirst, -, -⟩, -⟩ := wroteS_writeS s d x Shadow.top
  obtain ⟨⟨hsecond, -, -⟩, -⟩ := wroteS_writeS (s.onGang fun g => writeS g d x Shadow.top) (d + 1) y Shadow.top
  refine (hsecond r hr).trans ?_
  rw [hfirst r hr]
  by_cases hlast : r = d + 1
  · rw [if_pos hlast, if_neg (by omega), if_pos hlast]
  · rw [if_neg hlast, if_neg hlast]

/-- They leave every other field of the state, and the mask where they are no mask words. -/
theorem writePair_keeps (s : State) {d : Nat} (x y : Word) (hd : d < 60) :
    (writePair s d x y).mem = s.mem ∧ (writePair s d x y).gang.v = s.gang.v ∧ (writePair s d x y).gang.arm.mask = s.gang.arm.mask ∧
      (writePair s d x y).gang.ops = s.gang.ops ∧ (writePair s d x y).gang.c = s.gang.c := by
  obtain ⟨⟨-, hv, hmask⟩, hbare⟩ := wroteS_writeS s d x Shadow.top
  obtain ⟨⟨-, hv', hmask'⟩, hbare'⟩ := wroteS_writeS (s.onGang fun g => writeS g d x Shadow.top) (d + 1) y Shadow.top
  rw [if_neg (by omega)] at hmask hmask'
  have hall := hbare'.trans hbare
  exact ⟨(congrArg State.mem hall :), hv'.trans hv, hmask'.trans hmask, (congrArg (fun t => t.gang.ops) hall :),
    (congrArg (fun t => t.gang.c) hall :)⟩

theorem started_bankPeek {s : State} (h : Claims.banksSound s) (c : CtrNo) (obj n : Nat) :
    Started s (bankPeek (startOp s c .mem [] [] true).2.2 obj n) c.toNat (startedOp s c .mem [] [] true) :=
  have hstart := started_startOp s c .mem [] [] true
  hstart.reaches (reaches_bankPeek (hstart.sound h) obj n)

/-- A BARX.rd writes what it reads, then arrives. -/
theorem completes_barxRd {d e : Reg} {cn : CtrNo} {s s1 : State} {obj : Nat} (hissue : Issues (.barxRd d e cn) false s s1)
    (hat : Claims.atObject s1 e cn obj) :
    Completes (.barxRd d e cn) s (arriveAtOnce (writePair (bankPeek (startOp s1 cn .mem [] [] true).2.2 obj 16) d.toNat
      (BitVec.ofNat 32 (bkNat s1 (obj + 8) 4)) (BitVec.ofNat 32 (bkNat s1 obj 4))) cn) := by
  have hsound := sound_of_atObject hat
  have hstart := started_bankPeek hsound cn obj 16
  refine issue_atObject hissue hat ?_
  simp only [bkBad_eq_none (hstart.sound hsound), hstart.bkNat, Option.isSome_none, Bool.false_eq_true, if_false]
  rfl

/-- An operation that owes nothing, the only one on its counter, arrives after its writes. -/
theorem arriveAtOnce_of_started {s u : State} {c : CtrNo} {o : Op} (hstart : Started s u c.toNat o) (honly : outstanding s.gang c.toNat = [])
    (hids : ∀ x ∈ s.gang.ops, x.id ≠ o.id) (hlanded : o.landed = true) (hdone : o.done = true) {d : Nat} (hd : d < 60) (x y : Word) :
    ∃ times, arriveAtOnce (writePair u d x y) c = (writePair u d x y).onGang fun g =>
      { g with ops := s.gang.ops, c := smapSet 0 s.gang.c c.toNat (readC s.gang c.toNat + 1), ctimes := times } := by
  obtain ⟨hops, hctr, -, -, hc, -⟩ := hstart.issued
  obtain ⟨-, -, -, hkeepOps, hkeepC⟩ := writePair_keeps u x y hd
  have hothers : ∀ x ∈ s.gang.ops, x.ctr ≠ o.ctr := by
    rw [hctr]
    simpa [outstanding] using honly
  refine ⟨smapSet 0 (writePair u d x y).gang.ctimes c.toNat (Max.max (smapGet 0 (writePair u d x y).gang.ctimes c.toNat) o.time), ?_⟩
  rw [arriveAtOnce_of_only (hkeepOps.trans hops) hctr hothers hids hlanded hdone]
  simp only [State.onGang, readC, hkeepC, hc]

/-- What the arrival leaves. -/
theorem arrived_of_started {s u : State} {c : CtrNo} {o : Op} (hstart : Started s u c.toNat o) (honly : outstanding s.gang c.toNat = [])
    (hids : ∀ x ∈ s.gang.ops, x.id ≠ o.id) (hlanded : o.landed = true) (hdone : o.done = true) {d : Nat} (hd : d < 60) (x y : Word) :
    let t := arriveAtOnce (writePair u d x y) c
    t.mem = s.mem ∧ t.gang.v = s.gang.v ∧ t.gang.arm.mask = s.gang.arm.mask ∧
      (∀ r, r < 61 → readS t.gang r = if r = d then x else if r = d + 1 then y else readS s.gang r) ∧
      smapGet 0 t.gang.c c.toNat = smapGet 0 s.gang.c c.toNat + 1 ∧ t.gang.ops = s.gang.ops := by
  obtain ⟨times, harrive⟩ := arriveAtOnce_of_started hstart honly hids hlanded hdone hd x y
  obtain ⟨hmem, hv, hmask, -, -⟩ := writePair_keeps u x y hd
  obtain ⟨-, -, -, -, -, -, -, hmask', -⟩ := hstart.issued
  dsimp only
  rw [harrive]
  refine ⟨hmem.trans hstart.mem, hv.trans hstart.sameV, hmask.trans hmask', fun r hr => ?_, smapGet_set_self .., rfl⟩
  exact (readS_writePair u x y hr).trans (by rw [hstart.readS])

theorem barrierReads : Claims.BarrierReads := by
  intro d e cn s s1 obj hissue hat honly hd hids
  have hstart := started_bankPeek (sound_of_atObject hat) cn obj 16
  exact ⟨_, completes_barxRd hissue hat, arrived_of_started hstart honly hids rfl rfl hd _ _⟩

/-- Settles O29: each operation on a BARX object comes to a change of PEND or ARRIVED and the completion check, on a state that the operation's issue
and its touch of the object leave as it was. -/
theorem bankBarriers : Obligations.BankBarriers := ⟨bankObjects, barrierInit, barrierBytes, barrierArrivals, barrierReads⟩

end Sys2Proof.Machine

/-! SUPPORT. BRDO objects: contributions, sums and initialisation (R186, R187, R196). -/

namespace Sys2Proof.Machine

/-! ### Sums in slot order (R187) -/

theorem natRange_eq_range' (a n : Nat) : natRange a n = List.range' a n := by
  induction n generalizing a with
  | zero => rfl
  | succ n ih => rw [natRange, ih, List.range'_succ]

theorem foldl_slots (ty : Nat) (slot : Nat → Nat) (n : Nat) :
    (natRange 1 n).foldl (fun acc k => brdoAdd ty acc (slot k)) (slot 0) = Claims.slotSum ty slot n := by
  rw [natRange_eq_range']
  induction n with
  | zero => rfl
  | succ n ih => rw [List.range'_1_concat, List.foldl_append, ih, Claims.slotSum, Nat.add_comm 1 n, List.foldl_cons, List.foldl_nil]

/-- The width of a slot of a TYPE. -/
def slotBytes (ty : Nat) : Nat := if brdoWide ty then 8 else 4

theorem brdoWide_eq (ty : Nat) : brdoWide ty = decide (ty = 1 ∨ ty = 3) := by
  rw [brdoWide, Bool.decide_or]
  rfl

theorem slotBytes_le (ty : Nat) : slotBytes ty ≤ 8 := by
  unfold slotBytes
  split <;> decide

theorem pow_slotBytes (ty : Nat) : 256 ^ slotBytes ty = 2 ^ (if brdoWide ty then 64 else 32) := by
  unfold slotBytes
  split <;> rfl

theorem slotSum_congr {ty n : Nat} {f g : Nat → Nat} (h : ∀ k, k ≤ n → f k = g k) : Claims.slotSum ty f n = Claims.slotSum ty g n := by
  induction n with
  | zero => exact h 0 le_rfl
  | succ n ih => rw [Claims.slotSum, Claims.slotSum, ih fun k hk => h k (by omega), h (n + 1) le_rfl]

/-- The sum of an object is that of its slots. -/
theorem brdoSum_eq {s : State} {obj n ty : Nat} (hn : bkNat s obj 4 = n) (hty : bkNat s (obj + 6) 1 = ty) :
    brdoSum s obj = Claims.slotSum ty (fun k => bkNat s (obj + 16 + 8 * k) (slotBytes ty)) (n - 1) := by
  subst hn hty
  exact foldl_slots ..

/-! ### Reaching an object (R184) -/

theorem reaches_brdoTouch {s : State} (h : Claims.banksSound s) (obj k : Nat) : Reaches s (brdoTouch s obj k) := by
  unfold brdoTouch
  dsimp only
  split
  · exact .refl s
  · have hfirst := reaches_bankTouch h (obj + 16 + 8 * k) 8
    exact hfirst.trans (reaches_bankTouch (banksSound_of_reaches hfirst h) ..)

theorem brdoPutBad_eq_none {s : State} (h : Claims.banksSound s) (obj k : Nat) : brdoPutBad s obj k = none := by
  rw [brdoPutBad, bkBad_eq_none h, bkBad_eq_none h, ite_self]

theorem Reaches.brdoBad {s t : State} (h : Reaches s t) (obj : Nat) : brdoBad t obj = Machine.brdoBad s obj := by
  simp only [Machine.brdoBad, h.bkNat]

theorem Started.brdoBad {s t : State} {c : Nat} {o : Op} (h : Started s t c o) (obj : Nat) : brdoBad t obj = Machine.brdoBad s obj := by
  simp only [Machine.brdoBad, h.bkNat]

/-- A well-formed object (R186). -/
structure WellFormed (s : State) (obj : Nat) : Prop where
  type : bkNat s (obj + 6) 1 ≤ 3
  some : 1 ≤ bkNat s obj 4
  most : bkNat s obj 4 ≤ 4096

theorem WellFormed.not_bad {s : State} {obj : Nat} (h : WellFormed s obj) : brdoBad s obj = false := by
  obtain ⟨htype, hsome, hmost⟩ := h
  simp only [brdoBad, Bool.or_eq_false_iff, decide_eq_false_iff_not, beq_eq_false_iff_ne]
  omega

/-- The byte of the bitmap with the bit of slot `k`. -/
def bitByte (s : State) (obj k : Nat) : Nat := obj + 16 + 8 * bkNat s obj 4 + k / 8

theorem Reaches.bitByte {s t : State} (h : Reaches s t) (obj k : Nat) : bitByte t obj k = Machine.bitByte s obj k := by
  rw [Machine.bitByte, Machine.bitByte, h.bkNat]

/-- Slot `k` holds a contribution, and its bit stands. -/
def brdoMarked (s : State) (obj k v : Nat) : State :=
  bkOr (bkPut s (obj + 16 + 8 * k) (slotBytes (bkNat s (obj + 6) 1)) v) (bitByte s obj k) (2 ^ (k % 8))

/-- The contribution is counted as well; the object may be complete. -/
def brdoFilled (s : State) (obj k v : Nat) : State := bkPut (brdoMarked s obj k v) (obj + 4) 2 (bkNat (brdoMarked s obj k v) (obj + 4) 2 + 1)

/-- A complete object, before its readers are released. -/
def brdoSummed (s : State) (obj : Nat) : State :=
  let t := bankTouch s (obj + 16) (8 * bkNat s obj 4)
  bkOr (bkPut t (obj + 8) (slotBytes (bkNat s (obj + 6) 1)) (brdoSum t obj)) (obj + 7) 1

/-! ### A contribution (R186, R196) -/

section
variable {s : State} {obj : Nat} (h : Claims.banksSound s) (hform : WellFormed s obj) (k v : Nat)
include h hform

theorem brdoPut_of_complete (hst : bkNat s (obj + 7) 1 % 2 = 1) : brdoPut s obj k v = bkOr (brdoTouch s obj k) (obj + 7) 8 := by
  have hreach := reaches_brdoTouch h obj k
  simp [brdoPut, brdoPutBad_eq_none (banksSound_of_reaches hreach h), hreach.brdoBad, hform.not_bad, hreach.bkNat, hst]

theorem brdoPut_of_past (hst : bkNat s (obj + 7) 1 % 2 = 0) (hk : bkNat s obj 4 ≤ k) :
    brdoPut s obj k v = bkOr (brdoTouch s obj k) (obj + 7) 4 := by
  have hreach := reaches_brdoTouch h obj k
  simp [brdoPut, brdoPutBad_eq_none (banksSound_of_reaches hreach h), hreach.brdoBad, hform.not_bad, hreach.bkNat, hst, hk]

theorem brdoPut_of_filled (hst : bkNat s (obj + 7) 1 % 2 = 0) (hk : k < bkNat s obj 4)
    (hbit : (bkNat s (bitByte s obj k) 1).testBit (k % 8) = true) : brdoPut s obj k v = bkOr (brdoTouch s obj k) (obj + 7) 2 := by
  have hreach := reaches_brdoTouch h obj k
  rw [bitByte] at hbit
  simp [brdoPut, brdoPutBad_eq_none (banksSound_of_reaches hreach h), hreach.brdoBad, hform.not_bad, hreach.bkNat, hst, Nat.not_le.2 hk, hbit]

omit h hform

theorem bkNat_brdoMarked_low {b m : Nat} (hb : b + m ≤ obj + 16) : bkNat (brdoMarked s obj k v) b m = bkNat s b m := by
  rw [brdoMarked, bkNat_bkOr_ne _ _ (by rw [bitByte]; omega), bkNat_bkPut_ne _ _ (by omega)]

theorem bkNat_brdoFilled_low {b m : Nat} (hb : b + m ≤ obj + 4 ∨ obj + 6 ≤ b ∧ b + m ≤ obj + 16) :
    bkNat (brdoFilled s obj k v) b m = bkNat s b m := by
  rw [brdoFilled, bkNat_bkPut_ne _ _ (by omega), bkNat_brdoMarked_low _ _ (by omega)]

theorem bkNat_brdoFilled_count (hcount : bkNat s (obj + 4) 2 < 65535) :
    bkNat (brdoFilled s obj k v) (obj + 4) 2 = bkNat s (obj + 4) 2 + 1 := by
  rw [brdoFilled, bkNat_bkPut, bkNat_brdoMarked_low _ _ (by omega)]
  exact Nat.mod_eq_of_lt (Nat.succ_lt_succ hcount)

theorem bkNat_brdoFilled_slot (hk : k < bkNat s obj 4) :
    bkNat (brdoFilled s obj k v) (obj + 16 + 8 * k) (slotBytes (bkNat s (obj + 6) 1)) = v % 256 ^ slotBytes (bkNat s (obj + 6) 1) := by
  have hwidth := slotBytes_le (bkNat s (obj + 6) 1)
  rw [brdoFilled, bkNat_bkPut_ne _ _ (by omega), brdoMarked, bkNat_bkOr_ne _ _ (by rw [bitByte]; omega), bkNat_bkPut]

theorem bkNat_brdoFilled_other {j m : Nat} (hj : j < bkNat s obj 4) (hne : j ≠ k) (hm : m ≤ 8) :
    bkNat (brdoFilled s obj k v) (obj + 16 + 8 * j) m = bkNat s (obj + 16 + 8 * j) m := by
  have hwidth := slotBytes_le (bkNat s (obj + 6) 1)
  rw [brdoFilled, bkNat_bkPut_ne _ _ (by omega), brdoMarked, bkNat_bkOr_ne _ _ (by rw [bitByte]; omega), bkNat_bkPut_ne _ _ (by omega)]

theorem testBit_brdoFilled : (bkNat (brdoFilled s obj k v) (bitByte s obj k) 1).testBit (k % 8) = true := by
  have hbit : k % 8 < 8 := Nat.mod_lt _ (by decide)
  rw [brdoFilled, bkNat_bkPut_ne _ _ (by rw [bitByte]; omega), brdoMarked, bkNat_bkOr, show (256 : Nat) = 2 ^ 8 from rfl, Nat.testBit_mod_two_pow,
    Nat.testBit_or, Nat.testBit_two_pow_self]
  simp [hbit]

include h

theorem onlyObject_brdoFilled (hk : k < bkNat s obj 4) : Claims.onlyObject s (brdoFilled s obj k v) obj (brdoSize (bkNat s obj 4)) := by
  have hwidth := slotBytes_le (bkNat s (obj + 6) 1)
  have hslot := banksSound_bkPut h (obj + 16 + 8 * k) (slotBytes (bkNat s (obj + 6) 1)) v
  have hmark : Claims.banksSound (brdoMarked s obj k v) := banksSound_bkPut hslot ..
  have hsize : brdoSize (bkNat s obj 4) = 16 + 8 * bkNat s obj 4 + 8 * ((bkNat s obj 4 + 63) / 64) := rfl
  have hbyte : bitByte s obj k = obj + 16 + 8 * bkNat s obj 4 + k / 8 := rfl
  exact onlyObject_trans (onlyObject_trans (onlyObject_bkPut h v (by omega) (by omega)) (onlyObject_bkPut hslot _ (by omega) (by omega)))
    (onlyObject_bkPut hmark _ (by omega) (by omega))

theorem banksSound_brdoFilled : Claims.banksSound (brdoFilled s obj k v) :=
  banksSound_bkPut (banksSound_bkPut (banksSound_bkPut h ..) ..) ..

include hform

/-- An empty slot takes the contribution; the last one completes the object. -/
theorem brdoPut_of_empty (hst : bkNat s (obj + 7) 1 % 2 = 0) (hk : k < bkNat s obj 4)
    (hbit : (bkNat s (bitByte s obj k) 1).testBit (k % 8) = false) :
    brdoPut s obj k v =
      if bkNat s (obj + 4) 2 + 1 = bkNat s obj 4
      then brdoRelease (brdoSummed (brdoFilled (brdoTouch s obj k) obj k v) obj) obj else brdoFilled (brdoTouch s obj k) obj k v := by
  have hreach := reaches_brdoTouch h obj k
  have hsound := banksSound_of_reaches hreach h
  have hbad := (hreach.brdoBad obj).trans hform.not_bad
  rw [← hreach.bitByte, ← hreach.bkNat] at hbit
  rw [← hreach.bkNat] at hst
  rw [← hreach.bkNat obj 4] at hk
  rw [← hreach.bkNat (obj + 4), ← hreach.bkNat obj 4]
  unfold brdoPut
  generalize brdoTouch s obj k = t at *
  have hfull := bkNat_brdoMarked_low (s := t) (obj := obj) k v (b := obj + 4) (m := 2) (by omega)
  have hfilled := banksSound_brdoFilled (obj := obj) hsound k v
  have hbankBad := bkBad_eq_none (banksSound_of_reaches (reaches_bankTouch hfilled (obj + 16) (8 * bkNat t obj 4)) hfilled) (obj + 16) (8 * bkNat t obj 4)
  rw [bitByte] at hbit
  dsimp only
  rw [brdoPutBad_eq_none hsound, hbad, if_neg (by simp), if_neg (by simp), if_neg (by omega), if_neg (by omega), hbit, if_neg (by simp)]
  change (if bkNat (brdoMarked t obj k v) (obj + 4) 2 + 1 = bkNat t obj 4 then _ else _) = _
  rw [hfull]
  split
  · have hn := bkNat_brdoFilled_low (s := t) (obj := obj) k v (b := obj) (m := 4) (.inl le_rfl)
    rw [brdoSummed, hn]
    change brdoRelease (bkOr (if (bkBad (bankTouch (brdoFilled t obj k v) (obj + 16) (8 * bkNat t obj 4)) (obj + 16) (8 * bkNat t obj 4)).isSome
      then _ else _) (obj + 7) 1) obj = _
    rw [hbankBad]
    rfl
  · rfl

omit hform in
/-- What a contribution that is discarded leaves. -/
theorem discarded (bits : Nat) (hbits : bits < 256) :
    bkNat (bkOr (brdoTouch s obj k) (obj + 7) bits) (obj + 7) 1 = bkNat s (obj + 7) 1 ||| bits ∧
      Claims.onlyObject s (bkOr (brdoTouch s obj k) (obj + 7) bits) (obj + 7) 1 := by
  have hreach := reaches_brdoTouch h obj k
  have hlt := Nat.or_lt_two_pow (n := 8) (bkNat_lt s (obj + 7) 1) hbits
  refine ⟨by rw [bkNat_bkOr, hreach.bkNat, Nat.mod_eq_of_lt hlt], onlyObject_trans (onlyObject_of_mem_eq hreach.mem ..) ?_⟩
  exact onlyObject_bkPut (banksSound_of_reaches hreach h) _ le_rfl le_rfl

end

/-- The fields that a sum leaves. -/
theorem brdoSummed_fields {s : State} (h : Claims.banksSound s) (obj : Nat) :
    bkNat (brdoSummed s obj) (obj + 7) 1 = bkNat s (obj + 7) 1 ||| 1 ∧
      bkNat (brdoSummed s obj) (obj + 8) (slotBytes (bkNat s (obj + 6) 1)) =
        Claims.slotSum (bkNat s (obj + 6) 1) (fun j => bkNat s (obj + 16 + 8 * j) (slotBytes (bkNat s (obj + 6) 1))) (bkNat s obj 4 - 1) %
          256 ^ slotBytes (bkNat s (obj + 6) 1) := by
  have hreach := reaches_bankTouch h (obj + 16) (8 * bkNat s obj 4)
  have hlt := Nat.or_lt_two_pow (n := 8) (bkNat_lt s (obj + 7) 1) (show 1 < 2 ^ 8 by decide)
  refine ⟨?_, ?_⟩
  · rw [brdoSummed, bkNat_bkOr, bkNat_bkPut_ne _ _ (by omega), hreach.bkNat, Nat.mod_eq_of_lt hlt]
  · rw [brdoSummed, bkNat_bkOr_ne _ _ (by omega), bkNat_bkPut, brdoSum_eq (hreach.bkNat ..) (hreach.bkNat ..)]
    simp only [hreach.bkNat]

theorem brdoRelease_mem (s : State) (obj : Nat) : (brdoRelease s obj).mem = s.mem := rfl

theorem reductionContributions : Claims.ReductionContributions := by
  intro s obj k v hsound htype hsome hmost
  have hform : WellFormed s obj := ⟨htype, hsome, hmost⟩
  have hreach := reaches_brdoTouch hsound obj k
  have hsound' := banksSound_of_reaches hreach hsound
  have hwidth : (if decide (bkNat s (obj + 6) 1 = 1 ∨ bkNat s (obj + 6) 1 = 3) then 8 else 4) = slotBytes (bkNat s (obj + 6) 1) := by
    rw [slotBytes, brdoWide_eq]
  have hpow : 2 ^ (if decide (bkNat s (obj + 6) 1 = 1 ∨ bkNat s (obj + 6) 1 = 3) then 64 else 32) = 256 ^ slotBytes (bkNat s (obj + 6) 1) := by
    rw [pow_slotBytes, brdoWide_eq]
  dsimp only
  rw [hwidth, hpow]
  refine ⟨fun hst => ?_, fun hst hk => ?_, fun hst hk hbit => ?_, fun hst hk hbit hcount => ?_, fun hst hk hbit hcount => ?_⟩
  · rw [brdoPut_of_complete hsound hform k v hst]
    exact discarded hsound k 8 (by decide)
  · rw [brdoPut_of_past hsound hform k v hst hk]
    exact discarded hsound k 4 (by decide)
  · rw [brdoPut_of_filled hsound hform k v hst hk hbit]
    exact discarded hsound k 2 (by decide)
  · rw [brdoPut_of_empty hsound hform k v hst hk hbit, if_neg (by omega)]
    have honly := onlyObject_brdoFilled (obj := obj) hsound' k v (by rwa [hreach.bkNat])
    have hslot := bkNat_brdoFilled_slot (s := brdoTouch s obj k) (obj := obj) k v (by rwa [hreach.bkNat])
    have hmark := testBit_brdoFilled (s := brdoTouch s obj k) (obj := obj) k v
    rw [hreach.bkNat] at honly hslot
    rw [hreach.bitByte] at hmark
    refine ⟨onlyObject_trans (onlyObject_of_mem_eq hreach.mem ..) honly, ?_, hslot, hmark, ?_⟩
    · rw [bkNat_brdoFilled_count _ _ (by rw [hreach.bkNat]; omega), hreach.bkNat]
    · rw [bkNat_brdoFilled_low _ _ (.inr (by omega)), hreach.bkNat]
  · rw [brdoPut_of_empty hsound hform k v hst hk hbit, if_pos hcount]
    obtain ⟨hstatus, hresult⟩ := brdoSummed_fields (banksSound_brdoFilled (obj := obj) hsound' k v) obj
    have hrelease := bkNat_congr (congrArg Mem.bank (brdoRelease_mem (brdoSummed (brdoFilled (brdoTouch s obj k) obj k v) obj) obj))
    simp only [bkNat_brdoFilled_low (s := brdoTouch s obj k) (obj := obj) k v (b := obj + 6) (m := 1) (.inr (by omega)),
      bkNat_brdoFilled_low (s := brdoTouch s obj k) (obj := obj) k v (b := obj + 7) (m := 1) (.inr (by omega)),
      bkNat_brdoFilled_low (s := brdoTouch s obj k) (obj := obj) k v (b := obj) (m := 4) (.inl (by omega)), hreach.bkNat] at hstatus hresult
    rw [hrelease, hrelease]
    refine ⟨hstatus, hresult.trans (congrArg (· % _) (slotSum_congr fun j hj => ?_))⟩
    by_cases hjk : j = k
    · have hslot := bkNat_brdoFilled_slot (s := brdoTouch s obj k) (obj := obj) k v (by rwa [hreach.bkNat])
      rw [hreach.bkNat] at hslot
      rw [if_pos hjk, hjk, hslot]
    · rw [if_neg hjk, bkNat_brdoFilled_other _ _ (by rw [hreach.bkNat]; omega) hjk (slotBytes_le _), hreach.bkNat]

end Sys2Proof.Machine

/-! SUPPORT. BRDO instructions (R186, R196). -/

namespace Sys2Proof.Machine

/-! ### BRDO.init -/

/-- `k` words from `a` on are cleared. -/
def wordsCleared (s : State) (a k : Nat) : State := (List.range k).foldl (fun s i => bkPut s (a + 8 * i) 8 0) s

theorem wordsCleared_succ (s : State) (a k : Nat) : wordsCleared s a (k + 1) = bkPut (wordsCleared s a k) (a + 8 * k) 8 0 := by
  rw [wordsCleared, List.range_succ, List.foldl_append]
  rfl

theorem banksSound_wordsCleared {s : State} (h : Claims.banksSound s) (a k : Nat) : Claims.banksSound (wordsCleared s a k) := by
  induction k with
  | zero => exact h
  | succ k ih =>
    rw [wordsCleared_succ]
    exact banksSound_bkPut ih ..

theorem bkNat_wordsCleared_ne (s : State) {a k b m : Nat} (h : b + m ≤ a) : bkNat (wordsCleared s a k) b m = bkNat s b m := by
  induction k with
  | zero => rfl
  | succ k ih => rw [wordsCleared_succ, bkNat_bkPut_ne _ _ (by omega), ih]

theorem onlyObject_wordsCleared {s : State} (h : Claims.banksSound s) {obj n a k : Nat} (hlow : obj ≤ a) (hhigh : a + 8 * k ≤ obj + n) :
    Claims.onlyObject s (wordsCleared s a k) obj n := by
  induction k with
  | zero => exact onlyObject_of_mem_eq rfl ..
  | succ k ih =>
    rw [wordsCleared_succ]
    exact onlyObject_trans (ih (by omega)) (onlyObject_bkPut (banksSound_wordsCleared h a k) _ (by omega) (by omega))

/-- A byte of a word that is cleared. -/
theorem bkNat_bkPut_zero (s : State) {a j : Nat} (h : j < 8) : bkNat (bkPut s a 8 0) (a + j) 1 = 0 := by
  have hzero : leBytes 8 0 = List.replicate 8 0 := by decide
  have hbyte : smapGet 0 (bkPut s a 8 0).mem.bank (a + j) = 0 := by
    rw [bkPut, smapGet_cellsWrite, hzero, if_pos (by simp [h]), Nat.add_sub_cancel_left, List.getD_replicate _ h]
  rw [bkNat, cellsRead, cellsRead, hbyte]
  rfl

theorem bkNat_wordsCleared (s : State) {a k j : Nat} (h : j < 8 * k) : bkNat (wordsCleared s a k) (a + j) 1 = 0 := by
  induction k with
  | zero => omega
  | succ k ih =>
    rw [wordsCleared_succ]
    by_cases hlast : j < 8 * k
    · rw [bkNat_bkPut_ne _ _ (by omega), ih hlast]
    · have hbyte := bkNat_bkPut_zero (wordsCleared s a k) (a := a + 8 * k) (j := j - 8 * k) (by omega)
      rwa [show a + 8 * k + (j - 8 * k) = a + j by omega] at hbyte

/-- The head of a BRDO object of `n` slots. -/
def brdoHead (s : State) (obj n t st : Nat) : State := bkPut (bkPut (bkPut (bkPut s obj 4 n) (obj + 4) 2 0) (obj + 6) 1 t) (obj + 7) 1 st

/-- An object with no slot filled, before its readers are released. -/
def brdoBlank (s : State) (obj n t st : Nat) : State := wordsCleared (brdoHead s obj n t st) (obj + 16 + 8 * n) ((n + 63) / 64)

theorem banksSound_brdoHead {s : State} (h : Claims.banksSound s) (obj n t st : Nat) : Claims.banksSound (brdoHead s obj n t st) :=
  banksSound_bkPut (banksSound_bkPut (banksSound_bkPut (banksSound_bkPut h ..) ..) ..) ..

theorem banksSound_brdoBlank {s : State} (h : Claims.banksSound s) (obj n t st : Nat) : Claims.banksSound (brdoBlank s obj n t st) :=
  banksSound_wordsCleared (banksSound_brdoHead h ..) ..

/-- The gangs stay as they are. -/
theorem brdoBlank_eq (s : State) (obj n t st : Nat) : brdoBlank s obj n t st = { s with mem := (brdoBlank s obj n t st).mem } := by
  have hput : ∀ {t : State} (a n v : Nat), t = { s with mem := t.mem } → bkPut t a n v = { s with mem := (bkPut t a n v).mem } := by
    intro t a n v ht
    rw [ht]
    rfl
  have hwords : ∀ {t : State} (a k : Nat), t = { s with mem := t.mem } → wordsCleared t a k = { s with mem := (wordsCleared t a k).mem } := by
    intro t a k ht
    induction k with
    | zero => exact ht
    | succ k ih =>
      rw [wordsCleared_succ]
      exact hput _ _ _ ih
  exact hwords _ _ (hput _ _ _ (hput _ _ _ (hput _ _ _ (hput _ _ _ rfl))))

theorem onlyObject_brdoBlank {s : State} (h : Claims.banksSound s) (obj n t st : Nat) :
    Claims.onlyObject s (brdoBlank s obj n t st) obj (brdoSize n) := by
  have hsize : brdoSize n = 16 + 8 * n + 8 * ((n + 63) / 64) := rfl
  have hslots := banksSound_bkPut h obj 4 n
  have hcount := banksSound_bkPut hslots (obj + 4) 2 0
  have htype := banksSound_bkPut hcount (obj + 6) 1 t
  have hhead := onlyObject_trans (onlyObject_trans (onlyObject_trans
    (onlyObject_bkPut (obj := obj) (n := brdoSize n) (a := obj) (m := 4) h n (by omega) (by omega))
    (onlyObject_bkPut (a := obj + 4) (m := 2) hslots 0 (by omega) (by omega)))
    (onlyObject_bkPut (a := obj + 6) (m := 1) hcount t (by omega) (by omega)))
    (onlyObject_bkPut (a := obj + 7) (m := 1) htype st (by omega) (by omega))
  exact onlyObject_trans hhead (onlyObject_wordsCleared (banksSound_brdoHead h obj n t st) (by omega) (by omega))

theorem bkNat_brdoBlank_head (s : State) {obj n t st b m : Nat} (h : b + m ≤ obj + 16) :
    bkNat (brdoBlank s obj n t st) b m = bkNat (brdoHead s obj n t st) b m := bkNat_wordsCleared_ne _ (by omega)

theorem bkNat_brdoBlank_slots (s : State) (obj n t st : Nat) : bkNat (brdoBlank s obj n t st) obj 4 = n % 2 ^ 32 := by
  rw [bkNat_brdoBlank_head _ (by omega), brdoHead, bkNat_bkPut_ne _ _ (by omega), bkNat_bkPut_ne _ _ (by omega), bkNat_bkPut_ne _ _ (by omega),
    bkNat_bkPut]
  rfl

theorem bkNat_brdoBlank_count (s : State) (obj n t st : Nat) : bkNat (brdoBlank s obj n t st) (obj + 4) 2 = 0 := by
  rw [bkNat_brdoBlank_head _ (by omega), brdoHead, bkNat_bkPut_ne _ _ (by omega), bkNat_bkPut_ne _ _ (by omega), bkNat_bkPut]
  rfl

theorem bkNat_brdoBlank_type (s : State) (obj n t st : Nat) : bkNat (brdoBlank s obj n t st) (obj + 6) 1 = t % 256 := by
  rw [bkNat_brdoBlank_head _ (by omega), brdoHead, bkNat_bkPut_ne _ _ (by omega), bkNat_bkPut]
  rfl

theorem bkNat_brdoBlank_st (s : State) (obj n t st : Nat) : bkNat (brdoBlank s obj n t st) (obj + 7) 1 = st % 256 := by
  rw [bkNat_brdoBlank_head _ (by omega), brdoHead, bkNat_bkPut]
  rfl

theorem bkNat_brdoBlank_result (s : State) (obj n t st : Nat) : bkNat (brdoBlank s obj n t st) (obj + 8) 8 = bkNat s (obj + 8) 8 := by
  rw [bkNat_brdoBlank_head _ (by omega), brdoHead, bkNat_bkPut_ne _ _ (by omega), bkNat_bkPut_ne _ _ (by omega), bkNat_bkPut_ne _ _ (by omega),
    bkNat_bkPut_ne _ _ (by omega)]

theorem bkNat_brdoBlank_bits (s : State) {obj n t st k : Nat} (hk : k < n) : bkNat (brdoBlank s obj n t st) (obj + 16 + 8 * n + k / 8) 1 = 0 :=
  bkNat_wordsCleared _ (by omega)

/-! ### The readers that are released (R196) -/

theorem brdoLands_eq (d st : Nat) (wide : Bool) (result status : Nat) :
    brdoLands d st wide result status = Claims.readerGets d st wide result status := by
  cases wide <;> rfl

theorem brdoResult_eq {s : State} (h : Claims.banksSound s) (obj : Nat) : brdoResult s obj = bkNat s (obj + 8) 8 := by
  rw [brdoResult, bkBad_eq_none h]
  rfl

theorem brdoRelease_eq {s : State} (h : Claims.banksSound s) (obj : Nat) :
    brdoRelease s obj = mapGangs s fun g => { g with ops := g.ops.map (brdoFinish s obj) } := by
  unfold brdoRelease
  rw [bkBad_eq_none h]
  simp only [List.append_nil]

theorem brdoFinish_of_mem {s : State} {obj : Nat} {o : Op} (h : o.kind = .mem) : brdoFinish s obj o = o := by
  rw [brdoFinish, h]

/-- A reader that waits gets RESULT and ST. -/
theorem brdoFinish_of_reader {s : State} (h : Claims.banksSound s) {obj d st : Nat} {wide : Bool} {o : Op} (hkind : o.kind = .brdo obj d st wide)
    (hdone : o.done = false) : (brdoFinish s obj o).id = o.id ∧ (brdoFinish s obj o).done = true ∧
      (brdoFinish s obj o).lands = Claims.readerGets d st wide (bkNat s (obj + 8) 8) (bkNat s (obj + 7) 1) := by
  have hreads : readsObj obj o = true := by simp [readsObj, hkind, hdone]
  have hfinish : brdoFinish s obj o = { o with done := true, time := Max.max o.time (objTime s obj),
                                               lands := brdoLands d st wide (brdoResult s obj) (bkNat s (obj + 7) 1) } := by
    simp [brdoFinish, hkind, hreads]
  rw [hfinish, brdoLands_eq, brdoResult_eq h]
  exact ⟨rfl, rfl, rfl⟩

/-- ST that BRDO.init leaves. -/
def brdoInitSt (s : State) (obj : Nat) : Nat :=
  if (gangsOf s ++ s.teams.flatMap fun x => x.savedGangs).any (fun g => g.ops.any (readsObj obj)) then 16 else 0

theorem brdoInitSt_lt (s : State) (obj : Nat) : brdoInitSt s obj < 256 := by
  unfold brdoInitSt
  split <;> decide

theorem brdoInitSt_of_reader {s : State} {obj : Nat} {g : Gang} (hg : g ∈ gangsOf s) {o : Op} (ho : o ∈ g.ops) (h : readsObj obj o = true) :
    brdoInitSt s obj = 16 :=
  if_pos (List.any_eq_true.2 ⟨g, List.mem_append_left _ hg, List.any_eq_true.2 ⟨o, ho, h⟩⟩)

theorem Started.brdoInitSt {s t : State} {c : Nat} {o : Op} (h : Started s t c o) {obj : Nat} (ho : readsObj obj o = false) :
    brdoInitSt t obj = Machine.brdoInitSt s obj := by
  rw [Machine.brdoInitSt, Machine.brdoInitSt, h.anyOp ho]

theorem brdoInit_eq (s : State) (obj n t : Nat) : brdoInit s obj n t = brdoRelease (brdoBlank s obj n t (brdoInitSt s obj)) obj := rfl

/-- The gangs that were there still are, with one operation more in the gang at hand. -/
theorem Started.mem_gangsOf {s t : State} {c : Nat} {o : Op} (h : Started s t c o) {g : Gang} (hg : g ∈ gangsOf s) :
    ∃ g' ∈ gangsOf t, g'.id = g.id ∧ ∀ x ∈ g.ops, x ∈ g'.ops := by
  unfold gangsOf at hg ⊢
  rw [h.live, h.others]
  obtain hg | hg := List.mem_append.1 hg
  · split at hg
    · next hlive =>
      obtain rfl := List.mem_singleton.1 hg
      refine ⟨t.gang, by simp [hlive], h.id, fun x hx => ?_⟩
      rw [h.issued.1]
      exact List.mem_append_left _ hx
    · cases hg
  · exact ⟨g, List.mem_append_right _ hg, rfl, fun _ hx => hx⟩

end Sys2Proof.Machine

/-! SUPPORT. BRDO.init of an object, BRDO.add, BRDO.addv and BRDO.rd (R186, R196). -/

namespace Sys2Proof.Machine

/-! ### BRDO.init of an object that is reached -/

/-- The gangs past the release of an object's readers. -/
theorem gangsOf_brdoInit {s : State} (h : Claims.banksSound s) (obj n t : Nat) :
    gangsOf (brdoInit s obj n t) = (gangsOf s).map fun g => { g with ops := g.ops.map (brdoFinish (brdoBlank s obj n t (brdoInitSt s obj)) obj) } := by
  have hgangs : gangsOf (brdoBlank s obj n t (brdoInitSt s obj)) = gangsOf s := by
    rw [brdoBlank_eq]
    rfl
  rw [brdoInit_eq, brdoRelease_eq (banksSound_brdoBlank h ..), gangsOf_mapGangs, hgangs]

theorem gang_brdoInit {s : State} (h : Claims.banksSound s) (hlive : s.live = true) (obj n t : Nat) :
    (brdoInit s obj n t).gang = { s.gang with ops := s.gang.ops.map (brdoFinish (brdoBlank s obj n t (brdoInitSt s obj)) obj) } := by
  have hgang : (brdoBlank s obj n t (brdoInitSt s obj)).gang = s.gang := by rw [brdoBlank_eq]
  have hlive' : (brdoBlank s obj n t (brdoInitSt s obj)).live = true := by rwa [brdoBlank_eq]
  rw [brdoInit_eq, brdoRelease_eq (banksSound_brdoBlank h ..), gang_mapGangs hlive', hgang]

/-- What BRDO.init makes of an object that it has reached. -/
theorem brdoInit_of_started {s u : State} {c : Nat} {o : Op} (hstart : Started s u c o) (hsound : Claims.banksSound s) (hlive : s.live = true)
    (ho : o.kind = .mem) (obj : Nat) (ty : BitVec 2) (n : BitVec 12) :
    let t := brdoInit u obj (n.toNat + 1) ty.toNat
    Claims.onlyObject s t obj (brdoSize (n.toNat + 1)) ∧ t.gang.v = s.gang.v ∧ t.gang.s = s.gang.s ∧ o ∈ t.gang.ops ∧
      bkNat t obj 4 = n.toNat + 1 ∧ bkNat t (obj + 4) 2 = 0 ∧ bkNat t (obj + 6) 1 = ty.toNat ∧ bkNat t (obj + 7) 1 = brdoInitSt s obj ∧
      ∀ k, k < n.toNat + 1 → (bkNat t (obj + 16 + 8 * (n.toNat + 1) + k / 8) 1).testBit (k % 8) = false := by
  have hsound' := hstart.sound hsound
  have hreads : readsObj obj o = false := by rw [readsObj, ho]
  have hn := n.isLt
  have hty := ty.isLt
  have hmem : ∀ a m, bkNat (brdoInit u obj (n.toNat + 1) ty.toNat) a m = bkNat (brdoBlank u obj (n.toNat + 1) ty.toNat (brdoInitSt u obj)) a m :=
    bkNat_congr (congrArg Mem.bank (brdoRelease_mem ..))
  dsimp only
  simp only [hmem, gang_brdoInit hsound' (hstart.live.trans hlive), bkNat_brdoBlank_slots, bkNat_brdoBlank_count, bkNat_brdoBlank_type,
    bkNat_brdoBlank_st, hstart.brdoInitSt hreads, Nat.mod_eq_of_lt (brdoInitSt_lt s obj)]
  refine ⟨onlyObject_mem_eq (onlyObject_trans (hstart.onlyObject ..) (onlyObject_brdoBlank hsound' obj (n.toNat + 1) ty.toNat (brdoInitSt u obj)))
    (brdoRelease_mem ..), hstart.sameV, hstart.sameS, List.mem_map.2 ⟨o, hstart.mem_ops, brdoFinish_of_mem ho⟩,
    Nat.mod_eq_of_lt (by omega), trivial, Nat.mod_eq_of_lt (by omega), trivial, fun k hk => ?_⟩
  rw [bkNat_brdoBlank_bits _ hk, Nat.zero_testBit]

/-- Every reader that waits on the object is done. -/
theorem readers_of_brdoInit {s u : State} {c : Nat} {x : Op} (hstart : Started s u c x) (hsound : Claims.banksSound s) (hx : x.kind = .mem)
    {obj : Nat} (n t : Nat) {g : Gang} (hg : g ∈ gangsOf s) {o : Op} (ho : o ∈ g.ops) {d st : Nat} {wide : Bool}
    (hkind : o.kind = .brdo obj d st wide) (hdone : o.done = false) :
    ∃ g' ∈ gangsOf (brdoInit u obj n t), g'.id = g.id ∧ ∃ o' ∈ g'.ops, o'.id = o.id ∧ o'.done = true ∧
      o'.lands = Claims.readerGets d st wide (bkNat s (obj + 8) 8) 16 := by
  have hsound' := hstart.sound hsound
  have hreads : readsObj obj x = false := by rw [readsObj, hx]
  have hst : brdoInitSt u obj = 16 := (hstart.brdoInitSt hreads).trans (brdoInitSt_of_reader hg ho (by simp [readsObj, hkind, hdone]))
  obtain ⟨g', hg', hid, hops⟩ := hstart.mem_gangsOf hg
  obtain ⟨hid', hdone', hlands⟩ := brdoFinish_of_reader (banksSound_brdoBlank hsound' obj n t (brdoInitSt u obj)) hkind hdone
  rw [bkNat_brdoBlank_result, bkNat_brdoBlank_st, hstart.bkNat] at hlands
  have hmem := gangsOf_brdoInit hsound' obj n t ▸ List.mem_map_of_mem (f := fun g : Gang =>
    { g with ops := g.ops.map (brdoFinish (brdoBlank u obj n t (brdoInitSt u obj)) obj) }) hg'
  exact ⟨_, hmem, hid, _, List.mem_map_of_mem (hops o ho), hid', hdone', hlands.trans (by rw [hst])⟩

theorem completes_brdoInit {e : Reg} {ty : BitVec 2} {n : BitVec 12} {cn : CtrNo} {s s1 : State} {obj : Nat}
    (hissue : Issues (.brdoInit e ty n cn) false s s1) (hat : Claims.atObject s1 e cn obj)
    (hfits : obj / 65536 = (obj + brdoSize (n.toNat + 1) - 1) / 65536) :
    Completes (.brdoInit e ty n cn) s (brdoInit (bankTouch (bankTouch (startOp s1 cn .mem [] [] true).2.2 obj 16)
      (obj + 16 + 8 * (n.toNat + 1)) (8 * ((n.toNat + 64) / 64))) obj (n.toNat + 1) ty.toNat) := by
  have hfits' : brdoFits obj (n.toNat + 1) = true := by simpa [brdoFits] using hfits
  obtain ⟨-, -, -, htime⟩ := id hat
  refine issue_atObject hissue hat ?_
  dsimp only
  rw [hfits', withLines_ok htime]
  rfl

theorem reductionInit : Claims.ReductionInit := by
  intro e ty n cn s s1 obj hissue hat hfits
  obtain rfl : s1 = s := eq_of_issues hissue (strm_uB e.toNat 2)
  have hsound := sound_of_atObject hat
  have htouch := started_bankTouch hsound cn obj 16
  have hstart := htouch.reaches (reaches_bankTouch (htouch.sound hsound) (obj + 16 + 8 * (n.toNat + 1)) (8 * ((n.toNat + 64) / 64)))
  obtain ⟨honly, hv, hscal, hop, hslots, hcount, htype, hst, hbits⟩ := brdoInit_of_started hstart hsound hissue.live rfl obj ty n
  exact ⟨_, _, completes_brdoInit hissue hat hfits, honly, hv, hscal, hop, hstart.ctr, performed_startedOp .., hslots, hcount, htype, hst, hbits,
    fun g hg o ho d st w hkind hdone => readers_of_brdoInit hstart hsound rfl _ _ hg ho hkind hdone⟩

/-! ### BRDO.add and BRDO.addv -/

/-- An object that an instruction other than BRDO.init names. -/
theorem withBrdo_ok {s : State} {e : Reg} {c : CtrNo} {obj : Nat} (h : Claims.atObject s e c obj)
    (hfits : brdoBad s obj = true ∨ brdoFits obj (bkNat s obj 4) = true) (f : Nat → Exe) : withBrdo s e.toNat f = f obj := by
  obtain ⟨hobj, -, -, htime⟩ := h
  rw [withBrdo, withObject_ok hobj htime]
  obtain hbad | hfits := hfits
  · rw [if_pos hbad]
  · rw [hfits, withLines_ok htime]
    simp

theorem issue_atBrdo {i : Instr} {sup : Bool} {s s1 t : State} (hissue : Issues i sup s s1) {e : Reg} {c : CtrNo} {obj : Nat}
    (h : Claims.atObject s1 e c obj) (hfits : brdoBad s1 obj = true ∨ brdoFits obj (bkNat s1 obj 4) = true) {f : State → Nat → Exe}
    (hf : f s1 obj = .ok t) :
    issue i sup s (fun s => withCtr c s (fun s => withBrdo s e.toNat (f s))) = .next (afterIssue (advance t i)) := by
  obtain ⟨-, hroom, -⟩ := id h
  exact issue_ok hissue (by rw [withCtr_ok hroom, withBrdo_ok h hfits, hf])

/-- The object is well formed and its values are pairs. -/
def takesPairs (s : State) (obj : Nat) : Bool := !brdoBad s obj && brdoWide (bkNat s (obj + 6) 1)

theorem takesPairs_iff (s : State) (obj : Nat) :
    takesPairs s obj = true ↔ brdoBad s obj = false ∧ (bkNat s (obj + 6) 1 = 1 ∨ bkNat s (obj + 6) 1 = 3) := by
  simp [takesPairs, brdoWide]

/-- The pair that a value is may be read. -/
theorem pair_ok {s : State} {obj v : Nat} {kind : Kind}
    (h : takesPairs s obj = true → v % 2 = 0 ∧ allocated s.gang kind (v + 1) = true ∧
      hazardReg s.gang [⟨kind, v + 1, .x, true, false, false, false⟩] = none) :
    (takesPairs s obj && (v % 2 == 1 || !allocated s.gang kind (v + 1))) = false ∧
      (if takesPairs s obj = true then pairHazard s kind (v + 1) else none) = none := by
  cases hpairs : takesPairs s obj
  · exact ⟨rfl, rfl⟩
  · obtain ⟨heven, halloc, hhazard⟩ := h hpairs
    simp [heven, halloc, pairHazard, hhazard]

theorem completes_brdoAdd {v e k : Reg} {cn : CtrNo} {s s1 : State} {obj : Nat} (hissue : Issues (.brdoAdd v e k cn) false s s1)
    (hat : Claims.atObject s1 e cn obj) (hfits : brdoBad s1 obj = true ∨ brdoFits obj (bkNat s1 obj 4) = true)
    (hpair : takesPairs s1 obj = true → v.toNat % 2 = 0 ∧ allocated s1.gang .scal (v.toNat + 1) = true ∧
      hazardReg s1.gang [⟨.scal, v.toNat + 1, .x, true, false, false, false⟩] = none) :
    Completes (.brdoAdd v e k cn) s (brdoPut (bankTouch (startOp s1 cn .mem [] [] true).2.2 obj 16) obj (readS s1.gang k.toNat).toNat
      (if takesPairs s1 obj then (readS64 s1.gang v.toNat).toNat else (readS s1.gang v.toNat).toNat)) := by
  have hsound := sound_of_atObject hat
  have hstart := started_bankTouch hsound cn obj 16
  have hsound' := hstart.sound hsound
  obtain ⟨hlegal, hhazard⟩ := pair_ok hpair
  refine issue_atBrdo hissue hat hfits ?_
  have hbad : brdoPutBad (brdoTouch (bankTouch (startOp s1 cn .mem [] [] true).2.2 obj 16) obj (readS s1.gang k.toNat).toNat) obj
      (readS s1.gang k.toNat).toNat = none := brdoPutBad_eq_none (banksSound_of_reaches (reaches_brdoTouch hsound' ..) hsound') ..
  dsimp only
  rw [← takesPairs, hlegal, hhazard]
  dsimp only
  rw [hstart.readS, hbad]
  rfl

theorem wellFormed_of_not_bad {s : State} {obj : Nat} (h : ¬brdoBad s obj = true) : WellFormed s obj := by
  simp only [brdoBad, Bool.or_eq_true, decide_eq_true_iff, beq_iff_eq] at h
  exact ⟨by omega, by omega, by omega⟩

theorem brdoPut_of_bad {s : State} {obj : Nat} (h : Claims.banksSound s) (hbad : brdoBad s obj = true) (k v : Nat) :
    brdoPut s obj k v = bkOr (brdoTouch s obj k) (obj + 7) 0x20 := by
  have hreach := reaches_brdoTouch h obj k
  simp [brdoPut, brdoPutBad_eq_none (banksSound_of_reaches hreach h), hreach.brdoBad, hbad]

theorem banksSound_brdoRelease {s : State} (h : Claims.banksSound s) (obj : Nat) : Claims.banksSound (brdoRelease s obj) := h

theorem banksSound_brdoSummed {s : State} (h : Claims.banksSound s) (obj : Nat) : Claims.banksSound (brdoSummed s obj) :=
  banksSound_bkPut (banksSound_bkPut (banksSound_of_reaches (reaches_bankTouch h ..) h) ..) ..

/-- A contribution poisons nothing. -/
theorem banksSound_brdoPut {s : State} (h : Claims.banksSound s) (obj k v : Nat) : Claims.banksSound (brdoPut s obj k v) := by
  have hsound := banksSound_of_reaches (reaches_brdoTouch h obj k) h
  have hstatus : ∀ bits, Claims.banksSound (bkOr (brdoTouch s obj k) (obj + 7) bits) := fun bits => banksSound_bkPut hsound ..
  by_cases hbad : brdoBad s obj = true
  · rw [brdoPut_of_bad h hbad]
    exact hstatus _
  have hform := wellFormed_of_not_bad hbad
  obtain hst | hst := Nat.mod_two_eq_zero_or_one (bkNat s (obj + 7) 1)
  · by_cases hk : k < bkNat s obj 4
    · cases hbit : (bkNat s (bitByte s obj k) 1).testBit (k % 8)
      · rw [brdoPut_of_empty h hform k v hst hk hbit]
        split
        · exact banksSound_brdoRelease (banksSound_brdoSummed (banksSound_brdoFilled hsound k v) obj) obj
        · exact banksSound_brdoFilled hsound k v
      · rw [brdoPut_of_filled h hform k v hst hk hbit]
        exact hstatus _
    · rw [brdoPut_of_past h hform k v hst (Nat.not_lt.1 hk)]
      exact hstatus _
  · rw [brdoPut_of_complete h hform k v hst]
    exact hstatus _

/-- The contributions of some lanes, with the first poisoned word that one reads. -/
def brdoPuts (obj : Nat) (k x : Nat → Nat) (acc : State × Option Nat) (l : Nat) : State × Option Nat :=
  (brdoPut acc.1 obj (k l) (x l),
    match acc.2 with
    | some a => some a
    | none => brdoPutBad (brdoTouch acc.1 obj (k l)) obj (k l))

theorem foldl_brdoPuts {s : State} (h : Claims.banksSound s) (obj : Nat) (k x : Nat → Nat) (ls : List Nat) :
    ls.foldl (brdoPuts obj k x) (s, none) = (ls.foldl (fun s l => brdoPut s obj (k l) (x l)) s, none) := by
  induction ls generalizing s with
  | nil => rfl
  | cons l ls ih =>
    have hbad := brdoPutBad_eq_none (banksSound_of_reaches (reaches_brdoTouch h obj (k l)) h) obj (k l)
    rw [List.foldl_cons, List.foldl_cons, brdoPuts, hbad]
    exact ih (banksSound_brdoPut h ..)

theorem completes_brdoAddv {v e k : Reg} {cn : CtrNo} {s s1 : State} {obj : Nat} (hissue : Issues (.brdoAddv v e k cn) false s s1)
    (hat : Claims.atObject s1 e cn obj) (hmask : s1.gang.arm.mask ≠ 0)
    (hfits : brdoBad s1 obj = true ∨ brdoFits obj (bkNat s1 obj 4) = true) (htwin : twinTrap s1.gang = none)
    (hpair : takesPairs s1 obj = true → v.toNat % 2 = 0 ∧ allocated s1.gang .vec (v.toNat + 1) = true ∧
      hazardReg s1.gang [⟨.vec, v.toNat + 1, .x, true, false, false, false⟩] = none) :
    Completes (.brdoAddv v e k cn) s ((Claims.lanes s1).foldl (fun s l => brdoPut s obj ((readS s1.gang k.toNat).toNat + l)
        (if takesPairs s1 obj then (pairOf (readV s1.gang v.toNat l) (readV s1.gang (v.toNat + 1) l)).toNat else (readV s1.gang v.toNat l).toNat))
      (bankTouch (startOp s1 cn .mem [] [] true).2.2 obj 16)) := by
  have hsound := sound_of_atObject hat
  have hstart := started_bankTouch hsound cn obj 16
  obtain ⟨hlegal, hhazard⟩ := pair_ok hpair
  obtain ⟨-, hroom, -⟩ := id hat
  refine issue_ok hissue ?_
  rw [brdoAddvBody, withCtr_ok hroom, if_neg hmask, withBrdo_ok hat hfits]
  dsimp only
  rw [← takesPairs, hlegal, hhazard]
  dsimp only
  rw [withTwin, htwin]
  have hfold := foldl_brdoPuts (hstart.sound hsound) obj (fun l => (readS s1.gang k.toNat).toNat + l) (fun l =>
    if takesPairs s1 obj then (pairOf (readV s1.gang v.toNat l) (readV s1.gang (v.toNat + 1) l)).toNat else (readV s1.gang v.toNat l).toNat)
    (laneList s1.gang.arm.mask)
  exact congrArg (fun r : State × Option Nat => Exe.ok (pendBank cn (startOp s1 cn .mem [] [] true).2.1 r.2 r.1)) hfold

theorem reductionAdds : Claims.ReductionAdds := by
  refine ⟨fun v e k cn s s1 obj hissue hat hfits hpair => ?_, fun v e k cn s s1 obj hissue hat hmask hfits htwin hpair => ?_⟩
  · have hstart := started_bankTouch (sound_of_atObject hat) cn obj 16
    refine ⟨_, _, _, _, completes_brdoAdd hissue hat hfits fun h => hpair ((takesPairs_iff s1 obj).1 h), hstart.mem, hstart.issued,
      performed_startedOp .., fun h => ?_, fun h => ?_, rfl⟩
    · rw [if_pos ((takesPairs_iff s1 obj).2 h)]
    · rw [if_neg (mt (takesPairs_iff s1 obj).1 h)]
  · have hstart := started_bankTouch (sound_of_atObject hat) cn obj 16
    refine ⟨_, _, _, _, completes_brdoAddv hissue hat hmask hfits htwin fun h => hpair ((takesPairs_iff s1 obj).1 h), hstart.mem, hstart.issued,
      performed_startedOp .., fun l => ⟨fun h => ?_, fun h => ?_⟩, rfl⟩
    · exact if_pos ((takesPairs_iff s1 obj).2 h)
    · exact if_neg (mt (takesPairs_iff s1 obj).1 h)

/-! ### BRDO.rd -/

/-- What BRDO.rd checks of its registers. -/
theorem readPair_ok {s : State} {d : Nat} {wide : Bool}
    (h : wide = true → d % 2 = 0 ∧ allocated s.gang .scal (d + 1) = true ∧ owedWrite s.gang [⟨.scal, d + 1, .x, false, true, false, false⟩] = false) :
    (wide && (d % 2 == 1 || !allocated s.gang .scal (d + 1))) = false ∧
      (wide && owedWrite s.gang [⟨.scal, d + 1, .x, false, true, false, false⟩]) = false := by
  cases wide
  · exact ⟨rfl, rfl⟩
  · obtain ⟨heven, halloc, howed⟩ := h rfl
    simp [heven, halloc, howed]

section
variable {d e st : Reg} {cn : CtrNo} {s s1 : State} {obj : Nat} (hissue : Issues (.brdoRd d e st cn) false s s1)
  (hat : Claims.atObject s1 e cn obj) (hfits : brdoBad s1 obj = true ∨ brdoFits obj (bkNat s1 obj 4) = true)
  (hpair : brdoWide (bkNat s1 (obj + 6) 1) = true → d.toNat % 2 = 0 ∧ allocated s1.gang .scal (d.toNat + 1) = true ∧
      owedWrite s1.gang [⟨.scal, d.toNat + 1, .x, false, true, false, false⟩] = false)
include hissue hat hfits hpair

/-- A BRDO.rd of a malformed object sets ST bit 5. -/
theorem completes_brdoRd_bad (hbad : brdoBad s1 obj = true) :
    let u := bkOr (bankTouch s1 obj 16) (obj + 7) 0x20
    let wide := brdoWide (bkNat s1 (obj + 6) 1)
    Completes (.brdoRd d e st cn) s (startOp u cn .mem (brdoLands d.toNat st.toNat wide 0 (bkNat u (obj + 7) 1))
      (brdoOwed d.toNat st.toNat wide) true).2.2 := by
  have hsound := sound_of_atObject hat
  have hreach := reaches_bankTouch hsound obj 16
  obtain ⟨hlegal, howed⟩ := readPair_ok hpair
  refine issue_atBrdo hissue hat hfits ?_
  dsimp only
  rw [hlegal, howed, hreach.brdoBad, hbad, bkBad_eq_none (banksSound_bkOr (banksSound_of_reaches hreach hsound) ..)]
  rfl

/-- A BRDO.rd of a complete object is done. -/
theorem completes_brdoRd_complete (hbad : brdoBad s1 obj = false) (hst : bkNat s1 (obj + 7) 1 % 2 = 1) :
    let u := bankTouch s1 obj 16
    let wide := brdoWide (bkNat s1 (obj + 6) 1)
    Completes (.brdoRd d e st cn) s (startOp u cn .mem (brdoLands d.toNat st.toNat wide (bkNat s1 (obj + 8) 8) (bkNat s1 (obj + 7) 1))
      (brdoOwed d.toNat st.toNat wide) true).2.2 := by
  have hsound := sound_of_atObject hat
  have hreach := reaches_bankTouch hsound obj 16
  have hsound' := banksSound_of_reaches hreach hsound
  obtain ⟨hlegal, howed⟩ := readPair_ok hpair
  refine issue_atBrdo hissue hat hfits ?_
  dsimp only
  rw [hlegal, howed, hreach.brdoBad, hbad, bkBad_eq_none hsound', brdoResult_eq hsound', hreach.bkNat, hreach.bkNat, if_neg (by simp), if_neg (by simp),
    if_neg (by simp), if_pos hst]
  rfl

/-- Any other BRDO.rd waits for the object, or for a place at its unit. -/
theorem completes_brdoRd_waits (hbad : brdoBad s1 obj = false) (hst : bkNat s1 (obj + 7) 1 % 2 = 0) :
    let u := bankTouch s1 obj 16
    let wide := brdoWide (bkNat s1 (obj + 6) 1)
    let waits := fun kind : OpKind => startOp u cn kind [] (brdoOwed d.toNat st.toNat wide) false
    Completes (.brdoRd d e st cn) s (if placesUsed s1 (obj / 65536) < 64 then (waits (.brdo obj d.toNat st.toNat wide)).2.2
      else enqueueBank (waits (.held true obj 0 d.toNat st.toNat wide)).2.2 (waits (.held true obj 0 d.toNat st.toNat wide)).1 obj) := by
  have hsound := sound_of_atObject hat
  have hreach := reaches_bankTouch hsound obj 16
  obtain ⟨hlegal, howed⟩ := readPair_ok hpair
  refine issue_atBrdo hissue hat hfits ?_
  dsimp only
  rw [hlegal, howed, hreach.brdoBad, hbad, hreach.bkNat, hreach.placesUsed, if_neg (by simp), if_neg (by simp), if_neg (by simp), if_neg (by omega)]
  split <;> rfl

end

theorem Started.enqueueBank {s t : State} {c : Nat} {o : Op} (h : Started s t c o) (op obj : Nat) : Started s (enqueueBank t op obj) c o :=
  ⟨h.mem, h.errors, h.launches, h.live, h.others, h.teams, h.id, h.issued⟩

/-- A reader's operation, issued past its touch of the object. -/
theorem started_reader {s : State} (h : Claims.banksSound s) (c : CtrNo) (obj : Nat) (kind : OpKind) (lands : List RegWrite) (d st : Nat) (wide done : Bool) :
    Started s (startOp (bankTouch s obj 16) c kind lands (brdoOwed d st wide) done).2.2 c.toNat
      (startedOp (bankTouch s obj 16) c kind lands (brdoOwed d st wide) done) :=
  (reaches_bankTouch h obj 16).started (started_startOp ..)

/-- An operation issued past a mark in the status of its malformed object. -/
theorem marked_of_reaches {s u : State} (hreach : Reaches s u) (h : Claims.banksSound s) {obj : Nat} (c : CtrNo) (lands : List RegWrite)
    (owed : List (Bool × Nat × Shadow)) :
    Claims.issuedOn s (startOp (bkOr u (obj + 7) 0x20) c .mem lands owed true).2.2 c.toNat (startedOp (bkOr u (obj + 7) 0x20) c .mem lands owed true) ∧
      Claims.onlyObject s (startOp (bkOr u (obj + 7) 0x20) c .mem lands owed true).2.2 (obj + 7) 1 ∧
      bkNat (bkOr u (obj + 7) 0x20) (obj + 7) 1 = bkNat s (obj + 7) 1 ||| 0x20 := by
  have hstart := started_startOp (bkOr u (obj + 7) 0x20) c .mem lands owed true
  have hput := onlyObject_bkPut (obj := obj + 7) (n := 1) (banksSound_of_reaches hreach h) (bkNat u (obj + 7) 1 ||| 0x20) le_rfl le_rfl
  have hlt := Nat.or_lt_two_pow (n := 8) (bkNat_lt s (obj + 7) 1) (show 0x20 < 2 ^ 8 by decide)
  exact ⟨issuedOn_of_sameFile hreach.sameFile (.refl _) hstart.issued,
    onlyObject_mem_eq (onlyObject_trans (onlyObject_of_mem_eq hreach.mem ..) hput) hstart.mem,
    by rw [bkNat_bkOr, hreach.bkNat, Nat.mod_eq_of_lt hlt]⟩

theorem startedOp_reader (s : State) (c : CtrNo) (kind : OpKind) (lands : List RegWrite) (d st : Nat) (wide done : Bool) :
    (startedOp s c kind lands (brdoOwed d st wide) done).landed = false := rfl

theorem reductionReads : Claims.ReductionReads := by
  intro d e st cn s s1 obj hissue hat hfits wide hpair
  have hwide : wide = brdoWide (bkNat s1 (obj + 6) 1) := (brdoWide_eq _).symm
  clear_value wide
  subst hwide
  have hsound := sound_of_atObject hat
  have hreach := reaches_bankTouch hsound obj 16
  cases hbad : brdoBad s1 obj
  · obtain hst | hst := Nat.mod_two_eq_zero_or_one (bkNat s1 (obj + 7) 1)
    · have hdone := completes_brdoRd_waits hissue hat hfits hpair hbad hst
      dsimp only at hdone
      split at hdone
      · next hplaces =>
        have hstart := started_reader hsound cn obj (.brdo obj d.toNat st.toNat (brdoWide (bkNat s1 (obj + 6) 1))) [] d.toNat st.toNat
          (brdoWide (bkNat s1 (obj + 6) 1)) false
        exact ⟨_, _, hdone, hstart.issued, startedOp_reader .., nofun, fun _ h => by omega, fun _ _ => ⟨rfl, rfl, hstart.mem, fun _ => rfl⟩⟩
      · next hplaces =>
        have hstart := started_reader hsound cn obj (.held true obj 0 d.toNat st.toNat (brdoWide (bkNat s1 (obj + 6) 1))) [] d.toNat st.toNat
          (brdoWide (bkNat s1 (obj + 6) 1)) false
        exact ⟨_, _, hdone, (hstart.enqueueBank _ obj).issued, startedOp_reader .., nofun, fun _ h => by omega,
          fun _ _ => ⟨rfl, rfl, (hstart.enqueueBank _ obj).mem, fun h => absurd h hplaces⟩⟩
    · have hstart := started_reader hsound cn obj .mem (brdoLands d.toNat st.toNat (brdoWide (bkNat s1 (obj + 6) 1)) (bkNat s1 (obj + 8) 8)
        (bkNat s1 (obj + 7) 1)) d.toNat st.toNat (brdoWide (bkNat s1 (obj + 6) 1)) true
      exact ⟨_, _, completes_brdoRd_complete hissue hat hfits hpair hbad hst, hstart.issued, startedOp_reader .., nofun,
        fun _ _ => ⟨rfl, hstart.mem, brdoLands_eq ..⟩, fun _ h => by omega⟩
  · obtain ⟨hissued, honly, hst⟩ := marked_of_reaches hreach hsound cn
      (brdoLands d.toNat st.toNat (brdoWide (bkNat s1 (obj + 6) 1)) 0 (bkNat (bkOr (bankTouch s1 obj 16) (obj + 7) 0x20) (obj + 7) 1))
      (brdoOwed d.toNat st.toNat (brdoWide (bkNat s1 (obj + 6) 1)))
    refine ⟨_, _, completes_brdoRd_bad hissue hat hfits hpair hbad, hissued, startedOp_reader .., fun _ => ⟨rfl, honly, ?_⟩, nofun, nofun⟩
    exact (brdoLands_eq ..).trans (by rw [hst])

/-- Settles O30: a contribution writes a slot, its bit and the count, and the last one the sum; the other operations are reads of the object or a
new head, on a state that the operation's issue and its touch of the object leave as it was. -/
theorem bankReductions : Obligations.BankReductions := ⟨reductionInit, reductionContributions, reductionAdds, reductionReads⟩

end Sys2Proof.Machine

/-! SUPPORT. Retention of bank units (R189, R199). -/

namespace Sys2Proof.Machine

theorem mem_nsetInsert_self (m : List Nat) (a : Nat) : a ∈ nsetInsert m a := by
  induction m with
  | nil => exact List.mem_singleton_self a
  | cons k t ih =>
    rw [nsetInsert]
    split_ifs with hk hlt
    · exact hk ▸ List.mem_cons_self
    · exact List.mem_cons_self
    · exact List.mem_cons_of_mem _ ih

/-- A wake takes the unit out of retention, and leaves every other in it. -/
theorem mem_retained_wakeUnit {s : State} (h : s.banks.errors = []) (u x : Nat) :
    x ∈ (wakeUnit s u).banks.retained ↔ x ∈ s.banks.retained ∧ x ≠ u := by
  unfold wakeUnit unitErrors
  simp only [h, List.filter_nil, List.foldl_nil]
  have herased : x ∈ nsetErase s.banks.retained u ↔ x ∈ s.banks.retained ∧ x ≠ u := by simp [nsetErase]
  by_cases hin : s.banks.retained.contains u = true
  · rw [if_neg (by simpa using hin)]
    split
    · exact herased
    · exact herased
  · have hnot : u ∉ s.banks.retained := by simpa using hin
    rw [if_pos (by simpa using hin)]
    exact ⟨fun hx => ⟨hx, fun heq => hnot (heq ▸ hx)⟩, And.left⟩

/-- A die's registers but the two of its retained banks. -/
theorem mmGet_wakeUnit {s : State} (h : s.banks.errors = []) (u die : Nat) : mmGet (wakeUnit s u) (bkBlock die) = mmGet s (bkBlock die) := by
  unfold wakeUnit unitErrors
  simp only [h, List.filter_nil, List.foldl_nil]
  have hregister : bkBlock die ≠ bkBlock (unitDie u) + (if u % 128 < 64 then 8 else 0x10) := by
    unfold bkBlock
    split <;> omega
  split
  · rfl
  · split
    · rfl
    · exact mmGet_mmPutField_ne _ _ _ _ hregister

/-- Some units wake. -/
theorem wakeUnits_facts (us : List Nat) {s : State} (h : s.banks.errors = []) (die : Nat) :
    Reaches s (us.foldl wakeUnit s) ∧ (∀ x, x ∈ (us.foldl wakeUnit s).banks.retained ↔ x ∈ s.banks.retained ∧ x ∉ us) ∧
      mmGet (us.foldl wakeUnit s) (bkBlock die) = mmGet s (bkBlock die) := by
  induction us generalizing s with
  | nil => exact ⟨.refl s, fun x => by simp, rfl⟩
  | cons u us ih =>
    have hwake := Reaches.wakeUnit h u
    obtain ⟨hreach, hretained, hregister⟩ := ih (hwake.errors.trans h)
    refine ⟨hwake.trans hreach, fun x => ?_, hregister.trans (mmGet_wakeUnit h u die)⟩
    rw [List.foldl_cons, hretained, mem_retained_wakeUnit h, List.mem_cons, not_or, and_assoc]

/-- The units of `base`, where a field of the die's register is cleared. -/
def wakeIf (off : Prop) [Decidable off] (base n : Nat) (s : State) : State :=
  if off then ((List.range n).map fun k => base + k).foldl wakeUnit s else s

theorem wakeIf_facts (off : Prop) [Decidable off] (base n : Nat) {s : State} (h : s.banks.errors = []) (die : Nat) :
    Reaches s (wakeIf off base n s) ∧ (∀ x, x ∈ (wakeIf off base n s).banks.retained → x ∈ s.banks.retained) ∧
      (off → ∀ k, k < n → base + k ∉ (wakeIf off base n s).banks.retained) ∧
      mmGet (wakeIf off base n s) (bkBlock die) = mmGet s (bkBlock die) := by
  unfold wakeIf
  split
  · obtain ⟨hreach, hretained, hregister⟩ := wakeUnits_facts ((List.range n).map fun k => base + k) h die
    refine ⟨hreach, fun x hx => ((hretained x).1 hx).1, fun _ k hk hx => ?_, hregister⟩
    exact ((hretained _).1 hx).2 (List.mem_map.2 ⟨k, List.mem_range.2 hk, rfl⟩)
  · next hoff => exact ⟨.refl s, fun _ hx => hx, fun h => absurd h hoff, rfl⟩

theorem exec_bkret {s : State} (h : s.contained = false) (die : Nat) :
    exec (.bkret die) s = .next (wakeIf (mmField (wakeIf (mmField s (bkBlock die) 0 0 = 0) (128 * die) 128 s) (bkBlock die) 1 1 = 0)
      (1024 + 384 * die) 384 (wakeIf (mmField s (bkBlock die) 0 0 = 0) (128 * die) 128 s)) := by
  have hbody : exec (.bkret die) s = execBkret die s := rfl
  rw [hbody, execBkret, event, if_neg (by simp [h])]
  simp only [wakeIf, List.foldl_map]

theorem bankRetention : Claims.BankRetention := by
  refine ⟨fun s u hmay herrors => ?_, fun s u herrors hin => ?_, fun s die _ herrors hcontained => ?_⟩
  · refine ⟨_, rfl, ?_⟩
    simp only [hmay, unitErrors, herrors, List.filter_nil, List.foldl_nil, Bool.not_true, Bool.false_eq_true, if_false]
    split
    · exact ⟨rfl, mem_nsetInsert_self ..⟩
    · exact ⟨rfl, mem_nsetInsert_self ..⟩
  · have hwake := Reaches.wakeUnit herrors u
    exact ⟨_, rfl, hwake.mem, fun hx => ((mem_retained_wakeUnit herrors u u).1 hx).2 rfl⟩
  · obtain ⟨hreach, -, hbanks, hregister⟩ := wakeIf_facts (mmField s (bkBlock die) 0 0 = 0) (128 * die) 128 herrors die
    obtain ⟨hreach', hfewer, hquarters, -⟩ := wakeIf_facts
      (mmField (wakeIf (mmField s (bkBlock die) 0 0 = 0) (128 * die) 128 s) (bkBlock die) 1 1 = 0) (1024 + 384 * die) 384
      (hreach.errors.trans herrors) die
    refine ⟨_, exec_bkret hcontained die, (hreach.trans hreach').mem, fun hoff b hb => ?_, fun hoff q hq => ?_⟩
    · simpa using fun hx => hbanks hoff b hb (hfewer _ hx)
    · simpa using hquarters (by rwa [mmField, hregister]) q hq

end Sys2Proof.Machine

/-! SUPPORT. Requests that waited for a place at their bank unit (R186, R188, R196, R197). -/

namespace Sys2Proof.Machine

/-! ### Finding an operation -/

/-- The gangs with operations, resident or saved. -/
def allGangs (s : State) : List Gang := gangsOf s ++ s.teams.flatMap fun t => t.savedGangs

theorem findOp_eq (s : State) (gang op : Nat) : findOp s gang op =
    ((allGangs s).find? fun g => g.id == gang).bind fun g => (g.ops.find? fun o => o.id == op).map fun o => (g, o) := by
  unfold findOp allGangs
  cases (gangsOf s ++ s.teams.flatMap fun t => t.savedGangs).find? (fun g => g.id == gang) <;> rfl

theorem allGangs_mapGangs (s : State) (f : Gang → Gang) : allGangs (mapGangs s f) = (allGangs s).map f := by
  have hsaved : (mapGangs s f).teams.flatMap (fun t => t.savedGangs) = (s.teams.flatMap fun t => t.savedGangs).map f := by
    simp [mapGangs, List.flatMap_map, List.map_flatMap]
  rw [allGangs, allGangs, gangsOf_mapGangs, hsaved, List.map_append]

theorem findOp_congr {s t : State} (h : allGangs t = allGangs s) (gang op : Nat) : findOp t gang op = findOp s gang op := by
  rw [findOp_eq, findOp_eq, h]

/-- An operation is found again after the operations of each gang have changed but for their identifiers. -/
theorem findOp_mapGangs {s : State} {gang op : Nat} {g : Gang} {o : Op} (h : findOp s gang op = some (g, o)) {F : Gang → Gang} {f : Gang → Op → Op}
    (hid : ∀ g, (F g).id = g.id) (hops : ∀ g, (F g).ops = g.ops.map (f g)) (hkeep : ∀ g o, (f g o).id = o.id) :
    findOp (mapGangs s F) gang op = some (F g, f g o) := by
  rw [findOp_eq] at h ⊢
  obtain ⟨x, hx, hfound⟩ := Option.bind_eq_some_iff.1 h
  obtain ⟨y, hy, heq⟩ := Option.map_eq_some_iff.1 hfound
  cases heq
  have hgang : (fun g : Gang => g.id == gang) ∘ F = fun g => g.id == gang := funext fun g => by simp [hid]
  have hop : (fun o : Op => o.id == op) ∘ f g = fun o => o.id == op := funext fun o => by simp [hkeep]
  rw [allGangs_mapGangs, List.find?_map, hgang, hx]
  simp only [Option.map_some, Option.bind_some, hops, List.find?_map, hop, hy]

theorem id_of_findOp {s : State} {gang op : Nat} {g : Gang} {o : Op} (h : findOp s gang op = some (g, o)) : g.id = gang ∧ o.id = op := by
  rw [findOp_eq] at h
  obtain ⟨x, hx, hfound⟩ := Option.bind_eq_some_iff.1 h
  obtain ⟨y, hy, heq⟩ := Option.map_eq_some_iff.1 hfound
  cases heq
  have hgang := List.find?_some hx
  have hop := List.find?_some hy
  exact ⟨by simpa using hgang, by simpa using hop⟩

/-- A gang with one operation changed. -/
def changeOp (gang op : Nat) (f : Op → Op) (g : Gang) : Gang :=
  { g with ops := g.ops.map fun o => if g.id = gang ∧ o.id = op then f o else o }

theorem updateOp_eq (s : State) (gang op : Nat) (f : Op → Op) : updateOp s gang op f = mapGangs s (changeOp gang op f) := by
  unfold updateOp onGangId
  congr 1
  funext g
  unfold changeOp
  split
  · next hg => simp [hg]
  · next hg => simp [hg]

/-- An operation changed. -/
theorem findOp_updateOp {s : State} {gang op : Nat} {g : Gang} {o : Op} (h : findOp s gang op = some (g, o)) {f : Op → Op}
    (hkeep : ∀ o, (f o).id = o.id) : ∃ g', findOp (updateOp s gang op f) gang op = some (g', f o) := by
  have hfound := findOp_mapGangs h (F := changeOp gang op f) (f := fun g o => if g.id = gang ∧ o.id = op then f o else o) (fun _ => rfl)
    (fun _ => rfl) fun g o => by
      split
      · exact hkeep o
      · rfl
  have hchanged : (if g.id = gang ∧ o.id = op then f o else o) = f o := if_pos (id_of_findOp h)
  rw [hchanged, ← updateOp_eq] at hfound
  exact ⟨_, hfound⟩

theorem updateOp_mem (s : State) (gang op : Nat) (f : Op → Op) : (updateOp s gang op f).mem = s.mem := rfl

theorem updateOp_banks (s : State) (gang op : Nat) (f : Op → Op) : (updateOp s gang op f).banks = s.banks := rfl

theorem banksSound_updateOp {s : State} (h : Claims.banksSound s) (gang op : Nat) (f : Op → Op) : Claims.banksSound (updateOp s gang op f) := h

/-- The check of a barrier finds the operation again. -/
theorem findOp_barxCheck {s : State} {gang op : Nat} {g : Gang} {o : Op} (h : findOp s gang op = some (g, o)) (obj : Nat) :
    ∃ g', findOp (barxCheck s obj) gang op = some (g', barxChecked s obj o) := by
  by_cases hcomplete : barxComplete s obj
  · have hissued : ∀ t : State, findOp t gang op = some (g, o) → ∃ g', findOp (phaseIssued t obj) gang op = some (g', o) := by
      intro t ht
      unfold phaseIssued
      split
      · refine ⟨_, findOp_mapGangs ht (f := fun _ o => o) ?_ ?_ fun _ _ => rfl⟩
        · intro g
          split <;> rfl
        · intro g
          split <;> simp
      · exact ⟨g, ht⟩
    obtain ⟨g', hg'⟩ := hissued (bkPut s (obj + 8) 4 (bkNat s (obj + 8) 4 + bkNat s (obj + 4) 2 / bkNat s (obj + 6) 2)) h
    have hpassed : findOp (barxPassed s obj) gang op = some (g', o) := hg'
    rw [barxCheck_of_complete hcomplete, barxRelease_eq, barxChecked, if_pos hcomplete]
    refine ⟨_, findOp_mapGangs hpassed (f := fun _ => barxFinished (barxPassed s obj) obj false) (fun _ => rfl) (fun _ => rfl) fun _ o => ?_⟩
    obtain ⟨done, time, heq⟩ := barxFinished_eq (barxPassed s obj) obj false o
    rw [heq]
  · rw [barxCheck_of_not_complete hcomplete, barxChecked, if_neg hcomplete]
    exact ⟨g, h⟩

/-- What the check leaves of the banks. -/
theorem barxCheck_banks (s : State) (obj : Nat) : (barxCheck s obj).banks = s.banks := by
  have hissued : ∀ t : State, (phaseIssued t obj).banks = t.banks := by
    intro t
    unfold phaseIssued
    split <;> rfl
  by_cases hcomplete : barxComplete s obj
  · rw [barxCheck_of_complete hcomplete]
    exact hissued _
  · rw [barxCheck_of_not_complete hcomplete]

theorem findOp_barxArrive {s : State} {gang op : Nat} {g : Gang} {o : Op} (h : findOp s gang op = some (g, o)) (obj : Nat) (d : Int) :
    ∃ g' o', findOp (barxArrive s obj d) gang op = some (g', o') ∧ o'.kind = o.kind ∧ o'.lands = o.lands := by
  have hcounted : findOp (barxCounted s obj d) gang op = some (g, o) := by
    rw [barxCounted_eq]
    exact h
  obtain ⟨g', hg'⟩ := findOp_barxCheck hcounted obj
  obtain ⟨done, time, heq⟩ := barxChecked_eq (barxCounted s obj d) obj o
  refine ⟨g', _, hg', ?_, ?_⟩
  · rw [heq]
  · rw [heq]

theorem barxArrive_banks (s : State) (obj : Nat) (d : Int) : (barxArrive s obj d).banks = s.banks := by
  rw [barxArrive_eq, barxCheck_banks, barxCounted_eq]

/-! ### A request reaches its object after its wait (R332, R333) -/

/-- The access of a request at its object, before its own time is set. -/
def heldTouch (s : State) (g : Gang) (o : Op) (obj : Nat) : State :=
  stampWrite (objAccess s g.launch obj 16) (armNoOf g o.slot) (writeAfter s o.time (armNoOf g o.slot) (bankLine obj)) (bankLine obj)

/-- A request at its object, at the time of its access. -/
def heldState (s : State) (g : Gang) (o : Op) (obj : Nat) : State :=
  updateOp (heldTouch s g o obj) g.id o.id fun p => { p with time := writeAfter s o.time (armNoOf g o.slot) (bankLine obj) }

theorem heldAccess_ok {s : State} {g : Gang} {o : Op} {obj : Nat} (h : writeAfter s o.time (armNoOf g o.slot) (bankLine obj) ≤ timeBound s) :
    heldAccess s g o obj = some (heldState s g o obj) := if_neg (Nat.not_lt.2 h)

theorem reaches_heldTouch {s : State} (h : Claims.banksSound s) (g : Gang) (o : Op) (obj : Nat) : Reaches s (heldTouch s g o obj) :=
  (Reaches.objAccess h ..).trans (.stampWrite ..)

theorem allGangs_heldTouch {s : State} (h : Claims.banksSound s) (g : Gang) (o : Op) (obj : Nat) : allGangs (heldTouch s g o obj) = allGangs s := by
  have hreach := reaches_heldTouch h g o obj
  have hgang : (heldTouch s g o obj).gang = s.gang := by
    have haccess : (objAccess s g.launch obj 16).gang = s.gang := by
      rw [Reaches.objAccess_eq h]
      split
      · rfl
      · exact ((SameCore.refl s).touchUnit ..).gang
    exact haccess
  unfold allGangs gangsOf
  rw [hreach.live, hreach.others, hreach.teams, hgang]

section
variable {s : State} (hsound : Claims.banksSound s) {gang op : Nat} {g : Gang} {o : Op} (hfound : findOp s gang op = some (g, o)) (obj : Nat)
include hsound hfound

theorem findOp_heldState : ∃ g', findOp (heldState s g o obj) gang op =
    some (g', { o with time := writeAfter s o.time (armNoOf g o.slot) (bankLine obj) }) := by
  obtain ⟨rfl, rfl⟩ := id_of_findOp hfound
  rw [← findOp_congr (allGangs_heldTouch hsound g o obj)] at hfound
  exact findOp_updateOp hfound (f := fun p => { p with time := writeAfter s o.time (armNoOf g o.slot) (bankLine obj) }) fun _ => rfl

end

/-! ### The places in use (R188) -/

theorem teamById_mapGangs (s : State) (f : Gang → Gang) (id : Nat) :
    teamById (mapGangs s f) id = (teamById s id).map fun t => { t with savedGangs := t.savedGangs.map f } := by
  simp only [teamById, mapGangs, List.find?_map, Function.comp_def]

/-- The gangs of a team that wait at its barriers in a unit. -/
def barPlaces (s : State) (u : Nat) (g : Gang) : Nat :=
  match teamById s g.team with
  | none => 0
  | some t => ((List.range 16).filter (fun b => teamBarObj t b / 65536 == u &&
      (armsOf g).any (fun a => a.barWaits.any (fun w => w.1 == b && (match w.2.2 with
        | some ph => !phasePassed s (teamBarObj t b) ph
        | none => false))))).length

theorem placesUsed_eq (s : State) (u : Nat) :
    placesUsed s u = (gangsOf s).foldl (fun n g => n + (g.ops.filter (waitsAt s.banks.waits u)).length + barPlaces s u g) 0 := rfl

/-- Places stay in use where operations change but for what makes them waiters. -/
theorem placesUsed_mapGangs (s : State) (u : Nat) {F : Gang → Gang} {f : Gang → Op → Op} (hteam : ∀ g, (F g).team = g.team)
    (harms : ∀ g, armsOf (F g) = armsOf g) (hops : ∀ g, (F g).ops = g.ops.map (f g))
    (hwaits : ∀ ws g o, waitsAt ws u (f g o) = waitsAt ws u o) : placesUsed (mapGangs s F) u = placesUsed s u := by
  have hpassed : phasePassed (mapGangs s F) = phasePassed s := rfl
  have hbars : ∀ g, barPlaces (mapGangs s F) u (F g) = barPlaces s u g := by
    intro g
    unfold barPlaces
    rw [hteam, teamById_mapGangs, harms, hpassed]
    cases teamById s g.team <;> rfl
  have hwaiters : ∀ g, ((F g).ops.filter (waitsAt s.banks.waits u)).length = (g.ops.filter (waitsAt s.banks.waits u)).length := by
    intro g
    have hsame : waitsAt s.banks.waits u ∘ f g = waitsAt s.banks.waits u := funext fun o => hwaits s.banks.waits g o
    rw [hops, List.filter_map, List.length_map, hsame]
  rw [placesUsed_eq, placesUsed_eq, gangsOf_mapGangs, List.foldl_map]
  simp only [hbars]
  exact congrArg (fun step => (gangsOf s).foldl step 0) (funext₂ fun n g => by rw [← hwaiters g]; rfl)

/-- A place does not depend on the time of the operation that holds it. -/
theorem placesUsed_heldState {s : State} (h : Claims.banksSound s) (g : Gang) (o : Op) (obj u : Nat) :
    placesUsed (heldState s g o obj) u = placesUsed s u := by
  rw [← (reaches_heldTouch h g o obj).placesUsed, heldState]
  generalize heldTouch s g o obj = t
  generalize writeAfter s o.time (armNoOf g o.slot) (bankLine obj) = time
  rw [updateOp_eq]
  refine placesUsed_mapGangs t u (fun _ => rfl) (fun _ => rfl) (fun _ => rfl) fun ws x p => ?_
  split <;> rfl

theorem heldState_mem {s : State} (h : Claims.banksSound s) (g : Gang) (o : Op) (obj : Nat) : (heldState s g o obj).mem = s.mem :=
  (updateOp_mem ..).trans (reaches_heldTouch h g o obj).mem

theorem heldState_waits {s : State} (h : Claims.banksSound s) (g : Gang) (o : Op) (obj : Nat) :
    (heldState s g o obj).banks.waits = s.banks.waits :=
  (congrArg Banks.waits (updateOp_banks ..)).trans (reaches_heldTouch h g o obj).waits

theorem banksSound_heldState {s : State} (h : Claims.banksSound s) (g : Gang) (o : Op) (obj : Nat) : Claims.banksSound (heldState s g o obj) :=
  banksSound_updateOp (banksSound_of_reaches (reaches_heldTouch h g o obj) h) ..

theorem bkNat_heldState {s : State} (h : Claims.banksSound s) (g : Gang) (o : Op) (obj a n : Nat) :
    bkNat (heldState s g o obj) a n = bkNat s a n := bkNat_congr (congrArg Mem.bank (heldState_mem h g o obj)) a n

/-! ### WAITER_PLACE_FREED -/

/-- A request is performed and leaves the line. -/
def leftLine (s : State) (n : Nat) : State := { s with banks := { s.banks with waits := s.banks.waits.filter fun x => decide (x.id ≠ n) } }

/-- The operation of a request that joins a phase. -/
def joinedOp (obj phase d : Nat) (o : Op) : Op := { o with kind := .barx obj phase, lands := [⟨false, d, 0, BitVec.ofNat 32 phase⟩] }

/-- A waiting arrival that finds room. -/
theorem exec_waitingArrival {s : State} {n : Nat} {w : BankWait} {g : Gang} {o : Op} {obj d st : Nat} {bytes : Int} {wide : Bool}
    (hwait : s.banks.waits.find? (fun x => x.id == n) = some w) (hfound : findOp s w.gang w.op = some (g, o))
    (hkind : o.kind = .held false obj bytes d st wide) (hroom : barxRoom s obj bytes = true)
    (htime : writeAfter s o.time (armNoOf g o.slot) (bankLine obj) ≤ timeBound s) :
    exec (.waiterPlaceFreed n) s = .next (leftLine (barxArrive (updateOp (heldState s g o obj) w.gang w.op
      (joinedOp obj (barxJoin (heldState s g o obj) obj) d)) obj bytes) n) := by
  have hbody : exec (.waiterPlaceFreed n) s = execWaiterPlaceFreed n s := rfl
  rw [hbody, execWaiterPlaceFreed, event, hwait]
  dsimp only
  rw [hfound]
  dsimp only
  rw [hkind]
  dsimp only
  rw [hroom, heldAccess_ok htime]
  rfl

theorem findOp_leftLine (s : State) (n gang op : Nat) : findOp (leftLine s n) gang op = findOp s gang op := rfl

theorem waits_leftLine {s t : State} (h : t.banks.waits = s.banks.waits) (n : Nat) :
    (leftLine t n).banks.waits = s.banks.waits.filter fun x => decide (x.id ≠ n) := by rw [leftLine, h]

theorem onlyObject_leftLine {s t : State} {obj m : Nat} (h : Claims.onlyObject s t obj m) (n : Nat) :
    Claims.onlyObject s (leftLine t n) obj m := h

theorem phases_leftLine {t : State} {obj pend arrived expect phase : Nat} (h : Claims.phases t obj pend arrived expect phase) (n : Nat) :
    Claims.phases (leftLine t n) obj pend arrived expect phase := h

/-- What a waiting arrival makes of its object and of its operation. -/
theorem arrival_of_found {s u : State} (hmem : u.mem = s.mem) (hwaits : u.banks.waits = s.banks.waits) (hsound : Claims.banksSound u)
    {gang op : Nat} {g : Gang} {o : Op} (hfound : findOp u gang op = some (g, o)) {obj : Nat} (bytes : Int)
    (harrived : bkNat s (obj + 4) 2 < 65535) (n : Nat) :
    ∃ g' o', Claims.onlyObject s (leftLine (barxArrive u obj bytes) n) obj 16 ∧
      (leftLine (barxArrive u obj bytes) n).banks.waits = s.banks.waits.filter (fun x => decide (x.id ≠ n)) ∧
      findOp (leftLine (barxArrive u obj bytes) n) gang op = some (g', o') ∧ o'.kind = o.kind ∧ o'.lands = o.lands ∧
      Claims.phases (leftLine (barxArrive u obj bytes) n) obj (((bkNat s obj 4 : Nat) + bytes) % 2 ^ 32).toNat (bkNat s (obj + 4) 2 + 1)
        (bkNat s (obj + 6) 2) (bkNat s (obj + 8) 4) := by
  have hfields : ∀ a m, bkNat u a m = bkNat s a m := bkNat_congr (congrArg Mem.bank hmem)
  obtain ⟨g', o', hfound', hkind, hlands⟩ := findOp_barxArrive hfound obj bytes
  have hphases := phases_barxArrive (s := u) (obj := obj) bytes (by rwa [hfields])
  simp only [hfields] at hphases
  rw [findOp_leftLine]
  exact ⟨g', o', onlyObject_leftLine (onlyObject_trans (onlyObject_of_mem_eq hmem ..) (onlyObject_barxArrive hsound obj bytes)) n,
    waits_leftLine ((congrArg Banks.waits (barxArrive_banks ..)).trans hwaits) n, hfound', hkind, hlands, phases_leftLine hphases n⟩

theorem waitingArrivals : Claims.WaitingArrivals := by
  intro s n w g o obj bytes d st wide hwait hfound _ hkind hsound harrived hplaces htime
  have hjoined : barxJoin (heldState s g o obj) obj = barxJoin s obj := by simp only [barxJoin, bkNat_heldState hsound]
  obtain ⟨gheld, hheld⟩ := findOp_heldState hsound hfound obj
  obtain ⟨gjoined, hjoins⟩ := findOp_updateOp hheld (f := joinedOp obj (barxJoin (heldState s g o obj) obj) d) fun _ => rfl
  obtain ⟨g', o', honly, hwaits, hfound', hkind', hlands, hphases⟩ :=
    arrival_of_found ((updateOp_mem ..).trans (heldState_mem hsound g o obj))
      ((congrArg Banks.waits (updateOp_banks ..)).trans (heldState_waits hsound g o obj))
      (banksSound_updateOp (banksSound_heldState hsound g o obj) ..) hjoins bytes harrived n
  refine ⟨_, g', o', exec_waitingArrival hwait hfound hkind (barxRoom_of bytes harrived hplaces) htime, honly, hwaits, hfound',
    hkind'.trans (congrArg (OpKind.barx obj) hjoined), hlands.trans ?_, hphases⟩
  rw [hjoined]
  rfl

/-! ### Waiting readers (R196) -/

theorem waits_updated {s t : State} (h : t.banks.waits = s.banks.waits) (gang op : Nat) (f : Op → Op) (n : Nat) :
    (leftLine (updateOp t gang op f) n).banks.waits = s.banks.waits.filter fun x => decide (x.id ≠ n) := waits_leftLine h n

/-- The operation of a reader that has its answer. -/
def answeredOp (lands : List RegWrite) (o : Op) : Op := { o with kind := .mem, done := true, lands := lands }

/-- A waiting reader past its access. -/
def readerOutcome (s u : State) (n : Nat) (w : BankWait) (obj d st : Nat) (wide : Bool) : State :=
  if bkNat u (obj + 7) 1 % 2 = 1 ∨ brdoBad u obj then
    let t := if brdoBad u obj then bkOr u (obj + 7) 0x20 else u
    let lands := brdoLands d st wide (if brdoBad t obj then 0 else brdoResult t obj) (bkNat t (obj + 7) 1)
    leftLine (updateOp t w.gang w.op (answeredOp lands)) n
  else if placesUsed u w.unit < 64 then leftLine (updateOp u w.gang w.op fun o => { o with kind := .brdo obj d st wide }) n
  else s

theorem exec_waitingReader {s : State} {n : Nat} {w : BankWait} {g : Gang} {o : Op} {obj d st : Nat} {bytes : Int} {wide : Bool}
    (hwait : s.banks.waits.find? (fun x => x.id == n) = some w) (hfound : findOp s w.gang w.op = some (g, o))
    (hkind : o.kind = .held true obj bytes d st wide) (htime : writeAfter s o.time (armNoOf g o.slot) (bankLine obj) ≤ timeBound s) :
    exec (.waiterPlaceFreed n) s = .next (readerOutcome s (heldState s g o obj) n w obj d st wide) := by
  have hbody : exec (.waiterPlaceFreed n) s = execWaiterPlaceFreed n s := rfl
  rw [hbody, execWaiterPlaceFreed, event, hwait]
  dsimp only
  rw [hfound]
  dsimp only
  rw [hkind]
  dsimp only
  rw [heldAccess_ok htime]
  rfl

theorem waitingReaders : Claims.WaitingReaders := by
  intro s n w g o obj bytes d st wide hwait hfound _ hkind hsound htime
  have hbad : brdoBad (heldState s g o obj) obj = brdoBad s obj := by simp only [brdoBad, bkNat_heldState hsound]
  have hsound' := banksSound_heldState hsound g o obj
  have hmem := heldState_mem hsound g o obj
  have hwaits := heldState_waits hsound g o obj
  have hplaces := placesUsed_heldState hsound g o obj w.unit
  have hst := bkNat_heldState hsound g o obj (obj + 7) 1
  have hresult := bkNat_heldState hsound g o obj (obj + 8) 8
  obtain ⟨gheld, hheld⟩ := findOp_heldState hsound hfound obj
  refine ⟨_, exec_waitingReader hwait hfound hkind htime, ?_⟩
  generalize heldState s g o obj = u at *
  refine ⟨fun heven hgood hroom => ?_, fun hodd hgood => ?_, fun hmal => ?_⟩
  · have hout : readerOutcome s u n w obj d st wide = leftLine (updateOp u w.gang w.op fun o => { o with kind := .brdo obj d st wide }) n := by
      rw [readerOutcome, hst, hbad, hgood, hplaces, if_neg (by simp [heven]), if_pos hroom]
    obtain ⟨g', hfound'⟩ := findOp_updateOp hheld (f := fun p => { p with kind := .brdo obj d st wide }) fun _ => rfl
    rw [hout]
    exact ⟨hmem, waits_updated hwaits .., g', _, hfound', rfl, rfl, rfl⟩
  · have hout : readerOutcome s u n w obj d st wide =
        leftLine (updateOp u w.gang w.op (answeredOp (Claims.readerGets d st wide (bkNat s (obj + 8) 8) (bkNat s (obj + 7) 1)))) n := by
      simp only [readerOutcome, hst, hodd, true_or, if_true, hbad, hgood, Bool.false_eq_true, if_false, brdoResult_eq hsound', hresult, brdoLands_eq]
    obtain ⟨g', hfound'⟩ := findOp_updateOp hheld
      (f := answeredOp (Claims.readerGets d st wide (bkNat s (obj + 8) 8) (bkNat s (obj + 7) 1))) fun _ => rfl
    rw [hout]
    exact ⟨hmem, waits_updated hwaits .., g', _, hfound', rfl, rfl⟩
  · have hmarked : brdoBad (bkOr u (obj + 7) 0x20) obj = true := by
      rw [← hmal, ← hbad]
      simp only [brdoBad, bkNat_bkOr_ne u (a := obj + 7) (b := obj + 6) (m := 1) 0x20 (.inl (by omega)),
        bkNat_bkOr_ne u (a := obj + 7) (b := obj) (m := 4) 0x20 (.inl (by omega))]
    have hlt := Nat.or_lt_two_pow (n := 8) (bkNat_lt s (obj + 7) 1) (show 0x20 < 2 ^ 8 by decide)
    have hout : readerOutcome s u n w obj d st wide = leftLine (updateOp (bkOr u (obj + 7) 0x20) w.gang w.op
        (answeredOp (Claims.readerGets d st wide 0 (bkNat s (obj + 7) 1 ||| 0x20)))) n := by
      simp only [readerOutcome, hbad, hmal, or_true, if_true, hmarked, bkNat_bkOr, hst, Nat.mod_eq_of_lt hlt, brdoLands_eq]
    obtain ⟨g', hfound'⟩ := findOp_updateOp (s := bkOr u (obj + 7) 0x20) hheld
      (f := answeredOp (Claims.readerGets d st wide 0 (bkNat s (obj + 7) 1 ||| 0x20))) fun _ => rfl
    have honly := onlyObject_trans (onlyObject_of_mem_eq hmem (obj + 7) 1)
      (onlyObject_bkPut (a := obj + 7) (m := 1) hsound' (bkNat u (obj + 7) 1 ||| 0x20) le_rfl le_rfl)
    rw [hout]
    exact ⟨honly, waits_updated (t := bkOr u (obj + 7) 0x20) hwaits .., g', _, hfound', rfl, rfl⟩

/-- Settles O31: a request that leaves the line goes through the same operation on its object as one that finds room at its issue, and a
unit without errors wakes or sleeps without a change of memory. -/
theorem bankEvents : Obligations.BankEvents := ⟨waitingArrivals, waitingReaders, bankRetention⟩

end Sys2Proof.Machine

/-! SUPPORT. A hint whose prefetch loses a byte (R60, R207). -/

namespace Sys2Proof.Machine

/-- A dirty line behind port 1, in the set that the line at 0x7000 enters (R156). -/
def portOneDirty : JLine :=
  { strayLine with home := 6, key := .line (portOneByte + 0x7000), pa := portOneByte + 0x7000, dirty := 1, saved := 1 }

/-- A hint for the page at 0x1000, in context 0. -/
def restingHint : FootHint := { die := 0, ctx := 0, sup := true, area := none, first := 0x1000, last := 0x1000 }

/-- `strayHome` with tables whose page at 0x1000 lies in frame 7, a 1 in the first byte of `portOneDirty`, newer than what was last written
back, and `restingHint`. All ways but one of the slice at home 6 are held for tensor keys. -/
def strayHint : State :=
  { strayHome with
    mem := { strayHome.mem with main := cellsWrite (portOneTables restingLeaf) (portOneByte + 0x7000) [1] }
    mmio := [(jgBlock 6, 15), (cxlpStat 1, 1)]
    caches := { strayHome.caches with jigsaw := [strayLine, portOneDirty] }
    hints := [restingHint] }

theorem strayHint_sound : Claims.sound strayHint := by
  have hlines : (strayLine.errs = [] ∧ unbacked strayHint strayLine.pa = false) ∧
      portOneDirty.errs = [] ∧ unbacked strayHint portOneDirty.pa = false := by decide
  exact ⟨List.forall_mem_cons.2 ⟨hlines.1, List.forall_mem_singleton.2 hlines.2⟩, (fun _ h => nomatch h), rfl, rfl, rfl, rfl, rfl, rfl, rfl,
    rfl, (fun _ h => nomatch h)⟩

theorem strayHint_byte : smapGet 0 strayHint.mem.main (portOneByte + 0x7000) = 1 := by decide +kernel

/-- The walk's first read counts its hit, which takes the port's link down; the line that is prefetched drives `portOneDirty` out, whose write
is discarded, so that its byte is again as it was last written back (R60). -/
theorem strayHint_loses_byte : ∃ t, exec (.hintServed 0) strayHint = .next t ∧ smapGet 0 t.mem.main (portOneByte + 0x7000) = 0 :=
  ⟨_, rfl, by decide +kernel⟩

/-- Refutes O41, by its clause on hints (R207): `Claims.sound` leaves the homes of the cached lines free, and under the home of `strayLine`,
which no fill gives a line, the prefetch's own hit takes down the link behind a dirty line, which then leaves the Jigsaw and changes memory. -/
theorem not_jobProgress : ¬ Obligations.JobProgress := by
  rintro ⟨⟨-, -, hhint⟩, -⟩
  obtain ⟨t, ht, -, hmain, -⟩ := hhint strayHint 0 restingHint rfl (by decide) rfl strayHint_sound
  obtain ⟨u, hu, hlost⟩ := strayHint_loses_byte
  obtain rfl : t = u := Host.Outcome.next.inj (ht.symm.trans hu)
  rw [hmain, strayHint_byte] at hlost
  exact absurd hlost (by decide)

end Sys2Proof.Machine

/-! SUPPORT. Opening and closing element queues (R219, R220, R222, R223). -/

namespace Sys2Proof.Machine

/-! ### The range of a stream (R220) -/

/-- The lowest and the highest index are sums of their own. -/
theorem foldl_range (ls : List (Nat × Int)) (lo hi : Int) :
    ls.foldl (fun r l =>
      let x := ((l.1 : Int) - 1) * l.2
      (r.1 + Min.min 0 x, r.2 + Max.max 0 x)) (lo, hi) =
    (ls.foldl (fun x l => x + Min.min 0 (((l.1 : Int) - 1) * l.2)) lo, ls.foldl (fun x l => x + Max.max 0 (((l.1 : Int) - 1) * l.2)) hi) := by
  induction ls generalizing lo hi with
  | nil => rfl
  | cons l ls ih => exact ih _ _

theorem strmRange_eq (off : Int) (ls : List (Nat × Int)) :
    strmRange off ls = (ls.foldl (fun x l => x + Min.min 0 (((l.1 : Int) - 1) * l.2)) off,
      ls.foldl (fun x l => x + Max.max 0 (((l.1 : Int) - 1) * l.2)) off) := foldl_range ls off off

/-- A product of counts is 0 where a count is. -/
theorem foldl_counts_ne_zero (ls : List (Nat × Int)) (n : Nat) :
    (ls.foldl (fun n l => n * l.1) n != 0) = (n != 0 && !ls.any (fun l => l.1 == 0)) := by
  induction ls generalizing n with
  | nil => simp
  | cons l ls ih =>
    rw [List.foldl_cons, ih, List.any_cons]
    have hmul : (n * l.1 != 0) = (n != 0 && l.1 != 0) := by simp [bne, Bool.beq_eq_decide_eq]
    rw [hmul, Bool.and_assoc, Bool.not_or]
    rfl

theorem positions_ne_zero (ls : List (Nat × Int)) :
    (ls.foldl (fun n l => n * l.1) 1 != 0) = !ls.any (fun l => l.1 == 0) := by
  rw [foldl_counts_ne_zero]
  rfl

/-! ### The queue that opens (R219, R222) -/

theorem le_streamNo (core gslot : Nat) : 2 ^ 60 ≤ streamNo core gslot := by
  unfold streamNo
  omega

/-- The time of a unit is not the gang's. -/
theorem raiseTime_gang {s : State} {ag : Nat} (hag : 2 ^ 60 ≤ ag) (time : Nat) : (raiseTime s ag time).gang = s.gang :=
  ((SameCore.refl s).setAgentTime hag _).gang

/-- The state at which STRM starts its operation: the queue of its number is closed, and the stream's reads come after the gang's accesses. -/
def strmReady (s : State) (q : Nat) : State :=
  let u := s.onGang fun g => putStream g q Stream.closed
  raiseTime u (streamAg u) (gangTime u.gang)

theorem strmReady_gang (s : State) (q : Nat) : (strmReady s q).gang = putStream s.gang q Stream.closed := raiseTime_gang (le_streamNo ..) _

theorem strmReady_mem (s : State) (q : Nat) : (strmReady s q).mem = s.mem := raiseTime_mem ..

/-- The operation of a stream has nothing left to do. -/
theorem performed_stream (s : State) (c : CtrNo) : Claims.performed (startedOp s c .fill [] [] true) := ⟨rfl, rfl, rfl, rfl⟩

/-- What an operation that owes nothing makes of the gang's streams. -/
theorem startOp_streams (s : State) (c : CtrNo) (kind : OpKind) (lands : List RegWrite) (done : Bool) :
    (startOp s c kind lands [] done).2.2.gang.streams = s.gang.streams := by
  rw [startOp_owes_nothing]
  rfl

theorem sameFile_putStream (g : Gang) (q : Nat) (x : Stream) : SameFile g (putStream g q x) :=
  ⟨rfl, rfl, rfl, rfl, rfl, rfl, rfl, rfl, rfl, rfl, rfl⟩

/-- A queue that is put at the end of an issue. -/
theorem startOp_putStream (s : State) (q : Nat) (c : CtrNo) (x : Stream) :
    let t := (startOp (strmReady s q) c .fill [] [] true).2.2.onGang fun g => putStream g q x
    Claims.issuedOn s t c.toNat (startedOp (strmReady s q) c .fill [] [] true) ∧ t.mem = s.mem ∧
      t.gang.streams = s.gang.streams.set q x := by
  have hstart := started_startOp (strmReady s q) c .fill [] [] true
  have hstreams := startOp_streams (strmReady s q) c .fill [] true
  have hfile : SameFile s.gang (strmReady s q).gang := by
    rw [strmReady_gang]
    exact sameFile_putStream ..
  have hput : listSet (strmReady s q).gang.streams q x = s.gang.streams.set q x := by
    rw [strmReady_gang]
    exact List.set_set ..
  rw [← hput, ← hstreams]
  generalize (startOp (strmReady s q) c .fill [] [] true).2.2 = t at hstart ⊢
  exact ⟨issuedOn_of_sameFile hfile (sameFile_putStream ..) hstart.issued, (onGang_mem ..).trans (hstart.mem.trans (strmReady_mem ..)), rfl⟩

/-- STRM opens its queue (R220). -/
theorem queueOpens {q : BitVec 2} {aa : DescNo} {e : Reg} {sx : Bool} {hn : Hint} {depth : BitVec 2} {cn : CtrNo} {s s1 : State}
    (hissue : Issues (.strm q aa e sx hn depth cn) false s s1) (hroom : (outstanding s1.gang cn.toNat).length < 32767)
    (howed : owedDesc s1.gang aa.toNat = false) :
    let a := readA s1.gang aa.toNat
    let off := (readS s1.gang e.toNat).toInt
    let ls : List (Nat × Int) := (List.range (depth.toNat + 1)).map (fun k =>
      ((readS s1.gang (e.toNat + 1 + 2 * k)).toNat, (readS s1.gang (e.toNat + 2 + 2 * k)).toInt))
    let lo := ls.foldl (fun x l => x + Min.min 0 (((l.1 : Int) - 1) * l.2)) off
    let hi := ls.foldl (fun x l => x + Max.max 0 (((l.1 : Int) - 1) * l.2)) off
    let empty : Bool := ls.any (fun l => l.1 == 0)
    let out : Bool := !empty && (decide (lo < 0) || decide ((descExtent a : Int) ≤ hi))
    let first : Int := Max.max lo 0
    let last : Int := Min.min hi ((descExtent a : Int) - 1)
    let els : Span := ⟨descOvr a, elemAddr a first, if !empty && decide (first ≤ last) then (last + 1 - first).toNat * descBytes a else 0⟩
    descBytes a ≠ 0 → apKind (apCtx s1) (descOvr a) (descBase a) ≠ .bank → apKind (apCtx s1) (descOvr a) (descBase a) ≠ .stack →
    spanMeets (apCtx s1) els (2 ^ 32) (2 ^ 32 + 2 ^ 26) = false → spanMeets (apCtx s1) els (2 ^ 39) (2 ^ 40) = false →
    (out = true → descTrap a = false) →
    ∃ t p, Completes (.strm q aa e sx hn depth cn) s t ∧ Claims.issuedOn s1 t cn.toNat p ∧ Claims.performed p ∧ t.mem = s1.mem ∧
      t.gang.streams = s1.gang.streams.set q.toNat
        { isOpen := true, desc := a, off := off, levels := ls, sx := sx, hn := hn, checked := out, cursor := 0, ahead := [],
          ctr := cn.toNat, ticket := p.ticket } := by
  intro a off ls lo hi empty out first last els hes hbank hstack hnear hfar hout
  obtain ⟨hissued, hmem, hstreams⟩ := startOp_putStream s1 q.toNat cn
    { isOpen := true, desc := a, off := off, levels := ls, sx := sx, hn := hn, checked := out, cursor := 0, ahead := [],
      ctr := cn.toNat, ticket := (startedOp (strmReady s1 q.toNat) cn .fill [] [] true).ticket }
  refine ⟨_, _, issue_ok hissue (?_ : strmBody q.toNat aa e.toNat sx hn (depth.toNat + 1) cn s1 = _), hissued, performed_stream .., hmem, hstreams⟩
  have hmeets : ¬(apKind (apCtx s1) (descOvr a) (descBase a) = .bank ∨ apKind (apCtx s1) (descOvr a) (descBase a) = .stack ∨
      (spanMeets (apCtx s1) els (2 ^ 32) (2 ^ 32 + 2 ^ 26) || spanMeets (apCtx s1) els (2 ^ 39) (2 ^ 40)) = true) := by
    rw [hnear, hfar]
    simp [hbank, hstack]
  have hinside : ¬(out = true ∧ descTrap a = true) := fun ⟨ho, htrap⟩ => by simp [hout ho] at htrap
  unfold strmBody
  rw [withCtr_ok hroom, withDesc_ok howed]
  simp only [strmRange_eq, positions_ne_zero]
  exact (if_neg hes).trans ((if_neg hmeets).trans (if_neg hinside))

/-! ### The queues that close (R223) -/

theorem foldl_closed_streams (qs : List Nat) (g : Gang) :
    (qs.foldl (fun g n => putStream g n Stream.closed) g) = { g with streams := qs.foldl (fun l n => l.set n Stream.closed) g.streams } := by
  induction qs generalizing g with
  | nil => rfl
  | cons n qs ih => exact ih _

theorem length_foldl_set {α : Type} (x : α) (ns : List Nat) (l : List α) : (ns.foldl (fun l n => l.set n x) l).length = l.length := by
  induction ns generalizing l with
  | nil => rfl
  | cons n ns ih => rw [List.foldl_cons, ih, List.length_set]

theorem getElem?_foldl_set {α : Type} (x : α) (ns : List Nat) (l : List α) {m : Nat} (hm : m < l.length) :
    (ns.foldl (fun l n => l.set n x) l)[m]? = if m ∈ ns then some x else l[m]? := by
  induction ns generalizing l with
  | nil => rfl
  | cons n ns ih =>
    rw [List.foldl_cons, ih _ (by rwa [List.length_set])]
    by_cases hmem : m ∈ ns
    · simp [hmem]
    · by_cases hmn : m = n
      · subst hmn
        simp [hmem, hm]
      · simp [hmem, hmn, List.getElem?_set_ne (Ne.symm hmn)]

/-- The queues that SCLOSE names. -/
def closedQueues : StreamSel → List Nat
  | .one n => [n.toNat]
  | .all => [0, 1, 2, 3]

theorem mem_closedQueues (q : StreamSel) {n : Nat} (hn : n < 4) :
    n ∈ closedQueues q ↔ (match q with | .one k => decide (k.toNat = n) | .all => true) = true := by
  cases q with
  | one k => simp [closedQueues, eq_comm]
  | all =>
    simp [closedQueues]
    omega

/-- The state in which SCLOSE has closed its queues. -/
def queuesClosed (s : State) (q : StreamSel) : State := s.onGang fun g => (closedQueues q).foldl (fun g n => putStream g n Stream.closed) g

theorem queuesClosed_gang (s : State) (q : StreamSel) :
    (queuesClosed s q).gang = { s.gang with streams := (closedQueues q).foldl (fun l n => l.set n Stream.closed) s.gang.streams } :=
  foldl_closed_streams ..

theorem queuesClose {q : StreamSel} {cn : CtrNo} {s s1 : State} (hissue : Issues (.sclose q cn) false s s1)
    (hroom : (outstanding s1.gang cn.toNat).length < 32767) :
    ∃ t p, Completes (.sclose q cn) s t ∧ Claims.issuedOn s1 t cn.toNat p ∧ Claims.performed p ∧ t.mem = s1.mem ∧
      t.gang.streams.length = s1.gang.streams.length ∧
      ∀ n, n < 4 → n < s1.gang.streams.length → t.gang.streams[n]? =
        if (match q with | .one k => decide (k.toNat = n) | .all => true) then some Stream.closed else s1.gang.streams[n]? := by
  have hstart := started_startOp (queuesClosed s1 q) cn .fill [] [] true
  have hfile : SameFile s1.gang (queuesClosed s1 q).gang := by
    rw [queuesClosed_gang]
    exact ⟨rfl, rfl, rfl, rfl, rfl, rfl, rfl, rfl, rfl, rfl, rfl⟩
  have hstreams : (startOp (queuesClosed s1 q) cn .fill [] [] true).2.2.gang.streams =
      (closedQueues q).foldl (fun l n => l.set n Stream.closed) s1.gang.streams := by
    rw [startOp_streams, queuesClosed_gang]
  refine ⟨_, _, issue_ok hissue ((withCtr_ok hroom _).trans ?_), issuedOn_of_sameFile hfile (.refl _) hstart.issued, performed_stream ..,
    hstart.mem, ?_, fun n hn hlen => ?_⟩
  · cases q <;> rfl
  · rw [hstreams, length_foldl_set]
  · rw [hstreams, getElem?_foldl_set _ _ _ hlen]
    simp only [mem_closedQueues q hn]

end Sys2Proof.Machine

/-! SUPPORT. Run-ahead of an element queue (R113, R220, R222). -/

namespace Sys2Proof.Machine

namespace SameCore

/-! ### What a stream engine reads (R113, R155, R177) -/

variable {s t : State} (h : SameCore s t)
include h

theorem orderReads {ag : Nat} (hag : 2 ^ 60 ≤ ag) (ks : List Nat) : SameCore s (orderReads t ag ks) :=
  (foldl (fun _ _ h => h.putStamp _) _ h).setAgentTime hag _

theorem xlPrefetches (ps : List Piece) : SameCore s (ps.foldl (fun s q => Machine.xlPrefetch s (armAgent s) q.va q.x) t) :=
  foldl (fun u q h => h.xlPrefetch (armAgent u) q.va q.x) ps h

theorem streamLine (pa n : Nat) (hn : Hint) : SameCore s (streamLine t pa n hn) := by
  have hread := ((h.l1Recall t.gang.core pa).orderRead (le_streamNo t.gang.core t.gang.gslot) pa).homeLine pa n false true true
  exact ite hread (hread.l1Lease ..)

theorem readLocal {ag : Nat} (hag : 2 ^ 60 ≤ ag) (c : Checked) : SameCore s (readLocal t ag c).2.2 := by
  unfold Machine.readLocal
  split
  · exact (h.touchUnit ..).orderReads hag _
  · exact ((h.captureTouch ..).touchUnit ..).orderReads hag _
  · exact h

omit h in
theorem readPieces (hn : Hint) (ps : List Piece) (acc : List Byte × Option (Nat × Nat) × State) (hacc : SameCore s acc.2.2) :
    SameCore s (ps.foldl (fun (acc : List Byte × Option (Nat × Nat) × State) q =>
      let s := Machine.streamLine acc.2.2 q.x.pa q.n hn
      let p := if acc.2.1.isNone ∧ physPoison s q.x.pa q.n then some (q.va, portRoute s q.x.pa / 64 * 64) else acc.2.1
      (acc.1 ++ physBytes s q.x.pa q.n, p, s)) acc).2.2 := by
  induction ps generalizing acc with
  | nil => exact hacc
  | cons q ps ih => exact ih _ (hacc.streamLine ..)

theorem readStream (c : Checked) (hn : Hint) : SameCore s (readStream t c hn).2.2 := by
  unfold Machine.readStream
  split
  · exact readPieces hn c.pieces _ h
  · exact h.readLocal (le_streamNo ..) c

end SameCore

/-! ### The element that is fetched (R220) -/

theorem any_positions {α : Type} {l : List (Nat × α)} {p : Nat} (h : ∀ e ∈ l, e.1 ≠ p) : l.any (fun e => e.1 == p) = false :=
  List.any_eq_false.2 fun e he => by simpa using h e he

/-- A fetch puts the element at the end of what its queue holds ahead. -/
theorem streamFetch_gang {s : State} {n p : Nat} {q : Stream} (hq : s.gang.streams[n]? = some q) (htotal : p < streamTotal q)
    (hnew : ∀ e ∈ q.ahead, e.1 ≠ p) (hchecked : q.checked = false) :
    ∃ v, (streamFetch s n p).gang = putStream s.gang n { q with ahead := q.ahead ++ [(p, v)] } := by
  have hfetch : ¬(streamTotal q ≤ p ∨ q.ahead.any (fun e => e.1 == p) = true ∨
      q.checked = true ∧ (streamIndex q p < 0 ∨ (descExtent q.desc : Int) ≤ streamIndex q p)) := by
    simp only [hchecked, any_positions hnew, Bool.false_eq_true, false_and, or_false, Nat.not_le]
    exact htotal
  unfold streamFetch
  rw [hq]
  dsimp only
  rw [if_neg hfetch]
  split
  · exact ⟨none, rfl⟩
  · split
    · exact ⟨none, rfl⟩
    · next c _ _ =>
      rw [onGang_gang, (((SameCore.refl s).xlPrefetches c.pieces).readStream c q.hn).gang]
      exact ⟨_, rfl⟩

theorem find?_natRange {a n p : Nat} {f : Nat → Bool} (hlow : a ≤ p) (hhigh : p < a + n) (hp : f p = true)
    (hbefore : ∀ k, a ≤ k → k < p → f k = false) : (natRange a n).find? f = some p := by
  rw [natRange_eq_range']
  refine List.find?_range'_eq_some.2 ⟨hp, List.mem_range'_1.2 ⟨hlow, hhigh⟩, fun k hk hkp => ?_⟩
  rw [hbefore k hk hkp]
  rfl

/-- Run-ahead takes the first position that its queue does not hold (R220). -/
theorem aheadNext_eq {g : Gang} {x : Stream} {p : Nat} (hopen : x.isOpen = true) (hlow : x.cursor ≤ p)
    (hhigh : p < x.cursor + 4 * g.declared) (htotal : p < streamTotal x) (hnew : ∀ e ∈ x.ahead, e.1 ≠ p)
    (hbefore : ∀ k, x.cursor ≤ k → k < p → streamTotal x ≤ k ∨ ∃ e ∈ x.ahead, e.1 = k) : aheadNext g x = some p := by
  rw [aheadNext, hopen]
  refine find?_natRange hlow hhigh ?_ fun k hk hkp => ?_
  · simp [htotal, any_positions hnew]
  · obtain hend | ⟨e, he, rfl⟩ := hbefore k hk hkp
    · simp [Nat.not_lt.2 hend]
    · simpa using fun _ => ⟨_, he⟩

theorem streamRunsAhead {g q : Nat} {s : State} {x : Stream} {p : Nat} (hlive : s.live = true) (hid : s.gang.id = g)
    (hslot : s.gang.arm.slot = 0) (hx : s.gang.streams[q]? = some x) (hopen : x.isOpen = true) (hchecked : x.checked = false)
    (hlow : x.cursor ≤ p) (hhigh : p < x.cursor + 4 * s.gang.declared) (htotal : p < streamTotal x) (hnew : ∀ e ∈ x.ahead, e.1 ≠ p)
    (hbefore : ∀ k, x.cursor ≤ k → k < p → streamTotal x ≤ k ∨ ∃ e ∈ x.ahead, e.1 = k) :
    ∃ t, exec (.streamRunAhead g q) s = .next t ∧
      ((∃ ws, t = { s with caches := { s.caches with waiting := ws } }) ∨ ∃ v, t.gang.streams[q]? = some { x with ahead := x.ahead ++ [(p, v)] }) ∧
      t.gang.v = s.gang.v ∧ t.gang.s = s.gang.s ∧ t.gang.arm.pc = s.gang.arm.pc ∧ t.gang.ops = s.gang.ops := by
  have hfocus : focusOn s g 0 = s := by
    rw [← hid, ← hslot]
    exact focusOn_self hlive
  have hexec : exec (.streamRunAhead g q) s = .next (bounded (streamNo s.gang.core s.gang.gslot) (fun s => streamFetch s q p) s) := by
    change execStreamRunAhead g q s = _
    unfold execStreamRunAhead event
    simp [hfocus, hlive, hid, hx, aheadNext_eq hopen hlow hhigh htotal hnew hbefore]
  obtain ⟨v, hgang⟩ := streamFetch_gang hx htotal hnew hchecked
  refine ⟨_, hexec, ?_⟩
  by_cases hpast : agentTime s (streamNo s.gang.core s.gang.gslot) < agentTime (streamFetch s q p) (streamNo s.gang.core s.gang.gslot) ∧
      timeBound s < agentTime (streamFetch s q p) (streamNo s.gang.core s.gang.gslot)
  · rw [bounded_past hpast]
    exact ⟨.inl ⟨_, rfl⟩, rfl, rfl, rfl, rfl⟩
  · rw [bounded_ok hpast]
    dsimp only
    rw [hgang]
    exact ⟨.inr ⟨v, List.getElem?_set_self (List.getElem?_eq_some_iff.1 hx).1⟩, rfl, rfl, rfl, rfl⟩

theorem elementQueues : Claims.ElementStreams :=
  ⟨fun _ _ _ _ _ _ _ _ _ hissue hroom howed _ => queueOpens hissue hroom howed,
    fun _ _ _ _ hissue hroom => queuesClose hissue hroom,
    fun _ _ _ _ _ hlive hid hslot hx hopen hchecked hlow hhigh htotal hnew hbefore =>
      streamRunsAhead hlive hid hslot hx hopen hchecked hlow hhigh htotal hnew hbefore⟩

end Sys2Proof.Machine

/-! SUPPORT. What keeps the logical times of the units (R330): every read, write and capture of memory that no unit orders. -/

namespace Sys2Proof.Machine

/-- Every unit's logical time is in `t` as in `s`. -/
def SameTimes (s t : State) : Prop := t.caches.times = s.caches.times

namespace SameTimes

theorem refl (s : State) : SameTimes s s := rfl

variable {s t : State}

/-- An update of other fields. -/
theorem upd {u : State} (h : SameTimes s t) (hu : u.caches.times = t.caches.times) : SameTimes s u := hu.trans h

theorem foldl {β : Type} {f : State → β → State} (hf : ∀ t x, SameTimes s t → SameTimes s (f t x)) (xs : List β) (h : SameTimes s t) :
    SameTimes s (xs.foldl f t) := by
  induction xs generalizing t with
  | nil => exact h
  | cons x xs ih => exact ih (hf t x h)

theorem ite {t u : State} {c : Prop} [Decidable c] (ht : SameTimes s t) (hu : SameTimes s u) : SameTimes s (if c then t else u) := by
  split
  · exact ht
  · exact hu

variable (h : SameTimes s t)
include h

/-! ### Registers, rings and errors (R135, R409 to R412) -/

theorem mmPut (off v : Nat) : SameTimes s (mmPut t off v) := h.upd rfl

theorem mmPutField (off hi lo v : Nat) : SameTimes s (mmPutField t off hi lo v) := h.upd rfl

theorem mmAdd (off hi lo n : Nat) : SameTimes s (mmAdd t off hi lo n) := h.upd rfl

theorem mmAddSat (off hi lo : Nat) : SameTimes s (mmAddSat t off hi lo) := ite (h.mmPutField ..) h

theorem mmCount (off n : Nat) : SameTimes s (mmCount t off n) := h.mmAdd ..

theorem hostWrite (a : Nat) (bs : List Byte) : SameTimes s (hostWrite t a bs) := ite h (h.upd rfl)

theorem msixSignal (n : Nat) : SameTimes s (msixSignal t n) := ite h (ite (h.mmPutField ..) (h.upd rfl))

theorem ringPut (base src : Nat) (bs : List Byte) : SameTimes s (ringPut t base src bs) := by
  have hput := (h.hostWrite (mmGet t base + mmField t (base + 16) 31 0 % 2 ^ (mmField t (base + 8) 5 2 + 6) * bs.length) bs).mmPut
    (base + 16) ((mmField t (base + 16) 31 0 + 1) % 2 ^ 32)
  exact ite (hput.msixSignal src) hput

theorem ringPost (base lost src : Nat) (bs : List Byte) : SameTimes s (ringPost t base lost src bs) :=
  ite h (ite (h.mmCount ..) (h.ringPut ..))

theorem fatalError (e : ErrRec) : SameTimes s (fatalError t e) := by
  have hring := h.ringPost errRing (errRing + 32) 2 (errBytes t.time e)
  unfold Machine.fatalError
  generalize errBytes t.time e = bs at hring
  exact (mmPutField (ite (foldl (fun _ _ h => h.mmPut ..) _ hring) hring) flCtl 0 0 0).upd rfl

theorem logError (e : ErrRec) : SameTimes s (logError t e) := by
  have hmsg : ∀ n, SameTimes s { t with errMsgs := t.errMsgs ++ [n] } := fun _ => h.upd rfl
  exact ite (h.fatalError e) (ite (ite ((hmsg 0).ringPost ..) (hmsg 0)) (ite (h.fatalError _) ((hmsg 1).ringPost ..)))

theorem decodeError (pa : Nat) : SameTimes s (decodeError t pa) := ite (h.logError _) (h.logError _)

/-! ### Retained bank units (R409) -/

theorem poisonWord (b : Bool) (w : Nat) : SameTimes s (poisonWord t b w) := ite (h.upd rfl) (h.upd rfl)

theorem wakeUnit (u : Nat) : SameTimes s (wakeUnit t u) := by
  have herrs := foldl (s := s) (f := fun s (e : (Bool × Nat) × Nat) =>
      if e.2 ≤ 2 then Machine.logError (Machine.mmAdd s (bkBlock (unitDie u) + 0x18) 63 32 1) (wordError u e.1.1 e.1.2 0)
      else Machine.logError (Machine.mmAddSat (Machine.poisonWord s e.1.1 e.1.2) (bkBlock (unitDie u) + 0x20) 63 32)
        (wordError u e.1.1 e.1.2 1))
    (fun _ _ h => ite ((h.mmAdd ..).logError _) (((h.poisonWord ..).mmAddSat ..).logError _)) (unitErrors t u) h
  exact ite h (ite (herrs.upd rfl) (herrs.upd rfl))

theorem touchUnit (b : Bool) (off n : Nat) : SameTimes s (touchUnit t b off n) := by
  unfold Machine.touchUnit
  refine upd (foldl ?_ _ (foldl ?_ _ h)) rfl
  · exact fun _ _ h => ite ((h.mmAdd ..).logError _) (((h.poisonWord ..).mmAddSat ..).logError _)
  · exact fun _ _ h => (h.wakeUnit _).upd rfl

/-! ### The memory controllers (R62 to R75) -/

theorem onDram (f : Dram → Dram) : SameTimes s (onDram t f) := h.upd rfl

theorem noteWait (n fin : Nat) : SameTimes s (noteWait t n fin) := ite h (h.onDram _)

theorem readArrives (pa : Nat) : SameTimes s (readArrives t pa) := by
  unfold Machine.readArrives
  split
  · exact h
  · exact ite (((h.noteWait _ _).onDram _).onDram _) ((h.noteWait _ _).onDram _)

theorem makeRoom (n : Nat) : SameTimes s (makeRoom t n) := by
  unfold Machine.makeRoom
  refine ite h ?_
  split
  · exact h.onDram _
  · exact h

theorem queueWrite (bank line : Nat) : SameTimes s (queueWrite t bank line) := by
  unfold Machine.queueWrite
  exact ((h.noteWait _ _).makeRoom _).onDram _

theorem parityOut (e : Nat × Nat) : SameTimes s (parityOut t e) := by
  unfold Machine.parityOut
  exact ite ((h.onDram _).queueWrite _ _) (((h.onDram _).queueWrite _ _).logError _)

theorem declareFailed (k ch : Nat) : SameTimes s (declareFailed t k ch) := by
  have hcancel : SameTimes s (cancelMoves t (channelMoves t k ch) 2) := h.upd rfl
  have hflush : SameTimes s (flushParity (cancelMoves t (channelMoves t k ch) 2)) := foldl (fun _ _ h => h.parityOut _) _ hcancel
  unfold Machine.declareFailed
  exact ite h (logError (foldl (fun _ _ h => h.mmPutField ..) _ ((hflush.onDram _).mmPutField ..)) _)

theorem clearBad (sec : Nat) : SameTimes s (clearBad t sec) := h.upd rfl

theorem poisonSector (sec : Nat) : SameTimes s (poisonSector t sec) := h.upd rfl

theorem returnPoisoned (blk ch pa : Nat) : SameTimes s (returnPoisoned t blk ch pa) :=
  (((h.clearBad _).poisonSector _).mmAddSat ..).logError _

theorem correctSector (blk ch pa : Nat) : SameTimes s (correctSector t blk ch pa) := ((h.clearBad _).mmAdd ..).logError _

theorem correctParity (k stripe i : Nat) : SameTimes s (correctParity t k stripe i) :=
  ite ((h.onDram _).logError _) (((h.onDram _).mmAdd ..).logError _)

theorem readStripe (k off : Nat) : SameTimes s (readStripe t k off) := by
  have hread := foldl (f := fun s sec =>
      if sectorBad s sec = some false then Machine.correctSector s k (hbmDecode (sec * 64 - k * 2 ^ 36)).ch (sec * 64) else s)
    (fun _ _ h => ite (h.correctSector ..) h) (stripeSectors k off) h
  exact ite (hread.correctParity ..) hread

theorem countRebuild (k ch a : Nat) : SameTimes s (countRebuild t k ch a) := by
  unfold Machine.countRebuild
  have hlog := fun f => ((h.mmAddSat (mcChStat k ch) 31 16).onDram f).logError ⟨a, noOwner, 0, k, 0, 2, 0⟩
  exact ite ((hlog _).declareFailed ..) (hlog _)

theorem readSector (pa : Nat) : SameTimes s (readSector t pa) := by
  unfold Machine.readSector
  refine ite h ?_
  split
  · refine ite (ite (h.readStripe ..) (h.returnPoisoned ..)) ?_
    split
    · exact h
    · exact h.correctSector ..
    · exact ite (((h.readStripe ..).clearBad _).countRebuild ..) (h.returnPoisoned ..)
  · split
    · exact h
    · exact h.correctSector ..
    · exact h.returnPoisoned ..
  · exact h

theorem readParity (k stripe i : Nat) : SameTimes s (readParity t k stripe i) := by
  unfold Machine.readParity
  refine ite h ?_
  split
  · exact h
  · exact h.correctParity ..
  · exact ite h (ite ((h.onDram _).countRebuild ..) (((h.onDram _).mmAddSat ..).logError _))
  · exact h

theorem parityUpdate (k stripe : Nat) : SameTimes s (parityUpdate t k stripe) := by
  have hread : SameTimes s (if t.dram.parityQ.contains (k, stripe) then t
      else (List.range 4).foldl (fun s i => Machine.readParity s k stripe i) t) := ite h (foldl (fun _ _ h => h.readParity ..) _ h)
  unfold Machine.parityUpdate
  refine ite ?_ (hread.onDram _)
  split
  · exact (hread.onDram _).parityOut _
  · exact hread.onDram _

theorem readSectors {β : Type} (a : β → Nat) (xs : List β) : SameTimes s (xs.foldl (fun s k => Machine.readSector s (a k)) t) :=
  foldl (fun _ _ h => h.readSector _) _ h

theorem oldRead (secs : List Nat) : SameTimes s (oldRead t secs) := (h.readSectors _ secs).upd rfl

theorem ctlSectors (pa : Nat) (part whole : List Nat) : SameTimes s (ctlSectors t pa part whole) := by
  have hpart := h.readSectors (fun k => k * 64) part
  unfold Machine.ctlSectors
  dsimp only
  generalize part.foldl (fun s k => Machine.readSector s (k * 64)) t = u at hpart ⊢
  have hqueue : ∀ v, SameTimes s v → SameTimes s (match bankNumber v pa with | some b => Machine.queueWrite v b (pa / 256) | none => v) := by
    intro v hv
    split
    · exact hv.queueWrite _ _
    · exact hv
  apply hqueue
  refine foldl (fun _ _ h => h.clearBad _) _ ?_
  split
  · exact (hpart.oldRead _).parityUpdate ..
  · exact hpart

theorem ctlWrite (pa n : Nat) : SameTimes s (ctlWrite t pa n) := h.ctlSectors ..

/-! ### Page motion (R127, R128) -/

theorem putStamp (x : Stamp) : SameTimes s (putStamp t x) := h.upd rfl

theorem putMove (m : Move) : SameTimes s (putMove t m) := h.upd rfl

theorem storeLine (pa : Nat) (bs : List Byte) (ps : List Nat) : SameTimes s (storeLine t pa bs ps) := by
  unfold Machine.storeLine
  split
  · exact h.decodeError _
  · exact h.decodeError _
  · exact h.upd rfl
  · exact (h.ctlWrite pa 256).upd rfl

theorem endHold (m : Move) : SameTimes s (endHold t m) := by
  have hdrop : ∀ a, SameTimes s (dropEntry t a) := fun _ => h.onDram _
  unfold Machine.endHold
  exact ite ((hdrop _).putMove _) ((((hdrop _).putStamp _).storeLine ..).putMove _)

theorem endHoldAt (pa : Nat) : SameTimes s (endHoldAt t pa) := by
  unfold Machine.endHoldAt
  split
  · exact ite (h.endHold _) h
  · exact h

omit h in
theorem awaitHolds (n : Nat) {t : State} (h : SameTimes s t) (pa : Nat) : SameTimes s (awaitHolds n t pa) := by
  induction n generalizing t pa with
  | zero => exact h.endHoldAt pa
  | succ n ih => exact ite (h.endHoldAt pa) (ih (h.endHoldAt pa) _)

theorem awaitHold (pa : Nat) : SameTimes s (awaitHold t pa) := h.awaitHolds _ pa

theorem touchRead (pa n : Nat) : SameTimes s (touchRead t pa n) := by
  have hwait := h.awaitHold pa
  exact ite (hwait.decodeError _) (foldl (fun _ _ h => h.readSector _) _ (hwait.readArrives _))

/-! ### The Jigsaw and the L1s (R146 to R158, R178) -/

theorem setJigsaw (ls : List JLine) : SameTimes s (setJigsaw t ls) := h.upd rfl

theorem setL1 (ls : List L1Line) : SameTimes s (setL1 t ls) := h.upd rfl

theorem jgPut (l : JLine) : SameTimes s (jgPut t l) := h.setJigsaw _

theorem jgDirty (l : JLine) (mask : Nat) : SameTimes s (jgDirty t l mask) := h.jgPut _

theorem jgSave (pa n : Nat) : SameTimes s (jgSave t pa n) := by
  unfold Machine.jgSave
  split
  · exact h
  · exact h.jgPut _

theorem l1Keep (pa : Nat) : SameTimes s (l1Keep t pa) := ite (h.setL1 _) h

theorem beforeWrite (pa0 pa n : Nat) : SameTimes s (beforeWrite t pa0 pa n) := by
  have hkeep := h.l1Keep pa0
  unfold Machine.beforeWrite
  dsimp only
  split
  · exact jgSave (ite hkeep (hkeep.jgDirty ..)) ..
  · exact ite hkeep (hkeep.ctlWrite ..)

theorem physWrite (pa : Nat) (bs : List Byte) : SameTimes s (physWrite t pa bs) := by
  have hwait := h.awaitHold pa
  unfold Machine.physWrite
  dsimp only
  split
  · exact hwait.decodeError _
  · exact hwait.decodeError _
  · next off _ => exact (hwait.touchUnit false off bs.length).upd rfl
  · refine foldl (fun _ _ h => ?_) _
      ((hwait.beforeWrite pa (portRoute (Machine.awaitHold t pa) pa) bs.length).upd rfl)
    split
    · exact h.putMove _
    · exact h

/-! ### Capture and heat (R118, R119, R417) -/

theorem pageImage (bank : Bool) (a : Nat) : SameTimes s (pageImage t bank a).2 := by
  unfold Machine.pageImage
  split
  · exact h.touchUnit false a 4096
  · dsimp only
    exact foldl (fun _ _ h => h.touchRead ..) _ h

theorem captureRecord (l : Launch) (addr kind : Nat) (payload : List Byte) : SameTimes s (captureRecord t l addr kind payload) := by
  unfold Machine.captureRecord
  exact ite h (ite (h.mmPutField ..) (mmCount (foldl (fun _ _ h => h.physWrite ..) _ h) ..))

theorem captureTouch (launch : Nat) (bank : Bool) (a va : Nat) : SameTimes s (captureTouch t launch bank a va) := by
  have hlaunch : ∀ f, SameTimes s (onLaunch t launch f) := fun _ => h.upd rfl
  unfold Machine.captureTouch
  split
  · exact h
  · exact ite h (((hlaunch _).pageImage ..).captureRecord ..)

end SameTimes

end Sys2Proof.Machine

/-! SUPPORT. Pops of an element queue (R219, R221). -/

namespace Sys2Proof.Machine

/-! ### Elements that are there (R220, R221) -/

/-- A position that the bounds check masks. -/
def masked (q : Stream) (p : Nat) : Bool :=
  q.checked && (decide (streamIndex q p < 0) || decide ((descExtent q.desc : Int) ≤ streamIndex q p))

/-- The value that a pop takes for a position whose element is there. -/
def popVal (q : Stream) (p : Nat) : DWord × Option Nat :=
  match aheadAt q p with
  | some (some v) => v
  | _ => (0, none)

/-- What a pop whose elements are all there makes of a gang. -/
def poppedGang (n : Nat) (q : Stream) (ps : List (Nat × Nat)) (g : Gang) : Gang :=
  { putStream g n { q with cursor := q.cursor + g.declared, ahead := q.ahead.filter (fun e => decide (q.cursor + g.declared ≤ e.1)) } with
    popv := ps.foldl (fun m e => smapSet 0 m (vKey n e.1) (popVal q e.2).1) g.popv
    popSh := smapSet Shadow.zero g.popSh n (loadInterval (descBytes q.desc) q.sx)
    bmiss := ps.foldl (fun m e => if decide (e.2 < streamTotal q) && masked q e.2 then m ||| laneBit e.1 else m) g.bmiss }

theorem streamPast_self (s : State) : streamPast s s = false := by simp [streamPast]

/-- A position that the queue holds, or that has no element, is not fetched. -/
theorem streamFetch_eq {s : State} {n p : Nat} {q : Stream} (hq : s.gang.streams[n]? = some q)
    (hp : aheadAt q p = none → streamTotal q ≤ p ∨ masked q p = true) : streamFetch s n p = s := by
  have hguard : streamTotal q ≤ p ∨ q.ahead.any (fun e => e.1 == p) = true ∨
      q.checked = true ∧ (streamIndex q p < 0 ∨ (descExtent q.desc : Int) ≤ streamIndex q p) := by
    cases hahead : q.ahead.find? (fun e => e.1 == p) with
    | none =>
      obtain hend | hmask := hp (by rw [aheadAt, hahead]; rfl)
      · exact .inl hend
      · exact .inr (.inr (by simpa [masked] using hmask))
    | some e => exact .inr (.inl (List.any_eq_true.2 ⟨e, List.mem_of_find?_eq_some hahead, by simpa using List.find?_some hahead⟩))
  unfold streamFetch
  rw [hq]
  exact if_pos hguard

theorem foldl_streamFetch_eq {s : State} {n : Nat} {q : Stream} (hq : s.gang.streams[n]? = some q) (ps : List (Nat × Nat))
    (hp : ∀ e ∈ ps, aheadAt q e.2 = none → streamTotal q ≤ e.2 ∨ masked q e.2 = true) :
    ps.foldl (fun s e => streamFetch s n e.2) s = s := by
  induction ps with
  | nil => rfl
  | cons e ps ih =>
    rw [List.foldl_cons, streamFetch_eq hq (hp e List.mem_cons_self)]
    exact ih fun e he => hp e (List.mem_cons_of_mem _ he)

theorem popCapture_sameCore {s t : State} (h : SameCore s t) (q : Stream) (lane p : Nat) : SameCore s (popCapture t q lane p) := by
  unfold popCapture
  split
  · exact .foldl (fun _ _ h => .ite h (h.captureTouch ..)) _ h
  · exact h

theorem popCapture_sameTimes {s t : State} (h : SameTimes s t) (q : Stream) (lane p : Nat) : SameTimes s (popCapture t q lane p) := by
  unfold popCapture
  split
  · exact .foldl (fun _ _ h => .ite h (h.captureTouch ..)) _ h
  · exact h

/-- The captures of a pop. -/
def captured (s : State) (q : Stream) (ps : List (Nat × Nat)) : State :=
  ps.foldl (fun s e => match aheadAt q e.2 with | some (some _) => popCapture s q e.1 e.2 | _ => s) s

theorem captured_sameCore (s : State) (q : Stream) (ps : List (Nat × Nat)) : SameCore s (captured s q ps) := by
  refine .foldl (fun t e h => ?_) ps (.refl s)
  split
  · exact popCapture_sameCore h ..
  · exact h

theorem captured_sameTimes (s : State) (q : Stream) (ps : List (Nat × Nat)) : SameTimes s (captured s q ps) := by
  refine .foldl (fun t e h => ?_) ps (.refl s)
  split
  · exact popCapture_sameTimes h ..
  · exact h

/-- The state of a pop past its captures: the arm comes after the stream's reads (R222). -/
def poppedState (s : State) (n : Nat) (q : Stream) (ps : List (Nat × Nat)) : State :=
  let u := captured s q ps
  (raiseTime u (armNo u) (agentTime u (streamAg u))).onGang (poppedGang n q ps)

theorem checkAccess_nil (s : State) (x : Xagent) (p : ApCtx) (ovr align : Nat) (kind : AccKindF) :
    checkAccess s x p ovr align kind [] = .ok [] := rfl

/-- No access touches a watched region. -/
theorem noteWatch_nil (s : State) (kind : AccKindF) : noteWatch s [] kind = s := by
  have hwatched : watched s [] kind = false := by
    unfold watched
    split
    · rfl
    · simp
  rw [noteWatch, hwatched]
  rfl

theorem popStream_eq {s : State} {n : Nat} {q : Stream} (hq : s.gang.streams[n]? = some q)
    (hp : ∀ e ∈ popPositions s.gang q, (∃ x, aheadAt q e.2 = some (some (x, none))) ∨
      aheadAt q e.2 = none ∧ (streamTotal q ≤ e.2 ∨ masked q e.2 = true)) :
    popStream s n = boundedExe s (.ok (poppedState s n q (popPositions s.gang q))) := by
  have hfetch := foldl_streamFetch_eq hq (popPositions s.gang q) fun e he hnone => by
    obtain ⟨x, hx⟩ | ⟨-, hno⟩ := hp e he
    · simp [hnone] at hx
    · exact hno
  unfold popStream
  rw [hq]
  dsimp -zeta only
  extract_lets ps s1
  have hs1 : s1 = s := hfetch
  clear_value s1
  subst hs1
  rw [hq]
  dsimp -zeta only
  rw [streamPast_self, if_neg Bool.false_ne_true]
  extract_lets es els u out
  have hels : els = [] := by
    refine List.filterMap_eq_nil_iff.2 fun e he => ?_
    obtain ⟨x, hx⟩ | ⟨hx, -⟩ := hp e he <;> rw [hx]
  clear_value els
  subst hels
  rw [checkAccess_nil]
  dsimp -zeta only
  extract_lets u1 u2 rd t val bad
  have hu2 : u2 = u := noteWatch_nil u .read
  have ht : t = raiseTime u (armNo u) (agentTime u (streamAg u)) := by
    change raiseTime u2 (armNo u2) (agentTime u2 (streamAg u2)) = _
    rw [hu2]
  have hval : ∀ e ∈ ps, val e = popVal q e.2 ∧ (val e).2 = none := by
    intro e he
    obtain ⟨x, hx⟩ | ⟨hx, -⟩ := hp e he
    · simp [val, popVal, hx]
    · simp [val, popVal, hx]
  have hbad : bad = none := by
    refine List.find?_eq_none.2 fun e he => ?_
    rw [(hval e he).2]
    exact Bool.false_ne_true
  have hpopv : ∀ m, ps.foldl (fun m e => smapSet 0 m (vKey n e.1) (if (val e).2.isSome then 0 else (val e).1)) m =
      ps.foldl (fun m e => smapSet 0 m (vKey n e.1) (popVal q e.2).1) m := by
    intro m
    refine List.foldl_ext _ _ _ fun m e he => ?_
    obtain ⟨hv, hclean⟩ := hval e he
    rw [hclean, hv]
    rfl
  have hout : out = fun e => decide (e.2 < streamTotal q) && masked q e.2 := funext fun _ => Bool.and_assoc ..
  clear_value bad out
  subst hbad hout
  simp only [hpopv, ht]
  rfl

end Sys2Proof.Machine

/-! SUPPORT. What a pop leaves in its gang (R219, R221), and a pop that traps (R276). -/

namespace Sys2Proof.Machine

/-! ### The gang after a pop (R221, R222) -/

/-- An arm's time rises no further than to the greater of the two. -/
theorem raiseTime_ltime_le (s : State) (ag time : Nat) : (raiseTime s ag time).gang.arm.ltime ≤ Max.max s.gang.arm.ltime time := by
  by_cases hag : ag < 2 ^ 60
  · exact (raiseTime_arm s ag time hag).le
  · rw [raiseTime_gang (Nat.le_of_not_lt hag)]
    exact Nat.le_max_left ..

theorem poppedGang_arm (n : Nat) (q : Stream) (ps : List (Nat × Nat)) (g : Gang) : (poppedGang n q ps g).arm = g.arm := rfl

/-- Captures leave the time of the gang's stream engine. -/
theorem captured_streamTime (s : State) (q : Stream) (ps : List (Nat × Nat)) :
    agentTime (captured s q ps) (streamAg (captured s q ps)) = agentTime s (streamAg s) := by
  have hcore := captured_sameCore s q ps
  have htimes : (captured s q ps).caches.times = s.caches.times := captured_sameTimes s q ps
  have hag : streamAg (captured s q ps) = streamAg s := by rw [streamAg, streamAg, hcore.gang]
  rw [hag, agentTime, agentTime, htimes, hcore.gang]

/-- A pop changes the gang as `poppedGang` says, but for its arm's time, and that keeps within the bound (R333). -/
theorem poppedState_gang (s : State) (n : Nat) (q : Stream) (ps : List (Nat × Nat)) (hbound : agentTime s (streamAg s) ≤ timeBound s) :
    newlyPast s (poppedState s n q ps) = false ∧ ∃ watch time, (poppedState s n q ps).gang =
      poppedGang n q ps { s.gang with arm := { s.gang.arm with watchHit := watch, ltime := time } } := by
  have hcore := captured_sameCore s q ps
  have htime := captured_streamTime s q ps
  unfold poppedState
  generalize captured s q ps = u at hcore htime
  have hle := raiseTime_ltime_le u (armNo u) (agentTime u (streamAg u))
  rw [htime, hcore.gang] at hle
  obtain ⟨watch, time, hgang⟩ := (Reaches.setAgentTime u (armNo u) (Max.max (agentTime u (armNo u)) (agentTime u (streamAg u)))).gang
  refine ⟨?_, watch, time, ?_⟩
  · have hpast : ¬(s.gang.arm.ltime < (raiseTime u (armNo u) (agentTime u (streamAg u))).gang.arm.ltime ∧
        timeBound s < (raiseTime u (armNo u) (agentTime u (streamAg u))).gang.arm.ltime) := by
      rw [htime]
      omega
    rw [newlyPast, ← Bool.decide_and, onGang_gang, poppedGang_arm]
    exact decide_eq_false hpast
  · rw [onGang_gang, raiseTime, hgang, hcore.gang]

/-! ### The values that are popped (R219, R221) -/

theorem mem_popPositions (g : Gang) (q : Stream) (e : Nat × Nat) :
    e ∈ popPositions g q ↔ e.1 ∈ laneList g.arm.mask ∧ e.2 = q.cursor + e.1 := by
  constructor
  · rintro he
    obtain ⟨l, hl, rfl⟩ := List.mem_map.1 he
    exact ⟨hl, rfl⟩
  · rintro ⟨hl, he⟩
    exact List.mem_map.2 ⟨e.1, hl, Prod.ext rfl he.symm⟩

/-- Lane `l` of what is popped. -/
theorem smapGet_popv (g : Gang) (q : Stream) (n : Nat) (m : List (Nat × DWord)) {l : Nat} (hl : l ∈ laneList g.arm.mask) :
    smapGet 0 ((popPositions g q).foldl (fun m e => smapSet 0 m (vKey n e.1) (popVal q e.2).1) m) (vKey n l) =
      (popVal q (q.cursor + l)).1 := by
  have hkey : ∀ a b, vKey n a = vKey n b → a = b := fun a b h => by unfold vKey at h; omega
  rw [smapGet_foldl 0 (fun e => vKey n e.1) (fun e : Nat × Nat => (popVal q e.2).1)]
  · cases hfind : (popPositions g q).find? (fun e => vKey n e.1 == vKey n l) with
    | none =>
      have hnone := List.find?_eq_none.1 hfind (l, q.cursor + l) ((mem_popPositions g q _).2 ⟨hl, rfl⟩)
      exact absurd (beq_self_eq_true _) hnone
    | some e =>
      obtain ⟨-, he⟩ := (mem_popPositions g q e).1 (List.mem_of_find?_eq_some hfind)
      have hlane : e.1 = l := hkey _ _ (by simpa using List.find?_some hfind)
      rw [← hlane, ← he]
  · intro e he f hf hef
    rw [((mem_popPositions g q e).1 he).2, ((mem_popPositions g q f).1 hf).2, hkey _ _ hef]

/-- A mask after some lanes were added. -/
theorem getLsbD_foldl_laneBit (f : Nat × Nat → Bool) (ps : List (Nat × Nat)) (m : LaneMask) {l : Nat} (hl : l < 96) :
    (ps.foldl (fun m e => if f e then m ||| laneBit e.1 else m) m).getLsbD l = (m.getLsbD l || ps.any (fun e => f e && decide (e.1 = l))) := by
  induction ps generalizing m with
  | nil => simp
  | cons e ps ih =>
    rw [List.foldl_cons, ih, List.any_cons, ← Bool.or_assoc]
    cases f e with
    | false => simp
    | true => simp [getLsbD_laneBit hl]

/-- Of the positions of a pop, lane `l` has one where it is active. -/
theorem any_popPositions (g : Gang) (q : Stream) (f : Nat → Bool) {l : Nat} (hl : l < 96) :
    (popPositions g q).any (fun e => f e.2 && decide (e.1 = l)) = (g.arm.mask.getLsbD l && f (q.cursor + l)) := by
  rw [Bool.eq_iff_iff, List.any_eq_true]
  constructor
  · rintro ⟨e, he, hf⟩
    obtain ⟨hlane, hpos⟩ := (mem_popPositions g q e).1 he
    obtain ⟨hfe, rfl⟩ : f e.2 = true ∧ e.1 = l := by simpa using hf
    rw [((mem_laneList ..).1 hlane).2, ← hpos, hfe]
    rfl
  · intro h
    obtain ⟨hmask, hf⟩ := Bool.and_eq_true_iff.1 h
    exact ⟨(l, q.cursor + l), (mem_popPositions g q _).2 ⟨(mem_laneList ..).2 ⟨hl, hmask⟩, rfl⟩, by simp [hf]⟩

/-- The queue that was popped stays open. -/
theorem openQueue_poppedGang {g : Gang} {n : Nat} {q : Stream} (hq : g.streams[n]? = some q) (hopen : q.isOpen = true)
    (ps : List (Nat × Nat)) : openQueue (poppedGang n q ps g) (124 + n) = some n := by
  have hlen : n < g.streams.length := (List.getElem?_eq_some_iff.1 hq).1
  have hget : (poppedGang n q ps g).streams[n]? = some { q with
      cursor := q.cursor + g.declared, ahead := q.ahead.filter (fun e => decide (q.cursor + g.declared ≤ e.1)) } :=
    List.getElem?_set_self hlen
  rw [openQueue, if_pos (by omega), Nat.add_sub_cancel_left, hget]
  simp [hopen]

theorem popAll_single {s : State} {i : Instr} {n : Nat} (h : popsOf s.gang i = [n]) : popAll s i = popStream s n := by
  rw [popAll, h]
  rfl

/-- A pop whose elements have all been fetched, none of them poisoned (R219, R221). -/
theorem popsFetched {i : Instr} {s : State} {n : Nat} {q : Stream} (hpops : popsOf s.gang i = [n]) (hq : s.gang.streams[n]? = some q)
    (hopen : q.isOpen = true) (x : Nat → DWord) (hbound : agentTime s (streamAg s) ≤ timeBound s)
    (hahead : ∀ l ∈ laneList s.gang.arm.mask, aheadAt q (q.cursor + l) =
      if q.cursor + l < streamTotal q ∧ masked q (q.cursor + l) = false then some (some (x l, none)) else none) :
    ∃ s1, popAll s i = .ok s1 ∧ openQueue s1.gang (124 + n) = some n ∧
      (∀ l ∈ laneList s.gang.arm.mask, srcV64 s1.gang (124 + n) l =
          (if q.cursor + l < streamTotal q ∧ masked q (q.cursor + l) = false then x l else 0) ∧
        srcV s1.gang (124 + n) l = (srcV64 s1.gang (124 + n) l).setWidth 32) ∧
      srcShadowV s1.gang (124 + n) = loadInterval (descBytes q.desc) q.sx ∧
      s1.gang.streams = s.gang.streams.set n { q with cursor := q.cursor + s.gang.declared,
                                                      ahead := q.ahead.filter (fun e => decide (q.cursor + s.gang.declared ≤ e.1)) } ∧
      (∀ l, l < 96 → s1.gang.bmiss.getLsbD l =
        (s.gang.bmiss.getLsbD l || (active s l && decide (q.cursor + l < streamTotal q) && masked q (q.cursor + l)))) ∧
      s1.gang.v = s.gang.v ∧ s1.gang.s = s.gang.s ∧ s1.gang.arm.pc = s.gang.arm.pc ∧ s1.gang.arm.mask = s.gang.arm.mask ∧
      s1.gang.ops = s.gang.ops := by
  have hthere : ∀ e ∈ popPositions s.gang q, (∃ x, aheadAt q e.2 = some (some (x, none))) ∨
      aheadAt q e.2 = none ∧ (streamTotal q ≤ e.2 ∨ masked q e.2 = true) := by
    intro e he
    obtain ⟨hlane, hpos⟩ := (mem_popPositions ..).1 he
    rw [hpos, hahead _ hlane]
    split
    · exact .inl ⟨_, rfl⟩
    · next hnone =>
      refine .inr ⟨rfl, ?_⟩
      rw [not_and_or, Nat.not_lt, Bool.not_eq_false] at hnone
      exact hnone
  obtain ⟨hpast, watch, time, hgang⟩ := poppedState_gang s n q (popPositions s.gang q) hbound
  refine ⟨_, (popAll_single hpops).trans ((popStream_eq hq hthere).trans (boundedExe_ok hpast)), ?_⟩
  rw [hgang]
  have hqueue := openQueue_poppedGang (g := { s.gang with arm := { s.gang.arm with watchHit := watch, ltime := time } }) hq hopen
    (popPositions s.gang q)
  refine ⟨hqueue, fun l hl => ⟨?_, ?_⟩, ?_, rfl, fun l hl => ?_, rfl, rfl, rfl, rfl, rfl⟩
  · rw [srcV64, hqueue]
    refine (smapGet_popv s.gang q n s.gang.popv hl).trans ?_
    rw [popVal, hahead l hl]
    split_ifs <;> rfl
  · rw [srcV, srcV64, hqueue]
    rfl
  · rw [srcShadowV, hqueue]
    exact smapGet_set_self ..
  · refine (getLsbD_foldl_laneBit (fun e => decide (e.2 < streamTotal q) && masked q e.2) _ _ hl).trans ?_
    rw [any_popPositions s.gang q (fun p => decide (p < streamTotal q) && masked q p) hl, ← Bool.and_assoc]
    rfl

/-! ### A pop that traps (R221, R276) -/

namespace SameCore

variable {s t : State} (h : SameCore s t)
include h

theorem faultMarks (x : Xagent) (p : ApCtx) (ovr align : Nat) (kind : AccKindF) (els : List Elem) :
    SameCore s (faultMarks t x p ovr align kind els) :=
  ite (h.walkGroups (fun _ _ _ h => (h.walkTraffic ..).markPath ..) _ _) h

end SameCore

theorem unpop_streams {s u : State} (h : u.gang.streams = s.gang.streams) : (unpop s u).gang.streams = s.gang.streams := by
  unfold unpop
  split
  · exact h
  · rfl

/-- A dropped element that fails as a demand read. -/
theorem popsTrapped {i : Instr} {s : State} {n : Nat} {q : Stream} (hpops : popsOf s.gang i = [n]) (hq : s.gang.streams[n]? = some q)
    {l : Nat} {tr : Trap} (hlanes : laneList s.gang.arm.mask = [l]) (hdropped : aheadAt q (q.cursor + l) = some none)
    (hfails : checkAccess s (armAgent s) (apCtx s) (descOvr q.desc) (descBytes q.desc) .read
      [⟨l, elemAddr q.desc (streamIndex q (q.cursor + l)), descBytes q.desc⟩] = .error tr) :
    ∃ u, popAll s i = .trap tr u ∧ (unpop s u).gang.streams = s.gang.streams := by
  have hps : popPositions s.gang q = [(l, q.cursor + l)] := by
    rw [popPositions, hlanes]
    rfl
  have hfetch : streamFetch s n (q.cursor + l) = s := streamFetch_eq hq fun hnone => by simp [hdropped] at hnone
  refine ⟨faultMarks s (armAgent s) (apCtx s) (descOvr q.desc) (descBytes q.desc) .read
    [⟨l, elemAddr q.desc (streamIndex q (q.cursor + l)), descBytes q.desc⟩], (popAll_single hpops).trans ?_,
    unpop_streams (congrArg Gang.streams ((SameCore.refl s).faultMarks ..).gang)⟩
  unfold popStream
  rw [hq]
  dsimp -zeta only
  extract_lets ps s1
  have hs1 : s1 = s := by
    change (popPositions s.gang q).foldl (fun s e => streamFetch s n e.2) s = s
    rw [hps]
    exact hfetch
  clear_value s1
  subst hs1
  rw [hq]
  dsimp -zeta only
  rw [streamPast_self, if_neg Bool.false_ne_true]
  extract_lets es els
  have hels : els = [⟨l, elemAddr q.desc (streamIndex q (q.cursor + l)), descBytes q.desc⟩] := by
    change List.filterMap _ (popPositions s1.gang q) = _
    rw [hps]
    simp [hdropped]
    rfl
  clear_value els
  subst hels
  rw [hfails]

theorem streamPops : Claims.StreamPops :=
  fun _ _ _ _ hpops _ hq hopen =>
    ⟨fun x hbound hahead => popsFetched hpops hq hopen x hbound hahead,
      fun _ _ hlanes _ _ hdropped hfails => popsTrapped hpops hq hlanes hdropped hfails⟩

/-- Settles O42: an issue that pops finds its elements fetched, so that its captures alone come before the gang takes them. -/
theorem elementStreams : Obligations.ElementStreams := ⟨elementQueues, streamPops⟩

end Sys2Proof.Machine

/-! SUPPORT. Submission of a job (R200, R201, R203, R207). -/

namespace Sys2Proof.Machine

/-! ### A free entry (R201) -/

theorem mem_liveJobs {s : State} {die : Nat} {j : Job} : j ∈ liveJobs s die ↔ j ∈ s.jobs.list ∧ j.die = die ∧ j.st ≠ .complete := by
  simp [liveJobs]

/-- A scheduler with fewer than 256 incomplete jobs has a free entry. -/
theorem exists_freeEntry {s : State} {die : Nat} (h : (liveJobs s die).length < 256) : ∃ e, freeEntry s die = some e := by
  by_contra hnone
  have hfull : ∀ e, e < 256 → e ∈ (liveJobs s die).map (fun j => j.entry) := by
    intro e he
    have htaken := List.find?_eq_none.1 (Option.eq_none_iff_forall_ne_some.2 (not_exists.1 hnone)) e
      (List.mem_map.2 ⟨(256 - smapGet 0 s.jobs.next die % 256 + e) % 256, List.mem_range.2 (by omega), by omega⟩)
    cases hentry : jobAtEntry s die e with
    | none => simp [hentry] at htaken
    | some j =>
      have hst : j.st ≠ .complete := by simpa [hentry] using htaken
      obtain ⟨hdie, he⟩ : j.die = die ∧ j.entry = e := by simpa using List.find?_some hentry
      exact List.mem_map.2 ⟨j, mem_liveJobs.2 ⟨List.mem_of_find?_eq_some hentry, hdie, hst⟩, he⟩
  have hsub : List.range 256 ⊆ (liveJobs s die).map (fun j => j.entry) := fun e he => hfull e (List.mem_range.1 he)
  have hlen := (List.nodup_range.subperm hsub).length_le
  rw [List.length_range, List.length_map] at hlen
  omega

/-! ### The job that is queued (R201, R203) -/

theorem raiseTime_unit (s : State) {ag : Nat} (hag : 2 ^ 60 ≤ ag) (time : Nat) : ∃ times,
    raiseTime s ag time = { s with caches := { s.caches with times := times } } := ⟨_, if_neg (Nat.not_lt.2 hag)⟩

theorem le_jobNo (h : Nat) : 2 ^ 60 ≤ jobNo h := Nat.le_add_right ..

/-- The state in which the operation of a job for entry `e` has been issued. -/
def jobStarted (s : State) (cn : CtrNo) (e : Nat) : State := (newOp s cn.toNat (.job (s.gang.core / 96) e) [] none true false).2.2

/-- The job that a submission puts into entry `e`. -/
def queuedJob (s : State) (cn : CtrNo) (x : JobSpec) (e : Nat) : Job := newJob (jobStarted s cn e) x e s.serial

/-- The state in which that job is queued, its handle not yet written. -/
def jobQueued (s : State) (cn : CtrNo) (x : JobSpec) (e : Nat) : State :=
  let u := raiseTime (jobStarted s cn e) (jobAg (queuedJob s cn x e)) (gangTime (jobStarted s cn e).gang)
  ceOcc { u with serial := u.serial + 1
                 jobs := { list := u.jobs.list.filter (fun k => !(k.die == s.gang.core / 96 && k.entry == e)) ++ [queuedJob s cn x e]
                           next := smapSet 0 u.jobs.next (s.gang.core / 96) ((e + 1) % 256) } } (s.gang.core / 96)

/-- What a submission changes. -/
theorem jobQueued_eq (s : State) (cn : CtrNo) (x : JobSpec) (e : Nat) : ∃ times mmio next, jobQueued s cn x e =
    { s with serial := s.serial + 1 + 1
             gang := (jobStarted s cn e).gang
             jobs := { list := s.jobs.list.filter (fun k => !(k.die == s.gang.core / 96 && k.entry == e)) ++ [queuedJob s cn x e], next := next }
             caches := { s.caches with times := times }
             mmio := mmio } := by
  obtain ⟨times, htimes⟩ := raiseTime_unit (jobStarted s cn e) (le_jobNo (jobHandle (queuedJob s cn x e))) (gangTime (jobStarted s cn e).gang)
  unfold jobQueued jobAg
  rw [htimes]
  exact ⟨_, _, _, rfl⟩

/-- The state with the handle of the queued job written where it is asked for. -/
def handleWritten (s : State) (cn : CtrNo) (hv : Bool) (d : Nat) (x : JobSpec) (e : Nat) : State :=
  if hv then (jobQueued s cn x e).onGang fun g => writeS g d (BitVec.ofNat 32 (jobHandle (queuedJob s cn x e))) ⟨0, 65535⟩ else jobQueued s cn x e

theorem submitJob_eq {s : State} {e : Nat} (hfree : freeEntry s (s.gang.core / 96) = some e) (cn : CtrNo) (hv : Bool) (d : Nat) (x : JobSpec) :
    submitJob s cn hv d x = .ok (handleWritten s cn hv d x e) := by
  unfold submitJob
  extract_lets die
  rw [show freeEntry s die = some e from hfree]
  dsimp -zeta only
  simp only [startOp_owes_nothing]
  cases hv <;> rfl

theorem jobQueued_issuedOn (s : State) (cn : CtrNo) (x : JobSpec) (e : Nat) :
    Claims.issuedOn s (jobQueued s cn x e) cn.toNat (startedOp s cn (.job (s.gang.core / 96) e) [] [] false) := by
  obtain ⟨times, mmio, next, heq⟩ := jobQueued_eq s cn x e
  rw [heq]
  exact newOp_issuedOn s cn (.job (s.gang.core / 96) e) [] [] false

/-- Writing the handle changes neither jobs nor memory, and of the gang no more than a scalar. -/
theorem handleWritten_eq (s : State) (cn : CtrNo) (hv : Bool) (d : Nat) (x : JobSpec) (e : Nat) : ∃ g,
    handleWritten s cn hv d x e = { jobQueued s cn x e with gang := g } ∧ g.bare = (jobQueued s cn x e).gang.bare := by
  cases hv with
  | false => exact ⟨_, rfl, rfl⟩
  | true =>
    obtain ⟨-, hbare⟩ := wroteS_writeS (jobQueued s cn x e) d (BitVec.ofNat 32 (jobHandle (queuedJob s cn x e))) ⟨0, 65535⟩
    exact ⟨_, rfl, congrArg State.gang hbare⟩

theorem submitted_handleWritten {s : State} {e : Nat} (hfree : freeEntry s (s.gang.core / 96) = some e) (cn : CtrNo) (hv : Bool) (d : Nat)
    (x : JobSpec) : Claims.submitted s (handleWritten s cn hv d x e) cn hv d x := by
  have hissued := jobQueued_issuedOn s cn x e
  obtain ⟨g, hwritten, hbare⟩ := handleWritten_eq s cn hv d x e
  have hjobs : (handleWritten s cn hv d x e).jobs = (jobQueued s cn x e).jobs := by rw [hwritten]
  have hmem : (handleWritten s cn hv d x e).mem = (jobQueued s cn x e).mem := by rw [hwritten]
  have hgang : (jobQueued s cn x e).gang.bare = (handleWritten s cn hv d x e).gang.bare := by rw [hwritten, hbare]
  obtain ⟨times, mmio, next, heq⟩ := jobQueued_eq s cn x e
  have hlist : (jobQueued s cn x e).jobs.list =
      s.jobs.list.filter (fun k => !(k.die == s.gang.core / 96 && k.entry == e)) ++ [queuedJob s cn x e] := by rw [heq]
  refine ⟨_, _, queuedJob s cn x e, hissued, by rw [heq], rfl, rfl, rfl, hgang, hfree, ?_, rfl, rfl, rfl, rfl, rfl, rfl, rfl, rfl, rfl, rfl, rfl,
    rfl, rfl, rfl, fun k hk hother => ?_, hjobs, hmem, fun hv => ?_, fun hv => ?_⟩
  · rw [hlist]
    exact List.mem_append_right _ (List.mem_singleton_self _)
  · rw [hlist]
    exact List.mem_append_left _ (List.mem_filter.2 ⟨hk, by simpa using (not_and_or.1 hother : ¬k.die = _ ∨ ¬k.entry = e)⟩)
  · rw [handleWritten, hv]
    rfl
  · rw [handleWritten, hv]
    exact wroteS_writeS ..

/-- A submission with room completes. -/
theorem submitJob_ok {s : State} {cn : CtrNo} (hroom : (liveJobs s (s.gang.core / 96)).length < 256) (hv : Bool) (d : Nat) (x : JobSpec) :
    ∃ t, submitJob s cn hv d x = .ok t ∧ Claims.submitted s t cn hv d x := by
  obtain ⟨e, hfree⟩ := exists_freeEntry hroom
  exact ⟨_, submitJob_eq hfree cn hv d x, submitted_handleWritten hfree cn hv d x⟩

theorem withScheduler_ok {s : State} (h : (liveJobs s (s.gang.core / 96)).length < 256) (body : State → Exe) : withScheduler s body = body s :=
  if_neg (Nat.not_le.2 h)

end Sys2Proof.Machine

/-! SUPPORT. The completion of a job (R205). -/

namespace Sys2Proof.Machine

/-- Between `s` and `t` no job came or went or had its operation changed, and the gang at hand and memory stayed. -/
structure SameWork (s t : State) : Prop where
  mem : t.mem = s.mem
  live : t.live = s.live
  serial : t.serial = s.serial
  gang : t.gang = s.gang
  jobs : ∃ f : Job → Job, t.jobs.list = s.jobs.list.map f ∧ ∀ j, (f j).serial = j.serial ∧ (f j).op = j.op

namespace SameWork

theorem refl (s : State) : SameWork s s := ⟨rfl, rfl, rfl, rfl, id, (List.map_id _).symm, fun _ => ⟨rfl, rfl⟩⟩

variable {s t : State}

/-- An update of other fields. -/
theorem upd {u : State} (h : SameWork s t) (hmem : u.mem = t.mem) (hlive : u.live = t.live) (hserial : u.serial = t.serial)
    (hgang : u.gang = t.gang) (hjobs : u.jobs.list = t.jobs.list) : SameWork s u := by
  obtain ⟨f, hf, hkept⟩ := h.jobs
  exact ⟨hmem.trans h.mem, hlive.trans h.live, hserial.trans h.serial, hgang.trans h.gang, f, hjobs.trans hf, hkept⟩

/-- An update of each job. -/
theorem updJobs {u : State} (h : SameWork s t) (hmem : u.mem = t.mem) (hlive : u.live = t.live) (hserial : u.serial = t.serial)
    (hgang : u.gang = t.gang) {g : Job → Job} (hjobs : u.jobs.list = t.jobs.list.map g)
    (hg : ∀ j, (g j).serial = j.serial ∧ (g j).op = j.op) : SameWork s u := by
  obtain ⟨f, hf, hkept⟩ := h.jobs
  refine ⟨hmem.trans h.mem, hlive.trans h.live, hserial.trans h.serial, hgang.trans h.gang, fun j => g (f j), ?_, fun j => ?_⟩
  · rw [hjobs, hf, List.map_map]
    rfl
  · exact ⟨(hg _).1.trans (hkept j).1, (hg _).2.trans (hkept j).2⟩

theorem foldl {β : Type} {f : State → β → State} (hf : ∀ t x, SameWork s t → SameWork s (f t x)) (xs : List β) (h : SameWork s t) :
    SameWork s (xs.foldl f t) := by
  induction xs generalizing t with
  | nil => exact h
  | cons x xs ih => exact ih (hf t x h)

variable (h : SameWork s t)
include h

theorem chargeSusp (upto : Nat) (r : Reserve) : SameWork s (chargeSusp t upto r) := by
  unfold Machine.chargeSusp
  split
  · refine h.updJobs rfl rfl rfl rfl rfl fun j => ?_
    split <;> exact ⟨rfl, rfl⟩
  · exact h

theorem rsvBits (n : Nat) : SameWork s (rsvBits t n) := h.upd rfl rfl rfl rfl rfl

theorem dropReserves (p : Reserve → Bool) : SameWork s (dropReserves t p) := by
  have hcharged := foldl (f := fun s r => Machine.chargeSusp s s.cc r) (fun u r h => h.chargeSusp u.cc r) (t.dram.reserves.filter p) h
  unfold Machine.dropReserves
  exact foldl (fun _ _ h => h.rsvBits _) _ (hcharged.upd rfl rfl rfl rfl rfl)

theorem raiseTime {ag : Nat} (hag : 2 ^ 60 ≤ ag) (time : Nat) : SameWork s (raiseTime t ag time) := by
  obtain ⟨times, htimes⟩ := raiseTime_unit t hag time
  rw [htimes]
  exact h.upd rfl rfl rfl rfl rfl

end SameWork

/-- Between `s` and `t` a cause may have come to pend in the gang at hand; its other fields, jobs and memory stayed. -/
structure SameButPend (s t : State) : Prop where
  mem : t.mem = s.mem
  live : t.live = s.live
  serial : t.serial = s.serial
  jobs : t.jobs = s.jobs
  gang : ∃ pend, t.gang = { s.gang with pend := pend }

namespace SameButPend

theorem refl (s : State) : SameButPend s s := ⟨rfl, rfl, rfl, rfl, _, rfl⟩

theorem addPend {s t : State} (h : SameButPend s t) (id : Nat) (p : Pend) : SameButPend s (onGangId t id (addPend · p)) := by
  obtain ⟨pend, hgang⟩ := h.gang
  refine ⟨h.mem, h.live, h.serial, h.jobs, ?_⟩
  unfold onGangId mapGangs
  dsimp only
  rw [hgang]
  split_ifs
  · exact ⟨_, rfl⟩
  · exact ⟨_, rfl⟩
  · exact ⟨_, rfl⟩

theorem jobPend (s : State) (j : Job) (st why fa : Nat) : SameButPend s (jobPend s j st why fa) := by
  unfold Machine.jobPend
  split
  · exact refl s
  · next g o _ =>
    have hcause : SameButPend s (if st = 2 ∨ st = 3 ∨ st = 5 then onGangId s j.gang (fun g => Machine.addPend g
        ⟨o.ctr, o.ticket, causeJob, if st = 2 then why else 0, if st = 2 then BitVec.ofNat 64 fa else 0, 0, 0⟩) else s) := by
      split
      · exact (refl s).addPend ..
      · exact refl s
    dsimp only
    split
    · exact hcause.addPend ..
    · exact hcause

end SameButPend

/-- An operation that a job's completion has finished. -/
def finished (op time : Nat) (o : Op) : Op := if o.id = op then { o with done := true, time := Max.max o.time time } else o

theorem finishOp_gang {s : State} (hlive : s.live = true) (op time : Nat) :
    (finishOp s s.gang.id op time).gang = { s.gang with ops := s.gang.ops.map (finished op time) } :=
  (gang_mapGangs hlive _).trans (if_pos rfl)

theorem finishOp_registers (s : State) (id op time : Nat) :
    (finishOp s id op time).gang.v = s.gang.v ∧ (finishOp s id op time).gang.s = s.gang.s := by
  unfold finishOp onGangId mapGangs
  dsimp only
  split_ifs <;> exact ⟨rfl, rfl⟩

/-- Of a list of jobs that were updated under their serial numbers. -/
theorem find?_serial_map {f : Job → Job} (hf : ∀ j, (f j).serial = j.serial) (js : List Job) (n : Nat) :
    (js.map f).find? (fun k => k.serial == n) = (js.find? (fun k => k.serial == n)).map f := by
  rw [List.find?_map]
  have hsame : (fun k : Job => k.serial == n) ∘ f = fun k => k.serial == n := funext fun k => by rw [Function.comp_apply, hf]
  rw [hsame]

/-- What is left of a job that is complete (R205). -/
def endedJob (n st why fa : Nat) (j : Job) : Job :=
  if j.serial == n then { j with st := .complete, res := some (st, why, fa), buf := [], left := [], near := [], deps := [] } else j

/-- What the completion of job `j` leaves in `t`. -/
structure Ended (s t : State) (j : Job) (st why fa : Nat) : Prop where
  mem : t.mem = s.mem
  serial : t.serial = s.serial
  vectors : t.gang.v = s.gang.v
  scalars : t.gang.s = s.gang.s
  job : ∃ k, t.jobs.list.find? (fun k => k.serial == j.serial) = some k ∧ k.st = .complete ∧ k.res = some (st, why, fa) ∧ k.op = j.op
  ops : j.gang = s.gang.id → ∃ time, t.gang.ops = s.gang.ops.map (finished j.op time)

theorem completeJob_ended {s : State} (hlive : s.live = true) {j : Job} {n : Nat} (hj : s.jobs.list.find? (fun k => k.serial == n) = some j)
    (st why fa : Nat) : Ended s (completeJob s n st why fa) j st why fa := by
  obtain rfl : j.serial = n := by simpa using List.find?_some hj
  unfold completeJob
  rw [show jobBySerial s j.serial = some j from hj]
  dsimp -zeta only
  extract_lets s1 bad after time s2 _ s4 s5 s6 s7
  have hwork : SameWork s s4 := by
    have hreserves : SameWork s s1 := (SameWork.refl s).dropReserves _
    have htimes : SameWork s s2 := hreserves.foldl (fun _ _ h => h.raiseTime (le_jobNo _) _) _
    refine htimes.updJobs (g := after) rfl rfl rfl rfl rfl fun k => ?_
    simp only [after]
    split <;> exact ⟨rfl, rfl⟩
  clear_value s4
  have hcounted : s7.mem = s4.mem ∧ s7.live = s4.live ∧ s7.serial = s4.serial ∧ s7.gang = s4.gang ∧
      s7.jobs.list = s4.jobs.list.map (endedJob j.serial st why fa) := by
    simp only [s7]
    split <;> exact ⟨rfl, rfl, rfl, rfl, rfl⟩
  clear_value s7
  obtain ⟨hmem, hlive7, hserial, hgang, hjobs⟩ := hcounted
  obtain ⟨f, hf, hkept⟩ := hwork.jobs
  have hpend := SameButPend.jobPend (raiseLaunch s7 j.launch time) j st why fa
  generalize jobPend (raiseLaunch s7 j.launch time) j st why fa = u at hpend
  obtain ⟨pend, hpendGang⟩ := hpend.gang
  have hu : u.gang = { s.gang with pend := pend } := by rw [hpendGang, ← hwork.gang, ← hgang]; rfl
  have hlist : u.jobs.list = s.jobs.list.map (fun k => endedJob j.serial st why fa (f k)) := by
    rw [hpend.jobs]
    change s7.jobs.list = _
    rw [hjobs, hf, List.map_map]
    rfl
  have hended : ∀ k, (endedJob j.serial st why fa (f k)).serial = k.serial := by
    intro k
    rw [← (hkept k).1, endedJob]
    split <;> rfl
  refine ⟨hpend.mem.trans (hmem.trans hwork.mem), hpend.serial.trans (hserial.trans hwork.serial), ?_, ?_, ?_, fun hown => ?_⟩
  · exact (finishOp_registers u j.gang j.op time).1.trans (by rw [hu])
  · exact (finishOp_registers u j.gang j.op time).2.trans (by rw [hu])
  · refine ⟨endedJob j.serial st why fa (f j), ?_, ?_⟩
    · change u.jobs.list.find? _ = _
      rw [hlist, find?_serial_map hended, hj]
      rfl
    · have hself : ((f j).serial == j.serial) = true := by simp [(hkept j).1]
      rw [endedJob, if_pos hself]
      exact ⟨rfl, rfl, (hkept j).2⟩
  · have hid : u.gang.id = j.gang := by rw [hu, hown]
    have hulive : u.live = true := hpend.live.trans (hlive7.trans (hwork.live.trans hlive))
    refine ⟨time, ?_⟩
    change (finishOp u j.gang j.op time).gang.ops = _
    rw [← hid, finishOp_gang hulive, hu]

end Sys2Proof.Machine

/-! SUPPORT. CPY and CPYB (R207, R213 to R215, R247). -/

namespace Sys2Proof.Machine

/-! ### Ranges of indices (R247) -/

theorem rangeOutside_within {i : Int} {n ext : Nat} (hlow : 0 ≤ i) (hhigh : i + n ≤ ext) : rangeOutside i n ext = none :=
  if_pos (.inr ⟨hlow, hhigh⟩)

theorem rangeOutside_negative {i : Int} {n : Nat} (hn : 1 ≤ n) (hi : i < 0) (ext : Nat) : rangeOutside i n ext = some i := by
  unfold rangeOutside
  rw [if_neg (by omega), if_pos hi]

theorem rangeOutside_past {i : Int} {n ext : Nat} (hn : 1 ≤ n) (hi : 0 ≤ i) (hpast : (ext : Int) < i + n) :
    rangeOutside i n ext = some (Max.max i ext) := by
  unfold rangeOutside
  rw [if_neg (by omega), if_neg (by omega)]

/-- BoundsTrap for an index (R247). -/
theorem rangeTrap_faddr (g : Gang) (i : Int) : BitVec.ofNat 64 (rangeTrap g i).faddr = BitVec.ofInt 64 i := sext64_eq i

theorem rangeTrap_negative (g : Gang) {i : Int} (hi : i < 0) : (rangeTrap g i).reason = 1 := if_pos hi

theorem rangeTrap_past (g : Gang) {i : Int} (hi : 0 ≤ i) : (rangeTrap g i).reason = 2 := if_neg (Int.not_lt.2 hi)

/-- An empty span touches no aperture (R86). -/
theorem spanStack_empty (p : ApCtx) {x : Span} (h : x.len = 0) : spanStack p x = none := if_neg fun ⟨_, hlen, _⟩ => hlen h

/-! ### What CPY and CPYB check (R215) -/

/-- The operands of a copy that passes its first checks. -/
structure CopyReady (s : State) (aa ab : DescNo) (cn : CtrNo) : Prop where
  room : Claims.jobRoom s cn
  freeA : owedDesc s.gang aa.toNat = false
  freeB : owedDesc s.gang ab.toNat = false
  bytes : descBytes (readA s.gang aa.toNat) ≠ 0
  sizes : descEs (readA s.gang aa.toNat) = descEs (readA s.gang ab.toNat)

/-- The destination's and the source's range of a copy that are not within their extents. -/
def dstOutside (s : State) (aa : DescNo) (e : Nat) : Option Int :=
  rangeOutside (readS s.gang e).toInt (readS s.gang (e + 2)).toNat (descExtent (readA s.gang aa.toNat))

def srcOutside (s : State) (ab : DescNo) (e : Nat) : Option Int :=
  rangeOutside (readS s.gang (e + 1)).toInt (readS s.gang (e + 2)).toNat (descExtent (readA s.gang ab.toNat))

/-- The spans of a copy. -/
def copyDst (s : State) (aa : DescNo) (e : Nat) : Span :=
  ⟨descOvr (readA s.gang aa.toNat), elemAddr (readA s.gang aa.toNat) (readS s.gang e).toInt,
    (readS s.gang (e + 2)).toNat * descBytes (readA s.gang aa.toNat)⟩

def copySrc (s : State) (aa ab : DescNo) (e : Nat) : Span :=
  ⟨descOvr (readA s.gang ab.toNat), elemAddr (readA s.gang ab.toNat) (readS s.gang (e + 1)).toInt,
    (readS s.gang (e + 2)).toNat * descBytes (readA s.gang aa.toNat)⟩

section

variable {s : State} {aa ab : DescNo} {cn : CtrNo} {e : Nat} (h : CopyReady s aa ab cn) (bulk : Bool) (bt : BitVec 5) (hv : Bool) (d : Nat)
include h

/-- A range outside its extent traps, the destination's first. -/
theorem copyBody_outside {i : Int} (hout : dstOutside s aa e = some i ∨ dstOutside s aa e = none ∧ srcOutside s ab e = some i) :
    copyBody bulk bt hv d aa ab e cn s = .trap (rangeTrap s.gang i) s := by
  obtain ⟨⟨hctr, hsched⟩, hfreeA, hfreeB, hbytes, hsizes⟩ := h
  unfold copyBody
  rw [withCtr_ok hctr, withDesc_ok hfreeA, withDesc_ok hfreeB, withScheduler_ok hsched]
  dsimp only
  unfold dstOutside srcOutside at hout
  rw [if_neg (not_or.2 ⟨hbytes, not_not.2 hsizes⟩)]
  obtain hdst | ⟨hdst, hsrc⟩ := hout
  · rw [hdst]
  · rw [hdst, hsrc]

/-- Ranges within their extents, clear of the lane stack, are submitted. -/
theorem copyBody_within (hdst : dstOutside s aa e = none) (hsrc : srcOutside s ab e = none)
    (hdstStack : spanStack (apCtx s) (copyDst s aa e) = none) (hsrcStack : spanStack (apCtx s) (copySrc s aa ab e) = none) :
    copyBody bulk bt hv d aa ab e cn s = if (readS s.gang (e + 2)).toNat = 0 then
        (submitJob s cn hv d ⟨.none, [], [], btOf bt, some (0, 0, 0)⟩).bind (fun t => .ok (completeJob t (t.serial - 1) 0 0 0))
      else submitJob s cn hv d ⟨.copy bulk [copySrc s aa ab e] [copyDst s aa e], spanRegions (apCtx s) [copySrc s aa ab e],
        spanRegions (apCtx s) [copyDst s aa e], btOf bt, none⟩ := by
  obtain ⟨⟨hctr, hsched⟩, hfreeA, hfreeB, hbytes, hsizes⟩ := h
  unfold copyBody
  rw [withCtr_ok hctr, withDesc_ok hfreeA, withDesc_ok hfreeB, withScheduler_ok hsched]
  dsimp only
  unfold dstOutside at hdst
  unfold srcOutside at hsrc
  unfold copyDst at hdstStack
  unfold copySrc at hsrcStack
  rw [if_neg (not_or.2 ⟨hbytes, not_not.2 hsizes⟩), hdst, hsrc]
  dsimp only
  rw [hdstStack, hsrcStack]
  rfl

end

end Sys2Proof.Machine

/-! SUPPORT. What CPY and CPYB submit (R207, R213 to R215). -/

namespace Sys2Proof.Machine

/-! ### Copies of no element (R215) -/

/-- The gang past a submission, whether or not its handle is written. -/
theorem handleWritten_gang (s : State) (cn : CtrNo) (hv : Bool) (d : Nat) (x : JobSpec) (e : Nat) :
    (handleWritten s cn hv d x e).gang.ops = s.gang.ops ++ [startedOp s cn (.job (s.gang.core / 96) e) [] [] false] ∧
      (handleWritten s cn hv d x e).gang.id = s.gang.id := by
  obtain ⟨g, hwritten, hbare⟩ := handleWritten_eq s cn hv d x e
  obtain ⟨times, mmio, next, heq⟩ := jobQueued_eq s cn x e
  rw [heq] at hbare
  have hops : g.bare.ops = (jobStarted s cn e).gang.bare.ops := by rw [hbare]
  have hid : g.bare.id = (jobStarted s cn e).gang.bare.id := by rw [hbare]
  rw [hwritten]
  exact ⟨hops, hid⟩

theorem handleWritten_frame (s : State) (cn : CtrNo) (hv : Bool) (d : Nat) (x : JobSpec) (e : Nat) :
    (handleWritten s cn hv d x e).live = s.live ∧ (handleWritten s cn hv d x e).serial = s.serial + 2 ∧
      (handleWritten s cn hv d x e).jobs.list =
        s.jobs.list.filter (fun k => !(k.die == s.gang.core / 96 && k.entry == e)) ++ [queuedJob s cn x e] := by
  obtain ⟨g, hwritten, -⟩ := handleWritten_eq s cn hv d x e
  obtain ⟨times, mmio, next, heq⟩ := jobQueued_eq s cn x e
  rw [hwritten, heq]
  exact ⟨rfl, rfl, rfl⟩

/-- The newest job bears a serial number of its own. -/
theorem find?_queuedJob {s : State} (hold : ∀ k ∈ s.jobs.list, k.serial < s.serial) (cn : CtrNo) (hv : Bool) (d : Nat) (x : JobSpec) (e : Nat) :
    (handleWritten s cn hv d x e).jobs.list.find? (fun k => k.serial == s.serial + 1) = some (queuedJob s cn x e) := by
  obtain ⟨-, -, hlist⟩ := handleWritten_frame s cn hv d x e
  have hnone : (s.jobs.list.filter (fun k => !(k.die == s.gang.core / 96 && k.entry == e))).find? (fun k => k.serial == s.serial + 1) = none := by
    refine List.find?_eq_none.2 fun k hk => ?_
    have hlt := hold k (List.mem_filter.1 hk).1
    simp only [beq_iff_eq]
    omega
  have hserial : ((queuedJob s cn x e).serial == s.serial + 1) = true := beq_self_eq_true _
  rw [hlist, List.find?_append, hnone, Option.none_or]
  exact List.find?_cons_of_pos hserial

theorem done_of_mem_finished {op time : Nat} {os : List Op} {o : Op} (h : o ∈ os.map (finished op time)) (hid : o.id = op) : o.done = true := by
  obtain ⟨p, -, rfl⟩ := List.mem_map.1 h
  by_cases hp : p.id = op
  · rw [finished, if_pos hp]
  · rw [finished, if_neg hp] at hid
    exact absurd hid hp

theorem finished_self (op time : Nat) {o : Op} (h : o.id = op) :
    finished op time o = { o with done := true, time := Max.max o.time time } := if_pos h

/-- A copy of no element is submitted, and its job is complete at once. -/
theorem emptyCopy {s : State} {cn : CtrNo} (hlive : s.live = true) (hroom : (liveJobs s (s.gang.core / 96)).length < 256)
    (hold : ∀ k ∈ s.jobs.list, k.serial < s.serial) (hv : Bool) (d : Nat) (x : JobSpec) :
    ∃ u t k, (submitJob s cn hv d x).bind (fun t => .ok (completeJob t (t.serial - 1) 0 0 0)) = .ok t ∧ Claims.submitted s u cn hv d x ∧
      t.mem = u.mem ∧ t.gang.v = u.gang.v ∧ t.gang.s = u.gang.s ∧ t.jobs.list.find? (fun k => k.serial == t.serial - 1) = some k ∧
      k.st = .complete ∧ k.res = some (0, 0, 0) ∧ (∀ o ∈ t.gang.ops, o.id = k.op → o.done = true) ∧
      ∃ o ∈ t.gang.ops, o.id = k.op ∧ o.ctr = cn.toNat := by
  obtain ⟨e, hfree⟩ := exists_freeEntry hroom
  obtain ⟨hops, hid⟩ := handleWritten_gang s cn hv d x e
  obtain ⟨hulive, hserial, -⟩ := handleWritten_frame s cn hv d x e
  have hfind := find?_queuedJob hold cn hv d x e
  have hended := completeJob_ended (hulive.trans hlive) hfind 0 0 0
  have hnumber : (handleWritten s cn hv d x e).serial - 1 = s.serial + 1 := by omega
  obtain ⟨k, hk, hst, hres, hop⟩ := hended.job
  obtain ⟨time, htimes⟩ := hended.ops hid.symm
  refine ⟨_, completeJob (handleWritten s cn hv d x e) (s.serial + 1) 0 0 0, k, ?_, submitted_handleWritten hfree cn hv d x, hended.mem,
    hended.vectors, hended.scalars, ?_, hst, hres, fun o ho heq => ?_, ?_⟩
  · rw [submitJob_eq hfree, ← hnumber]
    rfl
  · rw [hended.serial, hnumber]
    exact hk
  · rw [htimes] at ho
    exact done_of_mem_finished ho (heq.trans hop)
  · have hstarted := finished_self (queuedJob s cn x e).op time (o := startedOp s cn (.job (s.gang.core / 96) e) [] [] false) rfl
    refine ⟨finished (queuedJob s cn x e).op time (startedOp s cn (.job (s.gang.core / 96) e) [] [] false), ?_, ?_, ?_⟩
    · rw [htimes, hops]
      exact List.mem_map_of_mem (List.mem_append_right _ (List.mem_singleton_self _))
    · rw [hop, hstarted]
      rfl
    · rw [hstarted]
      rfl

/-! ### Issue (R207, R215) -/

theorem strm_handle (hv : Bool) (d : Nat) : ∀ u ∈ (if hv then uW d 1 else []), u.strm = false := by
  cases hv with
  | false => exact fun _ hu => nomatch hu
  | true => exact strm_uW d 1

theorem exec_copy {i : Instr} {bulk : Bool} {bt : BitVec 5} {hv : Bool} {d : Reg} {aa ab : DescNo} {e : Reg} {cn : CtrNo}
    (hi : (i = .cpy bt hv d aa ab e cn ∧ bulk = false) ∨ (i = .cpyb bt hv d aa ab e cn ∧ bulk = true)) (s : State) :
    exec i s = issue i false s (fun s => copyBody bulk bt hv d.toNat aa ab e.toNat cn s) ∧ ∀ u ∈ uses i, u.strm = false := by
  obtain ⟨rfl, rfl⟩ | ⟨rfl, rfl⟩ := hi
  · exact ⟨rfl, strm_append (strm_handle hv d.toNat) (strm_uB e.toNat 3)⟩
  · exact ⟨rfl, strm_append (strm_handle hv d.toNat) (strm_uB e.toNat 3)⟩

theorem copySubmission : Claims.CopySubmission := by
  intro i bulk bt hv d aa ab e cn s s1 hi hissue hroom hfreeA hfreeB a b es di si n dst src hbytes hsizes
  obtain ⟨hexec, huses⟩ := exec_copy hi s
  obtain rfl := eq_of_issues hissue huses
  have hready : CopyReady s1 aa ab cn := ⟨hroom, hfreeA, hfreeB, hbytes, hsizes⟩
  refine ⟨fun hn hdi hdiEnd hsi hsiEnd hdst hsrc => ?_, fun hn hold => ?_, fun hn => ⟨fun hdi => ?_, fun hdi hpast => ?_, fun hdi hdiEnd hsi => ?_,
    fun hdi hdiEnd hsi hpast => ?_⟩⟩
  · obtain ⟨t, hsubmit, hsubmitted⟩ := submitJob_ok hroom.2 hv d.toNat (cn := cn)
      ⟨.copy bulk [src] [dst], spanRegions (apCtx s1) [src], spanRegions (apCtx s1) [dst], if bt = 0 then none else some (bt.toNat - 1), none⟩
    have hbody := copyBody_within hready bulk bt hv d.toNat (rangeOutside_within hdi hdiEnd) (rangeOutside_within hsi hsiEnd) hdst hsrc
    rw [if_neg (by omega)] at hbody
    exact ⟨t, hexec.trans (issue_ok hissue (hbody.trans hsubmit)), hsubmitted⟩
  · have hempty : n * es = 0 := by rw [hn, Nat.zero_mul]
    have hbody := copyBody_within hready bulk bt hv d.toNat (e := e.toNat) (if_pos (.inl hn)) (if_pos (.inl hn)) (spanStack_empty _ hempty)
      (spanStack_empty _ hempty)
    rw [if_pos hn] at hbody
    obtain ⟨u, t, k, ht, hrest⟩ := emptyCopy (cn := cn) hissue.live hroom.2 hold hv d.toNat
      ⟨.none, [], [], if bt = 0 then none else some (bt.toNat - 1), some (0, 0, 0)⟩
    exact ⟨u, t, k, hexec.trans (issue_ok hissue (hbody.trans ht)), hrest⟩
  · have hbody := copyBody_outside hready bulk bt hv d.toNat (e := e.toNat) (.inl (rangeOutside_negative hn hdi _))
    exact ⟨_, hexec.trans (issue_trap hissue hbody), rfl, rangeTrap_negative _ hdi, rangeTrap_faddr .., rfl⟩
  · have hbody := copyBody_outside hready bulk bt hv d.toNat (e := e.toNat) (.inl (rangeOutside_past hn hdi hpast))
    exact ⟨_, hexec.trans (issue_trap hissue hbody), rfl, rangeTrap_past _ (le_trans hdi (le_max_left ..)), rangeTrap_faddr .., rfl⟩
  · have hbody := copyBody_outside hready bulk bt hv d.toNat (e := e.toNat)
      (.inr ⟨rangeOutside_within hdi hdiEnd, rangeOutside_negative hn hsi _⟩)
    exact ⟨_, hexec.trans (issue_trap hissue hbody), rfl, rangeTrap_negative _ hsi, rangeTrap_faddr .., rfl⟩
  · have hbody := copyBody_outside hready bulk bt hv d.toNat (e := e.toNat)
      (.inr ⟨rangeOutside_within hdi hdiEnd, rangeOutside_past hn hsi hpast⟩)
    exact ⟨_, hexec.trans (issue_trap hissue hbody), rfl, rangeTrap_past _ (le_trans hsi (le_max_left ..)), rangeTrap_faddr .., rfl⟩

end Sys2Proof.Machine

/-! SUPPORT. The card of a JOB (R210, R211, R217). -/

namespace Sys2Proof.Machine

/-! ### Reading a card in the scratchpad (R177, R217) -/

/-- Between `s` and `t` no more has changed than what the reads of sound bank units change: the units' own state, registers of theirs, stamps and
times. -/
def ReadFrom (s t : State) : Prop := ∃ (b : Banks) (m : List (Nat × DWord)) (c : Caches) (time : Nat),
  t = { s with banks := b, mmio := m, caches := c, gang := { s.gang with arm := { s.gang.arm with ltime := time } } }

namespace ReadFrom

theorem refl (s : State) : ReadFrom s s := ⟨_, _, _, _, rfl⟩

theorem trans {s t u : State} (hst : ReadFrom s t) (htu : ReadFrom t u) : ReadFrom s u := by
  obtain ⟨b, m, c, time, rfl⟩ := hst
  obtain ⟨b', m', c', time', rfl⟩ := htu
  exact ⟨_, _, _, _, rfl⟩

theorem foldl {β : Type} {f : State → β → State} (hf : ∀ t x, ReadFrom t (f t x)) (xs : List β) (s : State) : ReadFrom s (xs.foldl f s) := by
  induction xs generalizing s with
  | nil => exact refl s
  | cons x xs ih => exact (hf s x).trans (ih _)

theorem wakeTouched {s : State} (h : s.banks.errors = []) (u : Nat) : ReadFrom s (wakeTouched s u) := by
  unfold Machine.wakeTouched wakeUnit unitErrors
  simp only [h, List.filter_nil, List.foldl_nil]
  split_ifs <;> exact ⟨_, _, _, _, rfl⟩

theorem wakesTouched (us : List Nat) {s : State} (h : s.banks.errors = []) : ReadFrom s (us.foldl Machine.wakeTouched s) := by
  induction us generalizing s with
  | nil => exact refl s
  | cons u us ih => exact (wakeTouched h u).trans (ih ((Reaches.wakeTouched h u).errors.trans h))

theorem touchUnit {s : State} (h : s.banks.errors = []) (scratch : Bool) (off n : Nat) : ReadFrom s (touchUnit s scratch off n) := by
  have hunits := wakesTouched (natRange (unitOf scratch off) (unitOf scratch (off + n - 1) + 1 - unitOf scratch off)) h
  have herrors := (Reaches.wakesTouched (natRange (unitOf scratch off) (unitOf scratch (off + n - 1) + 1 - unitOf scratch off)) h).errors.trans h
  unfold Machine.touchUnit
  simp only [herrors, List.filter_nil, List.foldl_nil]
  exact hunits.trans ⟨_, _, _, _, rfl⟩

theorem setAgentTime (s : State) (ag time : Nat) : ReadFrom s (setAgentTime s ag time) := by
  unfold Machine.setAgentTime
  split
  · exact ⟨_, _, _, _, rfl⟩
  · exact ⟨_, _, _, _, rfl⟩

theorem orderReads (s : State) (ag : Nat) (ks : List Nat) : ReadFrom s (orderReads s ag ks) :=
  (foldl (fun _ _ => ⟨_, _, _, _, rfl⟩) ks s).trans (setAgentTime ..)

end ReadFrom

/-- A card in the scratchpad lies whole in its aperture (R86). -/
theorem offset_of_resolve_scratch {p : ApCtx} {a n off : Nat} (h : resolve p 0 a n 0 = .ok (.scratch off)) :
    a % 2 ^ 57 / 2 ^ 40 = p.apVa ∧ a % 2 ^ 40 + n ≤ 2 ^ 19 := by
  rw [resolve, if_neg (by decide), if_neg (by decide)] at h
  by_cases hcanon : (!canonical a) = true
  · rw [if_pos hcanon] at h
    cases h
  rw [if_neg hcanon, if_neg (by decide)] at h
  by_cases harea : (!inArea p a) = true
  · rw [if_pos harea] at h
    split at h <;> cases h
  rw [if_neg harea] at h
  dsimp only at h
  by_cases hlow : a % 2 ^ 40 < 2 ^ 19
  · rw [if_pos hlow] at h
    split_ifs at h with hpast
    exact ⟨by simpa [inArea] using harea, by omega⟩
  · rw [if_neg hlow] at h
    split_ifs at h <;> cases h

/-- Such a card has no byte in the lane stack's aperture. -/
theorem spanStack_of_resolve_scratch {p : ApCtx} {a n off : Nat} (h : resolve p 0 a n 0 = .ok (.scratch off)) :
    spanStack p ⟨0, a, n⟩ = none := by
  obtain ⟨harea, hlow⟩ := offset_of_resolve_scratch h
  unfold spanStack
  refine if_neg fun ⟨_, _, _, _, hmeets⟩ => ?_
  dsimp only at hmeets
  omega

theorem jobPlace_scratch {s : State} {j : Job} {a n off : Nat} (h : resolve (jobAp s j) 0 a n 0 = .ok (.scratch off)) (kind : AccKindF) :
    jobPlace s j kind ⟨0, 0, a, n⟩ = (.ok (.scr off), s) := by
  unfold jobPlace
  dsimp only
  rw [spanStack_of_resolve_scratch h, h]
  simp [Nat.mod_one]

/-- The bytes of a scratchpad without poison. -/
theorem jobRead_scratch {s : State} (herrors : s.banks.errors = []) (hclean : s.mem.scratchPoison = []) (ag : Nat) (j : Job) (n off : Nat) :
    ReadFrom s (jobRead s ag j true n (.scr off)).2 ∧ (jobRead s ag j true n (.scr off)).1 =
      (cellsRead s.mem.scratch (scrKey (jobAp s j).core ((jobAp s j).scrBase + off)) n).map fun x => ⟨x, false⟩ := by
  have hread := (ReadFrom.touchUnit herrors true (scrKey (jobAp s j).core ((jobAp s j).scrBase + off)) n).trans
    (.orderReads _ ag (linesOf (scrLine (scrKey (jobAp s j).core ((jobAp s j).scrBase + off))) n))
  refine ⟨hread, ?_⟩
  unfold jobRead
  dsimp only
  obtain ⟨b, m, c, time, heq⟩ := hread
  rw [heq, cellsRead_eq, List.map_map]
  refine List.map_congr_left fun i _ => ?_
  simp only [scrRead, cellsRead_eq, hclean, scrKey, Function.comp_apply, Nat.add_assoc]
  rfl

theorem firstBad_clean (bs : List Byte) : firstBad (bs.map fun x => ⟨x, false⟩) = none := by
  refine List.find?_eq_none.2 fun i _ => ?_
  cases h : bs[i]? <;> simp [h]

theorem readCard_misaligned {s : State} {a : Nat} (h : a % 128 ≠ 0) : readCard s a = (badCard 0x13 a, s) := if_pos h

theorem ReadFrom.apCtx {s t : State} (h : ReadFrom s t) : apCtx t = Machine.apCtx s := by
  obtain ⟨b, m, c, time, rfl⟩ := h
  rfl

/-- A card that passes its checks is read, and its job is what its bytes ask for unless one of them is poisoned. -/
theorem readCard_placed {s : State} {a : Nat} {p : JPlace} (halign : a % 128 = 0)
    (hplace : jobPlace s (cardAgent s) .read ⟨0, 0, a, 128⟩ = (.ok p, s)) {b : List MByte × State}
    (hread : jobRead s (armNo s) (cardAgent s) true 128 p = b) :
    readCard s a = match firstBad b.1 with
      | some i => (badCard 0x14 (a + i / 64 * 64), b.2)
      | none => (cardJob (apCtx b.2) (b.1.map (fun e => e.val)), b.2) := by
  subst hread
  unfold readCard
  rw [if_neg (not_not.2 halign)]
  extract_lets j r
  have hr : r = (.ok p, s) := hplace
  clear_value r
  subst hr
  -- The kernel need not run the read.
  generalize jobRead = read
  rfl

/-- A card in the scratchpad (R217). -/
theorem readCard_scratch {s : State} {a off : Nat} (halign : a % 128 = 0)
    (hplace : resolve (jobAp s (cardAgent s)) 0 a 128 0 = .ok (.scratch off)) (herrors : s.banks.errors = []) (hclean : s.mem.scratchPoison = []) :
    ∃ u, ReadFrom s u ∧ readCard s a = (cardJob (apCtx s)
      (cellsRead s.mem.scratch (scrKey (jobAp s (cardAgent s)).core ((jobAp s (cardAgent s)).scrBase + off)) 128), u) := by
  obtain ⟨hread, hbytes⟩ := jobRead_scratch herrors hclean (armNo s) (cardAgent s) 128 off
  generalize hb : jobRead s (armNo s) (cardAgent s) true 128 (.scr off) = b at hread hbytes
  have hvals : b.1.map (fun e => e.val) =
      cellsRead s.mem.scratch (scrKey (jobAp s (cardAgent s)).core ((jobAp s (cardAgent s)).scrBase + off)) 128 := by
    rw [hbytes, List.map_map]
    exact List.map_id _
  refine ⟨b.2, hread, (readCard_placed halign (jobPlace_scratch hplace .read) hb).trans ?_⟩
  rw [hvals, hread.apCtx, hbytes, firstBad_clean]

/-- A malformed card (R210, R211). -/
theorem cardJob_malformed (p : ApCtx) {bs : List Byte} (h : cardOk bs = false) : (cardJob p bs).res = some (5, 0, 0) := by
  rw [cardJob, h]
  rfl

end Sys2Proof.Machine

/-! SUPPORT. JOB, MVN, CLOSE and JST (R210, R211, R216 to R218, R224). -/

namespace Sys2Proof.Machine

/-! ### JOB (R210, R211, R217) -/

theorem execJob_ok {hv : Bool} {d e : Reg} {cn : CtrNo} {s s1 u t : State} {x : JobSpec} (hissue : Issues (.job hv d e cn) false s s1)
    (hroom : Claims.jobRoom s1 cn) (hcard : readCard s1 (readS64 s1.gang e.toNat).toNat = (x, u)) (hsubmit : submitJob u cn hv d.toNat x = .ok t) :
    Completes (.job hv d e cn) s t := by
  refine issue_ok hissue ?_
  rw [withCtr_ok hroom.1, withScheduler_ok hroom.2]
  dsimp only
  rw [hcard]
  exact hsubmit

/-- A misaligned card (R217). -/
theorem job_misaligned {hv : Bool} {d e : Reg} {cn : CtrNo} {s s1 : State} (hissue : Issues (.job hv d e cn) false s s1)
    (hroom : Claims.jobRoom s1 cn) (halign : (readS64 s1.gang e.toNat).toNat % 128 ≠ 0) :
    ∃ t, Completes (.job hv d e cn) s t ∧
      Claims.submitted s1 t cn hv d.toNat ⟨.none, [], [], none, some (2, 0x13, (readS64 s1.gang e.toNat).toNat)⟩ := by
  obtain ⟨t, hsubmit, hsubmitted⟩ := submitJob_ok hroom.2 hv d.toNat (badCard 0x13 (readS64 s1.gang e.toNat).toNat) (cn := cn)
  exact ⟨t, execJob_ok hissue hroom (readCard_misaligned halign) hsubmit, hsubmitted⟩

/-- A card in the scratchpad (R210, R211, R217). -/
theorem job_scratch {hv : Bool} {d e : Reg} {cn : CtrNo} {s s1 : State} (hissue : Issues (.job hv d e cn) false s s1)
    (hroom : Claims.jobRoom s1 cn) {off : Nat} (halign : (readS64 s1.gang e.toNat).toNat % 128 = 0)
    (hplace : resolve (jobAp s1 (cardAgent s1)) 0 (readS64 s1.gang e.toNat).toNat 128 0 = .ok (.scratch off)) (herrors : s1.banks.errors = [])
    (hclean : s1.mem.scratchPoison = []) :
    let p := jobAp s1 (cardAgent s1)
    let bs := cellsRead s1.mem.scratch (scrKey p.core (p.scrBase + off)) 128
    ∃ t u, Completes (.job hv d e cn) s t ∧ u = { s1 with banks := u.banks, mmio := u.mmio, caches := u.caches, gang := u.gang } ∧
      u.gang = { s1.gang with arm := { s1.gang.arm with ltime := u.gang.arm.ltime } } ∧
      Claims.submitted u t cn hv d.toNat (cardJob (apCtx s1) bs) ∧
      (cardOk bs = false → (cardJob (apCtx s1) bs).res = some (5, 0, 0)) := by
  intro p bs
  obtain ⟨u, hread, hcard⟩ := readCard_scratch halign hplace herrors hclean
  have hcompletes := fun t => execJob_ok (t := t) hissue hroom hcard
  obtain ⟨b, m, c, time, rfl⟩ := hread
  obtain ⟨t, hsubmit, hsubmitted⟩ := submitJob_ok hroom.2 hv d.toNat (cardJob (apCtx s1) bs) (cn := cn)
    (s := { s1 with banks := b, mmio := m, caches := c, gang := { s1.gang with arm := { s1.gang.arm with ltime := time } } })
  exact ⟨t, _, hcompletes t hsubmit, rfl, rfl, hsubmitted, cardJob_malformed _⟩

/-! ### MVN (R224) -/

/-- The dimensions that an MVN may have. -/
theorem mvnDims_iff (n k g : Nat) :
    (decide (1 ≤ n) && decide (n ≤ 1048576) && decide (32 ≤ k) && decide (k ≤ 65536) && k % 32 == 0 && k % g == 0) = true ↔
      1 ≤ n ∧ n ≤ 2 ^ 20 ∧ 32 ≤ k ∧ k ≤ 2 ^ 16 ∧ k % 32 = 0 ∧ k % g = 0 := by
  simp only [Bool.and_eq_true, decide_eq_true_eq, beq_iff_eq, and_assoc]
  rfl

theorem mvnSubmits {fmt : BitVec 4} {fb : Bool} {bt : BitVec 5} {hv : Bool} {d : Reg} {aa ab : DescNo} {e : Reg} {cn : CtrNo} {s s1 : State}
    (hissue : Issues (.mvn fmt fb bt hv d aa ab e cn) false s s1) (hroom : Claims.jobRoom s1 cn) (hfreeA : owedDesc s1.gang aa.toNat = false)
    (hfreeB : owedDesc s1.gang ab.toNat = false) :
    let a := readA s1.gang aa.toNat
    let b := readA s1.gang ab.toNat
    let off := (readS s1.gang e.toNat).toNat
    let n := (readS s1.gang (e.toNat + 1)).toNat
    let k := (readS s1.gang (e.toNat + 2)).toNat
    let y := (readS s1.gang (e.toNat + 3)).toInt
    let bx : Span := ⟨descOvr b, descBase b, n * mvnRb fmt.toNat k⟩
    let out : Span := ⟨descOvr a, elemAddr a y, 4 * n⟩
    descEs a = 2 → descEs b = 0 → n * mvnRb fmt.toNat k ≤ descExtent b → 0 ≤ y → y + n ≤ descExtent a →
    apKind (apCtx s1) (descOvr b) (descBase b) = .glob → spanMeets (apCtx s1) bx 0 (2 ^ 40) = false →
    apKind (apCtx s1) (descOvr a) (elemAddr a y) = .scratch ∨ apKind (apCtx s1) (descOvr a) (elemAddr a y) = .bank →
    off + k * mvnEs fmt.toNat ≤ (apCtx s1).scrSize → off % 4 = 0 →
    ∃ t, Completes (.mvn fmt fb bt hv d aa ab e cn) s t ∧ Claims.submitted s1 t cn hv d.toNat
      ⟨.mvn fmt.toNat fb bx off n k out (readS s1.gang (e.toNat + 4)).toNat,
        spanRegions (apCtx s1) [bx, ⟨2, off, k * mvnEs fmt.toNat⟩], spanRegions (apCtx s1) [out], if bt = 0 then none else some (bt.toNat - 1),
        if 1 ≤ n ∧ n ≤ 2 ^ 20 ∧ 32 ≤ k ∧ k ≤ 2 ^ 16 ∧ k % 32 = 0 ∧ k % mvnG fmt.toNat = 0 then none else some (5, 0, 0)⟩ := by
  intro a b off n k y bx out hsizeA hsizeB hrows hy hyEnd hglob hclear hout hvec halign
  obtain ⟨t, hsubmit, hsubmitted⟩ := submitJob_ok hroom.2 hv d.toNat (cn := cn)
    ⟨.mvn fmt.toNat fb bx off n k out (readS s1.gang (e.toNat + 4)).toNat, spanRegions (apCtx s1) [bx, ⟨2, off, k * mvnEs fmt.toNat⟩],
      spanRegions (apCtx s1) [out], if bt = 0 then none else some (bt.toNat - 1),
      if 1 ≤ n ∧ n ≤ 2 ^ 20 ∧ 32 ≤ k ∧ k ≤ 2 ^ 16 ∧ k % 32 = 0 ∧ k % mvnG fmt.toNat = 0 then none else some (5, 0, 0)⟩
  refine ⟨t, issue_ok hissue (?_ : mvnBody fmt.toNat fb bt hv d.toNat aa ab e.toNat cn s1 = .ok t), hsubmitted⟩
  have hrowsIn : rangeOutside 0 (n * mvnRb fmt.toNat k) (descExtent b) = none := rangeOutside_within le_rfl (by omega)
  have hyIn : rangeOutside y n (descExtent a) = none := rangeOutside_within hy hyEnd
  have hglobal : ¬(apKind (apCtx s1) (descOvr b) (descBase b) ≠ .glob ∨ spanMeets (apCtx s1) bx 0 (2 ^ 40) = true) := by
    rw [hglob, hclear]
    decide
  have hlocal : ¬(apKind (apCtx s1) (descOvr a) (elemAddr a y) ≠ .scratch ∧ apKind (apCtx s1) (descOvr a) (elemAddr a y) ≠ .bank) :=
    fun ⟨hscratch, hbank⟩ => hout.elim hscratch hbank
  unfold mvnBody
  rw [withCtr_ok hroom.1, withDesc_ok hfreeA, withDesc_ok hfreeB, withScheduler_ok hroom.2]
  dsimp only
  rw [if_neg (by simp [hsizeA, hsizeB] : ¬(descEs a ≠ 2 ∨ descEs b ≠ 0)), hrowsIn, hyIn]
  dsimp only
  rw [if_neg hglobal, if_neg hlocal, if_neg (fun h => absurd h.2 (Nat.not_lt.2 hvec)), if_neg (not_not.2 halign)]
  simp only [mvnDims_iff]
  exact hsubmit

/-! ### CLOSE (R216) -/

theorem close_nothing {e : Reg} {cn : CtrNo} {s s1 : State} (hissue : Issues (.close e cn) false s s1)
    (hroom : (outstanding s1.gang cn.toNat).length < 32767)
    (hnone : ∀ j, jobOfHandle s1 (readS s1.gang e.toNat).toNat = some j → j.ctx ≠ s1.gang.ctx ∨ j.st = .complete ∨ isBulk j = false) :
    ∃ t p, Completes (.close e cn) s t ∧ Claims.issuedOn s1 t cn.toNat p ∧ Claims.performed p ∧ t.jobs = s1.jobs ∧ t.mem = s1.mem := by
  have hstart := started_startOp s1 cn .mem [] [] true
  refine ⟨_, _, issue_ok hissue ((withCtr_ok hroom _).trans ?_), hstart.issued, performed_startedOp .., by rw [startOp_eq], hstart.mem⟩
  dsimp only
  cases hj : jobOfHandle s1 (readS s1.gang e.toNat).toNat with
  | none => rfl
  | some j =>
    have hkept : ¬(j.ctx = s1.gang.ctx ∧ j.st ≠ .complete ∧ isBulk j = true) := by
      rintro ⟨hctx, hst, hbulk⟩
      obtain hother | hdone | hplain := hnone j hj
      · exact hother hctx
      · exact hst hdone
      · simp [hbulk] at hplain
    dsimp only
    rw [if_neg hkept]

/-- A queued job has copied nothing (R216). -/
theorem closeJob_queued {s : State} {j : Job} (h : j.st = .queued) : closeJob s j = completeJob s j.serial 1 0 0 := by
  unfold closeJob
  rw [h]

theorem close_queued {e : Reg} {cn : CtrNo} {s s1 : State} {j : Job} (hissue : Issues (.close e cn) false s s1) (hlive : s1.live = true)
    (hroom : (outstanding s1.gang cn.toNat).length < 32767) (hj : jobOfHandle s1 (readS s1.gang e.toNat).toNat = some j)
    (hctx : j.ctx = s1.gang.ctx) (hst : j.st = .queued) (hbulk : isBulk j = true)
    (hfind : s1.jobs.list.find? (fun k => k.serial == j.serial) = some j) :
    ∃ t p k, Completes (.close e cn) s t ∧ p ∈ t.gang.ops ∧ p.ctr = cn.toNat ∧ Claims.performed p ∧ t.mem = s1.mem ∧
      t.gang.v = s1.gang.v ∧ t.gang.s = s1.gang.s ∧
      t.jobs.list.find? (fun k => k.serial == j.serial) = some k ∧ k.st = .complete ∧ k.res = some (1, 0, 0) := by
  have hended := completeJob_ended hlive hfind 1 0 0
  obtain ⟨k, hk, hkst, hkres, -⟩ := hended.job
  have hbody : execClose e cn s = .next (afterIssue (advance (startOp (completeJob s1 j.serial 1 0 0) cn .mem [] [] true).2.2 (.close e cn))) := by
    refine issue_ok hissue ((withCtr_ok hroom _).trans ?_)
    dsimp only
    rw [hj]
    dsimp only
    rw [if_pos ⟨hctx, by simp [hst], hbulk⟩, closeJob_queued hst]
  generalize completeJob s1 j.serial 1 0 0 = u at hended hk hbody
  have hstart := started_startOp u cn .mem [] [] true
  refine ⟨_, _, k, hbody, hstart.mem_ops, hstart.ctr, performed_startedOp .., hstart.mem.trans hended.mem, hstart.sameV.trans hended.vectors,
    hstart.sameS.trans hended.scalars, ?_, hkst, hkres⟩
  rw [startOp_eq]
  exact hk

/-! ### JST (R218) -/

/-- The first word of an answer about a complete job. -/
def doneWord (st why : Nat) : Nat := 2 * 2 ^ 30 + st * 2 ^ 16 + (if st = 2 then why * 2 ^ 8 else 0)

theorem doneWord_fields {st why : Nat} (hst : st < 8) (hwhy : why < 256) :
    (BitVec.ofNat 32 (doneWord st why)).extractLsb' 30 2 = 2 ∧ ((BitVec.ofNat 32 (doneWord st why)).extractLsb' 16 14).toNat = st ∧
      (st = 2 → ((BitVec.ofNat 32 (doneWord st why)).extractLsb' 8 8).toNat = why) := by
  have hword : (doneWord st why) < 2 ^ 32 := by
    unfold doneWord
    split <;> omega
  refine ⟨?_, ?_, fun h => ?_⟩
  · apply BitVec.eq_of_toNat_eq
    change _ = 2
    simp only [BitVec.extractLsb'_toNat, BitVec.toNat_ofNat, Nat.mod_eq_of_lt hword, Nat.shiftRight_eq_div_pow]
    unfold doneWord
    split <;> omega
  · simp only [BitVec.extractLsb'_toNat, BitVec.toNat_ofNat, Nat.mod_eq_of_lt hword, Nat.shiftRight_eq_div_pow]
    unfold doneWord
    split <;> omega
  · simp only [BitVec.extractLsb'_toNat, BitVec.toNat_ofNat, Nat.mod_eq_of_lt hword, Nat.shiftRight_eq_div_pow]
    unfold doneWord
    rw [if_pos h]
    omega

theorem jstAnswer_none {s : State} {h : Nat} (hj : jobOfHandle s h = none) : jstAnswer s h = (3 * 2 ^ 30, 0) := by
  rw [jstAnswer, hj]

theorem jstAnswer_foreign {s : State} {h : Nat} {j : Job} (hj : jobOfHandle s h = some j) (hctx : j.ctx ≠ s.gang.ctx) :
    jstAnswer s h = (3 * 2 ^ 30, 0) := by
  rw [jstAnswer, hj]
  exact if_pos hctx

theorem jstAnswer_own {s : State} {h : Nat} {j : Job} (hj : jobOfHandle s h = some j) (hctx : j.ctx = s.gang.ctx) : jstAnswer s h =
    (match j.st with
      | .queued => 0
      | .running => 2 ^ 30
      | .complete => doneWord (j.res.getD (0, 0, 0)).1 (j.res.getD (0, 0, 0)).2.1, j.latency) := by
  rw [jstAnswer, hj]
  refine (if_neg (not_not.2 hctx)).trans ?_
  cases j.st <;> rfl

theorem jstAnswers {d e : Reg} {cn : CtrNo} {s s1 : State} (hissue : Issues (.jst d e cn) false s s1)
    (hroom : (outstanding s1.gang cn.toNat).length < 32767) :
    ∃ t p x y, Completes (.jst d e cn) s t ∧ Claims.issuedOn s1 t cn.toNat p ∧ p.done = true ∧ p.landed = false ∧
      p.lands = [⟨false, d.toNat, 0, x⟩, ⟨false, d.toNat + 1, 0, y⟩] ∧ t.mem = s1.mem ∧ t.jobs = s1.jobs ∧
      (jobOfHandle s1 (readS s1.gang e.toNat).toNat = none → x = 0xC0000000 ∧ y = 0) ∧
      ∀ j, jobOfHandle s1 (readS s1.gang e.toNat).toNat = some j →
        (j.ctx ≠ s1.gang.ctx → x = 0xC0000000 ∧ y = 0) ∧
        (j.ctx = s1.gang.ctx → y = BitVec.ofNat 32 j.latency ∧ (j.st = .queued → x = 0) ∧ (j.st = .running → x = 0x40000000) ∧
          ∀ st why fa, j.st = .complete → j.res = some (st, why, fa) → st < 8 → why < 256 →
            x.extractLsb' 30 2 = 2 ∧ (x.extractLsb' 16 14).toNat = st ∧ (st = 2 → (x.extractLsb' 8 8).toNat = why)) := by
  have hstart := started_startOp s1 cn .mem
    [⟨false, d.toNat, 0, BitVec.ofNat 32 (jstAnswer s1 (readS s1.gang e.toNat).toNat).1⟩,
      ⟨false, d.toNat + 1, 0, BitVec.ofNat 32 (jstAnswer s1 (readS s1.gang e.toNat).toNat).2⟩]
    [(false, d.toNat, Shadow.top), (false, d.toNat + 1, Shadow.top)] true
  refine ⟨_, _, _, _, issue_ok hissue (withCtr_ok hroom _), hstart.issued, rfl, rfl, rfl, hstart.mem, by rw [startOp_eq], fun hnone => ?_,
    fun j hj => ⟨fun hctx => ?_, fun hctx => ?_⟩⟩
  · rw [jstAnswer_none hnone]
    decide
  · rw [jstAnswer_foreign hj hctx]
    decide
  · rw [jstAnswer_own hj hctx]
    refine ⟨rfl, fun hst => ?_, fun hst => ?_, fun st why fa hst hres hlow hhigh => ?_⟩
    · rw [hst]
      rfl
    · rw [hst]
      exact (by decide : BitVec.ofNat 32 (2 ^ 30) = 0x40000000)
    · rw [hst, hres]
      exact doneWord_fields hlow hhigh

theorem jobInstructions : Claims.JobInstructions := by
  refine ⟨fun hv d e cn s s1 hissue hroom => ⟨job_misaligned hissue hroom, fun off => job_scratch hissue hroom⟩,
    fun fmt fb bt hv d aa ab e cn s s1 hissue hroom hfreeA hfreeB => mvnSubmits hissue hroom hfreeA hfreeB,
    fun e cn s s1 hissue hroom hnone => close_nothing hissue hroom hnone,
    fun e cn s s1 j hissue hroom hj hctx hst hbulk hfind => ?_,
    fun d e cn s s1 hissue hroom => jstAnswers hissue hroom⟩
  obtain rfl := eq_of_issues hissue (strm_uB e.toNat 1)
  exact close_queued hissue hissue.live hroom hj hctx hst hbulk hfind

/-- Settles O40: a scheduler with room has a free entry, and a submission changes little more than its list of jobs and the gang's operations. -/
theorem jobSubmission : Obligations.JobSubmission := ⟨copySubmission, jobInstructions⟩

end Sys2Proof.Machine
